-- ==== Sys2Proof/Word.lean ====
section
/-! DEFINITION. The words of the machine and the names of its places: 64-bit tokens, bytes, the
location of a context, core, polder or device (spec/01 R8-R10), and little-endian splitting (spec/00 R3). -/

namespace Sys2Proof

/-- A 64-bit token or word (spec/02: a token is a 64-bit value). -/
abbrev W64 := BitVec 64
/-- A 32-bit instruction or header word (spec/02 R44). -/
abbrev W32 := BitVec 32
/-- The smallest addressable unit (spec/00 R3). -/
abbrev Byte := BitVec 8

/-- The place of an agent: device, polder index (spec/01 R9), core and context. A polder is named with
`core = ctx = 0`, a core with `ctx = 0`, a device with all but `dev` zero. -/
structure Loc where
  dev : Nat
  pidx : Nat
  core : Nat
  ctx : Nat
  deriving DecidableEq, Repr, Inhabited

/-- The core a context belongs to. -/
def Loc.toCore (l : Loc) : Loc := { l with ctx := 0 }
/-- The polder an agent belongs to. -/
def Loc.toPolder (l : Loc) : Loc := { l with core := 0, ctx := 0 }
/-- The device an agent belongs to. -/
def Loc.toDev (l : Loc) : Loc := { dev := l.dev, pidx := 0, core := 0, ctx := 0 }
/-- The polder `i` of device `d`. -/
def Loc.polderOf (d i : Nat) : Loc := { dev := d, pidx := i, core := 0, ctx := 0 }
/-- The device `d`. -/
def Loc.device (d : Nat) : Loc := { dev := d, pidx := 0, core := 0, ctx := 0 }
/-- Compute die of a polder, from its index (R9). -/
def Loc.die (l : Loc) : Nat := l.pidx / 96
/-- Polder row (R9). -/
def Loc.py (l : Loc) : Nat := l.pidx % 96 / 12
/-- Polder column (R9). -/
def Loc.px (l : Loc) : Nat := l.pidx % 12
/-- The polder index of (die, x, y) (R9). -/
def polderIndex (die x y : Nat) : Nat := die * 96 + y * 12 + x
/-- Rows 2 and 5 are narrow polders (R9). -/
def Loc.narrow (l : Loc) : Bool := l.py == 2 || l.py == 5

/-- A byte place in some polder: mesh space (R24) and offset within it (R25). -/
structure Place where
  owner : Loc
  space : Nat
  off : Nat
  deriving DecidableEq, Repr, Inhabited

/-- The low `n` bytes of a number, lowest first (R3). -/
def bytesOf : Nat → Nat → List Byte
  | 0, _ => []
  | n + 1, v => BitVec.ofNat 8 (v % 256) :: bytesOf n (v / 256)

/-- The number that a list of bytes holds, lowest first (R3). -/
def natOfBytes : List Byte → Nat
  | [] => 0
  | b :: bs => b.toNat + 256 * natOfBytes bs

/-- Bits `[h:l]` of a number (R3). -/
def bits (v h l : Nat) : Nat := v / 2 ^ l % 2 ^ (h + 1 - l)
/-- Bit `i` of a number. -/
def bit (v i : Nat) : Bool := v / 2 ^ i % 2 == 1
/-- `v` shifted to bit `l`, cut to `w` bits: one field of a layout. -/
def field (v w l : Nat) : Nat := v % 2 ^ w * 2 ^ l
/-- The two's-complement reading of the low `w` bits. -/
def signedOf (w v : Nat) : Int :=
  let u := v % 2 ^ w
  if u < 2 ^ (w - 1) then (u : Int) else (u : Int) - (2 ^ w : Nat)
/-- The low `w` bits of an integer, as an unsigned number. -/
def wrapOf (w : Nat) (v : Int) : Nat := (v % ((2 ^ w : Nat) : Int)).toNat
/-- `v` rounded up to a multiple of `m`. -/
def roundUp (v m : Nat) : Nat := (v + m - 1) / m * m
/-- ceil(v / m). -/
def ceilDiv (v m : Nat) : Nat := (v + m - 1) / m
/-- A word from a number. -/
def w64 (v : Nat) : W64 := BitVec.ofNat 64 v
/-- 1 for true and 0 for false. -/
def boolNat (b : Bool) : Nat := if b then 1 else 0
/-- The bytes of a list from offset `i`, `n` of them, zero where the list has ended. -/
def sliceBytes (bs : List Byte) (i n : Nat) : List Byte :=
  (List.range n).map fun k => bs.getD (i + k) 0#8
/-- The little-endian number of `n` bytes of a list at offset `i`. -/
def numAt (bs : List Byte) (i n : Nat) : Nat := natOfBytes (sliceBytes bs i n)
/-- A list with element `i` replaced. -/
def setAt {α : Type} (xs : List α) (i : Nat) (v : α) : List α := xs.set i v

end Sys2Proof
end

