-- ==== Sys2Proof/Operand.lean ====
section
/-! DEFINITION. The operand shapes of the two instruction sets: predicates, targets and tokens of Brynrid
(spec/02 R34-R36, R44-R46), member names of the families (R48), and the RV32IMC base instructions of the
slice core (spec/10 R240). -/

namespace Sys2Proof

/-- The predicate field `pr` (R46); the code 11 is illegal and has no constructor. -/
inductive Pred where
  | always | onTrue | onFalse
  deriving DecidableEq, Repr, Inhabited

/-- The three operands of an instruction (R34). -/
inductive Opnd where
  | l | r | x
  deriving DecidableEq, Repr, Inhabited

/-- A target field (R45): none, or an operand of a slot. -/
inductive Target where
  | none
  | into (o : Opnd) (slot : BitVec 7)
  deriving DecidableEq, Repr, Inhabited

/-- A token travelling to an operand: a null or a 64-bit value (R34, R36). -/
inductive Token where
  | null
  | val (v : W64)
  deriving DecidableEq, Repr, Inhabited

/-- Scopes (spec/05 R106); codes 6 and 7 are reserved. -/
inductive Scope where
  | ctx | core | polder | die | dev | pod
  deriving DecidableEq, Repr, Inhabited

/-- Kinds of FENCE (R117). -/
inductive FenceKind where
  | full | acq | rel | lb
  deriving DecidableEq, Repr, Inhabited

/-- Conditions of CMP and CMPI (spec/04 R92). -/
inductive Cond where
  | eq | ne | lt | ge | ltn | gen | tst
  deriving DecidableEq, Repr, Inhabited

/-- Members of the AMO family (spec/05 R134). -/
inductive AmoOp where
  | add | and | or | xor | min | max | minn | maxn | swap | cas | casx | fadd | faddd | decz | add32 | cas32
  deriving DecidableEq, Repr, Inhabited

/-- The four AMO opcodes differ in their ordering (R137). -/
inductive AmoOrder where
  | relaxed | acquire | release | both
  deriving DecidableEq, Repr, Inhabited

/-- Conversion pairs of FCVT, destination first (spec/07 R161). -/
inductive CvtPair where
  | f32f64 | f64f32 | f16f32 | f32f16 | bf16f32 | f32bf16 | e4m3f32 | e5m2f32 | f32e4m3 | f32e5m2
  | e3m2f32 | e2m3f32 | e2m1f32 | f32e3m2 | f32e2m3 | f32e2m1 | i64f64 | n64f64 | f64i64 | f64n64
  | i32f32 | n32f32 | f32i32 | f32n32 | i32f64 | f64i32 | e8m0f32 | f32e8m0
  deriving DecidableEq, Repr, Inhabited

/-- Functions of the special-function unit (R162). -/
inductive SfnFn where
  | exp2 | log2 | rcp | rsq | sin | cos | tanh | sigm
  deriving DecidableEq, Repr, Inhabited

/-- Conditions of VCMP (R179). -/
inductive VCond where
  | eq | ne | lt | le | gt | ge
  deriving DecidableEq, Repr, Inhabited

/-- Code tables of VENC (R184). -/
inductive CodeTable where
  | t0 | t1 | t2 | t3 | auto
  deriving DecidableEq, Repr, Inhabited

/-- Format pairs of MMA and MROT (spec/08 R188). -/
inductive MmaPair where
  | dd | ss | bb | hh | ee | ev | vv | bk | ek | qq | xx | yy | ii | nn
  deriving DecidableEq, Repr, Inhabited

/-- Integer members of the IOP family (spec/04 R48, R87). -/
inductive Iop where
  | add | sub | and | or | xor | andn | shl | shr | sra | rol | ror | mul | mulh | mulhn | div | divn | rem
  | remn | min | max | minn | maxn | clz | ctz | popc | addsat | subsat | absd
  deriving DecidableEq, Repr, Inhabited

/-- Members of the FD and FS families (spec/07 R159). -/
inductive Fop where
  | add | sub | mul | div | sqrt | min | max | neg | abs | eq | lt | le | cls | sgnj
  deriving DecidableEq, Repr, Inhabited

/-- Vector operations: VOP members, VFMA, VUN members and the rest (R173-R185). -/
inductive Vop where
  | add | sub | mul | div | min | max | and | or | xor | shl | shr | fma | neg | abs | cpy
  | exp2 | log2 | rcp | rsq | tanh | sigm | sin | cos | redSum | redMax | redMin | redAmax | scanInc | scanExc
  | gath | scat | msk | bcast | popaNone | popaRelu | popaClamp | cmp (c : VCond) | sel | permRev | permIntl
  | permDintl | permRot | qnt | enc (t : CodeTable) | dec
  deriving DecidableEq, Repr, Inhabited

/-- Members of MACC that enter the ring (spec/08 R204). -/
inductive MaccOp where
  | zero | reclaim | park | loada | storea
  deriving DecidableEq, Repr, Inhabited

/-- Branch conditions of RV32I. -/
inductive RvCond where
  | beq | bne | blt | bge | bltu | bgeu
  deriving DecidableEq, Repr, Inhabited
/-- Register-register and register-immediate operations of RV32I and M. -/
inductive RvOp where
  | add | sub | sll | slt | sltu | xor | srl | sra | or | and
  | mul | mulh | mulhsu | mulhu | div | divu | rem | remu
  deriving DecidableEq, Repr, Inhabited
/-- Load widths of RV32I. -/
inductive RvLoad where
  | lb | lh | lw | lbu | lhu
  deriving DecidableEq, Repr, Inhabited
/-- Store widths of RV32I. -/
inductive RvStore where
  | sb | sh | sw
  deriving DecidableEq, Repr, Inhabited
/-- CSR operations that the slice core admits (spec/10 R240, R241). -/
inductive RvCsr where
  | rw | rs | rc
  deriving DecidableEq, Repr, Inhabited

/-- A base instruction of the slice core: RV32IMC as ratified, with the limits of R240. A compressed
instruction is the base instruction it stands for; `len` is its length in bytes. -/
inductive RvInstr where
  | lui (rd : BitVec 5) (imm : BitVec 20)
  | auipc (rd : BitVec 5) (imm : BitVec 20)
  | jal (rd : BitVec 5) (off : BitVec 32)
  | jalr (rd rs1 : BitVec 5) (off : BitVec 32)
  | branch (c : RvCond) (rs1 rs2 : BitVec 5) (off : BitVec 32)
  | load (w : RvLoad) (rd rs1 : BitVec 5) (off : BitVec 32)
  | store (w : RvStore) (rs1 rs2 : BitVec 5) (off : BitVec 32)
  | opImm (o : RvOp) (rd rs1 : BitVec 5) (imm : BitVec 32)
  | op (o : RvOp) (rd rs1 rs2 : BitVec 5)
  | fence
  | fenceI
  | csr (o : RvCsr) (rd : BitVec 5) (num : BitVec 12) (rs1 : BitVec 5)
  | csrImm (o : RvCsr) (rd : BitVec 5) (num : BitVec 12) (imm : BitVec 5)
  | illegal
  deriving DecidableEq, Repr, Inhabited

end Sys2Proof
end

