-- ==== Sys2Proof/Syntax.lean ====
section
/-! DEFINITION. The instructions and events of the machine: one constructor per row of spec/opcode_table.json.
An encoded row is a Brynrid or slice-extension instruction (spec/02 R44-R48, spec/10 R242); a row without an
encoding is a step of the part (spec/95): its constructor has no operands, as its row has no fields, and the packet,
place or agent that the step is about stands in the state (`Event`). -/

namespace Sys2Proof

/-- The instructions and steps of the hardware. Each docstring gives the rule and the table's summary. -/
inductive Instr where
  /-- READ (R78): Reads one register as of the previous block boundary, or pops a queue or port entry, and delivers it to up to two slots. -/
  | read (r : BitVec 5) (t1 : Target) (t0 : Target)
  /-- WRITE (R79): Marks a register written and gives it a pending value that takes effect at commit. -/
  | write (p : Pred) (r : BitVec 5)
  /-- CONST (R81): Delivers a sign-extended 16-bit constant when the block begins. -/
  | const (k : BitVec 16) (t0 : Target)
  /-- CONSTH (R82): Shifts its operand left by 16 and appends a 16-bit constant. -/
  | consth (k : BitVec 16) (t0 : Target)
  /-- MOV2 (R83): Copies its operand token to two slots. -/
  | mov2 (p : Pred) (t1 : Target) (t0 : Target)
  /-- NULL (R84): Delivers null tokens to its targets. -/
  | null (p : Pred) (t1 : Target) (t0 : Target)
  /-- SEL (R85): Delivers the left or right token according to bit 0 of the selector. -/
  | sel (t1 : Target) (t0 : Target)
  /-- ADD (R87): Delivers l + r modulo 2^64. -/
  | add (p : Pred) (t1 : Target) (t0 : Target)
  /-- SUB (R87): Delivers l − r modulo 2^64. -/
  | sub (p : Pred) (t1 : Target) (t0 : Target)
  /-- AND (R87): Delivers the bitwise AND of l and r. -/
  | and (p : Pred) (t1 : Target) (t0 : Target)
  /-- OR (R87): Delivers the bitwise OR of l and r. -/
  | or (p : Pred) (t1 : Target) (t0 : Target)
  /-- XOR (R87): Delivers the bitwise XOR of l and r. -/
  | xor (p : Pred) (t1 : Target) (t0 : Target)
  /-- ANDN (R87): Delivers l AND NOT r. -/
  | andn (p : Pred) (t1 : Target) (t0 : Target)
  /-- SHL (R88): Shifts l left by the whole unsigned r, giving 0 for 64 or more. -/
  | shl (p : Pred) (t1 : Target) (t0 : Target)
  /-- SHR (R88): Shifts l right logically by the whole unsigned r. -/
  | shr (p : Pred) (t1 : Target) (t0 : Target)
  /-- SRA (R88): Shifts l right arithmetically by the whole unsigned r. -/
  | sra (p : Pred) (t1 : Target) (t0 : Target)
  /-- ROL (R87): Rotates l left by r mod 64. -/
  | rol (p : Pred) (t1 : Target) (t0 : Target)
  /-- ROR (R87): Rotates l right by r mod 64. -/
  | ror (p : Pred) (t1 : Target) (t0 : Target)
  /-- MUL (R87): Delivers the low 64 bits of l × r. -/
  | mul (p : Pred) (t1 : Target) (t0 : Target)
  /-- MULH (R87): Delivers the high 64 bits of the signed product. -/
  | mulh (p : Pred) (t1 : Target) (t0 : Target)
  /-- MULHN (R87): Delivers the high 64 bits of the unsigned product. -/
  | mulhn (p : Pred) (t1 : Target) (t0 : Target)
  /-- DIV (R89): Delivers the signed quotient truncated toward zero, with the special cases of division by zero and overflow. -/
  | div (p : Pred) (t1 : Target) (t0 : Target)
  /-- DIVN (R89): Delivers the unsigned quotient, all ones on division by zero. -/
  | divn (p : Pred) (t1 : Target) (t0 : Target)
  /-- REM (R89): Delivers the signed remainder with the sign of the dividend. -/
  | rem (p : Pred) (t1 : Target) (t0 : Target)
  /-- REMN (R89): Delivers the unsigned remainder, l on division by zero. -/
  | remn (p : Pred) (t1 : Target) (t0 : Target)
  /-- MIN (R87): Delivers the signed minimum of l and r. -/
  | min (p : Pred) (t1 : Target) (t0 : Target)
  /-- MAX (R87): Delivers the signed maximum of l and r. -/
  | max (p : Pred) (t1 : Target) (t0 : Target)
  /-- MINN (R87): Delivers the unsigned minimum of l and r. -/
  | minn (p : Pred) (t1 : Target) (t0 : Target)
  /-- MAXN (R87): Delivers the unsigned maximum of l and r. -/
  | maxn (p : Pred) (t1 : Target) (t0 : Target)
  /-- CLZ (R87): Delivers the number of leading zero bits of l. -/
  | clz (p : Pred) (t1 : Target) (t0 : Target)
  /-- CTZ (R87): Delivers the number of trailing zero bits of l. -/
  | ctz (p : Pred) (t1 : Target) (t0 : Target)
  /-- POPC (R87): Delivers the number of one bits of l. -/
  | popc (p : Pred) (t1 : Target) (t0 : Target)
  /-- ADDSAT (R87): Delivers the signed sum clamped to the 64-bit range. -/
  | addsat (p : Pred) (t1 : Target) (t0 : Target)
  /-- SUBSAT (R87): Delivers the signed difference clamped to the 64-bit range. -/
  | subsat (p : Pred) (t1 : Target) (t0 : Target)
  /-- ABSD (R87): Delivers the exact absolute signed difference as an unsigned value. -/
  | absd (p : Pred) (t1 : Target) (t0 : Target)
  /-- ADDW (R90): Adds the low 32 bits and sign-extends the result. -/
  | addw (p : Pred) (t1 : Target) (t0 : Target)
  /-- SUBW (R90): Subtracts the low 32 bits and sign-extends the result. -/
  | subw (p : Pred) (t1 : Target) (t0 : Target)
  /-- ANDW (R90): ANDs the low 32 bits and sign-extends the result. -/
  | andw (p : Pred) (t1 : Target) (t0 : Target)
  /-- ORW (R90): ORs the low 32 bits and sign-extends the result. -/
  | orw (p : Pred) (t1 : Target) (t0 : Target)
  /-- XORW (R90): XORs the low 32 bits and sign-extends the result. -/
  | xorw (p : Pred) (t1 : Target) (t0 : Target)
  /-- ANDNW (R90): Computes l AND NOT r on 32 bits and sign-extends it. -/
  | andnw (p : Pred) (t1 : Target) (t0 : Target)
  /-- SHLW (R90): Shifts the low 32 bits left, testing the whole r against 32. -/
  | shlw (p : Pred) (t1 : Target) (t0 : Target)
  /-- SHRW (R90): Shifts the low 32 bits right logically and sign-extends. -/
  | shrw (p : Pred) (t1 : Target) (t0 : Target)
  /-- SRAW (R90): Shifts the low 32 bits right arithmetically and sign-extends. -/
  | sraw (p : Pred) (t1 : Target) (t0 : Target)
  /-- ROLW (R90): Rotates the low 32 bits left by r mod 32. -/
  | rolw (p : Pred) (t1 : Target) (t0 : Target)
  /-- RORW (R90): Rotates the low 32 bits right by r mod 32. -/
  | rorw (p : Pred) (t1 : Target) (t0 : Target)
  /-- MULW (R90): Multiplies the low 32 bits and sign-extends the low 32 bits of the product. -/
  | mulw (p : Pred) (t1 : Target) (t0 : Target)
  /-- DIVW (R90): Divides signed 32-bit operands and sign-extends the quotient. -/
  | divw (p : Pred) (t1 : Target) (t0 : Target)
  /-- DIVNW (R90): Divides unsigned 32-bit operands and sign-extends the quotient. -/
  | divnw (p : Pred) (t1 : Target) (t0 : Target)
  /-- REMW (R90): Delivers the signed 32-bit remainder, sign-extended. -/
  | remw (p : Pred) (t1 : Target) (t0 : Target)
  /-- REMNW (R90): Delivers the unsigned 32-bit remainder, sign-extended. -/
  | remnw (p : Pred) (t1 : Target) (t0 : Target)
  /-- CLZW (R90): Counts leading zeros within the low 32 bits. -/
  | clzw (p : Pred) (t1 : Target) (t0 : Target)
  /-- CTZW (R90): Counts trailing zeros within the low 32 bits. -/
  | ctzw (p : Pred) (t1 : Target) (t0 : Target)
  /-- POPCW (R90): Counts the one bits of the low 32 bits. -/
  | popcw (p : Pred) (t1 : Target) (t0 : Target)
  /-- ADDI (R91): Adds a sign-extended 14-bit immediate to l. -/
  | addi (p : Pred) (i : BitVec 14) (t0 : Target)
  /-- ANDI (R91): ANDs l with a sign-extended immediate. -/
  | andi (p : Pred) (i : BitVec 14) (t0 : Target)
  /-- ORI (R91): ORs l with a sign-extended immediate. -/
  | ori (p : Pred) (i : BitVec 14) (t0 : Target)
  /-- XORI (R91): XORs l with a sign-extended immediate. -/
  | xori (p : Pred) (i : BitVec 14) (t0 : Target)
  /-- SHLI (R91): Shifts l left by an immediate amount 0–63. -/
  | shli (p : Pred) (s : BitVec 6) (t0 : Target)
  /-- SHRI (R91): Shifts l right logically by an immediate amount. -/
  | shri (p : Pred) (s : BitVec 6) (t0 : Target)
  /-- SRAI (R91): Shifts l right arithmetically by an immediate amount. -/
  | srai (p : Pred) (s : BitVec 6) (t0 : Target)
  /-- MULI (R91): Multiplies l by a sign-extended immediate. -/
  | muli (p : Pred) (i : BitVec 14) (t0 : Target)
  /-- CMP (R92): Compares l with r under the coded condition and delivers 1 or 0. -/
  | cmp (p : Pred) (c : Cond) (t1 : Target) (t0 : Target)
  /-- CMPI (R92): Compares l with a sign-extended 11-bit immediate under the coded condition. -/
  | cmpi (p : Pred) (c : Cond) (i : BitVec 11) (t0 : Target)
  /-- LEA (R93): Delivers l + (r << s) for s from 0 to 7. -/
  | lea (p : Pred) (s : BitVec 3) (t1 : Target) (t0 : Target)
  /-- EXT (R94): Extracts a bit field of l, zero- or sign-extended. -/
  | ext (p : Pred) (g : BitVec 1) (l : BitVec 6) (s : BitVec 6) (t0 : Target)
  /-- INS (R95): Inserts the low bits of r into l at the position and length given by x. -/
  | ins (t1 : Target) (t0 : Target)
  /-- BR (R97): Exit that chooses the block at a 32-byte offset from the current block. -/
  | br (p : Pred) (e : BitVec 3) (o : BitVec 20)
  /-- BRL (R97): Exit that chooses the block at the address in l. -/
  | brl (p : Pred) (e : BitVec 3)
  /-- CALL (R97): Exit to an offset that also writes the return block address to w15 at commit. -/
  | call (p : Pred) (e : BitVec 3) (o : BitVec 20)
  /-- CALLL (R97): Exit to the address in l that also writes the return block address to w15. -/
  | calll (p : Pred) (e : BitVec 3)
  /-- RET (R97): Exit to the address in l, used to drive the return predictor. -/
  | ret (p : Pred) (e : BitVec 3)
  /-- END (R99): Exit that ends the context after its completion duties and makes it DORMANT. -/
  | endExit (p : Pred) (e : BitVec 3)
  /-- SUSP (R100): Exit that suspends the context with a resume address. -/
  | susp (p : Pred) (e : BitVec 3) (o : BitVec 20)
  /-- MIGR (R102): Exit that packs the thread into a migration packet for the polder named by l. -/
  | migr (p : Pred) (e : BitVec 3) (o : BitVec 20)
  /-- LD8 (R112): Loads one byte, zero-extended. -/
  | ld8 (p : Pred) (l : BitVec 5) (i : BitVec 9) (t0 : Target)
  /-- LD16 (R112): Loads two bytes, zero-extended. -/
  | ld16 (p : Pred) (l : BitVec 5) (i : BitVec 9) (t0 : Target)
  /-- LD32 (R112): Loads four bytes, zero-extended. -/
  | ld32 (p : Pred) (l : BitVec 5) (i : BitVec 9) (t0 : Target)
  /-- LD64 (R112): Loads eight bytes. -/
  | ld64 (p : Pred) (l : BitVec 5) (i : BitVec 9) (t0 : Target)
  /-- LDS8 (R112): Loads one byte, sign-extended. -/
  | lds8 (p : Pred) (l : BitVec 5) (i : BitVec 9) (t0 : Target)
  /-- LDS16 (R112): Loads two bytes, sign-extended. -/
  | lds16 (p : Pred) (l : BitVec 5) (i : BitVec 9) (t0 : Target)
  /-- LDS32 (R112): Loads four bytes, sign-extended. -/
  | lds32 (p : Pred) (l : BitVec 5) (i : BitVec 9) (t0 : Target)
  /-- LDA (R113): Acquire load of 8 bytes at a named scope. -/
  | lda (p : Pred) (l : BitVec 5) (sc : Scope) (o : BitVec 6) (t0 : Target)
  /-- ST8 (R115): Home store of one byte performed at commit. -/
  | st8 (p : Pred) (l : BitVec 5) (i : BitVec 9)
  /-- ST16 (R115): Home store of two bytes performed at commit. -/
  | st16 (p : Pred) (l : BitVec 5) (i : BitVec 9)
  /-- ST32 (R115): Home store of four bytes performed at commit. -/
  | st32 (p : Pred) (l : BitVec 5) (i : BitVec 9)
  /-- ST64 (R115): Home store of eight bytes performed at commit. -/
  | st64 (p : Pred) (l : BitVec 5) (i : BitVec 9)
  /-- STL (R116): Release store of 8 bytes at a named scope. -/
  | stl (p : Pred) (l : BitVec 5) (sc : Scope) (o : BitVec 6)
  /-- FENCE (R118): Orders the context's accesses before and after it by kind and scope and delivers 0. -/
  | fence (p : Pred) (l : BitVec 5) (sc : Scope) (k : FenceKind) (t0 : Target)
  /-- PREF (R119): Requests a line into the L2 slice without faulting. -/
  | pref (p : Pred) (l : BitVec 5) (i : BitVec 9)
  /-- AMOAR (R137): Atomic of the member in xop, both acquire and release at pod scope. -/
  | amoar (p : Pred) (x : AmoOp) (t1 : Target) (t0 : Target)
  /-- GADV (R120): Advances a gauge at commit with release, faulting if the value does not increase, and evaluates watches. -/
  | gadv (p : Pred) (l : BitVec 5) (sc : Scope) (o : BitVec 6)
  /-- WATCH_TASK (R123): Registers a one-shot watch that enters a task record when the gauge reaches the threshold. -/
  | watchTask (t1 : Target) (t0 : Target)
  /-- WATCH_FUT (R123): Registers a one-shot watch that fills a future when the gauge reaches the threshold. -/
  | watchFut (t1 : Target) (t0 : Target)
  /-- WATCH_CANCEL (R126): Sends a watch handle to the owner after commit to free a matching armed entry. -/
  | watchCancel (p : Pred)
  /-- PULL (R129): Checks and dispatches a bulk copy from any address into home memory through the copy/pull engine. -/
  | pull
  /-- LISTEN (R132): Places a standing watch that pulls a buffer and raises a mirror gauge on each advance. -/
  | listen (p : Pred) (t1 : Target) (t0 : Target)
  /-- UNLISTEN (R133): Removes the listen with the matching handle after commit. -/
  | unlisten (p : Pred)
  /-- AMO (R134): Relaxed atomic of the member in xop, performed by the owner and delivering the old value. -/
  | amo (p : Pred) (x : AmoOp) (t1 : Target) (t0 : Target)
  /-- AMOAQ (R137): Acquire atomic of the member in xop at pod scope. -/
  | amoaq (p : Pred) (x : AmoOp) (t1 : Target) (t0 : Target)
  /-- AMORL (R137): Release atomic of the member in xop at pod scope. -/
  | amorl (p : Pred) (x : AmoOp) (t1 : Target) (t0 : Target)
  /-- FADD_D (R159): Adds two f64 values with rounding by cw.fm.rm. -/
  | faddD (p : Pred) (t1 : Target) (t0 : Target)
  /-- FSUB_D (R159): Subtracts two f64 values. -/
  | fsubD (p : Pred) (t1 : Target) (t0 : Target)
  /-- FMUL_D (R159): Multiplies two f64 values. -/
  | fmulD (p : Pred) (t1 : Target) (t0 : Target)
  /-- FDIV_D (R159): Divides two f64 values, raising dz on division by zero. -/
  | fdivD (p : Pred) (t1 : Target) (t0 : Target)
  /-- FSQRT_D (R159): Square root of an f64 value. -/
  | fsqrtD (p : Pred) (t1 : Target) (t0 : Target)
  /-- FMIN_D (R159): Smaller of two f64 values by the FMIN rule. -/
  | fminD (p : Pred) (t1 : Target) (t0 : Target)
  /-- FMAX_D (R159): Larger of two f64 values by the FMAX rule. -/
  | fmaxD (p : Pred) (t1 : Target) (t0 : Target)
  /-- FNEG_D (R159): Inverts the sign bit of an f64. -/
  | fnegD (p : Pred) (t1 : Target) (t0 : Target)
  /-- FABS_D (R159): Clears the sign bit of an f64. -/
  | fabsD (p : Pred) (t1 : Target) (t0 : Target)
  /-- FEQ_D (R159): Delivers 1 if two f64 values are equal. -/
  | feqD (p : Pred) (t1 : Target) (t0 : Target)
  /-- FLT_D (R159): Delivers 1 if l < r in f64. -/
  | fltD (p : Pred) (t1 : Target) (t0 : Target)
  /-- FLE_D (R159): Delivers 1 if l ≤ r in f64. -/
  | fleD (p : Pred) (t1 : Target) (t0 : Target)
  /-- FCLASS_D (R159): Delivers the class mask of an f64. -/
  | fclassD (p : Pred) (t1 : Target) (t0 : Target)
  /-- FSGNJ_D (R159): Gives l the sign of r in f64. -/
  | fsgnjD (p : Pred) (t1 : Target) (t0 : Target)
  /-- FADD_S (R159): Adds two f32 values. -/
  | faddS (p : Pred) (t1 : Target) (t0 : Target)
  /-- FSUB_S (R159): Subtracts two f32 values. -/
  | fsubS (p : Pred) (t1 : Target) (t0 : Target)
  /-- FMUL_S (R159): Multiplies two f32 values. -/
  | fmulS (p : Pred) (t1 : Target) (t0 : Target)
  /-- FDIV_S (R159): Divides two f32 values. -/
  | fdivS (p : Pred) (t1 : Target) (t0 : Target)
  /-- FSQRT_S (R159): Square root of an f32 value. -/
  | fsqrtS (p : Pred) (t1 : Target) (t0 : Target)
  /-- FMIN_S (R159): Smaller of two f32 values. -/
  | fminS (p : Pred) (t1 : Target) (t0 : Target)
  /-- FMAX_S (R159): Larger of two f32 values. -/
  | fmaxS (p : Pred) (t1 : Target) (t0 : Target)
  /-- FNEG_S (R159): Inverts the sign bit of an f32. -/
  | fnegS (p : Pred) (t1 : Target) (t0 : Target)
  /-- FABS_S (R159): Clears the sign bit of an f32. -/
  | fabsS (p : Pred) (t1 : Target) (t0 : Target)
  /-- FEQ_S (R159): Delivers 1 if two f32 values are equal. -/
  | feqS (p : Pred) (t1 : Target) (t0 : Target)
  /-- FLT_S (R159): Delivers 1 if l < r in f32. -/
  | fltS (p : Pred) (t1 : Target) (t0 : Target)
  /-- FLE_S (R159): Delivers 1 if l ≤ r in f32. -/
  | fleS (p : Pred) (t1 : Target) (t0 : Target)
  /-- FCLASS_S (R159): Delivers the class mask of an f32. -/
  | fclassS (p : Pred) (t1 : Target) (t0 : Target)
  /-- FSGNJ_S (R159): Gives l the sign of r in f32. -/
  | fsgnjS (p : Pred) (t1 : Target) (t0 : Target)
  /-- FMA_D (R160): Fused multiply-add in f64, rounded once. -/
  | fmaD (t1 : Target) (t0 : Target)
  /-- FMA_S (R160): Fused multiply-add in f32, rounded once. -/
  | fmaS (t1 : Target) (t0 : Target)
  /-- FCVT (R161): Converts l between the type pair selected by xop. -/
  | fcvt (p : Pred) (x : CvtPair) (t1 : Target) (t0 : Target)
  /-- SFN_EXP2 (R162): Special-function request computing 2^x of an f32. -/
  | sfnExp2 (p : Pred) (t1 : Target) (t0 : Target)
  /-- SFN_LOG2 (R162): Special-function request computing log2 x. -/
  | sfnLog2 (p : Pred) (t1 : Target) (t0 : Target)
  /-- SFN_RCP (R162): Special-function request computing 1/x. -/
  | sfnRcp (p : Pred) (t1 : Target) (t0 : Target)
  /-- SFN_RSQ (R162): Special-function request computing 1/√x. -/
  | sfnRsq (p : Pred) (t1 : Target) (t0 : Target)
  /-- SFN_SIN (R162): Special-function request computing sin x. -/
  | sfnSin (p : Pred) (t1 : Target) (t0 : Target)
  /-- SFN_COS (R162): Special-function request computing cos x. -/
  | sfnCos (p : Pred) (t1 : Target) (t0 : Target)
  /-- SFN_TANH (R162): Special-function request computing tanh x. -/
  | sfnTanh (p : Pred) (t1 : Target) (t0 : Target)
  /-- SFN_SIGM (R162): Special-function request computing the logistic sigmoid. -/
  | sfnSigm (p : Pred) (t1 : Target) (t0 : Target)
  /-- VADD (R173): Vector entry setting d[i] := a[i] + b[i]. -/
  | vadd
  /-- VSUB (R173): Vector entry setting d[i] := a[i] − b[i]. -/
  | vsub
  /-- VMUL (R173): Vector entry setting d[i] := a[i] × b[i]. -/
  | vmul
  /-- VDIV (R173): Vector entry setting d[i] := a[i] / b[i]. -/
  | vdiv
  /-- VMIN (R173): Vector entry setting d[i] to the minimum of a[i] and b[i]. -/
  | vmin
  /-- VMAX (R173): Vector entry setting d[i] to the maximum of a[i] and b[i]. -/
  | vmax
  /-- VAND (R173): Vector entry of bitwise AND on integers. -/
  | vand
  /-- VOR (R173): Vector entry of bitwise OR on integers. -/
  | vor
  /-- VXOR (R173): Vector entry of bitwise XOR on integers. -/
  | vxor
  /-- VSHL (R173): Vector entry shifting integer elements left. -/
  | vshl
  /-- VSHR (R173): Vector entry shifting integer elements right. -/
  | vshr
  /-- VFMA (R174): Vector entry setting d[i] := a[i] × b[i] + d[i], rounded once. -/
  | vfma
  /-- VNEG (R175): Vector entry negating each element. -/
  | vneg (p : Pred)
  /-- VABS (R175): Vector entry taking each element's absolute value. -/
  | vabs (p : Pred)
  /-- VCPY (R175): Vector entry copying elements converted to d's type. -/
  | vcpy (p : Pred)
  /-- VEXP2 (R175): Vector special-function entry computing 2^x. -/
  | vexp2 (p : Pred)
  /-- VLOG2 (R175): Vector special-function entry computing log2 x. -/
  | vlog2 (p : Pred)
  /-- VRCP (R175): Vector special-function entry computing 1/x. -/
  | vrcp (p : Pred)
  /-- VRSQ (R175): Vector special-function entry computing 1/√x. -/
  | vrsq (p : Pred)
  /-- VTANH (R175): Vector special-function entry computing tanh x. -/
  | vtanh (p : Pred)
  /-- VSIGM (R175): Vector special-function entry computing the sigmoid. -/
  | vsigm (p : Pred)
  /-- VSIN (R175): Vector special-function entry computing sin x. -/
  | vsin (p : Pred)
  /-- VCOS (R175): Vector special-function entry computing cos x. -/
  | vcos (p : Pred)
  /-- VRED_SUM (R176): Vector entry summing an array by the fixed tree into one element. -/
  | vredSum (p : Pred)
  /-- VRED_MAX (R176): Vector entry reducing an array to its maximum. -/
  | vredMax (p : Pred)
  /-- VRED_MIN (R176): Vector entry reducing an array to its minimum. -/
  | vredMin (p : Pred)
  /-- VRED_AMAX (R176): Vector entry reducing an array to its largest magnitude. -/
  | vredAmax (p : Pred)
  /-- VSCAN_INC (R177): Vector entry writing inclusive running sums. -/
  | vscanInc (p : Pred)
  /-- VSCAN_EXC (R177): Vector entry writing exclusive running sums. -/
  | vscanExc (p : Pred)
  /-- VGATH (R178): Vector entry gathering table elements by index. -/
  | vgath
  /-- VSCAT (R178): Vector entry scattering elements into a table by index. -/
  | vscat
  /-- VMSK (R179): Vector entry copying elements only in mask-on lanes. -/
  | vmsk
  /-- VBCAST (R180): Vector entry broadcasting a scalar token into every element. -/
  | vbcast (p : Pred)
  /-- VPOPA_NONE (R182): Vector entry narrowing an accumulator row to d with scaling only. -/
  | vpopaNone
  /-- VPOPA_RELU (R182): Vector entry narrowing an accumulator row with ReLU. -/
  | vpopaRelu
  /-- VPOPA_CLAMP (R182): Vector entry narrowing an accumulator row with clamping. -/
  | vpopaClamp
  /-- VCMP (R179): Vector entry writing 1 or 0 per lane under the coded comparison. -/
  | vcmp (c : VCond)
  /-- VSEL (R179): Vector entry copying mask-on lanes and zeroing the others. -/
  | vsel
  /-- VPERM_REV (R181): Vector entry reversing element order. -/
  | vpermRev (p : Pred)
  /-- VPERM_INTL (R181): Vector entry interleaving two halves. -/
  | vpermIntl (p : Pred)
  /-- VPERM_DINTL (R181): Vector entry de-interleaving even and odd elements. -/
  | vpermDintl (p : Pred)
  /-- VPERM_ROT (R181): Vector entry rotating elements by k. -/
  | vpermRot
  /-- VQNT (R183): Vector entry quantising rows to a narrow type with a sidecar scale per row. -/
  | vqnt (p : Pred)
  /-- VENC (R184): Vector entry encoding a k4m3 row stream and writing its length. -/
  | venc (n : CodeTable)
  /-- VDEC (R185): Vector entry decoding a k4m3 row stream into d. -/
  | vdec (p : Pred)
  /-- MMA_DD (R194): Matrix entry multiplying f64 tiles into an f64 accumulator slot. -/
  | mmaDd
  /-- MMA_SS (R194): Matrix entry multiplying f32 tiles. -/
  | mmaSs
  /-- MMA_BB (R194): Matrix entry multiplying bf16 tiles. -/
  | mmaBb
  /-- MMA_HH (R194): Matrix entry multiplying f16 tiles. -/
  | mmaHh
  /-- MMA_EE (R194): Matrix entry multiplying e4m3 by e4m3. -/
  | mmaEe
  /-- MMA_EV (R194): Matrix entry multiplying e4m3 by e5m2. -/
  | mmaEv
  /-- MMA_VV (R194): Matrix entry multiplying e5m2 by e5m2. -/
  | mmaVv
  /-- MMA_BK (R194): Matrix entry multiplying bf16 by coded k4m3. -/
  | mmaBk
  /-- MMA_EK (R194): Matrix entry multiplying e4m3 by coded k4m3. -/
  | mmaEk
  /-- MMA_QQ (R194): Matrix entry multiplying e2m1 tiles on a narrow engine. -/
  | mmaQq
  /-- MMA_XX (R194): Matrix entry multiplying e3m2 tiles on a narrow engine. -/
  | mmaXx
  /-- MMA_YY (R194): Matrix entry multiplying e2m3 tiles on a narrow engine. -/
  | mmaYy
  /-- MMA_II (R155): Matrix entry multiplying i8 tiles into an i32 slot. -/
  | mmaIi
  /-- MMA_NN (R155): Matrix entry multiplying i4 tiles into an i32 slot. -/
  | mmaNn
  /-- MROT (R200): Matrix entry that multiplies a format pair and pulls the torus neighbours' tiles into the second buffer. -/
  | mrot (f : MmaPair)
  /-- MACC_ZERO (R204): Zeroes a slot, sets its kind and clears poison. -/
  | maccZero (p : Pred)
  /-- MACC_RECLAIM (R204): Makes a parked slot held by the issuer. -/
  | maccReclaim (p : Pred)
  /-- MACC_PARK (R204): Parks a slot after the issuer's earlier entries into it retire. -/
  | maccPark (p : Pred)
  /-- MACC_QUERY (R205): Delivers the slot state word on firing. -/
  | maccQuery (p : Pred) (t1 : Target) (t0 : Target)
  /-- MACC_LOADA (R204): Copies 16 KiB of core memory into a slot. -/
  | maccLoada (p : Pred)
  /-- MACC_STOREA (R204): Copies a slot's 16 KiB into core memory. -/
  | maccStorea (p : Pred)
  /-- FORK (R212): Enters a task record into the core's deque or spillway, delivering QUEUED, SPILLED or INLINE. -/
  | fork (p : Pred) (t1 : Target) (t0 : Target)
  /-- JOIN (R214): Registers a continuation that is entered when a home counter reaches zero. -/
  | join (p : Pred) (t1 : Target) (t0 : Target)
  /-- SEND (R221): Sends one message to a destination core with release at pod scope. -/
  | send (p : Pred)
  /-- SENDB (R222): Sends a copy of a message to each core of a polder selected by a mask. -/
  | sendb
  /-- FUTR (R216): Reads a future or links a deferred task record to it. -/
  | futr (p : Pred) (t1 : Target) (t0 : Target)
  /-- FUTW (R217): Fills an empty future and enters its deferred records. -/
  | futw (p : Pred)
  /-- LAUNCH (R224): Checks a launch record and starts a direct or indirect launch of groups. -/
  | launch (p : Pred) (t1 : Target) (t0 : Target)
  /-- COMPOSE (R227): Binds an aligned group of cores into one composed core running the thread. -/
  | compose (p : Pred) (t1 : Target) (t0 : Target)
  /-- RELEASE (R228): Ends a composition and hands the thread back to the lead. -/
  | release (p : Pred)
  /-- CWR (R229): Delivers a control word as of the previous boundary. -/
  | cwr (p : Pred) (n : BitVec 14) (t0 : Target)
  /-- CWW (R229): Writes a control word at commit after access checks. -/
  | cww (p : Pred) (n : BitVec 14)
  /-- SWITCH (R230): Gives the context a new workspace pointer at commit. -/
  | switch (p : Pred)
  /-- SYSC (R231): Exit that enters the trap with a system-call cause and code. -/
  | sysc (p : Pred) (e : BitVec 3) (c : BitVec 20)
  /-- ERET (R340): Exit that restores wp and block address from the trap frame and clears sup. -/
  | eret (p : Pred) (e : BitVec 3)
  /-- RELOC (R233): Requests that a HALTED context of the core be streamed to a DORMANT context elsewhere. -/
  | reloc
  /-- SLRD (R245): Copies a 64-byte home line into handler memory. -/
  | slrd (rs2 : BitVec 5) (rs1 : BitVec 5) (rd : BitVec 5)
  /-- SLWR (R245): Copies 64 bytes of handler memory over a home line. -/
  | slwr (rs2 : BitVec 5) (rs1 : BitVec 5) (rd : BitVec 5)
  /-- SGADV (R246): Raises a home gauge by an increment with release at a scope. -/
  | sgadv (g : Scope) (rs2 : BitVec 5) (rs1 : BitVec 5) (rd : BitVec 5)
  /-- SSEND (R247): Sends a message from handler memory through the slice's interface. -/
  | ssend (rs2 : BitVec 5) (rs1 : BitVec 5) (rd : BitVec 5)
  /-- SPULL (R249): Places an eq2 record in the copy/pull engine queue as a command. -/
  | spull (rs2 : BitVec 5) (rs1 : BitVec 5) (rd : BitVec 5)
  /-- SCREG (R250): Registers a counter with a handler index and returns a handle. -/
  | screg (rs2 : BitVec 5) (rs1 : BitVec 5) (rd : BitVec 5)
  /-- SCARM (R250): Re-arms a counter registration, starting the handler if the counter is already zero. -/
  | scarm (rs1 : BitVec 5) (rd : BitVec 5)
  /-- SCDRP (R250): Frees a counter registration. -/
  | scdrp (rs1 : BitVec 5) (rd : BitVec 5)
  /-- SAMO_ADD (R251): Slice atomic add on a 32-bit word. -/
  | samoAdd (rs2 : BitVec 5) (rs1 : BitVec 5) (rd : BitVec 5)
  /-- SAMO_AND (R251): Slice atomic AND on a 32-bit word. -/
  | samoAnd (rs2 : BitVec 5) (rs1 : BitVec 5) (rd : BitVec 5)
  /-- SAMO_OR (R251): Slice atomic OR on a 32-bit word. -/
  | samoOr (rs2 : BitVec 5) (rs1 : BitVec 5) (rd : BitVec 5)
  /-- SAMO_XOR (R251): Slice atomic XOR on a 32-bit word. -/
  | samoXor (rs2 : BitVec 5) (rs1 : BitVec 5) (rd : BitVec 5)
  /-- SAMO_MIN (R251): Slice atomic signed minimum. -/
  | samoMin (rs2 : BitVec 5) (rs1 : BitVec 5) (rd : BitVec 5)
  /-- SAMO_MAX (R251): Slice atomic signed maximum. -/
  | samoMax (rs2 : BitVec 5) (rs1 : BitVec 5) (rd : BitVec 5)
  /-- SAMO_MINN (R251): Slice atomic unsigned minimum. -/
  | samoMinn (rs2 : BitVec 5) (rs1 : BitVec 5) (rd : BitVec 5)
  /-- SAMO_MAXN (R251): Slice atomic unsigned maximum. -/
  | samoMaxn (rs2 : BitVec 5) (rs1 : BitVec 5) (rd : BitVec 5)
  /-- SAMO_SWAP (R251): Slice atomic swap. -/
  | samoSwap (rs2 : BitVec 5) (rs1 : BitVec 5) (rd : BitVec 5)
  /-- SAMO_CAS (R251): Slice atomic compare-and-swap against x[rd]. -/
  | samoCas (rs2 : BitVec 5) (rs1 : BitVec 5) (rd : BitVec 5)
  /-- SAMO_DECZ (R251): Slice atomic 64-bit decrement that may start a registered handler. -/
  | samoDecz (rs2 : BitVec 5) (rs1 : BitVec 5) (rd : BitVec 5)
  /-- SREPLY (R248): Writes a reply code to the sender of the current message event. -/
  | sreply (rs1 : BitVec 5)
  /-- STLIM (R252): Sets the handler's time limit within the set's ceiling. -/
  | stlim (rs1 : BitVec 5) (rd : BitVec 5)
  /-- SHEND (R252): Ends the handler; the slice core takes its next event. -/
  | shend
  /-- SLICE_BASE_INSTRUCTION (R240): Executes a base RV32IMC instruction of a handler within its set's region. -/
  | sliceBaseInstruction (short : Bool) (i : RvInstr)
  /-- BLOCK_FETCH (R464): Issues the first read of a block's size-class-0 bytes at the next block address. -/
  | blockFetch
  /-- BLOCK_FETCH_READ_RETURN (R464): A fetch read returns; the second read is issued or the block is decoded. -/
  | blockFetchReadReturn
  /-- TOKEN_ARRIVAL (R34): A delivered token reaches its target operand one cycle later. -/
  | tokenArrival
  /-- BLOCK_COMMIT (R38): When one exit has fired and all mask bits are satisfied, the block's effects become architectural together. -/
  | blockCommit
  /-- BLOCK_STARVED (R41): A block that can make no progress is detected within 64 cycles and takes fault detail 8. -/
  | blockStarved
  /-- PORT_PUSH_TIMEOUT (R68): A port push held beyond 4,096 cycles raises block-format fault detail 9. -/
  | portPushTimeout
  /-- BLOCK_ABANDON (R334): A failed block is abandoned once its fault is known and its atomics are answered. -/
  | blockAbandon
  /-- CONTEXT_ALLOCATION (R61): The context-allocation unit fills a DORMANT context from mailbox, guest, deque or steal and fetches its first block. -/
  | contextAllocation
  /-- CONTEXT_DISPATCH (R391): A READY context is given block-window frames and becomes RUNNING. -/
  | contextDispatch
  /-- LOAD_REPLY (R107): A load reply returns value or fault from the owner to the waiting instruction. -/
  | loadReply
  /-- SLUICE_REQUEST (R317): A read, fetch, watch or atomic request arrives at the owner's sluice and is checked against the dike windows. -/
  | sluiceRequest
  /-- TLB_WALK_COMPLETE (R327): A translation walk finishes and fills or fails the waiting accesses. -/
  | tlbWalkComplete
  /-- L2_LINE_FILL (R321): A requested line is installed in the L2 slice with its tag and eviction class. -/
  | l2LineFill
  /-- FRESH_ZEROING_DONE (R324): Zeroing of a fresh granule ends, its bit is cleared and waiting accesses proceed. -/
  | freshZeroingDone
  /-- WATCH_REGISTRATION (R123): A watch registration arrives at the owner, which reserves an entry or answers satisfied. -/
  | watchRegistration
  /-- WATCH_REGISTRATION_REPLY (R123): The owner's handle or refusal returns to the firing core. -/
  | watchRegistrationReply
  /-- WATCH_ARM (R123): The arming reaches the owner, which re-evaluates the gauge against the threshold. -/
  | watchArm
  /-- WATCH_SATISFACTION_ARRIVAL (R125): A satisfaction arrives at the issuing polder and its action is performed or held. -/
  | watchSatisfactionArrival
  /-- WATCH_CANCEL_ARRIVAL (R126): A cancel arrives at the owner and frees a matching armed entry. -/
  | watchCancelArrival
  /-- ATOMIC_PACKET_ARRIVAL (R373): An atomic packet reaches the atomic unit and joins a slot or waits. -/
  | atomicPacketArrival
  /-- ATOMIC_TURN (R373): Each slice cycle the unit serves the head packet of the next occupied slot. -/
  | atomicTurn
  /-- ATOMIC_REPLY (R136): The old value or fault of an atomic returns to the issuing core. -/
  | atomicReply
  /-- HANDLER_START (R364): The slice core takes the next pending event and starts its handler. -/
  | handlerStart
  /-- HANDLER_BUDGET_EXPIRY (R370): sbud.left reaches zero and the handler is killed with 0x10. -/
  | handlerBudgetExpiry
  /-- MESSAGE_ARRIVAL (R399): A message reaches its core and is accepted, forwarded, spilled or refused. -/
  | messageArrival
  /-- SLICE_MESSAGE_ARRIVAL (R367): A slice message is accepted into its set's slots or refused. -/
  | sliceMessageArrival
  /-- REPLY_ARRIVAL (R210): A reply updates the sender's reply word with release and watch evaluation. -/
  | replyArrival
  /-- MOVE_NOTICE_ARRIVAL (R345): A holder receives a thread's new place and forwards held messages. -/
  | moveNoticeArrival
  /-- THREAD_RELEASE_ARRIVAL (R404): A thread's release frees a holder's entry; the origin performs its completion duties. -/
  | threadReleaseArrival
  /-- MIGRATION_PACKET_ARRIVAL (R404): A migration packet reaches the destination and is admitted, buffered or refused. -/
  | migrationPacketArrival
  /-- MIGRATION_ADMISSION_REPLY (R404): The admission reply reaches the source, which frees its reservation or receives the thread HALTED. -/
  | migrationAdmissionReply
  /-- MIGRATION_RESEND (R404): After a BUSY reply and 1,024 cycles the source resends the packet. -/
  | migrationResend
  /-- RELOC_TRANSFER (R233): After the source's entries retire, the core streams its state or writes a refusal reply. -/
  | relocTransfer
  /-- RELOC_ARRIVAL (R344): The relocated state lands in the destination context, which becomes HALTED. -/
  | relocArrival
  /-- DEQUE_REFILL (R392): One spillway record becomes the deque's top entry every 4 cycles. -/
  | dequeRefill
  /-- STEAL_REQUEST (R396): An idle core reserves a context and sends a steal request to a chosen victim. -/
  | stealRequest
  /-- STEAL_REQUEST_ARRIVAL (R397): A victim grants its top entry or refuses. -/
  | stealRequestArrival
  /-- STEAL_REPLY_ARRIVAL (R397): A granted record starts in the reserved context, or a refusal releases it. -/
  | stealReplyArrival
  /-- STEAL_BACKOFF_EXPIRY (R396): After 256 cycles the thief starts again at polder level. -/
  | stealBackoffExpiry
  /-- LAUNCH_DISPATCH (R412): Every 4 cycles the dispatcher takes one dispatch from the queue with the smallest pass. -/
  | launchDispatch
  /-- LAUNCH_GROUP_PLACEMENT (R225): A held launch group is entered into its member core's deque once room exists. -/
  | launchGroupPlacement
  /-- MERGE_REPORT (R379): A group end or child done message updates the launch's merge entry. -/
  | mergeReport
  /-- SFU_ACCEPT (R163): Every 4 cycles the special-function unit accepts the head request. -/
  | sfuAccept
  /-- SFU_RESULT (R163): The special-function result returns 12 cycles after acceptance. -/
  | sfuResult
  /-- VECTOR_BEAT (R170): The vector unit runs one beat of the current entry per cycle. -/
  | vectorBeat
  /-- MATRIX_ENTRY_ACCEPT (R193): The matrix engine accepts an entry, checks records, registers ranges and takes the slot. -/
  | matrixEntryAccept
  /-- MATRIX_COMMAND_RECORD (R235): An eq0 command record performs the matrix instruction it names on acceptance. -/
  | matrixCommandRecord
  /-- MATRIX_SLAB (R267): A slab of operands is fetched and its passes run into the slot. -/
  | matrixSlab
  /-- MATRIX_ENTRY_COMPLETE (R270): A matrix entry finishes its passes and prepares its descriptors. -/
  | matrixEntryComplete
  /-- RANGE_LOCK_REGISTER (R278): A unit waiting for table entries registers all its spans in one cycle. -/
  | rangeLockRegister
  /-- ENTRY_RETIRE (R264): A completed ring entry retires in order, releasing locks, pushing descriptors, ORing flags and advancing rseq. -/
  | entryRetire
  /-- TRANSFER_ISSUE (R275): The copy/pull engine takes a transfer round-robin, registers it and issues line reads. -/
  | transferIssue
  /-- EQ2_PULL (R236): Copy/pull command copying bytes into home memory. -/
  | eq2Pull
  /-- PULLW (R236): Copy/pull command writing through the workspace window. -/
  | pullw
  /-- FILL (R236): Copy/pull command filling a destination with a 64-bit pattern. -/
  | fill
  /-- GCOPY (R236): Copy/pull command copying rows with their sidecar bytes. -/
  | gcopy
  /-- LINE_READ_REPLY (R277): A transfer's line lands or fails and its bytes are subtracted from pend. -/
  | lineReadReply
  /-- LISTEN_NOTIFICATION (R132): A gauge advance notifies a listener, whose engine starts a pull. -/
  | listenNotification
  /-- ALL_REDUCE (R426): Collective command reducing each piece to its root and broadcasting it. -/
  | allReduce
  /-- REDUCE_SCATTER (R426): Collective command reducing block k into rank k's destination. -/
  | reduceScatter
  /-- ALL_GATHER (R426): Collective command broadcasting each member's block to all. -/
  | allGather
  /-- BROADCAST (R426): Collective command broadcasting the root's source. -/
  | broadcast
  /-- BARRIER (R426): Collective command completing only after every member has reached it. -/
  | barrier
  /-- ALL_TO_ALL_V (R431): Collective command exchanging counts and then irregular payloads. -/
  | allToAllV
  /-- REDUCE (R426): Collective command reducing into the root's destination. -/
  | reduce
  /-- CHUNK_START (R432): At a chunk boundary the collective engine starts a chunk of the chosen ready communicator. -/
  | chunkStart
  /-- CHUNK_END (R428): A chunk finishes, writes its result and raises the step gauges. -/
  | chunkEnd
  /-- COLLECTIVE_GAUGE_NOTICE (R429): A peer's gauge notice arrives and may make a communicator ready. -/
  | collectiveGaugeNotice
  /-- ABSENT_ANSWER (R436): A pull of an absent member is answered absent and the chunk ends without landing. -/
  | absentAnswer
  /-- RETURN_NOTICE (R436): A returning member's notice lets peers restart their chunks. -/
  | returnNotice
  /-- COLLECTIVE_NOTICE_RESEND (R436): A gauge notice refused FULL is resent after 1,024 cycles. -/
  | collectiveNoticeResend
  /-- ABORT_PACKET (R350): A member receives ABORT, stops issuing chunks, ends the communicator's commands and answers STEP. -/
  | abortPacket
  /-- STEP_PACKET (R350): The initiator records a member's STEP value. -/
  | stepPacket
  /-- STEP_WAIT_TIMEOUT (R350): After 2^20 cycles the initiator closes step 3 and sends AGREE. -/
  | stepWaitTimeout
  /-- AGREE_PACKET (R350): A member halts the communicator, frees held resources and posts the 0x12 record. -/
  | agreePacket
  /-- DONE_PACKET (R350): The initiator receives a member's DONE. -/
  | donePacket
  /-- AGREE_TIMEOUT (R351): After 2^21 cycles without AGREE each member becomes an initiator. -/
  | agreeTimeout
  /-- LINK_RETRY (R331): An unacknowledged flit is retried after the link's retry interval. -/
  | linkRetry
  /-- LINK_LOST (R331): After 16 retry intervals the link is declared lost and unreachable devices or dies become dry. -/
  | linkLost
  /-- ETHERNET_RESEND (R462): A worm unacknowledged after 64 µs is resent, and after 16 resends the port is lost. -/
  | ethernetResend
  /-- TAIL_TIMEOUT (R17): After 4,096 cycles without a flit a router closes a worm with a poisoned tail. -/
  | tailTimeout
  /-- POISONED_WORM_DISCARD (R17): A receiver discards a poisoned worm and counts it. -/
  | poisonedWormDiscard
  /-- DIE_POWER_LOSS (R352): A die loses power and becomes dry to others. -/
  | diePowerLoss
  /-- THERMAL_TRIP (R461): A junction at 110 °C removes power from the package. -/
  | thermalTrip
  /-- CLOCK_THROTTLE (R461): Firmware lowers island clocks to keep power within pcap and temperature below 95 °C. -/
  | clockThrottle
  /-- POWER_ON_BRINGUP (R459): On power good the device runs bring-up: reset, firmware check, training, zeroing and link training. -/
  | powerOnBringup
  /-- SUBMISSION_TAIL_WRITE (R449): A doorbell write of sqt makes new submission slots available. -/
  | submissionTailWrite
  /-- COMPLETION_HEAD_WRITE (R449): The host advances cqh, freeing completion entries. -/
  | completionHeadWrite
  /-- PACKET_FETCH (R449): An interface fetches the next request packet when completion room allows. -/
  | packetFetch
  /-- HOST_NOP (R450): Request packet that does nothing and completes at once. -/
  | hostNop
  /-- HOST_RUN (R450): Request packet that enters a task record into a target core's deque. -/
  | hostRun
  /-- HOST_LAUNCH (R450): Request packet that reads a launch record and starts it. -/
  | hostLaunch
  /-- HOST_WAIT (R450): Request packet that registers a wait for a word to reach zero. -/
  | hostWait
  /-- HOST_COPYIN (R450): Request packet that lands host bytes through the owner's copy/pull engine. -/
  | hostCopyin
  /-- HOST_COPYOUT (R450): Request packet that reads device bytes through the sluice and writes them to the host. -/
  | hostCopyout
  /-- HOST_WORK_COMPLETE (R452): A packet's work completes; the completion entry and then the interrupt message are written. -/
  | hostWorkComplete
  /-- REMAP_UNMASK (R456): Clearing mask with pend set sends one message and clears pend. -/
  | remapUnmask
  /-- PASID_REVOKE (R458): A write of rpasid marks the PASID revoked and invalidates its TLB entries. -/
  | pasidRevoke
  /-- REVOCATION_COMPLETE (R458): Once earlier packets and contexts under the PASID are gone, busy clears. -/
  | revocationComplete
  /-- INVALIDATE_PASID (R457): Invalidation of one PASID's translations. -/
  | invalidatePasid
  /-- INVALIDATE_PAGE (R457): Invalidation of one page of one PASID. -/
  | invalidatePage
  /-- INVALIDATE_STAGE2 (R457): Invalidation of a partition's stage-2 translations. -/
  | invalidateStage2
  /-- INVALIDATE_PARTITION (R457): Invalidation of all translations of a partition. -/
  | invalidatePartition
  /-- INVALIDATION_COMPLETE (R458): An invalidation completes once no sluice holds a named translation and earlier walks have ended. -/
  | invalidationComplete
  /-- PODPOS_WRITE (R459): Writing podpos opens BAR 0 to all writes and trains the Ruevo and Ethernet ports. -/
  | podposWrite
  /-- ATTEST_GO (R460): Writing go starts signing a report over the nonce, or is discarded while signing. -/
  | attestGo
  /-- ATTEST_REPORT_READY (R460): Signing ends, the report is written and mst reads 1. -/
  | attestReportReady
  /-- PARTITION_SWAP (R346): A swap write toward partition P stops the resident partition's contexts and starts its drain. -/
  | partitionSwap
  /-- PARTITION_REMOVE (R272): A swap write with bit 4 clear removes the resident partition for good and clears its bank. -/
  | partitionRemove
  /-- SWAP_DRAIN_COMPLETE (R346): After the drain, state is saved, the incoming set loaded and done set. -/
  | swapDrainComplete
  /-- POLDER_STOP_REQUEST (R454): Setting stop requests a stop of every resident context. -/
  | polderStopRequest
  /-- POLDER_FENCE (R454): Setting fence makes the polder dry to everyone. -/
  | polderFence
  /-- CONTEXT_RELEASE_CMD (R455): Context command that makes a HALTED or SUSPENDED context READY. -/
  | contextReleaseCmd
  /-- CONTEXT_END_CMD (R455): Context command that ends a HALTED or SUSPENDED context as by a fault. -/
  | contextEndCmd
  /-- CONTEXT_HALT_CMD (R455): Context command that halts a running, ready or suspended context. -/
  | contextHaltCmd
  /-- REGISTER_WRITE (R315): A host write to a control or configuration register with no behaviour of its own stores the value. -/
  | registerWrite
  /-- SYSTEM_ABORT (R349): System software aborts a communicator with reason SYSTEM, starting the unwind of R350. -/
  | systemAbort
  /-- READMISSION (R352): System software readmits a dry owner, after which reads, watches, atomics and messages to it are served again. -/
  | readmission
  /-- PACKAGE_POWER_LOSS (R459): The package loses power and every state held on it is lost until bring-up starts again. -/
  | packagePowerLoss
  deriving DecidableEq, Repr, Inhabited

end Sys2Proof
end

