-- ==== Sys2Proof/WellFormed.lean ====
section
/-! DEFINITION. What the types of the operands do not already exclude of an instruction (spec/02 R49 order 7):
register 30 of `READ`, the reach of `EXT`, the scope of a loop-back `FENCE`, predicated three-operand atomics, and the unused field of
`SAMO.DECZ` (spec/10 R243). -/

namespace Sys2Proof

/-- The field length that `EXT` codes: 0 stands for 64 (R94). -/
def extLen (len : Nat) : Nat := if len = 0 then 64 else len

/-- Kind `LB` carries scope 0 (R117). -/
def fenceWf (sc : Scope) (k : FenceKind) : Bool := !(k == .lb) || sc == .ctx

/-- Atomics that take three operands of their own (R134). -/
def AmoOp.three : AmoOp → Bool
  | .cas => true
  | .casx => true
  | .cas32 => true
  | _ => false

/-- A three-operand atomic has `pr` = 00 (R35). -/
def amoWf (p : Pred) (x : AmoOp) : Bool := !x.three || p == .always

/-- The checks of an instruction word beyond its operands' types. -/
def Instr.wf (i : Instr) : Bool :=
  match i with
  | .read r _ _ => !(r == 30#5)
  | .ext _ _ l s _ => decide (s.toNat + extLen l.toNat ≤ 64)
  | .fence _ _ sc k _ => fenceWf sc k
  | .amo p x _ _ => amoWf p x
  | .amoaq p x _ _ => amoWf p x
  | .amorl p x _ _ => amoWf p x
  | .amoar p x _ _ => amoWf p x
  | .samoDecz rs2 _ _ => rs2 == 0#5
  | _ => true

end Sys2Proof
end

