-- ==== Sys2Proof/Decode.lean ====
section
/-! DEFINITION. Decoding of instruction words (spec/02 R44-R49 order 7, spec/10 R240, R243), total and
rejecting by name, and the encoder written from the same tables. A word is a natural number below 2^32. -/

namespace Sys2Proof

/-- Why a word is no instruction (R49 order 7, R243). -/
inductive DecodeError where
  | reservedOpcode | reservedMember | reservedField | badPredicate | badTarget | reservedScope | reservedCode
  | fieldRange | shortInput
  deriving DecidableEq, Repr, Inhabited

/-! ## Codes of the operand fields -/

/-- The code of a member of `Scope`. -/
def Scope.code : Scope → Nat
  | .ctx => 0
  | .core => 1
  | .polder => 2
  | .die => 3
  | .dev => 4
  | .pod => 5

/-- The member of `Scope` that a code names. -/
def scopeOf : Nat → Option Scope
  | 0 => some .ctx
  | 1 => some .core
  | 2 => some .polder
  | 3 => some .die
  | 4 => some .dev
  | 5 => some .pod
  | _ => none

/-- The code of a member of `FenceKind`. -/
def FenceKind.code : FenceKind → Nat
  | .full => 0
  | .acq => 1
  | .rel => 2
  | .lb => 3

/-- The member of `FenceKind` that a code names. -/
def fenceKindOf : Nat → Option FenceKind
  | 0 => some .full
  | 1 => some .acq
  | 2 => some .rel
  | 3 => some .lb
  | _ => none

/-- The code of a member of `Cond`. -/
def Cond.code : Cond → Nat
  | .eq => 0
  | .ne => 1
  | .lt => 2
  | .ge => 3
  | .ltn => 4
  | .gen => 5
  | .tst => 6

/-- The member of `Cond` that a code names. -/
def condOf : Nat → Option Cond
  | 0 => some .eq
  | 1 => some .ne
  | 2 => some .lt
  | 3 => some .ge
  | 4 => some .ltn
  | 5 => some .gen
  | 6 => some .tst
  | _ => none

/-- The code of a member of `AmoOp`. -/
def AmoOp.code : AmoOp → Nat
  | .add => 0
  | .and => 1
  | .or => 2
  | .xor => 3
  | .min => 4
  | .max => 5
  | .minn => 6
  | .maxn => 7
  | .swap => 8
  | .cas => 9
  | .casx => 10
  | .fadd => 11
  | .faddd => 12
  | .decz => 13
  | .add32 => 14
  | .cas32 => 15

/-- The member of `AmoOp` that a code names. -/
def amoOpOf : Nat → Option AmoOp
  | 0 => some .add
  | 1 => some .and
  | 2 => some .or
  | 3 => some .xor
  | 4 => some .min
  | 5 => some .max
  | 6 => some .minn
  | 7 => some .maxn
  | 8 => some .swap
  | 9 => some .cas
  | 10 => some .casx
  | 11 => some .fadd
  | 12 => some .faddd
  | 13 => some .decz
  | 14 => some .add32
  | 15 => some .cas32
  | _ => none

/-- The code of a member of `CvtPair`. -/
def CvtPair.code : CvtPair → Nat
  | .f32f64 => 0
  | .f64f32 => 1
  | .f16f32 => 2
  | .f32f16 => 3
  | .bf16f32 => 4
  | .f32bf16 => 5
  | .e4m3f32 => 6
  | .e5m2f32 => 7
  | .f32e4m3 => 8
  | .f32e5m2 => 9
  | .e3m2f32 => 10
  | .e2m3f32 => 11
  | .e2m1f32 => 12
  | .f32e3m2 => 13
  | .f32e2m3 => 14
  | .f32e2m1 => 15
  | .i64f64 => 16
  | .n64f64 => 17
  | .f64i64 => 18
  | .f64n64 => 19
  | .i32f32 => 20
  | .n32f32 => 21
  | .f32i32 => 22
  | .f32n32 => 23
  | .i32f64 => 24
  | .f64i32 => 25
  | .e8m0f32 => 26
  | .f32e8m0 => 27

/-- The member of `CvtPair` that a code names. -/
def cvtPairOf : Nat → Option CvtPair
  | 0 => some .f32f64
  | 1 => some .f64f32
  | 2 => some .f16f32
  | 3 => some .f32f16
  | 4 => some .bf16f32
  | 5 => some .f32bf16
  | 6 => some .e4m3f32
  | 7 => some .e5m2f32
  | 8 => some .f32e4m3
  | 9 => some .f32e5m2
  | 10 => some .e3m2f32
  | 11 => some .e2m3f32
  | 12 => some .e2m1f32
  | 13 => some .f32e3m2
  | 14 => some .f32e2m3
  | 15 => some .f32e2m1
  | 16 => some .i64f64
  | 17 => some .n64f64
  | 18 => some .f64i64
  | 19 => some .f64n64
  | 20 => some .i32f32
  | 21 => some .n32f32
  | 22 => some .f32i32
  | 23 => some .f32n32
  | 24 => some .i32f64
  | 25 => some .f64i32
  | 26 => some .e8m0f32
  | 27 => some .f32e8m0
  | _ => none

/-- The code of a member of `VCond`. -/
def VCond.code : VCond → Nat
  | .eq => 0
  | .ne => 1
  | .lt => 2
  | .le => 3
  | .gt => 4
  | .ge => 5

/-- The member of `VCond` that a code names. -/
def vcondOf : Nat → Option VCond
  | 0 => some .eq
  | 1 => some .ne
  | 2 => some .lt
  | 3 => some .le
  | 4 => some .gt
  | 5 => some .ge
  | _ => none

/-- The code of a member of `CodeTable`. -/
def CodeTable.code : CodeTable → Nat
  | .t0 => 0
  | .t1 => 1
  | .t2 => 2
  | .t3 => 3
  | .auto => 4

/-- The member of `CodeTable` that a code names. -/
def codeTableOf : Nat → Option CodeTable
  | 0 => some .t0
  | 1 => some .t1
  | 2 => some .t2
  | 3 => some .t3
  | 4 => some .auto
  | _ => none

/-- The code of a member of `MmaPair`. -/
def MmaPair.code : MmaPair → Nat
  | .dd => 0
  | .ss => 1
  | .bb => 2
  | .hh => 3
  | .ee => 4
  | .ev => 5
  | .vv => 6
  | .bk => 7
  | .ek => 8
  | .qq => 9
  | .xx => 10
  | .yy => 11
  | .ii => 12
  | .nn => 13

/-- The member of `MmaPair` that a code names. -/
def mmaPairOf : Nat → Option MmaPair
  | 0 => some .dd
  | 1 => some .ss
  | 2 => some .bb
  | 3 => some .hh
  | 4 => some .ee
  | 5 => some .ev
  | 6 => some .vv
  | 7 => some .bk
  | 8 => some .ek
  | 9 => some .qq
  | 10 => some .xx
  | 11 => some .yy
  | 12 => some .ii
  | 13 => some .nn
  | _ => none

/-- The code of a predicate (R46). -/
def Pred.code : Pred → Nat
  | .always => 0
  | .onTrue => 1
  | .onFalse => 2

/-- The predicate of a `pr` field; 11 is illegal (R46). -/
def predOf : Nat → Except DecodeError Pred
  | 0 => .ok .always
  | 1 => .ok .onTrue
  | 2 => .ok .onFalse
  | _ => .error .badPredicate

/-- The code of an operand in a target field (R45). -/
def Opnd.code : Opnd → Nat
  | .l => 1
  | .r => 2
  | .x => 3

/-- A target field as a number (R45). -/
def Target.code : Target → Nat
  | .none => 0
  | .into o s => o.code * 128 + s.toNat

/-- The target of a field; `opnd` 00 with a slot is illegal (R45). -/
def targetOf (n : Nat) : Except DecodeError Target :=
  match n / 128 with
  | 0 => if n = 0 then .ok .none else .error .badTarget
  | 1 => .ok (.into .l (BitVec.ofNat 7 n))
  | 2 => .ok (.into .r (BitVec.ofNat 7 n))
  | 3 => .ok (.into .x (BitVec.ofNat 7 n))
  | _ => .error .badTarget

/-- A code that must name a member, or the error `e`. -/
def orError {α : Type} (o : Option α) (e : DecodeError) : Except DecodeError α :=
  match o with
  | some a => .ok a
  | none => .error e

/-- A field that must be zero (R49 order 7: reserved). -/
def zeroField (n : Nat) : Except DecodeError Unit := if n = 0 then .ok () else .error .reservedField

/-- The predicate of a word, bits [24:23]. -/
def predIn (w : Nat) : Except DecodeError Pred := predOf (bits w 24 23)
/-- A word whose `pr` must be 00 (three operands of its own, C format and A format). -/
def noPred (w : Nat) : Except DecodeError Unit := if bits w 24 23 = 0 then .ok () else .error .badPredicate

/-! ## The forms of R44 -/

/-- A format: `READ` (register 30 is illegal, R78). -/
def formA (w : Nat) (f : BitVec 5 → Target → Target → Instr) : Except DecodeError Instr := do
  zeroField (bits w 24 23)
  let b ← targetOf (bits w 17 9)
  let t ← targetOf (bits w 8 0)
  if bits w 22 18 = 30 then .error .reservedCode else .ok (f (BitVec.ofNat 5 (bits w 22 18)) b t)
/-- W format: `WRITE`. -/
def formW (w : Nat) (f : Pred → BitVec 5 → Instr) : Except DecodeError Instr := do
  let p ← predIn w
  zeroField (bits w 17 0)
  .ok (f p (BitVec.ofNat 5 (bits w 22 18)))
/-- C format. -/
def formC (w : Nat) (f : BitVec 16 → Target → Instr) : Except DecodeError Instr := do
  let t ← targetOf (bits w 8 0)
  .ok (f (BitVec.ofNat 16 (bits w 24 9)) t)
/-- G format with a predicate and two targets. -/
def formG (w : Nat) (f : Pred → Target → Target → Instr) : Except DecodeError Instr := do
  let p ← predIn w
  let b ← targetOf (bits w 17 9)
  let t ← targetOf (bits w 8 0)
  .ok (f p b t)
/-- G format, three operands: no predicate. -/
def formG3 (w : Nat) (f : Target → Target → Instr) : Except DecodeError Instr := do
  noPred w
  let b ← targetOf (bits w 17 9)
  let t ← targetOf (bits w 8 0)
  .ok (f b t)
/-- G format without targets. -/
def formP (w : Nat) (f : Pred → Instr) : Except DecodeError Instr := do
  let p ← predIn w
  zeroField (bits w 17 0)
  .ok (f p)
/-- G format, three operands and no targets. -/
def formE (w : Nat) (i : Instr) : Except DecodeError Instr := do
  noPred w
  zeroField (bits w 17 0)
  .ok i
/-- An opcode with one member: `xop` must be zero (R47). -/
def onlyMember (w : Nat) (r : Except DecodeError Instr) : Except DecodeError Instr :=
  if bits w 22 18 = 0 then r else .error .reservedMember
/-- I format. -/
def formI (w : Nat) (f : Pred → BitVec 14 → Target → Instr) : Except DecodeError Instr := do
  let p ← predIn w
  let t ← targetOf (bits w 8 0)
  .ok (f p (BitVec.ofNat 14 (bits w 22 9)) t)
/-- I format of a shift (R91). -/
def formShift (w : Nat) (f : Pred → BitVec 6 → Target → Instr) : Except DecodeError Instr := do
  let p ← predIn w
  zeroField (bits w 22 15)
  let t ← targetOf (bits w 8 0)
  .ok (f p (BitVec.ofNat 6 (bits w 14 9)) t)
/-- `CMP` (R92). -/
def formCmp (w : Nat) (f : Pred → Cond → Target → Target → Instr) : Except DecodeError Instr := do
  let p ← predIn w
  let c ← orError (condOf (bits w 22 18)) .reservedMember
  let b ← targetOf (bits w 17 9)
  let t ← targetOf (bits w 8 0)
  .ok (f p c b t)
/-- J format: `CMPI` (R92). -/
def formJ (w : Nat) (f : Pred → Cond → BitVec 11 → Target → Instr) : Except DecodeError Instr := do
  let p ← predIn w
  let c ← orError (condOf (bits w 22 20)) .reservedCode
  let t ← targetOf (bits w 8 0)
  .ok (f p c (BitVec.ofNat 11 (bits w 19 9)) t)
/-- `LEA` (R93). -/
def formLea (w : Nat) (f : Pred → BitVec 3 → Target → Target → Instr) : Except DecodeError Instr := do
  let p ← predIn w
  if bits w 22 21 ≠ 0 then .error .reservedMember
  let b ← targetOf (bits w 17 9)
  let t ← targetOf (bits w 8 0)
  .ok (f p (BitVec.ofNat 3 (bits w 20 18)) b t)
/-- `EXT` (R94): a field that reaches past bit 63 is illegal. -/
def formExt (w : Nat) (f : Pred → BitVec 1 → BitVec 6 → BitVec 6 → Target → Instr) : Except DecodeError Instr := do
  let p ← predIn w
  zeroField (bits w 22 22)
  let t ← targetOf (bits w 8 0)
  if bits w 14 9 + extLen (bits w 20 15) ≤ 64 then
    .ok (f p (BitVec.ofNat 1 (bits w 21 21)) (BitVec.ofNat 6 (bits w 20 15)) (BitVec.ofNat 6 (bits w 14 9)) t)
  else .error .fieldRange
/-- X format with an offset, and `SYSC` with its code. -/
def formX (w : Nat) (f : Pred → BitVec 3 → BitVec 20 → Instr) : Except DecodeError Instr := do
  let p ← predIn w
  .ok (f p (BitVec.ofNat 3 (bits w 22 20)) (BitVec.ofNat 20 (bits w 19 0)))
/-- X format without an offset. -/
def formXl (w : Nat) (f : Pred → BitVec 3 → Instr) : Except DecodeError Instr := do
  let p ← predIn w
  zeroField (bits w 19 0)
  .ok (f p (BitVec.ofNat 3 (bits w 22 20)))
/-- L format. -/
def formL (w : Nat) (f : Pred → BitVec 5 → BitVec 9 → Target → Instr) : Except DecodeError Instr := do
  let p ← predIn w
  let t ← targetOf (bits w 8 0)
  .ok (f p (BitVec.ofNat 5 (bits w 22 18)) (BitVec.ofNat 9 (bits w 17 9)) t)
/-- `LDA` (R113). -/
def formLda (w : Nat) (f : Pred → BitVec 5 → Scope → BitVec 6 → Target → Instr) : Except DecodeError Instr := do
  let p ← predIn w
  let sc ← orError (scopeOf (bits w 17 15)) .reservedScope
  let t ← targetOf (bits w 8 0)
  .ok (f p (BitVec.ofNat 5 (bits w 22 18)) sc (BitVec.ofNat 6 (bits w 14 9)) t)
/-- S format, and `PREF`. -/
def formS (w : Nat) (f : Pred → BitVec 5 → BitVec 9 → Instr) : Except DecodeError Instr := do
  let p ← predIn w
  zeroField (bits w 8 0)
  .ok (f p (BitVec.ofNat 5 (bits w 22 18)) (BitVec.ofNat 9 (bits w 17 9)))
/-- S format with a scope: `STL`, `GADV`. -/
def formSs (w : Nat) (f : Pred → BitVec 5 → Scope → BitVec 6 → Instr) : Except DecodeError Instr := do
  let p ← predIn w
  zeroField (bits w 8 0)
  let sc ← orError (scopeOf (bits w 17 15)) .reservedScope
  .ok (f p (BitVec.ofNat 5 (bits w 22 18)) sc (BitVec.ofNat 6 (bits w 14 9)))
/-- `FENCE` (R117): kind `LB` has scope 0. -/
def formFence (w : Nat) (f : Pred → BitVec 5 → Scope → FenceKind → Target → Instr) : Except DecodeError Instr := do
  let p ← predIn w
  zeroField (bits w 12 9)
  let k ← orError (fenceKindOf (bits w 14 13)) .reservedCode
  let sc ← orError (scopeOf (bits w 17 15)) .reservedScope
  let t ← targetOf (bits w 8 0)
  if fenceWf sc k then .ok (f p (BitVec.ofNat 5 (bits w 22 18)) sc k t) else .error .reservedScope
/-- `AMO`, `AMOAQ`, `AMORL`, `AMOAR` (R134): the compare-and-swap members have three operands. -/
def formAmo (w : Nat) (f : Pred → AmoOp → Target → Target → Instr) : Except DecodeError Instr := do
  let p ← predIn w
  let x ← orError (amoOpOf (bits w 22 18)) .reservedMember
  let b ← targetOf (bits w 17 9)
  let t ← targetOf (bits w 8 0)
  if amoWf p x then .ok (f p x b t) else .error .badPredicate
/-- `FCVT` (R161). -/
def formCvt (w : Nat) (f : Pred → CvtPair → Target → Target → Instr) : Except DecodeError Instr := do
  let p ← predIn w
  let x ← orError (cvtPairOf (bits w 22 18)) .reservedMember
  let b ← targetOf (bits w 17 9)
  let t ← targetOf (bits w 8 0)
  .ok (f p x b t)
/-- `VCMP` (R179). -/
def formVcmp (w : Nat) (f : VCond → Instr) : Except DecodeError Instr := do
  noPred w
  zeroField (bits w 17 0)
  let c ← orError (vcondOf (bits w 22 18)) .reservedMember
  .ok (f c)
/-- `VENC` (R184). -/
def formVenc (w : Nat) (f : CodeTable → Instr) : Except DecodeError Instr := do
  noPred w
  zeroField (bits w 17 0)
  let c ← orError (codeTableOf (bits w 22 18)) .reservedMember
  .ok (f c)
/-- `MROT` (R200): `xop` holds a format pair. -/
def formMrot (w : Nat) (f : MmaPair → Instr) : Except DecodeError Instr := do
  noPred w
  zeroField (bits w 17 0)
  let c ← orError (mmaPairOf (bits w 22 18)) .reservedMember
  .ok (f c)
/-- `CWR`. -/
def formN (w : Nat) (f : Pred → BitVec 14 → Target → Instr) : Except DecodeError Instr := formI w f
/-- `CWW`. -/
def formNw (w : Nat) (f : Pred → BitVec 14 → Instr) : Except DecodeError Instr := do
  let p ← predIn w
  zeroField (bits w 8 0)
  .ok (f p (BitVec.ofNat 14 (bits w 22 9)))

/-! ## The families of R48 -/

/-- Members of major opcode 0x10 by `xop` (R48). -/
def member10 (w x : Nat) : Except DecodeError Instr :=
  match x with
  | 0 => formG w .add
  | 1 => formG w .sub
  | 2 => formG w .and
  | 3 => formG w .or
  | 4 => formG w .xor
  | 5 => formG w .andn
  | 6 => formG w .shl
  | 7 => formG w .shr
  | 8 => formG w .sra
  | 9 => formG w .rol
  | 10 => formG w .ror
  | 11 => formG w .mul
  | 12 => formG w .mulh
  | 13 => formG w .mulhn
  | 14 => formG w .div
  | 15 => formG w .divn
  | 16 => formG w .rem
  | 17 => formG w .remn
  | 18 => formG w .min
  | 19 => formG w .max
  | 20 => formG w .minn
  | 21 => formG w .maxn
  | 22 => formG w .clz
  | 23 => formG w .ctz
  | 24 => formG w .popc
  | 25 => formG w .addsat
  | 26 => formG w .subsat
  | 27 => formG w .absd
  | _ => .error .reservedMember

/-- Members of major opcode 0x11 by `xop` (R48). -/
def member11 (w x : Nat) : Except DecodeError Instr :=
  match x with
  | 0 => formG w .addw
  | 1 => formG w .subw
  | 2 => formG w .andw
  | 3 => formG w .orw
  | 4 => formG w .xorw
  | 5 => formG w .andnw
  | 6 => formG w .shlw
  | 7 => formG w .shrw
  | 8 => formG w .sraw
  | 9 => formG w .rolw
  | 10 => formG w .rorw
  | 11 => formG w .mulw
  | 14 => formG w .divw
  | 15 => formG w .divnw
  | 16 => formG w .remw
  | 17 => formG w .remnw
  | 22 => formG w .clzw
  | 23 => formG w .ctzw
  | 24 => formG w .popcw
  | _ => .error .reservedMember

/-- Members of major opcode 0x39 by `xop` (R48). -/
def member39 (w x : Nat) : Except DecodeError Instr :=
  match x with
  | 0 => formG3 w .watchTask
  | 1 => formG3 w .watchFut
  | 2 => formP w .watchCancel
  | _ => .error .reservedMember

/-- Members of major opcode 0x40 by `xop` (R48). -/
def member40 (w x : Nat) : Except DecodeError Instr :=
  match x with
  | 0 => formG w .faddD
  | 1 => formG w .fsubD
  | 2 => formG w .fmulD
  | 3 => formG w .fdivD
  | 4 => formG w .fsqrtD
  | 5 => formG w .fminD
  | 6 => formG w .fmaxD
  | 7 => formG w .fnegD
  | 8 => formG w .fabsD
  | 9 => formG w .feqD
  | 10 => formG w .fltD
  | 11 => formG w .fleD
  | 12 => formG w .fclassD
  | 13 => formG w .fsgnjD
  | _ => .error .reservedMember

/-- Members of major opcode 0x41 by `xop` (R48). -/
def member41 (w x : Nat) : Except DecodeError Instr :=
  match x with
  | 0 => formG w .faddS
  | 1 => formG w .fsubS
  | 2 => formG w .fmulS
  | 3 => formG w .fdivS
  | 4 => formG w .fsqrtS
  | 5 => formG w .fminS
  | 6 => formG w .fmaxS
  | 7 => formG w .fnegS
  | 8 => formG w .fabsS
  | 9 => formG w .feqS
  | 10 => formG w .fltS
  | 11 => formG w .fleS
  | 12 => formG w .fclassS
  | 13 => formG w .fsgnjS
  | _ => .error .reservedMember

/-- Members of major opcode 0x45 by `xop` (R48). -/
def member45 (w x : Nat) : Except DecodeError Instr :=
  match x with
  | 0 => formG w .sfnExp2
  | 1 => formG w .sfnLog2
  | 2 => formG w .sfnRcp
  | 3 => formG w .sfnRsq
  | 4 => formG w .sfnSin
  | 5 => formG w .sfnCos
  | 6 => formG w .sfnTanh
  | 7 => formG w .sfnSigm
  | _ => .error .reservedMember

/-- Members of major opcode 0x48 by `xop` (R48). -/
def member48 (w x : Nat) : Except DecodeError Instr :=
  match x with
  | 0 => formE w .vadd
  | 1 => formE w .vsub
  | 2 => formE w .vmul
  | 3 => formE w .vdiv
  | 4 => formE w .vmin
  | 5 => formE w .vmax
  | 6 => formE w .vand
  | 7 => formE w .vor
  | 8 => formE w .vxor
  | 9 => formE w .vshl
  | 10 => formE w .vshr
  | _ => .error .reservedMember

/-- Members of major opcode 0x4A by `xop` (R48). -/
def member4A (w x : Nat) : Except DecodeError Instr :=
  match x with
  | 0 => formP w .vneg
  | 1 => formP w .vabs
  | 2 => formP w .vcpy
  | 3 => formP w .vexp2
  | 4 => formP w .vlog2
  | 5 => formP w .vrcp
  | 6 => formP w .vrsq
  | 7 => formP w .vtanh
  | 8 => formP w .vsigm
  | 9 => formP w .vsin
  | 10 => formP w .vcos
  | _ => .error .reservedMember

/-- Members of major opcode 0x4B by `xop` (R48). -/
def member4B (w x : Nat) : Except DecodeError Instr :=
  match x with
  | 0 => formP w .vredSum
  | 1 => formP w .vredMax
  | 2 => formP w .vredMin
  | 3 => formP w .vredAmax
  | _ => .error .reservedMember

/-- Members of major opcode 0x4C by `xop` (R48). -/
def member4C (w x : Nat) : Except DecodeError Instr :=
  match x with
  | 0 => formP w .vscanInc
  | 1 => formP w .vscanExc
  | _ => .error .reservedMember

/-- Members of major opcode 0x51 by `xop` (R48). -/
def member51 (w x : Nat) : Except DecodeError Instr :=
  match x with
  | 0 => formE w .vpopaNone
  | 1 => formE w .vpopaRelu
  | 2 => formE w .vpopaClamp
  | _ => .error .reservedMember

/-- Members of major opcode 0x54 by `xop` (R48). -/
def member54 (w x : Nat) : Except DecodeError Instr :=
  match x with
  | 0 => formP w .vpermRev
  | 1 => formP w .vpermIntl
  | 2 => formP w .vpermDintl
  | 3 => formE w .vpermRot
  | _ => .error .reservedMember

/-- Members of major opcode 0x6F by `xop` (R48). Target fields of those other than `QUERY`, which R203 leaves unused, must be zero
(notes/assumptions 154). -/
def member6F (w x : Nat) : Except DecodeError Instr :=
  match x with
  | 0 => formP w .maccZero
  | 1 => formP w .maccReclaim
  | 2 => formP w .maccPark
  | 3 => formG w .maccQuery
  | 4 => formP w .maccLoada
  | 5 => formP w .maccStorea
  | _ => .error .reservedMember

/-- The Brynrid instruction of a word (R47, R49 order 7, without the checks that need the whole block). -/
def decodeWord (w : Nat) : Except DecodeError Instr :=
  match bits w 31 25 with
  | 0x01 => formA w .read
  | 0x02 => formW w .write
  | 0x03 => formC w .const
  | 0x04 => formC w .consth
  | 0x05 => onlyMember w (formG w .mov2)
  | 0x06 => onlyMember w (formG w .null)
  | 0x07 => onlyMember w (formG3 w .sel)
  | 0x10 => member10 w (bits w 22 18)
  | 0x11 => member11 w (bits w 22 18)
  | 0x12 => formI w .addi
  | 0x13 => formI w .andi
  | 0x14 => formI w .ori
  | 0x15 => formI w .xori
  | 0x16 => formShift w .shli
  | 0x17 => formShift w .shri
  | 0x18 => formShift w .srai
  | 0x19 => formI w .muli
  | 0x1A => formCmp w .cmp
  | 0x1B => formJ w .cmpi
  | 0x1C => formLea w .lea
  | 0x1D => formExt w .ext
  | 0x1E => onlyMember w (formG3 w .ins)
  | 0x20 => formX w .br
  | 0x21 => formXl w .brl
  | 0x22 => formX w .call
  | 0x23 => formXl w .calll
  | 0x24 => formXl w .ret
  | 0x25 => formXl w .endExit
  | 0x26 => formX w .susp
  | 0x27 => formX w .migr
  | 0x28 => formL w .ld8
  | 0x29 => formL w .ld16
  | 0x2A => formL w .ld32
  | 0x2B => formL w .ld64
  | 0x2C => formL w .lds8
  | 0x2D => formL w .lds16
  | 0x2E => formL w .lds32
  | 0x2F => formLda w .lda
  | 0x30 => formS w .st8
  | 0x31 => formS w .st16
  | 0x32 => formS w .st32
  | 0x33 => formS w .st64
  | 0x34 => formSs w .stl
  | 0x35 => formFence w .fence
  | 0x36 => formS w .pref
  | 0x37 => formAmo w .amoar
  | 0x38 => formSs w .gadv
  | 0x39 => member39 w (bits w 22 18)
  | 0x3A => onlyMember w (formE w .pull)
  | 0x3B => onlyMember w (formG w .listen)
  | 0x3C => onlyMember w (formP w .unlisten)
  | 0x3D => formAmo w .amo
  | 0x3E => formAmo w .amoaq
  | 0x3F => formAmo w .amorl
  | 0x40 => member40 w (bits w 22 18)
  | 0x41 => member41 w (bits w 22 18)
  | 0x42 => onlyMember w (formG3 w .fmaD)
  | 0x43 => onlyMember w (formG3 w .fmaS)
  | 0x44 => formCvt w .fcvt
  | 0x45 => member45 w (bits w 22 18)
  | 0x48 => member48 w (bits w 22 18)
  | 0x49 => onlyMember w (formE w .vfma)
  | 0x4A => member4A w (bits w 22 18)
  | 0x4B => member4B w (bits w 22 18)
  | 0x4C => member4C w (bits w 22 18)
  | 0x4D => onlyMember w (formE w .vgath)
  | 0x4E => onlyMember w (formE w .vscat)
  | 0x4F => onlyMember w (formE w .vmsk)
  | 0x50 => onlyMember w (formP w .vbcast)
  | 0x51 => member51 w (bits w 22 18)
  | 0x52 => formVcmp w .vcmp
  | 0x53 => onlyMember w (formE w .vsel)
  | 0x54 => member54 w (bits w 22 18)
  | 0x55 => onlyMember w (formP w .vqnt)
  | 0x56 => formVenc w .venc
  | 0x57 => onlyMember w (formP w .vdec)
  | 0x60 => onlyMember w (formE w .mmaDd)
  | 0x61 => onlyMember w (formE w .mmaSs)
  | 0x62 => onlyMember w (formE w .mmaBb)
  | 0x63 => onlyMember w (formE w .mmaHh)
  | 0x64 => onlyMember w (formE w .mmaEe)
  | 0x65 => onlyMember w (formE w .mmaEv)
  | 0x66 => onlyMember w (formE w .mmaVv)
  | 0x67 => onlyMember w (formE w .mmaBk)
  | 0x68 => onlyMember w (formE w .mmaEk)
  | 0x69 => onlyMember w (formE w .mmaQq)
  | 0x6A => onlyMember w (formE w .mmaXx)
  | 0x6B => onlyMember w (formE w .mmaYy)
  | 0x6C => onlyMember w (formE w .mmaIi)
  | 0x6D => onlyMember w (formE w .mmaNn)
  | 0x6E => formMrot w .mrot
  | 0x6F => member6F w (bits w 22 18)
  | 0x70 => onlyMember w (formG w .fork)
  | 0x71 => onlyMember w (formG w .join)
  | 0x72 => onlyMember w (formP w .send)
  | 0x73 => onlyMember w (formE w .sendb)
  | 0x74 => onlyMember w (formG w .futr)
  | 0x75 => onlyMember w (formP w .futw)
  | 0x76 => onlyMember w (formG w .launch)
  | 0x77 => onlyMember w (formG w .compose)
  | 0x78 => onlyMember w (formP w .release)
  | 0x79 => formN w .cwr
  | 0x7A => formNw w .cww
  | 0x7B => onlyMember w (formP w .switch)
  | 0x7C => formX w .sysc
  | 0x7D => formXl w .eret
  | 0x7E => onlyMember w (formE w .reloc)
  | _ => .error .reservedOpcode

/-! ## The slice core (R240, R243) -/

/-- A five-bit register field at bit `lo`. -/
def regOf (w lo : Nat) : BitVec 5 := BitVec.ofNat 5 (w / 2 ^ lo)

/-- The slice-extension instruction of a custom-0 word (R243). -/
def decodeSliceExt (w : Nat) : Option Instr :=
  match bits w 14 12 with
  | 0 => match bits w 31 25 with
    | 0 => some (.slrd (regOf w 20) (regOf w 15) (regOf w 7))
    | 1 => some (.slwr (regOf w 20) (regOf w 15) (regOf w 7))
    | _ => none
  | 1 => match scopeOf (bits w 31 25) with
    | some g => some (.sgadv g (regOf w 20) (regOf w 15) (regOf w 7))
    | none => none
  | 2 => match bits w 31 25 with
    | 0 => some (.ssend (regOf w 20) (regOf w 15) (regOf w 7))
    | _ => none
  | 3 => match bits w 31 25 with
    | 0 => some (.spull (regOf w 20) (regOf w 15) (regOf w 7))
    | _ => none
  | 4 => match bits w 31 25 with
    | 0 => some (.screg (regOf w 20) (regOf w 15) (regOf w 7))
    | 1 => if bits w 24 20 == 0 then some (.scarm (regOf w 15) (regOf w 7)) else none
    | 2 => if bits w 24 20 == 0 then some (.scdrp (regOf w 15) (regOf w 7)) else none
    | _ => none
  | 5 => match bits w 31 25 with
    | 0 => some (.samoAdd (regOf w 20) (regOf w 15) (regOf w 7))
    | 1 => some (.samoAnd (regOf w 20) (regOf w 15) (regOf w 7))
    | 2 => some (.samoOr (regOf w 20) (regOf w 15) (regOf w 7))
    | 3 => some (.samoXor (regOf w 20) (regOf w 15) (regOf w 7))
    | 4 => some (.samoMin (regOf w 20) (regOf w 15) (regOf w 7))
    | 5 => some (.samoMax (regOf w 20) (regOf w 15) (regOf w 7))
    | 6 => some (.samoMinn (regOf w 20) (regOf w 15) (regOf w 7))
    | 7 => some (.samoMaxn (regOf w 20) (regOf w 15) (regOf w 7))
    | 8 => some (.samoSwap (regOf w 20) (regOf w 15) (regOf w 7))
    | 9 => some (.samoCas (regOf w 20) (regOf w 15) (regOf w 7))
    | 13 => if bits w 24 20 == 0 then some (.samoDecz (regOf w 20) (regOf w 15) (regOf w 7)) else none
    | _ => none
  | 6 => match bits w 31 25 with
    | 0 => if bits w 24 20 == 0 && bits w 11 7 == 0 then some (.sreply (regOf w 15)) else none
    | 1 => if bits w 24 20 == 0 then some (.stlim (regOf w 15) (regOf w 7)) else none
    | _ => none
  | 7 => match bits w 31 25 with
    | 0 => if bits w 24 20 == 0 && bits w 19 15 == 0 && bits w 11 7 == 0 then some .shend else none
    | _ => none
  | _ => none

/-- The low `k` bits of `v`, sign-extended to 32. -/
def sext32 (k v : Nat) : BitVec 32 := BitVec.ofInt 32 (signedOf k v)

/-- Register-register operations, `funct7` 0, 0x20 and 1 (RV32IM). -/
def rvOpOf (f7 f3 : Nat) : Option RvOp :=
  match f7, f3 with
  | 0, 0 => some .add
  | 0, 1 => some .sll
  | 0, 2 => some .slt
  | 0, 3 => some .sltu
  | 0, 4 => some .xor
  | 0, 5 => some .srl
  | 0, 6 => some .or
  | 0, 7 => some .and
  | 0x20, 0 => some .sub
  | 0x20, 5 => some .sra
  | 1, 0 => some .mul
  | 1, 1 => some .mulh
  | 1, 2 => some .mulhsu
  | 1, 3 => some .mulhu
  | 1, 4 => some .div
  | 1, 5 => some .divu
  | 1, 6 => some .rem
  | 1, 7 => some .remu
  | _, _ => none

/-- Register-immediate operations (RV32I). -/
def rvOpImm (w : Nat) : RvInstr :=
  let rd := regOf w 7
  let rs1 := regOf w 15
  let imm := sext32 12 (bits w 31 20)
  let sh := BitVec.ofNat 32 (bits w 24 20)
  match bits w 14 12 with
  | 0 => .opImm .add rd rs1 imm
  | 1 => if bits w 31 25 = 0 then .opImm .sll rd rs1 sh else .illegal
  | 2 => .opImm .slt rd rs1 imm
  | 3 => .opImm .sltu rd rs1 imm
  | 4 => .opImm .xor rd rs1 imm
  | 5 => match bits w 31 25 with
    | 0 => .opImm .srl rd rs1 sh
    | 0x20 => .opImm .sra rd rs1 sh
    | _ => .illegal
  | 6 => .opImm .or rd rs1 imm
  | _ => .opImm .and rd rs1 imm

/-- Branch condition of a `funct3`. -/
def rvCondOf : Nat → Option RvCond
  | 0 => some .beq
  | 1 => some .bne
  | 4 => some .blt
  | 5 => some .bge
  | 6 => some .bltu
  | 7 => some .bgeu
  | _ => none

/-- A 32-bit base instruction (RV32IM as ratified, with the limits of R240). -/
def decodeRv (w : Nat) : RvInstr :=
  let rd := regOf w 7
  let rs1 := regOf w 15
  let rs2 := regOf w 20
  match bits w 6 0 with
  | 0x37 => .lui rd (BitVec.ofNat 20 (bits w 31 12))
  | 0x17 => .auipc rd (BitVec.ofNat 20 (bits w 31 12))
  | 0x6F => .jal rd (sext32 21 (bits w 31 31 * 2 ^ 20 + bits w 19 12 * 2 ^ 12 + bits w 20 20 * 2 ^ 11 + bits w 30 21 * 2))
  | 0x67 => if bits w 14 12 = 0 then .jalr rd rs1 (sext32 12 (bits w 31 20)) else .illegal
  | 0x63 => match rvCondOf (bits w 14 12) with
    | some c => .branch c rs1 rs2
        (sext32 13 (bits w 31 31 * 2 ^ 12 + bits w 7 7 * 2 ^ 11 + bits w 30 25 * 2 ^ 5 + bits w 11 8 * 2))
    | none => .illegal
  | 0x03 =>
    let off := sext32 12 (bits w 31 20)
    match bits w 14 12 with
    | 0 => .load .lb rd rs1 off
    | 1 => .load .lh rd rs1 off
    | 2 => .load .lw rd rs1 off
    | 4 => .load .lbu rd rs1 off
    | 5 => .load .lhu rd rs1 off
    | _ => .illegal
  | 0x23 =>
    let off := sext32 12 (bits w 31 25 * 32 + bits w 11 7)
    match bits w 14 12 with
    | 0 => .store .sb rs1 rs2 off
    | 1 => .store .sh rs1 rs2 off
    | 2 => .store .sw rs1 rs2 off
    | _ => .illegal
  | 0x13 => rvOpImm w
  | 0x33 => match rvOpOf (bits w 31 25) (bits w 14 12) with
    | some o => .op o rd rs1 rs2
    | none => .illegal
  | 0x0F => match bits w 14 12 with
    | 0 => .fence
    | 1 => .fenceI
    | _ => .illegal
  | 0x73 =>
    let num := BitVec.ofNat 12 (bits w 31 20)
    match bits w 14 12 with
    | 1 => .csr .rw rd num rs1
    | 2 => .csr .rs rd num rs1
    | 3 => .csr .rc rd num rs1
    | 5 => .csrImm .rw rd num rs1
    | 6 => .csrImm .rs rd num rs1
    | 7 => .csrImm .rc rd num rs1
    | _ => .illegal
  | _ => .illegal

/-- A three-bit register field of the compressed set: x8 to x15. -/
def regC (h lo : Nat) : BitVec 5 := BitVec.ofNat 5 (8 + bits h (lo + 2) lo)

/-- Quadrant 0 of the compressed set. -/
def decodeC0 (h : Nat) : RvInstr :=
  let woff := BitVec.ofNat 32 (bits h 12 10 * 8 + bits h 6 6 * 4 + bits h 5 5 * 64)
  match bits h 15 13 with
  | 0 =>
    let imm := bits h 10 7 * 64 + bits h 12 11 * 16 + bits h 5 5 * 8 + bits h 6 6 * 4
    if imm = 0 then .illegal else .opImm .add (regC h 2) 2#5 (BitVec.ofNat 32 imm)
  | 2 => .load .lw (regC h 2) (regC h 7) woff
  | 6 => .store .sw (regC h 7) (regC h 2) woff
  | _ => .illegal

/-- The six-bit signed immediate of quadrant 1. -/
def immC (h : Nat) : BitVec 32 := sext32 6 (bits h 12 12 * 32 + bits h 6 2)
/-- The jump offset of `c.j` and `c.jal`. -/
def jumpC (h : Nat) : BitVec 32 :=
  sext32 12 (bits h 12 12 * 2 ^ 11 + bits h 8 8 * 2 ^ 10 + bits h 10 9 * 2 ^ 8 + bits h 6 6 * 2 ^ 7 + bits h 7 7 * 2 ^ 6
    + bits h 2 2 * 2 ^ 5 + bits h 11 11 * 2 ^ 4 + bits h 5 3 * 2)
/-- The branch offset of `c.beqz` and `c.bnez`. -/
def branchC (h : Nat) : BitVec 32 :=
  sext32 9 (bits h 12 12 * 2 ^ 8 + bits h 6 5 * 2 ^ 6 + bits h 2 2 * 2 ^ 5 + bits h 11 10 * 2 ^ 3 + bits h 4 3 * 2)

/-- Quadrant 1 of the compressed set. -/
def decodeC1 (h : Nat) : RvInstr :=
  let rd := regOf h 7
  let rc := regC h 7
  match bits h 15 13 with
  | 0 => .opImm .add rd rd (immC h)
  | 1 => .jal 1#5 (jumpC h)
  | 2 => .opImm .add rd 0#5 (immC h)
  | 3 =>
    if bits h 11 7 = 2 then
      let imm := sext32 10 (bits h 12 12 * 512 + bits h 4 3 * 128 + bits h 5 5 * 64 + bits h 2 2 * 32 + bits h 6 6 * 16)
      if imm = 0#32 then .illegal else .opImm .add 2#5 2#5 imm
    else if immC h = 0#32 then .illegal
    else .lui rd (BitVec.ofInt 20 (signedOf 6 (bits h 12 12 * 32 + bits h 6 2)))
  | 4 =>
    match bits h 11 10 with
    | 0 => if bits h 12 12 = 0 then .opImm .srl rc rc (BitVec.ofNat 32 (bits h 6 2)) else .illegal
    | 1 => if bits h 12 12 = 0 then .opImm .sra rc rc (BitVec.ofNat 32 (bits h 6 2)) else .illegal
    | 2 => .opImm .and rc rc (immC h)
    | _ =>
      if bits h 12 12 = 0 then
        match bits h 6 5 with
        | 0 => .op .sub rc rc (regC h 2)
        | 1 => .op .xor rc rc (regC h 2)
        | 2 => .op .or rc rc (regC h 2)
        | _ => .op .and rc rc (regC h 2)
      else .illegal
  | 5 => .jal 0#5 (jumpC h)
  | 6 => .branch .beq rc 0#5 (branchC h)
  | _ => .branch .bne rc 0#5 (branchC h)

/-- Quadrant 2 of the compressed set. -/
def decodeC2 (h : Nat) : RvInstr :=
  let rd := regOf h 7
  let rs2 := regOf h 2
  match bits h 15 13 with
  | 0 => if bits h 12 12 = 0 then .opImm .sll rd rd (BitVec.ofNat 32 (bits h 6 2)) else .illegal
  | 2 =>
    if rd = 0#5 then .illegal
    else .load .lw rd 2#5 (BitVec.ofNat 32 (bits h 3 2 * 64 + bits h 12 12 * 32 + bits h 6 4 * 4))
  | 4 =>
    if bits h 12 12 = 0 then
      if rs2 = 0#5 then (if rd = 0#5 then .illegal else .jalr 0#5 rd 0#32) else .op .add rd 0#5 rs2
    else
      if rs2 = 0#5 then (if rd = 0#5 then .illegal else .jalr 1#5 rd 0#32) else .op .add rd rd rs2
  | 6 => .store .sw 2#5 rs2 (BitVec.ofNat 32 (bits h 8 7 * 64 + bits h 12 9 * 4))
  | _ => .illegal

/-- The base instruction of a compressed half word (C as ratified for RV32 without F and D). -/
def decodeRvc (h : Nat) : RvInstr :=
  match bits h 1 0 with
  | 0 => decodeC0 h
  | 1 => decodeC1 h
  | _ => decodeC2 h

/-- The slice-core instruction at the start of four bytes (R240, R243): two low bits 11 make a 32-bit
instruction, all else is compressed. -/
def decodeSlice (w : Nat) : Instr :=
  if bits w 1 0 = 3 then
    if bits w 6 0 = 0x0B then
      match decodeSliceExt w with
      | some i => i
      | none => .sliceBaseInstruction false .illegal
    else .sliceBaseInstruction false (decodeRv w)
  else .sliceBaseInstruction true (decodeRvc (w % 2 ^ 16))

/-- The Brynrid instruction at the head of a list of bytes, and the rest of the list (R44: one little-endian
32-bit word). -/
def decodeBytes : List Byte → Except DecodeError (Instr × List Byte)
  | b0 :: b1 :: b2 :: b3 :: rest => do
    let i ← decodeWord (natOfBytes [b0, b1, b2, b3])
    .ok (i, rest)
  | _ => .error .shortInput

/-- The instruction that the table's word `w` stands for: a slice-extension word of custom-0 that R243 lists, else
a Brynrid word. -/
def decodeTableWord (_nbits w : Nat) : Option Instr :=
  let brynrid := match decodeWord (w % 2 ^ 32) with
    | .ok i => some i
    | .error _ => none
  if w % 128 = 0x0B then
    match decodeSliceExt (w % 2 ^ 32) with
    | some i => some i
    | none => brynrid
  else brynrid

/-! ## The encoder -/

/-- The major opcode and the bits below it. -/
def packOp (op rest : Nat) : Nat := op * 2 ^ 25 + rest
/-- A format. -/
def packA (op : Nat) (r : BitVec 5) (b t : Target) : Nat := packOp op (r.toNat * 2 ^ 18 + b.code * 2 ^ 9 + t.code)
/-- W format. -/
def packW (op : Nat) (p : Pred) (r : BitVec 5) : Nat := packOp op (p.code * 2 ^ 23 + r.toNat * 2 ^ 18)
/-- C format. -/
def packC (op : Nat) (k : BitVec 16) (t : Target) : Nat := packOp op (k.toNat * 2 ^ 9 + t.code)
/-- G format. -/
def packG (op x : Nat) (p : Pred) (b t : Target) : Nat :=
  packOp op (p.code * 2 ^ 23 + x * 2 ^ 18 + b.code * 2 ^ 9 + t.code)
/-- G format of three operands. -/
def packG3 (op x : Nat) (b t : Target) : Nat := packG op x .always b t
/-- G format without targets. -/
def packP (op x : Nat) (p : Pred) : Nat := packG op x p .none .none
/-- G format of three operands without targets. -/
def packE (op x : Nat) : Nat := packG op x .always .none .none
/-- I format. -/
def packI (op : Nat) (p : Pred) (i : BitVec 14) (t : Target) : Nat :=
  packOp op (p.code * 2 ^ 23 + i.toNat * 2 ^ 9 + t.code)
/-- A shift immediate. -/
def packShift (op : Nat) (p : Pred) (s : BitVec 6) (t : Target) : Nat :=
  packOp op (p.code * 2 ^ 23 + s.toNat * 2 ^ 9 + t.code)
/-- `CMP`. -/
def packCmp (op : Nat) (p : Pred) (c : Cond) (b t : Target) : Nat := packG op c.code p b t
/-- J format. -/
def packJ (op : Nat) (p : Pred) (c : Cond) (i : BitVec 11) (t : Target) : Nat :=
  packOp op (p.code * 2 ^ 23 + c.code * 2 ^ 20 + i.toNat * 2 ^ 9 + t.code)
/-- `LEA`. -/
def packLea (op : Nat) (p : Pred) (s : BitVec 3) (b t : Target) : Nat := packG op s.toNat p b t
/-- `EXT`. -/
def packExt (op : Nat) (p : Pred) (g : BitVec 1) (l s : BitVec 6) (t : Target) : Nat :=
  packOp op (p.code * 2 ^ 23 + g.toNat * 2 ^ 21 + l.toNat * 2 ^ 15 + s.toNat * 2 ^ 9 + t.code)
/-- X format. -/
def packX (op : Nat) (p : Pred) (e : BitVec 3) (o : BitVec 20) : Nat :=
  packOp op (p.code * 2 ^ 23 + e.toNat * 2 ^ 20 + o.toNat)
/-- X format without an offset. -/
def packXl (op : Nat) (p : Pred) (e : BitVec 3) : Nat := packX op p e 0#20
/-- L format. -/
def packL (op : Nat) (p : Pred) (l : BitVec 5) (i : BitVec 9) (t : Target) : Nat :=
  packOp op (p.code * 2 ^ 23 + l.toNat * 2 ^ 18 + i.toNat * 2 ^ 9 + t.code)
/-- `LDA`. -/
def packLda (op : Nat) (p : Pred) (l : BitVec 5) (sc : Scope) (o : BitVec 6) (t : Target) : Nat :=
  packOp op (p.code * 2 ^ 23 + l.toNat * 2 ^ 18 + sc.code * 2 ^ 15 + o.toNat * 2 ^ 9 + t.code)
/-- S format. -/
def packS (op : Nat) (p : Pred) (l : BitVec 5) (i : BitVec 9) : Nat := packL op p l i .none
/-- S format with a scope. -/
def packSs (op : Nat) (p : Pred) (l : BitVec 5) (sc : Scope) (o : BitVec 6) : Nat := packLda op p l sc o .none
/-- `FENCE`. -/
def packFence (op : Nat) (p : Pred) (l : BitVec 5) (sc : Scope) (k : FenceKind) (t : Target) : Nat :=
  packOp op (p.code * 2 ^ 23 + l.toNat * 2 ^ 18 + sc.code * 2 ^ 15 + k.code * 2 ^ 13 + t.code)
/-- The `AMO` family. -/
def packAmo (op : Nat) (p : Pred) (x : AmoOp) (b t : Target) : Nat := packG op x.code p b t
/-- `FCVT`. -/
def packCvt (op : Nat) (p : Pred) (x : CvtPair) (b t : Target) : Nat := packG op x.code p b t
/-- `VCMP`. -/
def packVcmp (op : Nat) (c : VCond) : Nat := packE op c.code
/-- `VENC`. -/
def packVenc (op : Nat) (c : CodeTable) : Nat := packE op c.code
/-- `MROT`. -/
def packMrot (op : Nat) (c : MmaPair) : Nat := packE op c.code
/-- `CWR`. -/
def packN (op : Nat) (p : Pred) (n : BitVec 14) (t : Target) : Nat := packI op p n t
/-- `CWW`. -/
def packNw (op : Nat) (p : Pred) (n : BitVec 14) : Nat := packI op p n .none
/-- R-type of the slice extension (R243). -/
def packR (f3 f7 rs2 rs1 rd : Nat) : Nat :=
  f7 * 2 ^ 25 + rs2 * 2 ^ 20 + rs1 * 2 ^ 15 + f3 * 2 ^ 12 + rd * 2 ^ 7 + 0x0B

/-- The word of an instruction that has one; an event has none, and base slice-core instructions are decoded only
(their encodings are those of RV32IMC as ratified, R240). -/
def encode : Instr → Option Nat
  | .read r t1 t0 => some (packA 1 r t1 t0)
  | .write p r => some (packW 2 p r)
  | .const k t0 => some (packC 3 k t0)
  | .consth k t0 => some (packC 4 k t0)
  | .mov2 p t1 t0 => some (packG 5 0 p t1 t0)
  | .null p t1 t0 => some (packG 6 0 p t1 t0)
  | .sel t1 t0 => some (packG3 7 0 t1 t0)
  | .add p t1 t0 => some (packG 16 0 p t1 t0)
  | .sub p t1 t0 => some (packG 16 1 p t1 t0)
  | .and p t1 t0 => some (packG 16 2 p t1 t0)
  | .or p t1 t0 => some (packG 16 3 p t1 t0)
  | .xor p t1 t0 => some (packG 16 4 p t1 t0)
  | .andn p t1 t0 => some (packG 16 5 p t1 t0)
  | .shl p t1 t0 => some (packG 16 6 p t1 t0)
  | .shr p t1 t0 => some (packG 16 7 p t1 t0)
  | .sra p t1 t0 => some (packG 16 8 p t1 t0)
  | .rol p t1 t0 => some (packG 16 9 p t1 t0)
  | .ror p t1 t0 => some (packG 16 10 p t1 t0)
  | .mul p t1 t0 => some (packG 16 11 p t1 t0)
  | .mulh p t1 t0 => some (packG 16 12 p t1 t0)
  | .mulhn p t1 t0 => some (packG 16 13 p t1 t0)
  | .div p t1 t0 => some (packG 16 14 p t1 t0)
  | .divn p t1 t0 => some (packG 16 15 p t1 t0)
  | .rem p t1 t0 => some (packG 16 16 p t1 t0)
  | .remn p t1 t0 => some (packG 16 17 p t1 t0)
  | .min p t1 t0 => some (packG 16 18 p t1 t0)
  | .max p t1 t0 => some (packG 16 19 p t1 t0)
  | .minn p t1 t0 => some (packG 16 20 p t1 t0)
  | .maxn p t1 t0 => some (packG 16 21 p t1 t0)
  | .clz p t1 t0 => some (packG 16 22 p t1 t0)
  | .ctz p t1 t0 => some (packG 16 23 p t1 t0)
  | .popc p t1 t0 => some (packG 16 24 p t1 t0)
  | .addsat p t1 t0 => some (packG 16 25 p t1 t0)
  | .subsat p t1 t0 => some (packG 16 26 p t1 t0)
  | .absd p t1 t0 => some (packG 16 27 p t1 t0)
  | .addw p t1 t0 => some (packG 17 0 p t1 t0)
  | .subw p t1 t0 => some (packG 17 1 p t1 t0)
  | .andw p t1 t0 => some (packG 17 2 p t1 t0)
  | .orw p t1 t0 => some (packG 17 3 p t1 t0)
  | .xorw p t1 t0 => some (packG 17 4 p t1 t0)
  | .andnw p t1 t0 => some (packG 17 5 p t1 t0)
  | .shlw p t1 t0 => some (packG 17 6 p t1 t0)
  | .shrw p t1 t0 => some (packG 17 7 p t1 t0)
  | .sraw p t1 t0 => some (packG 17 8 p t1 t0)
  | .rolw p t1 t0 => some (packG 17 9 p t1 t0)
  | .rorw p t1 t0 => some (packG 17 10 p t1 t0)
  | .mulw p t1 t0 => some (packG 17 11 p t1 t0)
  | .divw p t1 t0 => some (packG 17 14 p t1 t0)
  | .divnw p t1 t0 => some (packG 17 15 p t1 t0)
  | .remw p t1 t0 => some (packG 17 16 p t1 t0)
  | .remnw p t1 t0 => some (packG 17 17 p t1 t0)
  | .clzw p t1 t0 => some (packG 17 22 p t1 t0)
  | .ctzw p t1 t0 => some (packG 17 23 p t1 t0)
  | .popcw p t1 t0 => some (packG 17 24 p t1 t0)
  | .addi p i t0 => some (packI 18 p i t0)
  | .andi p i t0 => some (packI 19 p i t0)
  | .ori p i t0 => some (packI 20 p i t0)
  | .xori p i t0 => some (packI 21 p i t0)
  | .shli p s t0 => some (packShift 22 p s t0)
  | .shri p s t0 => some (packShift 23 p s t0)
  | .srai p s t0 => some (packShift 24 p s t0)
  | .muli p i t0 => some (packI 25 p i t0)
  | .cmp p c t1 t0 => some (packCmp 26 p c t1 t0)
  | .cmpi p c i t0 => some (packJ 27 p c i t0)
  | .lea p s t1 t0 => some (packLea 28 p s t1 t0)
  | .ext p g l s t0 => some (packExt 29 p g l s t0)
  | .ins t1 t0 => some (packG3 30 0 t1 t0)
  | .br p e o => some (packX 32 p e o)
  | .brl p e => some (packXl 33 p e)
  | .call p e o => some (packX 34 p e o)
  | .calll p e => some (packXl 35 p e)
  | .ret p e => some (packXl 36 p e)
  | .endExit p e => some (packXl 37 p e)
  | .susp p e o => some (packX 38 p e o)
  | .migr p e o => some (packX 39 p e o)
  | .ld8 p l i t0 => some (packL 40 p l i t0)
  | .ld16 p l i t0 => some (packL 41 p l i t0)
  | .ld32 p l i t0 => some (packL 42 p l i t0)
  | .ld64 p l i t0 => some (packL 43 p l i t0)
  | .lds8 p l i t0 => some (packL 44 p l i t0)
  | .lds16 p l i t0 => some (packL 45 p l i t0)
  | .lds32 p l i t0 => some (packL 46 p l i t0)
  | .lda p l sc o t0 => some (packLda 47 p l sc o t0)
  | .st8 p l i => some (packS 48 p l i)
  | .st16 p l i => some (packS 49 p l i)
  | .st32 p l i => some (packS 50 p l i)
  | .st64 p l i => some (packS 51 p l i)
  | .stl p l sc o => some (packSs 52 p l sc o)
  | .fence p l sc k t0 => some (packFence 53 p l sc k t0)
  | .pref p l i => some (packS 54 p l i)
  | .amoar p x t1 t0 => some (packAmo 55 p x t1 t0)
  | .gadv p l sc o => some (packSs 56 p l sc o)
  | .watchTask t1 t0 => some (packG3 57 0 t1 t0)
  | .watchFut t1 t0 => some (packG3 57 1 t1 t0)
  | .watchCancel p => some (packP 57 2 p)
  | .pull => some (packE 58 0)
  | .listen p t1 t0 => some (packG 59 0 p t1 t0)
  | .unlisten p => some (packP 60 0 p)
  | .amo p x t1 t0 => some (packAmo 61 p x t1 t0)
  | .amoaq p x t1 t0 => some (packAmo 62 p x t1 t0)
  | .amorl p x t1 t0 => some (packAmo 63 p x t1 t0)
  | .faddD p t1 t0 => some (packG 64 0 p t1 t0)
  | .fsubD p t1 t0 => some (packG 64 1 p t1 t0)
  | .fmulD p t1 t0 => some (packG 64 2 p t1 t0)
  | .fdivD p t1 t0 => some (packG 64 3 p t1 t0)
  | .fsqrtD p t1 t0 => some (packG 64 4 p t1 t0)
  | .fminD p t1 t0 => some (packG 64 5 p t1 t0)
  | .fmaxD p t1 t0 => some (packG 64 6 p t1 t0)
  | .fnegD p t1 t0 => some (packG 64 7 p t1 t0)
  | .fabsD p t1 t0 => some (packG 64 8 p t1 t0)
  | .feqD p t1 t0 => some (packG 64 9 p t1 t0)
  | .fltD p t1 t0 => some (packG 64 10 p t1 t0)
  | .fleD p t1 t0 => some (packG 64 11 p t1 t0)
  | .fclassD p t1 t0 => some (packG 64 12 p t1 t0)
  | .fsgnjD p t1 t0 => some (packG 64 13 p t1 t0)
  | .faddS p t1 t0 => some (packG 65 0 p t1 t0)
  | .fsubS p t1 t0 => some (packG 65 1 p t1 t0)
  | .fmulS p t1 t0 => some (packG 65 2 p t1 t0)
  | .fdivS p t1 t0 => some (packG 65 3 p t1 t0)
  | .fsqrtS p t1 t0 => some (packG 65 4 p t1 t0)
  | .fminS p t1 t0 => some (packG 65 5 p t1 t0)
  | .fmaxS p t1 t0 => some (packG 65 6 p t1 t0)
  | .fnegS p t1 t0 => some (packG 65 7 p t1 t0)
  | .fabsS p t1 t0 => some (packG 65 8 p t1 t0)
  | .feqS p t1 t0 => some (packG 65 9 p t1 t0)
  | .fltS p t1 t0 => some (packG 65 10 p t1 t0)
  | .fleS p t1 t0 => some (packG 65 11 p t1 t0)
  | .fclassS p t1 t0 => some (packG 65 12 p t1 t0)
  | .fsgnjS p t1 t0 => some (packG 65 13 p t1 t0)
  | .fmaD t1 t0 => some (packG3 66 0 t1 t0)
  | .fmaS t1 t0 => some (packG3 67 0 t1 t0)
  | .fcvt p x t1 t0 => some (packCvt 68 p x t1 t0)
  | .sfnExp2 p t1 t0 => some (packG 69 0 p t1 t0)
  | .sfnLog2 p t1 t0 => some (packG 69 1 p t1 t0)
  | .sfnRcp p t1 t0 => some (packG 69 2 p t1 t0)
  | .sfnRsq p t1 t0 => some (packG 69 3 p t1 t0)
  | .sfnSin p t1 t0 => some (packG 69 4 p t1 t0)
  | .sfnCos p t1 t0 => some (packG 69 5 p t1 t0)
  | .sfnTanh p t1 t0 => some (packG 69 6 p t1 t0)
  | .sfnSigm p t1 t0 => some (packG 69 7 p t1 t0)
  | .vadd => some (packE 72 0)
  | .vsub => some (packE 72 1)
  | .vmul => some (packE 72 2)
  | .vdiv => some (packE 72 3)
  | .vmin => some (packE 72 4)
  | .vmax => some (packE 72 5)
  | .vand => some (packE 72 6)
  | .vor => some (packE 72 7)
  | .vxor => some (packE 72 8)
  | .vshl => some (packE 72 9)
  | .vshr => some (packE 72 10)
  | .vfma => some (packE 73 0)
  | .vneg p => some (packP 74 0 p)
  | .vabs p => some (packP 74 1 p)
  | .vcpy p => some (packP 74 2 p)
  | .vexp2 p => some (packP 74 3 p)
  | .vlog2 p => some (packP 74 4 p)
  | .vrcp p => some (packP 74 5 p)
  | .vrsq p => some (packP 74 6 p)
  | .vtanh p => some (packP 74 7 p)
  | .vsigm p => some (packP 74 8 p)
  | .vsin p => some (packP 74 9 p)
  | .vcos p => some (packP 74 10 p)
  | .vredSum p => some (packP 75 0 p)
  | .vredMax p => some (packP 75 1 p)
  | .vredMin p => some (packP 75 2 p)
  | .vredAmax p => some (packP 75 3 p)
  | .vscanInc p => some (packP 76 0 p)
  | .vscanExc p => some (packP 76 1 p)
  | .vgath => some (packE 77 0)
  | .vscat => some (packE 78 0)
  | .vmsk => some (packE 79 0)
  | .vbcast p => some (packP 80 0 p)
  | .vpopaNone => some (packE 81 0)
  | .vpopaRelu => some (packE 81 1)
  | .vpopaClamp => some (packE 81 2)
  | .vcmp c => some (packVcmp 82 c)
  | .vsel => some (packE 83 0)
  | .vpermRev p => some (packP 84 0 p)
  | .vpermIntl p => some (packP 84 1 p)
  | .vpermDintl p => some (packP 84 2 p)
  | .vpermRot => some (packE 84 3)
  | .vqnt p => some (packP 85 0 p)
  | .venc n => some (packVenc 86 n)
  | .vdec p => some (packP 87 0 p)
  | .mmaDd => some (packE 96 0)
  | .mmaSs => some (packE 97 0)
  | .mmaBb => some (packE 98 0)
  | .mmaHh => some (packE 99 0)
  | .mmaEe => some (packE 100 0)
  | .mmaEv => some (packE 101 0)
  | .mmaVv => some (packE 102 0)
  | .mmaBk => some (packE 103 0)
  | .mmaEk => some (packE 104 0)
  | .mmaQq => some (packE 105 0)
  | .mmaXx => some (packE 106 0)
  | .mmaYy => some (packE 107 0)
  | .mmaIi => some (packE 108 0)
  | .mmaNn => some (packE 109 0)
  | .mrot f => some (packMrot 110 f)
  | .maccZero p => some (packP 111 0 p)
  | .maccReclaim p => some (packP 111 1 p)
  | .maccPark p => some (packP 111 2 p)
  | .maccQuery p t1 t0 => some (packG 111 3 p t1 t0)
  | .maccLoada p => some (packP 111 4 p)
  | .maccStorea p => some (packP 111 5 p)
  | .fork p t1 t0 => some (packG 112 0 p t1 t0)
  | .join p t1 t0 => some (packG 113 0 p t1 t0)
  | .send p => some (packP 114 0 p)
  | .sendb => some (packE 115 0)
  | .futr p t1 t0 => some (packG 116 0 p t1 t0)
  | .futw p => some (packP 117 0 p)
  | .launch p t1 t0 => some (packG 118 0 p t1 t0)
  | .compose p t1 t0 => some (packG 119 0 p t1 t0)
  | .release p => some (packP 120 0 p)
  | .cwr p n t0 => some (packN 121 p n t0)
  | .cww p n => some (packNw 122 p n)
  | .switch p => some (packP 123 0 p)
  | .sysc p e c => some (packX 124 p e c)
  | .eret p e => some (packXl 125 p e)
  | .reloc => some (packE 126 0)
  | .slrd rs2 rs1 rd => some (packR 0 0 rs2.toNat rs1.toNat rd.toNat)
  | .slwr rs2 rs1 rd => some (packR 0 1 rs2.toNat rs1.toNat rd.toNat)
  | .sgadv g rs2 rs1 rd => some (packR 1 g.code rs2.toNat rs1.toNat rd.toNat)
  | .ssend rs2 rs1 rd => some (packR 2 0 rs2.toNat rs1.toNat rd.toNat)
  | .spull rs2 rs1 rd => some (packR 3 0 rs2.toNat rs1.toNat rd.toNat)
  | .screg rs2 rs1 rd => some (packR 4 0 rs2.toNat rs1.toNat rd.toNat)
  | .scarm rs1 rd => some (packR 4 1 0 rs1.toNat rd.toNat)
  | .scdrp rs1 rd => some (packR 4 2 0 rs1.toNat rd.toNat)
  | .samoAdd rs2 rs1 rd => some (packR 5 0 rs2.toNat rs1.toNat rd.toNat)
  | .samoAnd rs2 rs1 rd => some (packR 5 1 rs2.toNat rs1.toNat rd.toNat)
  | .samoOr rs2 rs1 rd => some (packR 5 2 rs2.toNat rs1.toNat rd.toNat)
  | .samoXor rs2 rs1 rd => some (packR 5 3 rs2.toNat rs1.toNat rd.toNat)
  | .samoMin rs2 rs1 rd => some (packR 5 4 rs2.toNat rs1.toNat rd.toNat)
  | .samoMax rs2 rs1 rd => some (packR 5 5 rs2.toNat rs1.toNat rd.toNat)
  | .samoMinn rs2 rs1 rd => some (packR 5 6 rs2.toNat rs1.toNat rd.toNat)
  | .samoMaxn rs2 rs1 rd => some (packR 5 7 rs2.toNat rs1.toNat rd.toNat)
  | .samoSwap rs2 rs1 rd => some (packR 5 8 rs2.toNat rs1.toNat rd.toNat)
  | .samoCas rs2 rs1 rd => some (packR 5 9 rs2.toNat rs1.toNat rd.toNat)
  | .samoDecz rs2 rs1 rd => some (packR 5 13 rs2.toNat rs1.toNat rd.toNat)
  | .sreply rs1 => some (packR 6 0 0 rs1.toNat 0)
  | .stlim rs1 rd => some (packR 6 1 0 rs1.toNat rd.toNat)
  | .shend => some (packR 7 0 0 0 0)
  | .sliceBaseInstruction _ _ => none
  | .blockFetch => none
  | .blockFetchReadReturn => none
  | .tokenArrival => none
  | .blockCommit => none
  | .blockStarved => none
  | .portPushTimeout => none
  | .blockAbandon => none
  | .contextAllocation => none
  | .contextDispatch => none
  | .loadReply => none
  | .sluiceRequest => none
  | .tlbWalkComplete => none
  | .l2LineFill => none
  | .freshZeroingDone => none
  | .watchRegistration => none
  | .watchRegistrationReply => none
  | .watchArm => none
  | .watchSatisfactionArrival => none
  | .watchCancelArrival => none
  | .atomicPacketArrival => none
  | .atomicTurn => none
  | .atomicReply => none
  | .handlerStart => none
  | .handlerBudgetExpiry => none
  | .messageArrival => none
  | .sliceMessageArrival => none
  | .replyArrival => none
  | .moveNoticeArrival => none
  | .threadReleaseArrival => none
  | .migrationPacketArrival => none
  | .migrationAdmissionReply => none
  | .migrationResend => none
  | .relocTransfer => none
  | .relocArrival => none
  | .dequeRefill => none
  | .stealRequest => none
  | .stealRequestArrival => none
  | .stealReplyArrival => none
  | .stealBackoffExpiry => none
  | .launchDispatch => none
  | .launchGroupPlacement => none
  | .mergeReport => none
  | .sfuAccept => none
  | .sfuResult => none
  | .vectorBeat => none
  | .matrixEntryAccept => none
  | .matrixCommandRecord => none
  | .matrixSlab => none
  | .matrixEntryComplete => none
  | .rangeLockRegister => none
  | .entryRetire => none
  | .transferIssue => none
  | .eq2Pull => none
  | .pullw => none
  | .fill => none
  | .gcopy => none
  | .lineReadReply => none
  | .listenNotification => none
  | .allReduce => none
  | .reduceScatter => none
  | .allGather => none
  | .broadcast => none
  | .barrier => none
  | .allToAllV => none
  | .reduce => none
  | .chunkStart => none
  | .chunkEnd => none
  | .collectiveGaugeNotice => none
  | .absentAnswer => none
  | .returnNotice => none
  | .collectiveNoticeResend => none
  | .abortPacket => none
  | .stepPacket => none
  | .stepWaitTimeout => none
  | .agreePacket => none
  | .donePacket => none
  | .agreeTimeout => none
  | .linkRetry => none
  | .linkLost => none
  | .ethernetResend => none
  | .tailTimeout => none
  | .poisonedWormDiscard => none
  | .diePowerLoss => none
  | .thermalTrip => none
  | .clockThrottle => none
  | .powerOnBringup => none
  | .submissionTailWrite => none
  | .completionHeadWrite => none
  | .packetFetch => none
  | .hostNop => none
  | .hostRun => none
  | .hostLaunch => none
  | .hostWait => none
  | .hostCopyin => none
  | .hostCopyout => none
  | .hostWorkComplete => none
  | .remapUnmask => none
  | .pasidRevoke => none
  | .revocationComplete => none
  | .invalidatePasid => none
  | .invalidatePage => none
  | .invalidateStage2 => none
  | .invalidatePartition => none
  | .invalidationComplete => none
  | .podposWrite => none
  | .attestGo => none
  | .attestReportReady => none
  | .partitionSwap => none
  | .partitionRemove => none
  | .swapDrainComplete => none
  | .polderStopRequest => none
  | .polderFence => none
  | .contextReleaseCmd => none
  | .contextEndCmd => none
  | .contextHaltCmd => none
  | .registerWrite => none
  | .systemAbort => none
  | .readmission => none
  | .packagePowerLoss => none

end Sys2Proof
end

