-- ==== Sys2Proof/Machine/Flags.lean ====
section
/-! DEFINITION. Number formats, exact values, rounding, narrowing and the floating-point flags (spec/06 R139-R155, R463).
A value is carried exactly; only `Fmt.round` and the narrowing functions lose anything, and they say so in flags. -/

namespace Sys2Proof.Machine

/-! ## Flags (R75, R151) -/

/-- Inexact. -/
def fNx : Nat := 1
/-- Underflow. -/
def fUf : Nat := 2
/-- Overflow. -/
def fOf : Nat := 4
/-- Divide by zero. -/
def fDz : Nat := 8
/-- Invalid operation. -/
def fNv : Nat := 16
/-- A flag under a condition. -/
def flagIf (c : Bool) (f : Nat) : Nat := if c then f else 0
/-- The flags of a list of results together. -/
def orAll : List Nat → Nat
  | [] => 0
  | f :: fs => Nat.lor f (orAll fs)

/-! ## Formats (R139, R140) -/

/-- The floating-point formats. -/
inductive Fmt where
  | f64 | f32 | bf16 | f16 | e4m3 | e5m2 | e3m2 | e2m3 | e2m1
  deriving DecidableEq, Repr, Inhabited

/-- Exponent bits (R140). -/
def Fmt.expBits : Fmt → Nat
  | .f64 => 11
  | .f32 => 8
  | .bf16 => 8
  | .f16 => 5
  | .e4m3 => 4
  | .e5m2 => 5
  | .e3m2 => 3
  | .e2m3 => 2
  | .e2m1 => 2
/-- Mantissa bits (R140). -/
def Fmt.manBits : Fmt → Nat
  | .f64 => 52
  | .f32 => 23
  | .bf16 => 7
  | .f16 => 10
  | .e4m3 => 3
  | .e5m2 => 2
  | .e3m2 => 2
  | .e2m3 => 3
  | .e2m1 => 1
/-- Exponent bias (R140). -/
def Fmt.bias : Fmt → Nat
  | .f64 => 1023
  | .f32 => 127
  | .bf16 => 127
  | .f16 => 15
  | .e4m3 => 7
  | .e5m2 => 15
  | .e3m2 => 3
  | .e2m3 => 1
  | .e2m1 => 1
/-- Width in bits. -/
def Fmt.width (F : Fmt) : Nat := 1 + F.expBits + F.manBits
/-- The IEEE formats, which overflow to infinity and have signalling NaNs (R141, R153). -/
def Fmt.ieee : Fmt → Bool
  | .f64 => true
  | .f32 => true
  | .bf16 => true
  | .f16 => true
  | _ => false
/-- The format has infinities. -/
def Fmt.hasInf (F : Fmt) : Bool := F.ieee || F == .e5m2
/-- The format has NaNs. -/
def Fmt.hasNan (F : Fmt) : Bool := F.hasInf || F == .e4m3
/-- The magnitude code of the largest finite value (R140). -/
def Fmt.maxCode (F : Fmt) : Nat :=
  if F.hasInf then (2 ^ F.expBits - 1) * 2 ^ F.manBits - 1
  else if F = .e4m3 then 0x7E
  else 2 ^ (F.expBits + F.manBits) - 1
/-- The magnitude code of infinity. -/
def Fmt.infCode (F : Fmt) : Nat := (2 ^ F.expBits - 1) * 2 ^ F.manBits
/-- The sign bit. -/
def Fmt.signBit (F : Fmt) : Nat := 2 ^ (F.expBits + F.manBits)
/-- A magnitude code with a sign. -/
def Fmt.withSign (F : Fmt) (neg : Bool) (code : Nat) : Nat := (if neg then F.signBit else 0) + code
/-- The default NaN (R152). -/
def Fmt.defaultNan : Fmt → Nat
  | .f64 => 0x7FF8000000000000
  | .f32 => 0x7FC00000
  | .bf16 => 0x7FC0
  | .f16 => 0x7E00
  | .e4m3 => 0x7F
  | .e5m2 => 0x7E
  | _ => 0

/-! ## Exact values -/

/-- A value: `mant × 2^exp` with a sign (a zero keeps its sign), an infinity, or a NaN, signalling or not. -/
inductive Num where
  | fin (neg : Bool) (mant : Nat) (exp : Int)
  | inf (neg : Bool)
  | nan (sig : Bool)
  deriving DecidableEq, Repr, Inhabited

/-- The number of significant bits. -/
def bitCount (v : Nat) : Nat := if v = 0 then 0 else Nat.log2 v + 1

/-- The value of an encoding (R141). -/
def Fmt.decode (F : Fmt) (x : Nat) : Num :=
  let neg := bit x (F.expBits + F.manBits)
  let E := x / 2 ^ F.manBits % 2 ^ F.expBits
  let m := x % 2 ^ F.manBits
  if F.hasInf && E == 2 ^ F.expBits - 1 then
    if m = 0 then .inf neg else .nan (F.ieee && !bit m (F.manBits - 1))
  else if F = .e4m3 ∧ E = 15 ∧ m = 7 then .nan false
  else if E = 0 then .fin neg m (1 - (F.bias : Int) - F.manBits)
  else .fin neg (2 ^ F.manBits + m) ((E : Int) - F.bias - F.manBits)

/-- Round up at a discarded part `rem` out of `2^sh`, by mode, sign and the last kept bit (R150). -/
def roundsUp (rm : Nat) (neg : Bool) (kept rem sh : Nat) : Bool :=
  match rm with
  | 1 => false
  | 2 => neg && decide (rem ≠ 0)
  | 3 => !neg && decide (rem ≠ 0)
  | 4 => decide (2 ^ sh ≤ 2 * rem)
  | _ => decide (2 ^ sh < 2 * rem) || (decide (2 ^ sh = 2 * rem) && kept % 2 == 1)

/-- `m` without its low `sh` bits, rounded. -/
def roundShift (rm : Nat) (neg : Bool) (m sh : Nat) : Nat :=
  m / 2 ^ sh + boolNat (roundsUp rm neg (m / 2 ^ sh) (m % 2 ^ sh) sh)

/-- The code that finite overflow delivers (R153). -/
def Fmt.overflowCode (F : Fmt) (rm : Nat) (neg : Bool) : Nat :=
  if !F.ieee then F.maxCode
  else match rm with
    | 1 => F.maxCode
    | 2 => if neg then F.infCode else F.maxCode
    | 3 => if neg then F.maxCode else F.infCode
    | _ => F.infCode

/-- Rounding of a finite nonzero magnitude: the encoding and its flags (R150, R151, R153). Tininess is judged after
rounding with an unbounded exponent range. -/
def Fmt.roundFin (F : Fmt) (rm : Nat) (neg : Bool) (m : Nat) (e : Int) : Nat × Nat :=
  let qmin : Int := 1 - (F.bias : Int) - F.manBits
  let top : Int := e + bitCount m - 1
  let q := max (top - F.manBits) qmin
  let sh := (q - e).toNat
  let kept := if q ≤ e then m * 2 ^ (e - q).toNat else roundShift rm neg m sh
  let inexact := decide (e < q) && decide (m % 2 ^ sh ≠ 0)
  let code := (q - qmin).toNat * 2 ^ F.manBits + kept
  let emin : Int := 1 - (F.bias : Int)
  let shU := (top - F.manBits - e).toNat
  let carries := decide (e < top - F.manBits) && decide (roundShift rm neg m shU = 2 ^ (F.manBits + 1))
  let tiny := decide (top < emin - 1) || (decide (top = emin - 1) && !carries)
  if F.maxCode < code then (F.withSign neg (F.overflowCode rm neg), fOf + fNx)
  else (F.withSign neg code, flagIf inexact fNx + flagIf (inexact && tiny) fUf)

/-- Conversion of a value to a format, with the rules of its destination (R153). -/
def Fmt.narrow (F : Fmt) (rm : Nat) : Num → Nat × Nat
  | .fin neg m e => if m = 0 then (F.withSign neg 0, 0) else F.roundFin rm neg m e
  | .inf neg => if F.hasInf then (F.withSign neg F.infCode, 0) else (F.withSign neg F.maxCode, fOf + fNx)
  | .nan sig => (F.defaultNan, flagIf (sig || !F.hasNan) fNv)

/-! ## Integers and `e8m0` (R142, R153) -/

/-- A finite value rounded to an integer magnitude, and whether it changed. -/
def roundInt (rm : Nat) (neg : Bool) (m : Nat) (e : Int) : Nat × Bool :=
  if 0 ≤ e then (m * 2 ^ e.toNat, false)
  else
    let sh := (-e).toNat
    (roundShift rm neg m sh, decide (m % 2 ^ sh ≠ 0))

/-- The low and high ends of an integer type. -/
def intRange (w : Nat) (signed : Bool) : Int × Int :=
  if signed then (-(2 ^ (w - 1) : Int), 2 ^ (w - 1) - 1) else (0, 2 ^ w - 1)

/-- Conversion to an integer type (R153). -/
def toIntType (w : Nat) (signed : Bool) (rm : Nat) : Num → Nat × Nat
  | .nan _ => (0, fNv)
  | .inf neg => (wrapOf w (if neg then (intRange w signed).1 else (intRange w signed).2), fNv)
  | .fin neg m e =>
    let r := roundInt rm neg m e
    let v : Int := if neg then -(r.1 : Int) else r.1
    let lo := (intRange w signed).1
    let hi := (intRange w signed).2
    if v < lo then (wrapOf w lo, fNv)
    else if hi < v then (wrapOf w hi, fNv)
    else (wrapOf w v, flagIf r.2 fNx)

/-- Conversion to `e8m0` (R142). -/
def toE8m0 : Num → Nat × Nat
  | .fin false m e =>
    if m = 0 then (0xFF, fNv)
    else
      let k : Int := e + bitCount m - 1 + 127
      let c : Int := max 0 (min k 254)
      (c.toNat, flagIf (decide (c ≠ k) || decide (m ≠ 2 ^ (bitCount m - 1))) fNx)
  | _ => (0xFF, fNv)

/-- The value of an `e8m0` byte (R142). -/
def ofE8m0 (x : Nat) : Num := if x = 0xFF then .nan false else .fin false 1 ((x : Int) - 127)

/-- The value of an integer. -/
def Num.ofInt (v : Int) : Num := .fin (decide (v < 0)) v.natAbs 0

/-! ## Exact arithmetic (R151, R152, R463) -/

/-- The NaN is signalling. -/
def Num.isSig : Num → Bool
  | .nan sig => sig
  | _ => false
/-- A NaN. -/
def Num.isNan : Num → Bool
  | .nan _ => true
  | _ => false
/-- The sign. -/
def Num.neg : Num → Bool
  | .fin n _ _ => n
  | .inf n => n
  | .nan _ => false
/-- The value with its sign inverted. -/
def Num.negate : Num → Num
  | .fin n m e => .fin (!n) m e
  | .inf n => .inf (!n)
  | .nan s => .nan s
/-- The magnitude. -/
def Num.abs : Num → Num
  | .fin _ m e => .fin false m e
  | .inf _ => .inf false
  | .nan s => .nan s
/-- A zero. -/
def Num.isZero : Num → Bool
  | .fin _ m _ => m == 0
  | _ => false
/-- A signed mantissa at exponent `q`, which is at most `e`. -/
def alignTo (q : Int) (neg : Bool) (m : Nat) (e : Int) : Int :=
  let v : Int := (m * 2 ^ (e - q).toNat : Nat)
  if neg then -v else v

/-- Sum, with the flags of the operation; `rm` decides the sign of an exact zero (R463). -/
def Num.add (rm : Nat) (x y : Num) : Num × Nat :=
  match x, y with
  | .nan s, t => (.nan false, flagIf (s || t.isSig) fNv)
  | s, .nan t => (.nan false, flagIf (t || s.isSig) fNv)
  | .inf a, .inf b => if a = b then (.inf a, 0) else (.nan false, fNv)
  | .inf a, _ => (.inf a, 0)
  | _, .inf b => (.inf b, 0)
  | .fin a m e, .fin b n f =>
    let q := min e f
    let v := alignTo q a m e + alignTo q b n f
    if v = 0 then
      if m = 0 ∧ n = 0 ∧ a = b then (.fin a 0 0, 0) else (.fin (rm == 2) 0 0, 0)
    else (.fin (decide (v < 0)) v.natAbs q, 0)

/-- Product, with the flags of the operation. -/
def Num.mul (x y : Num) : Num × Nat :=
  match x, y with
  | .nan s, t => (.nan false, flagIf (s || t.isSig) fNv)
  | s, .nan t => (.nan false, flagIf (t || s.isSig) fNv)
  | .inf a, .inf b => (.inf (a != b), 0)
  | .inf a, .fin b n _ => if n = 0 then (.nan false, fNv) else (.inf (a != b), 0)
  | .fin a m _, .inf b => if m = 0 then (.nan false, fNv) else (.inf (a != b), 0)
  | .fin a m e, .fin b n f => (.fin (a != b) (m * n) (e + f), 0)

/-- Quotient to more bits than any format keeps, with a last bit that says whether anything was lost. -/
def Num.div (x y : Num) : Num × Nat :=
  match x, y with
  | .nan s, t => (.nan false, flagIf (s || t.isSig) fNv)
  | s, .nan t => (.nan false, flagIf (t || s.isSig) fNv)
  | .inf _, .inf _ => (.nan false, fNv)
  | .inf a, .fin b _ _ => (.inf (a != b), 0)
  | .fin a _ _, .inf b => (.fin (a != b) 0 0, 0)
  | .fin a m e, .fin b n f =>
    if n = 0 then (if m = 0 then (.nan false, fNv) else (.inf (a != b), fDz))
    else
      let s := 130 + bitCount n
      let v := m * 2 ^ s
      (.fin (a != b) (2 * (v / n) + boolNat (v % n != 0)) (e - f - s - 1), 0)

/-- The integer square root, by `k` result bits. -/
def isqrt (v : Nat) : Nat → Nat → Nat
  | 0, r => r
  | k + 1, r => isqrt v k (if (r + 2 ^ k) * (r + 2 ^ k) ≤ v then r + 2 ^ k else r)

/-- Square root, likewise; the root of -0 is -0 (R159). -/
def Num.sqrt (x : Num) : Num × Nat :=
  match x with
  | .nan s => (.nan false, flagIf s fNv)
  | .inf a => if a then (.nan false, fNv) else (.inf false, 0)
  | .fin a m e =>
    if m = 0 then (.fin a 0 0, 0)
    else if a then (.nan false, fNv)
    else
      let s : Nat := if e % 2 = 0 then 140 else 141
      let v := m * 2 ^ s
      let r := isqrt v (bitCount v / 2 + 1) 0
      (.fin false (2 * r + boolNat (r * r != v)) ((e - s) / 2 - 1), 0)

/-- `x < y` for values that are no NaN; the zeros are equal. -/
def Num.lt (x y : Num) : Bool :=
  match x, y with
  | .nan _, _ => false
  | _, .nan _ => false
  | .inf a, .inf b => a && !b
  | .inf a, _ => a
  | _, .inf b => !b
  | .fin a m e, .fin b n f => decide (alignTo (min e f) a m e < alignTo (min e f) b n f)

/-- `x = y` for values that are no NaN. -/
def Num.eq (x y : Num) : Bool := !x.isNan && !y.isNan && !x.lt y && !y.lt x

/-- `x` counts as smaller than `y` for `FMIN` and `FMAX`, where -0 is below +0 (R159). -/
def Num.below (x y : Num) : Bool := x.lt y || (x.eq y && x.neg && !y.neg)

/-- The smaller value by the rule of `FMIN` (R159). -/
def Num.min (x y : Num) : Num × Nat :=
  (if x.isNan then (if y.isNan then .nan false else y) else if y.isNan then x else if y.below x then y else x,
    flagIf (x.isSig || y.isSig) fNv)
/-- The larger value by the rule of `FMAX` (R159). -/
def Num.max (x y : Num) : Num × Nat :=
  (if x.isNan then (if y.isNan then .nan false else y) else if y.isNan then x else if x.below y then y else x,
    flagIf (x.isSig || y.isSig) fNv)

/-- A value times a power of two, exactly. -/
def Num.scale (k : Int) : Num → Num
  | .fin n m e => .fin n m (e + k)
  | x => x

/-- The value of an element under block scale byte `g` (R144): a scale of 0xFF makes a NaN that counts as
signalling. -/
def Num.blockScale (g : Nat) (x : Num) : Num := if g = 0xFF then .nan true else x.scale ((g : Int) - 127)

/-- An exact result rounded to a format, with the flags of the operation that made it. -/
def Fmt.finish (F : Fmt) (rm : Nat) (r : Num × Nat) : Nat × Nat :=
  let x := F.narrow rm r.1
  (x.1, Nat.lor r.2 x.2)

/-- A sum rounded to `F`, to nearest even, and its flags: the node of every tree (R154, R156). -/
def Fmt.addRne (F : Fmt) (a b : Nat) : Nat × Nat := F.finish 0 ((F.decode a).add 0 (F.decode b))
/-- A product rounded to `F`, to nearest even. -/
def Fmt.mulRne (F : Fmt) (a b : Nat) : Nat × Nat := F.finish 0 ((F.decode a).mul (F.decode b))

/-! ## Element types (R139) -/

/-- The floating-point format of a type code. -/
def tyFmt : Nat → Option Fmt
  | 0x10 => some .f64
  | 0x11 => some .f32
  | 0x12 => some .bf16
  | 0x13 => some .f16
  | 0x14 => some .e4m3
  | 0x15 => some .e5m2
  | 0x17 => some .e3m2
  | 0x18 => some .e2m3
  | 0x19 => some .e2m1
  | _ => none

/-- The width and signedness of an integer type code. -/
def tyInt : Nat → Option (Nat × Bool)
  | 1 => some (8, true)
  | 2 => some (16, true)
  | 3 => some (32, true)
  | 4 => some (64, true)
  | 5 => some (8, false)
  | 6 => some (16, false)
  | 7 => some (32, false)
  | 8 => some (64, false)
  | 9 => some (4, true)
  | _ => none

/-- The width of an element in bits; 0 for a reserved code and for `k4m3`. -/
def tyWidth (t : Nat) : Nat :=
  match tyFmt t, tyInt t with
  | some F, _ => F.width
  | none, some (w, _) => w
  | none, none => if t = 0x1A then 8 else 0

/-- A floating-point type of 8, 6 or 4 bits: one that takes a block scale (R144). -/
def tyScaled (t : Nat) : Bool := (tyFmt t).isSome && decide (tyWidth t ≤ 8)

/-- Elements in a granule row (R143). -/
def perRow (t : Nat) : Nat :=
  match tyWidth t with
  | 0 => 0
  | w => 256 / w

/-- The value of an element of a type. -/
def decodeTy (t x : Nat) : Num :=
  match tyFmt t, tyInt t with
  | some F, _ => F.decode x
  | none, some (w, sg) => .ofInt (if sg then signedOf w x else (x % 2 ^ w : Nat))
  | none, none => ofE8m0 x

/-- Conversion of a value to a type (R153). -/
def narrowTy (t rm : Nat) (x : Num) : Nat × Nat :=
  match tyFmt t, tyInt t with
  | some F, _ => F.narrow rm x
  | none, some (w, sg) => toIntType w sg rm x
  | none, none => toE8m0 x

/-! ## Conversions of `FCVT` (R161) -/

/-- Destination and source types of a pair. -/
def cvtTypes : CvtPair → Nat × Nat
  | .f32f64 => (0x11, 0x10)
  | .f64f32 => (0x10, 0x11)
  | .f16f32 => (0x13, 0x11)
  | .f32f16 => (0x11, 0x13)
  | .bf16f32 => (0x12, 0x11)
  | .f32bf16 => (0x11, 0x12)
  | .e4m3f32 => (0x14, 0x11)
  | .e5m2f32 => (0x15, 0x11)
  | .f32e4m3 => (0x11, 0x14)
  | .f32e5m2 => (0x11, 0x15)
  | .e3m2f32 => (0x17, 0x11)
  | .e2m3f32 => (0x18, 0x11)
  | .e2m1f32 => (0x19, 0x11)
  | .f32e3m2 => (0x11, 0x17)
  | .f32e2m3 => (0x11, 0x18)
  | .f32e2m1 => (0x11, 0x19)
  | .i64f64 => (4, 0x10)
  | .n64f64 => (8, 0x10)
  | .f64i64 => (0x10, 4)
  | .f64n64 => (0x10, 8)
  | .i32f32 => (3, 0x11)
  | .n32f32 => (7, 0x11)
  | .f32i32 => (0x11, 3)
  | .f32n32 => (0x11, 7)
  | .i32f64 => (3, 0x10)
  | .f64i32 => (0x10, 3)
  | .e8m0f32 => (0x1A, 0x11)
  | .f32e8m0 => (0x11, 0x1A)

/-- The 64-bit result of a conversion and its flags: signed integer results are sign-extended (R161). -/
def fcvt (p : CvtPair) (rm : Nat) (l : Nat) : Nat × Nat :=
  let d := (cvtTypes p).1
  let src := (cvtTypes p).2
  let x := decodeTy src (l % 2 ^ tyWidth src)
  let r := narrowTy d rm x
  match tyInt d with
  | some (w, true) => (wrapOf 64 (signedOf w r.1), r.2)
  | _ => r

/-! ## Scalar members (R159, R160) -/

/-- The class mask of `FCLASS`. -/
def Fmt.classify (F : Fmt) (x : Nat) : Nat :=
  let sub := decide (x % F.signBit < 2 ^ F.manBits)
  match F.decode x with
  | .nan s => if s then 2 ^ 8 else 2 ^ 9
  | .inf n => if n then 1 else 2 ^ 7
  | .fin n m _ =>
    if m = 0 then (if n then 2 ^ 3 else 2 ^ 4)
    else if sub then (if n then 2 ^ 2 else 2 ^ 5)
    else if n then 2 else 2 ^ 6

/-- Result and flags of a member of the FD and FS families (R159). -/
def fop (F : Fmt) (rm : Nat) (o : Fop) (l r : Nat) : Nat × Nat :=
  let x := F.decode l
  let y := F.decode r
  match o with
  | .add => F.finish rm (x.add rm y)
  | .sub => F.finish rm (x.add rm y.negate)
  | .mul => F.finish rm (x.mul y)
  | .div => F.finish rm (x.div y)
  | .sqrt => F.finish rm x.sqrt
  | .min => F.finish rm (x.min y)
  | .max => F.finish rm (x.max y)
  | .neg => ((l + F.signBit) % (2 * F.signBit), 0)
  | .abs => (l % F.signBit, 0)
  | .eq => (boolNat (x.eq y), flagIf (x.isSig || y.isSig) fNv)
  | .lt => (boolNat (x.lt y), flagIf (x.isNan || y.isNan) fNv)
  | .le => (boolNat (!x.isNan && !y.isNan && !y.lt x), flagIf (x.isNan || y.isNan) fNv)
  | .cls => (F.classify l, 0)
  | .sgnj => (l % F.signBit + r / F.signBit % 2 * F.signBit, 0)

/-- Result and flags of `FMA` (R160): rounded once; 0 times infinity is invalid whatever the third operand. -/
def fma (F : Fmt) (rm : Nat) (l r x : Nat) : Nat × Nat :=
  let p := (F.decode l).mul (F.decode r)
  let s := p.1.add rm (F.decode x)
  F.finish rm (s.1, Nat.lor p.2 s.2)

/-- The magnitude is a power of two. -/
def Num.isPow2 : Num → Bool
  | .fin _ m _ => m != 0 && m == 2 ^ (bitCount m - 1)
  | _ => false

/-- A normal number of the format. -/
def Fmt.isNormal (F : Fmt) (x : Nat) : Bool :=
  let c := x % F.signBit
  decide (2 ^ F.manBits ≤ c) && decide (c ≤ F.maxCode)

/-- Cycles of a member (R158); the times of `FDIV` and `FSQRT` follow the class of operands and result (notes/assumptions 133). -/
def fopLatency (F : Fmt) (rm : Nat) (o : Fop) (l r : Nat) : Nat :=
  let slow (special : Bool) (normal : Bool) : Nat :=
    if special then (if F = .f32 then 14 else 20)
    else if normal then (if F = .f32 then 20 else 34)
    else if F = .f32 then 24 else 40
  let odd (x : Nat) : Bool := decide (x % F.signBit = 0) || decide (F.infCode ≤ x % F.signBit)
  match o with
  | .neg => 1
  | .abs => 1
  | .sgnj => 1
  | .cls => 1
  | .div => slow (odd l || odd r || (F.decode r).isPow2) (F.isNormal l && F.isNormal r && F.isNormal (fop F rm .div l r).1)
  | .sqrt => slow (odd l) (F.isNormal l && F.isNormal (fop F rm .sqrt l r).1)
  | _ => 4

end Sys2Proof.Machine
end

