-- ==== Sys2Proof/Config.lean ====
section
/-! DEFINITION. The free values: constants without a body, applied to a counter of State or to operands, for
what the spec leaves open (notes/assumptions 3 and 4). Nothing can be proved of their values. -/

namespace Sys2Proof.Config

/-- What the special-function unit computes where R162 gives a bound and no value, by function and operand bits. The
model uses it only where it lies within the bound, and never for the exact cases of R162. -/
opaque specialResult : SfnFn → Nat → BitVec 32
/-- Extra cycles of a request on the fabric, which R330 allows contention to add. -/
opaque contention : Nat → Nat
/-- The hash of the source and destination polder indices that chooses a port among those of a mask (R462). -/
opaque portHash : Nat → Nat → Nat
/-- Cycles of a crossing by an Ethernet port, to which the spec gives no time. -/
opaque etherCrossing : Nat → Nat
/-- An order that the spec leaves open: a number that picks among the candidates. -/
opaque choice : Nat → Nat
/-- The signature of an attestation report, by its bytes (R460). -/
opaque signature : List Byte → List Byte
/-- The device's public key (R459, R460). -/
opaque publicKey : Nat → List Byte
/-- The partition base that system software assigns to a partition, as a multiple of 2^50 less one (R23). -/
opaque partitionBase : Nat → Nat
/-- The host refuses an access under a PASID to a host address: its IOMMU decides that (R447, R449). -/
opaque hostRefuses : Nat → Nat → Bool
/-- The digest of a byte string, extended into the measurement register (R459). -/
opaque digest : List Byte → Nat

end Sys2Proof.Config
end

