-- ==== Sys2Proof/Packet.lean ====
section
/-! DEFINITION. What travels between the agents of the machine: access requests and their answers, watch
registrations and satisfactions, atomic packets, messages, moving threads, task and launch records, fault
records and collective packets. They are the arguments of the event rows of spec/opcode_table.json. -/

namespace Sys2Proof

/-- The answer to an access: `cause` 0 and the bytes read, or a fault cause (spec/16 R332) and the address. -/
structure Answer where
  cause : Nat
  addr : Nat
  data : List Byte
  deriving DecidableEq, Repr, Inhabited

/-- What a fault record holds (spec/16 R341), without its overflow mark, which the queue adds. -/
structure FaultRec where
  cause : Nat
  inner : Nat
  src : Nat
  detail : Nat
  addr : Nat
  aux : Nat
  otid : Nat
  ovf : Bool
  deriving DecidableEq, Repr, Inhabited

/-- One late fault kept by a context (spec/16 R336). -/
structure LateFault where
  cause : Nat
  seq : Nat
  addr : Nat
  deriving DecidableEq, Repr, Inhabited

/-- The source of an atomic at the atomic unit (spec/18 R372). -/
inductive AmoSrc where
  | core (n : Nat)
  | slice
  | polder (dev pidx : Nat)
  deriving DecidableEq, Repr, Inhabited

/-- Where the result of an atomic goes: the block slot that fired it (R136), a completion duty of an ended
task (spec/09 R211), the running slice handler's register (spec/10 R251), or nowhere. -/
inductive AmoTo where
  | slot (l : Loc) (epoch slot : Nat)
  | duty (l : Loc) (counter : Nat)
  | handler (p : Loc) (gen rd : Nat)
  | nowhere
  deriving DecidableEq, Repr, Inhabited

/-- An atomic packet (spec/05 R134, R135). -/
structure AmoPkt where
  src : AmoSrc
  op : AmoOp
  order : AmoOrder
  narrow : Bool          -- the 32-bit form of `SAMO`
  r : Nat
  x : Nat
  addr : Nat
  into : AmoTo
  deriving DecidableEq, Repr, Inhabited

/-- Who is watching (spec/05 R122, R131; spec/09 R214, R224; spec/24 R450). -/
inductive WatchKind where
  | task | fut | join | listen | launch | hostWait
  deriving DecidableEq, Repr, Inhabited

/-- A watch registration on its way to the owner of the gauge (R123). -/
structure WatchReg where
  issuer : Loc
  epoch : Nat
  slot : Nat
  kind : WatchKind
  thr : Nat
  arg : Nat
  pasid : Nat
  part : Nat
  gauge : Nat
  words : List Nat          -- a listen's source, destination, descriptor and mirror (R131)
  deriving DecidableEq, Repr, Inhabited

/-- A watch handle (R124), unpacked; `gen` 0 means satisfied at registration. -/
structure Handle where
  owner : Loc
  gen : Nat
  entry : Nat
  deriving DecidableEq, Repr, Inhabited

/-- A satisfaction on its way to the issuing polder (R125); `value` none is the dry answer (R127). -/
structure Sat where
  reg : WatchReg
  handle : Handle
  value : Option Nat
  deriving DecidableEq, Repr, Inhabited

/-- What an access request is for, and so where its answer goes. A load of a declared object asks for a whole line and
carries the object, version tag and PASID it is taken under (spec/15 R320, R321). -/
inductive Use where
  | load (l : Loc) (epoch slot : Nat) (reader : Option (Nat × Nat × Nat))
  | fetch (l : Loc) (epoch : Nat) (second : Bool)
  | atomic (a : AmoPkt)
  | watch (w : WatchReg)
  | line (xfer idx : Nat)
  | pref (pol : Nat) (reader : Option (Nat × Nat × Nat))
  deriving DecidableEq, Repr, Inhabited

/-- An access request: the requester, its partition and PASID, the address token as issued, the length,
whether the issuer is privileged (spec/05 R107, spec/15 R317), and whether the owner's windows have admitted it (R318). -/
structure Req where
  who : Loc
  part : Nat
  pasid : Nat
  addr : Nat
  size : Nat
  sup : Bool
  use : Use
  admitted : Bool
  deriving DecidableEq, Repr, Inhabited

/-- A message (spec/09 R219): destination token, header words as sent, payload, the sender's PASID, where its
replies go, and the context to which a holder has forwarded it (spec/16 R345). -/
structure Message where
  dest : Nat
  w0 : Nat
  w1 : Nat
  payload : List W64
  pasid : Nat
  reply : Option Place
  fwd : Option Loc
  deriving DecidableEq, Repr, Inhabited

/-- A host packet's completion address: interface, tag and vector (spec/24 R450). -/
structure HostTag where
  q : Nat
  tag : Nat
  vec : Nat
  deriving DecidableEq, Repr, Inhabited

/-- Where a task record came from, for the completion duties of its context (spec/09 R211, R225; spec/24 R450). -/
inductive Origin where
  | task
  | group (tree launch home : Nat)      -- tree word, launch and index of the polder it was placed on
  | host (t : HostTag)
  deriving DecidableEq, Repr, Inhabited

/-- A deque entry (spec/20 R392): the rewritten task record, its scope tag and PASID. -/
structure DequeEntry where
  words : List W64
  tag : Nat
  pasid : Nat
  origin : Origin
  deriving DecidableEq, Repr, Inhabited

/-- A launch record, read and checked (spec/09 R223), with the issuer's identity. -/
structure LaunchRec where
  place : Nat                           -- the polder view of the record address (R394)
  id : Nat
  issuer : Loc
  steal : Nat
  prio : Nat
  fclass : Nat
  entry : Nat
  cmask : Nat
  dmask : Nat
  w : Nat
  x0 : Nat
  h : Nat
  y0 : Nat
  groups : Nat
  gauge : Nat
  thr : Nat
  cnt : Nat
  crec : Nat
  sig : Nat
  args : List W64
  pasid : Nat
  part : Nat
  ind : Bool
  host : Option HostTag
  deriving DecidableEq, Repr, Inhabited

/-- A held satisfaction or notification (spec/16 R347, R348; spec/20 R394). -/
structure HeldOp where
  sat : Sat
  deriving DecidableEq, Repr, Inhabited

/-- A migration packet (spec/20 R403). -/
structure MigPkt where
  source : Loc
  prio : Nat
  steal : Nat
  resume : Nat
  pasid : Nat
  part : Nat
  holders : List Loc
  words : List W64
  deriving DecidableEq, Repr, Inhabited

/-- The state stream of a relocation: the migration packet and the tail of spec/16 R344. -/
structure RelocState where
  ringed : List (Nat × DequeEntry)      -- what the core keeps of the records in its task ring (R392)
  pkt : MigPkt
  pol : W64
  fm : W64
  step : W64
  trapvec : W64
  trapframe : W64
  home : W64
  spill : W64
  tree : W64
  sup : Bool
  haltCause : Nat           -- the double trap that halted the context (R455)
  faultQ : List FaultRec
  faultLost : Bool
  rowQ : List W64
  late : List LateFault
  surplus : Nat
  held : List HeldOp
  deriving DecidableEq, Repr, Inhabited

/-- A relocation that waits for the source's entries to retire (spec/09 R233). -/
structure RelocJob where
  issuer : Loc
  source : Loc
  dest : Nat
  reply : Nat
  deriving DecidableEq, Repr, Inhabited

/-- What a thread's release carries to its holders (spec/16 R345, spec/20 R404). -/
structure Release where
  thread : Loc
  part : Nat
  flt : Bool
  dry : Bool
  abort : Bool
  inl : Bool
  replaced : Bool                       -- the holder gives way to a fifth one (R345, R404)
  deriving DecidableEq, Repr, Inhabited

/-- The gauges, signature and step that a collective packet carries (spec/22 R424, R434). -/
structure GaugeNotice where
  cid : Nat
  rank : Nat
  base : Nat
  pg : Nat
  dg : Nat
  sig : Nat
  step : Nat
  deriving DecidableEq, Repr, Inhabited

end Sys2Proof
end

