-- ==== Sys2Proof/Event.lean ====
section
/-! DEFINITION. What each step of the part without an encoding is about (spec/95): the agents and packets of one such
step. `Event.instr` names the row of spec/opcode_table.json that it is an instance of. -/

namespace Sys2Proof

/-- The steps of the part that no instruction word encodes. -/
inductive Event where
  /-- No step. -/
  | idle
  /-- BLOCK_FETCH (R464). -/
  | blockFetch (l : Loc)
  /-- BLOCK_FETCH_READ_RETURN (R464). -/
  | blockFetchReadReturn (l : Loc) (epoch : Nat) (second : Bool) (ans : Answer)
  /-- TOKEN_ARRIVAL (R34). -/
  | tokenArrival (l : Loc) (epoch : Nat) (o : Opnd) (slot : Nat) (tok : Token)
  /-- BLOCK_COMMIT (R38). -/
  | blockCommit (l : Loc) (epoch : Nat)
  /-- BLOCK_STARVED (R41). -/
  | blockStarved (l : Loc) (epoch : Nat)
  /-- PORT_PUSH_TIMEOUT (R68). -/
  | portPushTimeout (l : Loc) (epoch : Nat)
  /-- BLOCK_ABANDON (R334). -/
  | blockAbandon (l : Loc) (epoch : Nat)
  /-- CONTEXT_ALLOCATION (R61). -/
  | contextAllocation (c : Loc)
  /-- CONTEXT_DISPATCH (R391). -/
  | contextDispatch (c : Loc)
  /-- LOAD_REPLY (R107). -/
  | loadReply (l : Loc) (epoch : Nat) (slot : Nat) (reader : Option (Nat × Nat × Nat)) (ans : Answer)
  /-- SLUICE_REQUEST (R317). -/
  | sluiceRequest (r : Req) (at_ : Place)
  /-- TLB_WALK_COMPLETE (R327). -/
  | tlbWalkComplete (p : Loc) (walk : Nat)
  /-- L2_LINE_FILL (R321). -/
  | l2LineFill (p : Loc) (line : Nat) (cls : Nat) (pref : Bool) (reader : Option (Nat × Nat × Nat)) (data : List Byte)
  /-- FRESH_ZEROING_DONE (R324). -/
  | freshZeroingDone (p : Loc) (granule : Nat)
  /-- WATCH_REGISTRATION (R123). -/
  | watchRegistration (r : WatchReg) (at_ : Place)
  /-- WATCH_REGISTRATION_REPLY (R123). -/
  | watchRegistrationReply (r : WatchReg) (h : Handle) (cause : Nat) (value : Nat)
  /-- WATCH_ARM (R123). -/
  | watchArm (r : WatchReg) (h : Handle)
  /-- WATCH_SATISFACTION_ARRIVAL (R125). -/
  | watchSatisfactionArrival (s : Sat)
  /-- WATCH_CANCEL_ARRIVAL (R126). -/
  | watchCancelArrival (h : Handle) (unarmed isListen : Bool)
  /-- ATOMIC_PACKET_ARRIVAL (R373). -/
  | atomicPacketArrival (a : AmoPkt) (at_ : Place)
  /-- ATOMIC_TURN (R373). -/
  | atomicTurn (p : Loc) (late : Option (AmoPkt × Place × Nat × Nat))
  /-- ATOMIC_REPLY (R136). -/
  | atomicReply (a : AmoPkt) (cause : Nat) (old : Nat)
  /-- HANDLER_START (R364). -/
  | handlerStart (p : Loc)
  /-- HANDLER_BUDGET_EXPIRY (R370). -/
  | handlerBudgetExpiry (p : Loc) (gen : Nat)
  /-- MESSAGE_ARRIVAL (R399). -/
  | messageArrival (c : Loc) (m : Message)
  /-- SLICE_MESSAGE_ARRIVAL (R367). -/
  | sliceMessageArrival (p : Loc) (m : Message)
  /-- REPLY_ARRIVAL (R210). -/
  | replyArrival (src : Loc) (at_ : Place) (code : Nat)
  /-- MOVE_NOTICE_ARRIVAL (R345). -/
  | moveNoticeArrival (holder : Loc) (part : Nat) (old : Loc) (new : Loc)
  /-- THREAD_RELEASE_ARRIVAL (R404). -/
  | threadReleaseArrival (holder : Loc) (r : Release)
  /-- MIGRATION_PACKET_ARRIVAL (R404). -/
  | migrationPacketArrival (p : Loc) (m : MigPkt)
  /-- MIGRATION_ADMISSION_REPLY (R404). -/
  | migrationAdmissionReply (c : Loc) (m : MigPkt) (code : Nat) (dest : Loc)
  /-- MIGRATION_RESEND (R404). -/
  | migrationResend (p : Loc) (m : MigPkt)
  /-- RELOC_TRANSFER (R233). -/
  | relocTransfer (j : RelocJob)
  /-- RELOC_ARRIVAL (R344). -/
  | relocArrival (j : RelocJob) (r : RelocState)
  /-- DEQUE_REFILL (R392). -/
  | dequeRefill (c : Loc)
  /-- STEAL_REQUEST (R396). -/
  | stealRequest (c : Loc)
  /-- STEAL_REQUEST_ARRIVAL (R397). -/
  | stealRequestArrival (victim : Loc) (thief : Loc) (level : Nat) (part : Nat)
  /-- STEAL_REPLY_ARRIVAL (R397). -/
  | stealReplyArrival (victim : Loc) (thief : Loc) (e : Option DequeEntry)
  /-- STEAL_BACKOFF_EXPIRY (R396). -/
  | stealBackoffExpiry (c : Loc)
  /-- LAUNCH_DISPATCH (R412). -/
  | launchDispatch (d : Loc)
  /-- LAUNCH_GROUP_PLACEMENT (R225). -/
  | launchGroupPlacement (p : Loc)
  /-- MERGE_REPORT (R379). -/
  | mergeReport (src : Loc) (p : Loc) (launch : Nat) (count : Nat) (st : Nat)
  /-- SFU_ACCEPT (R163). -/
  | sfuAccept (c : Loc)
  /-- SFU_RESULT (R163). -/
  | sfuResult (c : Loc) (l : Loc) (epoch : Nat) (slot : Nat) (tok : Token) (flags : Nat)
  /-- VECTOR_BEAT (R170). -/
  | vectorBeat (c : Loc)
  /-- MATRIX_ENTRY_ACCEPT (R193). -/
  | matrixEntryAccept (p : Loc)
  /-- MATRIX_COMMAND_RECORD (R235). -/
  | matrixCommandRecord (p : Loc) (c : Nat) (seq : Nat)
  /-- MATRIX_SLAB (R267). -/
  | matrixSlab (p : Loc) (c : Nat) (seq : Nat)
  /-- MATRIX_ENTRY_COMPLETE (R270). -/
  | matrixEntryComplete (p : Loc) (c : Nat) (seq : Nat)
  /-- RANGE_LOCK_REGISTER (R278). -/
  | rangeLockRegister (p : Loc)
  /-- ENTRY_RETIRE (R264). -/
  | entryRetire (c : Loc)
  /-- TRANSFER_ISSUE (R275). -/
  | transferIssue (p : Loc)
  /-- EQ2_PULL (R236). -/
  | eq2Pull (c : Loc) (seq : Nat)
  /-- PULLW (R236). -/
  | pullw (c : Loc) (seq : Nat)
  /-- FILL (R236). -/
  | fill (c : Loc) (seq : Nat)
  /-- GCOPY (R236). -/
  | gcopy (c : Loc) (seq : Nat)
  /-- LINE_READ_REPLY (R277). -/
  | lineReadReply (p : Loc) (xfer : Nat) (idx : Nat) (ans : Answer)
  /-- LISTEN_NOTIFICATION (R132). -/
  | listenNotification (p : Loc) (h : Handle) (v : Nat) (dry : Bool)
  /-- ALL_REDUCE (R426). -/
  | allReduce (c : Loc) (seq : Nat)
  /-- REDUCE_SCATTER (R426). -/
  | reduceScatter (c : Loc) (seq : Nat)
  /-- ALL_GATHER (R426). -/
  | allGather (c : Loc) (seq : Nat)
  /-- BROADCAST (R426). -/
  | broadcast (c : Loc) (seq : Nat)
  /-- BARRIER (R426). -/
  | barrier (c : Loc) (seq : Nat)
  /-- ALL_TO_ALL_V (R431). -/
  | allToAllV (c : Loc) (seq : Nat)
  /-- REDUCE (R426). -/
  | reduce (c : Loc) (seq : Nat)
  /-- CHUNK_START (R432). -/
  | chunkStart (p : Loc)
  /-- CHUNK_END (R428). -/
  | chunkEnd (p : Loc) (cid : Nat)
  /-- COLLECTIVE_GAUGE_NOTICE (R429). -/
  | collectiveGaugeNotice (p : Loc) (n : GaugeNotice)
  /-- ABSENT_ANSWER (R436). -/
  | absentAnswer (p : Loc) (cid : Nat) (rank : Nat)
  /-- RETURN_NOTICE (R436). -/
  | returnNotice (p : Loc) (cid : Nat) (rank : Nat)
  /-- COLLECTIVE_NOTICE_RESEND (R436). -/
  | collectiveNoticeResend (p : Loc) (cid : Nat) (rank : Nat)
  /-- ABORT_PACKET (R350). -/
  | abortPacket (p : Loc) (cid : Nat) (reason : Nat) (initiator : Loc)
  /-- STEP_PACKET (R350). -/
  | stepPacket (p : Loc) (cid : Nat) (rank : Nat) (value : Nat)
  /-- STEP_WAIT_TIMEOUT (R350). -/
  | stepWaitTimeout (p : Loc) (cid : Nat)
  /-- AGREE_PACKET (R350). -/
  | agreePacket (p : Loc) (cid : Nat) (agreed : Nat) (reason : Nat)
  /-- DONE_PACKET (R350). -/
  | donePacket (p : Loc) (cid : Nat) (rank : Nat)
  /-- AGREE_TIMEOUT (R351). -/
  | agreeTimeout (p : Loc) (cid : Nat)
  /-- LINK_RETRY (R331). -/
  | linkRetry (d : Loc) (link : Nat) (count : Nat)
  /-- LINK_LOST (R331). -/
  | linkLost (d : Loc) (link : Nat)
  /-- ETHERNET_RESEND (R462). -/
  | ethernetResend (d : Loc) (port : Nat) (count : Nat)
  /-- TAIL_TIMEOUT (R17). -/
  | tailTimeout (p : Loc)
  /-- POISONED_WORM_DISCARD (R17). -/
  | poisonedWormDiscard (p : Loc) (torn : Bool)
  /-- DIE_POWER_LOSS (R352). -/
  | diePowerLoss (d : Loc) (die : Nat)
  /-- THERMAL_TRIP (R461). -/
  | thermalTrip (d : Loc)
  /-- CLOCK_THROTTLE (R461). -/
  | clockThrottle (d : Loc) (island : Nat) (khz : Nat)
  /-- POWER_ON_BRINGUP (R459). -/
  | powerOnBringup (d : Loc)
  /-- SUBMISSION_TAIL_WRITE (R449). -/
  | submissionTailWrite (d : Loc) (off : Nat) (size : Nat) (v : Nat)
  /-- COMPLETION_HEAD_WRITE (R449). -/
  | completionHeadWrite (d : Loc) (off : Nat) (size : Nat) (v : Nat)
  /-- PACKET_FETCH (R449). -/
  | packetFetch (d : Loc) (q : Nat)
  /-- HOST_NOP (R450). -/
  | hostNop (d : Loc) (q : Nat) (pkt : List W64)
  /-- HOST_RUN (R450). -/
  | hostRun (d : Loc) (q : Nat) (pkt : List W64)
  /-- HOST_LAUNCH (R450). -/
  | hostLaunch (d : Loc) (q : Nat) (pkt : List W64)
  /-- HOST_WAIT (R450). -/
  | hostWait (d : Loc) (q : Nat) (pkt : List W64)
  /-- HOST_COPYIN (R450). -/
  | hostCopyin (d : Loc) (q : Nat) (pkt : List W64)
  /-- HOST_COPYOUT (R450). -/
  | hostCopyout (d : Loc) (q : Nat) (pkt : List W64)
  /-- HOST_WORK_COMPLETE (R452). -/
  | hostWorkComplete (d : Loc) (t : HostTag) (status : Nat) (value : Nat)
  /-- REMAP_UNMASK (R456). -/
  | remapUnmask (d : Loc) (entry : Nat)
  /-- PASID_REVOKE (R458). -/
  | pasidRevoke (d : Loc) (v : Nat)
  /-- REVOCATION_COMPLETE (R458). -/
  | revocationComplete (d : Loc)
  /-- INVALIDATE_PASID (R457). -/
  | invalidatePasid (d : Loc) (v : Nat)
  /-- INVALIDATE_PAGE (R457). -/
  | invalidatePage (d : Loc) (v : Nat)
  /-- INVALIDATE_STAGE2 (R457). -/
  | invalidateStage2 (d : Loc) (v : Nat)
  /-- INVALIDATE_PARTITION (R457). -/
  | invalidatePartition (d : Loc) (v : Nat)
  /-- INVALIDATION_COMPLETE (R458). -/
  | invalidationComplete (d : Loc)
  /-- PODPOS_WRITE (R459). -/
  | podposWrite (d : Loc) (v : Nat)
  /-- ATTEST_GO (R460). -/
  | attestGo (d : Loc)
  /-- ATTEST_REPORT_READY (R460). -/
  | attestReportReady (d : Loc)
  /-- PARTITION_SWAP (R346). -/
  | partitionSwap (p : Loc) (v : Nat)
  /-- PARTITION_REMOVE (R272). -/
  | partitionRemove (p : Loc) (v : Nat)
  /-- SWAP_DRAIN_COMPLETE (R346). -/
  | swapDrainComplete (p : Loc)
  /-- POLDER_STOP_REQUEST (R454). -/
  | polderStopRequest (p : Loc)
  /-- POLDER_FENCE (R454). -/
  | polderFence (p : Loc) (v : Nat)
  /-- CONTEXT_RELEASE_CMD (R455). -/
  | contextReleaseCmd (l : Loc)
  /-- CONTEXT_END_CMD (R455). -/
  | contextEndCmd (l : Loc)
  /-- CONTEXT_HALT_CMD (R455). -/
  | contextHaltCmd (l : Loc)
  /-- REGISTER_WRITE (R315). -/
  | registerWrite (d : Loc) (off : Nat) (size : Nat) (v : Nat)
  /-- SYSTEM_ABORT (R349). -/
  | systemAbort (p : Loc) (cid : Nat)
  /-- READMISSION (R352). -/
  | readmission (d : Loc) (owner : Loc)
  /-- PACKAGE_POWER_LOSS (R459). -/
  | packagePowerLoss (d : Loc)
  deriving DecidableEq, Repr, Inhabited

/-- The row of the opcode table that a step is an instance of. -/
def Event.instr : Event → Option Instr
  | .idle => none
  | .blockFetch _ => some .blockFetch
  | .blockFetchReadReturn _ _ _ _ => some .blockFetchReadReturn
  | .tokenArrival _ _ _ _ _ => some .tokenArrival
  | .blockCommit _ _ => some .blockCommit
  | .blockStarved _ _ => some .blockStarved
  | .portPushTimeout _ _ => some .portPushTimeout
  | .blockAbandon _ _ => some .blockAbandon
  | .contextAllocation _ => some .contextAllocation
  | .contextDispatch _ => some .contextDispatch
  | .loadReply _ _ _ _ _ => some .loadReply
  | .sluiceRequest _ _ => some .sluiceRequest
  | .tlbWalkComplete _ _ => some .tlbWalkComplete
  | .l2LineFill _ _ _ _ _ _ => some .l2LineFill
  | .freshZeroingDone _ _ => some .freshZeroingDone
  | .watchRegistration _ _ => some .watchRegistration
  | .watchRegistrationReply _ _ _ _ => some .watchRegistrationReply
  | .watchArm _ _ => some .watchArm
  | .watchSatisfactionArrival _ => some .watchSatisfactionArrival
  | .watchCancelArrival _ _ _ => some .watchCancelArrival
  | .atomicPacketArrival _ _ => some .atomicPacketArrival
  | .atomicTurn _ _ => some .atomicTurn
  | .atomicReply _ _ _ => some .atomicReply
  | .handlerStart _ => some .handlerStart
  | .handlerBudgetExpiry _ _ => some .handlerBudgetExpiry
  | .messageArrival _ _ => some .messageArrival
  | .sliceMessageArrival _ _ => some .sliceMessageArrival
  | .replyArrival _ _ _ => some .replyArrival
  | .moveNoticeArrival _ _ _ _ => some .moveNoticeArrival
  | .threadReleaseArrival _ _ => some .threadReleaseArrival
  | .migrationPacketArrival _ _ => some .migrationPacketArrival
  | .migrationAdmissionReply _ _ _ _ => some .migrationAdmissionReply
  | .migrationResend _ _ => some .migrationResend
  | .relocTransfer _ => some .relocTransfer
  | .relocArrival _ _ => some .relocArrival
  | .dequeRefill _ => some .dequeRefill
  | .stealRequest _ => some .stealRequest
  | .stealRequestArrival _ _ _ _ => some .stealRequestArrival
  | .stealReplyArrival _ _ _ => some .stealReplyArrival
  | .stealBackoffExpiry _ => some .stealBackoffExpiry
  | .launchDispatch _ => some .launchDispatch
  | .launchGroupPlacement _ => some .launchGroupPlacement
  | .mergeReport _ _ _ _ _ => some .mergeReport
  | .sfuAccept _ => some .sfuAccept
  | .sfuResult _ _ _ _ _ _ => some .sfuResult
  | .vectorBeat _ => some .vectorBeat
  | .matrixEntryAccept _ => some .matrixEntryAccept
  | .matrixCommandRecord _ _ _ => some .matrixCommandRecord
  | .matrixSlab _ _ _ => some .matrixSlab
  | .matrixEntryComplete _ _ _ => some .matrixEntryComplete
  | .rangeLockRegister _ => some .rangeLockRegister
  | .entryRetire _ => some .entryRetire
  | .transferIssue _ => some .transferIssue
  | .eq2Pull _ _ => some .eq2Pull
  | .pullw _ _ => some .pullw
  | .fill _ _ => some .fill
  | .gcopy _ _ => some .gcopy
  | .lineReadReply _ _ _ _ => some .lineReadReply
  | .listenNotification _ _ _ _ => some .listenNotification
  | .allReduce _ _ => some .allReduce
  | .reduceScatter _ _ => some .reduceScatter
  | .allGather _ _ => some .allGather
  | .broadcast _ _ => some .broadcast
  | .barrier _ _ => some .barrier
  | .allToAllV _ _ => some .allToAllV
  | .reduce _ _ => some .reduce
  | .chunkStart _ => some .chunkStart
  | .chunkEnd _ _ => some .chunkEnd
  | .collectiveGaugeNotice _ _ => some .collectiveGaugeNotice
  | .absentAnswer _ _ _ => some .absentAnswer
  | .returnNotice _ _ _ => some .returnNotice
  | .collectiveNoticeResend _ _ _ => some .collectiveNoticeResend
  | .abortPacket _ _ _ _ => some .abortPacket
  | .stepPacket _ _ _ _ => some .stepPacket
  | .stepWaitTimeout _ _ => some .stepWaitTimeout
  | .agreePacket _ _ _ _ => some .agreePacket
  | .donePacket _ _ _ => some .donePacket
  | .agreeTimeout _ _ => some .agreeTimeout
  | .linkRetry _ _ _ => some .linkRetry
  | .linkLost _ _ => some .linkLost
  | .ethernetResend _ _ _ => some .ethernetResend
  | .tailTimeout _ => some .tailTimeout
  | .poisonedWormDiscard _ _ => some .poisonedWormDiscard
  | .diePowerLoss _ _ => some .diePowerLoss
  | .thermalTrip _ => some .thermalTrip
  | .clockThrottle _ _ _ => some .clockThrottle
  | .powerOnBringup _ => some .powerOnBringup
  | .submissionTailWrite _ _ _ _ => some .submissionTailWrite
  | .completionHeadWrite _ _ _ _ => some .completionHeadWrite
  | .packetFetch _ _ => some .packetFetch
  | .hostNop _ _ _ => some .hostNop
  | .hostRun _ _ _ => some .hostRun
  | .hostLaunch _ _ _ => some .hostLaunch
  | .hostWait _ _ _ => some .hostWait
  | .hostCopyin _ _ _ => some .hostCopyin
  | .hostCopyout _ _ _ => some .hostCopyout
  | .hostWorkComplete _ _ _ _ => some .hostWorkComplete
  | .remapUnmask _ _ => some .remapUnmask
  | .pasidRevoke _ _ => some .pasidRevoke
  | .revocationComplete _ => some .revocationComplete
  | .invalidatePasid _ _ => some .invalidatePasid
  | .invalidatePage _ _ => some .invalidatePage
  | .invalidateStage2 _ _ => some .invalidateStage2
  | .invalidatePartition _ _ => some .invalidatePartition
  | .invalidationComplete _ => some .invalidationComplete
  | .podposWrite _ _ => some .podposWrite
  | .attestGo _ => some .attestGo
  | .attestReportReady _ => some .attestReportReady
  | .partitionSwap _ _ => some .partitionSwap
  | .partitionRemove _ _ => some .partitionRemove
  | .swapDrainComplete _ => some .swapDrainComplete
  | .polderStopRequest _ => some .polderStopRequest
  | .polderFence _ _ => some .polderFence
  | .contextReleaseCmd _ => some .contextReleaseCmd
  | .contextEndCmd _ => some .contextEndCmd
  | .contextHaltCmd _ => some .contextHaltCmd
  | .registerWrite _ _ _ _ => some .registerWrite
  | .systemAbort _ _ => some .systemAbort
  | .readmission _ _ => some .readmission
  | .packagePowerLoss _ => some .packagePowerLoss

end Sys2Proof
end

