-- ==== Sys2Proof/Machine/State.lean ====
section
/-! DEFINITION. The state of the machine as plain data: memories, contexts, cores, polders and devices, the steps in
flight (the agenda), and the state after reset (spec/01, 03, 12, 15, 16, 18, 20, 22, 24; R459). -/

namespace Sys2Proof.Machine

/-- Why the machine stops. -/
inductive Fault where
  /-- Raised by `step` when the slot that is due to fire holds no instruction. A block whose slots do not all decode
  is never executed (R49), so no run reaches it. Safe: nothing is claimed of such a state. -/
  | undecodedSlot
  deriving DecidableEq, Repr, Inhabited

/-- Why the machine refuses an instruction. -/
inductive Refusal where
  /-- An instruction that this model gives no meaning. Raised by an arm of `exec`. Safe. -/
  | notModelled (mnemonic : String)
  deriving DecidableEq, Repr, Inhabited

/-! ## The steps in flight -/

/-- What a due entry of the agenda does: fire a slot of a block in flight, run the next instruction of a slice
handler, or take a step of the part. -/
inductive Work where
  | fire (l : Loc) (epoch slot : Nat)
  | slice (p : Loc) (gen : Nat)
  | event (e : Event)
  deriving DecidableEq, Repr, Inhabited

/-- One entry of the agenda: when it is due, in cycles of the 1.4 GHz reference, and what it does. -/
structure Pending where
  due : Nat
  work : Work
  deriving DecidableEq, Repr, Inhabited

/-! ## Memory -/

/-- A memory: address and byte pairs with strictly rising addresses and no zero byte; an unlisted address reads 0. -/
abbrev Memory := List Host.Cell

/-- What an unlisted address reads as: zero, because bring-up writes zero to every memory (R459 step 4). -/
def unlistedByte : Byte := 0#8

/-- Every listed address lies above `lo`, addresses rise strictly, and no entry equals what an unlisted address
reads as. -/
def Memory.above : Nat → Memory → Bool
  | _, [] => true
  | lo, c :: m => decide (lo ≤ c.1) && !(c.2 == unlistedByte) && Memory.above (c.1 + 1) m

/-- The canonical form of a memory. -/
def Memory.wf (m : Memory) : Bool := Memory.above 0 m

/-! ## Blocks in flight -/

/-- A store that has fired (R115, R466); `val` none is a null. -/
structure PendStore where
  lsid : Nat
  slot : Nat
  addr : Nat
  size : Nat
  val : Option W64
  gauge : Bool
  scope : Option Scope
  deriving DecidableEq, Repr, Inhabited

/-- The exit that has fired (R97, R231, R232). -/
inductive ExitAct where
  | goto (next : Nat)
  | call (next ret : Nat)
  | done
  | suspend (next : Nat)
  | migrate (next : Nat) (dest : Loc)
  | sysc (next code : Nat)
  | eret (swp epc : Nat)
  deriving DecidableEq, Repr, Inhabited

/-- What a ring entry asks of its unit (R264). -/
inductive RingOp where
  | vec (op : Vop) (l r x : Nat)
  | mma (pair : MmaPair) (rot : Bool) (a b : List Byte) (la x : Nat)
  | macc (op : MaccOp) (l r : Nat)
  | pull (src dst desc : Nat)
  | eq0 (ptr : Nat) (rec : List Byte)
  | eq2 (ptr : Nat) (rec : List Byte)
  | eq3 (ptr : Nat) (rec : List Byte)
  deriving DecidableEq, Repr, Inhabited

/-- The states of a ring entry before retirement (R264). -/
inductive EntryPhase where
  | dispatched | accepted | complete
  deriving DecidableEq, Repr, Inhabited

/-- An effect that waits for the commit of its block, in slot order (R39, R207). -/
inductive CommitOp where
  | ring (op : RingOp)
  | push (queue : Nat) (ptr : Nat)
  | port (k : Nat) (v : W64)
  | cww (n : Nat) (v : Option W64)
  | fork (rec place : Nat)
  | join (ctr rec : Nat) (h : Handle)
  | futr (f rec : Nat)
  | futw (f : Nat) (v : W64)
  | send (dest msg : Nat) (mask : Option Nat)
  | launch (r : LaunchRec) (h : Option Handle)
  | compose (members : List Loc)
  | release
  | switch (wp : Nat)
  | reloc (source dest reply : Nat)
  | watch (w : WatchReg) (h : Handle) (value : Option Nat)
  | cancel (h : Handle)
  | unlisten (h : Handle)
  deriving DecidableEq, Repr, Inhabited

/-- A fault of a block, with the cycle and slot that order it among others (R334). -/
structure BlockFault where
  time : Nat
  slot : Nat
  cause : Nat
  detail : Nat
  addr : Nat
  deriving DecidableEq, Repr, Inhabited

/-- A word in a port's FIFO, with a name that tells it from the others there (R67). -/
structure PortWord where
  tag : Nat
  word : W64
  deriving DecidableEq, Repr, Inhabited

/-- A word of a queue register reserved to a `READ` of the block (R67). -/
structure Popped where
  reg : Nat
  slot : Nat
  tag : Nat                             -- which word of a port's FIFO
  word : W64
  deriving DecidableEq, Repr, Inhabited

/-- A load of a block that has been performed (R289, R292). -/
structure LoadSeen where
  lsid : Nat
  slot : Nat
  place : Nat
  size : Nat
  window : List Byte                    -- the aligned 8 bytes around it, as they stood at that moment
  deriving DecidableEq, Repr, Inhabited

/-- A block in flight: what was fetched of it and what has happened in its execution (R29-R41). -/
structure Block where
  epoch : Nat
  addr : Nat
  bytes : List Byte
  ready : Bool                          -- decoded and checked (R49)
  ops : List (Nat × Opnd × Token)       -- operands that have arrived
  fired : List Nat                      -- slots that have fired or are about to
  waiting : List (Nat × Nat)            -- slots whose operands have arrived but whose conditions do not hold, and since when
  off : List Nat                        -- slots predicated off
  done : List Nat                       -- loads, `LDA`s and fences that have delivered
  out : List Nat                        -- slots with a request outstanding
  exit : Option ExitAct
  exits : Nat
  writes : List (Nat × Option W64)
  stores : List PendStore
  acts : List (Nat × CommitOp)
  pops : List Popped
  flags : Nat                           -- scalar floating-point flags of the block (R75)
  namo : Nat                            -- atomics performed by their owners (R136)
  atoms : List (Nat × Nat)              -- keys and lengths of the home atomics it fired (R172)
  fault : Option BlockFault
  heldSince : Option Nat                -- a port push waits for its buffer since then (R68)
  fenced : Option Nat                   -- the highest LSID of a `FENCE.FULL` that has fired (R43)
  missed : List Nat                     -- slots whose load is a miss that has not been answered (R10)
  got : List LoadSeen                   -- loads of the block in the order in which they were performed (R292)
  again : Bool                          -- a load has met a newer value than one above it: the block is executed again (R292)
  bad : Option Nat                      -- an uncorrectable error in the first read of its bytes, and where (R49)
  fm0 : W64                             -- `cw.fm`, the dike words and `hset` at the last boundary (R73)
  dikes0 : List W64
  hset0 : Nat
  deriving DecidableEq, Repr, Inhabited

/-! ## Contexts -/

/-- Why a DORMANT context may not be allocated. -/
inductive Reservation where
  | steal
  | member
  | migration (m : MigPkt)
  | reloc
  | guest
  deriving DecidableEq, Repr, Inhabited

/-- What a context does when its thread ends (R99, R211, R226, R400, R450). -/
structure Duties where
  join : Nat
  joinPasid : Nat
  slot : Option Nat                     -- the mailbox channel of the slot that the handler holds
  origin : Origin
  dry : Bool
  abort : Bool
  deriving DecidableEq, Repr, Inhabited

/-- No duty. -/
def Duties.none : Duties := ⟨0, 0, Option.none, .task, false, false⟩

/-- What trap entry writes (R337). -/
structure Trap where
  kind : Nat
  cause : Nat
  detail : Nat
  namo : Nat
  inner : Nat
  seq : Nat
  epc : Nat
  tval : Nat
  record : List Nat
  deriving DecidableEq, Repr, Inhabited

/-- A hardware context (R58, R73, R76). -/
structure Context where
  state : BitVec 3
  wp : BitVec 17
  pc : W64
  pol : W64
  fm : W64
  step : W64
  steal : BitVec 2
  stealMax : BitVec 2                   -- the scope that the launch chose (R73)
  prio : W64
  trapvec : W64
  trapframe : W64
  pasid : BitVec 20
  home : W64
  spill : W64
  tree : W64
  sup : Bool
  guest : Bool
  faultQ : List FaultRec
  faultLost : Bool
  rowQ : List W64
  late : List LateFault
  surplus : Nat
  dseq : BitVec 16
  rseq : BitVec 16
  block : Option Block
  window : List (Nat × W64)             -- held window writes (R64)
  held : List HeldOp                    -- pending list (R347, R348)
  stopReq : Bool
  trapWait : Option Trap                -- a trap whose frame waits for work of the context, or for a zeroing (R338, R279, R324)
  haltCause : Nat                       -- the cause of the double trap that halted the context (R455)
  bySwap : Bool                         -- stopped for a swap; the partition's return resumes it (R343)
  wasSusp : Bool                        -- it was SUSPENDED when a swap halted it, and is so again on return (R346)
  readyAt : Nat
  lead : Option (Loc × Nat)             -- member of a composed core: the lead and n (R227)
  reserved : Option Reservation
  duties : Duties
  holders : List Loc
  stale : List Host.Cell                -- bytes as this context's fetch sees them beneath its own stores (R43)
  unacquired : List Host.Cell           -- likewise beneath stores that other contexts have released to it (R43)
  unreleased : List Host.Cell           -- what its stores since its last release have replaced (R43)
  resumed : Bool                        -- spilled messages and held operations are due (R348)
  thread : Nat                          -- the model's name of the thread that the context holds or last held
  deriving DecidableEq, Repr, Inhabited

/-- A context after reset (R60, R69-R76, R459); registers without a reset value in the spec hold zero
(notes/assumptions 2). -/
def Context.initial (ctx : Nat) : Context :=
  { state := 0#3, wp := BitVec.ofNat 17 (0x1FC00 + ctx * 0x80), pc := 0#64, pol := 0#64, fm := 0#64, step := 0#64,
    steal := 0#2, stealMax := 0#2, prio := 0#64, trapvec := 0#64, trapframe := 0#64, pasid := 0#20, home := 0#64,
    spill := 0#64, tree := 0#64, sup := false, guest := false, faultQ := [], faultLost := false, rowQ := [],
    late := [], surplus := 0, dseq := 0#16, rseq := 0#16, block := none, window := [], held := [],
    stopReq := false, trapWait := none, haltCause := 0, bySwap := false, wasSusp := false, readyAt := 0, lead := none, reserved := none, duties := Duties.none, holders := [],
    stale := [], unacquired := [], unreleased := [], resumed := false, thread := 0 }

/-! ## Cores -/

/-- An entry of the coprocessor dispatch ring (R264). -/
structure RingEntry where
  seq : BitVec 16
  owner : Loc
  thread : Nat
  phase : EntryPhase
  op : RingOp
  pasid : Nat
  part : Nat
  sup : Bool
  rm : Nat
  pol : W64
  cause : Nat
  addr : Nat
  flags : Nat
  rows : List W64
  locks : List Nat
  beat : Nat
  acc : Nat                             -- running sum of a scan, or bytes done of a stream
  buf : List Byte                       -- bytes of a `VDEC` stream read so far
  rid : Nat                             -- the line read that a `VDEC` waits for
  parks : Bool                          -- its thread has left the core other than by `END`: a slot that it takes is parked (R197)
  bad : Bool                            -- the record copied at commit met an uncorrectable error (R238)
  deriving DecidableEq, Repr, Inhabited

/-- A request in the special-function queue (R163). -/
structure SfuReq where
  l : Loc
  epoch : Nat
  slot : Nat
  fn : SfnFn
  arg : Nat
  deriving DecidableEq, Repr, Inhabited

/-- A message held in a mailbox slot (R398-R400). -/
structure MailSlot where
  chan : Nat
  msg : Message
  started : Bool
  deriving DecidableEq, Repr, Inhabited

/-- A forwarding entry (R345, R404). -/
structure Forward where
  old : Loc
  place : Loc
  origin : Bool
  live : Bool
  moved : Bool                          -- a move notice is in flight
  byReloc : Bool                        -- the thread left by `RELOC`
  duties : Duties
  tree : W64
  waiting : List Message
  deriving DecidableEq, Repr, Inhabited

/-- A record that found neither deque nor ring room (R218). -/
structure HeldRecord where
  entry : DequeEntry
  ctx : Nat
  deriving DecidableEq, Repr, Inhabited

/-- The state of a core outside its contexts. -/
structure CoreState where
  ring : List RingEntry
  seq : BitVec 16
  retired : Nat × Nat                   -- the cycle in which entries last retired, and how many did (R264)
  ports : List (List PortWord)          -- np0 to np3, oldest first
  outbuf : List (Option W64)
  sfu : List SfuReq
  sfuBusy : Bool
  vecBusy : Bool
  deque : List DequeEntry               -- bottom first
  heldRecs : List HeldRecord
  mail : List MailSlot
  net : List Nat                        -- when each message in the network interface leaves it
  unmailed : List Message               -- replayed messages that wait in the interface (R400)
  forwards : List Forward
  lfsr : BitVec 16
  level : Nat
  tries : Nat
  asking : Option Nat                   -- context reserved for a steal
  backoff : Bool
  reach : List (Nat × Nat)              -- launches placed and not complete: id and steal
  refilling : Bool
  exits : List (Nat × Nat)              -- exit numbers that blocks have taken: block address, exit number (R42)
  ringed : List (Nat × Nat × DequeEntry) -- records in task rings, with what a deque entry holds beside them: context, cell, entry (R62, R225, R392)
  deriving DecidableEq, Repr, Inhabited

/-- Bits [15:0] of the `tid` of context 0 (R69). -/
def tidLow (l : Loc) : Nat :=
  field l.die 2 14 + field l.px 4 10 + field l.py 3 7 + field l.core 3 4 + field l.ctx 3 0

/-- A core after reset (R396, R459). -/
def CoreState.initial (l : Loc) : CoreState :=
  let s := Nat.xor (tidLow l) 0xACE1
  { ring := [], seq := 1#16, retired := (0, 0), ports := [[], [], [], []], outbuf := [none, none, none, none], sfu := [],
    sfuBusy := false, vecBusy := false, deque := [], heldRecs := [], mail := [], net := [], unmailed := [],
    forwards := [], lfsr := BitVec.ofNat 16 (if s = 0 then 0xACE1 else s), level := 0, tries := 0, asking := none,
    backoff := false, reach := [], refilling := false, exits := [], ringed := [] }

/-! ## Polders -/

/-- A range-lock entry (R278): a span of physical keys, and what the table shows of it. -/
structure RangeLock where
  id : Nat
  dst : Bool
  unit : Nat
  seq : Nat
  core : Nat
  internal : Bool
  owner : Loc
  key : Nat
  base : Nat
  len : Nat
  flip : Nat                            -- of an `MROT` pull, the address bit that its destination inverts; 0 for none (R201)
  deriving DecidableEq, Repr, Inhabited

/-- A watch-table entry (R123, R131, R214); `last` is the largest value a listen has delivered. -/
structure WatchEntry where
  idx : Nat
  gen : Nat
  armed : Bool
  reg : WatchReg
  key : Nat
  last : Nat
  deriving DecidableEq, Repr, Inhabited

/-- A listen slot of the issuing polder's engine (R132). -/
structure ListenSlot where
  handle : Handle
  owner : Loc
  thread : Nat                          -- which thread of the context placed it (R132, R342)
  place : Nat                           -- the listen record's address (R394)
  src : Nat
  dst : Nat
  cls : Nat
  len : Nat
  mirror : Nat
  pasid : Nat
  part : Nat
  sup : Bool
  armed : Bool
  running : Bool
  pendingV : Nat                        -- largest value notified, not yet pulled for
  nowV : Nat                            -- value the running pull serves
  removed : Bool
  deriving DecidableEq, Repr, Inhabited

/-- A translation of the sluice TLB (R327); `gpa` marks a cached stage-2 translation of a table address. -/
structure TlbEntry where
  part : Nat
  pasid : Nat
  gpa : Bool
  vpage : Nat
  size : Nat
  mesh : Nat
  amoCause : Nat                        -- 0, or the cause that an atomic packet meets here (R326)
  torn : Bool                           -- an uncorrectable error lies in the entry (R331)
  deriving DecidableEq, Repr, Inhabited

/-- A walk in progress and the accesses that joined it (R327). -/
structure Walk where
  id : Nat
  part : Nat
  pasid : Nat
  vpage : Nat
  started : Bool
  reqs : List Req
  deriving DecidableEq, Repr, Inhabited

/-- A line of the L2 slice (R12, R72, R321); a reader line holds its data and tag. -/
structure L2Line where
  key : Nat
  cls : Nat
  used : Nat
  pref : Bool
  reader : Option (Nat × Nat × Nat)     -- object entry, tag, pasid
  data : List Byte
  deriving DecidableEq, Repr, Inhabited

/-- The state of an accumulator slot (R190, R197, R205): `st` 0 free, 1 held, 2 parked. -/
structure AccSlot where
  st : Nat
  core : Nat
  ctx : Nat
  kind : Nat
  poison : Bool
  seq : Nat
  npend : Nat
  orphan : Bool                         -- to be parked when its entries have finished (R197)
  freeAfter : Option Nat                -- to be freed when this entry of its core has retired (R197)
  deriving DecidableEq, Repr, Inhabited

/-- A free slot of kind `f32` (R190). -/
def AccSlot.free : AccSlot := ⟨0, 0, 0, 0, false, 0, 0, false, none⟩

/-- An accumulator bank (R190, R271): its partition tag, when it ran last, and its 32 slot states. -/
structure AccBank where
  tag : Option Nat
  used : Nat
  slots : List AccSlot
  deriving DecidableEq, Repr, Inhabited

/-- An untagged bank. -/
def AccBank.empty : AccBank := ⟨none, 0, List.replicate 32 AccSlot.free⟩

/-- What a pull of an `MROT` brings (R201). -/
inductive RotPart where
  | a | table | b
  deriving DecidableEq, Repr, Inhabited

/-- An accepted matrix entry in execution (R269). -/
structure MatrixJob where
  core : Nat
  seq : Nat
  owner : Loc
  op : RingOp
  since : Nat                           -- the cycle of its acceptance (R270)
  checked : Bool                        -- its records have passed their check
  refused : Bool                        -- it ends without effect
  table : Option (List Byte)            -- the neighbour's row table of a coded pull, once it is read; empty where none is (R201)
  reg : Bool                            -- its ranges are registered and its slot taken
  first : Nat                           -- the first of its lock-table entries
  parts : List (RotPart × Nat × Nat)    -- what its pulls bring, in polder view, before the XOR (R201)
  started : Bool                        -- its operands have settled: its passes may be made (R276)
  pulling : Bool                        -- its pulls have been handed to the copy/pull engine
  due : Nat                             -- when its next slab has been fetched
  passEnd : Nat                         -- when the accumulation of its last pass ends
  slot : Nat
  kb : Nat
  flags : Nat
  cause : Nat
  addr : Nat
  pulls : Nat                           -- `MROT` pulls that have not landed
  passesDone : Bool
  deriving DecidableEq, Repr, Inhabited

/-- Where a transfer of the copy/pull engine came from (R275). -/
inductive XferFrom where
  | ring (core seq : Nat)
  | rot (core seq : Nat)
  | rotTable (core seq : Nat)
  | listen (h : Handle)
  | slice (set : Nat) (otid : Nat)
  | host (dev q tag vec : Nat)
  | chunk (cid : Nat)
  deriving DecidableEq, Repr, Inhabited

/-- What a transfer does with the bytes it reads. -/
inductive XferKind where
  | copy
  | window
  | fill (pattern : Nat)
  | granule (side : Nat)
  | rotated (pb : Nat) (gran : Bool)    -- an `MROT` pull: each byte lands at its own address XOR 2^pb, rows of granules with their sidecar bytes (R201)
  | gather (i : Nat)                     -- bytes kept for input `i` of a chunk, or for the host
  | host                                 -- from host memory
  deriving DecidableEq, Repr, Inhabited

/-- A transfer (R275): source, destination home address, line class, completion word, and what is still missing. -/
structure Xfer where
  id : Nat
  origin : XferFrom
  kind : XferKind
  src : Nat
  dst : Nat
  len : Nat
  cls : Nat
  cwa : Nat
  st : Bool
  pasid : Nat
  part : Nat
  sup : Bool
  core : Nat
  issued : Bool
  next : Nat                            -- first byte whose line read has not been issued
  flying : List (Nat × Nat)             -- lines on their way: offset and length
  cause : Nat
  addr : Nat
  lock : Option Nat
  got : List Byte                       -- bytes gathered for the host (`COPYOUT`)
  deriving DecidableEq, Repr, Inhabited

/-- A registration of a counter with the slice core (R250). -/
structure CounterReg where
  id : Nat
  set : Nat
  key : Nat
  home : Nat
  hidx : Nat
  armed : Bool
  pending : Bool
  order : Nat
  deriving DecidableEq, Repr, Inhabited

/-- A pending event of a handler set (R365). -/
structure SliceEvent where
  set : Nat
  kind : Nat
  order : Nat
  entry : Nat                           -- entry offset, or the handler index where `indexed`
  indexed : Bool
  a0 : Nat
  a1 : Nat
  a3 : Nat
  msg : Option Message
  pasid : Nat
  deriving DecidableEq, Repr, Inhabited

/-- The running handler (R369). -/
structure Handler where
  gen : Nat
  set : Nat
  ev : SliceEvent
  desc : List W64                       -- the set's descriptor at entry (R362)
  pc : Nat
  regs : List (BitVec 32)
  shi : BitVec 32
  limit : Nat
  start : Nat
  replied : Bool
  fetched : List Host.Cell              -- bytes of instructions fetched since entry or the last FENCE.I (R240)
  wait : Bool                           -- an extension instruction waits for its answer
  deriving DecidableEq, Repr, Inhabited

/-- A slot of the atomic unit (R373). -/
structure AmoSlot where
  idx : Nat
  src : AmoSrc
  served : Nat
  queue : List (AmoPkt × Place)
  deriving DecidableEq, Repr, Inhabited

/-- A merge entry of a launch (R379). -/
structure MergeEntry where
  idx : Nat                             -- the number that `cw.tree` names (R409)
  launch : Nat
  exp : Nat
  got : Nat
  count : Nat
  st : Nat
  parent : Option Loc
  root : Option LaunchRec
  complete : Bool                       -- every group of the polder has been placed
  deriving DecidableEq, Repr, Inhabited

/-- A launch group that waits for room in its member core (R225). -/
structure HeldGroup where
  core : Loc
  launch : Nat                          -- 0 for a record that a host packet entered
  entry : DequeEntry
  part : Nat
  deriving DecidableEq, Repr, Inhabited

/-- A collective command of an active communicator (R237, R426), with the numbers of its first and last step. -/
structure CollCmd where
  core : Nat
  seq : Nat
  op : Nat
  ty : Nat
  rop : Nat
  count : Nat
  src : Nat
  dst : Nat
  cwa : Nat
  root : Nat
  cnts : Nat
  first : Nat
  last : Nat
  issuer : Loc
  pasid : Nat
  sup : Bool
  deriving DecidableEq, Repr, Inhabited

/-- What a member last showed of itself: its gauges and its step, counted over all activations, its signature, and whether it answered absent (R424,
R429). -/
structure Peer where
  rank : Nat
  pg : Nat
  dg : Nat
  sig : Nat
  step : Nat
  absent : Bool
  deriving DecidableEq, Repr, Inhabited

/-- The running chunk of a communicator: the reads it waits for, in the order in which they are combined. -/
structure Chunk where
  n : Nat
  parts : List (Option (List Byte))     -- inputs, own first, then children in ascending position (R430)
  fails : List (Nat × Nat)              -- causes and addresses of the line reads that failed
  deriving DecidableEq, Repr, Inhabited

/-- An active communicator (R422, R423, R425). -/
structure Comm where
  cid : Nat
  chan : Nat
  prio : Nat
  tix : Nat
  hev : Bool
  hidx : Nat
  rank : Nat
  members : List (Nat × Nat)
  record : Nat
  part : Nat
  mtid : Nat
  pg : Nat                              -- the gauges of this activation
  dg : Nat
  base : Nat                            -- steps of earlier activations (R425)
  staging : List (List Byte)
  readers : List (Nat × List Nat)       -- of each staging buffer, the step that filled it and the ranks that read it (R428)
  shown : Nat × Nat                     -- signature and step of the last notice (R424)
  pairs : List (Nat × Nat)              -- counts received and their source offsets, by rank (R431)
  cmds : List CollCmd
  peers : List Peer
  pass : Nat
  ready : Bool
  sub : Nat                             -- chunks of a payload step that are done (R431)
  chunk : Option Chunk
  stopped : Bool                        -- ABORT received (R350)
  deriving DecidableEq, Repr, Inhabited

/-- What a polder keeps of the unwind of a communicator (R350, R351). -/
structure Abort where
  cid : Nat
  part : Nat                            -- the communicator's partition
  reason : Nat
  initiator : Loc
  members : List (Nat × Nat)
  rank : Nat
  record : Nat
  chan : Nat
  mtid : Nat
  answers : List (Nat × Nat)            -- STEP values received, by rank
  dones : List Nat
  closed : Bool                         -- step 3 has closed
  agreed : Option Nat
  deriving DecidableEq, Repr, Inhabited

/-- What a swap saves of an absent partition on one polder (R346). -/
structure SavedSet where
  part : Nat
  ctxs : List (Loc × Context)
  cores : List (Loc × CoreState)
  dikes : List W64
  objects : List (Nat × List W64)
  watches : List WatchEntry
  listens : List ListenSlot
  counterRegs : List CounterReg
  comms : List Comm
  locks : List RangeLock                -- those of accepted collective commands
  deriving DecidableEq, Repr, Inhabited

/-- The state of a polder outside its cores. -/
structure PolderState where
  fence : Bool
  done : Bool
  stop : Bool
  part : Option Nat
  swapping : Option (Option Nat)        -- a swap in progress, toward a partition or toward none
  cmdBusy : Bool
  cmdRes : Nat
  cmdWord : Nat
  cmdHalt : Option Loc
  areas : List (Nat × List W64)         -- accsave, colsave, hmap, s2root, s1tab of each partition (R454)
  dikes : List W64
  counters : List (Nat × Nat)           -- by control-space offset (R329, R378, R401)
  limits : List W64                     -- mailbox limits of the cores and the guest limit (R398)
  objects : List (Nat × List W64)       -- object table (R319)
  unfresh : List Nat                    -- 64 KiB granules of HBM whose fresh bit is clear (R324)
  zeroing : List (Nat × Nat × List (Req × Place)) -- granules being zeroed: when it ends, and who waits
  zeroed : List Nat                     -- granules that read as zero, or as written since, while their zeroing goes on (R324)
  locks : List RangeLock
  lockId : Nat
  watches : List WatchEntry
  gens : List (Nat × Nat)               -- next generation of each watch-table entry
  listens : List ListenSlot
  tlb : List TlbEntry
  walks : List Walk
  walkId : Nat
  l2 : List L2Line
  banks : List AccBank                  -- two banks (R190)
  bank : Nat                            -- the selector (R271)
  shadow : Option AccBank
  saved : List AccBank                  -- banks in partitions' save areas
  jobs : List MatrixJob
  matrixTurn : Nat
  matrixFree : Nat                      -- when the slab that runs ends (R267)
  matrixLast : Nat × Nat                -- core and number of the entry whose slab ran last (R269)
  slabReads : List ((List Byte × Nat × Nat × Nat) × Nat × (Nat × Nat)) -- slab reads of multicast operands: what, until when, and for which entry (R268)
  matrixStall : Bool
  xfers : List Xfer
  xferId : Nat
  xferTurn : Nat
  internalQ : List Xfer                 -- `MROT` and listen pulls that have not been taken (R275)
  sliceQ : List Xfer                    -- `SPULL`s that have not been taken
  comms : List Comm
  collTurn : Nat
  collRunning : Option Nat
  chain : List (Option Nat)             -- handlers of the chain that wait: one that issues a chunk's pulls, or one that ends the chunk of a communicator (R437)
  chainRun : Option (Option Nat × Nat)  -- the one that runs, and when it ends
  collVt : Nat
  aborts : List Abort
  halted : List Nat                     -- identities of halted communicators
  built : List Nat                      -- records of communicators that system software has built (R281)
  collEvents : Nat
  setTurn : Nat
  handler : Option Handler
  handlerGen : Nat
  handlerDue : Bool
  events : List SliceEvent
  eventOrder : Nat
  counterRegs : List CounterReg
  raised : List (Nat × Nat × Nat)       -- gauges that `GADV`s of this cycle have raised: cycle, key and value (R376)
  sliceNet : List Nat                   -- likewise for the slice core's interface
  validSets : List Nat
  amoSlots : List AmoSlot
  amoWait : List (AmoPkt × Place)
  amoHeld : List (AmoPkt × Place)       -- packets that a lock of their own or a zeroing holds, and those of their sources behind them (R135)
  amoTurn : Nat
  amoBusy : Bool
  merges : List MergeEntry
  groups : List HeldGroup
  migBuf : List MigPkt
  overflow : List HeldOp
  missed : List (Loc × Nat)             -- contexts, with their partitions, for which an action was lost (R347)
  saves : List SavedSet
  swapEnd : Bool                        -- the incoming set is being loaded (R271)
  khz : Nat                             -- clock of the core-and-slice island (R461)
  deriving DecidableEq, Repr, Inhabited

/-- A polder after reset (R459 step 4). -/
def PolderState.initial : PolderState :=
  { fence := false, done := false, stop := false, part := none, swapping := none, cmdBusy := false, cmdRes := 0,
    cmdWord := 0, cmdHalt := none, areas := [], dikes := List.replicate 8 0#64, counters := [],
    limits := List.replicate 9 0#64, objects := [], unfresh := [], zeroing := [], zeroed := [], locks := [], lockId := 1,
    watches := [], gens := [], listens := [], tlb := [], walks := [], walkId := 1, l2 := [],
    banks := [AccBank.empty, AccBank.empty], bank := 0, shadow := none, saved := [], jobs := [], matrixTurn := 0,
    matrixFree := 0, matrixLast := (0, 0), slabReads := [], matrixStall := false, xfers := [], xferId := 1, xferTurn := 0, internalQ := [], sliceQ := [], comms := [],
    collTurn := 0, collRunning := none, chain := [], chainRun := none, collVt := 0, aborts := [], halted := [], built := [], collEvents := 0, setTurn := 0,
    handler := none, handlerGen := 0, handlerDue := false, events := [], eventOrder := 0, counterRegs := [],
    raised := [], sliceNet := [], validSets := [], amoSlots := [], amoWait := [], amoHeld := [], amoTurn := 0, amoBusy := false, merges := [],
    groups := [], migBuf := [], overflow := [], missed := [], saves := [], swapEnd := false, khz := 1400000 }

/-! ## Devices -/

/-- A host queue interface (R448, R449). -/
structure HostQueue where
  q : Nat
  cfg : List W64
  sqt : Nat
  sqh : Nat
  cqh : Nat
  cqt : Nat
  held : Nat                            -- completions written and not consumed
  phase : Bool
  flying : Nat                          -- packets fetched and not completed
  err : Bool
  pass : Nat
  deriving DecidableEq, Repr, Inhabited

/-- A launch in the dispatcher's queue of its partition, and the next group to place (R412). -/
structure QueuedLaunch where
  launch : LaunchRec
  next : Nat
  deriving DecidableEq, Repr, Inhabited

/-- A queue of launches by its queue number: a host interface, or 4,096 and the partition (R412). -/
structure LaunchQueue where
  num : Nat
  items : List QueuedLaunch
  pass : Nat
  deriving DecidableEq, Repr, Inhabited

/-- Work of a host packet in progress (R450, R458). -/
structure HostWork where
  tag : HostTag
  pasid : Nat
  part : Nat
  gen : Nat                             -- fetched before (lower) or after (higher) a revocation
  cfg : List W64                        -- the interface's configuration at the fetch (R448)
  src : Nat
  dst : Nat
  left : Nat
  deriving DecidableEq, Repr, Inhabited

/-- A link: bridge 0 to 3, Ruevo port 4 to 15, Ethernet port 16 to 31 (R8, R16, R331, R462). -/
structure LinkState where
  id : Nat
  trained : Bool
  lost : Bool
  deriving DecidableEq, Repr, Inhabited

/-- An entry of the Ruevo routing table: ports toward a `dev`, and the partitions admitted there (R462). -/
structure Route where
  dev : Nat
  ruevo : Nat
  ether : Nat
  parts : Nat
  deriving DecidableEq, Repr, Inhabited

/-- An entry of the table from `dev` to IP address and UDP port (R462). -/
structure EtherAddr where
  dev : Nat
  v6 : Bool
  addr : BitVec 128
  port : BitVec 16
  deriving DecidableEq, Repr, Inhabited

/-- A device (R447-R462). -/
structure DeviceState where
  power : Bool
  broughtUp : Nat                       -- the last step of R459 that is done
  dieDown : List Nat
  cycBase : Nat
  dieBase : List (Nat × Nat)            -- since when a die that lost its power alone counts again (R71)
  podpos : Nat
  posWritten : Bool
  pcap : Nat
  lqtix : List W64
  revoke : W64
  revokeBusy : Bool
  revokeGen : Nat
  inval : W64
  invalBusy : Bool
  invalPasid : Nat                      -- the PASID that `rpasid` held when the invalidation began (R457)
  unmasked : List (Nat × Nat)           -- remap entries whose unmasking has sent a message, and in which cycle (R456)
  unsupported : Nat                     -- host accesses that completed with Unsupported Request (R447)
  queues : List HostQueue
  remap : List (Nat × W64 × W64)
  irqs : List (Nat × Nat)               -- interrupt messages sent: address and data
  hostRecs : List (Nat × FaultRec)      -- host fault queue of each partition
  launchQs : List LaunchQueue
  launchWait : List (Nat × LaunchRec)   -- launches that wait for room in a partition's queue, by queue number (R412, R453)
  vt : Nat
  dispatching : Bool
  launchId : Nat
  works : List HostWork
  packets : Nat                         -- host packets fetched, the model's own count
  links : List LinkState
  routes : List Route
  clocks : List (Nat × Nat)             -- clocks of islands other than core-and-slice, in kHz (R28, R461)
  readmitted : List Loc
  measure : Nat
  nonce : List Byte
  mst : Nat
  reports : Nat
  report : List Byte
  snapshot : List Byte                  -- configuration as it stood when `go` was written
  l2map : List (Nat × Nat)              -- owner polder of each second-tier page (R323)
  ethTable : List EtherAddr
  deriving DecidableEq, Repr, Inhabited

/-- A device before bring-up (R459, R457). -/
def DeviceState.initial : DeviceState :=
  { power := false, broughtUp := 0, dieDown := [], cycBase := 0, dieBase := [], podpos := 0, posWritten := false, pcap := 3200,
    lqtix := List.replicate 16 4096#64, revoke := 0#64, revokeBusy := false, revokeGen := 0,
    inval := 0#64, invalBusy := false, invalPasid := 0, unmasked := [], unsupported := 0, queues := [], remap := [], irqs := [], hostRecs := [], launchQs := [], launchWait := [], vt := 0,
    dispatching := false, launchId := 1, works := [], packets := 0, links := [], routes := [], clocks := [], readmitted := [],
    measure := 0, nonce := List.replicate 32 0#8, mst := 0, reports := 0, report := [], snapshot := [], l2map := [],
    ethTable := [] }

/-! ## The machine -/

/-- Which slot of which context's block a step is about. -/
structure Focus where
  l : Loc
  epoch : Nat
  slot : Nat
  deriving DecidableEq, Repr, Inhabited

/-- The state of the machine. `now` counts cycles of the reference; `free` and `epoch` are the model's own counters
(of free values, and of names for executions); `focus` says which slot the current step fires and `cur`
what it is about when it is an event. -/
structure State where
  now : Nat
  free : Nat
  epoch : Nat
  focus : Focus
  cur : Event                           -- what the current step is about, when it is an event
  agenda : List Pending
  mem : Memory
  side : Memory
  hostMem : Memory
  ecc : List Nat                        -- keys of the units with an uncorrectable error or poison (R331)
  ctxs : List (Loc × Context)
  cores : List (Loc × CoreState)
  polders : List (Loc × PolderState)
  devices : List (Loc × DeviceState)
  deriving DecidableEq, Repr, Inhabited

/-- The machine after reset: one device, every memory zero, every table empty, and bring-up to do (R459). -/
def State.reset : State :=
  { now := 0, free := 0, epoch := 1, focus := ⟨⟨0, 0, 0, 0⟩, 0, 0⟩, cur := .idle,
    agenda := [⟨0, .event (.powerOnBringup (Loc.device 0))⟩], mem := [], side := [], hostMem := [], ecc := [],
    ctxs := [], cores := [], polders := [], devices := [(Loc.device 0, DeviceState.initial)] }

/-- The value a key is paired with in a list, or `d`. -/
def lookupD {α : Type} (k : Loc) (d : α) : List (Loc × α) → α
  | [] => d
  | p :: ps => if p.1 = k then p.2 else lookupD k d ps

/-- A list with the value of a key replaced, or the pair added. -/
def assocSet {α : Type} (k : Loc) (v : α) : List (Loc × α) → List (Loc × α)
  | [] => [(k, v)]
  | p :: ps => if p.1 = k then (k, v) :: ps else p :: assocSet k v ps

/-- The context at a place; one never written is as after reset. -/
def State.ctx (s : State) (l : Loc) : Context := lookupD l (Context.initial l.ctx) s.ctxs
/-- The core at a place. -/
def State.core (s : State) (l : Loc) : CoreState := lookupD l.toCore (CoreState.initial l.toCore) s.cores
/-- The polder at a place. -/
def State.polder (s : State) (l : Loc) : PolderState := lookupD l.toPolder PolderState.initial s.polders
/-- The device at a place. -/
def State.device (s : State) (l : Loc) : DeviceState := lookupD l.toDev DeviceState.initial s.devices

end Sys2Proof.Machine
end

