-- ==== Sys2Proof/Machine/Ops.lean ====
section
/-! DEFINITION. The named operations of the machine. An instruction's meaning is an `Act`: a program of primitive
effects on the state, so that what any instruction can do to memory and to the agenda is said once. Then come
memory and its addresses (spec/01 R21-R27), latency (spec/15 R330), translation (R325-R327), access requests,
watches (spec/05 R125), tokens, faults, and taking and leaving a trap (spec/16 R335-R340). -/

namespace Sys2Proof.Machine

/-! ## Memories and the agenda as data -/

/-- The byte at an address. -/
def Memory.get (a : Nat) : Memory → Byte
  | [] => unlistedByte
  | c :: m => if c.1 = a then c.2 else Memory.get a m

/-- A memory with one byte replaced, in canonical form. -/
def Memory.put (a : Nat) (b : Byte) : Memory → Memory
  | [] => if b = unlistedByte then [] else [(a, b)]
  | c :: m =>
    if a < c.1 then (if b = unlistedByte then c :: m else (a, b) :: c :: m)
    else if a = c.1 then (if b = unlistedByte then m else (a, b) :: m)
    else c :: Memory.put a b m

/-- A memory in which only the addresses that satisfy `p` keep their bytes; all others read as unlisted. -/
def Memory.keep (p : Nat → Bool) (m : Memory) : Memory := m.filter fun c => p c.1

/-- The bytes of `n` addresses from `a`. -/
def Memory.bytes (m : Memory) (a n : Nat) : List Byte := (List.range n).map fun i => m.get (a + i)

/-- The requester of an atomic. -/
def amoWho (a : AmoPkt) (owner : Loc) : Loc :=
  match a.into with
  | .slot l _ _ => l
  | .duty l _ => l
  | _ => owner

/-- The turn of an entry among those due in one cycle: what may lead to a commit comes first, pin atomics among it (R322), then commits in ascending order of core and
then of context (R74, R115, R120, R218, R264), then what the spec puts after the commits of the cycle: requests of others at a sluice (R318), lines
that land (R277), retirement (R75), and of a deque its pushes, a pop, a steal and a refill in that order (R392); then the slice core (R245,
R246, R250); and last the atomic unit's write, that of a `DECZ` apart (R376). -/
def Work.turn : Work → Nat
  | .event (.blockCommit l _) => 1 + 8 * (l.core % 8) + l.ctx % 8
  | .event (.sluiceRequest _ _) => 65
  | .event (.watchRegistration _ _) => 65
  | .event (.atomicPacketArrival a p) => if (amoWho a p.owner).toPolder = p.owner.toPolder then 0 else 65
  | .event (.lineReadReply _ _ _ _) => 65
  | .event (.entryRetire _) => 65
  | .event (.atomicTurn _ (some x)) => x.2.2.1
  | .event (.contextAllocation _) => 65
  | .event (.stealRequestArrival _ _ _ _) => 66
  | .event (.dequeRefill _) => 67
  | .slice _ _ => 66
  | _ => 0

/-- An agenda with one entry added behind all that are due earlier, or in the same cycle with no later turn. -/
def schedule (p : Pending) : List Pending → List Pending
  | [] => [p]
  | q :: qs => if p.due < q.due ∨ (p.due = q.due ∧ p.work.turn < q.work.turn) then p :: q :: qs else q :: schedule p qs

/-- A list with `x` put before the first element that comes no earlier by `f`. -/
def insertBy {α : Type} (f : α → Nat) (x : α) : List α → List α
  | [] => [x]
  | y :: ys => if f x ≤ f y then x :: y :: ys else y :: insertBy f x ys

/-- A list sorted by `f`. -/
def sortBy {α : Type} (f : α → Nat) (xs : List α) : List α := xs.foldr (insertBy f) []

/-! ## Effects and acts -/

/-- A primitive change of the state. -/
inductive Effect where
  | ctx (l : Loc) (f : Context → Context)
  | core (l : Loc) (f : CoreState → CoreState)
  | polder (l : Loc) (f : PolderState → PolderState)
  | device (l : Loc) (f : DeviceState → DeviceState)
  | byte (k : Nat) (b : Byte)
  | sideByte (k : Nat) (b : Byte)
  | hostByte (k : Nat) (b : Byte)
  | keep (p : Nat → Bool)
  | sideKeep (p : Nat → Bool)
  | sched (delay : Nat) (w : Work)
  | cancel (p : Work → Bool)
  | tickFree
  | tickEpoch
  | focus (f : Focus)
  | ecc (f : List Nat → List Nat)
  | forget (agents polders : Loc → Bool)

/-- What an effect does. -/
def Effect.apply (e : Effect) (s : State) : State :=
  match e with
  | .ctx l f => { s with ctxs := assocSet l (f (s.ctx l)) s.ctxs }
  | .core l f => { s with cores := assocSet l.toCore (f (s.core l)) s.cores }
  | .polder l f => { s with polders := assocSet l.toPolder (f (s.polder l)) s.polders }
  | .device l f => { s with devices := assocSet l.toDev (f (s.device l)) s.devices }
  | .byte k b => { s with mem := s.mem.put k b }
  | .sideByte k b => { s with side := s.side.put k b }
  | .hostByte k b => { s with hostMem := s.hostMem.put k b }
  | .keep p => { s with mem := s.mem.keep p }
  | .sideKeep p => { s with side := s.side.keep p }
  | .sched d w => { s with agenda := schedule ⟨s.now + d, w⟩ s.agenda }
  | .cancel p => { s with agenda := s.agenda.filter fun q => !p q.work }
  | .tickFree => { s with free := s.free + 1 }
  | .tickEpoch => { s with epoch := s.epoch + 1 }
  | .focus f => { s with focus := f }
  | .ecc f => { s with ecc := f s.ecc }
  | .forget f g => { s with
      ctxs := s.ctxs.filter fun p => !f p.1
      cores := s.cores.filter fun p => !f p.1
      polders := s.polders.filter fun p => !g p.1 }

/-- A program of effects. -/
inductive Act where
  | skip
  | fx (e : Effect)
  | seq (a b : Act)
  | read (k : State → Act)

/-- What a program of effects does to a state. -/
def Act.run : Act → State → State
  | .skip, s => s
  | .fx e, s => e.apply s
  | .seq a b, s => b.run (a.run s)
  | .read k, s => (k s).run s

/-- Acts one after another. -/
def Act.all : List Act → Act
  | [] => .skip
  | a :: as => .seq a (Act.all as)

/-- An act under a condition. -/
def Act.when (c : Bool) (a : Act) : Act := if c then a else .skip

/-- One act for each element of a list, in order. -/
def Act.each {α : Type} (xs : List α) (f : α → Act) : Act := Act.all (xs.map f)

/-- The outcome of an instruction whose meaning is an act: it always has a next state. -/
def done (a : Act) (s : State) : Host.Outcome State Fault Refusal := .next (a.run s)

namespace Act

/-- Change a context. -/
def ctx (l : Loc) (f : Context → Context) : Act := .fx (.ctx l f)
/-- Change a core. -/
def core (l : Loc) (f : CoreState → CoreState) : Act := .fx (.core l f)
/-- Change a polder. -/
def polder (l : Loc) (f : PolderState → PolderState) : Act := .fx (.polder l f)
/-- Change a device. -/
def device (l : Loc) (f : DeviceState → DeviceState) : Act := .fx (.device l f)
/-- Change the block in flight of a context, if it has one. -/
def block (l : Loc) (f : Block → Block) : Act := .ctx l fun c => { c with block := c.block.map f }
/-- Put an event on the agenda. -/
def event (delay : Nat) (e : Event) : Act := .fx (.sched delay (.event e))
/-- Use the next free value. -/
def withFree (k : Nat → Act) : Act := .read fun s => .seq (.fx .tickFree) (k s.free)
/-- Use a new name for an execution. -/
def withEpoch (k : Nat → Act) : Act := .read fun s => .seq (.fx .tickEpoch) (k s.epoch)

end Act

/-- A place of the model's own: contexts 8 to 31 of a core hold the predicted blocks of its contexts, three of context `c` at `c + 8`, `c + 16` and
`c + 24` (R42). -/
def isAhead (l : Loc) : Bool := decide (8 ≤ l.ctx)

/-- The context that a predicted block belongs to; a context of the machine itself. -/
def realCtx (l : Loc) : Loc := { l with ctx := l.ctx % 8 }

/-! ## Physical keys and places (R22, R24, R25) -/

/-- The memory key of an offset in a space of a polder. -/
def keyIn (l : Loc) (space off : Nat) : Nat := ((l.dev * 512 + l.pidx) * 8 + space) * 2 ^ 43 + off

/-- The key of a byte of the core memory of a core. -/
def coreKey (l : Loc) (off : Nat) : Nat := keyIn l.toPolder 2 (l.core * 0x20000 + off)

/-- The number of `n` bytes at a key. -/
def State.num (s : State) (k n : Nat) : Nat := natOfBytes (s.mem.bytes k n)

/-- A workspace word as of the last block boundary (R60, R65). -/
def State.wword (s : State) (l : Loc) (n : Nat) : Nat := s.num (coreKey l ((s.ctx l).wp.toNat + 8 * n)) 8

/-- Word `i` of a partition's host-control area on a polder: accsave, colsave, hmap, s2root, s1tab (R454). -/
def areaWord (p : PolderState) (part i : Nat) : Nat :=
  match p.areas.find? fun a => a.1 == part with
  | some a => (a.2.getD i 0#64).toNat
  | none => 0

/-- The home-map entry of a second-tier offset of a polder, for its resident partition (R323, R454). -/
def State.homeMapEntry (s : State) (l : Loc) (off : Nat) : Nat :=
  let p := s.polder l
  match p.part with
  | some part =>
    let h := areaWord p part 2
    let o := h - 0x100000000 + 8 * (off / 0x200000)
    if h = 0 ∨ !p.unfresh.contains (o / 0x10000) then 0 else s.num (keyIn l.toPolder 0 o) 8
  | none => 0

/-- The key of a second-tier byte: the page must be mapped and its recorded owner must be the polder (R323). -/
def State.tierKey (s : State) (l : Loc) (off : Nat) : Option Nat :=
  let e := s.homeMapEntry l off
  let page := bits e 61 21
  if bit e 63 && (s.device l).l2map.any (fun q => q.1 == page && q.2 == l.pidx) then
    some (keyIn ⟨l.dev, 511, 0, 0⟩ 1 (page * 0x200000 + off % 0x200000))
  else none

/-- The memory key of a place; none where nothing is mapped (R323). Control space has no key. -/
def State.keyOf (s : State) (p : Place) : Option Nat :=
  match p.space with
  | 0 => some (keyIn p.owner 0 p.off)
  | 1 => s.tierKey p.owner p.off
  | 2 => some (keyIn p.owner 2 p.off)
  | 3 => some (keyIn p.owner 3 ((s.polder p.owner).bank * 0x80000 + p.off))
  | 4 =>
    let l : Loc := { p.owner with core := p.off / 0x400, ctx := p.off % 0x400 / 0x80 }
    some (coreKey l ((s.ctx l).wp.toNat + p.off % 0x80))
  | 5 => some (keyIn p.owner 5 p.off)
  | _ => none

/-- The place of a home address of the agent at `l` (R22). -/
def homePlace (l : Loc) (a : Nat) : Option Place :=
  if a < 0x20000 then some ⟨l.toPolder, 2, l.core * 0x20000 + a⟩
  else if 0x100000 ≤ a ∧ a < 0x200000 then some ⟨l.toPolder, 2, a - 0x100000⟩
  else if 0x400000 ≤ a ∧ a < 0x480000 then some ⟨l.toPolder, 3, a - 0x400000⟩
  else if 0x800000 ≤ a ∧ a < 0x820000 then some ⟨l.toPolder, 5, a - 0x800000⟩
  else if 0x100000000 ≤ a ∧ a < 0x180000000 then some ⟨l.toPolder, 0, a - 0x100000000⟩
  else if 0x4000000000 ≤ a ∧ a < 0x8000000000 then some ⟨l.toPolder, 1, a - 0x4000000000⟩
  else none

/-- The home address of a place of its own polder, in polder view; 0 where it has none. -/
def placeHome (p : Place) : Nat :=
  match p.space with
  | 0 => 0x100000000 + p.off
  | 1 => 0x4000000000 + p.off
  | 2 => 0x100000 + p.off
  | 3 => 0x400000 + p.off
  | 5 => 0x800000 + p.off
  | _ => 0

/-- The polder-view form of a private-alias address (R208, R468). -/
def polderView (l : Loc) (a : Nat) : Nat := if a < 0x20000 then 0x100000 + l.core * 0x20000 + a else a

/-- The limit of an offset in a space (R25). -/
def spaceLimit : Nat → Nat
  | 0 => 0x80000000
  | 1 => 0x4000000000
  | 2 => 0x100000
  | 3 => 0x80000
  | 4 => 0x2000
  | 5 => 0x20000
  | 6 => 0x10000
  | _ => 0

/-- A mesh address that keeps the format of R26. -/
def meshOk (a : Nat) : Bool := bit a 63 && decide (bits a 52 49 ≤ 11) && decide (bits a 42 0 < spaceLimit (bits a 45 43))

/-- The devices that answer to pod position `n`, seen from device `d`: itself first (R462). -/
def State.devsAt (s : State) (d n : Nat) : List Nat :=
  (if (s.device (Loc.device d)).podpos = n then [d] else [])
    ++ (s.devices.filter fun p => p.1.dev != d && p.2.podpos == n && p.2.power).map fun p => p.1.dev

/-- The device that answers to pod position `n`; one that nothing answers to is `256 + n`. Where several share the
position, which of them answers is a free value (R462). -/
def State.devAt (s : State) (d n : Nat) : Nat :=
  let c := s.devsAt d n
  c.getD (Config.choice s.free % (if c.length = 0 then 1 else c.length)) (256 + n)

/-- The place that a mesh address names (R24). -/
def State.meshPlace (s : State) (d a : Nat) : Place :=
  ⟨Loc.polderOf (s.devAt d (bits a 62 55)) (polderIndex (bits a 54 53) (bits a 52 49) (bits a 48 46)), bits a 45 43, bits a 42 0⟩

/-- The mesh address of a place (R24). -/
def State.meshOf (s : State) (p : Place) : Nat :=
  field 1 1 63 + field (s.device p.owner).podpos 8 55 + field p.owner.die 2 53 + field p.owner.px 4 49
    + field p.owner.py 3 46 + field p.space 3 43 + field p.off 43 0

/-- `tid` of a context (R69). -/
def State.tid (s : State) (l : Loc) : Nat :=
  field (s.device l).podpos 8 16 + tidLow l + field (boolNat (s.ctx l).guest) 1 3

/-- The place that a destination token or `tid` names (R209). -/
def State.tidLoc (s : State) (d t : Nat) : Loc :=
  { dev := s.devAt d (bits t 23 16), pidx := polderIndex (bits t 15 14) (bits t 13 10) (bits t 9 7), core := bits t 6 4,
    ctx := bits t 2 0 }

/-- `tid`[23:0] of a slice core: core, guest and context all ones (R341). -/
def State.sliceTid (s : State) (p : Loc) : Nat := s.tid { p with core := 7, ctx := 7 } / 256 * 256 + field p.py 3 7 % 256 + 0x7F

/-- The partition of the agents of a polder. -/
def State.partOf (s : State) (l : Loc) : Nat := (s.polder l).part.getD 0

/-! ## Distance and latency (R16, R330) -/

/-- Distance of two columns or rows. -/
def gap (a b : Nat) : Nat := if a ≤ b then b - a else a - b

/-- Mesh hops and bridge crossings of a packet from polder `a` to polder `b` of one device (R16). -/
def routeIn (a b : Loc) : Nat × Nat :=
  let ac := a.die % 2
  let bc := b.die % 2
  let ar := a.die / 2
  let br := b.die / 2
  let h1 := if ac = bc then 0 else if ac < bc then 11 - a.px else a.px
  let x1 := if ac = bc then a.px else if ac < bc then 0 else 11
  let d1 := boolNat (ac != bc)
  let h2 := if ar = br then 0 else gap x1 b.px + (if ar < br then 7 - a.py else a.py)
  let x2 := if ar = br then x1 else b.px
  let y2 := if ar = br then a.py else if ar < br then 0 else 7
  let d2 := boolNat (ar != br)
  (h1 + h2 + gap x2 b.px + gap y2 b.py, d1 + d2)

/-- Hops and crossings from a polder to I/O die 0 (west) or 1 (east): along its row to the outer edge of its half (R8, R16; notes/assumptions 137). -/
def routeOut (io : Nat) (a : Loc) : Nat × Nat :=
  let edge := if io = 0 then a.px else 11 - a.px
  if a.die % 2 = io then (edge, 1) else (edge + 11, 2)

/-- Hops and crossings from an I/O die to a polder: in at the polder's row of the adjacent die of its half, then along the row (R16). -/
def routeBack (io : Nat) (b : Loc) : Nat × Nat :=
  let edge := if io = 0 then b.px else 11 - b.px
  if b.die % 2 = io then (edge, 1) else (11 + edge, 2)

/-- Cycles of one way of a request: 2 a hop, 36 a crossing, and what crosses between devices, by the ports of an I/O die of each (R330). -/
def oneWay (io cross : Nat) (a b : Loc) : Nat :=
  if a.dev = b.dev then
    let r := routeIn a b
    2 * r.1 + 36 * r.2
  else
    let o := routeOut io a
    let i := routeBack io b
    2 * (o.1 + i.1) + 36 * (o.2 + i.2) + cross

/-- The memory term M of R330; `hit` says that the L2 slice holds the line. -/
def memTerm (space : Nat) (hit : Bool) : Nat :=
  match space with
  | 0 => if hit then 24 else 284
  | 1 => if hit then 24 else 1200
  | _ => 8

/-! ## Counters, errors and fresh granules -/

/-- Count one at a control-space counter, saturating (R329). -/
def bumpIn (off n : Nat) : List (Nat × Nat) → List (Nat × Nat)
  | [] => [(off, n)]
  | c :: cs => if c.1 = off then (off, min (c.2 + n) (2 ^ 64 - 1)) :: cs else c :: bumpIn off n cs

/-- Count one at a counter of a polder (R329, R378, R401). -/
def Act.count (l : Loc) (off : Nat) : Act := .polder l fun p => { p with counters := bumpIn off 1 p.counters }

/-- The bytes of the unit of error correction at a key: 32 in HBM and the second tier, 8 in the other memories (R331). -/
def eccSize (u : Nat) : Nat := if u / 2 ^ 43 % 8 ≤ 1 then 32 else 8

/-- The key of the unit of error correction that holds the sidecar byte of the 32-byte row at key `k`: place 7 of its polder, which no address names
(R11, R331). -/
def sideUnit (k : Nat) : Nat := (k / 2 ^ 46 * 8 + 7) * 2 ^ 43 + k % 2 ^ 43 / 32

/-- An uncorrectable error lies in `n` bytes from key `k`: a marked unit meets them (R331). -/
def State.eccHit (s : State) (k n : Nat) : Bool := s.ecc.any fun u => decide (u < k + n) && decide (k < u + eccSize u)

/-- An uncorrectable error lies in the sidecar byte of the row at key `k` (R331). -/
def State.sideHit (s : State) (k : Nat) : Bool := s.eccHit (sideUnit k) 1

/-- A place lies in a fresh granule (R324): 64 KiB of HBM, or a second-tier page whose home-map entry is fresh. -/
def State.freshBit (s : State) (p : Place) : Bool :=
  match p.space with
  | 0 => !(s.polder p.owner).unfresh.contains (p.off / 0x10000)
  | 1 => bit (s.homeMapEntry p.owner p.off) 62
  | _ => false

/-- The granule of a place: its number, with second-tier pages numbered after the channel's granules. -/
def granuleOf (p : Place) : Nat := if p.space = 0 then p.off / 0x10000 else 0x8000 + p.off / 0x200000

/-- The bytes that a fresh granule held are still there, for the zeroing to replace (R324). -/
def State.isFresh (s : State) (p : Place) : Bool := s.freshBit p && !(s.polder p.owner).zeroed.contains (granuleOf p)

/-- The place where a granule begins, and its size. -/
def granulePlace (owner : Loc) (g : Nat) : Place × Nat :=
  if g < 0x8000 then (⟨owner, 0, g * 0x10000⟩, 0x10000) else (⟨owner, 1, (g - 0x8000) * 0x200000⟩, 0x200000)

/-! ## Dry owners (R352) -/

/-- A link between two dies of one device is lost in every path (R331): bridges are numbered 0 to 3 by R8's pairs. -/
def State.bridgeLost (s : State) (d a b : Nat) : Bool :=
  let pair := if a ≤ b then (a, b) else (b, a)
  let id := if pair = (0, 1) then 0 else if pair = (2, 3) then 1 else if pair = (0, 2) then 2 else 3
  ((s.device (Loc.device d)).links.find? fun k => k.id == id).any fun k => k.lost

/-- Every bridge of a die is lost. -/
def State.dieCut (s : State) (d die : Nat) : Bool :=
  let across := if die % 2 = 0 then die + 1 else die - 1
  let down := if die < 2 then die + 2 else die - 2
  s.bridgeLost d die across && s.bridgeLost d die down

/-- The route of a device to the device of an owner (R462). -/
def State.routeTo (s : State) (src owner : Loc) : Option Route :=
  (s.device src).routes.find? fun r => r.dev == (if owner.dev < 256 then (s.device owner).podpos else owner.dev - 256)

/-- A port is trained and not lost (R331, R462). -/
def DeviceState.portLive (d : DeviceState) (i : Nat) : Bool := d.links.any fun k => k.id == i && k.trained && !k.lost

/-- The Ruevo ports of a routing mask that are live, by their numbers in R8's order. -/
def DeviceState.ruevoPorts (d : DeviceState) (r : Route) : List Nat := (List.range 12).filter fun i => bit r.ruevo i && d.portLive (4 + i)
/-- The Ethernet ports of a routing mask that are live: 0 to 7 on I/O die 0, 8 to 15 on I/O die 1 (R8). -/
def DeviceState.etherPorts (d : DeviceState) (r : Route) : List Nat := (List.range 16).filter fun i => bit r.ether i && d.portLive (16 + i)

/-- The port by which traffic from one polder to another leaves its device, by the number of its link: a live Ruevo port of the routing mask, else a live
Ethernet port, chosen by the hash of the two polder indices; the lower port of the mask where both devices hold one pod position (R462). -/
def State.portTo (s : State) (a b : Loc) : Option Nat :=
  (s.routeTo a b).bind fun r =>
    let rs := (s.device a).ruevoPorts r
    let links := if rs.isEmpty then ((s.device a).etherPorts r).map (16 + ·) else rs.map (4 + ·)
    let shared := decide (b.dev < 256) && (s.device a).podpos == (s.device b).podpos
    links[if shared then 0 else Config.portHash a.pidx b.pidx % max 1 links.length]?

/-- The Ethernet port by which traffic from one polder to another leaves its device; none where Ruevo carries it (R462). -/
def State.etherTo (s : State) (a b : Loc) : Option Nat := ((s.portTo a b).filter fun k => decide (16 ≤ k)).map (· - 16)

/-- Cycles of one way between two polders (R16, R330). Another device is reached by Ruevo, all of whose ports are on I/O die 1, where a Ruevo port of its
mask is live; else by the Ethernet port that the hash chooses, through the I/O die that has it (R8, R462). -/
def State.way (s : State) (a b : Loc) : Nat :=
  match s.etherTo a b with
  | some e => oneWay (e / 8) (Config.etherCrossing e) a b
  | none => oneWay 1 420 a b

/-- Polders of the dies through which a packet from `a` to `b` passes besides those of its ends (R16). -/
def State.transits (s : State) (a b : Loc) : List Loc :=
  let at' (l : Loc) (col : Nat) : Loc := Loc.polderOf l.dev (96 * (l.die / 2 * 2 + col))
  if a.dev = b.dev then [at' a (b.die % 2)]
  else
    let io := (s.etherTo a b).elim 1 fun e => e / 8
    [at' a io, at' b io]

/-- No live port of the routing mask leads to the owner's device (R331, R462). -/
def State.unreached (s : State) (src owner : Loc) : Bool :=
  decide (src.dev ≠ owner.dev) && match s.routeTo src owner with
    | some r => ((s.device src).ruevoPorts r).isEmpty && ((s.device src).etherPorts r).isEmpty
    | none => false

/-- The owner is lost to the agents at `src`: no device, no power, or no link to it (R331, R352, R462). -/
def State.severed (s : State) (src owner : Loc) : Bool :=
  let d := s.device owner
  decide (256 ≤ owner.dev) || !d.power || d.dieDown.contains owner.die || s.unreached src owner
    || (decide (owner.dev ≠ src.dev ∨ owner.die ≠ src.die) && s.dieCut owner.dev owner.die)
    || (decide (owner.dev = src.dev ∧ owner.die ≠ src.die) && s.dieCut src.dev src.die)

/-- The owner is dry to the agents at `src` by one of R352's cases. -/
def State.dryBase (s : State) (src owner : Loc) : Bool := s.severed src owner || (s.polder owner).fence

/-- The owner is dry to the agents at `src`, and system software has not readmitted it (R352). -/
def State.isDry (s : State) (src owner : Loc) : Bool := !(s.device src).readmitted.contains owner.toPolder && s.dryBase src owner

/-- The owner is dry because no request reaches it: none of its windows and locks can refuse one first. A fenced owner is dry too, but its sluice still
looks at them (R107, R352; notes/assumptions 13). -/
def State.isGone (s : State) (src owner : Loc) : Bool := s.isDry src owner && s.severed src owner

/-- The traffic from `src` to device of `owner` is admitted for the partition (R462). -/
def State.routed (s : State) (src owner : Loc) (part : Nat) : Bool :=
  decide (src.dev = owner.dev) || match s.routeTo src owner with
    | some r => bit r.parts part
    | none => false

/-! ## Dike windows and range locks (R317, R279) -/

/-- A window admits a request (R317). -/
def windowAdmits (s : State) (w : Nat) (src : Loc) (part : Nat) (p : Place) (n : Nat) (amo : Bool) : Bool :=
  let unit := match bits w 59 58 with
    | 0 => 64
    | 1 => 0x1000
    | 2 => 0x200000
    | _ => 0x40000000
  bit w 63 && decide (bits w 62 60 = p.space) && decide (p.space < 6)
    && decide (bits w 57 42 * unit ≤ p.off) && decide (p.off + n ≤ (bits w 41 26 + 1) * unit)
    && decide (bits w 25 22 = part) && (bit w 21 || decide (bits w 19 12 = (s.device src).podpos))
    && (bit w 20 || decide (bits w 11 3 = src.pidx)) && (!amo || bit w 2)

/-- The owner's sluice admits a request (R317); requests of the owner polder itself pass every window, and space 3 is
refused to another partition (R273). -/
def State.dikeAdmits (s : State) (src : Loc) (part : Nat) (p : Place) (n : Nat) (amo : Bool) : Bool :=
  let o := s.polder p.owner
  !(p.space == 3 && !(o.part == some part))
    && (decide (src.toPolder = p.owner.toPolder) || o.dikes.any fun w => windowAdmits s w.toNat src part p n amo)

/-- Two spans of keys meet. -/
def overlap (a n b m : Nat) : Bool := decide (a < b + m) && decide (b < a + n)

/-- Pieces of a span that keep their order under XOR with `2^pb` (R201). -/
def xorPieces (pb a : Nat) : Nat → Nat → List (Nat × Nat)
  | 0, _ => []
  | k + 1, n =>
    let m := min n (2 ^ pb - a % 2 ^ pb)
    if n = 0 then [] else (a, m) :: xorPieces pb (a + m) k (n - m)

/-- What XOR with `2^pb` makes of a span of one core memory, in pieces. -/
def flipPieces (pb a n : Nat) : List (Nat × Nat) := (xorPieces pb a 0x1001 n).map fun q => (Nat.xor q.1 (2 ^ pb), q.2)

/-- A registered span meets `n` bytes at a home address in polder view. -/
def RangeLock.meets (r : RangeLock) (a n : Nat) : Bool :=
  if r.flip = 0 then overlap r.base r.len a n
  else (flipPieces r.flip a n).any fun q => overlap (Nat.xor r.base (2 ^ r.flip)) r.len q.1 q.2

/-- A registered span meets `n` bytes at a memory key. -/
def RangeLock.meetsKey (r : RangeLock) (k n : Nat) : Bool :=
  if r.flip = 0 then overlap r.key r.len k n else r.meets (k + r.base - r.key) n

/-- A registered span that meets `n` bytes at key `k`, of destinations only or of sources too. -/
def State.lockHit (s : State) (owner : Loc) (k n : Nat) (dstOnly : Bool) : Option RangeLock :=
  (s.polder owner).locks.find? fun r => (r.dst || !dstOnly) && r.meetsKey k n

/-- The running bank of a polder. -/
def PolderState.theBank (p : PolderState) : AccBank := p.banks.getD p.bank AccBank.empty
/-- The state of a slot of the running bank. -/
def PolderState.slotAt (p : PolderState) (i : Nat) : AccSlot := p.theBank.slots.getD i AccSlot.free

/-- The slot of the running bank that an accumulator key lies in is busy or parked (R196). -/
def State.slotHeld (s : State) (p : Place) (n : Nat) : Option AccSlot :=
  if p.space = 3 then
    [(s.polder p.owner).slotAt (p.off / 0x4000), (s.polder p.owner).slotAt ((p.off + n - 1) / 0x4000)].find?
      fun t => decide (t.npend ≠ 0) || decide (t.st = 2)
  else none

/-- The workspace of some context that is not DORMANT meets `n` bytes at a core-memory key (R63). -/
def State.workspaceHit (s : State) (p : Place) (n : Nat) : Bool :=
  p.space == 2 && (List.range 8).any fun c =>
    let l : Loc := { p.owner.toPolder with core := p.off / 0x20000, ctx := c }
    let x := s.ctx l
    decide (x.state ≠ 0#3) && overlap (l.core * 0x20000 + x.wp.toNat) 128 p.off n

/-- A home address of the agent at `l` names bytes of such a workspace: no other agent of the polder writes them (R63). -/
def State.homeBarred (s : State) (l : Loc) (a n : Nat) : Bool := (homePlace l a).any fun p => s.workspaceHit p n

/-- Reference cycles of `n` slice cycles at the clock of the polder's core-and-slice island. -/
def State.sliceTicks (s : State) (p : Loc) (n : Nat) : Nat := ceilDiv (n * 1400000) (max 1 (s.polder p).khz)

/-- A place is a pin word of an owner entry (R319, R322). -/
def State.isPin (s : State) (p : Place) : Bool :=
  (s.polder p.owner).objects.any fun e =>
    let w (i : Nat) : Nat := (e.2.getD i 0#64).toNat
    bit (w 0) 63 && bit (w 0) 62 && (List.range (bits (w 0) 61 60 + 1)).any fun v => homePlace p.owner (bits (w 3) 39 0 + 8 * v) == some p

/-- A pinned version of an owner entry meets `n` bytes at a place (R319, R322). -/
def State.pinHit (s : State) (p : Place) (n : Nat) : Bool :=
  (s.polder p.owner).objects.any fun e =>
    let w (i : Nat) : Nat := (e.2.getD i 0#64).toNat
    bit (w 0) 63 && bit (w 0) 62 && (List.range (bits (w 0) 61 60 + 1)).any fun v =>
      match homePlace p.owner (bits (w 0) 56 0 + 64 * v * bits (w 2) 43 20), homePlace p.owner (bits (w 3) 39 0 + 8 * v) with
      | some b, some pin =>
        decide (b.space = p.space) && overlap b.off (64 * (bits (w 2) 19 0 + 1)) p.off n
          && (match s.keyOf pin with
            | some k => decide (s.num k 8 ≠ 0)
            | none => false)
      | _, _ => false

/-! ## Control space (R314) -/

/-- Word at an 8-byte offset of a polder's control space, as a device agent reads it. -/
def State.controlWord (s : State) (l : Loc) (off : Nat) : Nat :=
  let p := s.polder l
  if off < 0x200 then
    match p.locks[off / 16]? with
    | some r =>
      if off % 16 = 0 then
        field 1 1 63 + field (boolNat r.dst) 1 62 + field r.unit 2 60 + field r.seq 16 40 + field r.base 40 0
      else field r.core 3 48 + field (boolNat r.internal) 1 47 + field (r.len - 1) 24 0
    | none => 0
  else if off < 0x240 then (p.dikes.getD ((off - 0x200) / 8) 0#64).toNat
  else if 0x300 ≤ off ∧ off < 0x400 then
    match p.counters.find? fun c => c.1 == off with
    | some c => c.2
    | none => 0
  else if 0x400 ≤ off ∧ off < 0x448 then (p.limits.getD ((off - 0x400) / 8) 0#64).toNat
  else if 0x1000 ≤ off ∧ off < 0x3000 then
    match p.objects.find? fun e => e.1 == (off - 0x1000) / 32 with
    | some e => (e.2.getD (off % 32 / 8) 0#64).toNat
    | none => 0
  else if 0x3000 ≤ off ∧ off < 0x4000 then
    ((List.range 64).map fun i => if p.unfresh.contains ((off - 0x3000) * 8 + i) then 0 else 2 ^ i).sum
  else if off = 0x4000 then
    field (boolNat p.fence) 1 7 + field (boolNat p.done) 1 6 + field (boolNat p.stop) 1 5
      + field (boolNat p.part.isSome) 1 4 + field (p.part.getD 0) 4 0
  else if off = 0x4008 then
    match p.swapping with
    | some (some q) => 16 + q
    | _ => 0
  else if off = 0x4010 then field (boolNat p.cmdBusy) 1 63 + field p.cmdRes 3 60 + p.cmdWord % 2 ^ 60
  else if 0x4100 ≤ off ∧ off < 0x4500 then
    if off % 64 < 40 then areaWord p ((off - 0x4100) / 64) (off % 64 / 8) else 0
  else 0

/-- The bytes of a place as they stand, zeros in a fresh granule (R324); none where nothing is mapped. -/
def State.placeBytes (s : State) (p : Place) (n : Nat) : Option (List Byte) :=
  if s.isFresh p then some (List.replicate n 0#8)
  else if p.space = 6 then
    some (sliceBytes ((List.range (n / 8 + 2)).flatMap fun i => bytesOf 8 (s.controlWord p.owner (p.off / 8 * 8 + 8 * i))) (p.off % 8) n)
  else (s.keyOf p).map fun k => s.mem.bytes k n

/-- An uncorrectable error lies in `n` bytes of control space: tables and queues carry marks as memory does (R331). -/
def State.tableHit (s : State) (p : Place) (n : Nat) : Bool := s.eccHit (keyIn p.owner 6 p.off) n

/-- The bytes of a home address, zero where nothing is mapped. -/
def State.homeBytes (s : State) (l : Loc) (a n : Nat) : List Byte :=
  match homePlace l a with
  | some p => (s.placeBytes p n).getD (List.replicate n 0#8)
  | none => List.replicate n 0#8

/-- The 64-bit word of a home address. -/
def State.home64 (s : State) (l : Loc) (a : Nat) : Nat := natOfBytes (s.homeBytes l a 8)

/-! ## Writing memory and evaluating watches (R121, R125) -/

/-- A watch is satisfied by the value its word now holds (R125, R214, R450). -/
def watchMet (r : WatchReg) (v : Nat) : Bool :=
  match r.kind with
  | .join => v == 0
  | .hostWait => v == 0
  | .listen => false
  | _ => decide (r.thr ≤ v)

/-- The handle of an entry (R124). -/
def WatchEntry.handle (w : WatchEntry) (owner : Loc) : Handle := ⟨owner, w.gen, w.idx⟩

/-- Evaluate the armed watches of a polder on the words that `n` bytes at key `k` meet, after they were written. -/
def Act.evalWatches (owner : Loc) (k n : Nat) : Act :=
  .read fun s =>
    let hit := (s.polder owner).watches.filter fun w => w.armed && overlap w.key 8 k n
    Act.each hit fun w =>
      let v := s.num w.key 8
      if w.reg.kind = .listen then
        Act.when (decide (w.last < v)) (.seq
          (.polder owner fun p => { p with watches := p.watches.map fun x =>
            if x.idx = w.idx then { x with last := v } else x })
          (.event (s.way owner w.reg.issuer) (.listenNotification w.reg.issuer.toPolder (w.handle owner.toPolder) v false)))
      else Act.when (watchMet w.reg v) (.seq
          (.polder owner fun p => { p with watches := p.watches.filter fun x => !(x.idx == w.idx) })
          (.event (s.way owner w.reg.issuer) (.watchSatisfactionArrival ⟨w.reg, w.handle owner.toPolder, some v⟩)))

/-- A request reaches the owner's sluice, or its atomic unit or watch table, after a delay (R107, R123, R135). -/
def Act.arrive (delay : Nat) (r : Req) (p : Place) : Act :=
  match r.use with
  | .atomic a => .event delay (.atomicPacketArrival a p)
  | .watch w => .event delay (.watchRegistration w p)
  | _ => .event delay (.sluiceRequest r p)

/-- Cycles that the zeroing of a granule takes (R324). -/
def zeroingTime (p : Place) : Nat := if p.space = 0 then 1200 else 33000

/-- Cycles that an access to a place waits for a zeroing: the rest of one that runs, or the whole of one that it starts (R324). -/
def State.freshWait (s : State) (q : Place) : Nat :=
  match (s.polder q.owner).zeroing.find? fun z => decide (q.space < 2) && z.1 == granuleOf q with
  | some z => z.2.1 - s.now
  | none => if s.isFresh q then zeroingTime q else 0

/-- The granule of a place is fresh, or its zeroing runs: every access waits (R324). -/
def State.unsettled (s : State) (p : Place) : Bool :=
  s.isFresh p || (decide (p.space < 2) && (s.polder p.owner).zeroing.any fun z => z.1 == granuleOf p)

/-- Start the zeroing of the granule at a place, unless it runs already (R324). -/
def Act.startZeroing (p : Place) : Act :=
  .read fun s => Act.when (s.isFresh p && !(s.polder p.owner).zeroing.any fun z => z.1 == granuleOf p)
    (.seq (.polder p.owner fun q => { q with zeroing := q.zeroing ++ [(granuleOf p, s.now + zeroingTime p, [])] })
      (.event (zeroingTime p) (.freshZeroingDone p.owner.toPolder (granuleOf p))))

/-- Make every byte of a fresh granule zero: the zeroing is the first write of each, and lifts what marks lie on its units (R324, R331). -/
def Act.zeroGranule (p : Place) : Act :=
  .read fun s => Act.when (s.isFresh p) (
    let g := granuleOf p
    let b := (granulePlace p.owner g).1
    let n := (granulePlace p.owner g).2
    .seq (match s.keyOf b with
        | some k => .seq (.fx (.keep fun a => decide (a < k) || decide (k + n ≤ a)))
            (.fx (.ecc fun us => us.filter fun u => decide (u < k) || decide (k + n ≤ u)))
        | none => .skip)
      (.polder p.owner fun q => { q with zeroed := g :: q.zeroed }))

/-- The zeroing of a granule is done: every byte is zero, or what has been written since, and its fresh bit is cleared (R324). -/
def Act.settleFresh (p : Place) : Act :=
  .seq (.zeroGranule p) (.read fun s => Act.when (s.freshBit p) (
    let g := granuleOf p
    .seq (.polder p.owner fun q => { q with unfresh := if p.space = 0 then g :: q.unfresh else q.unfresh, zeroed := q.zeroed.filter fun z => z != g })
      (if p.space = 1 then
        match (s.polder p.owner).part with
        | some part =>
          let a := keyIn p.owner.toPolder 0 (areaWord (s.polder p.owner) part 2 - 0x100000000 + 8 * (p.off / 0x200000) + 7)
          .fx (.byte a (s.mem.get a &&& 0xBF#8))
        | none => .skip
      else .skip)))

/-- Bytes written to slice handler memory: those of the reserved part of its control block keep their zero (R6, R362). -/
def slicePart (p : Place) (bs : List Byte) : List Byte :=
  if p.space = 5 && decide (p.off < 0x400) && decide (0x100 < p.off + bs.length) then
    (List.range bs.length).map fun i => if 0x100 ≤ p.off + i ∧ p.off + i < 0x400 then 0#8 else bs.getD i 0#8
  else bs

/-- Write the bytes of a list at a key. -/
def Act.putBytes (k : Nat) : List Byte → Act
  | [] => .skip
  | b :: bs => .seq (.fx (.byte k b)) (Act.putBytes (k + 1) bs)

/-- Write bytes at a place: in a fresh granule the zeroing is the first write, and goes on, so that whoever else comes waits for its end (R324); units
that are covered whole lose their mark (R331), and the watches on the words are evaluated (R121). A place where nothing is mapped takes no
write. A write of the set descriptors makes the slice core look at them (R362). -/
def Act.writePlace (p : Place) (bs : List Byte) : Act :=
  .seq (.seq (.startZeroing p) (.zeroGranule p)) (.read fun s =>
    match s.keyOf p with
    | some k => Act.all [
        .putBytes k (slicePart p bs),
        .fx (.ecc fun us => us.filter fun u => !(decide (k ≤ u) && decide (u + eccSize u ≤ k + bs.length))),
        .evalWatches p.owner k bs.length,
        .when (p.space == 5 && decide (p.off < 0x100)) (.event 0 (.handlerStart p.owner.toPolder))]
    | none => .skip)

/-- Write bytes at a home address of the agent at `l`; what its lines do in the slice is said apart. -/
def Act.putHome (l : Loc) (a : Nat) (bs : List Byte) : Act :=
  match homePlace l a with
  | some p => .writePlace p bs
  | none => .skip

/-! ## Translation (R325, R326) -/

/-- Read a table word at a mesh address for the walker at `l` (R325, R327). -/
def State.tableRead (s : State) (l : Loc) (a : Nat) : Except Nat Nat :=
  let p := s.meshPlace l.dev a
  if s.isDry l p.owner then .error 9
  else match s.keyOf p with
    | some k => if s.isFresh p then .ok 0 else if s.eccHit k 8 then .error 0x11 else .ok (s.num k 8)
    | none => .error 5

/-- A leaf: the address it maps to, the page size, and whether atomic packets are permitted. -/
structure Leaf where
  base : Nat
  size : Nat
  amo : Bool
  deriving DecidableEq, Repr, Inhabited

/-- One stage of a walk from a table, through the levels whose lowest index bits are listed (R325, R326). Each entry of a `c16` group holds the group's
own aligned address (notes/assumptions 135). -/
def walkTable (rd : Nat → Except Nat Nat) (cause : Nat) (stage1 : Bool) (va : Nat) : Nat → List Nat → Except Nat Leaf
  | _, [] => .error cause
  | table, sh :: rest =>
    (rd (table + 8 * bits va (sh + 8) sh)).bind fun e =>
      let addr := if stage1 then bits e 56 12 * 0x1000 else e / 0x1000 * 0x1000
      if !bit e 0 || bits e 11 6 != 0 || bit e 3 || (stage1 && bits e 63 57 != 0) then .error cause
      else if bit e 1 then
        let size := if sh = 12 && bit e 5 then 2 ^ 16 else 2 ^ sh
        if decide (30 < sh) || !bit e 2 || addr % size != 0 then .error cause else .ok ⟨addr, size, bit e 4⟩
      else walkTable rd cause stage1 va addr rest

/-- The lowest index bits of levels 1 to 5 (R325). -/
def walkLevels : List Nat := [48, 39, 30, 21, 12]

/-- A cached stage-2 translation of a table address (R327). -/
def State.tlbGpa (s : State) (l : Loc) (part ipa : Nat) : Option TlbEntry :=
  (s.polder l).tlb.find? fun t => t.gpa && t.part == part && t.vpage == ipa / t.size * t.size

/-- A mesh address that stage 2 gives keeps the mesh format, and a second-tier page that it names belongs to the polder it names; whose pages are
those of a polder that has lost its power is not known (R25, R26, R323). -/
def State.meshFits (s : State) (l : Loc) (m : Nat) : Bool :=
  let p := s.meshPlace l.dev m
  meshOk m && (p.space != 1 || s.isGone l p.owner || (s.tierKey p.owner p.off).isSome)

/-- Stage 2: an intermediate address to a mesh address (R325, R326). -/
def State.stage2 (s : State) (l : Loc) (part ipa : Nat) : Except Nat Leaf :=
  match s.tlbGpa l part ipa with
  | some t => if t.torn then .error 0x11 else if s.meshFits l (t.mesh + ipa % t.size) then .ok ⟨t.mesh, t.size, t.amoCause == 0⟩ else .error 5
  | none =>
    (walkTable (s.tableRead l) 5 false ipa (areaWord (s.polder l) part 3) walkLevels).bind fun f =>
      if s.meshFits l (f.base + ipa % f.size) then .ok f else .error 5

/-- Read a word at an intermediate address. -/
def State.ipaRead (s : State) (l : Loc) (part ipa : Nat) : Except Nat Nat :=
  (s.stage2 l part ipa).bind fun f => s.tableRead l (f.base + ipa % f.size)

/-- The PASID's entry in the partition's stage-1 table (R454). -/
def State.pasidEntry (s : State) (l : Loc) (part pasid : Nat) : Except Nat Nat := s.tableRead l (areaWord (s.polder l) part 4 + 8 * pasid)

/-- Stage 1: a virtual address to an intermediate address (R325, R326). -/
def State.stage1 (s : State) (l : Loc) (part pasid va : Nat) : Except Nat Leaf :=
  (s.pasidEntry l part pasid).bind fun pe =>
    if !bit pe 63 || bit pe 62 then .error 4
    else walkTable (s.ipaRead l part) 4 true va (bits pe 56 12 * 0x1000) walkLevels

/-- A whole translation: mesh address of the page, page size, and the cause an atomic packet meets (R325, R326). -/
def State.walk (s : State) (l : Loc) (part pasid va : Nat) : Except Nat TlbEntry :=
  (s.stage1 l part pasid va).bind fun f1 =>
    (s.stage2 l part (f1.base + va % f1.size)).bind fun f2 =>
      let size := min f1.size f2.size
      let ipa := f1.base + va % f1.size
      .ok ⟨part, pasid, false, va / size * size, size, f2.base + ipa % f2.size / size * size,
        if !f1.amo then 4 else if !f2.amo then 5 else 0, false⟩

/-- The cause with which a failed walk answers an access: for an atomic packet a stage-1 leaf that forbids it comes first (R326). -/
def State.walkCause (s : State) (l : Loc) (part pasid va : Nat) (amo : Bool) (c : Nat) : Nat :=
  match s.stage1 l part pasid va with
  | .ok f => if amo && !f.amo then 4 else c
  | .error _ => c

/-- The addresses that one stage of a walk reads. -/
def tableAddrs (rd : Nat → Except Nat Nat) (stage1 : Bool) (va : Nat) : Nat → List Nat → List Nat
  | _, [] => []
  | table, sh :: rest =>
    let a := table + 8 * bits va (sh + 8) sh
    a :: (match rd a with
      | .ok e => if bit e 0 && !bit e 1 then
          tableAddrs rd stage1 va (if stage1 then bits e 56 12 * 0x1000 else e / 0x1000 * 0x1000) rest else []
      | .error _ => [])

/-- The intermediate addresses that a walk translates, in order: those of the stage-1 tables that it reads, then the final one. -/
def State.walkIpas (s : State) (l : Loc) (part pasid va : Nat) : List Nat × List Nat :=
  match s.pasidEntry l part pasid with
  | .ok pe => (tableAddrs (s.ipaRead l part) true va (bits pe 56 12 * 0x1000) walkLevels,
      match s.stage1 l part pasid va with
      | .ok f => [f.base + va % f.size]
      | .error _ => [])
  | .error _ => ([], [])

/-- The mesh addresses that the translation of intermediate addresses reads, and those they translate to; an address in a page that an earlier one has
brought into the TLB reads nothing more (R330). -/
def State.ipaAddrs (s : State) (l : Loc) (part : Nat) : List (Nat × Nat) → List Nat → List Nat
  | _, [] => []
  | pages, a :: as =>
    let walked := if (s.tlbGpa l part a).isSome || pages.any fun q => a / q.2 * q.2 == q.1 then []
      else tableAddrs (s.tableRead l) false a (areaWord (s.polder l) part 3) walkLevels
    match s.stage2 l part a with
    | .ok f => walked ++ (f.base + a % f.size) :: s.ipaAddrs l part ((a / f.size * f.size, f.size) :: pages) as
    | .error _ => walked ++ s.ipaAddrs l part pages as

/-- The places that a walk reads, in its order, behind the PASID's entry (R325, R330). -/
def State.walkPlaces (s : State) (l : Loc) (part pasid va : Nat) : List Place :=
  let w := s.walkIpas l part pasid va
  let reads := s.ipaAddrs l part [] (w.1 ++ w.2)
  (if w.2.any fun a => (s.stage2 l part a).isOk then reads.dropLast else reads).map (s.meshPlace l.dev)

/-- The place of the PASID's entry; R330 counts no read of it in a walk. -/
def State.pasidPlace (s : State) (l : Loc) (part pasid : Nat) : Place := s.meshPlace l.dev (areaWord (s.polder l) part 4 + 8 * pasid)

/-- The time of a walk: its reads one after another, each by R330 for its own path; the zeroing of a granule is waited for once (R324). -/
def State.walkTime (s : State) (l : Loc) : List Place → List (Loc × Nat) → Nat
  | [], _ => 0
  | p :: ps, seen =>
    let g := (p.owner, granuleOf p)
    24 + s.way l p.owner + s.way p.owner l + memTerm p.space false + (if p.space < 2 ∧ seen.contains g then 0 else s.freshWait p) + s.walkTime l ps (g :: seen)

/-- Stage-2 translations of the table addresses that a walk reads: they are kept in the TLB too (R327). -/
def State.walkGpas (s : State) (l : Loc) (part : Nat) (ipas : List Nat) : List TlbEntry :=
  ipas.filterMap fun a => match s.stage2 l part a with
    | .ok f => some ⟨part, 0, true, a / f.size * f.size, f.size, f.base, if f.amo then 0 else 5, false⟩
    | .error _ => none

/-- What a walk brings into the TLB (R327). -/
def State.walkBrings (s : State) (l : Loc) (part pasid va : Nat) : List TlbEntry :=
  s.walkGpas l part (s.walkIpas l part pasid va).1 ++ match s.walk l part pasid va with
    | .ok t => [t]
    | .error _ => []

/-- Keep translations, dropping the oldest past 4,096 (R327). -/
def tlbAdd (old new : List TlbEntry) : List TlbEntry :=
  let all := new.foldl (fun ts t => if ts.any fun u => u.gpa == t.gpa && u.part == t.part && u.pasid == t.pasid && u.vpage == t.vpage
    then ts else ts ++ [t]) old
  all.drop (all.length - 4096)

/-- A walker reads its tables: a fresh granule that it meets starts to be zeroed (R324, R327); the walk ends after the reads' time (R330). -/
def Act.startWalk (p : Loc) (part pasid va id : Nat) : Act :=
  .read fun s =>
    let ps := s.walkPlaces p part pasid va
    .seq (.each (s.pasidPlace p part pasid :: ps) Act.startZeroing) (.event (s.walkTime p ps []) (.tlbWalkComplete p.toPolder id))

/-- A walk has read an uncorrectable error in a table: the polder whose memory holds it counts it (R329, R331). -/
def Act.countTorn (p : Loc) (part pasid va : Nat) : Act :=
  .read fun s => match s.walk p part pasid va with
    | .error 0x11 => .count (((s.pasidPlace p part pasid :: s.walkPlaces p part pasid va).find? fun q => (s.keyOf q).any fun k => s.eccHit k 8).elim p
        fun q => q.owner) 0x358
    | _ => .skip

/-- A translation that the sluice TLB holds (R327). -/
def State.tlbFind (s : State) (l : Loc) (part pasid va : Nat) : Option TlbEntry :=
  (s.polder l).tlb.find? fun t => !t.gpa && t.part == part && t.pasid == pasid && t.vpage == va / t.size * t.size

/-- An address token has the virtual form (R21, R325). -/
def virtualForm (a : Nat) : Bool := decide (2 ^ 40 ≤ a) && !bit a 63 && bits a 62 57 == 0

/-- A translation that a unit takes at once is a walk like any other where the TLB misses: it is counted, and what it reads is kept (R327, R329). Its time is that
of the unit (notes/assumptions 144). -/
def Act.walkNow (l : Loc) (part pasid a : Nat) : Act :=
  .read fun s => .when (virtualForm a) (match s.tlbFind l part pasid a with
    | some t => .when t.torn (.count l 0x358)
    | none => .all [
        .each (s.pasidPlace l part pasid :: s.walkPlaces l part pasid a) Act.startZeroing,
        .count l 0x330, .count l 0x338, .countTorn l part pasid a,
        .polder l fun q => { q with tlb := tlbAdd q.tlb (s.walkBrings l part pasid a) }])

/-- The place of an address token that is used at once (a check that takes no time of its own): home, mesh or
virtual form by R21, or the cause it meets. -/
def State.resolve (s : State) (l : Loc) (part pasid : Nat) (sup : Bool) (a : Nat) (amo : Bool) : Except Nat Place :=
  if a < 2 ^ 40 then
    match homePlace l a with
    | some p => if p.space = 1 && (s.tierKey p.owner p.off).isNone then .error 4 else .ok p
    | none => .error 4
  else if bit a 63 then (if sup && meshOk a then .ok (s.meshPlace l.dev a) else .error 4)
  else if bits a 62 57 ≠ 0 then .error 4
  else
    let tr : Except Nat TlbEntry := match s.tlbFind l part pasid a with
      | some t => .ok t
      | none => s.walk l part pasid a
    match tr with
    | .ok t =>
      if t.torn then .error 0x11
      else if amo && t.amoCause != 0 then .error t.amoCause
      else
        let m := t.mesh + a % t.size
        if s.meshFits l m then .ok (s.meshPlace l.dev m) else .error 5
    | .error e => .error (s.walkCause l part pasid a amo e)

/-! ## Access requests -/

/-- The request is an atomic packet. -/
def useIsAmo : Use → Bool
  | .atomic _ => true
  | _ => false

/-- The request is a read of a block. -/
def useIsFetch : Use → Bool
  | .fetch _ _ _ => true
  | _ => false

/-- Answer a request after a delay, by what it is for; a block fetch takes one more cycle for each further line it touches (R464), and a
line of a transfer lands 2 cycles later (R277). -/
def Act.answer (r : Req) (delay cause : Nat) (data : List Byte) : Act :=
  let a : Answer := ⟨cause, r.addr, data⟩
  match r.use with
  | .load l ep slot rd => .event delay (.loadReply l ep slot rd a)
  | .fetch l ep second => .event (delay + (r.addr + r.size - 1) / 64 - r.addr / 64) (.blockFetchReadReturn l ep second a)
  | .atomic p => .event delay (.atomicReply p cause 0)
  | .watch w => .event delay (.watchRegistrationReply w ⟨w.issuer.toPolder, 0, 0⟩ cause 0)
  | .line x i => .event (delay + 2) (.lineReadReply r.who.toPolder x i a)
  | .pref _ _ => Act.when (cause != 0) (.count r.who 0x310)

/-- Cycles of issue that the copy/pull engine adds to a line read (R277). -/
def issueCycles : Use → Nat
  | .line _ _ => 4
  | _ => 0

/-- The cycle at which the last atomic packet of a polder that is on its way to an owner arrives: packets of one source keep their order (R372). -/
def State.amoSent (s : State) (who owner : Loc) : Nat :=
  (s.agenda.map fun q => match q.work with
    | .event (.atomicPacketArrival a p) => if p.owner.toPolder = owner.toPolder ∧ (amoWho a p.owner).toPolder = who.toPolder then q.due else 0
    | _ => 0).foldl max 0

/-- Send a request whose place is known to the owner (R107, R135, R330): injection takes 8 cycles, and contention may
add to the way there. -/
def Act.sendTo (r : Req) (p : Place) : Act :=
  .withFree fun n => .read fun s =>
    let d := 8 + issueCycles r.use + s.way r.who p.owner + (if p.owner.toPolder = r.who.toPolder then 0 else Config.contention n)
    .arrive (if useIsAmo r.use then max d (s.amoSent r.who p.owner - s.now) else d) r p

/-- The check of the space that an access may reach (R107 check 3, R467, R135). -/
def spaceCause (r : Req) (p : Place) : Nat :=
  match r.use with
  | .atomic _ => if p.space ≤ 2 then 0 else 7
  | .watch _ => if p.space ≤ 2 then 0 else 4
  | _ => if !r.sup && (p.space == 5 || p.space == 6) then 0x0C else 0

/-- A `PREF` of a line that its polder's slice may not hold goes no further than the translation: the slice holds lines of its own HBM and second tier, and
declared lines of other polders (R12, R119). -/
def reqStops (r : Req) (p : Place) : Bool :=
  match r.use with
  | .pref _ rd => if p.owner.toPolder = r.who.toPolder then decide (2 ≤ p.space) else rd.isNone
  | _ => false

/-- The request as its owner sees it: a declared span of the polder's own memory makes no reader line (R12). -/
def reqSeen (r : Req) (p : Place) : Req :=
  if p.owner.toPolder = r.who.toPolder then
    match r.use with
    | .load l ep slot (some _) => { r with use := .load l ep slot none }
    | .pref pol (some _) => { r with use := .pref pol none }
    | _ => r
  else r

/-- Take an access request as far as its owner: form and range of the token, translation (a miss starts or joins a
walk, R327), the space check, then the way to the owner. -/
def Act.submit (r : Req) : Act :=
  .read fun s =>
    let go (p : Place) : Act :=
      let c := spaceCause r p
      if c ≠ 0 then .answer r 1 c [] else if reqStops r p then .skip else .sendTo (reqSeen r p) p
    if r.addr < 2 ^ 40 then
      match s.resolve r.who r.part r.pasid r.sup r.addr (useIsAmo r.use) with
      | .ok p => go p
      | .error e => .answer r 1 (if useIsAmo r.use && (homePlace r.who r.addr).isNone then 7 else e) []
    else if bit r.addr 63 then
      if r.sup && meshOk r.addr then go (s.meshPlace r.who.dev r.addr) else .answer r 1 4 []
    else if bits r.addr 62 57 ≠ 0 then .answer r 1 4 []
    else
      let far := r.addr + r.size - 1
      let split := useIsFetch r.use && far / 0x1000 != r.addr / 0x1000 && (s.tlbFind r.who r.part r.pasid far).isNone
      match if split then none else s.tlbFind r.who r.part r.pasid r.addr with
      | some t =>
        if t.torn then .seq (.count r.who 0x358) (.answer r 1 0x11 [])
        else if useIsAmo r.use && t.amoCause != 0 then .answer r 1 t.amoCause []
        else
          let m := t.mesh + r.addr % t.size
          if s.meshFits r.who m then go (s.meshPlace r.who.dev m) else .answer r 1 5 []
      | none =>
        let va := if (s.tlbFind r.who r.part r.pasid r.addr).isSome then far else r.addr
        let page := va / 0x1000 * 0x1000
        .seq (.count r.who 0x330)
          (match (s.polder r.who).walks.find? fun w => w.part == r.part && w.pasid == r.pasid && w.vpage == page with
          | some w => .polder r.who fun q => { q with walks := q.walks.map fun x =>
              if x.id = w.id then { x with reqs := x.reqs ++ [r] } else x }
          | none =>
            let id := (s.polder r.who).walkId
            let free := decide (((s.polder r.who).walks.filter fun w => w.started).length < 32)
            .seq (.polder r.who fun q => { q with walkId := id + 1, walks := q.walks ++ [⟨id, r.part, r.pasid, page, free, [r]⟩] })
              (Act.when free (.startWalk r.who.toPolder r.part r.pasid va id)))

/-! ## Tokens and faults of a block in flight -/

/-- The block that a fired slot belongs to, or none if that execution is over. -/
def State.blockAt (s : State) (l : Loc) (epoch : Nat) : Option Block :=
  match (s.ctx l).block with
  | some b => if b.epoch = epoch then some b else none
  | none => none

/-- The token at an operand of a slot, if it has arrived. -/
def Block.operand (b : Block) (slot : Nat) (o : Opnd) : Option Token :=
  (b.ops.find? fun x => x.1 == slot && x.2.1 == o).map fun x => x.2.2

/-- The member of a composed core that a slot runs on; 0 for a context that is not composed (R405). -/
def memberOf (n owner slot : Nat) (comp : Bool) : Nat := if comp then (owner + slot / 8) % 2 ^ n else owner

/-- The owner of a block at an address in a composed core of `2^n` members (R405). -/
def blockOwner (n a : Nat) : Nat :=
  let x := Nat.xor (bits a 12 5) (Nat.xor (bits a 20 13) (Nat.xor (bits a 28 21) (Nat.xor (bits a 36 29)
    (Nat.xor (bits a 44 37) (Nat.xor (bits a 52 45) (bits a 56 53))))))
  x % 2 ^ n

/-- Header word `i` of a fetched block (R30). -/
def Block.hw (b : Block) (i : Nat) : Nat := numAt b.bytes (4 * i) 4

/-- Cycles of a token from one slot to another: 1, or 3 where it crosses to another member (R77, R406). -/
def State.transit (s : State) (l : Loc) (b : Block) (a c : Nat) : Nat :=
  match (s.ctx l).lead with
  | some (_, n) =>
    let o := blockOwner n b.addr
    let k := bit (b.hw 0) 19
    if memberOf n o a k = memberOf n o c k then 1 else 3
  | none => 1

/-- Send a token from slot `slot` to the nonzero targets, `lat` cycles from now and one transit later (R34, R77). -/
def Act.deliver (l : Loc) (epoch slot lat : Nat) (tok : Token) (ts : List Target) : Act :=
  .read fun s =>
    match s.blockAt l epoch with
    | some b => Act.each ts fun t =>
        match t with
        | .none => .skip
        | .into o n => .event (lat + s.transit l b slot n.toNat) (.tokenArrival l epoch o n.toNat tok)
    | none => .skip

/-- Record a fault of a block: the first in time counts, and among those of one cycle the lowest slot (R334); the
block is to be abandoned. The detail of an illegal instruction is its slot (R333). -/
def Act.raise (l : Loc) (epoch slot cause detail addr : Nat) : Act :=
  .read fun s =>
    match s.blockAt l epoch with
    | some b =>
      let f : BlockFault := ⟨s.now, slot, cause, if cause = 1 then slot else detail, addr⟩
      let old := match b.fault with
        | some g => decide (g.time < f.time) || (decide (g.time = f.time) && decide (g.slot ≤ f.slot))
        | none => false
      Act.when (!old) (.seq (.block l fun c => { c with fault := some f }) (.event 0 (.blockAbandon l epoch)))
    | none => .skip

/-- An instruction fires: the slot is recorded; a second fault or a failed block stops nothing that was earlier. -/
def Block.live (b : Block) (now : Nat) : Bool :=
  match b.fault with
  | some f => decide (f.time = now)
  | none => true

/-! ## Fault records (R341, R342) -/

/-- The four words of a record (R341). -/
def recWords (r : FaultRec) : List Nat :=
  [field r.detail 40 24 + field (boolNat r.ovf) 1 19 + field r.src 3 16 + field r.inner 8 8 + field r.cause 8 0, r.addr % 2 ^ 64,
    r.aux % 2 ^ 64, field r.otid 24 0]

/-- A record raised by a core for one of its contexts: only the causes 0x01, 0x0D and 0x12 carry a detail (R341). -/
def State.coreRec (s : State) (l : Loc) (cause inner detail addr aux : Nat) : FaultRec :=
  ⟨cause, inner, 0, (if [1, 0x0D, 0x12].contains cause then detail else 0), addr, aux, s.tid l, false⟩

/-- The record of a late fault that an engine's entry leaves behind when its thread has ended (R99, R341, R342). -/
def State.engineRec (s : State) (l : Loc) (inner surplus addr seq : Nat) : FaultRec :=
  { s.coreRec l 0x0D inner surplus addr seq with src := 2 }

/-- Post a record to the host queue of a partition (R332). -/
def Act.hostRec (l : Loc) (part : Nat) (r : FaultRec) : Act :=
  .device l fun d => { d with hostRecs := d.hostRecs ++ [(part, r)] }

/-- Post a record to a context's fault queue; a full queue sends it to the host queue, and the next record admitted
says that records were lost (R342). -/
def Act.post (l : Loc) (r : FaultRec) : Act :=
  .read fun s =>
    let c := s.ctx l
    if c.faultQ.length < 8 then
      .ctx l fun x => { x with faultQ := x.faultQ ++ [{ r with ovf := x.faultLost }], faultLost := false }
    else .seq (.ctx l fun x => { x with faultLost := true }) (.hostRec l (s.partOf l) r)

/-- `fq`: the first word of the oldest record, or 0 (R65). -/
def Context.fq (c : Context) : Nat :=
  match c.faultQ with
  | r :: _ => (recWords r).getD 0 0
  | [] => 0

/-! ## Stores by a context (R108) -/

/-- Checks 2 to 4 of R108 on an aligned store: alignment, form, ranges, page ownership and the HBM limit, which bars stores to HBM alone (R73;
notes/assumptions 155). -/
def State.storeRange (s : State) (l : Loc) (a size : Nat) : Nat :=
  if a % size ≠ 0 then 3
  else if 2 ^ 40 ≤ a then 7
  else
    match homePlace l a with
    | none => 7
    | some p =>
      let lim := bits (s.ctx l).home.toNat 23 0
      if p.space = 1 && (s.tierKey l p.off).isNone then 7
      else if p.space = 0 && lim ≠ 0 && decide (lim * 0x10000 ≤ p.off) then 7
      else 0

/-- The checks of a store at firing, 2 to 6 of R108: 0 when it may proceed. -/
def State.storeCause (s : State) (l : Loc) (a size : Nat) : Nat :=
  if s.storeRange l a size ≠ 0 then s.storeRange l a size
  else
    match homePlace l a with
    | none => 7
    | some p =>
      if p.space = 5 && !(s.ctx l).sup then 0x0C
      else if s.workspaceHit p size then 8
      else 0

/-- The checks of a store at commit: range locks, busy or parked slots, pins (R108, R196, R322). -/
def State.commitCause (s : State) (l : Loc) (a size : Nat) : Nat :=
  match homePlace l a with
  | none => 7
  | some p =>
    match s.keyOf p with
    | none => 7
    | some k => if (s.lockHit l k size false).isSome || (s.slotHeld p size).isSome || s.pinHit p size then 8 else 0

/-! ## Taking a trap and returning from one (R335-R340) -/

/-- `lcount` of R70. -/
def Context.lcount (c : Context) : Nat := min (c.late.length + c.surplus) (2 ^ 20 - 1)

/-- The 64 bytes of the trap frame (R337); `pending` says that a late fault remains. -/
def frameBytes (c : Context) (t : Trap) (pending : Bool) : List Byte :=
  bytesOf 8 (field t.seq 16 48 + field t.inner 8 40 + field t.namo 8 32 + field (boolNat pending) 1 30 + field t.kind 2 28
    + field t.detail 20 8 + field t.cause 8 0)
  ++ bytesOf 8 (t.epc % 2 ^ 57) ++ bytesOf 8 t.tval ++ bytesOf 8 c.wp.toNat
  ++ (List.range 4).flatMap fun i => bytesOf 8 (t.record.getD i 0)

/-- The cause for which the frame of a trap cannot be written: `cw.trapframe` is not 64-byte aligned, or a word of the frame fails the
checks of an `ST64` (R108, R338); 0 if it can. -/
def State.frameFault (s : State) (l : Loc) : Nat :=
  let f := (s.ctx l).trapframe.toNat
  if f % 64 ≠ 0 then 3
  else (((List.range 8).map fun i => if s.storeCause l (f + 8 * i) 8 ≠ 0 then s.storeCause l (f + 8 * i) 8 else s.commitCause l (f + 8 * i) 8).find?
    fun c => c != 0).getD 0

/-- The entry of a trap can be made (R338). -/
def State.frameOk (s : State) (l : Loc) : Bool := s.frameFault l == 0

/-- A context passes to HALTED with its place in hand: a stop at a boundary, or a double trap (R343, R339). -/
def Act.halt (l : Loc) (pc : Nat) : Act :=
  .ctx l fun c => { c with state := 4#3, pc := w64 pc, block := none, stopReq := false }

/-- Double trap: HALTED with `sup` = 1, and a record of the cause to the host queue (R339). -/
def Act.doubleTrap (l : Loc) (t : Trap) (pc : Nat) : Act :=
  .read fun s => .seq (.ctx l fun c => { c with sup := true, haltCause := t.cause })
    (.seq (.halt l pc) (.hostRec l (s.partOf l) (s.coreRec l t.cause t.inner t.detail t.tval 0)))

/-- TAKING A TRAP from `sup` = 0 with a trap vector: the frame is written as a home store, `sup` is set and the
block address becomes `cw.trapvec` (R338). A frame that cannot be written makes a double trap, whose second cause is that of the frame's
write; the context is halted at the handler's block (R339, R455). -/
def Act.enterTrap (l : Loc) (t : Trap) : Act :=
  .read fun s =>
    let c := s.ctx l
    if s.frameOk l then Act.all [
      .putHome l c.trapframe.toNat (frameBytes c t (c.lcount != 0)),
      .ctx l fun x => { x with sup := true, pc := x.trapvec, block := none }]
    else .doubleTrap l ⟨0, s.frameFault l, 0, 0, 0, 0, t.epc, c.trapframe.toNat, []⟩ c.trapvec.toNat

/-- RETURN FROM A TRAP, after the block's `WRITE`s: `wp` and the block address come from the frame and `sup` is
cleared (R232, R340). -/
def Act.leaveTrap (l : Loc) (swp epc : Nat) : Act :=
  .ctx l fun c => { c with wp := BitVec.ofNat 17 swp, pc := w64 epc, sup := false }

end Sys2Proof.Machine
end

