-- ==== Sys2Proof/Machine/Ring.lean ====
section
/-! DEFINITION. The coprocessor dispatch ring of a core (spec/12 R264, R265): operands and spans of its entries, which
later accesses of the issuing context wait for them (spec/07 R172, spec/08 R196, spec/12 R279), dispatch, completion and
retirement. -/

namespace Sys2Proof.Machine

/-! ## Vector tokens (R168) -/

/-- A vector token, unpacked. -/
structure VTok where
  cnt : Nat
  ty : Nat
  gran : Bool
  bs : Bool
  rsv : Nat
  addr : Nat
  deriving DecidableEq, Repr, Inhabited

/-- The fields of a vector token (R168). -/
def vtok (v : Nat) : VTok := ⟨bits v 63 48, bits v 47 42, bit v 41, bit v 40, bits v 39 21, bits v 20 0⟩

/-- Bytes of the array (R143, R166). -/
def VTok.size (t : VTok) : Nat :=
  if t.gran then 32 * ceilDiv t.cnt (max 1 (perRow t.ty)) else ceilDiv (t.cnt * tyWidth t.ty) 8

/-! ## Shape records (R165) -/

/-- A shape record, unpacked. -/
structure Shape where
  ty : Nat
  akind : Nat
  base : Nat
  e : List Nat                          -- e0 to e3
  rank : Nat
  st : List Nat                         -- s1 to s3
  rtab : Nat
  word2 : Nat
  rsv : Nat
  cls : Nat
  mcast : Bool
  gran : Bool
  bsm : Nat
  ts : Nat
  deriving DecidableEq, Repr, Inhabited

/-- The fields of a 32-byte shape record (R165). -/
def shapeOf (r : List Byte) : Shape :=
  let w (i : Nat) : Nat := numAt r (8 * i) 8
  { ty := bits (w 0) 63 58, akind := bits (w 0) 57 56, base := bits (w 0) 55 0,
    e := [bits (w 1) 15 0, bits (w 1) 31 16, bits (w 1) 47 32, bits (w 1) 63 48], rank := bits (w 2) 63 60,
    st := [bits (w 2) 19 0, bits (w 2) 39 20, bits (w 2) 59 40], rtab := bits (w 2) 55 0, word2 := w 2,
    rsv := bits (w 3) 63 40, cls := bits (w 3) 39 38, mcast := bit (w 3) 37, gran := bit (w 3) 36,
    bsm := bits (w 3) 35 32, ts := bits (w 3) 31 0 }

/-- Extent `i`. -/
def Shape.ext (h : Shape) (i : Nat) : Nat := h.e.getD i 0
/-- The coded type. -/
def Shape.coded (h : Shape) : Bool := h.ty == 0x16

/-- The span from `base` to the last byte of a two-dimensional tile that is not coded (R166, R201). -/
def Shape.tileBytes (h : Shape) : Nat :=
  let rows := (h.ext 1 - 1) * h.st.getD 0 0
  if h.gran then 32 * ((h.ext 0 - 1) / max 1 (perRow h.ty) + rows + 1)
  else ceilDiv ((h.ext 0 - 1 + rows + 1) * tyWidth h.ty) 8

/-- The span of a coded tile: its streams from `base`, the last one to at most 50 bytes a block (R148, R201). -/
def Shape.codedBytes (s : State) (l : Loc) (h : Shape) : Nat :=
  natOfBytes (s.homeBytes l (h.rtab + 4 * (h.ext 1 - 1)) 4) + 50 * ceilDiv (h.ext 0) 32

/-- The home spans of a matrix operand: the tile, and the row table of a coded one. -/
def Shape.spans (s : State) (l : Loc) (h : Shape) : List (Nat × Nat) :=
  if h.coded then [(h.base, h.codedBytes s l), (h.rtab, 4 * h.ext 1)] else [(h.base, h.tileBytes)]

/-! ## Operands of a ring entry -/

/-- Largest bytes of a block that a table of `VENC` can produce (R184). -/
def encBlockMax : CodeTable → Nat
  | .t0 => 50
  | .t1 => 46
  | .t2 => 38
  | .t3 => 34
  | .auto => 34

/-- The matrix operation that an `eq0` record asks for (R235). -/
def eq0Op (ptr : Nat) (rec : List Byte) (rd : Nat → List Byte) : Option RingOp :=
  let w (i : Nat) : Nat := numAt rec (8 * i) 8
  let pair (n : Nat) : Option MmaPair :=
    [MmaPair.dd, .ss, .bb, .hh, .ee, .ev, .vv, .bk, .ek, .qq, .xx, .yy, .ii, .nn][n]?
  let op := bits ptr 63 56
  let xop := w 3 % 32
  if w 3 / 32 ≠ 0 then none
  else if 0x60 ≤ op ∧ op ≤ 0x6D then
    if xop = 0 then (pair (op - 0x60)).map fun p => .mma p false (rd (w 0)) (rd (w 1)) (w 0) (w 2) else none
  else if op = 0x6E then (pair xop).map fun p => .mma p true (rd (w 0)) (rd (w 1)) (w 0) (w 2)
  else if op = 0x6F ∧ w 2 = 0 then
    if xop < 3 then (if w 1 = 0 then [MaccOp.zero, .reclaim, .park][xop]?.map fun m => .macc m (w 0) 0 else none)
    else if xop = 4 then some (.macc .loada (w 0) (w 1))
    else if xop = 5 then some (.macc .storea (w 0) (w 1))
    else none
  else none

/-- The operation of an entry, an `eq0` command as the matrix operation it asks for. -/
def State.entryOp (s : State) (e : RingEntry) : Option RingOp :=
  match e.op with
  | .eq0 ptr rec => eq0Op ptr rec fun a => s.homeBytes e.owner a 32
  | op => some op

/-- The accumulator control word's slot and buffer bit (R191). -/
def ctlSlot (x : Nat) : Nat := bits x 4 0

/-- The home spans of an entry's operands with `true` where a later load of the issuing context waits for it too
(R172, R196): destinations of vector entries, every operand and the slot of matrix entries. -/
def State.entrySpans (s : State) (e : RingEntry) : List (Bool × Nat × Nat) :=
  let tok (d : Bool) (v : Nat) : Bool × Nat × Nat := (d, (vtok v).addr, (vtok v).size)
  match s.entryOp e with
  | some (.vec op l r x) =>
    match op with
    | .scat => [tok true l, tok false r, tok false x]
    | .bcast => [tok true l]
    | .popaNone => [tok true r]
    | .popaRelu => [tok true r]
    | .popaClamp => [tok true r]
    | .enc t => [(true, l, encBlockMax t * ceilDiv (vtok r).cnt 32), (true, x, 4), tok false r]
    | .dec => if r < 2 ^ 40 then [tok true l, (false, r, 50 * ceilDiv (vtok l).cnt 32)] else [tok true l]
    | .permRot => [tok true l, tok false r]
    | .add => [tok true l, tok false r, tok false x]
    | .sub => [tok true l, tok false r, tok false x]
    | .mul => [tok true l, tok false r, tok false x]
    | .div => [tok true l, tok false r, tok false x]
    | .min => [tok true l, tok false r, tok false x]
    | .max => [tok true l, tok false r, tok false x]
    | .and => [tok true l, tok false r, tok false x]
    | .or => [tok true l, tok false r, tok false x]
    | .xor => [tok true l, tok false r, tok false x]
    | .shl => [tok true l, tok false r, tok false x]
    | .shr => [tok true l, tok false r, tok false x]
    | .fma => [tok true l, tok false r, tok false x]
    | .gath => [tok true l, tok false r, tok false x]
    | .msk => [tok true l, tok false r, tok false x]
    | .sel => [tok true l, tok false r, tok false x]
    | .cmp _ => [tok true l, tok false r, tok false x]
    | _ => [tok true l, tok false r]
  | some (.mma _ _ a b _ x) =>
    (true, 0x400000 + 0x4000 * ctlSlot x, 0x4000)
      :: (((shapeOf a).spans s e.owner ++ (shapeOf b).spans s e.owner).map fun q => (true, q.1, q.2))
  | some (.macc m l r) =>
    (true, 0x400000 + 0x4000 * ctlSlot l, 0x4000)
      :: (if m = .loada ∨ m = .storea then [(true, r, 0x4000)] else [])
  | _ => []

/-- The key of a home address whose place needs no map: core memory, accumulators, HBM and slice memory. -/
def State.homeKey (s : State) (l : Loc) (a : Nat) : Option Nat := (homePlace l a).bind s.keyOf

/-- An unretired entry of the context has an operand that a later access of `n` bytes at a key overlaps; for a load
only those that loads wait for count (R172, R196). -/
def State.entryHit (s : State) (l : Loc) (k n : Nat) (isLoad : Bool) : Bool :=
  (s.core l).ring.any fun e => decide (e.owner = l) && (s.entrySpans e).any fun q =>
    (q.1 || !isLoad) && (match s.homeKey l q.2.1 with
      | some b => decide (q.2.2 ≠ 0) && overlap b q.2.2 k n
      | none => false)

/-- A span registered by an entry of the context itself, which its later accesses wait for (R279). -/
def State.ownLock (s : State) (l : Loc) (k n : Nat) (dstOnly : Bool) : Bool :=
  (s.polder l).locks.any fun r => (r.dst || !dstOnly) && decide (r.owner = l) && r.meetsKey k n

/-- A load of a context by home address waits for its own unretired work (R172, R196, R279). -/
def State.loadWaits (s : State) (l : Loc) (a n : Nat) : Bool :=
  match s.homeKey l a with
  | some k => s.entryHit l k n true || s.ownLock l k n true
  | none => false

/-- A store of a context waits, and keeps its block from committing (R172, R196, R279). -/
def State.storeWaits (s : State) (l : Loc) (k n : Nat) : Bool := s.entryHit l k n false || s.ownLock l k n false

/-! ## Dispatch, completion and retirement (R264, R265, R336) -/

/-- Which unit an entry is handed to. -/
inductive RingUnit where
  | vector | matrix | copy | collective
  deriving DecidableEq, Repr, Inhabited

/-- The unit of an operation (R264). -/
def RingOp.unit : RingOp → RingUnit
  | .vec _ _ _ _ => .vector
  | .mma _ _ _ _ _ _ => .matrix
  | .macc _ _ _ => .matrix
  | .eq0 _ _ => .matrix
  | .pull _ _ _ => .copy
  | .eq2 _ _ => .copy
  | .eq3 _ _ => .collective

/-- The oldest entry of a core's ring that a unit has yet to take. -/
def CoreState.head (c : CoreState) (u : RingUnit) : Option RingEntry :=
  c.ring.find? fun e => e.op.unit == u && e.phase == .dispatched

/-- A collective command that has been accepted and is not complete: it stays with its communicator through a swap (R436). -/
def RingEntry.collRuns (e : RingEntry) : Bool :=
  e.phase == .accepted && (match e.op with
    | .eq3 _ _ => true
    | _ => false)

/-- A unit may accept an entry; while the partition departs, only one that an accepted entry stands behind, which could not retire otherwise
(R271). -/
def State.mayAccept (s : State) (c : Loc) (e : RingEntry) : Bool :=
  (s.polder c).swapping.isNone
    || (((s.core c).ring.dropWhile fun x => x.seq != e.seq).drop 1).any fun x => x.phase != .dispatched && !x.collRuns

/-- The entry that a unit may take next from a core's ring. -/
def State.unitHead (s : State) (c : Loc) (u : RingUnit) : Option RingEntry := ((s.core c).head u).filter (s.mayAccept c)

/-- Every accepted entry of a ring has retired, but for collective commands and what stands behind a running one (R271, R346, R436). -/
def ringDrained : List RingEntry → Bool
  | [] => true
  | e :: es =>
    if e.collRuns then es.all fun x => x.phase != .accepted || x.collRuns
    else e.phase == .dispatched && ringDrained es

/-- Change one entry of a core's ring. -/
def Act.entry (c : Loc) (seq : Nat) (f : RingEntry → RingEntry) : Act :=
  .core c fun k => { k with ring := k.ring.map fun e => if e.seq.toNat = seq then f e else e }

/-- The entry of a core's ring with a number. -/
def State.entryAt (s : State) (c : Loc) (seq : Nat) : Option RingEntry := (s.core c).ring.find? fun e => e.seq.toNat == seq

/-- Let matrix jobs that wait to register try again: rows of their slot may have been read, or an entry of it may have retired (R182, R204). -/
def Act.pokeJobs (c : Loc) : Act :=
  .read fun s => .when ((s.polder c).jobs.any fun j => !j.refused && !(j.started && j.pulling)) (.event 0 (.rangeLockRegister c.toPolder))

/-- An entry has finished its work: it is complete, with its cause and flags, and may retire (R264, R265). -/
def Act.complete (c : Loc) (seq cause addr flags : Nat) : Act :=
  .seq (.entry c seq fun e => { e with
      phase := .complete
      cause := if e.cause = 0 then cause else e.cause
      addr := if e.cause = 0 then addr else e.addr
      flags := Nat.lor e.flags flags })
    (.event 0 (.entryRetire c.toCore))

/-- A line read of an entry has met a dry owner: its thread has met a dry read (R226). -/
def Act.noteDry (c : Loc) (seq cause : Nat) : Act :=
  .read fun s => match s.entryAt c seq with
    | some e => .when (cause == 9 && (s.ctx e.owner).thread == e.thread)
        (.ctx e.owner fun x => { x with duties := { x.duties with dry := true } })
    | none => .skip

/-- Release the range-lock registrations that a unit's entry holds, and let waiting units try again (R278). -/
def Act.unlock (p : Loc) (f : RangeLock → Bool) : Act :=
  .seq (.polder p fun q => { q with locks := q.locks.filter fun r => !f r })
    (.all [.event 0 (.matrixEntryAccept p.toPolder), .event 0 (.transferIssue p.toPolder), .event 0 (.rangeLockRegister p.toPolder)])

/-- Keep one late fault of a context: eight are kept, the rest are counted (R336). -/
def Act.addLate (l : Loc) (f : LateFault) : Act :=
  .ctx l fun c => if c.late.length < 8 ∧ c.surplus = 0 then { c with late := c.late ++ [f] } else { c with surplus := c.surplus + 1 }

/-- Enter an operation in the ring at commit: it takes the core's next sequence number (R264), and the rounding mode as it stands then
(R150; notes/assumptions 33). -/
def Act.dispatch (l : Loc) (op : RingOp) (bad : Bool) : Act :=
  .read fun s =>
    let c := s.ctx l
    let k := s.core l
    let e : RingEntry :=
      { seq := k.seq, owner := l, thread := c.thread, phase := .dispatched, op := op, pasid := c.pasid.toNat, part := s.partOf l, sup := c.sup,
        rm := bits c.fm.toNat 10 8, pol := c.pol, cause := 0, addr := 0, flags := 0, rows := [], locks := [], beat := 0, acc := 0,
        buf := [], rid := 0, parks := false, bad := bad }
    .all [
      .core l fun x => { x with ring := x.ring ++ [e], seq := x.seq + 1#16 },
      .ctx l fun x => { x with dseq := k.seq },
      (match op.unit with
        | .vector => .when (!k.vecBusy) (.seq (.core l fun x => { x with vecBusy := true }) (.event 1 (.vectorBeat l.toCore)))
        | .matrix => .event 1 (.matrixEntryAccept l.toPolder)
        | .copy => .event 1 (.transferIssue l.toPolder)
        | .collective => .event 1 (.chunkStart l.toPolder))]

end Sys2Proof.Machine
end

