-- ==== Sys2Proof/Machine/Operands.lean ====
section
/-! DEFINITION. Operand forms: the operands, predicate and targets of each instruction (spec/02 R34, R47), the firing
rules of predicates and nulls (R35, R36), when an instruction whose operands have arrived may fire (R67, R109,
R123, R136, R192, R207), and address forms (spec/05 R104). -/

namespace Sys2Proof.Machine

/-! ## Operand sets -/

/-- The operands of a member of the atomic family (R134). -/
def amoInputs (x : AmoOp) : List Opnd :=
  match x with
  | .decz => [.l]
  | .cas => [.l, .r, .x]
  | .casx => [.l, .r, .x]
  | .cas32 => [.l, .r, .x]
  | _ => [.l, .r]

/-- The operands of an instruction, its predicate aside (R47, the Inputs column). -/
def inputsOf : Instr → List Opnd
  | .read _ _ _ => []
  | .write _ _ => [.l]
  | .const _ _ => []
  | .consth _ _ => [.l]
  | .mov2 _ _ _ => [.l]
  | .null _ _ _ => []
  | .sel _ _ => [.l, .r, .x]
  | .add _ _ _ => [.l, .r]
  | .sub _ _ _ => [.l, .r]
  | .and _ _ _ => [.l, .r]
  | .or _ _ _ => [.l, .r]
  | .xor _ _ _ => [.l, .r]
  | .andn _ _ _ => [.l, .r]
  | .shl _ _ _ => [.l, .r]
  | .shr _ _ _ => [.l, .r]
  | .sra _ _ _ => [.l, .r]
  | .rol _ _ _ => [.l, .r]
  | .ror _ _ _ => [.l, .r]
  | .mul _ _ _ => [.l, .r]
  | .mulh _ _ _ => [.l, .r]
  | .mulhn _ _ _ => [.l, .r]
  | .div _ _ _ => [.l, .r]
  | .divn _ _ _ => [.l, .r]
  | .rem _ _ _ => [.l, .r]
  | .remn _ _ _ => [.l, .r]
  | .min _ _ _ => [.l, .r]
  | .max _ _ _ => [.l, .r]
  | .minn _ _ _ => [.l, .r]
  | .maxn _ _ _ => [.l, .r]
  | .clz _ _ _ => [.l]
  | .ctz _ _ _ => [.l]
  | .popc _ _ _ => [.l]
  | .addsat _ _ _ => [.l, .r]
  | .subsat _ _ _ => [.l, .r]
  | .absd _ _ _ => [.l, .r]
  | .addw _ _ _ => [.l, .r]
  | .subw _ _ _ => [.l, .r]
  | .andw _ _ _ => [.l, .r]
  | .orw _ _ _ => [.l, .r]
  | .xorw _ _ _ => [.l, .r]
  | .andnw _ _ _ => [.l, .r]
  | .shlw _ _ _ => [.l, .r]
  | .shrw _ _ _ => [.l, .r]
  | .sraw _ _ _ => [.l, .r]
  | .rolw _ _ _ => [.l, .r]
  | .rorw _ _ _ => [.l, .r]
  | .mulw _ _ _ => [.l, .r]
  | .divw _ _ _ => [.l, .r]
  | .divnw _ _ _ => [.l, .r]
  | .remw _ _ _ => [.l, .r]
  | .remnw _ _ _ => [.l, .r]
  | .clzw _ _ _ => [.l]
  | .ctzw _ _ _ => [.l]
  | .popcw _ _ _ => [.l]
  | .addi _ _ _ => [.l]
  | .andi _ _ _ => [.l]
  | .ori _ _ _ => [.l]
  | .xori _ _ _ => [.l]
  | .shli _ _ _ => [.l]
  | .shri _ _ _ => [.l]
  | .srai _ _ _ => [.l]
  | .muli _ _ _ => [.l]
  | .cmp _ _ _ _ => [.l, .r]
  | .cmpi _ _ _ _ => [.l]
  | .lea _ _ _ _ => [.l, .r]
  | .ext _ _ _ _ _ => [.l]
  | .ins _ _ => [.l, .r, .x]
  | .br _ _ _ => []
  | .brl _ _ => [.l]
  | .call _ _ _ => []
  | .calll _ _ => [.l]
  | .ret _ _ => [.l]
  | .endExit _ _ => []
  | .susp _ _ _ => []
  | .migr _ _ _ => [.l]
  | .ld8 _ _ _ _ => [.l]
  | .ld16 _ _ _ _ => [.l]
  | .ld32 _ _ _ _ => [.l]
  | .ld64 _ _ _ _ => [.l]
  | .lds8 _ _ _ _ => [.l]
  | .lds16 _ _ _ _ => [.l]
  | .lds32 _ _ _ _ => [.l]
  | .lda _ _ _ _ _ => [.l]
  | .st8 _ _ _ => [.l, .r]
  | .st16 _ _ _ => [.l, .r]
  | .st32 _ _ _ => [.l, .r]
  | .st64 _ _ _ => [.l, .r]
  | .stl _ _ _ _ => [.l, .r]
  | .fence _ _ _ _ _ => []
  | .pref _ _ _ => [.l]
  | .amoar _ x _ _ => amoInputs x
  | .gadv _ _ _ _ => [.l, .r]
  | .watchTask _ _ => [.l, .r, .x]
  | .watchFut _ _ => [.l, .r, .x]
  | .watchCancel _ => [.l]
  | .pull => [.l, .r, .x]
  | .listen _ _ _ => [.l, .r]
  | .unlisten _ => [.l]
  | .amo _ x _ _ => amoInputs x
  | .amoaq _ x _ _ => amoInputs x
  | .amorl _ x _ _ => amoInputs x
  | .faddD _ _ _ => [.l, .r]
  | .fsubD _ _ _ => [.l, .r]
  | .fmulD _ _ _ => [.l, .r]
  | .fdivD _ _ _ => [.l, .r]
  | .fsqrtD _ _ _ => [.l]
  | .fminD _ _ _ => [.l, .r]
  | .fmaxD _ _ _ => [.l, .r]
  | .fnegD _ _ _ => [.l]
  | .fabsD _ _ _ => [.l]
  | .feqD _ _ _ => [.l, .r]
  | .fltD _ _ _ => [.l, .r]
  | .fleD _ _ _ => [.l, .r]
  | .fclassD _ _ _ => [.l]
  | .fsgnjD _ _ _ => [.l, .r]
  | .faddS _ _ _ => [.l, .r]
  | .fsubS _ _ _ => [.l, .r]
  | .fmulS _ _ _ => [.l, .r]
  | .fdivS _ _ _ => [.l, .r]
  | .fsqrtS _ _ _ => [.l]
  | .fminS _ _ _ => [.l, .r]
  | .fmaxS _ _ _ => [.l, .r]
  | .fnegS _ _ _ => [.l]
  | .fabsS _ _ _ => [.l]
  | .feqS _ _ _ => [.l, .r]
  | .fltS _ _ _ => [.l, .r]
  | .fleS _ _ _ => [.l, .r]
  | .fclassS _ _ _ => [.l]
  | .fsgnjS _ _ _ => [.l, .r]
  | .fmaD _ _ => [.l, .r, .x]
  | .fmaS _ _ => [.l, .r, .x]
  | .fcvt _ _ _ _ => [.l]
  | .sfnExp2 _ _ _ => [.l]
  | .sfnLog2 _ _ _ => [.l]
  | .sfnRcp _ _ _ => [.l]
  | .sfnRsq _ _ _ => [.l]
  | .sfnSin _ _ _ => [.l]
  | .sfnCos _ _ _ => [.l]
  | .sfnTanh _ _ _ => [.l]
  | .sfnSigm _ _ _ => [.l]
  | .vadd => [.l, .r, .x]
  | .vsub => [.l, .r, .x]
  | .vmul => [.l, .r, .x]
  | .vdiv => [.l, .r, .x]
  | .vmin => [.l, .r, .x]
  | .vmax => [.l, .r, .x]
  | .vand => [.l, .r, .x]
  | .vor => [.l, .r, .x]
  | .vxor => [.l, .r, .x]
  | .vshl => [.l, .r, .x]
  | .vshr => [.l, .r, .x]
  | .vfma => [.l, .r, .x]
  | .vneg _ => [.l, .r]
  | .vabs _ => [.l, .r]
  | .vcpy _ => [.l, .r]
  | .vexp2 _ => [.l, .r]
  | .vlog2 _ => [.l, .r]
  | .vrcp _ => [.l, .r]
  | .vrsq _ => [.l, .r]
  | .vtanh _ => [.l, .r]
  | .vsigm _ => [.l, .r]
  | .vsin _ => [.l, .r]
  | .vcos _ => [.l, .r]
  | .vredSum _ => [.l, .r]
  | .vredMax _ => [.l, .r]
  | .vredMin _ => [.l, .r]
  | .vredAmax _ => [.l, .r]
  | .vscanInc _ => [.l, .r]
  | .vscanExc _ => [.l, .r]
  | .vgath => [.l, .r, .x]
  | .vscat => [.l, .r, .x]
  | .vmsk => [.l, .r, .x]
  | .vbcast _ => [.l, .r]
  | .vpopaNone => [.l, .r, .x]
  | .vpopaRelu => [.l, .r, .x]
  | .vpopaClamp => [.l, .r, .x]
  | .vcmp _ => [.l, .r, .x]
  | .vsel => [.l, .r, .x]
  | .vpermRev _ => [.l, .r]
  | .vpermIntl _ => [.l, .r]
  | .vpermDintl _ => [.l, .r]
  | .vpermRot => [.l, .r, .x]
  | .vqnt _ => [.l, .r]
  | .venc _ => [.l, .r, .x]
  | .vdec _ => [.l, .r]
  | .mmaDd => [.l, .r, .x]
  | .mmaSs => [.l, .r, .x]
  | .mmaBb => [.l, .r, .x]
  | .mmaHh => [.l, .r, .x]
  | .mmaEe => [.l, .r, .x]
  | .mmaEv => [.l, .r, .x]
  | .mmaVv => [.l, .r, .x]
  | .mmaBk => [.l, .r, .x]
  | .mmaEk => [.l, .r, .x]
  | .mmaQq => [.l, .r, .x]
  | .mmaXx => [.l, .r, .x]
  | .mmaYy => [.l, .r, .x]
  | .mmaIi => [.l, .r, .x]
  | .mmaNn => [.l, .r, .x]
  | .mrot _ => [.l, .r, .x]
  | .maccZero _ => [.l]
  | .maccReclaim _ => [.l]
  | .maccPark _ => [.l]
  | .maccQuery _ _ _ => [.l]
  | .maccLoada _ => [.l, .r]
  | .maccStorea _ => [.l, .r]
  | .fork _ _ _ => [.l]
  | .join _ _ _ => [.l, .r]
  | .send _ => [.l, .r]
  | .sendb => [.l, .r, .x]
  | .futr _ _ _ => [.l, .r]
  | .futw _ => [.l, .r]
  | .launch _ _ _ => [.l]
  | .compose _ _ _ => [.l]
  | .release _ => []
  | .cwr _ _ _ => []
  | .cww _ _ => [.l]
  | .switch _ => [.l]
  | .sysc _ _ _ => []
  | .eret _ _ => []
  | .reloc => [.l, .r, .x]
  | _ => []

/-- The predicate of an instruction; those that have none are unpredicated. -/
def predIs : Instr → Pred
  | .write p _ => p
  | .mov2 p _ _ => p
  | .null p _ _ => p
  | .add p _ _ => p
  | .sub p _ _ => p
  | .and p _ _ => p
  | .or p _ _ => p
  | .xor p _ _ => p
  | .andn p _ _ => p
  | .shl p _ _ => p
  | .shr p _ _ => p
  | .sra p _ _ => p
  | .rol p _ _ => p
  | .ror p _ _ => p
  | .mul p _ _ => p
  | .mulh p _ _ => p
  | .mulhn p _ _ => p
  | .div p _ _ => p
  | .divn p _ _ => p
  | .rem p _ _ => p
  | .remn p _ _ => p
  | .min p _ _ => p
  | .max p _ _ => p
  | .minn p _ _ => p
  | .maxn p _ _ => p
  | .clz p _ _ => p
  | .ctz p _ _ => p
  | .popc p _ _ => p
  | .addsat p _ _ => p
  | .subsat p _ _ => p
  | .absd p _ _ => p
  | .addw p _ _ => p
  | .subw p _ _ => p
  | .andw p _ _ => p
  | .orw p _ _ => p
  | .xorw p _ _ => p
  | .andnw p _ _ => p
  | .shlw p _ _ => p
  | .shrw p _ _ => p
  | .sraw p _ _ => p
  | .rolw p _ _ => p
  | .rorw p _ _ => p
  | .mulw p _ _ => p
  | .divw p _ _ => p
  | .divnw p _ _ => p
  | .remw p _ _ => p
  | .remnw p _ _ => p
  | .clzw p _ _ => p
  | .ctzw p _ _ => p
  | .popcw p _ _ => p
  | .addi p _ _ => p
  | .andi p _ _ => p
  | .ori p _ _ => p
  | .xori p _ _ => p
  | .shli p _ _ => p
  | .shri p _ _ => p
  | .srai p _ _ => p
  | .muli p _ _ => p
  | .cmp p _ _ _ => p
  | .cmpi p _ _ _ => p
  | .lea p _ _ _ => p
  | .ext p _ _ _ _ => p
  | .br p _ _ => p
  | .brl p _ => p
  | .call p _ _ => p
  | .calll p _ => p
  | .ret p _ => p
  | .endExit p _ => p
  | .susp p _ _ => p
  | .migr p _ _ => p
  | .ld8 p _ _ _ => p
  | .ld16 p _ _ _ => p
  | .ld32 p _ _ _ => p
  | .ld64 p _ _ _ => p
  | .lds8 p _ _ _ => p
  | .lds16 p _ _ _ => p
  | .lds32 p _ _ _ => p
  | .lda p _ _ _ _ => p
  | .st8 p _ _ => p
  | .st16 p _ _ => p
  | .st32 p _ _ => p
  | .st64 p _ _ => p
  | .stl p _ _ _ => p
  | .fence p _ _ _ _ => p
  | .pref p _ _ => p
  | .amoar p _ _ _ => p
  | .gadv p _ _ _ => p
  | .watchCancel p => p
  | .listen p _ _ => p
  | .unlisten p => p
  | .amo p _ _ _ => p
  | .amoaq p _ _ _ => p
  | .amorl p _ _ _ => p
  | .faddD p _ _ => p
  | .fsubD p _ _ => p
  | .fmulD p _ _ => p
  | .fdivD p _ _ => p
  | .fsqrtD p _ _ => p
  | .fminD p _ _ => p
  | .fmaxD p _ _ => p
  | .fnegD p _ _ => p
  | .fabsD p _ _ => p
  | .feqD p _ _ => p
  | .fltD p _ _ => p
  | .fleD p _ _ => p
  | .fclassD p _ _ => p
  | .fsgnjD p _ _ => p
  | .faddS p _ _ => p
  | .fsubS p _ _ => p
  | .fmulS p _ _ => p
  | .fdivS p _ _ => p
  | .fsqrtS p _ _ => p
  | .fminS p _ _ => p
  | .fmaxS p _ _ => p
  | .fnegS p _ _ => p
  | .fabsS p _ _ => p
  | .feqS p _ _ => p
  | .fltS p _ _ => p
  | .fleS p _ _ => p
  | .fclassS p _ _ => p
  | .fsgnjS p _ _ => p
  | .fcvt p _ _ _ => p
  | .sfnExp2 p _ _ => p
  | .sfnLog2 p _ _ => p
  | .sfnRcp p _ _ => p
  | .sfnRsq p _ _ => p
  | .sfnSin p _ _ => p
  | .sfnCos p _ _ => p
  | .sfnTanh p _ _ => p
  | .sfnSigm p _ _ => p
  | .vneg p => p
  | .vabs p => p
  | .vcpy p => p
  | .vexp2 p => p
  | .vlog2 p => p
  | .vrcp p => p
  | .vrsq p => p
  | .vtanh p => p
  | .vsigm p => p
  | .vsin p => p
  | .vcos p => p
  | .vredSum p => p
  | .vredMax p => p
  | .vredMin p => p
  | .vredAmax p => p
  | .vscanInc p => p
  | .vscanExc p => p
  | .vbcast p => p
  | .vpermRev p => p
  | .vpermIntl p => p
  | .vpermDintl p => p
  | .vqnt p => p
  | .vdec p => p
  | .maccZero p => p
  | .maccReclaim p => p
  | .maccPark p => p
  | .maccQuery p _ _ => p
  | .maccLoada p => p
  | .maccStorea p => p
  | .fork p _ _ => p
  | .join p _ _ => p
  | .send p => p
  | .futr p _ _ => p
  | .futw p => p
  | .launch p _ _ => p
  | .compose p _ _ => p
  | .release p => p
  | .cwr p _ _ => p
  | .cww p _ => p
  | .switch p => p
  | .sysc p _ _ => p
  | .eret p _ => p
  | _ => .always

/-- The targets of an instruction. -/
def targetsOf : Instr → List Target
  | .read _ t1 t0 => [t0, t1]
  | .const _ t0 => [t0]
  | .consth _ t0 => [t0]
  | .mov2 _ t1 t0 => [t0, t1]
  | .null _ t1 t0 => [t0, t1]
  | .sel t1 t0 => [t0, t1]
  | .add _ t1 t0 => [t0, t1]
  | .sub _ t1 t0 => [t0, t1]
  | .and _ t1 t0 => [t0, t1]
  | .or _ t1 t0 => [t0, t1]
  | .xor _ t1 t0 => [t0, t1]
  | .andn _ t1 t0 => [t0, t1]
  | .shl _ t1 t0 => [t0, t1]
  | .shr _ t1 t0 => [t0, t1]
  | .sra _ t1 t0 => [t0, t1]
  | .rol _ t1 t0 => [t0, t1]
  | .ror _ t1 t0 => [t0, t1]
  | .mul _ t1 t0 => [t0, t1]
  | .mulh _ t1 t0 => [t0, t1]
  | .mulhn _ t1 t0 => [t0, t1]
  | .div _ t1 t0 => [t0, t1]
  | .divn _ t1 t0 => [t0, t1]
  | .rem _ t1 t0 => [t0, t1]
  | .remn _ t1 t0 => [t0, t1]
  | .min _ t1 t0 => [t0, t1]
  | .max _ t1 t0 => [t0, t1]
  | .minn _ t1 t0 => [t0, t1]
  | .maxn _ t1 t0 => [t0, t1]
  | .clz _ t1 t0 => [t0, t1]
  | .ctz _ t1 t0 => [t0, t1]
  | .popc _ t1 t0 => [t0, t1]
  | .addsat _ t1 t0 => [t0, t1]
  | .subsat _ t1 t0 => [t0, t1]
  | .absd _ t1 t0 => [t0, t1]
  | .addw _ t1 t0 => [t0, t1]
  | .subw _ t1 t0 => [t0, t1]
  | .andw _ t1 t0 => [t0, t1]
  | .orw _ t1 t0 => [t0, t1]
  | .xorw _ t1 t0 => [t0, t1]
  | .andnw _ t1 t0 => [t0, t1]
  | .shlw _ t1 t0 => [t0, t1]
  | .shrw _ t1 t0 => [t0, t1]
  | .sraw _ t1 t0 => [t0, t1]
  | .rolw _ t1 t0 => [t0, t1]
  | .rorw _ t1 t0 => [t0, t1]
  | .mulw _ t1 t0 => [t0, t1]
  | .divw _ t1 t0 => [t0, t1]
  | .divnw _ t1 t0 => [t0, t1]
  | .remw _ t1 t0 => [t0, t1]
  | .remnw _ t1 t0 => [t0, t1]
  | .clzw _ t1 t0 => [t0, t1]
  | .ctzw _ t1 t0 => [t0, t1]
  | .popcw _ t1 t0 => [t0, t1]
  | .addi _ _ t0 => [t0]
  | .andi _ _ t0 => [t0]
  | .ori _ _ t0 => [t0]
  | .xori _ _ t0 => [t0]
  | .shli _ _ t0 => [t0]
  | .shri _ _ t0 => [t0]
  | .srai _ _ t0 => [t0]
  | .muli _ _ t0 => [t0]
  | .cmp _ _ t1 t0 => [t0, t1]
  | .cmpi _ _ _ t0 => [t0]
  | .lea _ _ t1 t0 => [t0, t1]
  | .ext _ _ _ _ t0 => [t0]
  | .ins t1 t0 => [t0, t1]
  | .ld8 _ _ _ t0 => [t0]
  | .ld16 _ _ _ t0 => [t0]
  | .ld32 _ _ _ t0 => [t0]
  | .ld64 _ _ _ t0 => [t0]
  | .lds8 _ _ _ t0 => [t0]
  | .lds16 _ _ _ t0 => [t0]
  | .lds32 _ _ _ t0 => [t0]
  | .lda _ _ _ _ t0 => [t0]
  | .fence _ _ _ _ t0 => [t0]
  | .amoar _ _ t1 t0 => [t0, t1]
  | .watchTask t1 t0 => [t0, t1]
  | .watchFut t1 t0 => [t0, t1]
  | .listen _ t1 t0 => [t0, t1]
  | .amo _ _ t1 t0 => [t0, t1]
  | .amoaq _ _ t1 t0 => [t0, t1]
  | .amorl _ _ t1 t0 => [t0, t1]
  | .faddD _ t1 t0 => [t0, t1]
  | .fsubD _ t1 t0 => [t0, t1]
  | .fmulD _ t1 t0 => [t0, t1]
  | .fdivD _ t1 t0 => [t0, t1]
  | .fsqrtD _ t1 t0 => [t0, t1]
  | .fminD _ t1 t0 => [t0, t1]
  | .fmaxD _ t1 t0 => [t0, t1]
  | .fnegD _ t1 t0 => [t0, t1]
  | .fabsD _ t1 t0 => [t0, t1]
  | .feqD _ t1 t0 => [t0, t1]
  | .fltD _ t1 t0 => [t0, t1]
  | .fleD _ t1 t0 => [t0, t1]
  | .fclassD _ t1 t0 => [t0, t1]
  | .fsgnjD _ t1 t0 => [t0, t1]
  | .faddS _ t1 t0 => [t0, t1]
  | .fsubS _ t1 t0 => [t0, t1]
  | .fmulS _ t1 t0 => [t0, t1]
  | .fdivS _ t1 t0 => [t0, t1]
  | .fsqrtS _ t1 t0 => [t0, t1]
  | .fminS _ t1 t0 => [t0, t1]
  | .fmaxS _ t1 t0 => [t0, t1]
  | .fnegS _ t1 t0 => [t0, t1]
  | .fabsS _ t1 t0 => [t0, t1]
  | .feqS _ t1 t0 => [t0, t1]
  | .fltS _ t1 t0 => [t0, t1]
  | .fleS _ t1 t0 => [t0, t1]
  | .fclassS _ t1 t0 => [t0, t1]
  | .fsgnjS _ t1 t0 => [t0, t1]
  | .fmaD t1 t0 => [t0, t1]
  | .fmaS t1 t0 => [t0, t1]
  | .fcvt _ _ t1 t0 => [t0, t1]
  | .sfnExp2 _ t1 t0 => [t0, t1]
  | .sfnLog2 _ t1 t0 => [t0, t1]
  | .sfnRcp _ t1 t0 => [t0, t1]
  | .sfnRsq _ t1 t0 => [t0, t1]
  | .sfnSin _ t1 t0 => [t0, t1]
  | .sfnCos _ t1 t0 => [t0, t1]
  | .sfnTanh _ t1 t0 => [t0, t1]
  | .sfnSigm _ t1 t0 => [t0, t1]
  | .maccQuery _ t1 t0 => [t0, t1]
  | .fork _ t1 t0 => [t0, t1]
  | .join _ t1 t0 => [t0, t1]
  | .futr _ t1 t0 => [t0, t1]
  | .launch _ t1 t0 => [t0, t1]
  | .compose _ t1 t0 => [t0, t1]
  | .cwr _ _ t0 => [t0]
  | _ => []

/-- The operands that must arrive before an instruction fires: its own, and `.x` when it is predicated (R34, R35). -/
def operandsOf (i : Instr) : List Opnd :=
  if predIs i = .always then inputsOf i else inputsOf i ++ [.x]

/-- The LSID of a load, `LDA`, `PREF` or `FENCE` (R33, R111). -/
def loadLsid : Instr → Option Nat
  | .ld8 _ l _ _ => some l.toNat
  | .ld16 _ l _ _ => some l.toNat
  | .ld32 _ l _ _ => some l.toNat
  | .ld64 _ l _ _ => some l.toNat
  | .lds8 _ l _ _ => some l.toNat
  | .lds16 _ l _ _ => some l.toNat
  | .lds32 _ l _ _ => some l.toNat
  | .lda _ l _ _ _ => some l.toNat
  | .pref _ l _ => some l.toNat
  | .fence _ l _ _ _ => some l.toNat
  | _ => none

/-- The LSID of a store or `GADV`. -/
def storeLsid : Instr → Option Nat
  | .st8 _ l _ => some l.toNat
  | .st16 _ l _ => some l.toNat
  | .st32 _ l _ => some l.toNat
  | .st64 _ l _ => some l.toNat
  | .stl _ l _ _ => some l.toNat
  | .gadv _ l _ _ => some l.toNat
  | _ => none

/-- The LSID of an acquire that holds back the loads above it: `LDA`, `FENCE.FULL`, `FENCE.ACQ` (R109). A loop-back
fence holds back the accesses to the core's own memory above it (R118), and in this model all loads above it. -/
def acquireLsid : Instr → Option Nat
  | .lda _ l _ _ _ => some l.toNat
  | .fence _ l _ k _ => if k = .rel then none else some l.toNat
  | _ => none

/-- The exit number of an exit (R96). -/
def exitOf : Instr → Option Nat
  | .br _ e _ => some e.toNat
  | .brl _ e => some e.toNat
  | .call _ e _ => some e.toNat
  | .calll _ e => some e.toNat
  | .ret _ e => some e.toNat
  | .endExit _ e => some e.toNat
  | .susp _ e _ => some e.toNat
  | .migr _ e _ => some e.toNat
  | .sysc _ e _ => some e.toNat
  | .eret _ e => some e.toNat
  | _ => none

/-! ## The block of the current step -/

/-- The number of slots of a fetched block (R29). -/
def Block.slots (b : Block) : Nat := 32 * (bits (b.hw 0) 23 22 + 1)

/-- The length in bytes of a block whose first header word is known (R29). -/
def blockBytes (hw0 : Nat) : Nat := 160 + 128 * bits hw0 23 22

/-- The word of a slot (R29). -/
def Block.word (b : Block) (slot : Nat) : Nat := numAt b.bytes (32 + 4 * slot) 4

/-- The instruction of a slot, if its word is one. -/
def Block.instrAt (b : Block) (slot : Nat) : Option Instr :=
  match decodeWord (b.word slot) with
  | .ok i => some i
  | .error _ => none

/-- The instructions of a block with their slots. -/
def Block.instrs (b : Block) : List (Nat × Instr) :=
  (List.range b.slots).filterMap fun n => (b.instrAt n).map fun i => (n, i)

/-- The block that the step's slot belongs to; nothing else of the state changes if that execution is over. -/
def Act.inBlock (k : State → Block → Act) : Act :=
  .read fun s =>
    match s.blockAt s.focus.l s.focus.epoch with
    | some b => Act.when (b.live s.now) (k s b)
    | none => .skip

/-- The token at an operand of the step's slot; one that has not arrived counts as a null, which no step meets
because a slot is due only when its operands are there. -/
def Block.tok (b : Block) (s : State) (o : Opnd) : Token := (b.operand s.focus.slot o).getD .null

/-- How a predicate falls (R35, R36): taken, off, or itself a null. -/
inductive PredFall where
  | taken | off | nulled
  deriving DecidableEq, Repr, Inhabited

/-- The fall of a predicate on the token at `.x` (R35). -/
def predFall (p : Pred) (x : Token) : PredFall :=
  match p, x with
  | .always, _ => .taken
  | _, .null => .nulled
  | .onTrue, .val v => if v.getLsbD 0 then .taken else .off
  | .onFalse, .val v => if v.getLsbD 0 then .off else .taken

/-- The values of operands, none if any is a null (R36). -/
def tokVals : List Token → Option (List W64)
  | [] => some []
  | .null :: _ => none
  | .val v :: ts => (tokVals ts).map fun vs => v :: vs

/-- The step's slot is predicated off: nothing is sent and no mask bit is satisfied (R35). -/
def Act.predOff : Act :=
  .read fun s => .block s.focus.l fun b => { b with off := s.focus.slot :: b.off }

/-- Send a token from the step's slot to its targets after `lat` cycles (R34, R77). -/
def Act.send (lat : Nat) (tok : Token) (ts : List Target) : Act :=
  .read fun s => .deliver s.focus.l s.focus.epoch s.focus.slot lat tok ts

/-- A fault of the step's slot (R334). An uncorrectable error that it met in the polder's own memory is counted (R331). -/
def Act.fault (cause detail addr : Nat) : Act :=
  .read fun s => .seq (.when (cause == 0x11) (.count s.focus.l 0x358)) (.raise s.focus.l s.focus.epoch s.focus.slot cause detail addr)

/-- The firing rule of R35 and R36: predicated off does nothing, a null on any operand runs `onNull`, and else `k`
runs on the values of the operands in the order given. -/
def Act.firing (p : Pred) (os : List Opnd) (onNull : Act) (k : List W64 → Act) : Act :=
  .inBlock fun s b =>
    match predFall p (b.tok s .x) with
    | .off => .predOff
    | .nulled => onNull
    | .taken =>
      match tokVals (os.map (b.tok s)) with
      | none => onNull
      | some vs => k vs

/-- The value of operand `n` among those of a firing. -/
def arg (vs : List W64) (n : Nat) : W64 := vs.getD n 0#64

/-- Fire on one operand: the result of `f` is sent after `lat` cycles, a null if the operand is one. -/
def Act.unary (p : Pred) (lat : Nat) (ts : List Target) (f : W64 → W64) : Act :=
  .firing p [.l] (.send 0 .null ts) fun vs => .send lat (.val (f (arg vs 0))) ts

/-- Fire on two operands. -/
def Act.binary (p : Pred) (lat : Nat) (ts : List Target) (f : W64 → W64 → W64) : Act :=
  .firing p [.l, .r] (.send 0 .null ts) fun vs => .send lat (.val (f (arg vs 0) (arg vs 1))) ts

/-- Fire on two operands with a latency that the values decide. -/
def Act.binaryTimed (p : Pred) (lat : W64 → W64 → Nat) (ts : List Target) (f : W64 → W64 → W64) : Act :=
  .firing p [.l, .r] (.send 0 .null ts) fun vs =>
    .send (lat (arg vs 0) (arg vs 1)) (.val (f (arg vs 0) (arg vs 1))) ts

/-! ## When a slot whose operands have arrived may fire -/

/-- Every LSID below `n` that `smask` names has been satisfied (R109). -/
def Block.storesBelow (b : Block) (n : Nat) : Bool :=
  (List.range n).all fun k => !bit (b.hw 1) k || b.stores.any fun st => st.lsid == k

/-- The predicate of a slot has arrived and does not match (R109). -/
def Block.knownOff (b : Block) (slot : Nat) (i : Instr) : Bool :=
  decide (predIs i ≠ .always) && (match b.operand slot .x with
    | some x => predFall (predIs i) x == .off
    | none => false)

/-- Every acquire with an LSID below `n` has delivered, or been predicated off (R109). -/
def Block.acquiresBelow (b : Block) (n : Nat) : Bool :=
  b.instrs.all fun x =>
    match acquireLsid x.2 with
    | some k => decide (n ≤ k) || b.done.contains x.1 || b.off.contains x.1 || b.knownOff x.1 x.2
    | none => true

/-- Every load with an LSID below `n` has delivered or been predicated off: what a fence waits for before it delivers
(R118). -/
def Block.loadsBelow (b : Block) (n : Nat) : Bool :=
  b.instrs.all fun x =>
    match loadLsid x.2 with
    | some k => decide (n ≤ k) || b.done.contains x.1 || b.off.contains x.1 || b.knownOff x.1 x.2
    | none => true

/-- The place lies in the core memory of the core itself. -/
def inOwnCore (l : Loc) (p : Place) : Bool := p.space == 2 && decide (p.owner.toPolder = l.toPolder) && decide (p.off / 0x20000 = l.core)

/-- The numbered port of a register number (R65). -/
def portOf (r : Nat) : Option Nat := if 24 ≤ r ∧ r ≤ 27 then some (r - 24) else none

/-- The words of the core's port FIFO that no block of the core has reserved (R67). -/
def State.portFree (s : State) (l : Loc) (k : Nat) : List PortWord :=
  let taken := (List.range 8).flatMap fun c =>
    match (s.ctx { l with ctx := c }).block with
    | some b => (b.pops.filter fun p => p.reg == 24 + k).map fun p => p.tag
    | none => []
  ((s.core l).ports.getD k []).filter fun w => !taken.contains w.tag

/-- The effective address of a load or store: the token and a signed byte offset (R104). -/
def effAddr (l : W64) (imm : BitVec 9) : Nat := (l + imm.signExtend 64).toNat

/-- The effective address of an instruction whose offset counts 8-byte units (R104). -/
def effAddr8 (l : W64) (off : BitVec 6) : Nat := (l + (off.setWidth 64 <<< 3)).toNat

/-- Address and size of a load whose `.l` holds a value (R104, R112, R113). -/
def loadSpan (i : Instr) (l : W64) : Option (Nat × Nat) :=
  match i with
  | .ld8 _ _ o _ => some (effAddr l o, 1)
  | .ld16 _ _ o _ => some (effAddr l o, 2)
  | .ld32 _ _ o _ => some (effAddr l o, 4)
  | .ld64 _ _ o _ => some (effAddr l o, 8)
  | .lds8 _ _ o _ => some (effAddr l o, 1)
  | .lds16 _ _ o _ => some (effAddr l o, 2)
  | .lds32 _ _ o _ => some (effAddr l o, 4)
  | .lda _ _ _ o _ => some (effAddr8 l o, 8)
  | _ => none

/-- A load reaches the core's own memory by the loop-back path (R27, R299). -/
def State.loopsBack (s : State) (l : Loc) (b : Block) (slot : Nat) (i : Instr) : Bool :=
  match b.operand slot .l with
  | some (.val v) => (loadSpan i v).any fun q => decide (2 ^ 40 ≤ q.1)
      && match s.resolve l (s.partOf l) (s.ctx l).pasid.toNat (s.ctx l).sup q.1 false with
        | .ok p => inOwnCore l p
        | .error _ => false
  | _ => false

/-- A fence below a load with LSID `n` orders the load behind a store of its block that stands before the fence, and that is performed only at
commit: the load never fires. `FENCE.FULL` does so for every store and load (R296), `FENCE.LB` for a loop-back load behind a store into the core's
own memory (R118, R299; notes/assumptions 136). -/
def State.fenceBars (s : State) (l : Loc) (b : Block) (slot : Nat) (i : Instr) (n : Nat) : Bool :=
  b.instrs.any fun x => match x.2 with
    | .fence p k _ kind _ => decide (k.toNat < n) && b.done.contains x.1
        && predFall p ((b.operand x.1 .x).getD (.val 0#64)) == .taken
        && b.stores.any fun st => decide (st.lsid < k.toNat) && st.val.isSome
          && (kind == .full || (kind == .lb && (homePlace l st.addr).any (inOwnCore l) && s.loopsBack l b slot i))
    | _ => false

/-- A load of the context's own core memory or accumulators waits for its own unretired entries (R172, R196, R279). -/
def State.entryHolds (s : State) (l : Loc) (b : Block) (slot : Nat) (i : Instr) : Bool :=
  match b.operand slot .l with
  | some (.val v) => (loadSpan i v).any fun q => decide (q.1 < 2 ^ 40) && s.loadWaits l q.1 q.2
  | _ => false

/-- The instruction is a `READ`. -/
def isRead : Instr → Bool
  | .read _ _ _ => true
  | _ => false

/-- A request to the special-function unit. -/
def isSfn : Instr → Bool
  | .sfnExp2 _ _ _ => true
  | .sfnLog2 _ _ _ => true
  | .sfnRcp _ _ _ => true
  | .sfnRsq _ _ _ => true
  | .sfnSin _ _ _ => true
  | .sfnCos _ _ _ => true
  | .sfnTanh _ _ _ => true
  | .sfnSigm _ _ _ => true
  | _ => false

/-- An atomic (R134). -/
def isAtomic : Instr → Bool
  | .amo _ _ _ _ => true
  | .amoaq _ _ _ _ => true
  | .amorl _ _ _ _ => true
  | .amoar _ _ _ _ => true
  | _ => false

/-! ## Predicted blocks (R42, R114) -/

/-- The places of the predicted blocks of a context. -/
def aheadPlaces (l : Loc) : List Loc := [8, 16, 24].map fun k => { l with ctx := l.ctx % 8 + k }

/-- The predicted blocks of a context, in program order. -/
def State.ahead (s : State) (l : Loc) : List (Loc × Block) :=
  sortBy (fun x => x.2.epoch) ((aheadPlaces l).filterMap fun m => (s.ctx m).block.map fun b => (m, b))

/-- Discard a predicted block: its special-function requests are squashed (R42, R164). -/
def Act.dropBlock (m : Loc) : Act :=
  .seq (.core m fun k => { k with sfu := k.sfu.filter fun r => r.l != m }) (.ctx m fun c => { c with block := none })

/-- Discard the predicted blocks of a context (R42). -/
def Act.dropAhead (l : Loc) : Act := .read fun s => Act.each (s.ahead l) fun x => .dropBlock x.1

/-- A workspace word as a block finds it behind older blocks in flight, the newest first: the value that one writes, or the workspace's own; none
while it is not known. -/
def wordBehind (r base : Nat) : List Block → Option Nat
  | [] => some base
  | b :: bs =>
    match b.writes.find? fun w => w.1 == r with
    | some (_, some v) => some v.toNat
    | some (_, none) => wordBehind r base bs
    | none => if bit (b.hw 2) r then none else wordBehind r base bs

/-- Workspace word `r` as a predicted block reads it. -/
def State.aheadWord (s : State) (m : Loc) (b : Block) (r : Nat) : Option Nat :=
  let older := (((s.ctx (realCtx m)).block.toList ++ (s.ahead m).map fun x => x.2).filter fun x => decide (x.epoch < b.epoch)).reverse
  wordBehind r (s.wword m r) older

/-- The instruction fires in a predicted block too: a register of the workspace, a load, a store or `WRITE` that is held, and what only
delivers (R67, R114, R123, R136, R163, R192). -/
def runsAhead (i : Instr) : Bool :=
  match i with
  | .read r _ _ => decide (r.toNat < 16)
  | .write _ _ => true
  | .lda _ _ _ _ _ => false
  | .fence _ _ _ _ _ => false
  | .watchTask _ _ => false
  | .watchFut _ _ => false
  | .listen _ _ _ => false
  | .maccQuery _ _ _ => false
  | .fork _ _ _ => false
  | .join _ _ _ => false
  | .futr _ _ _ => false
  | .launch _ _ _ => false
  | .compose _ _ _ => false
  | .cwr _ _ _ => false
  | _ => !isAtomic i && ((storeLsid i).isSome || !(targetsOf i).isEmpty)

/-- A step of the agenda that belongs to one execution of a block: a token in transit or a slot about to fire. -/
def stirs (l : Loc) (epoch : Nat) : Work → Bool
  | .fire k e _ => k == l && e == epoch
  | .event (.tokenArrival k e _ _ _) => k == l && e == epoch
  | _ => false

/-! ## What an exit leaves time for (R34, R38; notes/assumptions 108) -/

/-- A waiting slot waits for something outside its block: a queue, a unit's queue or an entry's retirement (R41, R67). -/
def State.waitsOutside (s : State) (l : Loc) (b : Block) (slot : Nat) : Bool :=
  match b.instrAt slot with
  | some (.read _ _ _) => true
  | some (.fence _ _ _ _ _) => false
  | some i => isSfn i || (loadLsid i).any fun n => b.storesBelow n && b.acquiresBelow n && !s.fenceBars l b slot i n
  | none => false

/-- An instruction that does something outside its block when it fires or its block commits, and for which neither a mask nor another
instruction need wait: what has no target and is no load, store, `WRITE` or exit, an atomic, and what registers, forks or launches. -/
def actsOutside (i : Instr) : Bool :=
  match i with
  | .watchTask _ _ => true
  | .watchFut _ _ => true
  | .listen _ _ _ => true
  | .fork _ _ _ => true
  | .join _ _ _ => true
  | .futr _ _ _ => true
  | .launch _ _ _ => true
  | .compose _ _ _ => true
  | .write _ _ => false
  | _ => isAtomic i || ((targetsOf i).isEmpty && (loadLsid i).isNone && (storeLsid i).isNone && (exitOf i).isNone)

/-- The slots that the results of a slot go to. -/
def Block.feeds (b : Block) (slot : Nat) : List Nat :=
  ((b.instrAt slot).toList.flatMap targetsOf).filterMap fun t => match t with
    | .none => none
    | .into _ n => some n.toNat

/-- A slot that will do nothing more: it has fired, or its predicate does not match. -/
def Block.spent (b : Block) (slot : Nat) : Bool :=
  b.fired.contains slot || b.off.contains slot || (b.instrAt slot).all (b.knownOff slot)

/-- The slots that what stands in `todo` may still lead to. -/
def Block.reach (b : Block) (seen : List Nat) : Nat → List Nat → List Nat
  | 0, _ => seen
  | _, [] => seen
  | n + 1, x :: xs => if seen.contains x || b.spent x then b.reach seen n xs else b.reach (x :: seen) n (b.feeds x ++ xs)

/-- The slot that a step of the agenda is about: for a slot about to fire, those that its results go to. -/
def Block.stirred (b : Block) (l : Loc) : Work → List Nat
  | .fire k e n => if k = l ∧ e = b.epoch then b.feeds n else []
  | .event (.tokenArrival k e _ n _) => if k = l ∧ e = b.epoch then [n] else []
  | _ => []

/-- The slots that the tokens in transit, the slots about to fire and what is outstanding may still lead to (R41). -/
def State.reached (s : State) (l : Loc) (b : Block) : List Nat :=
  let moving := s.agenda.flatMap fun p => b.stirred l p.work
  let open_ := (b.waiting.map fun n => n.1).filter fun n => s.waitsOutside l b n
  let stirring := !b.out.isEmpty || !open_.isEmpty || s.agenda.any fun p => stirs l b.epoch p.work
  let rest := if stirring then (b.waiting.map fun n => n.1).filter fun n => (b.instrAt n).all fun i => (exitOf i).isNone else []
  b.reach [] 512 (b.out.flatMap b.feeds ++ moving ++ rest)

/-- An instruction that acts outside the block may still fire. -/
def State.acting (s : State) (l : Loc) (b : Block) : Bool :=
  (b.instrs.any fun x => actsOutside x.2 && !b.spent x.1) && (s.reached l b).any fun n => (b.instrAt n).any actsOutside

/-! ## Firing (R34, R67, R109) -/

/-- The condition of an instruction beyond its operands (R67, R109, R114, R118, R163, R172). An exit fires behind what of its block acts outside it
(notes/assumptions 108). -/
def State.mayFire (s : State) (l : Loc) (b : Block) (slot : Nat) (i : Instr) : Bool :=
  if isAhead l && !runsAhead i then false
  else match i with
  | .read r _ _ =>
    if isAhead l then (s.aheadWord l b r.toNat).isSome
    else if r.toNat = 21 then decide ((b.pops.filter fun p => p.reg == 21).length < (s.ctx l).rowQ.length)
    else match portOf r.toNat with
      | some k => !(s.portFree l k).isEmpty
      | none => true
  | _ =>
    match loadLsid i with
    | some n => b.knownOff slot i || (b.storesBelow n && b.acquiresBelow n
        && (match i with
          | .fence _ _ _ _ _ => b.loadsBelow n
          | _ => !s.fenceBars l b slot i n && !s.entryHolds l b slot i))
    | none => if (exitOf i).isSome then !s.acting l b else !isSfn i || decide ((s.core l).sfu.length < 16)

/-- A slot's operands have all arrived. -/
def Block.armed (b : Block) (slot : Nat) (i : Instr) : Bool :=
  (operandsOf i).all fun o => (b.operand slot o).isSome

/-- Let a slot fire now if its condition holds, or let it wait (R34, R67, R109). A `READ` keeps its place among those that wait until it has its
word. -/
def Act.offer (l : Loc) (epoch slot : Nat) : Act :=
  .read fun s =>
    match s.blockAt l epoch with
    | some b =>
      match b.instrAt slot with
      | some i =>
        if b.fired.contains slot || !b.armed slot i then .skip
        else if s.mayFire l b slot i then
          .seq (.block l fun x => { x with fired := slot :: x.fired, waiting := x.waiting.filter fun n => n.1 != slot || isRead i })
            (.fx (.sched 0 (.fire l epoch slot)))
        else .block l fun x => { x with waiting := if x.waiting.any fun n => n.1 == slot then x.waiting else x.waiting ++ [(slot, s.now)] }
      | none => .skip
    | none => .skip

/-- Exits after the other slots. -/
def Block.exitsLast (b : Block) (ns : List Nat) : List Nat :=
  let isExit (n : Nat) : Bool := (b.instrAt n).any fun i => (exitOf i).isSome
  (ns.filter fun n => !isExit n) ++ ns.filter isExit

/-- Offer every waiting slot of a context's block again. -/
def Act.wake (l : Loc) : Act :=
  .read fun s =>
    match (s.ctx l).block with
    | some b => Act.each (b.exitsLast (b.waiting.map fun n => n.1)) fun n => .offer l b.epoch n
    | none => .skip

/-- The waiting slots of a core's contexts and of their predicted blocks, in the order in which they became ready to fire, those of lower contexts first among
equals (R67). -/
def State.waitingSlots (s : State) (c : Loc) : List (Loc × Nat × Nat × Nat) :=
  sortBy (fun x => x.2.2.2) ((List.range 32).flatMap fun k => match (s.ctx { c with ctx := k }).block with
    | some b => b.waiting.map fun n => ({ c with ctx := k }, b.epoch, n.1, n.2)
    | none => [])

/-- Offer the waiting slots of every context of a core again (R67). -/
def Act.wakeCore (c : Loc) : Act := .read fun s => Act.each (s.waitingSlots c) fun x => .offer x.1 x.2.1 x.2.2.1

/-! ## Commit and starvation conditions (R38, R41) -/

/-- The conditions of R38 and R291: one exit has fired, every mask bit is satisfied, and every load and atomic that
fired has its value. -/
def Block.committable (b : Block) : Bool :=
  b.exit.isSome && (List.range 32).all (fun n => !bit (b.hw 2) n || b.writes.any fun w => w.1 == n)
    && b.storesBelow 32 && b.out.all fun n => (b.instrAt n).all isSfn

/-- The block is starved (R41): nothing can fire, nothing is in transit, nothing is outstanding, and it cannot commit. -/
def State.starved (s : State) (l : Loc) (b : Block) : Bool :=
  b.ready && b.fault.isNone && !b.committable && b.out.isEmpty && !(b.waiting.any fun n => s.waitsOutside l b n.1) && !s.agenda.any fun p => stirs l b.epoch p.work

/-- After a step of a block: commit at this cycle if it can (R38), and have a starved block detected (R41): the rule says within 64 cycles, and this
model takes the 64th (notes/assumptions 121). A predicted block does neither (R42). -/
def Act.settle (l : Loc) (epoch : Nat) : Act :=
  .read fun s =>
    match s.blockAt l epoch with
    | some b =>
      if isAhead l then .skip
      else if b.ready && b.fault.isNone && b.committable then .event 0 (.blockCommit l epoch)
      else Act.when (s.starved l b) (.event 64 (.blockStarved l epoch))
    | none => .skip

/-- A step of the current slot that has taken place: the waiting slots are offered again and the block is settled. -/
def Act.settleFocus : Act := .read fun s => .seq (.wake s.focus.l) (.settle s.focus.l s.focus.epoch)

/-- The meaning of a slot: its act, then the block's settling. -/
def slotStep (a : Act) (s : State) : Host.Outcome State Fault Refusal := done (.seq a .settleFocus) s

/-! ## Block addresses (R97) -/

/-- The address of a block `off20` units of 32 bytes away (R97). -/
def exitTarget (a : Nat) (off : BitVec 20) : Nat := (w64 a + (off.signExtend 64 <<< 5)).toNat

/-- The return block address: the block after this one (R97). -/
def Block.next (b : Block) : Nat := b.addr + blockBytes (b.hw 0)

end Sys2Proof.Machine
end

