-- ==== Sys2Proof/Machine/Sets.lean ====
section
/-! DEFINITION. Handler sets of the slice core (spec/18 R362, R363), its events' start, and the line events of a set's windows (R365, R366,
R368). -/

namespace Sys2Proof.Machine

/-! ## Handler sets (R362, R363) -/

/-- The 64-bit word of slice handler memory at a byte offset. -/
def State.sliceWord (s : State) (p : Loc) (off : Nat) : Nat := s.num (keyIn p.toPolder 5 off) 8

/-- Word `i` of set descriptor `set` (R362). -/
def State.setWord (s : State) (p : Loc) (set i : Nat) : Nat := s.sliceWord p (64 * set + 8 * i)

/-- The partition that a set serves. -/
def State.setPart (s : State) (p : Loc) (set : Nat) : Nat := bits (s.setWord p set 0) 59 56
/-- The first byte of a set's region. -/
def State.setBase (s : State) (p : Loc) (set : Nat) : Nat := 0x400 * bits (s.setWord p set 0) 7 0
/-- The length of a set's region in bytes. -/
def State.setLen (s : State) (p : Loc) (set : Nat) : Nat := 0x400 * bits (s.setWord p set 0) 15 8

/-- The `rsv` bits of a descriptor, its windows among them, are zero (R362, R366). -/
def State.setRsvClear (s : State) (p : Loc) (set : Nat) : Bool :=
  let w := s.setWord p set
  bits (w 0) 62 60 + bits (w 0) 55 16 + bits (w 1) 63 30 + bits (w 1) 15 14 + bits (w 2) 63 25 + bits (w 3) 63 20
    + bits (w 4) 53 40 + bits (w 5) 63 40 + bits (w 6) 53 40 + bits (w 7) 63 40 == 0

/-- The ceiling of a descriptor whose word 1 is `w`: at most 8,192 slice cycles, whatever the field holds (R252, notes/assumptions 123). -/
def ceilingOf (w : Nat) : Nat := min (bits w 29 16) 8192

/-- A descriptor passes the conditions of R362, given the lower-numbered valid sets. -/
def State.setGood (s : State) (p : Loc) (lower : List Nat) (set : Nat) : Bool :=
  let w1 := s.setWord p set 1
  bit (s.setWord p set 0) 63 && decide (s.setBase p set + s.setLen p set ≤ 0x20000)
    && decide (1 ≤ bits w1 13 0) && decide (bits w1 13 0 ≤ ceilingOf w1) && s.setRsvClear p set
    && lower.all fun j => s.setPart p j != s.setPart p set
      && !overlap (s.setBase p j) (s.setLen p j) (s.setBase p set) (s.setLen p set)

/-- The valid sets of a polder, in ascending order (R362). -/
def State.goodSets (s : State) (p : Loc) : List Nat :=
  (List.range 4).foldl (fun ok i => if s.setGood p ok i then ok ++ [i] else ok) []

/-- The valid set that serves a partition (R363). -/
def State.setOf (s : State) (p : Loc) (part : Nat) : Option Nat := (s.goodSets p).find? fun i => s.setPart p i == part

/-- A fault record of a set with descriptor words `desc`: to the partition's host queue, and to the context that `sdst` names (R244, R371). -/
def Act.recordFor (p : Loc) (desc : List W64) (cause inner addr : Nat) : Act :=
  .read fun s =>
    let r : FaultRec := ⟨cause, inner, 1, 0, addr, 0, s.sliceTid p, false⟩
    let d := (desc.getD 2 0#64).toNat % 2 ^ 25
    .seq (.hostRec p (bits (desc.getD 0 0#64).toNat 59 56) r) (.when (d != 0) (.post (s.tidLoc p.dev d) r))

/-- The descriptor of a set as it stands. -/
def State.setDesc (s : State) (p : Loc) (set : Nat) : List W64 := (List.range 8).map fun i => w64 (s.setWord p set i)

/-- A fault record of a set by its descriptor as it stands. -/
def Act.setRecord (p : Loc) (set cause inner addr : Nat) : Act := .read fun s => .recordFor p (s.setDesc p set) cause inner addr

/-! ## Events (R364-R366, R368) -/

/-- Let the slice core look for its next event when it runs no handler (R364). -/
def Act.pokeSlice (p : Loc) : Act :=
  .read fun s =>
    let q := s.polder p
    .when (q.handler.isNone && q.chainRun.isNone && !q.handlerDue) (.seq (.polder p fun x => { x with handlerDue := true }) (.event 0 (.handlerStart p.toPolder)))

/-- The home address of a physical line of a polder's HBM or owned second tier (R22, R323). -/
def State.lineHome (s : State) (p : Loc) (line : Nat) : Option Nat :=
  let k := 64 * line
  let o := k % 2 ^ 43
  if k / 2 ^ 46 % 512 = 511 then
    ((List.range 0x20000).find? fun i => s.tierKey p (i * 0x200000) == some (k - o % 0x200000)).map
      fun i => 0x4000000000 + i * 0x200000 + o % 0x200000
  else if k / 2 ^ 43 % 8 = 0 then some (0x100000000 + o)
  else none

/-- A home address lies in HBM or the second tier. -/
def lineRange (a : Nat) : Bool :=
  (decide (0x100000000 ≤ a) && decide (a < 0x180000000)) || (decide (0x4000000000 ≤ a) && decide (a < 0x8000000000))

/-- The line at a home address lies in window `w` of a set (R366). -/
def State.inWindow (s : State) (p : Loc) (set w a : Nat) : Bool :=
  let u := s.setWord p set (4 + 2 * w)
  let v := s.setWord p set (5 + 2 * w)
  bit u 63 && lineRange (bits u 39 0) && lineRange (bits v 39 0) && decide (bits u 39 0 ≤ a) && decide (a ≤ bits v 39 0)

/-- Window `w` of a set raises event `kind` (2 miss, 3 fill, 4 eviction) for the line at a home address; a line in both windows does so through window 0 alone
(R366). -/
def State.windowRaises (s : State) (p : Loc) (set w kind a : Nat) : Bool :=
  s.inWindow p set w a && bit (s.setWord p set (4 + 2 * w)) (60 + kind - 2) && (w == 0 || !s.inWindow p set 0 a)

/-- Raise a line event in every set that has a window for it: through the lower window, into its queue of 16, or dropped and counted
(R366, R368). -/
def Act.lineEvent (p : Loc) (line kind : Nat) : Act :=
  .read fun s =>
    let sets := (s.goodSets p).filter fun i => bit (s.setWord p i 4) 63 || bit (s.setWord p i 6) 63
    if sets.isEmpty then .skip
    else match s.lineHome p line with
      | none => .skip
      | some a => Act.each sets fun set => .read fun s =>
        match [0, 1].find? fun w => s.windowRaises p set w kind a with
        | none => .skip
        | some w =>
          if 16 ≤ ((s.polder p).events.filter fun e => e.set == set && decide (2 ≤ e.kind) && decide (e.kind ≤ 4)).length then .count p 0x368
          else .seq (.polder p fun q => { q with
              eventOrder := q.eventOrder + 1
              events := q.events ++ [⟨set, kind, q.eventOrder, bits (s.setWord p set (4 + 2 * w)) 59 54, true, a % 2 ^ 32, a / 2 ^ 32, w,
                none, 0⟩] })
            (.pokeSlice p)

end Sys2Proof.Machine
end

