-- ==== Sys2Proof/Machine/Memory.lean ====
section
/-! DEFINITION. Loads, stores, gauge advances, fences and prefetches (spec/05 R104-R121), the owner's sluice, the L2
slice, fresh granules and translation walks (spec/15 R317-R330). -/

namespace Sys2Proof.Machine

/-! ## The L2 slice (R12, R72, R321, R329) -/

/-- The eviction class of a line brought in under `pol`: 0 keep, 1 normal, 2 stream (R72). -/
def lineClass (pol a : Nat) : Nat :=
  let x := a / 64
  let h := Nat.xor (bits x 15 0) (Nat.xor (bits x 31 16) (Nat.xor (bits x 47 32) (bits x 63 48)))
  let t2 := if bits pol 15 0 = 0 then 65536 else bits pol 15 0
  if h < bits pol 31 16 then 0 else if h < t2 then 1 else 2

/-- The PASID under which a reader line was filled; none for a line of the polder's own memory. -/
def L2Line.pasid (x : L2Line) : Option Nat := x.reader.map fun r => r.2.2

/-- A line of the slice: its physical line number, or the virtual line number of a reader line and its PASID (R320, R321). -/
def State.l2Find (s : State) (p : Loc) (line : Nat) (pasid : Option Nat) : Option L2Line :=
  (s.polder p).l2.find? fun x => x.key == line && x.pasid == pasid

/-- The line that a fill evicts from a full set: of the stream class first, then normal, then keep, and within a class
the least recently used (R72); of two used last in one cycle, the first of the list, which R72 does not say (notes/assumptions 128). -/
def victimOf : List L2Line → Option L2Line
  | [] => none
  | x :: xs =>
    match victimOf xs with
    | some y => if y.cls < x.cls || (y.cls == x.cls && decide (x.used ≤ y.used)) then some x else some y
    | none => some x

/-- A line of the slice is used again (R72). A `demand` access that hits a line that a `PREF` filled counts it and lifts its mark (R329); a `PREF` and
the slice core do not (R377). -/
def Act.hitLine (p : Loc) (line : Nat) (pasid : Option Nat) (demand : Bool) : Act :=
  .read fun s => .seq (.when (demand && (s.l2Find p line pasid).any fun x => x.pref) (.count p 0x318))
    (.polder p fun q => { q with l2 := q.l2.map fun y =>
      if y.key == line && y.pasid == pasid then { y with used := s.now, pref := y.pref && !demand } else y })

/-- The fill of a line that a demand access has missed is on its way (R365). -/
def State.demandFlying (s : State) (p : Loc) (line : Nat) : Bool :=
  s.agenda.any fun q => match q.work with
    | .event (.l2LineFill o x _ false none _) => o == p.toPolder && x == line
    | _ => false

/-- A line is brought into a slice (R72, R321). One that has come meanwhile stays as it is, but a reader line takes its new tag and bytes: the stale one
leaves. A line that a `PREF` filled and that leaves unused is counted (R329). `raises` says that an agent other than the slice core does it: the fill of a line
that a demand access has missed, and what leaves the slice for it, are line events (R365, R366). -/
def Act.fillLine (p : Loc) (line cls : Nat) (pref : Bool) (reader : Option (Nat × Nat × Nat)) (data : List Byte) (raises : Bool) : Act :=
  .read fun s =>
    let pasid := reader.map fun r => r.2.2
    match s.l2Find p line pasid with
    | some x => .seq (.when (x.pref && reader.isSome) (.count p 0x328)) (.polder p fun q => { q with l2 := q.l2.map fun y =>
        if y.key == line && y.pasid == pasid then { y with used := s.now, pref := if reader.isSome then pref else y.pref, reader := reader, data := data } else y })
    | none =>
      let set := (s.polder p).l2.filter fun x => x.key % 2048 == line % 2048
      let victim := if set.length < 16 then none else victimOf set
      .all [
        .when (victim.any fun v => v.pref) (.count p 0x328),
        .polder p fun q => { q with l2 := (⟨line, cls, s.now, pref, reader, data⟩
            :: q.l2.filter fun y => !(victim.any fun v => v.key == y.key && v.pasid == y.pasid)) },
        .when (raises && reader.isNone && (!pref || s.demandFlying p line)) (.lineEvent p line 3),
        (match victim with
          | some v => .when (raises && v.reader.isNone) (.lineEvent p v.key 4)
          | none => .skip)]

/-- Use a line of the polder's own memory at once for the slice core, which raises no line event and counts in no `PREF` counter (R366, R377). -/
def Act.quietLine (p : Loc) (line cls : Nat) : Act :=
  .read fun s => if (s.l2Find p line none).isSome then .hitLine p line none false else .fillLine p line cls false none [] false

/-- The class of the line that a request brings into the owner's slice (R72); requests of other polders and block
fetches take the normal class. -/
def State.reqClass (s : State) (r : Req) (p : Place) : Nat :=
  if r.who.toPolder ≠ p.owner.toPolder then 1
  else match r.use with
    | .load l _ _ _ => lineClass (s.ctx l).pol.toNat r.addr
    | .atomic _ => lineClass (s.ctx r.who).pol.toNat r.addr
    | .pref pol _ => lineClass pol r.addr
    | .line x _ => ((s.polder r.who).xfers.find? fun t => t.id == x).elim 1 fun t => t.cls
    | _ => 1

/-- The line of a place lies in HBM or the second tier and the slice holds it. -/
def State.l2Hit (s : State) (p : Place) (k : Nat) : Bool := decide (p.space < 2) && (s.l2Find p.owner (k / 64) none).isSome

/-- A `PREF` of a line of the slice is on its way: its walk, its request or its fill (R329). -/
def State.prefFlying (s : State) (p : Loc) (line : Nat) (pasid : Option Nat) : Bool :=
  let asks (r : Req) (own : Option Nat) : Bool := match r.use with
    | .pref _ rd => (rd.map fun x => x.2.2) == pasid && (if pasid.isSome then r.addr / 64 == line else own == some line)
    | _ => false
  (s.agenda.any fun q => match q.work with
    | .event (.l2LineFill o x _ true rd _) => o == p.toPolder && x == line && (rd.map fun x => x.2.2) == pasid
    | .event (.sluiceRequest r q) => r.who.toPolder == p.toPolder && asks r ((s.keyOf q).map fun k => k / 64)
    | _ => false)
  || (s.polder p).walks.any fun w => w.reqs.any fun r => asks r none

/-- A demand access uses a line of the polder's own memory, filling it if it is not there. -/
def Act.demandLine (p : Loc) (line cls : Nat) : Act :=
  .read fun s => if (s.l2Find p line none).isSome then .hitLine p line none true else .fillLine p line cls false none [] true

/-- A store, an atomic or a write of the machine uses a line of the polder's own memory at once: a hit, or a miss and then its fill; a `PREF` of it that
is still on its way is late (R329, R365). -/
def Act.storeLine (p : Loc) (line cls : Nat) : Act :=
  .read fun s => .seq (.when (s.prefFlying p line none) (.count p 0x320))
    (.seq (.when (s.l2Find p line none).isNone (.lineEvent p line 2)) (.demandLine p line cls))

/-- The machine writes `n` bytes at a place for an agent other than the slice core: the lines of HBM and second tier are used, in the normal class (R72,
R365). -/
def Act.passLines (p : Place) (n : Nat) : Act :=
  .read fun s => match s.keyOf p with
    | some k => .when (decide (p.space < 2)) (.each ((List.range ((k + n - 1) / 64 + 1 - k / 64)).map fun i => k / 64 + i) fun x => .storeLine p.owner x 1)
    | none => .skip

/-- Write bytes at a place for an agent other than the slice core. -/
def Act.writeLines (p : Place) (bs : List Byte) : Act := .seq (.writePlace p bs) (.passLines p bs.length)

/-- Write bytes at a home address of the agent at `l`. -/
def Act.writeHome (l : Loc) (a : Nat) (bs : List Byte) : Act :=
  match homePlace l a with
  | some p => .writeLines p bs
  | none => .skip

/-- Write a 64-bit word at a home address. -/
def Act.write64 (l : Loc) (a v : Nat) : Act := .writeHome l a (bytesOf 8 v)

/-! ## Declared objects at a reader (R319-R321) -/

/-- Word `i` of an object entry. -/
def objWord (e : Nat × List W64) (i : Nat) : Nat := (e.2.getD i 0#64).toNat

/-- A virtual address lies in a version of a reader entry under its PASID (R319, R320). -/
def objCovers (e : Nat × List W64) (pasid a : Nat) : Bool :=
  let base := bits (objWord e 0) 56 0
  bit (objWord e 0) 63 && !bit (objWord e 0) 62 && bits (objWord e 2) 63 44 == pasid
    && (List.range (bits (objWord e 0) 61 60 + 1)).any fun v =>
      let b := base + 64 * v * bits (objWord e 2) 43 20
      decide (b ≤ a) && decide (a < b + 64 * (bits (objWord e 2) 19 0 + 1))

/-- The lowest-numbered reader entry that an address matches (R320): its number, `gacq` and PASID. -/
def State.readerOf (s : State) (p : Loc) (pasid a : Nat) : Option (Nat × Nat × Nat) :=
  if a < 2 ^ 40 || bit a 63 then none
  else
    let c := (s.polder p).objects.filter fun e => objCovers e pasid a
    (c.foldl (fun b e => match b with
      | some x => if e.1 < x.1 then some e else some x
      | none => some e) none).map fun (e : Nat × List W64) => (e.1, objWord e 3, pasid)

/-- An acquire of a gauge read value `g`: reader entries of that gauge raise `gacq` (R321). -/
def Act.acquireGauge (p : Loc) (pasid a g : Nat) : Act :=
  .polder p fun q => { q with objects := q.objects.map (fun e =>
    if bit (objWord e 0) 63 && !bit (objWord e 0) 62 && bits (objWord e 1) 56 0 == a && bits (objWord e 2) 63 44 == pasid
    then (e.1, e.2.set 3 (w64 (max (objWord e 3) g))) else e) }

/-! ## Fresh granules (R324) -/

/-- Have a request wait for the zeroing of the granule at a place; the first starts it. A `PREF` that starts one is dropped and counted, as is a
run-ahead load (R114, R328). -/
def Act.awaitFresh (r : Req) (p : Place) : Act :=
  .read fun s =>
    let g := granuleOf p
    let ahead := match r.use with
      | .pref _ _ => true
      | .load l _ _ _ => isAhead l
      | .fetch l _ _ => isAhead l
      | _ => false
    let starts := !(s.polder p.owner).zeroing.any fun z => z.1 == g
    .seq (.startZeroing p) (
      if starts && ahead then .answer r (s.way p.owner r.who + 6) 0x14 []
      else .polder p.owner fun q => { q with zeroing := q.zeroing.map fun z =>
        if z.1 = g then (g, z.2.1, z.2.2 ++ [({ r with admitted := true }, p)]) else z })

/-! ## Block fetch data (R43, R49, R464) -/

/-- What hides newer bytes from a context's fetch, the oldest first: beneath stores of others that it has not acquired, beneath its own since its
last full fence, and beneath those that other contexts have not released (R43). -/
def State.hidden (s : State) (l : Loc) : List Host.Cell :=
  let c := s.ctx (realCtx l)
  c.unacquired ++ c.stale ++ s.ctxs.flatMap fun x => if x.1 = realCtx l || isAhead x.1 then [] else x.2.unreleased

/-- Bytes of memory beneath what hides them. -/
def staleBytes (hidden : List Host.Cell) (k : Nat) (bs : List Byte) : List Byte :=
  (List.range bs.length).map fun i => match hidden.find? fun x => x.1 == k + i with
    | some x => x.2
    | none => bs.getD i 0#8

/-- The outcome of reading 32-byte units of a block (R49 orders 2 and 3): a fresh granule to wait for; a cause and the owner whose windows refused,
if they did; or the bytes with the lines of HBM and second tier that they come from, and the address of an uncorrectable error among them. -/
inductive FetchUnit where
  | fresh (p : Place)
  | bad (cause : Nat) (refuser : Option Loc)
  | ok (bs : List Byte) (lines : List (Loc × Nat)) (err : Option Nat)
  deriving DecidableEq, Repr, Inhabited

/-- Read one 32-byte unit of a block (R49 orders 2 and 3): its own translation, space, dike and error checks. -/
def State.fetchUnit (s : State) (r : Req) (a : Nat) : FetchUnit :=
  match s.resolve r.who r.part r.pasid r.sup a false with
  | .error e => .bad e none
  | .ok p =>
    if spaceCause r p ≠ 0 then .bad (spaceCause r p) none
    else if !s.routed r.who p.owner r.part then .bad 6 none
    else if s.isGone r.who p.owner then .bad 9 none
    else if !r.admitted && !s.dikeAdmits r.who r.part p 32 false then .bad 6 (some p.owner)
    else if isAhead r.who && (s.keyOf p).any (fun k => (s.lockHit p.owner k 32 true).isSome) then .bad 8 none
    else if s.isDry r.who p.owner then .bad 9 none
    else if s.unsettled p then .fresh p
    else match s.keyOf p with
      | some k => .ok (staleBytes (s.hidden r.who) k (s.mem.bytes k 32)) (if p.space < 2 then [(p.owner.toPolder, k / 64)] else [])
          (if s.eccHit k 32 then some a else none)
      | none => if p.space = 6 then .ok ((s.placeBytes p 32).getD []) [] (if s.tableHit p 32 then some a else none) else .bad 5 none

/-- The units of a block read from address `a` on: the first cause of order 2 in address order (notes/assumptions 118), else a fresh granule to wait
for, else the bytes. -/
def State.fetchUnits (s : State) (r : Req) : Nat → Nat → FetchUnit
  | 0, _ => .ok [] [] none
  | n + 1, a =>
    match s.fetchUnit r a, s.fetchUnits r n (a + 32) with
    | .bad c o, _ => .bad c o
    | .ok _ _ _, .bad c o => .bad c o
    | .fresh _, .bad c o => .bad c o
    | .fresh p, _ => .fresh p
    | .ok _ _ _, .fresh p => .fresh p
    | .ok b x e, .ok bs xs e' => .ok (b ++ bs) (if xs.head? = x.head? then xs else x ++ xs) (e.orElse fun _ => e')

/-! ## The owner's sluice (R107, R317, R324, R330) -/

/-- The communicator for whose chunk a request reads a line. -/
def State.chunkRead (s : State) (r : Req) : Option Nat :=
  match r.use with
  | .line x _ => ((s.polder r.who).xfers.find? fun t => t.id == x).bind fun t => match t.origin with
    | .chunk cid => some cid
    | _ => none
  | _ => none

/-- A range lock is that of the destination of a command of a communicator (R429). -/
def PolderState.commLock (q : PolderState) (x : RangeLock) (cid : Nat) : Bool :=
  x.unit == 2 && q.comms.any fun c => c.cid == cid && c.cmds.any fun d => d.core == x.core && d.seq == x.seq

/-- A range lock stops the request: one it does not hold itself (R107 check 5); the destination of a collective does not stop the reads
that the same collective makes of it (R429). -/
def State.lockStops (s : State) (r : Req) (p : Place) (k : Nat) : Option Bool :=
  let mine := s.chunkRead r
  ((s.polder p.owner).locks.find? fun x => x.dst && x.meetsKey k r.size && !mine.any ((s.polder p.owner).commLock x)).map fun x => decide (x.owner = r.who)

/-- Use one line of a slice for a request that is served: one that is there at once, an absent one by a fill after `m` cycles (R12, R329, R365). -/
def Act.serveLine (r : Req) (p : Place) (o : Loc) (line m : Nat) : Act :=
  .read fun s =>
    let hit := (s.l2Find o line none).isSome
    let isPref := match r.use with
      | .pref _ _ => true
      | _ => false
    .all [
      .when (!isPref && s.prefFlying o line none) (.count o 0x320),
      .when (!isPref && !hit) (.lineEvent o line 2),
      (if hit then .hitLine o line none (!isPref)
        else .event m (.l2LineFill o.toPolder line (s.reqClass r p) isPref none []))]

/-- The lines that a request uses: that of its key, and of a block fetch every one that it touches (R464). -/
def linesOf (p : Place) (k : Nat) (more : List (Loc × Nat)) : List (Loc × Nat) :=
  if more.isEmpty then (if p.space < 2 then [(p.owner, k / 64)] else []) else more

/-- The slots that the results of those in `todo` lead to, theirs among them. -/
def Block.downstream (b : Block) (seen : List Nat) : Nat → List Nat → List Nat
  | 0, _ => seen
  | _, [] => seen
  | n + 1, x :: xs => if seen.contains x then b.downstream seen n xs else b.downstream (x :: seen) n (b.feeds x ++ xs)

/-- A slot depends on a load that was performed after `g`, or on an atomic (R293). -/
def Block.dependsPast (b : Block) (g : LoadSeen) (slot : Nat) : Bool :=
  let later := (((b.got.dropWhile fun x => x != g).drop 1).map fun x => x.slot) ++ b.fired.filter fun n => (b.instrAt n).any isAtomic
  (b.downstream [] 2048 (later.flatMap b.feeds)).contains slot

/-- The first performed load above LSID `n` that has read some of `n` bytes of a place (R292). -/
def Block.readAbove (b : Block) (lsid place size : Nat) : Option LoadSeen :=
  b.got.find? fun g => decide (lsid < g.lsid) && overlap g.place g.size place size

/-- An atomic of the block has been performed or is on its way: what the block has done can no longer be undone (R334). -/
def Block.fixed (b : Block) : Bool := decide (b.namo ≠ 0) || b.out.any fun n => (b.instrAt n).any isAtomic

/-- Where a load's bytes lie, for loads of its block: a physical key, or an address on the sluice's path (R299). -/
def State.loadPlace (s : State) (l : Loc) (a : Nat) : Nat := if a < 2 ^ 40 then (s.homeKey l a).getD 0 else 2 ^ 70 + a

/-- What a load of a block sees when it is performed in `n` bytes at key `k` (R289): its bytes, the aligned word that they lie in, and whether the block must be
executed again. A load above it in LSID that has read the same bytes earlier must not have read an older write (R292): where they have changed since, this
load takes them as they stood then, unless it depends on something performed since; then the block is executed again, and only where an atomic bars that does
it take the newer bytes (notes/assumptions 153). -/
def State.loadSees (s : State) (b : Block) (slot place n k : Nat) : List Byte × List Byte × Bool :=
  let data := s.mem.bytes k n
  let window := s.mem.bytes (k / 8 * 8) 8
  match b.readAbove (((b.instrAt slot).bind loadLsid).getD 0) place n with
  | none => (data, window, false)
  | some g =>
    let old := sliceBytes g.window (k % 8) n
    if old = data then (data, window, false)
    else if !b.dependsPast g slot then (old, g.window, false)
    else (data, window, !b.fixed)

/-- A load of a block is performed: what it takes goes on to `go`, and what it has read is kept until the block's end (R289, R292). -/
def Act.performLoad (l : Loc) (epoch slot a n k : Nat) (go : List Byte → Act) : Act :=
  .read fun s =>
    match s.blockAt l epoch with
    | none => go (s.mem.bytes k n)
    | some b =>
      let x := s.loadSees b slot (s.loadPlace l a) n k
      .all [
        .when x.2.2 (.seq (.block l fun y => { y with again := true }) (.event 0 (.blockAbandon l epoch))),
        .block l fun y => { y with got := y.got ++ [⟨((b.instrAt slot).bind loadLsid).getD 0, slot, s.loadPlace l a, n, x.2.1⟩] },
        go x.1]

/-- Serve a request that has passed every check, after the sluice's 10 cycles and the memory's time: fill the slice,
and answer with the bytes as they stand now (R12, R107, R330). -/
def Act.serve (r : Req) (p : Place) (k : Nat) (data : List Byte) (more : List (Loc × Nat)) : Act :=
  .read fun s =>
    let m := 10 + memTerm p.space (s.l2Hit p k)
    let back := s.way p.owner r.who + 6
    let lines := linesOf p k more
    .seq (.each ((List.range lines.length).zip lines) fun x => .serveLine r p x.2.1 x.2.2 (10 + memTerm p.space false + x.1))
      (match r.use with
        | .pref pol (some rd) => .event (m + back) (.l2LineFill r.who.toPolder (r.addr / 64) (lineClass pol r.addr) true (some rd) data)
        | .pref _ none => .skip
        | .load l ep slot none => .performLoad l ep slot r.addr r.size k (.answer r (m + back) 0)
        | _ => .answer r (m + back) 0 data)

/-- The sidecar bytes of the granule rows that a line of core memory meets; they travel with it (R11, R201, R236). -/
def State.rowScales (s : State) (p : Place) (k n : Nat) : List Byte :=
  if p.space = 2 then (List.range ((k + n - 1) / 32 + 1 - k / 32)).map fun i => s.side.get (k / 32 + i) else []

/-- A request that a cause ends at the sluice: answered, and counted where a window refused it (R317); a `PREF` and a run-ahead access never make a dike
refusal (R114, R328). -/
def Act.refuseAt (r : Req) (o : Option Loc) (t cause : Nat) : Act :=
  .seq (match o with
    | some l => .when (match r.use with
        | .pref _ _ => false
        | .load l _ _ _ => !isAhead l
        | .fetch l _ _ => !isAhead l
        | _ => true) (.count l 0x340)
    | none => .skip) (.answer r t cause [])

/-- A block fetch at the owner's sluice: its units are checked one by one (R49, R464). -/
def Act.fetchAtSluice (r : Req) (p : Place) : Act :=
  .read fun s =>
    let back := s.way p.owner r.who + 6
    match s.fetchUnits r (r.size / 32) r.addr with
    | .fresh q => .awaitFresh r q
    | .bad c o => .refuseAt r o ((if c = 9 then 0 else 10) + back) c
    | .ok bs lines none => (match s.keyOf p with
      | some k => .serve r p k bs lines
      | none => .answer r (10 + memTerm p.space false + back) 0 bs)
    | .ok bs _ (some e) => .seq (.count p.owner 0x358) (.answer r (10 + memTerm p.space false + back) 0x11 (if e = r.addr then [] else bs))

/-- A request at the owner's sluice (R107 checks 4 to 7, R317, R324). An owner that has lost its power holds no windows and no locks that could refuse
first. -/
def Act.atSluice (r : Req) (p : Place) : Act :=
  .read fun s =>
    let back := s.way p.owner r.who + 6
    match r.use with
    | .fetch _ _ _ => .fetchAtSluice r p
    | _ =>
      if !s.routed r.who p.owner r.part then .refuseAt r none back 6
      else if s.isGone r.who p.owner then .answer r back 9 []
      else if !r.admitted && !s.dikeAdmits r.who r.part p r.size false then .refuseAt r (some p.owner) (10 + back) 6
      else if p.space = 6 then
        (if s.isDry r.who p.owner then .answer r back 9 []
        else if s.tableHit p r.size then .seq (.count p.owner 0x358) (.answer r (10 + back) 0x11 [])
        else .answer r (10 + memTerm 6 false + back) 0 ((s.placeBytes p r.size).getD []))
      else match s.keyOf p with
        | none => .answer r (10 + back) (if s.isDry r.who p.owner then 9 else if r.addr < 2 ^ 40 then 4 else 5) []
        | some k =>
          match s.lockStops r p k with
          | some true => (match r.use with
            | .pref _ _ => .answer r (10 + back) 8 []
            | _ => .arrive 1 { r with admitted := true } p)
          | some false => .answer r (10 + back) 8 []
          | none =>
            let line := s.mem.bytes (k / 64 * 64) 64
            let torn := s.eccHit (k / 64 * 64) 64
            if s.isDry r.who p.owner then .answer r back 9 []
            else if s.unsettled p then .awaitFresh r p
            else if s.eccHit k r.size then .seq (.count p.owner 0x358) (.answer r (10 + back) 0x11 [])
            else match r.use with
              | .load l ep slot (some _) =>
                if torn then .serve { r with use := .load l ep slot none } p k (s.mem.bytes k r.size) [] else .serve r p k line []
              | .pref _ _ => if torn then .answer r (10 + back) 0x11 [] else .serve r p k line []
              | .line _ _ => .serve r p k (s.mem.bytes k r.size ++ s.rowScales p k r.size) []
              | _ => .serve r p k (s.mem.bytes k r.size) []

/-- `SLUICE_REQUEST` (R317). -/
def execSluiceRequest (s : State) : Host.Outcome State Fault Refusal :=
  match s.cur with
  | .sluiceRequest r p => done (.atSluice r p) s
  | _ => .next s

/-- `L2_LINE_FILL`: a line enters the slice in its class (R72, R321). -/
def execL2LineFill (s : State) : Host.Outcome State Fault Refusal :=
  match s.cur with
  | .l2LineFill p line cls pref rd data => done (.fillLine p line cls pref rd data true) s
  | _ => .next s

/-! ## Walks (R325-R327) -/

/-- `TLB_WALK_COMPLETE`: the translation is kept or the failure answered, every access that joined the walk goes on, and a
waiting miss takes the walker (R326, R327). -/
def execTlbWalkComplete (s : State) : Host.Outcome State Fault Refusal :=
  match s.cur with
  | .tlbWalkComplete p id =>
    match (s.polder p).walks.find? fun w => w.id == id with
    | none => .next s
    | some w =>
      let res := s.walk p w.part w.pasid w.vpage
      let new := s.walkBrings p w.part w.pasid w.vpage
      let next := (s.polder p).walks.find? fun x => !x.started
      done (.all [
        .count p 0x338,
        .countTorn p w.part w.pasid w.vpage,
        .polder p (fun q => { q with tlb := tlbAdd q.tlb new, walks := q.walks.filter fun x => x.id != id }),
        .each w.reqs (fun r => match res with
          | .ok _ => .submit r
          | .error c => .answer r 1 (s.walkCause p w.part w.pasid w.vpage (useIsAmo r.use) c) []),
        (match next with
          | some x => .seq (.polder p fun q => { q with walks := q.walks.map fun y => if y.id = x.id then { y with started := true } else y })
              (.startWalk p x.part x.pasid x.vpage x.id)
          | none => .skip)]) s
  | _ => .next s

/-! ## Loads (R107, R109, R112) -/

/-- The slot gives up its firing and waits on. -/
def Act.holdSlot : Act :=
  .read fun s => .block s.focus.l fun b => { b with
    fired := b.fired.filter fun x => x != s.focus.slot
    waiting := b.waiting ++ [(s.focus.slot, s.now)] }

/-- Home addresses of an agent that no zeroing holds back (R324). -/
def State.homeSettled (s : State) (l : Loc) (as : List Nat) : Bool := as.all fun a => !(homePlace l a).any s.unsettled

/-- The step's slot reads records at home addresses: in a granule that is fresh or being zeroed it waits, and starts the zeroing (R324). -/
def Act.whenSettled (as : List Nat) (go : Act) : Act :=
  .read fun s => if s.homeSettled s.focus.l as then go else .seq (.each (as.filterMap (homePlace s.focus.l)) .startZeroing) .holdSlot

/-- The request of a context. -/
def State.reqOf (s : State) (l : Loc) (a n : Nat) (use : Use) : Req :=
  ⟨l, s.partOf l, (s.ctx l).pasid.toNat, a, n, (s.ctx l).sup, use, false⟩

/-- The step's load, `LDA`, `PREF` or fence has delivered. -/
def Act.loadDone : Act := .read fun s => .block s.focus.l fun b => { b with done := s.focus.slot :: b.done }

/-- The step's slot waits for an answer. -/
def Act.pend : Act := .read fun s => .block s.focus.l fun b => { b with out := s.focus.slot :: b.out }

/-- The answer of a direct-path load `t` cycles from now. -/
def Act.direct (t cause a : Nat) (data : List Byte) : Act :=
  .read fun s => .seq .pend (.event t (.loadReply s.focus.l s.focus.epoch s.focus.slot none ⟨cause, a, data⟩))

/-- Load misses that a core has outstanding (R10). -/
def State.missesOf (s : State) (c : Loc) : Nat :=
  ((List.range 32).map fun k => match (s.ctx { c with ctx := k }).block with
    | some b => b.missed.length
    | none => 0).sum

/-- Load misses that a core may have outstanding (R10). -/
def missLimit : Nat := 48

/-- The step's slot waits for the answer to a load miss. -/
def Act.pendMiss : Act :=
  .read fun s => .block s.focus.l fun b => { b with out := s.focus.slot :: b.out, missed := s.focus.slot :: b.missed }

/-- A load of `n` bytes at an address token fires: checks 1 to 3, then the direct path (R330), a reader line that may
serve (R321), or the sluice. The access is performed when it is served. -/
def Act.loadFire (a n : Nat) : Act :=
  .read fun s =>
    let l := s.focus.l
    let c := s.ctx l
    let rd := s.readerOf l c.pasid.toNat a
    let miss (counted : Act) : Act := if missLimit ≤ s.missesOf l then .holdSlot
      else .all [counted, .pendMiss, .submit (s.reqOf l a n (.load l s.focus.epoch s.focus.slot rd))]
    let go : Act := miss .skip
    if a % n ≠ 0 then .fault 3 0 a
    else if a < 2 ^ 40 then
      match homePlace l a with
      | none => .fault 4 0 a
      | some p =>
        if p.space = 1 && (s.tierKey l p.off).isNone then .fault 4 0 a
        else if p.space < 2 then go
        else if p.space = 5 && !c.sup then .fault 0x0C 0 a
        else match s.keyOf p with
          | none => .fault 4 0 a
          | some k =>
            let t := if p.space = 2 && decide (p.off / 0x20000 = l.core) then 4 else 16
            match s.lockHit l k n true with
            | some r => if r.owner = l then .holdSlot else .direct t 8 a []
            | none =>
              if s.eccHit k n then .seq (.count l 0x358) (.direct t 0x11 a [])
              else .performLoad l s.focus.epoch s.focus.slot a n k (.direct t 0 a)
    else match rd with
      | some (_, g, pid) =>
        (match s.l2Find l (a / 64) (some pid) with
        | some x =>
          if x.reader.any fun r => decide (g ≤ r.2.1) then .seq (.hitLine l x.key (some pid) true) (.direct 48 0 a (sliceBytes x.data (a % 64) n))
          else miss (.count l 0x348)
        | none => miss (.when (s.prefFlying l (a / 64) (some pid)) (.count l 0x320)))
      | none => go

/-- A load delivers or has a null (R36, R107). -/
def fireLoad (p : Pred) (n : Nat) (ea : W64 → Nat) (t0 : Target) (s : State) : Host.Outcome State Fault Refusal :=
  slotStep (.firing p [.l] (.seq .loadDone (.send 0 .null [t0])) fun vs => .loadFire (ea (arg vs 0)) n) s

/-- `LD8` (R112). -/
def execLd8 (p : Pred) (_l : BitVec 5) (i : BitVec 9) (t0 : Target) (s : State) : Host.Outcome State Fault Refusal :=
  fireLoad p 1 (fun v => effAddr v i) t0 s
/-- `LD16` (R112). -/
def execLd16 (p : Pred) (_l : BitVec 5) (i : BitVec 9) (t0 : Target) (s : State) : Host.Outcome State Fault Refusal :=
  fireLoad p 2 (fun v => effAddr v i) t0 s
/-- `LD32` (R112). -/
def execLd32 (p : Pred) (_l : BitVec 5) (i : BitVec 9) (t0 : Target) (s : State) : Host.Outcome State Fault Refusal :=
  fireLoad p 4 (fun v => effAddr v i) t0 s
/-- `LD64` (R112). -/
def execLd64 (p : Pred) (_l : BitVec 5) (i : BitVec 9) (t0 : Target) (s : State) : Host.Outcome State Fault Refusal :=
  fireLoad p 8 (fun v => effAddr v i) t0 s
/-- `LDS8` (R112). -/
def execLds8 (p : Pred) (_l : BitVec 5) (i : BitVec 9) (t0 : Target) (s : State) : Host.Outcome State Fault Refusal :=
  fireLoad p 1 (fun v => effAddr v i) t0 s
/-- `LDS16` (R112). -/
def execLds16 (p : Pred) (_l : BitVec 5) (i : BitVec 9) (t0 : Target) (s : State) : Host.Outcome State Fault Refusal :=
  fireLoad p 2 (fun v => effAddr v i) t0 s
/-- `LDS32` (R112). -/
def execLds32 (p : Pred) (_l : BitVec 5) (i : BitVec 9) (t0 : Target) (s : State) : Host.Outcome State Fault Refusal :=
  fireLoad p 4 (fun v => effAddr v i) t0 s
/-- `LDA` (R113): an acquire at any scope; the loads above it wait until it delivers (R109). -/
def execLda (p : Pred) (_l : BitVec 5) (_sc : Scope) (o : BitVec 6) (t0 : Target) (s : State) : Host.Outcome State Fault Refusal :=
  fireLoad p 8 (fun v => effAddr8 v o) t0 s

/-- Bits of a signed load; none for a zero-extending one (R112). -/
def signBits : Instr → Option Nat
  | .lds8 _ _ _ _ => some 8
  | .lds16 _ _ _ _ => some 16
  | .lds32 _ _ _ _ => some 32
  | _ => none

/-- An instruction is `LDA`. -/
def isLda : Instr → Bool
  | .lda _ _ _ _ _ => true
  | _ => false

/-- The key of a byte of a home store. -/
def State.storeKey (s : State) (l : Loc) (a : Nat) : Nat := (s.homeKey l a).getD 0

/-- The byte at a physical key as a load with LSID `n` finds it: from the highest-numbered pending store below it that
covers the byte, else `old` (R109). -/
def forwardByte (s : State) (l : Loc) (b : Block) (n k : Nat) (old : Byte) : Byte :=
  ((b.stores.filter fun st => st.lsid < n && st.val.isSome).foldl (fun (x : Nat × Byte) st =>
    let k0 := s.storeKey l st.addr
    if decide (k0 ≤ k) && decide (k < k0 + st.size) && decide (x.1 ≤ st.lsid + 1) then
      (st.lsid + 1, BitVec.ofNat 8 ((st.val.getD 0#64).toNat / 2 ^ (8 * (k - k0))))
    else x) (0, old)).2

/-- An acquire of the context: its fetch sees what others have released to it (R43, R294), and what was fetched ahead is fetched again. -/
def Act.acquireCode (l : Loc) : Act := .seq (.ctx l fun c => { c with unacquired := [] }) (.dropAhead l)

/-- The value that a load delivers: its bytes with the pending stores below it, extended (R109, R112). -/
def State.loadValue (s : State) (l : Loc) (b : Block) (i : Instr) (a : Nat) (data : List Byte) : W64 :=
  let n := (loadLsid i).getD 0
  let bs := if a < 2 ^ 40 then
      let k := s.storeKey l a
      (List.range data.length).map fun j => forwardByte s l b n (k + j) (data.getD j 0#8)
    else data
  let v := natOfBytes bs
  match signBits i with
  | some w => BitVec.ofInt 64 (signedOf w v)
  | none => w64 v

/-- `LOAD_REPLY`: the value is delivered, a fault is the block's (R107), and a filled reader line enters the slice with
the tag it was asked for under (R321). -/
def Act.loadReply (l : Loc) (epoch slot : Nat) (rd : Option (Nat × Nat × Nat)) (ans : Answer) : Act :=
  .read fun s =>
    let c := s.ctx l
    .seq (.when (rd.isSome && decide (ans.cause = 0))
        (.fillLine l (ans.addr / 64) (lineClass c.pol.toNat ans.addr) false rd ans.data true))
      (match s.blockAt l epoch with
      | none => .skip
      | some b =>
        .seq (.block l fun x => { x with out := x.out.filter (fun n => n != slot), missed := x.missed.filter fun n => n != slot })
          (if !b.out.contains slot then .skip
          else if ans.cause ≠ 0 then .raise l epoch slot ans.cause 0 ans.addr
          else match b.instrAt slot with
            | none => .skip
            | some i =>
              let size := ((loadSpan i 0#64).getD (0, 8)).2
              let v := s.loadValue l b i ans.addr (if rd.isSome then sliceBytes ans.data (ans.addr % 64) size else ans.data)
              .all [
                .block l (fun x => { x with done := slot :: x.done }),
                .when (isLda i) (.seq (.acquireGauge l c.pasid.toNat ans.addr v.toNat) (.acquireCode l)),
                .deliver l epoch slot 0 (.val v) (targetsOf i),
                .wake l, .when (decide (missLimit ≤ s.missesOf l)) (.wakeCore l), .settle l epoch]))

/-- `LOAD_REPLY` (R107). -/
def execLoadReply (s : State) : Host.Outcome State Fault Refusal :=
  match s.cur with
  | .loadReply l ep slot rd ans => done (.loadReply l ep slot rd ans) s
  | _ => .next s

/-- A release of the context: what its stores since the last one have replaced is seen by other contexts' fetch only until their next acquire
(R43, R294). -/
def Act.releaseCode (l : Loc) : Act :=
  .read fun s =>
    let cells := (s.ctx l).unreleased
    .when (!cells.isEmpty) (.seq
      (.each (s.ctxs.filter fun x => x.1 != l && !isAhead x.1 && x.2.state != 0#3) fun x =>
        .ctx x.1 fun c => { c with unacquired := c.unacquired ++ cells.filter fun y => !c.unacquired.any fun z => z.1 == y.1 })
      (.ctx l fun c => { c with unreleased := [] }))

/-! ## Stores (R108, R115, R116, R120, R466) -/

/-- A store of one LSID fires a second time: a block-format fault (R466). -/
def Act.markStore (st : Nat → PendStore) : Act :=
  .inBlock fun s b =>
    let x := st s.focus.slot
    if b.stores.any fun y => y.lsid == x.lsid then .fault 2 10 0
    else .block s.focus.l fun c => { c with stores := c.stores ++ [x] }

/-- A store fires: a null satisfies its mask bit and ends the checks, else the checks of R108 are made and the store is
pending. -/
def fireStore (p : Pred) (lsid : BitVec 5) (n : Nat) (gauge : Bool) (sc : Option Scope) (ea : W64 → Nat) (s : State) :
    Host.Outcome State Fault Refusal :=
  slotStep (.firing p [.l, .r] (.markStore fun slot => ⟨lsid.toNat, slot, 0, n, none, false, none⟩) fun vs => .read fun s =>
    let a := ea (arg vs 0)
    let c := s.storeCause s.focus.l a n
    if c ≠ 0 then .fault c 0 a
    else .markStore fun slot => ⟨lsid.toNat, slot, a, n, some (arg vs 1), gauge, sc⟩) s

/-- `ST8` (R115). -/
def execSt8 (p : Pred) (l : BitVec 5) (i : BitVec 9) (s : State) : Host.Outcome State Fault Refusal :=
  fireStore p l 1 false none (fun v => effAddr v i) s
/-- `ST16` (R115). -/
def execSt16 (p : Pred) (l : BitVec 5) (i : BitVec 9) (s : State) : Host.Outcome State Fault Refusal :=
  fireStore p l 2 false none (fun v => effAddr v i) s
/-- `ST32` (R115). -/
def execSt32 (p : Pred) (l : BitVec 5) (i : BitVec 9) (s : State) : Host.Outcome State Fault Refusal :=
  fireStore p l 4 false none (fun v => effAddr v i) s
/-- `ST64` (R115). -/
def execSt64 (p : Pred) (l : BitVec 5) (i : BitVec 9) (s : State) : Host.Outcome State Fault Refusal :=
  fireStore p l 8 false none (fun v => effAddr v i) s
/-- `STL` (R116): a release; its block's accesses and all earlier ones are performed before it at commit. -/
def execStl (p : Pred) (l : BitVec 5) (sc : Scope) (o : BitVec 6) (s : State) : Host.Outcome State Fault Refusal :=
  fireStore p l 8 false (some sc) (fun v => effAddr8 v o) s
/-- `GADV` (R120): checked and held as a store; the comparison is made at commit. -/
def execGadv (p : Pred) (l : BitVec 5) (sc : Scope) (o : BitVec 6) (s : State) : Host.Outcome State Fault Refusal :=
  fireStore p l 8 true (some sc) (fun v => effAddr8 v o) s

/-! ## Fences and prefetches (R117-R119) -/

/-- `FENCE` (R118): it fires when the accesses before it that it orders have been performed, and delivers 0; a null
predicate makes it deliver a null and order nothing. -/
def execFence (p : Pred) (l : BitVec 5) (_sc : Scope) (k : FenceKind) (t0 : Target) (s : State) :
    Host.Outcome State Fault Refusal :=
  slotStep (.firing p [] (.seq .loadDone (.send 0 .null [t0])) fun _ => .all [
    .loadDone,
    .when (decide (k = .full)) (.read fun s => .block s.focus.l fun b =>
      { b with fenced := some (max l.toNat (b.fenced.getD 0)) }),
    .when (decide (k = .full ∨ k = .acq)) (.read fun s => .acquireCode s.focus.l),
    .send 0 (.val 0#64) [t0]]) s

/-- `PREF` (R119): a line in HBM, in an owned second-tier page or of a declared object is asked for; nothing faults. -/
def execPref (p : Pred) (_l : BitVec 5) (i : BitVec 9) (s : State) : Host.Outcome State Fault Refusal :=
  slotStep (.firing p [.l] .loadDone fun vs => .seq .loadDone (.read fun s =>
    let l := s.focus.l
    let a := effAddr (arg vs 0) i / 64 * 64
    .seq (.count l 0x308) (.submit (s.reqOf l a 64 (.pref (s.ctx l).pol.toNat (s.readerOf l (s.ctx l).pasid.toNat a)))))) s

end Sys2Proof.Machine
end

