-- ==== Sys2Proof/Machine/Watch.lean ====
section
/-! DEFINITION. Watches, listens and pulls as instructions, and the owner's watch table (spec/05 R121-R133, R467). What a
satisfaction does at the issuing polder stands with tasks. -/

namespace Sys2Proof.Machine

/-! ## Checks (R107, R108, R129) -/

/-- An illegal operand value of the step's slot. -/
def Act.illegal : Act := .fault 1 0 0

/-- Home bytes `a` to `a + n - 1` lie within one of the ranges a pull may write and keep the context's limits (R129). -/
def State.pullRange (s : State) (l : Loc) (a n : Nat) : Nat :=
  let within (lo hi : Nat) : Bool := decide (lo ≤ a) && decide (a + n ≤ hi)
  if within 0 0x20000 || within 0x100000 0x200000 then 0
  else if within 0x100000000 0x180000000 then
    let lim := bits (s.ctx l).home.toNat 23 0
    if lim = 0 ∨ a - 0x100000000 + n ≤ lim * 0x10000 then 0 else 7
  else if within 0x4000000000 0x8000000000 then
    let first := (a - 0x4000000000) / 0x200000
    let last := (a - 0x4000000000 + n - 1) / 0x200000
    if (List.range (last + 1 - first)).all fun i => (s.tierKey l ((first + i) * 0x200000)).isSome then 0 else 7
  else 7

/-- The checks of a pull descriptor and destination in R129's order: 0 when it may proceed. -/
def State.pullCause (s : State) (l : Loc) (dst desc : Nat) : Nat :=
  let cwa := bits desc 63 24
  if bits desc 21 20 = 3 || bit desc 23 then 1
  else if cwa % 8 ≠ 0 then 3
  else if s.pullRange l dst (bits desc 19 0 + 1) ≠ 0 then 7
  else if cwa ≠ 0 then s.pullRange l cwa 8
  else 0

/-- Checks 1 to 3 of R107 and R467 on a gauge address, as far as they are known now: the cause, 0 if none. -/
def State.gaugeCause (s : State) (l : Loc) (a : Nat) : Nat :=
  if a % 8 ≠ 0 then 3
  else match s.resolve l (s.partOf l) (s.ctx l).pasid.toNat (s.ctx l).sup a false with
    | .ok p => if p.space ≤ 2 then 0 else 4
    | .error e => e

/-- A registration of the step's slot. -/
def State.watchOf (s : State) (kind : WatchKind) (gauge thr arg : Nat) (words : List Nat) : WatchReg :=
  let l := s.focus.l
  ⟨l, s.focus.epoch, s.focus.slot, kind, thr, arg, (s.ctx l).pasid.toNat, s.partOf l, gauge, words⟩

/-- Send a registration to the owner of the gauge; a misaligned gauge faults at once, a translation that fails answers
with its cause (R123). -/
def Act.register (w : WatchReg) : Act :=
  if w.gauge % 8 ≠ 0 then .fault 3 0 w.gauge
  else .read fun s => .seq .pend (.submit (s.reqOf s.focus.l w.gauge 8 (.watch w)))

/-! ## WATCH (R122, R123, R126) -/

/-- A one-shot watch fires: the gauge is checked as a load, `.x`, in polder view (R468), as a store by checks 2 to 4
(R123). It carries the steal scope that its task record would enter with (R392). -/
def fireWatch (kind : WatchKind) (size : Nat) (t1 t0 : Target) (s : State) : Host.Outcome State Fault Refusal :=
  slotStep (.firing .always [.l, .r, .x] (.send 0 .null [t0, t1]) fun vs => .read fun s =>
    let l := s.focus.l
    let g := (arg vs 0).toNat
    let x := polderView l (arg vs 2).toNat
    let w := s.watchOf kind g (arg vs 1).toNat x [(s.ctx l).steal.toNat]
    if s.gaugeCause l g ≠ 0 then .register w
    else if s.storeRange l x size ≠ 0 then .fault (s.storeRange l x size) 0 x
    else .register w) s

/-- `WATCH.TASK` (R123). -/
def execWatchTask (t1 t0 : Target) (s : State) : Host.Outcome State Fault Refusal := fireWatch .task 64 t1 t0 s
/-- `WATCH.FUT` (R123). -/
def execWatchFut (t1 t0 : Target) (s : State) : Host.Outcome State Fault Refusal := fireWatch .fut 8 t1 t0 s

/-- The handle that a token carries (R124). One that names no polder has generation 0, and so matches no entry (R126). -/
def State.handleOf (s : State) (d v : Nat) : Handle :=
  ⟨Loc.polderOf (s.devAt d (bits v 39 32)) (polderIndex (bits v 31 30) (bits v 29 26) (bits v 25 23)),
    if bits v 29 26 ≤ 11 then bits v 22 9 else 0, bits v 8 0⟩

/-- The token of a handle (R124). -/
def State.handleWord (s : State) (h : Handle) : Nat :=
  field (s.device h.owner).podpos 8 32 + field h.owner.die 2 30 + field h.owner.px 4 26 + field h.owner.py 3 23
    + field h.gen 14 9 + field h.entry 9 0

/-- `WATCH.CANCEL` (R126). -/
def execWatchCancel (p : Pred) (s : State) : Host.Outcome State Fault Refusal :=
  slotStep (.firing p [.l] .skip fun vs => .read fun s => .block s.focus.l fun b =>
    { b with acts := b.acts ++ [(s.focus.slot, .cancel (s.handleOf s.focus.l.dev (arg vs 0).toNat))] }) s

/-! ## PULL, LISTEN, UNLISTEN (R128-R133) -/

/-- `PULL`: checked when it fires, dispatched at commit (R129). -/
def execPull (s : State) : Host.Outcome State Fault Refusal :=
  slotStep (.firing .always [.l, .r, .x] .skip fun vs => .read fun s =>
    let dst := (arg vs 1).toNat
    let desc := (arg vs 2).toNat
    let c := s.pullCause s.focus.l dst desc
    if c = 1 then .illegal
    else if c ≠ 0 then .fault c 0 (if c = 3 ∨ s.pullRange s.focus.l dst (bits desc 19 0 + 1) = 0 then bits desc 63 24 else dst)
    else .block s.focus.l fun b =>
      { b with acts := b.acts ++ [(s.focus.slot, .ring (.pull (arg vs 0).toNat dst desc))] }) s

/-- The words of a listen record and its faults (R131, R132): `rsv` and `cls`, then `mirror`, then the destination. -/
def State.listenCause (s : State) (l : Loc) (bs : List Byte) : Nat × Nat :=
  let w (i : Nat) : Nat := numAt bs (8 * i) 8
  let desc := w 2
  if bits (w 0) 63 57 ≠ 0 ∨ bits (w 1) 63 40 ≠ 0 ∨ bits desc 63 22 ≠ 0 ∨ bits (w 3) 63 40 ≠ 0 ∨ w 4 + w 5 + w 6 + w 7 ≠ 0
      ∨ bits desc 21 20 = 3 then (1, 0)
  else if w 3 % 8 ≠ 0 then (3, w 3)
  else if s.pullRange l (w 1) (bits desc 19 0 + 1) ≠ 0 then (7, w 1)
  else if s.pullRange l (w 3) 8 ≠ 0 then (7, w 3)
  else (0, 0)

/-- The checks of R107 on a record that an instruction reads at a home address when it fires. -/
def State.recordCause (s : State) (l : Loc) (a size : Nat) : Nat :=
  if a % size ≠ 0 then 3
  else if 2 ^ 40 ≤ a then 4
  else match homePlace l a with
    | none => 4
    | some p =>
      match s.keyOf p with
      | none => 4
      | some k =>
        if p.space = 5 && !(s.ctx l).sup then 0x0C
        else if (s.lockHit l k size true).isSome then 8
        else if s.eccHit k size then 0x11
        else 0

/-- A listen record as read, its destination and mirror in polder view (R468). -/
def State.listenBytes (s : State) (l : Loc) (r : Nat) : List Byte :=
  let bs := s.homeBytes l r 64
  sliceBytes bs 0 8 ++ bytesOf 8 (polderView l (numAt bs 8 8)) ++ sliceBytes bs 16 8 ++ bytesOf 8 (polderView l (numAt bs 24 8))
    ++ sliceBytes bs 32 32

/-- Listen slots of a polder in use (R132). -/
def PolderState.listenRoom (p : PolderState) : Bool := decide (p.listens.length < 16)

/-- `LISTEN` (R132): the record is read and checked now; an entry is needed here and at the owner. -/
def execListen (p : Pred) (t1 t0 : Target) (s : State) : Host.Outcome State Fault Refusal :=
  slotStep (.firing p [.l, .r] (.send 0 .null [t0, t1]) fun vs => .read fun s =>
    let l := s.focus.l
    let g := (arg vs 0).toNat
    let r := polderView l (arg vs 1).toNat
    let bytes := s.listenBytes l r
    .whenSettled [r] <|
    let words := (List.range 4).map fun i => numAt bytes (8 * i) 8
    let w := s.watchOf .listen g 0 r words
    if s.gaugeCause l g ≠ 0 then .register w
    else if s.recordCause l r 64 ≠ 0 then .fault (s.recordCause l r 64) 0 r
    else if (s.listenCause l bytes).1 ≠ 0 then .fault (s.listenCause l bytes).1 0 (s.listenCause l bytes).2
    else if !(s.polder l).listenRoom then .fault 0x13 0 g
    else .register w) s

/-- `UNLISTEN` (R133). -/
def execUnlisten (p : Pred) (s : State) : Host.Outcome State Fault Refusal :=
  slotStep (.firing p [.l] .skip fun vs => .read fun s => .block s.focus.l fun b =>
    { b with acts := b.acts ++ [(s.focus.slot, .unlisten (s.handleOf s.focus.l.dev (arg vs 0).toNat))] }) s

/-! ## The owner's watch table (R123, R126) -/

/-- The lowest free entry of a watch table of 512 (R123). -/
def PolderState.freeWatch (p : PolderState) : Option Nat :=
  (List.range 512).find? fun i => !p.watches.any fun w => w.idx == i

/-- The next generation of an entry: 1 to 16,383, then again from 1 (R124). -/
def PolderState.nextGen (p : PolderState) (i : Nat) : Nat :=
  match p.gens.find? fun g => g.1 == i with
  | some g => if g.2 < 16383 then g.2 + 1 else 1
  | none => 1

/-- A registration at the owner: windows, then the comparison, then an entry (R123). A listen always takes one and keeps the
gauge's value in `thr`, to see at arming whether it was written meanwhile. -/
def Act.registerAt (w : WatchReg) (p : Place) (admitted : Bool) : Act :=
  .read fun s =>
    let o := p.owner.toPolder
    let back := s.way o w.issuer + 6
    let no (c : Nat) : Act := .event (10 + back) (.watchRegistrationReply w ⟨o, 0, 0⟩ c 0)
    let r : Req := ⟨w.issuer, w.part, w.pasid, w.gauge, 8, true, .watch w, admitted⟩
    if !s.routed w.issuer o w.part then no 6
    else if s.isGone w.issuer o then no 9
    else if !admitted && !s.dikeAdmits w.issuer w.part p 8 false then .seq (.count o 0x340) (no 6)
    else if s.isDry w.issuer o then no 9
    else match s.keyOf p with
      | none => no (if w.gauge < 2 ^ 40 then 4 else 5)
      | some k =>
        if s.unsettled p then .awaitFresh r p
        else if s.eccHit k 8 then .seq (.count o 0x358) (no 0x11)
        else
          let g := s.num k 8
          let d := 10 + memTerm p.space (s.l2Hit p k) + back
          .seq (.when (decide (p.space < 2)) (.serveLine r p o (k / 64) (10 + memTerm p.space false))) <|
          if watchMet w g then .event d (.watchRegistrationReply w ⟨o, 0, 0⟩ 0 g)
          else match (s.polder o).freeWatch with
            | none => .event d (.watchRegistrationReply w ⟨o, 0, 0⟩ 0x13 0)
            | some i =>
              let n := (s.polder o).nextGen i
              let w' : WatchReg := if w.kind = .listen then { w with thr := g } else w
              .seq (.polder o fun q => { q with
                  watches := q.watches ++ [⟨i, n, false, w', k, 0⟩]
                  gens := (i, n) :: q.gens.filter fun x => x.1 != i })
                (.event d (.watchRegistrationReply w' ⟨o, n, i⟩ 0 g))

/-- `WATCH_REGISTRATION` (R123). -/
def execWatchRegistration (s : State) : Host.Outcome State Fault Refusal :=
  match s.cur with
  | .watchRegistration w p => done (.registerAt w p false) s
  | _ => .next s

/-- A request that has waited for a zeroing goes on; the owner's windows have admitted it (R318, R324). -/
def Act.afterZeroing (r : Req) (p : Place) : Act :=
  match r.use with
  | .watch w => .registerAt w p true
  | _ => .arrive 0 r p

/-- `FRESH_ZEROING_DONE`: every byte of the granule is zero, its bit is cleared, and whoever waited goes on (R324). -/
def execFreshZeroingDone (s : State) : Host.Outcome State Fault Refusal :=
  match s.cur with
  | .freshZeroingDone p g =>
    let q := (granulePlace p g).1
    done (.all [
      .settleFresh q,
      .polder p fun x => { x with zeroing := x.zeroing.filter fun z => !(z.1 == g) },
      .each (((s.polder p).zeroing.filter fun z => z.1 == g).flatMap fun z => z.2.2) fun r => .afterZeroing r.1 r.2,
      .each (List.range 8) fun c => .wakeCore { p with core := c }]) s
  | _ => .next s

/-- Give a reservation (`unarmed`), a listen (`isListen`) or an entry of any kind back to its owner (R123, R126, R133). -/
def Act.cancelWatch (src : Loc) (h : Handle) (unarmed isListen : Bool) : Act :=
  .read fun s => .when (decide (h.gen ≠ 0)) (.event (8 + s.way src h.owner) (.watchCancelArrival h unarmed isListen))

/-- A polder's engine gives up the slot of a listen; a pull that runs for it completes with its mirror advance (R133). -/
def Act.freeListen (p : Loc) (h : Handle) : Act :=
  .polder p fun q => { q with listens := q.listens.filterMap fun t =>
    if t.handle = h then (if t.running then some { t with removed := true } else none) else some t }

/-- A reply to a registration of a block in flight: the handle goes to the targets and the arming waits for commit; a
refusal faults; if the block is gone the reservation is given back (R123, R132). -/
def Act.registered (w : WatchReg) (h : Handle) (cause value : Nat) : Act :=
  .read fun s =>
    let l := w.issuer
    match s.blockAt l w.epoch with
    | none => .cancelWatch l h true false
    | some b =>
      .seq (.block l fun x => { x with out := x.out.filter fun n => n != w.slot })
        (if b.fault.isSome then .cancelWatch l h true false
        else if cause ≠ 0 then .raise l w.epoch w.slot cause 0 w.gauge
        else
          let noSlot := w.kind == .listen && !(s.polder l).listenRoom
          if noSlot then .seq (.cancelWatch l h true false) (.raise l w.epoch w.slot 0x13 0 w.gauge)
          else
            let op : CommitOp := .watch w h (if h.gen = 0 then some value else none)
            let word (i : Nat) : Nat := w.words.getD i 0
            let slot : ListenSlot :=
              { handle := h, owner := l, thread := (s.ctx l).thread, place := w.arg, src := word 0, dst := word 1, cls := bits (word 2) 21 20,
                len := bits (word 2) 19 0 + 1, mirror := word 3, pasid := w.pasid, part := w.part,
                sup := (s.ctx l).sup, armed := false, running := false, pendingV := 0, nowV := 0, removed := false }
            .all [
              .when (w.kind == .listen) (.polder l fun q => { q with listens := q.listens ++ [slot] }),
              (if w.kind = .launch then .skip else .block l fun x => { x with acts := x.acts ++ [(w.slot, op)] }),
              (if w.kind = .launch then .block l fun x => { x with acts := x.acts.map fun a => (a.1, match a.2 with
                  | .launch r _ => if a.1 = w.slot then .launch r (some h) else a.2
                  | o => o) }
                else .skip),
              .deliver l w.epoch w.slot 0 (.val (w64 (s.handleWord h)))
                ((b.instrAt w.slot).elim [] targetsOf),
              .wake l, .settle l w.epoch])

/-- `WATCH_ARM` at the owner: the entry is armed, and satisfied at once where the gauge already reaches the threshold
(R123); a listen is notified of a value written since its registration (R132). An entry that its owner has lost while it was reserved is answered
dry (R127, R133), and so is one that the owner keeps for an absent partition (notes/assumptions 158). -/
def Act.arm (w : WatchReg) (h : Handle) : Act :=
  .read fun s =>
    let d := s.way h.owner w.issuer
    match (s.polder h.owner).watches.find? fun x => x.idx == h.entry && x.gen == h.gen && !x.armed with
    | none =>
      if w.kind = .listen then .event d (.listenNotification w.issuer.toPolder h 0 true)
      else .event d (.watchSatisfactionArrival ⟨w, h, none⟩)
    | some x =>
      let v := s.num x.key 8
      let set (f : WatchEntry → WatchEntry) : Act := .polder h.owner fun q => { q with
        watches := q.watches.map fun y => if y.idx = h.entry then f y else y }
      if x.reg.kind = .listen then
        if v ≠ x.reg.thr ∧ 0 < v then
          .seq (set fun y => { y with armed := true, last := v }) (.event d (.listenNotification w.issuer.toPolder h v false))
        else set fun y => { y with armed := true }
      else if watchMet x.reg v then
        .seq (.polder h.owner fun q => { q with watches := q.watches.filter fun y => y.idx != h.entry })
          (.event d (.watchSatisfactionArrival ⟨x.reg, h, some v⟩))
      else set fun y => { y with armed := true }

/-- `WATCH_ARM` (R123). -/
def execWatchArm (s : State) : Host.Outcome State Fault Refusal :=
  match s.cur with
  | .watchArm w h => done (.arm w h) s
  | _ => .next s

/-- `WATCH_CANCEL_ARRIVAL`: the matching armed entry, or the reservation that a failed block gives back, is freed without
action; what removes a listen frees no other entry, and frees the listen's slot; anything else is ignored (R123, R126, R133). -/
def execWatchCancelArrival (s : State) : Host.Outcome State Fault Refusal :=
  match s.cur with
  | .watchCancelArrival h unarmed isListen =>
    let named (x : WatchEntry) : Bool := x.idx == h.entry && x.gen == h.gen && x.armed == !unarmed && (!isListen || x.reg.kind == .listen)
    done (.seq
      (.when isListen (.each ((s.polder h.owner).watches.filter named) fun x => .freeListen x.reg.issuer h))
      (.polder h.owner fun q => { q with watches := q.watches.filter fun x => !named x })) s
  | _ => .next s

end Sys2Proof.Machine
end

