-- ==== Sys2Proof/Machine/Atomics.lean ====
section
/-! DEFINITION. Atomics: what each member computes, their firing and replies (spec/05 R134-R137), and the atomic unit of the
owner's slice (spec/18 R372-R376). -/

namespace Sys2Proof.Machine

/-! ## Members (R134, R251) -/

/-- The word of a member is 32 bits wide. -/
def amoNarrow (o : AmoOp) (narrow : Bool) : Bool := narrow || o == .fadd || o == .add32 || o == .cas32

/-- Bytes of the word that an atomic works on. -/
def amoSize (a : AmoPkt) : Nat := if amoNarrow a.op a.narrow then 4 else 8

/-- The new value of a word `m` of `w` bits (R134). -/
def amoNew (o : AmoOp) (w m r x : Nat) : Nat :=
  let q := 2 ^ w
  match o with
  | .add => (m + r) % q
  | .and => Nat.land m r % q
  | .or => Nat.lor m r % q
  | .xor => Nat.xor m r % q
  | .min => if signedOf w m ≤ signedOf w r then m else r % q
  | .max => if signedOf w r ≤ signedOf w m then m else r % q
  | .minn => min m (r % q)
  | .maxn => max m (r % q)
  | .swap => r % q
  | .cas => if m = r % q then x % q else m
  | .casx => if m = r % q then x % q else m
  | .fadd => (Fmt.f32.addRne m (r % 2 ^ 32)).1
  | .faddd => (Fmt.f64.addRne m r).1
  | .decz => (m + q - 1) % q
  | .add32 => (m + r) % 2 ^ 32
  | .cas32 => if m = r % 2 ^ 32 then x % 2 ^ 32 else m

/-! ## Firing (R135, R136) -/

/-- An atomic fires: the target check comes first, then alignment; a core memory of the polder by home form is reached
through its port, everything else by a packet to the owner (R135). A home address outside the ranges takes 0x07 (notes/assumptions 157). -/
def fireAmo (order : AmoOrder) (p : Pred) (o : AmoOp) (t1 t0 : Target) (s : State) : Host.Outcome State Fault Refusal :=
  slotStep (.firing p (amoInputs o) (.send 0 .null [t0, t1]) fun vs => .read fun s =>
    let f := s.focus
    let a := (arg vs 0).toNat
    let pkt : AmoPkt := ⟨.core f.l.core, o, order, false, (arg vs 1).toNat, (arg vs 2).toNat, a, .slot f.l f.epoch f.slot⟩
    let c := s.ctx f.l
    let target : Nat := match s.resolve f.l (s.partOf f.l) c.pasid.toNat c.sup a false with
      | .ok q => if q.space ≤ 2 then 0 else 7
      | .error _ => if a < 2 ^ 40 && (homePlace f.l a).isNone then 7 else 0
    if target ≠ 0 then .fault 7 0 a
    else if a % amoSize pkt ≠ 0 then .fault 3 0 a
    else .seq (.when (order == .release || order == .both) (.releaseCode f.l)) <| match homePlace f.l a with
      | some q => .all [
          .block f.l (fun b => { b with atoms := ((s.homeKey f.l a).getD 0, amoSize pkt) :: b.atoms }),
          .pend,
          (if q.space = 2 then .event 0 (.atomicPacketArrival pkt q) else .submit (s.reqOf f.l a (amoSize pkt) (.atomic pkt)))]
      | none => .seq .pend (.submit (s.reqOf f.l a (amoSize pkt) (.atomic pkt)))) s

/-- `AMO`: relaxed (R137). -/
def execAmo (p : Pred) (x : AmoOp) (t1 t0 : Target) (s : State) : Host.Outcome State Fault Refusal :=
  fireAmo .relaxed p x t1 t0 s
/-- `AMOAQ`: acquire at pod scope (R137). -/
def execAmoaq (p : Pred) (x : AmoOp) (t1 t0 : Target) (s : State) : Host.Outcome State Fault Refusal :=
  fireAmo .acquire p x t1 t0 s
/-- `AMORL`: release at pod scope (R137). -/
def execAmorl (p : Pred) (x : AmoOp) (t1 t0 : Target) (s : State) : Host.Outcome State Fault Refusal :=
  fireAmo .release p x t1 t0 s
/-- `AMOAR`: both (R137). -/
def execAmoar (p : Pred) (x : AmoOp) (t1 t0 : Target) (s : State) : Host.Outcome State Fault Refusal :=
  fireAmo .both p x t1 t0 s

/-! ## Performing an atomic at its owner (R135, R322, R331) -/

/-- A `DECZ` has written zero to the counter at a key: every armed registration of it fires (R250, R365). -/
def Act.counterZero (p : Loc) (k : Nat) : Act :=
  .seq (.polder p fun q => { q with
      eventOrder := q.eventOrder + 1
      counterRegs := q.counterRegs.map fun r => if r.key = k ∧ r.armed then
        { r with armed := false, pending := true, order := if r.pending then r.order else q.eventOrder } else r })
    (.pokeSlice p)

/-- The cause for which an atomic on `n` bytes at a place is refused by its owner: workspaces, range locks, pinned versions
and uncorrectable errors (R135, R322). -/
def State.amoCause (s : State) (p : Place) (k n : Nat) : Nat :=
  if s.workspaceHit p n || (s.lockHit p.owner k n false).isSome || s.pinHit p n then 8
  else if s.eccHit k n then 0x11
  else 0

/-- Perform an atomic at its owner and answer after `back` cycles with the old value, or with the cause (R134, R135). -/
def Act.performAmo (a : AmoPkt) (p : Place) (back : Nat) : Act :=
  .read fun s =>
    match s.keyOf p with
    | none => .event back (.atomicReply a (if a.addr < 2 ^ 40 then 4 else 5) 0)
    | some k =>
      let c := s.amoCause p k (amoSize a)
      if c ≠ 0 then .seq (.when (c == 0x11) (.count p.owner 0x358)) (.event back (.atomicReply a c 0))
      else
        let m := s.num k (amoSize a)
        let v := amoNew a.op (8 * (amoSize a)) m a.r a.x
        let cls := match a.into with
          | .slot l _ _ => if l.toPolder = p.owner.toPolder then lineClass (s.ctx l).pol.toNat a.addr else 1
          | _ => 1
        .all [
          .writePlace p (bytesOf (amoSize a) v),
          .when (decide (p.space < 2)) (match a.src with
            | .slice => .quietLine p.owner (k / 64) cls
            | _ => .demandLine p.owner (k / 64) cls),
          .when (a.op == .decz && v == 0) (.counterZero p.owner k),
          .event back (.atomicReply a 0 m)]

/-! ## The atomic unit (R372-R374) -/

/-- The source that a packet counts as at its owner (R372). -/
def amoSource (a : AmoPkt) (owner : Loc) : AmoSrc :=
  match a.src with
  | .slice => .slice
  | _ =>
    let w := amoWho a owner
    if w.toPolder = owner.toPolder then .core w.core else .polder w.dev w.pidx

/-- Where a packet goes among slots and waiting packets: its source's slot if that has room, a free slot if its source has
none; behind its own source's waiting packets otherwise (R373). -/
def amoJoin (x : AmoPkt × Place) (slots : List AmoSlot) : Option (List AmoSlot) :=
  let src := amoSource x.1 x.2.owner
  match slots.find? fun t => t.src == src with
  | some t => if t.queue.length < 8 then some (slots.map fun u => if u.idx = t.idx then { u with queue := u.queue ++ [x] } else u) else none
  | none => ((List.range 32).find? fun i => !slots.any fun t => t.idx == i).map fun i => slots ++ [⟨i, src, 0, [x]⟩]

/-- Admit waiting packets in order; a packet whose source has an earlier one still waiting stays behind it. -/
def amoAdmit : List (AmoPkt × Place) → List AmoSrc → List AmoSlot → List (AmoPkt × Place) × List AmoSlot
  | [], _, slots => ([], slots)
  | x :: xs, held, slots =>
    let src := amoSource x.1 x.2.owner
    match if held.contains src then none else amoJoin x slots with
    | some slots' => amoAdmit xs held slots'
    | none => let r := amoAdmit xs (src :: held) slots; (x :: r.1, r.2)

/-- A packet enters the unit (R373). -/
def Act.amoEnter (a : AmoPkt) (p : Place) : Act :=
  .read fun s =>
    let q := s.polder p.owner
    let r := amoAdmit (q.amoWait ++ [(a, p)]) [] q.amoSlots
    .all [
      .polder p.owner fun x => { x with amoWait := r.1, amoSlots := r.2, amoBusy := true },
      .when (decide (q.amoWait.length < r.1.length)) (.count p.owner 0x388),
      .when (!q.amoBusy) (.event 1 (.atomicTurn p.owner.toPolder none))]

/-- A packet waits at its owner: for an entry of its own context, or for the zeroing of a granule (R196, R324). -/
def State.amoBlocked (s : State) (a : AmoPkt) (p : Place) : Bool :=
  s.unsettled p || match s.keyOf p, a.into with
    | some k, .slot l _ _ => s.ownLock l k (amoSize a) false
    | _, _ => false

/-- A packet that has passed its checks goes to the port of a core memory of its own polder, or to the unit (R135). -/
def Act.amoPass (a : AmoPkt) (p : Place) : Act :=
  let w := amoWho a p.owner
  if p.space = 2 && a.src != .slice && decide (w.toPolder = p.owner.toPolder) then
    .performAmo a p (if a.addr < 2 ^ 40 then (if p.off / 0x20000 = w.core then 4 else 16) else 24)
  else .amoEnter a p

/-- A packet that must wait is held, and the unit looks at it again in every cycle. -/
def Act.amoHold (a : AmoPkt) (p : Place) : Act :=
  .read fun s => .all [
    .startZeroing p,
    .polder p.owner fun q => { q with amoHeld := q.amoHeld ++ [(a, p)], amoBusy := true },
    .when (!(s.polder p.owner).amoBusy) (.event 1 (.atomicTurn p.owner.toPolder none))]

/-- Packets that were held go on in order; one whose source has an earlier one still held stays behind it (R135, R372). -/
def Act.amoRetry : List (AmoPkt × Place) → List AmoSrc → Act
  | [], _ => .skip
  | x :: xs, held => .read fun s =>
    let src := amoSource x.1 x.2.owner
    if held.contains src || s.amoBlocked x.1 x.2 then Act.amoRetry xs (src :: held)
    else .all [.polder x.2.owner fun q => { q with amoHeld := q.amoHeld.erase x }, .amoPass x.1 x.2, Act.amoRetry xs held]

/-- A packet at its owner: windows of another polder, locks, dryness, what it waits for, and then its place of execution (R107, R135). -/
def Act.amoArrive (a : AmoPkt) (p : Place) : Act :=
  .read fun s =>
    let w := amoWho a p.owner
    let no (c : Nat) : Act := .event (s.way p.owner w + 6) (.atomicReply a c 0)
    let behind := (s.polder p.owner).amoHeld.any fun x => amoSource x.1 x.2.owner == amoSource a p.owner
    if !s.routed w p.owner (s.partOf w) then no 6
    else if s.isGone w p.owner then no 9
    else if !s.dikeAdmits w (s.partOf w) p (amoSize a) true then .seq (.count p.owner 0x340) (no 6)
    else if s.isDry w p.owner then no (if (s.keyOf p).any fun k => (s.lockHit p.owner k (amoSize a) false).isSome then 8 else 9)
    else if behind || s.amoBlocked a p then .amoHold a p
    else .amoPass a p

/-- `ATOMIC_PACKET_ARRIVAL` (R373). -/
def execAtomicPacketArrival (s : State) : Host.Outcome State Fault Refusal :=
  match s.cur with
  | .atomicPacketArrival a p => done (.amoArrive a p) s
  | _ => .next s

/-- The occupied slot that a turn serves: the next after the last served, in round-robin order. -/
def nextSlot (slots : List AmoSlot) (last : Nat) : Option AmoSlot :=
  ((List.range 32).filterMap fun i => slots.find? fun t => t.idx == (last + 1 + i) % 32).head?

/-- A slot after its head has been served: freed when its queue empties, and after 8 services if others wait; then its
packets stand behind every source already waiting (R373). -/
def amoServed (t : AmoSlot) (q : PolderState) : List (AmoPkt × Place) × List AmoSlot :=
  let rest := t.queue.drop 1
  let others := q.amoSlots.filter fun u => u.idx != t.idx
  if rest.isEmpty then (q.amoWait, others)
  else if t.served + 1 ≥ 8 && q.amoWait.any fun x => amoSource x.1 x.2.owner != t.src then
    let own := fun (x : AmoPkt × Place) => amoSource x.1 x.2.owner == t.src
    (q.amoWait.filter (fun x => !own x) ++ rest ++ q.amoWait.filter own, others)
  else (q.amoWait, others ++ [{ t with served := t.served + 1, queue := rest }])

/-- Turns of a unit that have begun and whose write is still due, with its cycle. -/
def State.amoBegun (s : State) (p : Loc) : List (Nat × AmoPkt × Place) :=
  s.agenda.filterMap fun q => match q.work with
    | .event (.atomicTurn o (some x)) => if o = p.toPolder then some (q.due, x.1, x.2.1) else none
    | _ => none

/-- A packet's line has to be filled before it is performed: it is absent, and no check refuses the packet (R373). -/
def State.amoMiss (s : State) (a : AmoPkt) (p : Place) : Bool :=
  decide (p.space < 2) && match s.keyOf p with
    | some k => decide (s.amoCause p k (amoSize a) ≠ 8) && !s.l2Hit p k
    | none => false

/-- The cycle at which the unit performs a packet whose turn begins now: at once, or when its line is there; in any case after every turn on its
line and every turn of its source that has begun (R135, R372, R373). -/
def State.amoDue (s : State) (a : AmoPkt) (p : Place) : Nat :=
  let line (q : Place) : Option Nat := (s.keyOf q).map fun k => k / 64
  ((s.amoBegun p.owner).filter fun x => amoSource x.2.1 x.2.2.owner == amoSource a p.owner || line x.2.2 == line p).foldl
    (fun n x => max n (x.1 + 1)) (s.now + if s.amoMiss a p then memTerm p.space false else 0)

/-- The place of an atomic among the writes of its cycle: a pin before the commits (R322), a `DECZ` before the slice core (R250), any other
after every other write (R376). -/
def State.amoRank (s : State) (a : AmoPkt) (p : Place) : Nat :=
  if s.isPin p then 0 else if a.op == .decz then 65 else 67

/-- Cycles from the moment a packet is performed until its answer is back (R330). -/
def State.amoBack (s : State) (a : AmoPkt) (p : Place) : Nat :=
  10 + (if s.amoMiss a p then 0 else memTerm p.space true) + s.way p.owner (amoWho a p.owner) + 6

/-- The turn of a packet begins: a miss is an event of its line (R365) and counts a prefetch that is still outstanding (R329), and the packet is
performed when it is due. -/
def Act.amoBegin (p : Loc) (a : AmoPkt) (pl : Place) : Act :=
  .read fun s =>
    let line := (s.keyOf pl).getD 0 / 64
    .all [
      .when (s.amoMiss a pl && a.src != .slice) (.seq (.when (s.prefFlying pl.owner line none) (.count pl.owner 0x320)) (.lineEvent pl.owner line 2)),
      .event (s.amoDue a pl - s.now) (.atomicTurn p.toPolder (some (a, pl, s.amoRank a pl, s.amoBack a pl)))]

/-- `ATOMIC_TURN`: held packets that may go on do, and the turn of the head packet of the next occupied slot begins, one in each slice cycle; 16
that wait for their lines hold back one that would wait as well (R373). -/
def Act.amoTurn (p : Loc) : Act :=
  .seq (.read fun s => .amoRetry (s.polder p).amoHeld []) <| .read fun s =>
    let q := s.polder p
    let again : Act := .event (s.sliceTicks p 1) (.atomicTurn p.toPolder none)
    match nextSlot q.amoSlots q.amoTurn with
    | none => if q.amoHeld.isEmpty then .polder p fun x => { x with amoBusy := false } else again
    | some t =>
      match t.queue with
      | [] => .seq (.polder p fun x => { x with amoSlots := x.amoSlots.filter fun u => u.idx != t.idx }) again
      | (a, pl) :: _ =>
        if s.now < s.amoDue a pl && decide (16 ≤ ((s.amoBegun p).filter fun x => s.now < x.1).length) then again
        else
          let left := amoServed t q
          let r := amoAdmit left.1 [] left.2
          let back := (t.queue.drop 1).filter fun x => left.1.contains x && r.1.contains x
          .all [
            .each back fun _ => .count p 0x388,
            .polder p (fun x => { x with amoTurn := t.idx, amoWait := r.1, amoSlots := r.2 }),
            .amoBegin p a pl, .count p 0x380, again]

/-- The slice core ends its wait for a line in this cycle: it is about to copy the line or to raise the gauge (R245, R246). -/
def State.sliceWrites (s : State) (p : Loc) : Bool :=
  match (s.polder p).handler with
  | some h => h.wait && s.agenda.any fun x => x.due == s.now && x.work == .slice p.toPolder h.gen
  | none => false

/-- A packet is performed in its place among the writes of the cycle: a `DECZ` gives way to a write of the slice core, and comes before any other
instruction of it (R250, R376). -/
def Act.amoPerform (p : Loc) (x : AmoPkt × Place × Nat × Nat) : Act :=
  .read fun s =>
    if x.2.2.1 == 65 && s.sliceWrites p then .event 0 (.atomicTurn p.toPolder (some (x.1, x.2.1, 67, x.2.2.2)))
    else .performAmo x.1 x.2.1 x.2.2.2

/-- `ATOMIC_TURN`: a turn of the unit, or the moment at which a packet whose turn has begun is performed (R373). -/
def execAtomicTurn (s : State) : Host.Outcome State Fault Refusal :=
  match s.cur with
  | .atomicTurn p none => done (.amoTurn p) s
  | .atomicTurn p (some x) => done (.amoPerform p x) s
  | _ => .next s

/-! ## Replies (R136, R137, R211, R251) -/

/-- A register list of the slice core with `rd` replaced; `x0` keeps its zero (R240). -/
def setX (regs : List (BitVec 32)) (rd v : Nat) : List (BitVec 32) :=
  if rd = 0 then regs else regs.set rd (BitVec.ofNat 32 v)

/-- The answer that a waiting `SAMO` takes into `rd`; the handler goes on behind it, and until then its `pc` is the instruction's own (R240, R371). An answer to a handler that
has ended is dropped (R371). -/
def Act.sliceAnswer (p : Loc) (gen rd v : Nat) : Act :=
  .read fun s =>
    match (s.polder p).handler with
    | some h => .when (decide (h.gen = gen) && h.wait) (.seq
        (.polder p fun q => { q with handler := q.handler.map fun x => { x with pc := (x.pc + 4) % 2 ^ 32, regs := setX x.regs rd v, wait := false } })
        (.fx (.sched 0 (.slice p.toPolder gen))))
    | none => .skip

/-- The ordering that an atomic has taken: a failed `CASX` is relaxed (R137). -/
def amoAcquires (a : AmoPkt) (old : Nat) : Bool :=
  (a.order == .acquire || a.order == .both) && !(a.op == .casx && old != a.r)

/-- A reply to an atomic of a block: the old value goes to its targets, or the cause is the block's fault; a block that is
being abandoned goes on with that once its atomics have answered (R135, R136, R334). -/
def Act.atomicAnswer (a : AmoPkt) (l : Loc) (epoch slot cause old : Nat) : Act :=
  .read fun s =>
    match s.blockAt l epoch with
    | none => .skip
    | some b => .all [
        .block l fun x => { x with
          out := x.out.filter fun n => n != slot
          namo := if cause = 0 then x.namo + 1 else x.namo },
        (if cause ≠ 0 then .seq (.raise l epoch slot cause 0 a.addr) (.when b.fault.isSome (.event 0 (.blockAbandon l epoch)))
        else if b.fault.isSome then .event 0 (.blockAbandon l epoch)
        else .seq
          (.when (amoAcquires a old) (.seq (.acquireGauge l (s.ctx l).pasid.toNat a.addr old) (.acquireCode l)))
          (.deliver l epoch slot 0 (.val (w64 old)) ((b.instrAt slot).elim [] targetsOf))),
        .wake l, .settle l epoch]

/-- `ATOMIC_REPLY`: to the slot that fired it, to the ended task whose counter it was (R211), or to the running handler,
which sees all ones for a refusal (R251). -/
def Act.amoReply (a : AmoPkt) (cause old : Nat) : Act :=
  match a.into with
  | .slot l epoch slot => .atomicAnswer a l epoch slot cause old
  | .duty l counter => .when (cause != 0) (.read fun s => .hostRec l (s.partOf l) (s.coreRec l cause 0 0 counter 0))
  | .handler p gen rd => .sliceAnswer p gen rd (if cause = 0 then old else 2 ^ 32 - 1)
  | .nowhere => .skip

/-- `ATOMIC_REPLY` (R136). -/
def execAtomicReply (s : State) : Host.Outcome State Fault Refusal :=
  match s.cur with
  | .atomicReply a c old => done (.amoReply a c old) s
  | _ => .next s

end Sys2Proof.Machine
end

