-- ==== Sys2Proof/Machine/Coded.lean ====
section
/-! DEFINITION. The coded element format `k4m3`: its code tables, the decoder and the encoder (spec/06 R145-R149). -/

namespace Sys2Proof.Machine

/-! ## Decoding (R146, R147) -/

/-- Stream bit `i` of a code part (R145). -/
def codeBit (cs : List Byte) (i : Nat) : Nat := boolNat (bit (cs.getD (i / 8) 0#8).toNat (i % 8))

/-- A raw field of `n` stream bits from bit `i`, the most significant first (R146). -/
def codeField (cs : List Byte) (i : Nat) : Nat → Nat
  | 0 => 0
  | n + 1 => codeBit cs i * 2 ^ n + codeField cs (i + 1) n

/-- The delta whose code begins at stream bit `i`, and the bit after it (R146). A raw field may hold any delta (notes/assumptions 130). -/
def nextCode (tbl : Nat) (cs : List Byte) (i : Nat) : Nat × Nat :=
  let b (k : Nat) : Bool := codeBit cs (i + k) == 1
  match tbl with
  | 0 =>
    if !b 0 then (0, i + 1) else if !b 1 then (1, i + 2) else if !b 2 then (2, i + 3) else if !b 3 then (3, i + 4)
    else (codeField cs (i + 4) 4, i + 8)
  | 1 =>
    if !b 0 then (codeField cs (i + 1) 1, i + 2)
    else if !b 1 then (2 + codeField cs (i + 2) 1, i + 3)
    else if !b 2 then (4 + codeField cs (i + 3) 1, i + 4)
    else (codeField cs (i + 3) 4, i + 7)
  | 2 => if !b 0 then (codeField cs (i + 1) 2, i + 3) else (codeField cs (i + 1) 4, i + 5)
  | _ => (codeField cs i 4, i + 4)

/-- The elements of a block from element `k` on, and the end of its codes; none where an exponent passes 15 (R147). -/
def blockElems (tbl base : Nat) (nibs cs : List Byte) : Nat → Nat → Nat → Option (List Nat × Nat)
  | 0, _, i => some ([], i)
  | n + 1, k, i =>
    let d := nextCode tbl cs i
    if base + d.1 > 15 then none
    else
      let nib := (nibs.getD (k / 2) 0#8).toNat / 2 ^ (4 * (k % 2)) % 16
      (blockElems tbl base nibs cs n (k + 1) d.2).map fun r => ((nib / 8 * 128 + (base + d.1) * 8 + nib % 8) :: r.1, r.2)

/-- What a decoder finds at the head of a list of bytes: 32 elements and the block's length in bytes, a decode fault, or
too few bytes to tell (R147). -/
inductive CodedBlock where
  | elems (xs : List Nat) (len : Nat)
  | bad
  | short
  deriving DecidableEq, Repr, Inhabited

/-- Decode the block at the head of a list of bytes, once all its `blen / 8` bytes are there (R145, R147; notes/assumptions 131). -/
def decodeBlock (bs : List Byte) : CodedBlock :=
  let h := numAt bs 0 2
  let blen := bits h 9 0
  if bs.length < 2 then .short
  else if blen % 16 ≠ 0 ∨ blen < 176 then .bad
  else if bs.length < blen / 8 then .short
  else
    match blockElems (bits h 15 14) (bits h 13 10) (sliceBytes bs 2 16) (sliceBytes bs 18 (blen / 8 - 18)) 32 0 0 with
    | some (xs, i) => if blen = roundUp (144 + i) 16 then .elems xs (blen / 8) else .bad
    | none => .bad

/-- The elements of `n` blocks back to back, and their length: a decode fault names the offset of its block. -/
inductive CodedRow where
  | elems (xs : List Nat) (len : Nat)
  | bad (off : Nat)
  | short
  deriving DecidableEq, Repr, Inhabited

/-- Decode `n` blocks from offset `off` of a stream (R148). -/
def decodeRow (bs : List Byte) (off : Nat) : Nat → CodedRow
  | 0 => .elems [] off
  | n + 1 =>
    match decodeBlock (bs.drop off) with
    | .bad => .bad off
    | .short => .short
    | .elems xs len =>
      match decodeRow bs (off + len) n with
      | .elems ys e => .elems (xs ++ ys) e
      | r => r

/-! ## Encoding (R149, R184) -/

/-- The shortest code of a delta in a table: its bits in stream order (R146, R149). -/
def codeOf (tbl d : Nat) : List Bool :=
  let raw (n v : Nat) : List Bool := ((List.range n).map fun i => bit v (n - 1 - i))
  match tbl with
  | 0 => if d < 4 then List.replicate d true ++ [false] else raw 4 15 ++ raw 4 d
  | 1 => if d < 2 then raw 2 d else if d < 4 then raw 3 (d + 2) else if d < 6 then raw 4 (d + 8) else raw 3 7 ++ raw 4 d
  | 2 => if d < 4 then false :: raw 2 d else true :: raw 4 d
  | _ => raw 4 d

/-- Bytes of a bit list, the first bit lowest. -/
def packBits : List Bool → Nat
  | [] => 0
  | b :: bs => boolNat b + 2 * packBits bs

/-- The block of a table for up to 32 elements; missing ones take nibble 0 and delta 0 and do not count toward `base`
(R145, R149, R184). -/
def encodeWith (tbl : Nat) (xs : List Nat) : List Byte :=
  let exps := xs.map fun x => bits x 6 3
  let base := exps.foldl Nat.min 15
  let ds := (exps.map fun e => e - base) ++ List.replicate (32 - xs.length) 0
  let nib (x : Nat) : Nat := x / 128 % 2 * 8 + x % 8
  let nibs := ((List.range 16).map fun i => BitVec.ofNat 8 (nib (xs.getD (2 * i) 0) + 16 * nib (xs.getD (2 * i + 1) 0)))
  let code := (ds.map (codeOf tbl)).flatten
  let blen := roundUp (144 + code.length) 16
  bytesOf 2 (field tbl 2 14 + field base 4 10 + field blen 10 0) ++ nibs ++ bytesOf ((blen - 144) / 8) (packBits code)

/-- The block that `VENC` writes: of a fixed table, or the shortest, the lowest table among equals (R149). -/
def encodeBlock (t : CodeTable) (xs : List Nat) : List Byte :=
  match t with
  | .t0 => encodeWith 0 xs
  | .t1 => encodeWith 1 xs
  | .t2 => encodeWith 2 xs
  | .t3 => encodeWith 3 xs
  | .auto => [1, 2, 3].foldl (fun b t => if (encodeWith t xs).length < b.length then encodeWith t xs else b) (encodeWith 0 xs)

end Sys2Proof.Machine
end

