-- ==== Sys2Proof/Machine/Special.lean ====
section
/-! DEFINITION. The functions of the special-function unit (spec/07 R162). The exact cases and specials are as the table
gives them. Elsewhere the result is a free value within the table's bound: the function's value is enclosed in fixed
point far below one unit in the last place, a free value inside the bound stands, and one outside it gives way to the
rounded value (notes/assumptions 3). -/

namespace Sys2Proof.Machine

/-- Fraction bits of the fixed-point evaluation. -/
def fixBits : Nat := 160
/-- The natural logarithm of 2, times 2^160. -/
def ln2Fix : Nat := 0xb17217f7d1cf79abc9e3b39803f2f6af40f34326
/-- The circle constant, times 2^320. -/
def piFix : Nat := 0x3243f6a8885a308d313198a2e03707344a4093822299f31d0082efa98ec4e6c89452821e638d01377

/-- The exponential series from term `k` on, `t` being that term. -/
def expTerms (y : Nat) : Nat → Nat → Nat → Nat
  | 0, _, _ => 0
  | n + 1, k, t => t + expTerms y n (k + 1) (t * y / 2 ^ fixBits / (k + 1))
/-- The exponential of a fixed-point number below 1. -/
def expFix (y : Nat) : Nat := expTerms y 48 0 (2 ^ fixBits)

/-- Bits of a binary logarithm of a fixed-point number from 1 to 2. -/
def log2Bits : Nat → Nat → Nat → Nat
  | 0, _, acc => acc
  | n + 1, t, acc =>
    let u := t * t / 2 ^ 200
    if 2 ^ 201 ≤ u then log2Bits n (u / 2) (2 * acc + 1) else log2Bits n u (2 * acc)

/-- The sine or cosine series of a fixed-point angle: the terms from `k` on, `t` being term `k`. -/
def sinTerms (x : Nat) : Nat → Nat → Int → Int
  | 0, _, _ => 0
  | n + 1, k, t => t + sinTerms x n (k + 2) (-(t * x / 2 ^ fixBits * x / 2 ^ fixBits / ((k + 1) * (k + 2) : Nat)))

/-- An angle reduced by whole turns, in fixed point. -/
def reduceAngle (m : Nat) (e : Int) : Nat := m * 2 ^ (e + 320).toNat % (2 * piFix) / 2 ^ fixBits

/-- 2^x for finite x: the exponent and a fixed-point number from 1 to 2. -/
def exp2Parts (neg : Bool) (m : Nat) (e : Int) : Int × Nat :=
  let v := alignTo (-fixBits) neg (if -fixBits ≤ e then m else m / 2 ^ (-fixBits - e).toNat) (max e (-fixBits))
  let n := v / 2 ^ fixBits
  (n, expFix ((v % 2 ^ fixBits).toNat * ln2Fix / 2 ^ fixBits))

/-- The exponential of a nonnegative number below 256, in fixed point. -/
def expOf (m : Nat) (e : Int) : Nat :=
  let v := if -fixBits ≤ e then m * 2 ^ (e + fixBits).toNat else m / 2 ^ (-fixBits - e).toNat
  let n := v / ln2Fix
  expFix (v % ln2Fix) * 2 ^ n

/-- A fixed-point number as a value. -/
def fixNum (v : Int) : Num := .fin (decide (v < 0)) v.natAbs (-fixBits)

/-- A finite magnitude reaches `2^k`. -/
def reaches (m : Nat) (e k : Int) : Bool := decide (k ≤ e + bitCount m - 1) && decide (m ≠ 0)

/-- The value of a function at a finite nonzero argument where no exact case applies, to far more than 24 bits. -/
def sfnValue (fn : SfnFn) (neg : Bool) (m : Nat) (e : Int) : Num :=
  let one : Nat := 2 ^ fixBits
  match fn with
  | .exp2 =>
    if reaches m e 9 then .fin false 1 (if neg then -512 else 512)
    else .fin false (exp2Parts neg m e).2 ((exp2Parts neg m e).1 - fixBits)
  | .log2 =>
    let k : Int := e + bitCount m - 1
    let v : Int := k * 2 ^ 120 + log2Bits 120 (m * 2 ^ 200 / 2 ^ (bitCount m - 1)) 0
    .fin (decide (v < 0)) v.natAbs (-120)
  | .rcp => ((Num.fin false 1 0).div (.fin neg m e)).1
  | .rsq => ((Num.fin false 1 0).div (Num.fin false m e).sqrt.1).1
  | .sin =>
    let r := reduceAngle m e
    let v := sinTerms r 60 1 r
    fixNum (if neg then -v else v)
  | .cos => fixNum (sinTerms (reduceAngle m e) 60 0 one)
  | .tanh =>
    if reaches m e 6 then .fin neg 1 0
    else
      let q := expOf m (e + 1)
      .fin neg ((q - one) * one / (q + one)) (-fixBits)
  | .sigm =>
    if reaches m e 7 then (if neg then .fin false 1 (-184) else .fin false 1 0)
    else
      let q := expOf m e
      .fin false ((if neg then one else q) * one / (q + one)) (-fixBits)

/-- Units in the last place that the table allows, and the absolute bound as a power of two (R162). -/
def sfnBound : SfnFn → Nat × Option Int
  | .exp2 => (2, none)
  | .log2 => (2, none)
  | .rcp => (1, none)
  | .rsq => (1, none)
  | .sin => (0, some (-22))
  | .cos => (0, some (-22))
  | .tanh => (2, some (-24))
  | .sigm => (0, some (-24))

/-- A result lies within the table's bound of a value: within the units in the last place at that value, or within
the absolute bound, whichever is larger. A part in 2^40 of the bound covers the fixed-point evaluation. -/
def sfnWithin (fn : SfnFn) (v : Num) (r : Nat) : Bool :=
  match v, Fmt.f32.decode r with
  | .fin a m e, .fin b n f =>
    let ulp : Int := max (e + bitCount m - 24) (-149)
    let q := min (min e f) (min ulp (-24)) - 40
    let d := (alignTo q a m e - alignTo q b n f).natAbs
    let slack (x : Nat) : Nat := x + x / 2 ^ 40
    decide (d ≤ slack ((sfnBound fn).1 * 2 ^ (ulp - q).toNat)) || (match (sfnBound fn).2 with
      | some k => decide (d ≤ slack (2 ^ (k - q).toNat))
      | none => false)
  | _, _ => false

/-- The result and flags of a function where the table gives a bound only; a tiny one underflows (R151, R162). -/
def sfnFree (fn : SfnFn) (x : Nat) (v : Num) : Nat × Nat :=
  let near := Fmt.f32.narrow 0 v
  let r := (Config.specialResult fn x).toNat
  if bit near.2 2 then (near.1, fOf + fNx)
  else
    let y := if sfnWithin fn v r then r else near.1
    let tiny := decide (y % 2 ^ 31 < 2 ^ 23) && (y % 2 ^ 31 != 0 || Nat.land near.2 fUf != 0)
    (y, fNx + flagIf tiny fUf)

/-- The exact cases and specials of R162 for an argument that is no NaN. -/
def sfnExact (fn : SfnFn) (x : Num) : Option (Nat × Nat) :=
  let pos (v : Num) : Option (Nat × Nat) := some ((Fmt.f32.narrow 0 v).1, 0)
  let bad : Option (Nat × Nat) := some (Fmt.f32.defaultNan, fNv)
  match fn, x with
  | _, .nan s => some (Fmt.f32.defaultNan, flagIf s fNv)
  | .exp2, .inf n => pos (if n then .fin false 0 0 else .inf false)
  | .exp2, .fin neg m e =>
    let k := alignTo (min e 0) neg m e
    if k % 2 ^ (-min e 0).toNat = 0 then
      let n := k / 2 ^ (-min e 0).toNat
      if -149 ≤ n ∧ n ≤ 127 then pos (.fin false 1 n) else none
    else none
  | .log2, .inf n => if n then bad else pos (.inf false)
  | .log2, .fin neg m e =>
    if m = 0 then some (Fmt.f32.withSign true Fmt.f32.infCode, fDz)
    else if neg then bad
    else if (Num.fin neg m e).isPow2 then pos (.ofInt (e + bitCount m - 1))
    else none
  | .rcp, .inf n => pos (.fin n 0 0)
  | .rcp, .fin neg m e =>
    if m = 0 then some (Fmt.f32.withSign neg Fmt.f32.infCode, fDz)
    else
      let k : Int := -(e + bitCount m - 1)
      if (Num.fin neg m e).isPow2 && decide (-126 ≤ k) && decide (k ≤ 127) then pos (.fin neg 1 k) else none
  | .rsq, .inf n => if n then bad else pos (.fin false 0 0)
  | .rsq, .fin neg m e =>
    if m = 0 then some (Fmt.f32.withSign neg Fmt.f32.infCode, fDz)
    else if neg then bad
    else
      let k : Int := e + bitCount m - 1
      if (Num.fin neg m e).isPow2 && decide (k % 2 = 0) then pos (.fin false 1 (-(k / 2))) else none
  | .sin, .inf _ => bad
  | .sin, .fin neg m _ => if m = 0 then pos (.fin neg 0 0) else none
  | .cos, .inf _ => bad
  | .cos, .fin _ m _ => if m = 0 then pos (.fin false 1 0) else none
  | .tanh, .inf n => pos (.fin n 1 0)
  | .tanh, .fin neg m _ => if m = 0 then pos (.fin neg 0 0) else none
  | .sigm, .inf n => pos (if n then .fin false 0 0 else .fin false 1 0)
  | .sigm, .fin _ _ _ => none

/-- Result and flags of a function of the special-function unit on the bits of an `f32` (R162). -/
def sfn (fn : SfnFn) (x : Nat) : Nat × Nat :=
  match sfnExact fn (Fmt.f32.decode x) with
  | some r => r
  | none =>
    match Fmt.f32.decode x with
    | .fin neg m e => sfnFree fn x (if m = 0 then .fin false 1 (-1) else sfnValue fn neg m e)
    | _ => (Fmt.f32.defaultNan, fNv)

end Sys2Proof.Machine
end

