-- ==== Sys2Proof/Machine/Scalar.lean ====
section
/-! DEFINITION. Scalar floating point (spec/07 R158-R161) and scalar requests to the special-function unit (R162-R164). -/

namespace Sys2Proof.Machine

/-! ## Firing (R158) -/

/-- The rounding mode of a context (R75). -/
def Context.rm (c : Context) : Nat := bits c.fm.toNat 10 8

/-- Send a result after `lat` cycles and keep its flags for the commit of the block (R75, R158). -/
def Act.fpSend (lat : Nat) (r : Nat × Nat) (ts : List Target) : Act :=
  .read fun s => .seq (.block s.focus.l fun b => { b with flags := Nat.lor b.flags r.2 }) (.send lat (.val (w64 r.1)) ts)

/-- A floating-point member fires on one or two operands. -/
def fireFop (F : Fmt) (o : Fop) (os : List Opnd) (p : Pred) (t1 t0 : Target) (s : State) : Host.Outcome State Fault Refusal :=
  slotStep (.firing p os (.send 0 .null [t0, t1]) fun vs => .read fun s =>
    let l := (arg vs 0).toNat % 2 ^ F.width
    let r := (arg vs 1).toNat % 2 ^ F.width
    let rm := (s.ctx s.focus.l).rm
    .fpSend (fopLatency F rm o l r) (fop F rm o l r) [t0, t1]) s

/-- A fused multiply-add fires (R160). -/
def fireFma (F : Fmt) (t1 t0 : Target) (s : State) : Host.Outcome State Fault Refusal :=
  slotStep (.firing .always [.l, .r, .x] (.send 0 .null [t0, t1]) fun vs => .read fun s =>
    let v (i : Nat) : Nat := (arg vs i).toNat % 2 ^ F.width
    .fpSend 5 (fma F (s.ctx s.focus.l).rm (v 0) (v 1) (v 2)) [t0, t1]) s

/-! ## The FD and FS families (R159) -/

/-- `FADD.D` (R159). -/
def execFaddD (p : Pred) (t1 t0 : Target) (s : State) : Host.Outcome State Fault Refusal :=
  fireFop .f64 .add [.l, .r] p t1 t0 s
/-- `FSUB.D` (R159). -/
def execFsubD (p : Pred) (t1 t0 : Target) (s : State) : Host.Outcome State Fault Refusal :=
  fireFop .f64 .sub [.l, .r] p t1 t0 s
/-- `FMUL.D` (R159). -/
def execFmulD (p : Pred) (t1 t0 : Target) (s : State) : Host.Outcome State Fault Refusal :=
  fireFop .f64 .mul [.l, .r] p t1 t0 s
/-- `FDIV.D` (R159). -/
def execFdivD (p : Pred) (t1 t0 : Target) (s : State) : Host.Outcome State Fault Refusal :=
  fireFop .f64 .div [.l, .r] p t1 t0 s
/-- `FSQRT.D` (R159). -/
def execFsqrtD (p : Pred) (t1 t0 : Target) (s : State) : Host.Outcome State Fault Refusal :=
  fireFop .f64 .sqrt [.l] p t1 t0 s
/-- `FMIN.D` (R159). -/
def execFminD (p : Pred) (t1 t0 : Target) (s : State) : Host.Outcome State Fault Refusal :=
  fireFop .f64 .min [.l, .r] p t1 t0 s
/-- `FMAX.D` (R159). -/
def execFmaxD (p : Pred) (t1 t0 : Target) (s : State) : Host.Outcome State Fault Refusal :=
  fireFop .f64 .max [.l, .r] p t1 t0 s
/-- `FNEG.D` (R159). -/
def execFnegD (p : Pred) (t1 t0 : Target) (s : State) : Host.Outcome State Fault Refusal :=
  fireFop .f64 .neg [.l] p t1 t0 s
/-- `FABS.D` (R159). -/
def execFabsD (p : Pred) (t1 t0 : Target) (s : State) : Host.Outcome State Fault Refusal :=
  fireFop .f64 .abs [.l] p t1 t0 s
/-- `FEQ.D` (R159). -/
def execFeqD (p : Pred) (t1 t0 : Target) (s : State) : Host.Outcome State Fault Refusal :=
  fireFop .f64 .eq [.l, .r] p t1 t0 s
/-- `FLT.D` (R159). -/
def execFltD (p : Pred) (t1 t0 : Target) (s : State) : Host.Outcome State Fault Refusal :=
  fireFop .f64 .lt [.l, .r] p t1 t0 s
/-- `FLE.D` (R159). -/
def execFleD (p : Pred) (t1 t0 : Target) (s : State) : Host.Outcome State Fault Refusal :=
  fireFop .f64 .le [.l, .r] p t1 t0 s
/-- `FCLASS.D` (R159). -/
def execFclassD (p : Pred) (t1 t0 : Target) (s : State) : Host.Outcome State Fault Refusal :=
  fireFop .f64 .cls [.l] p t1 t0 s
/-- `FSGNJ.D` (R159). -/
def execFsgnjD (p : Pred) (t1 t0 : Target) (s : State) : Host.Outcome State Fault Refusal :=
  fireFop .f64 .sgnj [.l, .r] p t1 t0 s
/-- `FADD.S` (R159). -/
def execFaddS (p : Pred) (t1 t0 : Target) (s : State) : Host.Outcome State Fault Refusal :=
  fireFop .f32 .add [.l, .r] p t1 t0 s
/-- `FSUB.S` (R159). -/
def execFsubS (p : Pred) (t1 t0 : Target) (s : State) : Host.Outcome State Fault Refusal :=
  fireFop .f32 .sub [.l, .r] p t1 t0 s
/-- `FMUL.S` (R159). -/
def execFmulS (p : Pred) (t1 t0 : Target) (s : State) : Host.Outcome State Fault Refusal :=
  fireFop .f32 .mul [.l, .r] p t1 t0 s
/-- `FDIV.S` (R159). -/
def execFdivS (p : Pred) (t1 t0 : Target) (s : State) : Host.Outcome State Fault Refusal :=
  fireFop .f32 .div [.l, .r] p t1 t0 s
/-- `FSQRT.S` (R159). -/
def execFsqrtS (p : Pred) (t1 t0 : Target) (s : State) : Host.Outcome State Fault Refusal :=
  fireFop .f32 .sqrt [.l] p t1 t0 s
/-- `FMIN.S` (R159). -/
def execFminS (p : Pred) (t1 t0 : Target) (s : State) : Host.Outcome State Fault Refusal :=
  fireFop .f32 .min [.l, .r] p t1 t0 s
/-- `FMAX.S` (R159). -/
def execFmaxS (p : Pred) (t1 t0 : Target) (s : State) : Host.Outcome State Fault Refusal :=
  fireFop .f32 .max [.l, .r] p t1 t0 s
/-- `FNEG.S` (R159). -/
def execFnegS (p : Pred) (t1 t0 : Target) (s : State) : Host.Outcome State Fault Refusal :=
  fireFop .f32 .neg [.l] p t1 t0 s
/-- `FABS.S` (R159). -/
def execFabsS (p : Pred) (t1 t0 : Target) (s : State) : Host.Outcome State Fault Refusal :=
  fireFop .f32 .abs [.l] p t1 t0 s
/-- `FEQ.S` (R159). -/
def execFeqS (p : Pred) (t1 t0 : Target) (s : State) : Host.Outcome State Fault Refusal :=
  fireFop .f32 .eq [.l, .r] p t1 t0 s
/-- `FLT.S` (R159). -/
def execFltS (p : Pred) (t1 t0 : Target) (s : State) : Host.Outcome State Fault Refusal :=
  fireFop .f32 .lt [.l, .r] p t1 t0 s
/-- `FLE.S` (R159). -/
def execFleS (p : Pred) (t1 t0 : Target) (s : State) : Host.Outcome State Fault Refusal :=
  fireFop .f32 .le [.l, .r] p t1 t0 s
/-- `FCLASS.S` (R159). -/
def execFclassS (p : Pred) (t1 t0 : Target) (s : State) : Host.Outcome State Fault Refusal :=
  fireFop .f32 .cls [.l] p t1 t0 s
/-- `FSGNJ.S` (R159). -/
def execFsgnjS (p : Pred) (t1 t0 : Target) (s : State) : Host.Outcome State Fault Refusal :=
  fireFop .f32 .sgnj [.l, .r] p t1 t0 s
/-- `FMA.D` (R160). -/
def execFmaD (t1 t0 : Target) (s : State) : Host.Outcome State Fault Refusal := fireFma .f64 t1 t0 s
/-- `FMA.S` (R160). -/
def execFmaS (t1 t0 : Target) (s : State) : Host.Outcome State Fault Refusal := fireFma .f32 t1 t0 s
/-- `FCVT` (R161). -/
def execFcvt (p : Pred) (x : CvtPair) (t1 t0 : Target) (s : State) : Host.Outcome State Fault Refusal :=
  slotStep (.firing p [.l] (.send 0 .null [t0, t1]) fun vs => .read fun s =>
    .fpSend 4 (fcvt x (s.ctx s.focus.l).rm (arg vs 0).toNat) [t0, t1]) s

/-! ## The special-function unit (R163, R164) -/

/-- Put a request in the unit's queue; an idle unit takes its next turn now. -/
def Act.queueSfu (c : Loc) (r : SfuReq) : Act :=
  .read fun s => .seq (.core c fun k => { k with sfu := k.sfu ++ [r], sfuBusy := true })
    (.when (!(s.core c).sfuBusy) (.event 0 (.sfuAccept c.toCore)))

/-- A member of `SFN` fires: its request enters the queue, or waits while the queue of 16 is full (R163). -/
def fireSfn (fn : SfnFn) (p : Pred) (t1 t0 : Target) (s : State) : Host.Outcome State Fault Refusal :=
  slotStep (.firing p [.l] (.send 0 .null [t0, t1]) fun vs => .read fun s =>
    let f := s.focus
    if (s.core f.l).sfu.length < 16 then
      .seq (.block f.l fun b => { b with out := f.slot :: b.out })
        (.queueSfu f.l ⟨f.l, f.epoch, f.slot, fn, (arg vs 0).toNat % 2 ^ 32⟩)
    else .block f.l fun b => { b with fired := b.fired.filter fun k => k != f.slot, waiting := b.waiting ++ [(f.slot, s.now)] }) s

/-- `SFN.EXP2` (R162). -/
def execSfnExp2 (p : Pred) (t1 t0 : Target) (s : State) : Host.Outcome State Fault Refusal := fireSfn .exp2 p t1 t0 s
/-- `SFN.LOG2` (R162). -/
def execSfnLog2 (p : Pred) (t1 t0 : Target) (s : State) : Host.Outcome State Fault Refusal := fireSfn .log2 p t1 t0 s
/-- `SFN.RCP` (R162). -/
def execSfnRcp (p : Pred) (t1 t0 : Target) (s : State) : Host.Outcome State Fault Refusal := fireSfn .rcp p t1 t0 s
/-- `SFN.RSQ` (R162). -/
def execSfnRsq (p : Pred) (t1 t0 : Target) (s : State) : Host.Outcome State Fault Refusal := fireSfn .rsq p t1 t0 s
/-- `SFN.SIN` (R162). -/
def execSfnSin (p : Pred) (t1 t0 : Target) (s : State) : Host.Outcome State Fault Refusal := fireSfn .sin p t1 t0 s
/-- `SFN.COS` (R162). -/
def execSfnCos (p : Pred) (t1 t0 : Target) (s : State) : Host.Outcome State Fault Refusal := fireSfn .cos p t1 t0 s
/-- `SFN.TANH` (R162). -/
def execSfnTanh (p : Pred) (t1 t0 : Target) (s : State) : Host.Outcome State Fault Refusal := fireSfn .tanh p t1 t0 s
/-- `SFN.SIGM` (R162). -/
def execSfnSigm (p : Pred) (t1 t0 : Target) (s : State) : Host.Outcome State Fault Refusal := fireSfn .sigm p t1 t0 s

/-- The request still stands: a vector beat (named by epoch 0), or a scalar request whose block is in flight (R164), neither discarded nor
committed (notes/assumptions 134). -/
def SfuReq.stands (s : State) (r : SfuReq) : Bool :=
  r.epoch == 0 || ((s.blockAt r.l r.epoch).any fun b => b.fault.isNone)

/-- The requests from the first that still stands on. -/
def sfuLive (s : State) (q : List SfuReq) : List SfuReq := q.dropWhile fun r => !SfuReq.stands s r

/-- `SFU_ACCEPT`: the head request that still stands is accepted, its result comes 12 cycles later, and the next turn
4 cycles later (R163, R164). -/
def Act.sfuTurn (c : Loc) : Act :=
  .read fun s =>
    match sfuLive s (s.core c).sfu with
    | [] => .seq (.core c fun k => { k with sfu := [], sfuBusy := false }) (.wakeCore c)
    | r :: rest =>
      let v := if r.epoch = 0 then (0, 0) else sfn r.fn r.arg
      .all [
        .core c fun k => { k with sfu := rest, sfuBusy := true },
        .event 12 (.sfuResult c r.l r.epoch r.slot (.val (w64 v.1)) v.2),
        .event 4 (.sfuAccept c),
        .wakeCore c]

/-- `SFU_ACCEPT` (R163). -/
def execSfuAccept (s : State) : Host.Outcome State Fault Refusal :=
  match s.cur with
  | .sfuAccept c => done (.sfuTurn c) s
  | _ => .next s

end Sys2Proof.Machine
end

