-- ==== Sys2Proof/Machine/Vector.lean ====
section
/-! DEFINITION. Vector instructions (spec/07 R168-R185): the checks at firing, element arithmetic, and the beats of the
vector unit. -/

namespace Sys2Proof.Machine

/-! ## Checks at firing (R168, R169) -/

/-- The type is one that a vector token may carry (R168). -/
def VTok.tyOk (t : VTok) : Bool := (tyFmt t.ty).isSome || (tyInt t.ty).isSome
/-- A floating-point type. -/
def VTok.isF (t : VTok) : Bool := (tyFmt t.ty).isSome
/-- An integer type. -/
def VTok.isI (t : VTok) : Bool := (tyInt t.ty).isSome
/-- An `i8` or `n8` array (R179). -/
def VTok.isMask (t : VTok) : Bool := t.ty == 1 || t.ty == 5

/-- The fields of a token agree with each other (R168, R169 check 2); `dst` forbids `bs`. -/
def VTok.formOk (t : VTok) (dst : Bool) : Bool :=
  t.rsv == 0 && t.tyOk && (t.gran || tyWidth t.ty != 6) && (!t.bs || (t.gran && tyScaled t.ty && !dst))

/-- The alignment of `addr` (R168). -/
def VTok.alignOk (t : VTok) : Bool := t.addr % (if t.gran then 32 else max 1 (tyWidth t.ty / 8)) == 0

/-- The whole array lies in one core memory (R168). -/
def VTok.inCore (t : VTok) : Bool :=
  let last := t.addr + (if t.cnt = 0 then 1 else t.size) - 1
  (t.addr < 0x20000 && last < 0x20000) || (0x100000 ≤ t.addr && last < 0x200000 && t.addr / 0x20000 == last / 0x20000)

/-- The arrays of a member: those it writes and those it reads (R173-R185). -/
def vecArrays (op : Vop) (l r x : Nat) : List VTok × List VTok :=
  let d := vtok l
  let a := vtok r
  let b := vtok x
  match op with
  | .neg => ([d], [a])
  | .abs => ([d], [a])
  | .cpy => ([d], [a])
  | .exp2 => ([d], [a])
  | .log2 => ([d], [a])
  | .rcp => ([d], [a])
  | .rsq => ([d], [a])
  | .tanh => ([d], [a])
  | .sigm => ([d], [a])
  | .sin => ([d], [a])
  | .cos => ([d], [a])
  | .redSum => ([d], [a])
  | .redMax => ([d], [a])
  | .redMin => ([d], [a])
  | .redAmax => ([d], [a])
  | .scanInc => ([d], [a])
  | .scanExc => ([d], [a])
  | .bcast => ([d], [])
  | .popaNone => ([a], [])
  | .popaRelu => ([a], [])
  | .popaClamp => ([a], [])
  | .permRev => ([d], [a])
  | .permIntl => ([d], [a])
  | .permDintl => ([d], [a])
  | .permRot => ([d], [a])
  | .qnt => ([d], [a])
  | .enc _ => ([], [a])
  | .dec => ([d], [])
  | _ => ([d], [a, b])

/-- The member of the special-function unit, for the members of R163. -/
def vecSfn : Vop → Option SfnFn
  | .exp2 => some .exp2
  | .log2 => some .log2
  | .rcp => some .rcp
  | .rsq => some .rsq
  | .tanh => some .tanh
  | .sigm => some .sigm
  | .sin => some .sin
  | .cos => some .cos
  | _ => none

/-- All floating point, or all integer (R171). -/
def sameKind (ts : List VTok) : Bool := ts.all VTok.isF || ts.all VTok.isI
/-- A source has enough elements for `n` lanes, or one that serves them all (R169). -/
def VTok.serves (t : VTok) (n : Nat) : Bool := decide (n ≤ t.cnt) || t.cnt == 1

/-- A row descriptor is well formed (R199). -/
def rowDescOk (v : Nat) : Bool :=
  bits v 63 48 == 0 && bits v 31 20 == 0 && bits v 19 18 != 3 && decide (1 ≤ bits v 17 11)

/-- The kind of the slot that a row descriptor names, as the slot holds it (R182, R199; notes/assumptions 139). -/
def State.rowKind (s : State) (l : Loc) (desc : Nat) : Nat := ((s.polder l).slotAt (bits desc 4 0)).kind

/-- The row and the count of a descriptor are those that its slot's kind allows (R190, R199). -/
def State.rowFits (s : State) (l : Loc) (desc : Nat) : Bool :=
  decide (bits desc 17 11 ≤ if s.rowKind l desc = 1 then 32 else 64)

/-- The member is a `VPOPA`. -/
def popaOp : Vop → Bool
  | .popaNone => true
  | .popaRelu => true
  | .popaClamp => true
  | _ => false

/-- The types and counts of the operands suit the member (R169-R185). -/
def vecKindsOk (op : Vop) (l r x : Nat) : Bool :=
  let d := vtok l
  let a := vtok r
  let b := vtok x
  let three := sameKind [d, a, b] && a.serves d.cnt && b.serves d.cnt
  let ints := d.isI && a.isI && b.isI && a.serves d.cnt && b.serves d.cnt
  let two := sameKind [d, a] && a.serves d.cnt
  let red := sameKind [d, a] && d.cnt == 1 && decide (1 ≤ a.cnt)
  let popa := rowDescOk l && decide (a.cnt ≤ bits l 17 11)
  match op with
  | .add => three
  | .sub => three
  | .mul => three
  | .div => three
  | .min => three
  | .max => three
  | .and => ints
  | .or => ints
  | .xor => ints
  | .shl => ints
  | .shr => ints
  | .fma => three && d.isF
  | .neg => two
  | .abs => two
  | .cpy => a.serves d.cnt
  | .redSum => red
  | .redMax => red
  | .redMin => red
  | .redAmax => red
  | .scanInc => two
  | .scanExc => two
  | .gath => b.isI && b.serves d.cnt
  | .scat => b.isI && decide (a.cnt ≤ b.cnt)
  | .msk => b.isMask && a.serves d.cnt && b.serves d.cnt
  | .sel => b.isMask && a.serves d.cnt && b.serves d.cnt
  | .cmp _ => d.isMask && sameKind [a, b] && a.serves d.cnt && b.serves d.cnt
  | .bcast => true
  | .popaNone => popa
  | .popaRelu => popa
  | .popaClamp => popa
  | .permRev => decide (d.cnt ≤ a.cnt)
  | .permIntl => decide (d.cnt ≤ a.cnt) && d.cnt % 2 == 0
  | .permDintl => decide (d.cnt ≤ a.cnt) && d.cnt % 2 == 0
  | .permRot => decide (d.cnt ≤ a.cnt)
  | .qnt => a.isF && a.serves d.cnt && d.gran && d.bs && tyScaled d.ty
  | .enc _ => a.ty == 0x14 && !a.gran && !a.bs
  | .dec => d.isF
  | _ => two && d.isF

/-- Bytes `a` to `a + n - 1` may be stored to by checks 2 to 6 of R108, `al` being the alignment; the cause, 0 if none. -/
def State.storeSpan (s : State) (l : Loc) (a n al : Nat) : Nat :=
  if a % al ≠ 0 then 3
  else if n = 0 then 0
  else
    let ends := [s.storeRange l a 1, s.storeRange l (a + n - 1) 1].find? fun c => c != 0
    match homePlace l a, homePlace l (a + n - 1) with
    | some p, some q =>
      if p.space ≠ q.space ∨ q.off ≠ p.off + n - 1 then 7
      else (((List.range (n / 128 + 2)).map fun i => s.storeCause l (min (a + 128 * i) (a + n - 1)) 1).find? fun c => c != 0).getD
        (ends.getD 0)
    | _, _ => 7

/-- The checks of a vector instruction in R169's order: cause and address, cause 0 when it may be dispatched. -/
def State.vecCause (s : State) (l : Loc) (op : Vop) (tl tr tx : Nat) : Nat × Nat :=
  let ds := (vecArrays op tl tr tx).1
  let ss := (vecArrays op tl tr tx).2
  let isQnt := op == .qnt
  let strays (ts : List VTok) : Option VTok := ts.find? fun t => !t.inCore
  let encLen : Nat := match op with
    | .enc t => encBlockMax t * ceilDiv (vtok tr).cnt 32
    | _ => 0
  if !(ds.all fun t => t.formOk (!isQnt)) || !(ss.all fun t => t.formOk false) || !vecKindsOk op tl tr tx
      || (popaOp op && !s.rowFits l tl) then (1, 0)
  else match (ds ++ ss).find? fun t => !t.alignOk with
    | some t => (3, t.addr)
    | none =>
      match strays ss, strays ds with
      | some t, _ => (4, t.addr)
      | none, some t => (7, t.addr)
      | none, none =>
        match op with
        | .enc _ =>
          if s.storeSpan l tl encLen 2 ≠ 0 then (s.storeSpan l tl encLen 2, tl) else (s.storeSpan l tx 4 4, tx)
        | .dec => if tr % 2 = 0 then (0, 0) else (3, tr)
        | _ => (0, 0)

/-- A vector instruction fires: a null does nothing, the checks are made, and the entry waits for commit (R169). -/
def fireVec (op : Vop) (p : Pred) (os : List Opnd) (s : State) : Host.Outcome State Fault Refusal :=
  slotStep (.firing p os .skip fun vs => .read fun s =>
    let l := (arg vs 0).toNat
    let r := (arg vs 1).toNat
    let x := (arg vs 2).toNat
    let c := s.vecCause s.focus.l op l r x
    if c.1 ≠ 0 then .fault c.1 0 c.2
    else .block s.focus.l fun b => { b with acts := b.acts ++ [(s.focus.slot, .ring (.vec op l r x))] }) s

/-! ## The instructions (R173-R185) -/

/-- `VADD` (R173). -/
def execVadd (s : State) : Host.Outcome State Fault Refusal := fireVec .add .always [.l, .r, .x] s
/-- `VSUB` (R173). -/
def execVsub (s : State) : Host.Outcome State Fault Refusal := fireVec .sub .always [.l, .r, .x] s
/-- `VMUL` (R173). -/
def execVmul (s : State) : Host.Outcome State Fault Refusal := fireVec .mul .always [.l, .r, .x] s
/-- `VDIV` (R173). -/
def execVdiv (s : State) : Host.Outcome State Fault Refusal := fireVec .div .always [.l, .r, .x] s
/-- `VMIN` (R173). -/
def execVmin (s : State) : Host.Outcome State Fault Refusal := fireVec .min .always [.l, .r, .x] s
/-- `VMAX` (R173). -/
def execVmax (s : State) : Host.Outcome State Fault Refusal := fireVec .max .always [.l, .r, .x] s
/-- `VAND` (R173). -/
def execVand (s : State) : Host.Outcome State Fault Refusal := fireVec .and .always [.l, .r, .x] s
/-- `VOR` (R173). -/
def execVor (s : State) : Host.Outcome State Fault Refusal := fireVec .or .always [.l, .r, .x] s
/-- `VXOR` (R173). -/
def execVxor (s : State) : Host.Outcome State Fault Refusal := fireVec .xor .always [.l, .r, .x] s
/-- `VSHL` (R173). -/
def execVshl (s : State) : Host.Outcome State Fault Refusal := fireVec .shl .always [.l, .r, .x] s
/-- `VSHR` (R173). -/
def execVshr (s : State) : Host.Outcome State Fault Refusal := fireVec .shr .always [.l, .r, .x] s
/-- `VFMA` (R174). -/
def execVfma (s : State) : Host.Outcome State Fault Refusal := fireVec .fma .always [.l, .r, .x] s
/-- `VNEG` (R175). -/
def execVneg (p : Pred) (s : State) : Host.Outcome State Fault Refusal := fireVec .neg p [.l, .r] s
/-- `VABS` (R175). -/
def execVabs (p : Pred) (s : State) : Host.Outcome State Fault Refusal := fireVec .abs p [.l, .r] s
/-- `VCPY` (R175). -/
def execVcpy (p : Pred) (s : State) : Host.Outcome State Fault Refusal := fireVec .cpy p [.l, .r] s
/-- `VEXP2` (R175). -/
def execVexp2 (p : Pred) (s : State) : Host.Outcome State Fault Refusal := fireVec .exp2 p [.l, .r] s
/-- `VLOG2` (R175). -/
def execVlog2 (p : Pred) (s : State) : Host.Outcome State Fault Refusal := fireVec .log2 p [.l, .r] s
/-- `VRCP` (R175). -/
def execVrcp (p : Pred) (s : State) : Host.Outcome State Fault Refusal := fireVec .rcp p [.l, .r] s
/-- `VRSQ` (R175). -/
def execVrsq (p : Pred) (s : State) : Host.Outcome State Fault Refusal := fireVec .rsq p [.l, .r] s
/-- `VTANH` (R175). -/
def execVtanh (p : Pred) (s : State) : Host.Outcome State Fault Refusal := fireVec .tanh p [.l, .r] s
/-- `VSIGM` (R175). -/
def execVsigm (p : Pred) (s : State) : Host.Outcome State Fault Refusal := fireVec .sigm p [.l, .r] s
/-- `VSIN` (R175). -/
def execVsin (p : Pred) (s : State) : Host.Outcome State Fault Refusal := fireVec .sin p [.l, .r] s
/-- `VCOS` (R175). -/
def execVcos (p : Pred) (s : State) : Host.Outcome State Fault Refusal := fireVec .cos p [.l, .r] s
/-- `VRED_SUM` (R176). -/
def execVredSum (p : Pred) (s : State) : Host.Outcome State Fault Refusal := fireVec .redSum p [.l, .r] s
/-- `VRED_MAX` (R176). -/
def execVredMax (p : Pred) (s : State) : Host.Outcome State Fault Refusal := fireVec .redMax p [.l, .r] s
/-- `VRED_MIN` (R176). -/
def execVredMin (p : Pred) (s : State) : Host.Outcome State Fault Refusal := fireVec .redMin p [.l, .r] s
/-- `VRED_AMAX` (R176). -/
def execVredAmax (p : Pred) (s : State) : Host.Outcome State Fault Refusal := fireVec .redAmax p [.l, .r] s
/-- `VSCAN_INC` (R177). -/
def execVscanInc (p : Pred) (s : State) : Host.Outcome State Fault Refusal := fireVec .scanInc p [.l, .r] s
/-- `VSCAN_EXC` (R177). -/
def execVscanExc (p : Pred) (s : State) : Host.Outcome State Fault Refusal := fireVec .scanExc p [.l, .r] s
/-- `VGATH` (R178). -/
def execVgath (s : State) : Host.Outcome State Fault Refusal := fireVec .gath .always [.l, .r, .x] s
/-- `VSCAT` (R178). -/
def execVscat (s : State) : Host.Outcome State Fault Refusal := fireVec .scat .always [.l, .r, .x] s
/-- `VMSK` (R179). -/
def execVmsk (s : State) : Host.Outcome State Fault Refusal := fireVec .msk .always [.l, .r, .x] s
/-- `VBCAST` (R180). -/
def execVbcast (p : Pred) (s : State) : Host.Outcome State Fault Refusal := fireVec .bcast p [.l, .r] s
/-- `VPOPA_NONE` (R182). -/
def execVpopaNone (s : State) : Host.Outcome State Fault Refusal := fireVec .popaNone .always [.l, .r, .x] s
/-- `VPOPA_RELU` (R182). -/
def execVpopaRelu (s : State) : Host.Outcome State Fault Refusal := fireVec .popaRelu .always [.l, .r, .x] s
/-- `VPOPA_CLAMP` (R182). -/
def execVpopaClamp (s : State) : Host.Outcome State Fault Refusal := fireVec .popaClamp .always [.l, .r, .x] s
/-- `VCMP` (R179). -/
def execVcmp (c : VCond) (s : State) : Host.Outcome State Fault Refusal := fireVec (.cmp c) .always [.l, .r, .x] s
/-- `VSEL` (R179). -/
def execVsel (s : State) : Host.Outcome State Fault Refusal := fireVec .sel .always [.l, .r, .x] s
/-- `VPERM_REV` (R181). -/
def execVpermRev (p : Pred) (s : State) : Host.Outcome State Fault Refusal := fireVec .permRev p [.l, .r] s
/-- `VPERM_INTL` (R181). -/
def execVpermIntl (p : Pred) (s : State) : Host.Outcome State Fault Refusal := fireVec .permIntl p [.l, .r] s
/-- `VPERM_DINTL` (R181). -/
def execVpermDintl (p : Pred) (s : State) : Host.Outcome State Fault Refusal := fireVec .permDintl p [.l, .r] s
/-- `VPERM_ROT` (R181). -/
def execVpermRot (s : State) : Host.Outcome State Fault Refusal := fireVec .permRot .always [.l, .r, .x] s
/-- `VQNT` (R183). -/
def execVqnt (p : Pred) (s : State) : Host.Outcome State Fault Refusal := fireVec .qnt p [.l, .r] s
/-- `VENC` (R184). -/
def execVenc (n : CodeTable) (s : State) : Host.Outcome State Fault Refusal := fireVec (.enc n) .always [.l, .r, .x] s
/-- `VDEC` (R185). -/
def execVdec (p : Pred) (s : State) : Host.Outcome State Fault Refusal := fireVec .dec p [.l, .r] s

/-! ## Elements (R143, R144, R168) -/

/-- Bit offset of an element from the array's first byte. -/
def VTok.bitAt (t : VTok) (i : Nat) : Nat :=
  let p := max 1 (perRow t.ty)
  if t.gran then 256 * (i / p) + tyWidth t.ty * (i % p) else tyWidth t.ty * i

/-- The element that serves lane `i` (R169). -/
def VTok.lane (t : VTok) (i : Nat) : Nat := if t.cnt = 1 then 0 else i

/-- Bytes that hold an element, from its first byte. -/
def VTok.eltBytes (t : VTok) (i : Nat) : Nat := (t.bitAt i % 8 + tyWidth t.ty + 7) / 8

/-- The place of the first byte of an element. -/
def VTok.eltPlace (t : VTok) (l : Loc) (i : Nat) : Place :=
  match homePlace l t.addr with
  | some p => { p with off := p.off + t.bitAt i / 8 }
  | none => ⟨l.toPolder, 2, 0⟩

/-- The bits of an element. -/
def State.eltBits (s : State) (l : Loc) (t : VTok) (i : Nat) : Nat :=
  natOfBytes ((s.placeBytes (t.eltPlace l i) (t.eltBytes i)).getD []) / 2 ^ (t.bitAt i % 8) % 2 ^ tyWidth t.ty

/-- The sidecar key of the granule row that holds an element. -/
def VTok.sideKey (t : VTok) (l : Loc) (i : Nat) : Nat :=
  let p := t.eltPlace l i
  keyIn p.owner 2 p.off / 32

/-- The value of an element, with its block scale (R144). -/
def State.eltVal (s : State) (l : Loc) (t : VTok) (i : Nat) : Num :=
  let v := decodeTy t.ty (s.eltBits l t i)
  if t.bs then v.blockScale (s.side.get (t.sideKey l i)).toNat else v

/-- The value of an integer element. -/
def State.eltInt (s : State) (l : Loc) (t : VTok) (i : Nat) : Int :=
  match tyInt t.ty with
  | some (w, true) => signedOf w (s.eltBits l t i)
  | _ => (s.eltBits l t i : Nat)

/-- Write an element; bits outside it keep their values, but a 6-bit row's last four are zeroed (R170). -/
def Act.putElt (l : Loc) (t : VTok) (i v : Nat) : Act :=
  .seq (.read fun s =>
    let p := t.eltPlace l i
    let n := t.eltBytes i
    let w := tyWidth t.ty
    let o := t.bitAt i % 8
    let old := natOfBytes ((s.placeBytes p n).getD [])
    .writePlace p (bytesOf n (old % 2 ^ o + field v w o + old / 2 ^ (o + w) * 2 ^ (o + w))))
    (.when (tyWidth t.ty == 6) (.read fun s =>
      let q := t.eltPlace l (i / 42 * 42)
      let e : Place := { q with off := q.off + 31 }
      .writePlace e [((s.placeBytes e 1).getD []).getD 0 0#8 &&& 0x0F#8]))

/-! ## Element arithmetic (R171, R173-R183) -/

/-- The result of a float member on exact values (R173); `VNEG` and `VABS` of a NaN give the default NaN (R152; notes/assumptions 31). -/
def vecFloat (op : Vop) (rm : Nat) (a b d : Num) : Num × Nat :=
  match op with
  | .add => a.add rm b
  | .sub => a.add rm b.negate
  | .mul => a.mul b
  | .div => a.div b
  | .min => a.min b
  | .max => a.max b
  | .fma =>
    let p := a.mul b
    let q := p.1.add rm d
    (q.1, Nat.lor p.2 q.2)
  | .neg => (a.negate, flagIf a.isSig fNv)
  | .abs => (a.abs, flagIf a.isSig fNv)
  | _ => (a, 0)

/-- The result of an integer member, before wrapping to the destination's width `w` (R173, R175); sources of
another type enter division and comparison as they are (notes/assumptions 159). -/
def vecInt (op : Vop) (w : Nat) (signed : Bool) (a b : Int) (amt : Nat) : Int :=
  let x := wrapOf w a
  let y := wrapOf w b
  match op with
  | .add => a + b
  | .sub => a - b
  | .mul => a * b
  | .div => if b = 0 then -1 else Int.tdiv a b
  | .min => min a b
  | .max => max a b
  | .and => (Nat.land x y : Nat)
  | .or => (Nat.lor x y : Nat)
  | .xor => (Nat.xor x y : Nat)
  | .shl => if w ≤ amt then 0 else (x * 2 ^ amt : Nat)
  | .shr => if signed then signedOf w x / ((2 ^ min amt w : Nat) : Int) else (x / 2 ^ min amt w : Nat)
  | .neg => -a
  | .abs => (a.natAbs : Nat)
  | _ => a

/-- Condition of `VCMP` on exact values, with its flags (R179). -/
def vecCmpF (c : VCond) (a b : Num) : Nat × Nat :=
  let q := a.isNan || b.isNan
  let fl := match c with
    | .eq => flagIf (a.isSig || b.isSig) fNv
    | .ne => flagIf (a.isSig || b.isSig) fNv
    | _ => flagIf q fNv
  let v := match c with
    | .eq => a.eq b
    | .ne => !a.eq b
    | .lt => a.lt b
    | .le => !q && !b.lt a
    | .gt => b.lt a
    | .ge => !q && !a.lt b
  (boolNat v, fl)

/-- Condition of `VCMP` on integers (R179). -/
def vecCmpI (c : VCond) (a b : Int) : Nat :=
  boolNat (match c with
    | .eq => decide (a = b)
    | .ne => decide (a ≠ b)
    | .lt => decide (a < b)
    | .le => decide (a ≤ b)
    | .gt => decide (b < a)
    | .ge => decide (b ≤ a))

/-- The format in which sums run (R176): `f64` if any operand is `f64`. -/
def sumFmt (d a : VTok) : Fmt := if d.ty = 0x10 ∨ a.ty = 0x10 then .f64 else .f32

/-- The fixed tree of R176 over codes of a format: sum and flags. -/
def sumTree (F : Fmt) : Nat → List Nat → Nat × Nat
  | 0, xs => (xs.headD 0, 0)
  | n + 1, xs =>
    if xs.length < 2 then (xs.headD 0, 0)
    else
      let h := 2 ^ Nat.log2 (xs.length - 1)
      let a := sumTree F n (xs.take h)
      let b := sumTree F n (xs.drop h)
      let r := F.addRne a.1 b.1
      (r.1, Nat.lor r.2 (Nat.lor a.2 b.2))

/-- The one result of a reduction; its one narrowing rounds by `cw.fm.rm` (R150, R156, R176; notes/assumptions 132). `MAX`, `MIN`
and `AMAX` choose among the exact values (notes/assumptions 159). -/
def State.vecRed (s : State) (l : Loc) (rm : Nat) (op : Vop) (d a : VTok) : Nat × Nat :=
  let is := List.range a.cnt
  if a.isF then
    let vs := is.map (s.eltVal l a)
    let sig := flagIf (vs.any Num.isSig) fNv
    let pick (f : Num → Num → Num) (xs : List Num) : Num := xs.foldl f (.nan false)
    match op with
    | .redSum =>
      let F := sumFmt d a
      let cs := vs.map (F.narrow 0)
      let t := sumTree F 17 (cs.map Prod.fst)
      let r := narrowTy d.ty rm (F.decode t.1)
      (r.1, Nat.lor r.2 (Nat.lor t.2 (orAll (cs.map Prod.snd))))
    | .redMax => let r := narrowTy d.ty rm (pick (fun x y => (x.max y).1) vs); (r.1, Nat.lor sig r.2)
    | .redMin => let r := narrowTy d.ty rm (pick (fun x y => (x.min y).1) vs); (r.1, Nat.lor sig r.2)
    | _ => let r := narrowTy d.ty rm (pick (fun x y => (x.max y).1) (vs.map Num.abs)); (r.1, Nat.lor sig r.2)
  else
    let vs := is.map (s.eltInt l a)
    let v : Int := match op with
      | .redSum => vs.foldl (· + ·) 0
      | .redMax => vs.foldl max (vs.headD 0)
      | .redMin => vs.foldl min (vs.headD 0)
      | _ => vs.foldl (fun m x => max m x.natAbs) 0
    (wrapOf (tyWidth d.ty) v, 0)

/-- An epilogue word's output scale, 1.0 as none (R182). -/
def popaScale (x : Nat) : Option Num :=
  let sc := bits x 31 0
  if sc = 0 ∨ sc = 0x3F800000 then none else some (Fmt.f32.decode sc)

/-- The key of the first byte of an accumulator element of a row descriptor (R190, R199). -/
def State.accOff (s : State) (l : Loc) (desc i : Nat) : Nat :=
  0x4000 * bits desc 4 0 + if s.rowKind l desc = 1 then (bits desc 10 5 * 32 + i) * 8 else (bits desc 10 5 * 64 + i) * 4

/-- The key of that element. -/
def State.accKey (s : State) (l : Loc) (desc i : Nat) : Nat :=
  keyIn l.toPolder 3 ((s.polder l).bank * 0x80000 + s.accOff l desc i)

/-- Element `i` of the row that `VPOPA` drains, scaled, clamped and narrowed (R182). -/
def State.vecPopa (s : State) (l : Loc) (rm : Nat) (op : Vop) (desc x : Nat) (d : VTok) (i : Nat) : Nat × Nat :=
  let f64 := s.rowKind l desc == 1
  let raw := s.num (s.accKey l desc i) (if f64 then 8 else 4)
  let F : Fmt := if f64 then .f64 else .f32
  let v : Num := if s.rowKind l desc = 2 then .ofInt (signedOf 32 raw) else F.decode raw
  let scaled : Num × Nat := match popaScale x with
    | some sc =>
      let r := F.finish rm (v.mul sc)
      (F.decode r.1, r.2)
    | none => (v, 0)
  let lo := Fmt.bf16.decode (bits x 47 32)
  let hi := Fmt.bf16.decode (bits x 63 48)
  let out : Num × Nat := match op with
    | .popaRelu => if scaled.1.isNan then (scaled.1, 0) else scaled.1.max (.fin false 0 0)
    | .popaClamp =>
      if scaled.1.isNan then (scaled.1, 0)
      else
        let m := scaled.1.max lo
        let n := m.1.min hi
        (n.1, Nat.lor m.2 n.2)
    | _ => (scaled.1, 0)
  let r := narrowTy d.ty rm out.1
  (r.1, Nat.lor r.2 (Nat.lor out.2 scaled.2))

/-- The source index of a permutation (R181). -/
def permIndex (op : Vop) (n k i : Nat) : Nat :=
  match op with
  | .permRev => n - 1 - i
  | .permIntl => if i % 2 = 0 then i / 2 else n / 2 + (i - 1) / 2
  | .permDintl => if i < n / 2 then 2 * i else 2 * (i - n / 2) + 1
  | _ => (i + k) % n

/-- The source elements that lane `i` of a member reads. -/
def State.laneReads (s : State) (l : Loc) (op : Vop) (tl tr tx : Nat) (i : Nat) : List (VTok × Nat) :=
  let d := vtok tl
  let a := vtok tr
  let b := vtok tx
  match op with
  | .gath =>
    let k := s.eltInt l b (b.lane i)
    if 0 ≤ k ∧ k < a.cnt then [(b, b.lane i), (a, k.toNat)] else [(b, b.lane i)]
  | .scat => [(b, i), (a, i)]
  | .msk => if s.eltBits l b (b.lane i) % 2 = 1 then [(b, b.lane i), (a, a.lane i)] else [(b, b.lane i)]
  | .sel => if s.eltBits l b (b.lane i) % 2 = 1 then [(b, b.lane i), (a, a.lane i)] else [(b, b.lane i)]
  | .fma => [(a, a.lane i), (b, b.lane i), (d, i)]
  | .permRev => [(a, permIndex op d.cnt 0 i)]
  | .permIntl => [(a, permIndex op d.cnt 0 i)]
  | .permDintl => [(a, permIndex op d.cnt 0 i)]
  | .permRot => [(a, permIndex op d.cnt tx i)]
  | .enc _ => [(a, i)]
  | .redSum => [(a, i)]
  | .redMax => [(a, i)]
  | .redMin => [(a, i)]
  | .redAmax => [(a, i)]
  | _ => (vecArrays op tl tr tx).2.map fun t => (t, t.lane i)

/-- Lane `i` of a member that treats its lanes alike: the element written and its value, if any, and the flags. -/
def State.vecLane (s : State) (l : Loc) (rm : Nat) (op : Vop) (tl tr tx : Nat) (i : Nat) : Option (Nat × Nat) × Nat :=
  let d := vtok tl
  let a := vtok tr
  let b := vtok tx
  let w := tyWidth d.ty
  let av : Num := s.eltVal l a (a.lane i)
  let conv (t : VTok) (j : Nat) : Option (Nat × Nat) × Nat :=
    let r := narrowTy d.ty rm (s.eltVal l t j)
    (some (i, r.1), r.2)
  match op with
  | .cpy => conv a (a.lane i)
  | .gath =>
    let k := s.eltInt l b (b.lane i)
    if 0 ≤ k ∧ k < a.cnt then conv a k.toNat else (some (i, 0), 0)
  | .scat =>
    let k := s.eltInt l b i
    if 0 ≤ k ∧ k < d.cnt then
      let r := narrowTy d.ty rm (s.eltVal l a i)
      (some (k.toNat, r.1), r.2)
    else (none, 0)
  | .msk => if s.eltBits l b (b.lane i) % 2 = 1 then conv a (a.lane i) else (none, 0)
  | .sel => if s.eltBits l b (b.lane i) % 2 = 1 then conv a (a.lane i) else (some (i, 0), 0)
  | .cmp c =>
    if a.isF then
      let r := vecCmpF c av (s.eltVal l b (b.lane i))
      (some (i, r.1), r.2)
    else
      let y : Int := match tyInt a.ty with
        | some (_, true) => signedOf (tyWidth b.ty) (s.eltBits l b (b.lane i))
        | _ => (s.eltBits l b (b.lane i) : Nat)
      (some (i, vecCmpI c (s.eltInt l a (a.lane i)) y), 0)
  | .bcast => (some (i, tr % 2 ^ w), 0)
  | .permRev => conv a (permIndex op d.cnt 0 i)
  | .permIntl => conv a (permIndex op d.cnt 0 i)
  | .permDintl => conv a (permIndex op d.cnt 0 i)
  | .permRot => conv a (permIndex op d.cnt tx i)
  | .popaNone => let r := s.vecPopa l rm op tl tx a i; (some (i, r.1), r.2)
  | .popaRelu => let r := s.vecPopa l rm op tl tx a i; (some (i, r.1), r.2)
  | .popaClamp => let r := s.vecPopa l rm op tl tx a i; (some (i, r.1), r.2)
  | _ =>
    match vecSfn op, tyFmt d.ty with
    | some fn, _ =>
      let x := Fmt.f32.narrow rm av
      let y := sfn fn x.1
      let r := narrowTy d.ty rm (Fmt.f32.decode y.1)
      (some (i, r.1), Nat.lor r.2 (Nat.lor x.2 y.2))
    | none, some F =>
      let r := F.finish rm (vecFloat op rm av (s.eltVal l b (b.lane i)) (s.eltVal l d i))
      (some (i, r.1), r.2)
    | none, none =>
      let sg := (tyInt d.ty).any fun q => q.2
      let v := vecInt op w sg (s.eltInt l a (a.lane i)) (s.eltInt l b (b.lane i)) (s.eltBits l b (b.lane i))
      (some (i, wrapOf w v), 0)

/-- Largest exponent of a block-scaled type (R183). -/
def qntEmax : Nat → Int
  | 0x14 => 8
  | 0x15 => 15
  | 0x17 => 4
  | _ => 2

/-- The scale byte of a row of values (R183). -/
def qntScale (ty : Nat) (vs : List Num) : Nat :=
  match vs.foldl (fun (m : Num) v => (m.max v.abs).1) (.nan false) with
  | .nan _ => 127
  | .inf _ => 254
  | .fin _ m e => if m = 0 then 127 else (max 0 (min (e + bitCount m - 1 - qntEmax ty + 127) 254)).toNat

/-- The running sum after lane `i` of a scan, in the format of R177, or as an integer. -/
def State.scanNext (s : State) (l : Loc) (d a : VTok) (acc i : Nat) : Nat × Nat :=
  if a.isF then
    let F := sumFmt d a
    let x := F.narrow 0 (s.eltVal l a (a.lane i))
    let r := F.addRne acc x.1
    (r.1, Nat.lor r.2 x.2)
  else (wrapOf (tyWidth d.ty) (acc + s.eltInt l a (a.lane i)), 0)

/-- The lanes of a scan from a running sum: writes, flags and the sum after them (R177). -/
def State.vecScan (s : State) (l : Loc) (rm : Nat) (exc : Bool) (d a : VTok) : List Nat → Nat → List (Nat × Nat) × Nat × Nat
  | [], acc => ([], 0, acc)
  | i :: is, acc =>
    let n := s.scanNext l d a acc i
    let out := if exc then acc else n.1
    let r := if a.isF then narrowTy d.ty rm ((sumFmt d a).decode out) else (out, 0)
    let rest := s.vecScan l rm exc d a is n.1
    ((i, r.1) :: rest.1, Nat.lor (Nat.lor n.2 r.2) rest.2.1, rest.2.2)

/-! ## Beats (R170) -/

/-- What a beat does: elements written of the destination array, scale bytes of rows, bytes at home addresses, flags, and
the value that the entry carries on. -/
structure Beat where
  dst : VTok
  elts : List (Nat × Nat)
  scales : List (Nat × Nat)
  raw : List (Nat × List Byte)
  flags : Nat
  acc : Nat
  deriving DecidableEq, Repr, Inhabited

/-- The lanes that an entry runs over (R169, R176, R178, R184): none if its destination has no element. -/
def vecCount (op : Vop) (l r x : Nat) : Nat :=
  if (vecArrays op l r x).1.any fun t => t.cnt == 0 then 0
  else match op with
    | .redSum => (vtok r).cnt
    | .redMax => (vtok r).cnt
    | .redMin => (vtok r).cnt
    | .redAmax => (vtok r).cnt
    | .scat => (vtok r).cnt
    | .enc _ => (vtok r).cnt
    | .popaNone => (vtok r).cnt
    | .popaRelu => (vtok r).cnt
    | .popaClamp => (vtok r).cnt
    | _ => (vtok l).cnt

/-- Lanes of a beat (R170); a beat of `VQNT` is one row (R183). -/
def vecLanes (op : Vop) (l r x : Nat) : Nat :=
  let ts := (vecArrays op l r x).1 ++ (vecArrays op l r x).2
  let acc := match op with
    | .popaNone => if bits l 19 18 = 1 then 64 else 32
    | .popaRelu => if bits l 19 18 = 1 then 64 else 32
    | .popaClamp => if bits l 19 18 = 1 then 64 else 32
    | _ => 8
  if (vecSfn op).isSome then 16
  else match op with
    | .qnt => max 1 (perRow (vtok l).ty)
    | .enc _ => 64
    | _ => 512 / (ts.map fun t => tyWidth t.ty).foldl max acc

/-- A member reduces its whole source to one element. -/
def isReduction : Vop → Bool
  | .redSum => true
  | .redMax => true
  | .redMin => true
  | .redAmax => true
  | _ => false

/-- The home address of block `k` of the stream that `VENC` writes, with its bytes, for the blocks of a beat. -/
def State.encBlocks (s : State) (l : Loc) (t : CodeTable) (a : VTok) (addr : Nat) : List Nat → Nat → List (Nat × List Byte) × Nat
  | [], off => ([], off)
  | j :: js, off =>
    let xs := ((List.range (min 32 (a.cnt - j))).map fun i => s.eltBits l a (j + i))
    let bs := encodeBlock t xs
    let rest := s.encBlocks l t a addr js (off + bs.length)
    ((addr + off, bs) :: rest.1, rest.2)

/-- The beat of an entry over lanes `lo` to `hi - 1` of `n` (R170). -/
def State.beatOf (s : State) (e : RingEntry) (op : Vop) (l r x lo hi n : Nat) : Beat :=
  let o := e.owner
  let d := vtok (match op with
    | .popaNone => r
    | .popaRelu => r
    | .popaClamp => r
    | _ => l)
  let a := vtok r
  let is := (List.range (hi - lo)).map fun i => lo + i
  match op with
  | .scanInc => let q := s.vecScan o e.rm false d a is e.acc; ⟨d, q.1, [], [], q.2.1, q.2.2⟩
  | .scanExc => let q := s.vecScan o e.rm true d a is e.acc; ⟨d, q.1, [], [], q.2.1, q.2.2⟩
  | .qnt =>
    let vs := is.map fun i => s.eltVal o a (a.lane i)
    let g := qntScale d.ty vs
    let cs := vs.map fun v => narrowTy d.ty e.rm (v.scale (127 - (g : Int)))
    let row := (List.range (perRow d.ty)).map fun j => (lo + j, (cs.getD j (0, 0)).1)
    ⟨d, row, [(d.sideKey o lo, g)], [], orAll (cs.map Prod.snd), 0⟩
  | .enc t =>
    let q := s.encBlocks o t a l ((List.range ((hi - lo + 31) / 32)).map fun j => lo + 32 * j) e.acc
    ⟨d, [], [], q.1 ++ (if hi = n then [(x, bytesOf 4 q.2)] else []), 0, q.2⟩
  | .dec =>
    let cs := is.map fun i => (i, narrowTy d.ty e.rm (Fmt.e4m3.decode (e.buf.getD i 0#8).toNat))
    ⟨d, cs.map fun c => (c.1, c.2.1), [], [], orAll (cs.map fun c => c.2.2), 1⟩
  | _ =>
    if isReduction op then
      if hi = n then
        let q := s.vecRed o e.rm op d a
        ⟨d, [(0, q.1)], [], [], q.2, 0⟩
      else ⟨d, [], [], [], 0, 0⟩
    else
      let cs := is.map (s.vecLane o e.rm op l r x)
      ⟨d, cs.filterMap Prod.fst, [], [], orAll (cs.map Prod.snd), 0⟩

/-- The cause that ends an entry at a beat, and its address: an uncorrectable error in a source (0x11), or a write that a
workspace, a registered span or a pinned version refuses (0x08) (R63, R170, R276, R322). -/
def State.beatCause (s : State) (o : Loc) (op : Vop) (l r x lo hi : Nat) (b : Beat) : Nat × Nat :=
  let is := (List.range (hi - lo)).map fun i => lo + i
  let reads := is.flatMap (s.laneReads o op l r x)
  let bad (q : VTok × Nat) : Bool :=
    let p := q.1.eltPlace o q.2
    s.eccHit (keyIn p.owner 2 p.off) (q.1.eltBytes q.2) || (q.1.bs && s.sideHit (keyIn p.owner 2 p.off))
  let taken (p : Place) (n : Nat) : Bool :=
    s.workspaceHit p n || s.pinHit p n || (match s.keyOf p with
      | some k => (s.lockHit p.owner k n false).isSome
      | none => true)
  let acc := if popaOp op then is.find? fun i => s.eccHit (s.accKey o l i) (if s.rowKind o l = 1 then 8 else 4) else none
  let hitElt (q : Nat × Nat) : Bool := taken (b.dst.eltPlace o q.1) (b.dst.eltBytes q.1)
  let hitRaw (q : Nat × List Byte) : Bool := match homePlace o q.1 with
    | some p => taken p q.2.length
    | none => true
  match reads.find? bad, acc with
  | some q, _ => (0x11, q.1.addr + q.1.bitAt q.2 / 8)
  | none, some i => (0x11, s.accOff o l i)
  | none, none =>
    match b.elts.find? hitElt, b.raw.find? hitRaw with
    | some q, _ => (8, b.dst.addr + b.dst.bitAt q.1 / 8)
    | none, some q => (8, q.1)
    | none, none => (0, 0)

/-- Write what a beat writes. -/
def Act.writeBeat (o : Loc) (b : Beat) : Act := .all [
  .each b.elts (fun q => .putElt o b.dst q.1 q.2),
  .each b.scales (fun q => .fx (.sideByte q.1 (BitVec.ofNat 8 q.2))),
  .each b.raw (fun q => .writeHome o q.1 q.2)]

/-! ## The vector unit (R163, R170, R185) -/

/-- The entry that the vector unit of a core works on: its oldest that is not complete. -/
def CoreState.vecHead (c : CoreState) : Option RingEntry := c.ring.find? fun e => e.op.unit == .vector && e.phase != .complete

/-- Let the unit go on in the next cycle. -/
def Act.vecNext (c : Loc) : Act := .event 1 (.vectorBeat c.toCore)

/-- Run the beat that an entry has reached; the last one, or a failing one, completes it. -/
def Act.vecRun (c : Loc) (e : RingEntry) (op : Vop) (l r x : Nat) : Act :=
  .read fun s =>
    let n := vecCount op l r x
    let lo := e.beat
    let hi := min n (lo + vecLanes op l r x)
    let isEnc := match op with
      | .enc _ => true
      | _ => false
    let seq := e.seq.toNat
    if n = 0 ∧ !isEnc then .complete c seq 0 0 0
    else
      let b := s.beatOf e op l r x lo hi n
      let q := s.beatCause e.owner op l r x lo hi b
      if q.1 ≠ 0 then .seq (.when (q.1 == 0x11) (.count c 0x358)) (.complete c seq q.1 q.2 0)
      else .all [
        .writeBeat e.owner b,
        .entry c seq (fun y => { y with beat := hi, acc := b.acc, flags := Nat.lor y.flags b.flags }),
        .when (decide (hi = n)) (.complete c seq 0 0 0)]

/-- Ask for the next line of the stream that a `VDEC` reads (R130, R185). -/
def Act.vdecAsk (c : Loc) (e : RingEntry) (a : Nat) : Act :=
  .read fun s =>
    let id := (s.polder c).xferId
    let n := 64 - a % 64
    .all [
      .polder c fun q => { q with xferId := id + 1 },
      .entry c e.seq.toNat fun y => { y with rid := id },
      .submit ⟨e.owner, e.part, e.pasid, a, n, e.sup, .line id 0, false⟩]

/-- A line of a `VDEC` stream has been answered: a failure ends the entry, a decode fault ends it before any element is
written, and the whole row starts the beats (R147, R185). -/
def Act.vdecLine (c : Loc) (e : RingEntry) (ans : Answer) : Act :=
  match e.op with
  | .vec _ l r _ =>
    let buf := e.buf ++ ans.data.take (64 - (r + e.buf.length) % 64)
    let seq := e.seq.toNat
    let e' : RingEntry := { e with buf := buf }
    if ans.cause ≠ 0 then .all [.noteDry c seq ans.cause, .complete c seq ans.cause ans.addr 0, .vecNext c]
    else match decodeRow buf 0 (ceilDiv (vtok l).cnt 32) with
      | .bad off => .seq (.complete c seq 0x0E (r + off) 0) (.vecNext c)
      | .short => .seq (.entry c seq fun y => { y with buf := buf }) (.vdecAsk c e' (r + buf.length))
      | .elems xs _ => .seq (.entry c seq fun y => { y with buf := xs.map (BitVec.ofNat 8), rid := 0, acc := 1 }) (.vecNext c)
  | _ => .skip

/-- `VECTOR_BEAT`: one beat of the oldest vector entry; a special-function beat queues for its unit, and a `VDEC` first
reads its stream (R163, R170, R185). -/
def Act.vecTurn (c : Loc) : Act :=
  .read fun s =>
    match (s.core c).vecHead with
    | none => .core c fun k => { k with vecBusy := false }
    | some e =>
      match e.op with
      | .vec op l r x =>
        if e.phase = .dispatched ∧ !s.mayAccept c e then .core c fun k => { k with vecBusy := false }
        else .seq (.entry c e.seq.toNat fun y => { y with phase := .accepted })
          (if vecCount op l r x = 0 then .seq (.vecRun c e op l r x) (.vecNext c)
          else match vecSfn op with
            | some fn =>
              if (s.core c).sfu.length < 16 then .queueSfu c ⟨c.toCore, 0, e.seq.toNat, fn, 0⟩ else .vecNext c
            | none =>
              if op = .dec ∧ e.acc = 0 then .vdecAsk c e r
              else .seq (.vecRun c e op l r x) (.vecNext c))
      | _ => .skip

/-- `VECTOR_BEAT` (R170). -/
def execVectorBeat (s : State) : Host.Outcome State Fault Refusal :=
  match s.cur with
  | .vectorBeat c => done (.vecTurn c) s
  | _ => .next s

/-- `SFU_RESULT`: a beat's results are written, or a scalar result goes to its slot's targets with its flags unless the
request has been squashed (R163, R164). -/
def Act.sfuDone (c l : Loc) (epoch slot : Nat) (tok : Token) (flags : Nat) : Act :=
  .read fun s =>
    if epoch = 0 then
      match (s.core c).vecHead with
      | some e => (match e.op with
        | .vec op tl tr tx => .seq (.vecRun c e op tl tr tx) (.vecNext c)
        | _ => .skip)
      | none => .skip
    else match s.blockAt l epoch with
      | some b =>
        if b.fault.isSome || !b.out.contains slot then .skip
        else .all [
          .block l fun x => { x with out := x.out.filter (fun n => n != slot), flags := Nat.lor x.flags flags },
          .deliver l epoch slot 0 tok ((b.instrAt slot).elim [] targetsOf),
          .wake l, .settle l epoch]
      | none => .skip

/-- `SFU_RESULT` (R163). -/
def execSfuResult (s : State) : Host.Outcome State Fault Refusal :=
  match s.cur with
  | .sfuResult c l ep slot tok fl => done (.sfuDone c l ep slot tok fl) s
  | _ => .next s

end Sys2Proof.Machine
end

