-- ==== Sys2Proof/Machine/Matrix.lean ====
section
/-! DEFINITION. Matrix instructions and the matrix engine (spec/08 R187-R205, spec/09 R235, spec/12 R266-R274): checks at
firing and at acceptance, slot states, passes, `MACC`, and the pulls of `MROT`. -/

namespace Sys2Proof.Machine

/-! ## Pairs (R188) -/

/-- Types of A and B of a pair (R139, R188). -/
def pairTypes : MmaPair → Nat × Nat
  | .dd => (0x10, 0x10)
  | .ss => (0x11, 0x11)
  | .bb => (0x12, 0x12)
  | .hh => (0x13, 0x13)
  | .ee => (0x14, 0x14)
  | .ev => (0x14, 0x15)
  | .vv => (0x15, 0x15)
  | .bk => (0x12, 0x16)
  | .ek => (0x14, 0x16)
  | .qq => (0x19, 0x19)
  | .xx => (0x17, 0x17)
  | .yy => (0x18, 0x18)
  | .ii => (1, 1)
  | .nn => (9, 9)

/-- Elements of k that one pass takes (R188). -/
def pairK : MmaPair → Nat
  | .dd => 8
  | .ss => 4
  | .bb => 16
  | .hh => 16
  | .bk => 16
  | .qq => 64
  | .xx => 64
  | .yy => 64
  | .nn => 64
  | _ => 32

/-- The engine of a polder executes the pair (R188). -/
def pairRuns (p : MmaPair) (narrow : Bool) : Bool :=
  match p with
  | .dd => !narrow
  | .ss => !narrow
  | .bb => !narrow
  | .hh => !narrow
  | .bk => !narrow
  | .qq => narrow
  | .xx => narrow
  | .yy => narrow
  | .ii => narrow
  | .nn => narrow
  | _ => true

/-- Accumulator kind of a pair: 0 `f32`, 1 `f64`, 2 `i32` (R188, R203). -/
def pairAcc : MmaPair → Nat
  | .dd => 1
  | .ii => 2
  | .nn => 2
  | _ => 0

/-! ## The control word (R191) -/

/-- The bits of a control word that must be zero. -/
def ctlRsvOk (rot : Bool) (x : Nat) : Bool :=
  if rot then bits x 63 46 == 0 && !bit x 31 && !bit x 23 && !bit x 7 else x < 128

/-- The torus of a control word holds the polder, and its fields are in range (R192 check 3). -/
def ctlTorusOk (l : Loc) (x : Nat) : Bool :=
  let x0 := bits x 11 8
  let w := bits x 15 12
  let y0 := bits x 18 16
  let h := bits x 22 19
  let pb := bits x 28 24
  w != 0 && h != 0 && decide (x0 + w ≤ 12) && decide (y0 + h ≤ 8) && decide (5 ≤ pb) && decide (pb ≤ 20)
    && decide (x0 ≤ l.px) && decide (l.px < x0 + w) && decide (y0 ≤ l.py) && decide (l.py < y0 + h)

/-! ## Checks at firing (R192, R203, R204) -/

/-- Rows that an entry has reserved in the row queue of its context. -/
def RingOp.rowsAsked : RingOp → Nat
  | .mma _ _ a _ _ x => if bit x 6 then min ((shapeOf a).ext 1) 64 else 0
  | _ => 0

/-- Free entries of a context's row queue: neither occupied nor reserved by its unretired entries or by the block that is
firing (R192). -/
def State.rowRoom (s : State) (l : Loc) : Nat :=
  let inRing := (((s.core l).ring.filter fun e => e.owner == l).map fun e => e.op.rowsAsked).sum
  let inBlock := match (s.ctx l).block with
    | some b => (b.acts.map fun a => match a.2 with
      | .ring op => op.rowsAsked
      | _ => 0).sum
    | none => 0
  64 - ((s.ctx l).rowQ.length + inRing + inBlock)

/-- A home address of core memory (R192 check 5). -/
def inCoreRange (a : Nat) : Bool := a < 0x20000 || (0x100000 ≤ a && a < 0x200000)

/-- Home bytes `a` to `a + n - 1` lie in one core memory. -/
def inOneCore (a n : Nat) : Bool :=
  inCoreRange a && inCoreRange (a + n - 1) && a / 0x20000 == (a + n - 1) / 0x20000

/-- The checks of `MMA` and `MROT` in R192's order: cause, detail and address, cause 0 when the entry may be dispatched. -/
def State.mmaCause (s : State) (l : Loc) (p : MmaPair) (rot : Bool) (la ra x : Nat) : Nat × Nat × Nat :=
  if !pairRuns p l.narrow then (0x0A, 0, 0)
  else if !ctlRsvOk rot x || (rot && !ctlTorusOk l x) then (1, 0, 0)
  else if la % 32 ≠ 0 then (3, 0, la)
  else if ra % 32 ≠ 0 then (3, 0, ra)
  else if !inCoreRange la then (4, 0, la)
  else if !inCoreRange ra then (4, 0, ra)
  else
    let ecc (a : Nat) : Bool := (s.homeKey l a).any fun k => s.eccHit k 32
    if ecc la then (0x11, 0, la)
    else if ecc ra then (0x11, 0, ra)
    else if bit x 6 && decide (s.rowRoom l < min ((shapeOf (s.homeBytes l la 32)).ext 1) 64) then (2, 12, 0)
    else (0, 0, 0)

/-- `MMA` or `MROT` fires: the checks, then the two records are copied into the entry, which waits for commit (R192). -/
def fireMma (p : MmaPair) (rot : Bool) (s : State) : Host.Outcome State Fault Refusal :=
  slotStep (.firing .always [.l, .r, .x] .skip fun vs => .read fun s =>
    let l := s.focus.l
    let la := (arg vs 0).toNat
    let ra := (arg vs 1).toNat
    let x := (arg vs 2).toNat
    let c := s.mmaCause l p rot la ra x
    if c.1 ≠ 0 then .fault c.1 c.2.1 c.2.2
    else .block l fun b => { b with
      acts := b.acts ++ [(s.focus.slot, .ring (.mma p rot (s.homeBytes l la 32) (s.homeBytes l ra 32) la x))] }) s

/-- The checks of a slot word and an address (R203, R204): cause and address. -/
def maccCause (m : MaccOp) (l r : Nat) : Nat × Nat :=
  let kinded := m == .zero || m == .loada
  let moves := m == .loada || m == .storea
  if l / 128 ≠ 0 ∨ (if kinded then bits l 6 5 = 3 else bits l 6 5 ≠ 0) then (1, 0)
  else if !moves then (0, 0)
  else if r % 64 ≠ 0 then (3, r)
  else if !inCoreRange r || !inOneCore r 0x4000 then (4, r)
  else (0, 0)

/-- A member of `MACC` that enters the ring fires. -/
def fireMacc (m : MaccOp) (p : Pred) (os : List Opnd) (s : State) : Host.Outcome State Fault Refusal :=
  slotStep (.firing p os .skip fun vs => .read fun s =>
    let l := (arg vs 0).toNat
    let r := (arg vs 1).toNat
    let c := maccCause m l r
    if c.1 ≠ 0 then .fault c.1 0 c.2
    else .block s.focus.l fun b => { b with acts := b.acts ++ [(s.focus.slot, .ring (.macc m l r))] }) s

/-! ## The instructions (R187, R200, R203) -/

/-- `MMA.DD` (R188). -/
def execMmaDd (s : State) : Host.Outcome State Fault Refusal := fireMma .dd false s
/-- `MMA.SS` (R188). -/
def execMmaSs (s : State) : Host.Outcome State Fault Refusal := fireMma .ss false s
/-- `MMA.BB` (R188). -/
def execMmaBb (s : State) : Host.Outcome State Fault Refusal := fireMma .bb false s
/-- `MMA.HH` (R188). -/
def execMmaHh (s : State) : Host.Outcome State Fault Refusal := fireMma .hh false s
/-- `MMA.EE` (R188). -/
def execMmaEe (s : State) : Host.Outcome State Fault Refusal := fireMma .ee false s
/-- `MMA.EV` (R188). -/
def execMmaEv (s : State) : Host.Outcome State Fault Refusal := fireMma .ev false s
/-- `MMA.VV` (R188). -/
def execMmaVv (s : State) : Host.Outcome State Fault Refusal := fireMma .vv false s
/-- `MMA.BK` (R188). -/
def execMmaBk (s : State) : Host.Outcome State Fault Refusal := fireMma .bk false s
/-- `MMA.EK` (R188). -/
def execMmaEk (s : State) : Host.Outcome State Fault Refusal := fireMma .ek false s
/-- `MMA.QQ` (R188). -/
def execMmaQq (s : State) : Host.Outcome State Fault Refusal := fireMma .qq false s
/-- `MMA.XX` (R188). -/
def execMmaXx (s : State) : Host.Outcome State Fault Refusal := fireMma .xx false s
/-- `MMA.YY` (R188). -/
def execMmaYy (s : State) : Host.Outcome State Fault Refusal := fireMma .yy false s
/-- `MMA.II` (R188). -/
def execMmaIi (s : State) : Host.Outcome State Fault Refusal := fireMma .ii false s
/-- `MMA.NN` (R188). -/
def execMmaNn (s : State) : Host.Outcome State Fault Refusal := fireMma .nn false s
/-- `MROT` (R200). -/
def execMrot (f : MmaPair) (s : State) : Host.Outcome State Fault Refusal := fireMma f true s

/-- `MACC.ZERO` (R204). -/
def execMaccZero (p : Pred) (s : State) : Host.Outcome State Fault Refusal := fireMacc .zero p [.l] s
/-- `MACC.RECLAIM` (R204). -/
def execMaccReclaim (p : Pred) (s : State) : Host.Outcome State Fault Refusal := fireMacc .reclaim p [.l] s
/-- `MACC.PARK` (R204). -/
def execMaccPark (p : Pred) (s : State) : Host.Outcome State Fault Refusal := fireMacc .park p [.l] s
/-- `MACC.LOADA` (R204). -/
def execMaccLoada (p : Pred) (s : State) : Host.Outcome State Fault Refusal := fireMacc .loada p [.l, .r] s
/-- `MACC.STOREA` (R204). -/
def execMaccStorea (p : Pred) (s : State) : Host.Outcome State Fault Refusal := fireMacc .storea p [.l, .r] s

/-! ## Slots (R190, R197, R205) -/

/-- Change a slot of the running bank. -/
def Act.slot (p : Loc) (i : Nat) (f : AccSlot → AccSlot) : Act :=
  .polder p fun q => { q with banks := q.banks.set q.bank { q.theBank with slots := q.theBank.slots.set i (f (q.slotAt i)) } }

/-- The slot state word (R205). -/
def AccSlot.word (t : AccSlot) (seq : Nat) : Nat :=
  field seq 16 24 + field (min t.npend 255) 8 16 + (if t.st = 0 then 0 else field t.core 3 10 + field t.ctx 3 7)
    + field t.kind 2 5 + field (boolNat t.poison) 1 4 + field t.st 2 0

/-- `MACC.QUERY` (R204, R205): the slot state word, sampled now. -/
def execMaccQuery (p : Pred) (t1 t0 : Target) (s : State) : Host.Outcome State Fault Refusal :=
  slotStep (.firing p [.l] (.send 0 .null [t0, t1]) fun vs => .read fun s =>
    let l := (arg vs 0).toNat
    let t := (s.polder s.focus.l).slotAt (bits l 4 0)
    if l / 32 ≠ 0 then .illegal else .send 0 (.val (w64 (t.word t.seq))) [t0, t1]) s

/-- A slot is held by a context. -/
def AccSlot.heldBy (t : AccSlot) (l : Loc) : Bool := t.st == 1 && t.core == l.core && t.ctx == l.ctx

/-- What acceptance makes of a slot (R197, R198): none where the entry is refused with 0x08. -/
def slotTake (op : RingOp) (l : Loc) (t : AccSlot) : Option AccSlot :=
  let own : AccSlot := { t with st := 1, core := l.core, ctx := l.ctx }
  let free := t.st == 0 || t.heldBy l
  match op with
  | .mma p _ _ _ _ x =>
    if !free || (!bit x 5 && t.poison) then none
    else some (if bit x 5 then { own with kind := pairAcc p, poison := false } else own)
  | .macc .zero w _ => if free then some { own with kind := bits w 6 5, poison := false } else none
  | .macc .loada w _ => if free then some { own with kind := bits w 6 5, poison := false } else none
  | .macc .reclaim _ _ => some (if t.st = 2 then own else t)
  | .macc .park _ _ => if t.st = 2 then some t else if t.heldBy l then some { t with st := 2 } else none
  | .macc .storea _ _ => if free then some t else none
  | _ => none

/-- The slot that an operation names. -/
def RingOp.slotOf : RingOp → Nat
  | .mma _ _ _ _ _ x => bits x 4 0
  | .macc _ w _ => bits w 4 0
  | _ => 0

/-! ## Record checks at acceptance (R167, R193, R201) -/

/-- The record is refused by R167, for matrix use. -/
def Shape.refused (h : Shape) : Bool :=
  let w := tyWidth h.ty
  h.akind != 0 || h.rank != 2 || h.ext 0 == 0 || h.ext 1 == 0 || h.bsm > 1 || h.cls == 3 || h.rsv != 0
    || (w == 6 && !h.gran) || (h.bsm == 1 && !(h.gran && tyScaled h.ty && inCoreRange h.base))
    || (h.coded && (bits h.word2 59 56 != 0 || h.base % 2 != 0 || h.rtab % 4 != 0 || h.bsm != 0))
    || h.base % (if h.gran then 32 else max 1 (w / 8)) != 0

/-- The start of a row's stream in a coded tile, from its table (R148). -/
def State.rowStart (s : State) (l : Loc) (h : Shape) (j : Nat) : Nat := natOfBytes (s.homeBytes l (h.rtab + 4 * j) 4)

/-- What a stream of a coded tile decodes to from at most `room` bytes (R148). -/
def State.stream (s : State) (l : Loc) (h : Shape) (j room : Nat) : CodedRow :=
  decodeRow (s.homeBytes l (h.base + s.rowStart l h j) (min room (127 * ceilDiv (h.ext 0) 32))) 0 (ceilDiv (h.ext 0) 32)

/-- Bytes from the start of a row's stream to the end of the core memory that it lies in. -/
def State.toMemoryEnd (s : State) (l : Loc) (h : Shape) (j : Nat) : Nat := 0x20000 - (h.base + s.rowStart l h j) % 0x20000

/-- The bytes of a tile lie in the core memory of its base; of a coded one the row table, the start of every row and the last row's stream, which
no later row bounds (R148, R193). -/
def Shape.inMemory (s : State) (l : Loc) (h : Shape) : Bool :=
  if h.coded then
    inCoreRange h.base && inCoreRange h.rtab && inOneCore h.rtab (4 * h.ext 1)
      && (List.range (h.ext 1)).all (fun j => inOneCore h.base (s.rowStart l h j + 1))
      && s.stream l h (h.ext 1 - 1) (s.toMemoryEnd l h (h.ext 1 - 1)) != .short
  else inOneCore h.base h.tileBytes

/-- The span of a tile, clipped for a coded one to its core memory. -/
def Shape.locked (s : State) (l : Loc) (h : Shape) : List (Nat × Nat) :=
  (h.spans s l).map fun q => (polderView l q.1, min q.2 (0x20000 - q.1 % 0x20000))

/-- A destination span of an `MROT` overlaps a local operand or leaves its core memory (R201). -/
def rotBad (pb : Nat) (src : List (Nat × Nat)) (span : Nat × Nat) : Bool :=
  decide (17 ≤ pb) || decide (0x20000 < span.1 % 0x20000 + span.2)
    || src.any fun t => (flipPieces pb t.1 t.2).any fun q => overlap span.1 span.2 q.1 q.2

/-- The spans that an `MROT` pulls, in polder view, before the XOR; the stream of a coded B is known once its neighbour's table has been read, and
is none where that could not be read (R201). -/
def rotParts (l : Loc) (op : RingOp) (table : Option (List Byte)) : List (RotPart × Nat × Nat) :=
  match op with
  | .mma _ true a b _ x =>
    let A := shapeOf a
    let B := shapeOf b
    (if bit x 29 then [(.a, polderView l A.base, A.tileBytes)] else [])
      ++ (if !bit x 30 then []
        else if !B.coded then [(.b, polderView l B.base, B.tileBytes)]
        else match table with
          | none => []
          | some [] => []
          | some bs => [(.table, polderView l B.rtab, 4 * B.ext 1),
              (.b, polderView l B.base, numAt bs (4 * (B.ext 1 - 1)) 4 + 50 * ceilDiv (B.ext 0) 32)])
  | _ => []

/-- The address bit that the pulls of an `MROT` invert (R191). -/
def RingOp.flip : RingOp → Nat
  | .mma _ true _ _ _ x => bits x 28 24
  | _ => 0

/-- The spans of an operation's local operands. -/
def State.tileSpans (s : State) (l : Loc) : RingOp → List (Nat × Nat)
  | .mma _ _ a b _ _ => (shapeOf a).locked s l ++ (shapeOf b).locked s l
  | _ => []

/-- A pull of an `MROT` overlaps a local operand or leaves its core memory: the entry is refused (R201). -/
def State.rotRefused (s : State) (l : Loc) (op : RingOp) (table : Option (List Byte)) : Bool :=
  (rotParts l op table).any fun q => rotBad op.flip (s.tileSpans l op) q.2

/-- The records of an accepted entry are refused (0x01) (R193, R201). -/
def State.mmaRefused (s : State) (l : Loc) (op : RingOp) : Bool :=
  match op with
  | .mma p _ a b _ x =>
    let A := shapeOf a
    let B := shapeOf b
    A.ty != (pairTypes p).1 || B.ty != (pairTypes p).2 || A.refused || B.refused || !A.inMemory s l || !B.inMemory s l
      || A.ext 0 != B.ext 0 || decide (64 < A.ext 1) || decide ((if pairAcc p = 1 then 32 else 64) < B.ext 1)
      || (!bit x 5 && ((s.polder l).slotAt (bits x 4 0)).kind != pairAcc p)
      || s.rotRefused l op none
  | _ => false

/-! ## Acceptance (R193, R197, R269, R270) -/

/-- The next core, in round-robin order, whose ring has an entry for the matrix engine. -/
def State.matrixPick (s : State) (p : Loc) : Option (Loc × RingEntry) :=
  ((List.range 8).filterMap fun i =>
    let c : Loc := { p.toPolder with core := ((s.polder p).matrixTurn + 1 + i) % 8 }
    (s.unitHead c .matrix).map fun e => (c, e)).head?

/-- The job of an entry that is accepted at `now`. -/
def MatrixJob.fresh (c : Loc) (e : RingEntry) (now : Nat) : MatrixJob :=
  { core := c.core, seq := e.seq.toNat, owner := e.owner, op := e.op, since := now, checked := false, refused := false, table := none, reg := false, first := 0,
    parts := [], started := false, pulling := false, due := 0, passEnd := 0, slot := e.op.slotOf, kb := 0, flags := 0, cause := 0, addr := 0, pulls := 0, passesDone := false }

/-- `MATRIX_ENTRY_ACCEPT`: one entry is accepted while fewer than four are in execution; its records are checked 4 cycles on (R193, R269,
R270). -/
def Act.matrixAccept (p : Loc) : Act :=
  .read fun s =>
    let q := s.polder p
    if q.matrixStall || 4 ≤ q.jobs.length then .skip
    else match s.matrixPick p with
      | none => .skip
      | some (c, e) =>
        match e.op with
        | .eq0 _ _ => .event 0 (.matrixCommandRecord p.toPolder c.core e.seq.toNat)
        | _ =>
          .all [
            .polder p (fun x => { x with matrixTurn := c.core, jobs := x.jobs ++ [MatrixJob.fresh c e s.now] }),
            .entry c e.seq.toNat (fun x => { x with phase := .accepted }),
            .event 4 (.rangeLockRegister p.toPolder),
            .event 1 (.matrixEntryAccept p.toPolder)]

/-- `MATRIX_ENTRY_ACCEPT` (R193). -/
def execMatrixEntryAccept (s : State) : Host.Outcome State Fault Refusal :=
  match s.cur with
  | .matrixEntryAccept p => done (.matrixAccept p) s
  | _ => .next s

/-- The cause with which a command pointer or its record ends: 0 if it is well formed. The reserved bits of a pointer are those of a
register, and are discarded (R6, R234, R238). -/
def pointerCause (codes : Nat → Bool) (align ptr : Nat) (bad : Bool) : Nat :=
  if !codes (bits ptr 63 56) || bits ptr 39 0 % align ≠ 0 || !inCoreRange (bits ptr 39 0) then 1
  else if bad then 0x11
  else 0

/-- `MATRIX_COMMAND_RECORD`: an `eq0` command becomes the entry of the instruction it performs, whose firing checks are made
now; one that they refuse takes the 4 cycles of the check and the 4 of completion (R235, R238, R270). -/
def Act.matrixCommand (p : Loc) (c seq : Nat) : Act :=
  .read fun s =>
    let core : Loc := { p.toPolder with core := c }
    match s.entryAt core seq with
    | some e =>
      (match e.op with
      | .eq0 ptr rec =>
        let bad := pointerCause (fun op => 0x60 ≤ op && op ≤ 0x6F) 32 ptr e.bad
        let stop (cause addr : Nat) : Act := .all [
          .polder p (fun x => { x with matrixTurn := c, jobs := x.jobs ++
            [{ MatrixJob.fresh core e s.now with refused := true, passesDone := true, cause := cause, addr := addr }] }),
          .entry core seq (fun x => { x with phase := .accepted }),
          .event 8 (.matrixEntryComplete p.toPolder c seq),
          .event 1 (.matrixEntryAccept p.toPolder)]
        let next (op : RingOp) : Act :=
          .seq (.entry core seq fun x => { x with op := op }) (.event 0 (.matrixEntryAccept p.toPolder))
        if bad ≠ 0 then stop bad 0
        else match s.entryOp e with
          | some (.mma pr rot a b la x) =>
            let q := s.mmaCause e.owner pr rot la (numAt rec 8 8) x
            if q.1 ≠ 0 then stop q.1 q.2.2 else next (.mma pr rot a b la x)
          | some (.macc m l r) =>
            let q := maccCause m l r
            if q.1 ≠ 0 then stop q.1 q.2 else next (.macc m l r)
          | _ => stop 1 0
      | _ => .skip)
    | none => .skip

/-- `MATRIX_COMMAND_RECORD` (R235). -/
def execMatrixCommandRecord (s : State) : Host.Outcome State Fault Refusal :=
  match s.cur with
  | .matrixCommandRecord p c seq => done (.matrixCommand p c seq) s
  | _ => .next s

/-! ## Registration (R196, R269, R276, R278) -/

/-- Change the job of an entry. -/
def Act.job (p : Loc) (c seq : Nat) (f : MatrixJob → MatrixJob) : Act :=
  .polder p fun q => { q with jobs := q.jobs.map fun j => if j.core = c ∧ j.seq = seq then f j else j }

/-- The job of an entry. -/
def State.jobAt (s : State) (p : Loc) (c seq : Nat) : Option MatrixJob :=
  (s.polder p).jobs.find? fun j => j.core == c && j.seq == seq

/-- The source spans that a job registers, in polder view (R196, R204). -/
def State.jobSources (s : State) (j : MatrixJob) : List (Nat × Nat) :=
  match j.op with
  | .macc .loada _ r => [(polderView j.owner r, 0x4000)]
  | op => s.tileSpans j.owner op

/-- The destination span that a job itself writes (R204). -/
def jobTarget (j : MatrixJob) : Option (Nat × Nat) :=
  match j.op with
  | .macc .storea _ r => some (polderView j.owner r, 0x4000)
  | _ => none

/-- An earlier vector entry of the core has still to read rows of a slot (R182). -/
def State.rowsPending (s : State) (j : MatrixJob) : Bool :=
  let c : Loc := { j.owner with ctx := 0 }
  ((s.core c).ring.takeWhile fun e => e.seq.toNat != j.seq).any fun e => e.phase != .complete && (match e.op with
    | .vec op l _ _ => popaOp op && bits l 4 0 == j.slot
    | _ => false)

/-- A registered destination span meets a span of keys. -/
def State.dstHit (s : State) (p : Loc) (a n : Nat) : Bool := (s.polder p).locks.any fun r => r.dst && r.meets a n
/-- A registered source span meets a span. -/
def State.srcHit (s : State) (p : Loc) (a n : Nat) : Bool := (s.polder p).locks.any fun r => !r.dst && r.meets a n

/-- A span meets the workspace of a context that is not DORMANT (R63). -/
def State.spanInWorkspace (s : State) (p : Loc) (a n : Nat) : Bool :=
  (List.range 64).any fun i =>
    let l : Loc := { p.toPolder with core := i / 8, ctx := i % 8 }
    decide ((s.ctx l).state ≠ 0#3) && overlap (0x100000 + l.core * 0x20000 + (s.ctx l).wp.toNat) 128 a n

/-- A completion word or a mirror lies in the workspace of a context that is not DORMANT: an engine's write of it is refused (R63). -/
def State.wordBarred (s : State) (l : Loc) (a : Nat) : Bool := a != 0 && s.spanInWorkspace l (polderView l a) 8

/-- A pinned version meets a span (R322). -/
def State.spanPinned (s : State) (p : Loc) (a n : Nat) : Bool :=
  match homePlace p a with
  | some q => s.pinHit q n
  | none => false

/-- A destination span that R276 refuses: it meets another destination span, a workspace or a pinned version (R63, R322). -/
def State.spanRefused (s : State) (p : Loc) (a n : Nat) : Bool := s.dstHit p a n || s.spanInWorkspace p a n || s.spanPinned p a n

/-- A test of a span, made of each piece of what the pull of a job lands on (R201). -/
def flipAny (pb : Nat) (f : Nat → Nat → Bool) (q : Nat × Nat) : Bool := (flipPieces pb q.1 q.2).any fun x => f x.1 x.2

/-- The pulls of a job, and whether one was refused: a pull whose destination meets what refuses one does not take place, and where the two of one
`MROT` meet it is that of B (R276). -/
def State.rotKept (s : State) (p : Loc) (j : MatrixJob) : List (RotPart × Nat × Nat) × Bool :=
  let all := rotParts j.owner j.op j.table
  let landsOnA (q : Nat × Nat) : Bool := (all.filter fun x => x.1 == .a).any fun x =>
    flipAny j.op.flip (fun a n => flipAny j.op.flip (fun b m => overlap a n b m) x.2) q
  let bad := all.filter fun q => flipAny j.op.flip (s.spanRefused p) q.2 || (q.1 != .a && landsOnA q.2)
  (all.filter fun q => !bad.any fun x => x.1 == q.1 || (x.1 == .table && q.1 == .b) || (x.1 == .b && q.1 == .table), !bad.isEmpty)

/-- What a job that is due for registration meets. -/
inductive RegFate where
  | wait | refuse (addr : Nat) | go
  deriving DecidableEq, Repr, Inhabited

/-- The operation is `MACC.PARK`. -/
def RingOp.parks : RingOp → Bool
  | .macc .park _ _ => true
  | _ => false

/-- The jobs accepted before one. -/
def State.jobsBefore (s : State) (p : Loc) (j : MatrixJob) : List MatrixJob :=
  (s.polder p).jobs.takeWhile fun x => !(x.core == j.core && x.seq == j.seq)

/-- An earlier job has still to register, or an earlier `PARK` of the same slot to park it: jobs register in the order of acceptance (R196, R197). -/
def State.slotAwaited (s : State) (p : Loc) (j : MatrixJob) : Bool :=
  (s.jobsBefore p j).any fun x => !x.refused && (!x.reg || (x.slot == j.slot && x.op.parks && !x.started))

/-- A job waits to register while an earlier one does, or while the table lacks room; `STOREA` into a workspace, a pinned version or another destination is
refused (R63, R276, R278, R322). -/
def State.regFate (s : State) (p : Loc) (j : MatrixJob) : RegFate :=
  let pulls := (s.rotKept p j).1
  if s.slotAwaited p j then .wait
  else if (jobTarget j).any fun d => s.spanRefused p d.1 d.2 then .refuse ((jobTarget j).elim 0 Prod.fst)
  else if 32 < (s.polder p).locks.length + (s.jobSources j).length + (jobTarget j).toList.length + pulls.length then .wait
  else .go

/-- A span meets a source (`dst` false) or destination span that was registered before those of a job. -/
def State.earlierHit (s : State) (p : Loc) (j : MatrixJob) (dst : Bool) (a n : Nat) : Bool :=
  (s.polder p).locks.any fun r => r.dst == dst && decide (r.id < j.first) && r.meets a n

/-- A registered job waits to begin its passes while rows of its slot are unread, while bytes of its sources are still landing, while an earlier entry reads
its destination, and a `PARK` until the entries before it have left the slot (R182, R204, R276). -/
def State.passesWait (s : State) (p : Loc) (j : MatrixJob) : Bool :=
  s.rowsPending j || (s.jobSources j).any (fun t => s.earlierHit p j true t.1 t.2) || (jobTarget j).any (fun d => s.earlierHit p j false d.1 d.2)
    || (j.op.parks && decide (1 < ((s.polder p).slotAt j.slot).npend))

/-- The pulls of a registered job wait while an earlier matrix entry reads bytes that they write (R202, R276). -/
def State.pullsWait (s : State) (p : Loc) (j : MatrixJob) : Bool := j.parts.any fun d => flipAny j.op.flip (s.earlierHit p j false) d.2

/-- Register one span; `flip` is the address bit that the pull of an `MROT` inverts (R201, R278). -/
def Act.lockSpan (p : Loc) (dst : Bool) (unit seq core : Nat) (internal : Bool) (owner : Loc) (base len flip : Nat) : Act :=
  .read fun s => .polder p fun q => { q with
    lockId := q.lockId + 1
    locks := q.locks ++ [{ id := q.lockId, dst := dst, unit := unit, seq := seq, core := core, internal := internal,
                           owner := owner, key := (s.homeKey p base).getD 0, base := base, len := len, flip := flip }] }

/-- A transfer of the engine's own queue that an `MROT` asks for: `n` bytes of a neighbour at the home address `a` (R202). -/
def State.rotXfer (s : State) (j : MatrixJob) (src : Loc) (origin : XferFrom) (kind : XferKind) (cls a n : Nat) : Xfer :=
  { id := 0, origin := origin, kind := kind, src := s.meshOf ⟨src, 2, a - 0x100000⟩, dst := a, len := n, cls := cls, cwa := 0, st := false,
    pasid := 0, part := s.partOf j.owner, sup := true, core := j.core, issued := false, next := 0, flying := [], cause := 0,
    addr := 0, lock := some 0, got := [] }

/-- The polder that A or B is pulled from (R201). -/
def rotSource (l : Loc) (x : Nat) (isA : Bool) : Loc :=
  let x0 := bits x 11 8
  let y0 := bits x 18 16
  let px := if isA then x0 + (l.px - x0 + 1) % max 1 (bits x 15 12) else l.px
  let py := if isA then l.py else y0 + (l.py - y0 + 1) % max 1 (bits x 22 19)
  Loc.polderOf l.dev (polderIndex l.die px py)

/-- The transfers of the pulls that a registered `MROT` starts: one for A and one for B; the row table has been read (R201, R275). -/
def State.rotPulls (s : State) (j : MatrixJob) (parts : List (RotPart × Nat × Nat)) : List Xfer :=
  match j.op with
  | .mma _ _ a b _ x => parts.filterMap fun q =>
    let h := shapeOf (if q.1 = .a then a else b)
    if q.1 = .table then none
    else some (s.rotXfer j (rotSource j.owner x (q.1 == .a)) (.rot j.core j.seq) (.rotated j.op.flip (h.gran && !h.coded)) h.cls q.2.1 q.2.2)
  | _ => []

/-- The transfer that reads the row table of a neighbour's coded B, if the entry pulls one: it runs before the entry registers, since the spans to
register follow from the table (R201; notes/assumptions 138). -/
def State.tableXfer (s : State) (j : MatrixJob) : Option Xfer :=
  match j.op with
  | .mma _ true _ b _ x =>
    let B := shapeOf b
    if bit x 30 && B.coded then
      some (s.rotXfer j (rotSource j.owner x false) (.rotTable j.core j.seq) (.gather 0) B.cls (polderView j.owner B.rtab) (4 * B.ext 1))
    else none
  | _ => none

/-- Cycles from registration to the first slab (R270). -/
def RingOp.firstSlab : RingOp → Nat
  | .mma _ _ _ b _ _ => if (shapeOf b).coded then 18 else 12
  | .macc .zero _ _ => 58
  | .macc .loada _ _ => 76
  | .macc .storea _ _ => 76
  | _ => 0

/-- The operation is an `MMA` or `MROT`. -/
def RingOp.isMma : RingOp → Bool
  | .mma _ _ _ _ _ _ => true
  | _ => false

/-- The operation is an `MROT`. -/
def RingOp.isRot : RingOp → Bool
  | .mma _ true _ _ _ _ => true
  | _ => false

/-- Complete an entry 4 cycles after its last pass has been accumulated (R270). -/
def Act.finishJob (p : Loc) (j : MatrixJob) : Act :=
  .read fun s => .event (4 + (j.passEnd - s.now)) (.matrixEntryComplete p.toPolder j.core j.seq)

/-- All pulls of an `MROT` have landed: the gauge advances by one unless a line failed, as a `GADV.DIE` would advance it, and a finished entry
completes (R202). -/
def Act.rotGauge (p : Loc) (c seq : Nat) : Act :=
  .read fun s =>
    match s.jobAt p c seq with
    | none => .skip
    | some j =>
      let core : Loc := { p.toPolder with core := c }
      let a := match j.op with
        | .mma _ _ _ _ _ x => 8 * bits x 45 32
        | _ => 0
      let v := s.home64 core a
      let view := polderView core a
      let bad := if v = 2 ^ 64 - 1 then 0x0B
        else if s.storeCause j.owner view 8 ≠ 0 then s.storeCause j.owner view 8 else s.commitCause j.owner view 8
      .seq
        (if j.cause ≠ 0 then .skip
        else if bad ≠ 0 then .job p c seq fun x => { x with cause := bad, addr := a }
        else .write64 core a (v + 1))
        (.when j.passesDone (.finishJob p j))

/-- The transfer that has read the row table of a job ends with it, where no stream is to follow (R275). -/
def Act.dropTable (p : Loc) (j : MatrixJob) (noStream : Bool) : Act :=
  .when noStream (.seq (.polder p fun q => { q with xfers := q.xfers.filter fun x => x.origin != .rotTable j.core j.seq })
    (.event 0 (.transferIssue p.toPolder)))

/-- A job ends with a cause and no effect (R193, R197). -/
def Act.refuseJob (p : Loc) (j : MatrixJob) (cause addr : Nat) : Act :=
  .seq (.seq (.dropTable p j j.op.isRot) <| .job p j.core j.seq fun x => { x with refused := true, passesDone := true, cause := cause, addr := addr })
    (.event 4 (.matrixEntryComplete p.toPolder j.core j.seq))

/-- The row table or the streams of a coded operand are still landing: what the check reads of them is not there yet (R193, R276). -/
def State.codedLanding (s : State) (p : Loc) (j : MatrixJob) : Bool :=
  match j.op with
  | .mma _ _ _ b _ _ =>
    let B := shapeOf b
    B.coded && (s.dstHit p (polderView j.owner B.rtab) (4 * B.ext 1)
      || (B.locked s j.owner).any fun q => s.dstHit p q.1 q.2)
  | _ => false

/-- The records of a job are checked, and the row table of a neighbour's coded B is asked for: it gives the span that the stream lands on (R193,
R201). -/
def Act.checkJob (p : Loc) (j : MatrixJob) : Act :=
  .read fun s =>
    if s.slotAwaited p j || s.codedLanding p j then .skip
    else if s.mmaRefused j.owner j.op then .refuseJob p j 1 0
    else match s.tableXfer j with
      | some t => .all [
          .job p j.core j.seq fun x => { x with checked := true },
          .polder p fun q => { q with internalQ := q.internalQ ++ [t] },
          .event 1 (.transferIssue p.toPolder)]
      | none => .seq (.job p j.core j.seq fun x => { x with checked := true, table := some [] })
          (.event (j.since + 6 - s.now) (.rangeLockRegister p.toPolder))

/-- The operation takes a slot in state `st` for its context (R197). -/
def RingOp.takes (op : RingOp) (st : Nat) : Bool :=
  match op with
  | .mma _ _ _ _ _ _ => true
  | .macc .zero _ _ => true
  | .macc .loada _ _ => true
  | .macc .reclaim _ _ => st == 2
  | _ => false

/-- A slot that an entry takes after its thread has left: it is freed or parked once the thread's entries have retired, as if it had been held when
the thread left (R197). -/
def State.takenBy (s : State) (c : Loc) (j : MatrixJob) (t : AccSlot) : AccSlot :=
  match s.entryAt c j.seq with
  | some e =>
    if !j.op.takes ((s.polder c).slotAt j.slot).st then t
    else if (s.ctx e.owner).thread = e.thread ∧ (s.ctx e.owner).state ≠ 0#3 then { t with freeAfter := none }
    else if e.parks then { t with orphan := true }
    else { t with freeAfter := (((s.core c).ring.filter fun x => x.thread == e.thread).getLast?).map fun x => x.seq.toNat }
  | none => t

/-- Write the bytes of a row table that has been read, where its pull lands (R201). -/
def Act.landTable (p : Loc) (j : MatrixJob) (a : Nat) (bs : List Byte) : Act :=
  .each (xorPieces j.op.flip a 0x1001 bs.length) fun q => .writeHome p (Nat.xor q.1 (2 ^ j.op.flip)) (sliceBytes bs (q.1 - a) q.2)

/-- Register a job that may: it takes its slot, or ends with 0x08, and counts there; its spans enter the table (R194, R196, R197, R205, R278). -/
def Act.enterJob (p : Loc) (j : MatrixJob) : Act :=
  .read fun s =>
    let c : Loc := { p.toPolder with core := j.core }
    let q := s.polder p
    match slotTake j.op j.owner (q.slotAt j.slot) with
    | none => .refuseJob p j 8 (0x400000 + 0x4000 * j.slot)
    | some t =>
      let src := s.jobSources j
      let dst := (jobTarget j).toList
      let parts := s.rotKept p j
      let ids := (List.range (src.length + dst.length + parts.1.length)).map fun i => q.lockId + i
      .all [
        .slot p j.slot (fun _ => { s.takenBy c j t with npend := t.npend + 1, seq := j.seq }),
        .each src (fun d => .lockSpan p false 0 j.seq j.core false j.owner d.1 d.2 0),
        .each dst (fun d => .lockSpan p true 0 j.seq j.core false j.owner d.1 d.2 0),
        .each parts.1 (fun d => .lockSpan p true 1 0 j.core true j.owner (Nat.xor d.2.1 (2 ^ j.op.flip)) d.2.2 j.op.flip),
        .entry c j.seq (fun e => { e with locks := ids, beat := 1 }),
        .job p j.core j.seq (fun x => { x with
          reg := true, first := q.lockId, parts := parts.1, pulls := (s.rotPulls j parts.1).length, cause := if x.cause = 0 ∧ parts.2 then 8 else x.cause }),
        .dropTable p j (j.op.isRot && parts.1.all fun d => d.1 != .b)]

/-- A registered job whose operands have settled begins its passes (R270); `PARK` parks its slot (R204). -/
def Act.startJob (p : Loc) (j : MatrixJob) : Act :=
  .read fun s => .all [
    .job p j.core j.seq (fun x => { x with started := true, due := s.now + j.op.firstSlab }),
    .when j.op.parks (.slot p j.slot fun t => { t with st := 2 }),
    .event j.op.firstSlab (.matrixSlab p.toPolder j.core j.seq)]

/-- The pulls of a registered job are handed to the copy/pull engine: a row table that has been read lands, and the transfer that read it goes on with
the stream (R201, R202, R275). -/
def Act.startPulls (p : Loc) (j : MatrixJob) : Act :=
  .read fun s =>
    let pulls := s.rotPulls j j.parts
    let isTable (x : Xfer) : Bool := x.origin == .rotTable j.core j.seq
    let stream := if (s.polder p).xfers.any isTable then s.rotPulls j (j.parts.filter fun d => d.1 == .b) else []
    let rest := if stream.isEmpty then pulls else s.rotPulls j (j.parts.filter fun d => d.1 != .b)
    .all [
      .job p j.core j.seq (fun x => { x with pulling := true }),
      .each (j.parts.filter fun d => d.1 == .table) (fun d => .landTable p j d.2.1 (j.table.getD [])),
      .polder p (fun x => { x with
        xfers := x.xfers.map fun t => if isTable t then (stream.map fun u => { u with id := t.id, issued := true }).headD t else t
        internalQ := x.internalQ ++ rest }),
      .when (!pulls.isEmpty) (.event 1 (.transferIssue p.toPolder)),
      .when (j.op.isRot && pulls.isEmpty) (.rotGauge p j.core j.seq)]

/-- A job that waits to register: 4 cycles for the record check, what a neighbour's table says, 2 cycles for the registration (R193, R201, R269,
R270). -/
def Act.registerJob (p : Loc) (j : MatrixJob) : Act :=
  .read fun s =>
    if s.now < j.since + 4 then .skip
    else if !j.checked then .checkJob p j
    else if j.table.isNone ∨ s.now < j.since + 6 then .skip
    else if j.reg then .seq (.when (!j.started && !s.passesWait p j) (.startJob p j)) (.when (!j.pulling && !s.pullsWait p j) (.startPulls p j))
    else if s.rotRefused j.owner j.op j.table then .refuseJob p j 1 0
    else match s.regFate p j with
      | .wait => .skip
      | .refuse a => .refuseJob p j 8 a
      | .go => .seq (.enterJob p j) (.event 0 (.rangeLockRegister p.toPolder))

/-- `RANGE_LOCK_REGISTER`: every unit's operation that waits to register tries again, in order (R278). -/
def execRangeLockRegister (s : State) : Host.Outcome State Fault Refusal :=
  match s.cur with
  | .rangeLockRegister p =>
    done (.all [
      .each ((s.polder p).jobs.filter fun j => !j.refused && !(j.started && j.pulling)) (fun j => .registerJob p j),
      .event 0 (.transferIssue p), .event 0 (.chunkStart p)]) s
  | _ => .next s

/-! ## Passes (R154, R155, R189, R194) -/

/-- Bit offset of element (i0, i1) of a tile from its base (R166). -/
def Shape.eltBit (h : Shape) (i0 i1 : Nat) : Nat :=
  let p := max 1 (perRow h.ty)
  let w := tyWidth h.ty
  if h.gran then 256 * (i0 / p + i1 * h.st.getD 0 0) + w * (i0 % p) else w * (i0 + i1 * h.st.getD 0 0)

/-- The place of the first byte of an element. -/
def Shape.eltPlace (h : Shape) (l : Loc) (i0 i1 : Nat) : Place :=
  match homePlace l h.base with
  | some p => { p with off := p.off + h.eltBit i0 i1 / 8 }
  | none => ⟨l.toPolder, 2, 0⟩

/-- Bytes that an element touches. -/
def Shape.eltBytes (h : Shape) (i0 i1 : Nat) : Nat := (h.eltBit i0 i1 % 8 + tyWidth h.ty + 7) / 8

/-- The value of an element that is not coded, with its block scale (R144, R194). -/
def State.tileElt (s : State) (l : Loc) (h : Shape) (i0 i1 : Nat) : Num :=
  let p := h.eltPlace l i0 i1
  let k := keyIn p.owner 2 p.off
  let v := decodeTy h.ty (s.num k (h.eltBytes i0 i1) / 2 ^ (h.eltBit i0 i1 % 8) % 2 ^ tyWidth h.ty)
  if h.bsm = 1 then v.blockScale (s.side.get (k / 32)).toNat else v

/-- Row `j` of a coded tile: its stream runs to the start of the next row's, the last as far as its memory goes (R148, R193). -/
def State.codedRow (s : State) (l : Loc) (h : Shape) (j : Nat) : CodedRow :=
  let room := if j + 1 < h.ext 1 then s.rowStart l h (j + 1) - s.rowStart l h j else s.toMemoryEnd l h j
  if s.rowStart l h j % 2 ≠ 0 then .bad 0
  else match s.stream l h j room with
    | .short => .bad 0
    | r => r

/-- Elements `k0` to `k0 + n - 1` of a row of A or a column of B; those past the extent are positive zeros (R154, R463). -/
def State.slabRow (s : State) (l : Loc) (h : Shape) (j k0 n : Nat) : List Num :=
  let zero : Num := .fin false 0 0
  if h.coded then
    match s.codedRow l h j with
    | .elems xs _ => (List.range n).map fun t => if k0 + t < h.ext 0 then Fmt.e4m3.decode (xs.getD (k0 + t) 0) else zero
    | _ => List.replicate n zero
  else (List.range n).map fun t => if k0 + t < h.ext 0 then s.tileElt l h (k0 + t) j else zero

/-- The fixed pairwise tree over exact products, each node rounded to `F`: value and flags (R154). -/
def passTree (F : Fmt) : Nat → List Num → Num × Nat
  | 0, xs => (xs.headD (.fin false 0 0), 0)
  | n + 1, xs =>
    if xs.length < 2 then (xs.headD (.fin false 0 0), 0)
    else
      let a := passTree F n (xs.take (xs.length / 2))
      let b := passTree F n (xs.drop (xs.length / 2))
      let r := F.finish 0 (a.1.add 0 b.1)
      (F.decode r.1, Nat.lor r.2 (Nat.lor a.2 b.2))

/-- A tensor scale: 0 stands for 1.0 (R165). -/
def tensorScale (ts : Nat) : Num := Fmt.f32.decode (if ts = 0 then 0x3F800000 else ts)

/-- One floating-point pass of an element: the accumulator after it and its flags (R154). The zero products that fill a
short k are zeros of `as` and `bs` beyond `len`. -/
def passFloat (F : Fmt) (acc : Nat) (as bs : List Num) (len : Nat) (tsA tsB : Num) : Nat × Nat :=
  let ps := (List.range as.length).map fun t =>
    if t < len then (as.getD t (.fin false 0 0)).mul (bs.getD t (.fin false 0 0)) else (Num.fin false 0 0, 0)
  let S := passTree F 7 (ps.map Prod.fst)
  let t := tsA.mul tsB
  let scaled : Num × Nat :=
    if t.1.eq (.fin false 1 0) then S
    else
      let tr := F.finish 0 t
      let r := F.finish 0 (S.1.mul (F.decode tr.1))
      (F.decode r.1, Nat.lor r.2 (Nat.lor tr.2 S.2))
  let r := F.finish 0 ((F.decode acc).add 0 scaled.1)
  (r.1, Nat.lor r.2 (Nat.lor scaled.2 (orAll (ps.map Prod.snd))))

/-- The integer that an exact value holds. -/
def Num.toInt : Num → Int
  | .fin n m e => let v : Int := (m * 2 ^ e.toNat : Nat); if n then -v else v
  | _ => 0

/-- One integer pass of an element (R155). -/
def passInt (acc : Nat) (as bs : List Num) : Nat :=
  wrapOf 32 (((as.zip bs).map fun p => p.1.toInt * p.2.toInt).foldl (· + ·) (acc : Int))

/-- One pass of an element of a pair. -/
def passOf (p : MmaPair) (acc : Nat) (as bs : List Num) (len : Nat) (tsA tsB : Num) : Nat × Nat :=
  if pairAcc p = 2 then (passInt acc as bs, 0)
  else passFloat (if pairAcc p = 1 then .f64 else .f32) acc as bs len tsA tsB

/-- Offset and size of accumulator element (i, j) in its slot (R190). -/
def accOffset (kind i j : Nat) : Nat := if kind = 1 then (i * 32 + j) * 8 else (i * 64 + j) * 4
/-- Bytes of an accumulator element. -/
def accBytes (kind : Nat) : Nat := if kind = 1 then 8 else 4

/-- The key of a slot of the running bank. -/
def State.slotKey (s : State) (p : Loc) (slot : Nat) : Nat :=
  keyIn p.toPolder 3 ((s.polder p).bank * 0x80000 + 0x4000 * slot)

/-- The number of passes of each element of an entry. -/
def mmaPasses (p : MmaPair) (a : Shape) : Nat := ceilDiv (a.ext 0) (pairK p)

/-- Slab `kb` of an entry: every element's accumulator after its pass, with the flags (R194). -/
def State.slabOut (s : State) (j : MatrixJob) (p : MmaPair) (A B : Shape) (kb : Nat) (zero : Bool) :
    List (Nat × Nat × Nat × Nat) :=
  let l := j.owner
  let kp := pairK p
  let as := (List.range (A.ext 1)).map fun i => s.slabRow l A i (kb * kp) kp
  let bs := (List.range (B.ext 1)).map fun i => s.slabRow l B i (kb * kp) kp
  let len := A.ext 0 - kb * kp
  let base := s.slotKey l j.slot
  let kind := pairAcc p
  (List.range (A.ext 1)).flatMap fun i => (List.range (B.ext 1)).map fun c =>
    let old := if zero then 0 else s.num (base + accOffset kind i c) (accBytes kind)
    let r := passOf p old (as.getD i []) (bs.getD c []) len (tensorScale A.ts) (tensorScale B.ts)
    (i, c, r.1, r.2)

/-- Element (i, c) after passes `from'` to `from' + n - 1` from `acc` (R198). -/
def State.eltAfter (s : State) (j : MatrixJob) (p : MmaPair) (A B : Shape) (i c from' : Nat) : Nat → Nat → Nat × Nat
  | 0, acc => (acc, 0)
  | n + 1, acc =>
    let r := s.eltAfter j p A B i c from' n acc
    let kp := pairK p
    let k0 := (from' + n) * kp
    let q := passOf p r.1 (s.slabRow j.owner A i k0 kp) (s.slabRow j.owner B c k0 kp) (A.ext 0 - k0) (tensorScale A.ts) (tensorScale B.ts)
    (q.1, Nat.lor q.2 r.2)

/-- Bytes of the coded blocks of the first `m` blocks of a row. -/
def State.codedLen (s : State) (l : Loc) (h : Shape) (j m : Nat) : Nat :=
  match decodeRow (s.homeBytes l (h.base + s.rowStart l h j) (127 * m)) 0 m with
  | .elems _ b => b
  | _ => 0

/-- Bytes of the coded blocks that cover elements `k0` to `k0 + n - 1` of a row (R267; notes/assumptions 138). -/
def State.codedCover (s : State) (l : Loc) (h : Shape) (j k0 n : Nat) : Nat :=
  s.codedLen l h j (min (ceilDiv (k0 + n) 32) (ceilDiv (h.ext 0) 32)) - s.codedLen l h j (k0 / 32)

/-- Why what is left of a row of an operand, from slab `kb` on, cannot be read: the cause, where, and the first pass that it fails; none if it can
(R147, R331). -/
def State.rowFault (s : State) (l : Loc) (p : MmaPair) (h : Shape) (kb i : Nat) : Option (Nat × Nat × Nat) :=
  let off := natOfBytes (s.homeBytes l (h.rtab + 4 * i) 4)
  if h.coded && decide (0 < kb) then
    let a := h.base + off + s.codedLen l h i (kb * pairK p / 32)
    if (s.homeKey l a).any fun k => s.eccHit k (s.codedCover l h i (kb * pairK p) (h.ext 0)) then some (0x11, a, kb) else none
  else if h.coded then
    let n := min (50 * ceilDiv (h.ext 0) 32) (0x20000 - (h.base + off) % 0x20000)
    if (s.homeKey l (h.rtab + 4 * i)).any fun k => s.eccHit k 4 then some (0x11, h.rtab + 4 * i, 0)
    else match s.codedRow l h i with
      | .elems _ len => if (s.homeKey l (h.base + off)).any fun k => s.eccHit k len then some (0x11, h.base + off, 0) else none
      | .bad b => if (s.homeKey l (h.base + off)).any fun k => s.eccHit k n then some (0x11, h.base + off, 0)
          else some (0x0E, h.base + off + b, 0)
      | .short => some (0x0E, h.base + off, 0)
  else
    (((List.range (h.ext 0)).drop (kb * pairK p)).find? fun k =>
      let q := h.eltPlace l k i
      s.eccHit (keyIn q.owner 2 q.off) (h.eltBytes k i) || (h.bsm == 1 && s.sideHit (keyIn q.owner 2 q.off))).map fun k => (0x11, h.base + h.eltBit k i / 8, k / pairK p)

/-- Bytes of an operand in slab `kb` of `kp` elements a row: elements, sidecar bytes under `bsm` = 1, or coded blocks (R267). -/
def State.slabBytes (s : State) (l : Loc) (h : Shape) (kb kp : Nat) : Nat :=
  if h.coded then ((List.range (h.ext 1)).map fun j => s.codedCover l h j (kb * kp) kp).sum
  else h.ext 1 * kp * tyWidth h.ty / 8 + (if h.bsm = 1 then h.ext 1 * ceilDiv kp (max 1 (perRow h.ty)) else 0)

/-- Cycles of one slab; `na` and `nb` are the bytes read for A and B (R267). -/
def slabTime (l : Loc) (p : MmaPair) (A B : Shape) (na nb : Nat) : Nat :=
  let m := if l.narrow then 32 else if p = .dd then 8 else 16
  let sameMem := polderView l A.base / 0x20000 = polderView l B.base / 0x20000
  let dec := if B.coded then ceilDiv (B.ext 1 * pairK p) (if l.narrow then 512 else 256) else 0
  max (max (ceilDiv (A.ext 1) m * ceilDiv (B.ext 1) m) (ceilDiv (na + nb) (if l.narrow then 1024 else 512)))
    (max (if sameMem then ceilDiv (na + nb) 256 else max (ceilDiv na 256) (ceilDiv nb 256)) dec)

/-- The slab read that a record with `mcast` = 1 asks for: the words that two records must share, and the elements of each row (R195). -/
def castOf (r : List Byte) (k0 n : Nat) : List Byte × Nat × Nat × Nat := (sliceBytes r 0 24, (shapeOf r).bsm, k0, n)

/-- The network has fetched the same bytes for another accepted entry in the last 64 cycles (R268). -/
def State.merges (s : State) (p : Loc) (j : MatrixJob) (r : List Byte) (k0 n : Nat) : Bool :=
  (shapeOf r).mcast && (s.polder p).slabReads.any fun x => x.1 == castOf r k0 n && decide (s.now ≤ x.2.1 + 64) && !(x.2.2 == (j.core, j.seq))
    && (s.polder p).jobs.any fun y => (y.core, y.seq) == x.2.2

/-- Cycles from the end of the last slab to the accumulation of its pass (R270). -/
def drainTime (p : MmaPair) : Nat :=
  match p with
  | .dd => 8 + 3
  | .ss => 6 + 2
  | .bb => 6 + 2
  | .hh => 6 + 2
  | .bk => 6 + 2
  | .ii => 4 + 2
  | .nn => 4 + 2
  | _ => 5 + 2

/-- The passes of a job end in `n` cycles: it completes when its pulls are in too, `fin` cycles after that, and others may go on. -/
def Act.passesEnd (p : Loc) (j : MatrixJob) (n fin : Nat) : Act :=
  .read fun s => .seq (.job p j.core j.seq fun x => { x with passesDone := true, passEnd := s.now + n })
    (.when (decide (((s.jobAt p j.core j.seq).elim 0 fun x => x.pulls) = 0)) (.event (n + fin) (.matrixEntryComplete p.toPolder j.core j.seq)))

/-- An operation gives its slot contents that owe nothing to what it held (R198). -/
def RingOp.clears : RingOp → Bool
  | .mma _ _ _ _ _ x => bit x 5
  | .macc .zero _ _ => true
  | .macc .loada _ _ => true
  | _ => false

/-- An entry has failed: its slot is poisoned, unless a later entry that clears the bit has taken the slot (R198). -/
def Act.poisonSlot (p : Loc) (j : MatrixJob) : Act :=
  .read fun s => .when (!((((s.polder p).jobs.dropWhile fun x => !(x.core == j.core && x.seq == j.seq)).drop 1).any fun x =>
      x.slot == j.slot && x.reg && x.op.clears)) (.slot p j.slot fun t => { t with poison := true })

/-- A job fails in its passes: each element holds its value after some number of them, at least those that have been made, which is a free value (R198). -/
def Act.failPasses (p : Loc) (j : MatrixJob) (pr : MmaPair) (A B : Shape) (z : Bool) (cause addr : Nat) : Act :=
  .read fun s =>
    let kind := pairAcc pr
    let base := s.slotKey p j.slot
    let cap (h : Shape) (i : Nat) : Nat := (s.rowFault j.owner pr h j.kb i).elim (mmaPasses pr A) fun q => q.2.2
    .all [
      .each ((List.range (A.ext 1)).flatMap fun i => (List.range (B.ext 1)).map fun c => (i, c)) (fun q =>
        .withFree fun n =>
          let k := base + accOffset kind q.1 q.2
          let old := if z then 0 else s.num k (accBytes kind)
          let r := s.eltAfter j pr A B q.1 q.2 j.kb (Config.choice n % (min (cap A q.1) (cap B q.2) - j.kb + 1)) old
          .seq (.putBytes k (bytesOf (accBytes kind) r.1))
            (.job p j.core j.seq fun x => { x with flags := Nat.lor x.flags r.2 })),
      .job p j.core j.seq (fun x => { x with cause := cause, addr := addr }),
      .poisonSlot p j,
      .passesEnd p j 0 4]

/-- Rows of a slot's tile of `m` rows and `n` columns: key and bytes. -/
def tileRows (base kind m n : Nat) : List (Nat × Nat) :=
  (List.range m).map fun i => (base + accOffset kind i 0, accOffset kind i (n - 1) - accOffset kind i 0 + accBytes kind)

/-- The residue check finds an error in the accumulators that a slab adds to (R331); those that the operation clears are not read. -/
def State.residueBad (s : State) (p : Loc) (j : MatrixJob) (pr : MmaPair) (A B : Shape) (z : Bool) : Bool :=
  !z && (tileRows (s.slotKey p j.slot) (pairAcc pr) (A.ext 1) (B.ext 1)).any fun q => s.eccHit q.1 q.2

/-- New contents of accumulators lift the marks of errors in them. -/
def Act.freshAcc (rows : List (Nat × Nat)) : Act :=
  .fx (.ecc fun us => us.filter fun u => !rows.any fun q => decide (q.1 ≤ u) && decide (u < q.1 + q.2))

/-- The passes of slab `j.kb` of a job (R194, R267, R268). -/
def Act.runSlab (p : Loc) (j : MatrixJob) (pr : MmaPair) (a b : List Byte) (x : Nat) : Act :=
  .read fun s =>
    let A := shapeOf a
    let B := shapeOf b
    let kp := pairK pr
    let bytes (r : List Byte) : Nat := if s.merges p j r (j.kb * kp) kp then 0 else s.slabBytes j.owner (shapeOf r) j.kb kp
    let time := slabTime j.owner pr A B (bytes a) (bytes b)
    let reads := ([a, b].filter fun r => (shapeOf r).mcast && !s.merges p j r (j.kb * kp) kp).map fun r => (castOf r (j.kb * kp) kp, s.now + time, (j.core, j.seq))
    let out := s.slabOut j pr A B j.kb (bit x 5 && j.kb == 0)
    let kind := pairAcc pr
    let base := s.slotKey p j.slot
    .all [
      .when (bit x 5 && j.kb == 0) (.freshAcc (tileRows base kind (A.ext 1) (B.ext 1))),
      .each out (fun q => .putBytes (base + accOffset kind q.1 q.2.1) (bytesOf (accBytes kind) q.2.2.1)),
      .polder p (fun q => { q with
        matrixFree := s.now + time, matrixLast := (j.core, j.seq), slabReads := (q.slabReads.filter fun y => decide (s.now ≤ y.2.1 + 64)) ++ reads }),
      .job p j.core j.seq (fun y => { y with kb := y.kb + 1, due := s.now + time, flags := Nat.lor y.flags (orAll (out.map fun q => q.2.2.2)) }),
      (if j.kb + 1 < mmaPasses pr A then .event time (.matrixSlab p j.core j.seq) else .passesEnd p j (time + drainTime pr) 4)]

/-- An earlier job of the same slot has passes to make (R269). -/
def PolderState.slotBusy (q : PolderState) (j : MatrixJob) : Bool :=
  (q.jobs.takeWhile fun x => !(x.core == j.core && x.seq == j.seq)).any fun x => x.slot == j.slot && !x.passesDone

/-- The job whose slab runs next: slabs are interleaved in the order of acceptance, from behind the last that ran (R269). -/
def PolderState.nextSlab (q : PolderState) (now : Nat) : Option MatrixJob :=
  let ready (x : MatrixJob) : Bool := x.started && !x.passesDone && decide (x.due ≤ now) && x.op.isMma && !q.slotBusy x
  let last := q.jobs.findIdx fun x => (x.core, x.seq) == q.matrixLast
  ((q.jobs.drop (last + 1)).find? ready).orElse fun _ => q.jobs.find? ready

/-- `MATRIX_SLAB`: the passes of one slab, or the copy that a `MACC` member makes; entries of one slot run one after
another (R194, R204, R267, R269). -/
def Act.matrixSlab (p : Loc) (c seq : Nat) : Act :=
  .read fun s =>
    match s.jobAt p c seq with
    | none => .skip
    | some j =>
      let q := s.polder p
      let base := s.slotKey p j.slot
      if q.slotBusy j then .event (max 1 (q.matrixFree - s.now)) (.matrixSlab p c seq)
      else match j.op with
        | .mma pr _ a b _ x =>
          let A := shapeOf a
          let B := shapeOf b
          let faults := ((List.range (A.ext 1)).filterMap fun i => s.rowFault j.owner pr A j.kb i)
            ++ (List.range (B.ext 1)).filterMap fun i => s.rowFault j.owner pr B j.kb i
          if s.now < q.matrixFree then .event (q.matrixFree - s.now) (.matrixSlab p c seq)
          else if !((q.nextSlab s.now).any fun y => y.core == c && y.seq == seq) then .event 1 (.matrixSlab p c seq)
          else match faults.head? with
            | some f => .seq (.when (f.1 == 0x11) (.count p 0x358)) (.failPasses p j pr A B (bit x 5 && j.kb == 0) f.1 f.2.1)
            | none => if s.residueBad p j pr A B (bit x 5 && j.kb == 0) then .failPasses p j pr A B (bit x 5 && j.kb == 0) 0x11 0
                else .runSlab p j pr a b x
        | .macc .zero _ _ => .all [.fx (.keep fun a => decide (a < base) || decide (base + 0x4000 ≤ a)), .freshAcc [(base, 0x4000)], .passesEnd p j 0 0]
        | .macc .loada _ r =>
          if (s.homeKey j.owner r).any fun k => s.eccHit k 0x4000 then .all [
            .count p 0x358, .job p c seq (fun y => { y with cause := 0x11, addr := r }), .poisonSlot p j, .passesEnd p j 0 4]
          else .all [.freshAcc [(base, 0x4000)], .putBytes base (s.homeBytes j.owner r 0x4000), .passesEnd p j 0 4]
        | .macc .storea _ r =>
          if s.eccHit base 0x4000 then .all [
            .job p c seq (fun y => { y with cause := 0x11, addr := r }), .poisonSlot p j, .passesEnd p j 0 4]
          else if s.spanInWorkspace p (polderView j.owner r) 0x4000 then
            .seq (.job p c seq fun y => { y with cause := 8, addr := r }) (.passesEnd p j 0 4)
          else .seq (.writeHome j.owner r (s.mem.bytes base 0x4000)) (.passesEnd p j 0 4)
        | _ => .passesEnd p j 0 4

/-- `MATRIX_SLAB` (R267). -/
def execMatrixSlab (s : State) : Host.Outcome State Fault Refusal :=
  match s.cur with
  | .matrixSlab p c seq => done (.matrixSlab p c seq) s
  | _ => .next s

/-! ## Completion (R198, R199, R202, R270) -/

/-- The row descriptor of a row (R199). -/
def rowDesc (slot row cnt kind seq : Nat) : Nat :=
  field seq 16 32 + field kind 2 18 + field cnt 7 11 + field row 6 5 + field slot 5 0

/-- `MATRIX_ENTRY_COMPLETE`: the job leaves the engine; its entry is complete, with its row descriptors unless it failed, and
a failed one that was not refused poisons its slot, unless a later entry has cleared it (R198, R270). -/
def Act.matrixComplete (p : Loc) (c seq : Nat) : Act :=
  .read fun s =>
    match s.jobAt p c seq with
    | none => .skip
    | some j =>
      let core : Loc := { p.toPolder with core := c }
      let rows : List W64 := match j.op with
        | .mma pr _ a b _ x =>
          if bit x 6 && j.cause == 0 then
            (List.range ((shapeOf a).ext 1)).map fun i => w64 (rowDesc j.slot i ((shapeOf b).ext 1) (pairAcc pr) seq)
          else []
        | _ => []
      .all [
        .when (j.cause != 0 && !j.refused) (.poisonSlot p j),
        .polder p (fun q => { q with jobs := q.jobs.filter fun x => !(x.core == c && x.seq == seq) }),
        .entry core seq (fun e => { e with rows := rows }),
        .complete core seq j.cause j.addr j.flags,
        .event 0 (.matrixEntryAccept p.toPolder), .event 0 (.rangeLockRegister p.toPolder)]

/-- `MATRIX_ENTRY_COMPLETE` (R270). -/
def execMatrixEntryComplete (s : State) : Host.Outcome State Fault Refusal :=
  match s.cur with
  | .matrixEntryComplete p c seq => done (.matrixComplete p c seq) s
  | _ => .next s

/-- A pull of an `MROT` has landed or failed (R202). -/
def Act.rotLanded (p : Loc) (c seq cause addr : Nat) : Act :=
  .read fun s =>
    match s.jobAt p c seq with
    | none => .skip
    | some j => .seq
        (.job p c seq fun y => { y with
          pulls := y.pulls - 1, cause := if y.cause = 0 then cause else y.cause, addr := if y.cause = 0 then addr else y.addr })
        (.when (decide (j.pulls ≤ 1)) (.rotGauge p c seq))

/-- The row table of a neighbour's B has been read: the job may register. One that could not be read leaves B unpulled, and the entry does its
other work (R201, R202). -/
def Act.tableRead (p : Loc) (c seq : Nat) (bs : List Byte) (cause addr : Nat) : Act :=
  .seq (.job p c seq fun y => { y with table := some (if cause = 0 then bs else []), cause := cause, addr := addr })
    (.event 0 (.rangeLockRegister p.toPolder))

end Sys2Proof.Machine
end

