-- ==== Sys2Proof/Machine/Retire.lean ====
section
/-! DEFINITION. Retirement of ring entries (spec/12 R264, R265, spec/08 R194, R197, spec/03 R75): in ring order, up to four a
cycle. -/

namespace Sys2Proof.Machine

/-- A slot after an entry of `core` with number `seq` has retired, `mine` where the entry had taken that slot: an orphaned slot
is parked, and one of an ended thread freed (R197). -/
def AccSlot.retired (t : AccSlot) (core seq : Nat) (mine : Bool) : AccSlot :=
  let n := if mine then t.npend - 1 else t.npend
  let u : AccSlot := { t with npend := n }
  if u.orphan && n == 0 then { u with st := 2, orphan := false }
  else if u.core == core && u.freeAfter == some seq then { u with st := 0, freeAfter := none }
  else u

/-- Give up the slots that a context holds: parked when the thread leaves its core, freed when it ended by `END`, and in both
cases once its entries in flight have finished (R197). -/
def Act.leaveSlots (l : Loc) (freed : Bool) : Act :=
  .read fun s =>
    let inRing := (s.core l).ring.any fun e => e.owner == l
    let go (t : AccSlot) : AccSlot :=
      if !t.heldBy l then t
      else if freed then (if inRing then { t with freeAfter := some (s.ctx l).dseq.toNat } else { t with st := 0 })
      else if t.npend = 0 then { t with st := 2 } else { t with orphan := true }
    .seq (.polder l fun q => { q with banks := q.banks.set q.bank { q.theBank with slots := q.theBank.slots.map go } })
      (.core l fun k => { k with ring := k.ring.map fun e => if e.owner = l ∧ e.thread = (s.ctx l).thread then { e with parks := !freed } else e })

/-- The thread that dispatched an entry has left its context. -/
def RingEntry.orphaned (e : RingEntry) (s : State) : Bool :=
  decide ((s.ctx e.owner).thread ≠ e.thread) || decide ((s.ctx e.owner).state = 0#3)

/-- The record of a late fault that its thread can no longer receive: in the host queue, and in what is left of the context's own queue while no other
thread has taken the context (R99, R342). -/
def Act.lateToHost (l : Loc) (part thread : Nat) (r : FaultRec) : Act :=
  .seq (.hostRec l part r) (.ctx l fun c =>
    if c.thread = thread ∧ c.state = 0#3 ∧ c.faultQ.length < 8 then { c with faultQ := c.faultQ ++ [{ r with ovf := c.faultLost }], faultLost := false } else c)

/-- A failure that no ring entry carries: a late fault of its thread, or a record where that thread has ended (R132, R336, R342). -/
def Act.lateFor (l : Loc) (part thread cause addr : Nat) : Act :=
  .read fun s =>
    if (s.ctx l).thread ≠ thread ∨ (s.ctx l).state = 0#3 then .lateToHost l part thread (s.engineRec l cause 0 addr 0)
    else .addLate l ⟨cause, 0, addr⟩

/-- Retire one entry: its registrations are released, its row descriptors pushed, its flags ORed into `cw.fm`, and `rseq`
advanced; a cause becomes a late fault of its context, or a record where that thread has ended (R99, R264, R265). -/
def Act.retireOne (c : Loc) (e : RingEntry) : Act :=
  .read fun s =>
    let l := e.owner
    let seq := e.seq.toNat
    let gone := e.orphaned s
    let took := e.op.unit == .matrix && e.beat == 1
    .all [
      .core c (fun k => { k with ring := k.ring.filter fun x => x.seq != e.seq }),
      .when (!e.locks.isEmpty) (.unlock c fun r => e.locks.contains r.id),
      .polder c (fun q => { q with banks := q.banks.set q.bank { q.theBank with
        slots := (List.range 32).map fun i => (q.slotAt i).retired c.core seq (took && e.op.slotOf == i) } }),
      (if gone then
        .when (e.cause != 0) (.lateToHost l e.part e.thread (s.engineRec l e.cause 0 e.addr seq))
      else .all [
        .ctx l (fun x => { x with
          rowQ := x.rowQ ++ e.rows
          fm := w64 (Nat.lor x.fm.toNat e.flags)
          rseq := e.seq }),
        .when (e.cause != 0) (.addLate l ⟨e.cause, seq, e.addr⟩)])]

/-- The entries at the head of a ring that have completed. -/
def CoreState.ready (k : CoreState) : List RingEntry := k.ring.takeWhile fun e => e.phase == .complete

/-- Entries of a core that may still retire in this cycle: four in all (R264). -/
def State.retireRoom (s : State) (c : Loc) : Nat := if (s.core c).retired.1 = s.now then 4 - (s.core c).retired.2 else 4

/-- `ENTRY_RETIRE`: up to four entries of the core retire in a cycle, and matrix jobs that waited for one try again (R264). -/
def execEntryRetire (s : State) : Host.Outcome State Fault Refusal :=
  match s.cur with
  | .entryRetire c =>
    let es := (s.core c).ready
    let room := s.retireRoom c
    done (.all [
      .each (es.take room) (.retireOne c),
      .core c fun k => { k with retired := (s.now, 4 - room + min room es.length) },
      .when (decide (room < es.length)) (.event 1 (.entryRetire c)),
      .when (!es.isEmpty) (.wakeCore c),
      .pokeJobs c]) s
  | _ => .next s

end Sys2Proof.Machine
end

