-- ==== Sys2Proof/Machine/Records.lean ====
section
/-! DEFINITION. What task, message and launch instructions share: the rewriting of home
addresses (spec/09 R208), task records (R211, R212), the deque and the spillway rings of a context (spec/20 R392-R394), and
`Enter()` (spec/09 R218). -/

namespace Sys2Proof.Machine

/-! ## Addresses that leave a core (R23, R208) -/

/-- The base of a partition's home images: a nonzero multiple of 2^50 that system software assigns (R23). No register holds it. -/
def imageBase (part : Nat) : Nat := (Config.partitionBase part % 127 + 1) * 2 ^ 50

/-- An address that leaves its core: home forms become the polder's home image (R208). -/
def State.rewrite (s : State) (l : Loc) (a : Nat) : Nat :=
  if a < 2 ^ 40 then imageBase (s.partOf l) + l.pidx * 2 ^ 41 + polderView l a else a

/-! ## Task records (R211, R212) -/

/-- The eight words of a task record in memory. -/
def State.taskWords (s : State) (l : Loc) (a : Nat) : List Nat :=
  let bs := s.homeBytes l a 64
  (List.range 8).map fun i => numAt bs (8 * i) 8

/-- The `fclass` of a record does not admit a polder (R212). -/
def classBars (fclass : Nat) (p : Loc) : Bool := fclass == if p.narrow then 1 else 2

/-- The refusals of a task record in R212's order: 0 when it may be entered. -/
def recordBars (l : Loc) (ws : List Nat) : Nat :=
  let w0 := ws.getD 0 0
  let w1 := ws.getD 1 0
  if decide (2 ≤ bits w0 63 62) || bits w0 59 58 == 3 || bit w0 57 || bits w1 63 57 != 0 then 1
  else if bits w0 4 0 ≠ 0 ∨ bits w1 2 0 ≠ 0 then 3
  else if bits w0 63 62 = 0 && classBars (bits w0 59 58) l then 0x0A
  else 0

/-- The rewritten record (R208). -/
def State.rewriteRec (s : State) (l : Loc) (ws : List Nat) : List W64 :=
  let w0 := ws.getD 0 0
  let w1 := bits (ws.getD 1 0) 56 0
  ([w0 / 2 ^ 57 * 2 ^ 57 + s.rewrite l (bits w0 56 0) % 2 ^ 57, if w1 = 0 then 0 else s.rewrite l w1] ++ ws.drop 2).map w64

/-- A deque entry for a record that a context enters (R392). -/
def State.entryOf (s : State) (l : Loc) (ws : List Nat) (tag pasid : Nat) : DequeEntry := ⟨s.rewriteRec l ws, tag, pasid, .task⟩

/-- The checks of a record's address, as `FORK` makes them when it fires (R212). -/
def State.taskAddrCause (s : State) (l : Loc) (a : Nat) : Nat :=
  if a % 64 ≠ 0 then 3
  else if 2 ^ 40 ≤ a then 4
  else match homePlace l a with
    | none => 4
    | some p => if (s.keyOf p).isNone then 4 else if p.space = 5 && !(s.ctx l).sup then 0x0C else 0

/-- An uncorrectable error lies in `n` bytes at a home address (R207, R331). -/
def State.homeEcc (s : State) (l : Loc) (a n : Nat) : Bool :=
  match s.homeKey l a with
  | some k => s.eccHit k n
  | none => false

/-! ## The spillway (R393, R394) -/

/-- The home address of a context's spillway region. -/
def Context.spillBase (c : Context) : Nat := bits c.spill.toNat 39 16 * 0x10000

/-- Whether a ring of a spillway region has room. -/
inductive RingRoom where
  | room | full | unmapped
  deriving DecidableEq, Repr, Inhabited

/-- Records in the ring whose indices stand at offset `off` of the region at `base`. -/
def State.ringCount (s : State) (l : Loc) (base off : Nat) : Nat := (s.home64 l (base + off + 8) + 2 ^ 64 - s.home64 l (base + off)) % 2 ^ 64

/-- The spillway region of a context: in use, below the HBM limit, in a mapped page (R393). -/
def State.spillState (s : State) (l : Loc) (c : Context) : RingRoom :=
  if !bit c.spill.toNat 0 then .full
  else match homePlace l c.spillBase with
    | none => .full
    | some p =>
      let lim := bits c.home.toNat 23 0
      if p.space = 1 && (s.tierKey l p.off).isNone then .unmapped
      else if (p.space ≠ 0 ∧ p.space ≠ 1) ∨ (p.space = 0 ∧ lim ≠ 0 ∧ lim * 0x10000 ≤ p.off) then .full
      else .room

/-- Room in the ring at offset `off` of capacity `cap`, `extra` places of which are reserved (R393). -/
def State.ringRoom (s : State) (l : Loc) (c : Context) (off cap extra : Nat) : RingRoom :=
  match s.spillState l c with
  | .room => if s.ringCount l c.spillBase off + extra < cap then .room else .full
  | r => r

/-- Write one entry of `size` bytes at the tail of a ring and advance the tail. -/
def Act.ringPush (l : Loc) (base off cells size cap : Nat) (bs : List Byte) : Act :=
  .read fun s =>
    let t := s.home64 l (base + off + 8)
    .seq (.writeHome l (base + cells + size * (t % cap)) bs) (.write64 l (base + off + 8) (t + 1))

/-- The bytes of the entry at the head of a ring. -/
def State.ringHead (s : State) (l : Loc) (base off cells size cap : Nat) : List Byte :=
  s.homeBytes l (base + cells + size * (s.home64 l (base + off) % cap)) size

/-- Take the entry at the head of a ring. -/
def Act.ringPop (l : Loc) (base off : Nat) : Act :=
  .read fun s => .write64 l (base + off) (s.home64 l (base + off) + 1)

/-- Room in the task ring of a context (R394). -/
def State.taskRing (s : State) (l : Loc) (extra : Nat) : RingRoom := s.ringRoom l (s.ctx l) 0 448 extra
/-- The home address of the cell of a context's task ring with an index (R394). -/
def State.ringCell (s : State) (l : Loc) (i : Nat) : Nat := (s.ctx l).spillBase + 0x1000 + 64 * (i % 448)

/-- Put a record into a context's task ring; the core keeps the tag, the PASID and the origin that its entry holds beside it (R62, R392). -/
def Act.taskPush (l : Loc) (e : DequeEntry) : Act :=
  .read fun s =>
    let cell := s.ringCell l (s.home64 l ((s.ctx l).spillBase + 8))
    .seq (.core l fun k => { k with ringed := (k.ringed.filter fun g => !(g.1 == l.ctx && g.2.1 == cell)) ++ [(l.ctx, cell, e)] })
      (.ringPush l (s.ctx l).spillBase 0 0x1000 64 448 (e.words.flatMap fun w => bytesOf 8 w.toNat))

/-! ## The deque (R392) -/

/-- Reservations of deque places by blocks in flight of a core (R212). -/
def State.dequeReserved (s : State) (c : Loc) : Nat :=
  ((List.range 8).map fun k => match (s.ctx { c with ctx := k }).block with
    | some b => (b.acts.filter fun a => match a.2 with
      | .fork _ 0 => true
      | _ => false).length
    | none => 0).sum

/-- Reservations of task-ring places by a context's block in flight. -/
def State.ringReserved (s : State) (l : Loc) : Nat :=
  match (s.ctx l).block with
  | some b => (b.acts.filter fun a => match a.2 with
    | .fork _ 1 => true
    | _ => false).length
  | none => 0

/-- A deque of 64 entries has a free one (R392). -/
def State.dequeRoom (s : State) (c : Loc) : Bool := decide ((s.core c).deque.length + s.dequeReserved c < 64)

/-- Work has come to a core: its contexts may be allocated. -/
def Act.offerWork (c : Loc) : Act := .event 0 (.contextAllocation c.toCore)

/-- Have a core refill its deque from the task rings, one record each 4 cycles (R392). -/
def Act.kickRefill (c : Loc) : Act :=
  .read fun s => .when (!(s.core c).refilling) (.seq (.core c fun k => { k with refilling := true }) (.event 4 (.dequeRefill c.toCore)))

/-- Push at the bottom of a deque. -/
def Act.pushDeque (c : Loc) (e : DequeEntry) : Act :=
  .seq (.core c fun k => { k with deque := e :: k.deque }) (.offerWork c)

/-- The message in a cell of a spillway message ring; its reply has been sent when it was spilled. -/
def messageOfCell (bs : List Byte) : Message :=
  let w (i : Nat) : Nat := numAt bs (8 * i) 8
  ⟨w 10, w 0, w 1, (List.range (min 8 (bits (w 0) 61 58))).map fun i => w64 (w (2 + i)), w 11 % 2 ^ 20, none, none⟩

/-- A spilled message whose `sig` is not zero is a gauge notice of a collective (R436). -/
def noticeOf (m : Message) : GaugeNotice :=
  let w (i : Nat) : Nat := (m.payload.getD i 0#64).toNat
  ⟨w 0, w 1, w 2, w 3, w 4, bits m.w1 63 48, w 5⟩

/-- Take the messages of a context's spillway ring, in spill order: each re-enters the mailbox ahead of later arrivals, or waits in the
interface (R348, R400); one with a signature goes to the collective engine (R436). -/
def Act.replayMessages (l : Loc) : Nat → Act
  | 0 => .skip
  | n + 1 => .read fun s =>
    let b := (s.ctx l).spillBase
    if s.spillState l (s.ctx l) ≠ .room ∨ s.ringCount l b 0x10 = 0 then .skip
    else
      let m := messageOfCell (s.ringHead l b 0x10 0x8000 128 256)
      .all [
        .ringPop l b 0x10,
        (if bits m.w1 63 48 ≠ 0 then .event 0 (.collectiveGaugeNotice l.toPolder (noticeOf m))
          else .core l fun k => { k with unmailed := k.unmailed ++ [m] }),
        Act.replayMessages l n]

/-- A SUSPENDED or HALTED context is READY: it resumes, and takes its spilled messages before any that arrives from then on (R301, R348). -/
def Act.makeReady (l : Loc) (f : Context → Context) : Act :=
  .read fun s => .all [
    .ctx l fun c => { f c with state := 1#3, resumed := true, readyAt := s.now },
    .replayMessages l 256, .offerWork l,
    .event 0 (.contextDispatch l.toCore)]

/-- Make the context that a record of `kind` 1 names READY, or drop the record and count it (R211). -/
def Act.resume (c : Loc) (e : DequeEntry) : Act :=
  .read fun s =>
    let l : Loc := { c with ctx := bits (e.words.getD 2 0#64).toNat 2 0 }
    if (s.ctx l).state = 3#3 then
      .makeReady l fun x => { x with unacquired := [] }
    else .count c 0x3B0

/-- The `kind` of a deque entry. -/
def entryKind (e : DequeEntry) : Nat := bits (e.words.getD 0 0#64).toNat 63 62

/-- Enter a record at a place that was chosen: 0 the deque, 1 the task ring of the context, 2 and 3 nowhere (R212); a record of `kind` 1
is consumed at once (R392). -/
def Act.enterAt (l : Loc) (place : Nat) (e : DequeEntry) : Act :=
  if entryKind e = 1 then (if place < 2 then .resume l e else .skip)
  else if place = 0 then .pushDeque l e
  else if place = 1 then .seq (.taskPush l e) (.kickRefill l)
  else .skip

/-- `Enter()`: the deque, then the task ring; a record that finds neither is held by the core (R218). -/
def Act.enter (l : Loc) (e : DequeEntry) : Act :=
  .read fun s =>
    if entryKind e = 1 then .resume l e
    else if !(s.core l).heldRecs.isEmpty then .core l fun k => { k with heldRecs := k.heldRecs ++ [⟨e, l.ctx⟩] }
    else if s.dequeRoom l then .pushDeque l e
    else if s.taskRing l (s.ringReserved l) = .room then .enterAt l 1 e
    else .core l fun k => { k with heldRecs := k.heldRecs ++ [⟨e, l.ctx⟩] }

/-- Enter held records again, in order, as long as there is room (R218). -/
def Act.enterHeld (c : Loc) : Act :=
  .read fun s =>
    match (s.core c).heldRecs with
    | [] => .skip
    | h :: _ =>
      let l : Loc := { c with ctx := h.ctx }
      let go (a : Act) : Act := .all [.core c fun k => { k with heldRecs := k.heldRecs.drop 1 }, a, .kickRefill c]
      if s.dequeRoom c then go (.pushDeque c h.entry)
      else if s.taskRing l (s.ringReserved l) = .room then go (.enterAt l 1 h.entry)
      else .skip

/-- Enter the record at a home address for the context `l`, whose scope tag and PASID it carries; where a value is given, it takes the
place of the record's word 7 first, in memory too unless that lies in a workspace (R63, R215, R217, R218). -/
def Act.enterFrom (l : Loc) (a tag pasid : Nat) (v : Option Nat) : Act :=
  match v with
  | some x => .seq (.read fun s => .when (!s.homeBarred l (a + 56) 8) (.write64 l (a + 56) x))
      (.read fun s => .enter l (s.entryOf l ((s.taskWords l a).set 7 x) tag pasid))
  | none => .read fun s => .enter l (s.entryOf l (s.taskWords l a) tag pasid)

/-! ## Futures (R215, R217) -/

/-- The records of a deferred-read list behind those in `seen`, most recent first. A list that software has made circular ends where it comes back to a
record that it has entered (notes/assumptions 49); no list has more records than there are home addresses, the fuel that is given. -/
def State.deferred (s : State) (l : Loc) : Nat → List Nat → Nat → List Nat
  | 0, _, _ => []
  | n + 1, seen, a => if a = 0 ∨ seen.contains a then [] else a :: s.deferred l n (a :: seen) (numAt (s.homeBytes l (a + 56) 8) 0 8 % 2 ^ 40)

/-- Fill a future with a state and a value and release its list (R217). -/
def Act.fillFuture (l : Loc) (f st v tag pasid : Nat) : Act :=
  .read fun s =>
    let list := s.deferred l (2 ^ 40) [] (bits (s.home64 l f) 39 0)
    .all [
      .write64 l (f + 8) v,
      .write64 l f (field st 2 62 + bits (s.home64 l f) 61 40 * 2 ^ 40),
      .each list fun q => .enterFrom l q tag pasid (some v)]

end Sys2Proof.Machine
end

