-- ==== Sys2Proof/Machine/Tasks.lean ====
section
/-! DEFINITION. Task, message, composition and system instructions as they fire (spec/09 R207-R233). What waits for commit goes to the
block's list of acts and is carried out with it. -/

namespace Sys2Proof.Machine

/-- Have an act of the step's slot wait for commit (R207). -/
def Act.atCommit (op : CommitOp) : Act :=
  .read fun s => .block s.focus.l fun b => { b with acts := b.acts ++ [(s.focus.slot, op)] }

/-! ## FORK (R212) -/

/-- Where a `FORK` that fires now would put its record: deque 0, task ring 1, nowhere 2, nowhere for want of a page 3. -/
def State.forkPlace (s : State) (l : Loc) : Nat :=
  if s.dequeRoom l then 0
  else match s.taskRing l (s.ringReserved l) with
    | .room => 1
    | .full => 2
    | .unmapped => 3

/-- `FORK` (R212). -/
def execFork (p : Pred) (t1 t0 : Target) (s : State) : Host.Outcome State Fault Refusal :=
  slotStep (.firing p [.l] (.send 0 .null [t0, t1]) fun vs => .read fun s =>
    let l := s.focus.l
    let a := (arg vs 0).toNat
    let c := s.taskAddrCause l a
    if c ≠ 0 then .fault c 0 a
    else .seq (.atCommit (.fork a (s.forkPlace l))) (.send 0 (.val (w64 (min 2 (s.forkPlace l)))) [t0, t1])) s

/-! ## JOIN (R214) -/

/-- The checks of a `JOIN` counter: a home address, 8-byte aligned, in a core memory, HBM or the second tier (R214, R467). -/
def State.counterCause (s : State) (l : Loc) (a : Nat) : Nat :=
  if a % 8 ≠ 0 then 3
  else if 2 ^ 40 ≤ a then 4
  else match homePlace l a with
    | none => 4
    | some p => if (s.keyOf p).isNone || !decide (p.space ≤ 2) then 4 else 0

/-- `JOIN`: the entry is reserved in the issuing polder's watch table as it fires; the record and the counter wait for commit (R214). -/
def execJoin (p : Pred) (t1 t0 : Target) (s : State) : Host.Outcome State Fault Refusal :=
  slotStep (.firing p [.l, .r] (.send 0 .null [t0, t1]) fun vs => .read fun s =>
    let l := s.focus.l
    let ctr := (arg vs 0).toNat
    let r := polderView l (arg vs 1).toNat
    let c := s.counterCause l ctr
    let d := s.taskAddrCause l r
    if c ≠ 0 then .fault c 0 ctr
    else if d ≠ 0 then .fault d 0 r
    else match (s.polder l).freeWatch with
      | none => .fault 0x13 0 ctr
      | some i =>
        let n := (s.polder l).nextGen i
        let h : Handle := ⟨l.toPolder, n, i⟩
        let w : WatchReg := s.watchOf .join ctr 0 r [(s.ctx l).steal.toNat]
        .all [
          .polder l (fun q => { q with
            watches := q.watches ++ [⟨i, n, false, w, (s.homeKey l ctr).getD 0, 0⟩]
            gens := (i, n) :: q.gens.filter fun x => x.1 != i }),
          .atCommit (.join ctr r h),
          .send 0 (.val (w64 (s.handleWord h))) [t0, t1]]) s

/-! ## Futures (R216, R217) -/

/-- The checks of a future's address: checks 2 to 6 of a store, on both of its words (R215, R216). -/
def State.futureCause (s : State) (l : Loc) (f : Nat) : Nat :=
  if s.storeCause l f 8 ≠ 0 then s.storeCause l f 8 else s.storeCause l (f + 8) 8

/-- `FUTR` (R216). -/
def execFutr (p : Pred) (t1 t0 : Target) (s : State) : Host.Outcome State Fault Refusal :=
  slotStep (.firing p [.l, .r] (.send 0 .null [t0, t1]) fun vs => .read fun s =>
    let l := s.focus.l
    let f := polderView l (arg vs 0).toNat
    let r := polderView l (arg vs 1).toNat
    let c := s.futureCause l f
    let d := s.taskAddrCause l r
    let st := bits (s.home64 l f) 63 62
    .whenSettled [f, f + 8] <|
    if c ≠ 0 then .fault c 0 f
    else if d ≠ 0 then .fault d 0 r
    else if s.homeEcc l f 16 then .fault 0x11 0 f
    else if st = 3 then .fault 0x0B 0 f
    else if st = 1 then .all [.acquireCode l, .send 0 (.val (w64 (s.home64 l (f + 8)))) [t0], .send 0 (.val 1#64) [t1]]
    else if st = 2 then .seq (.send 0 (.val 9#64) [t0]) (.send 0 (.val 2#64) [t1])
    else .all [.atCommit (.futr f r), .send 0 .null [t0], .send 0 (.val 0#64) [t1]]) s

/-- `FUTW` (R217). -/
def execFutw (p : Pred) (s : State) : Host.Outcome State Fault Refusal :=
  slotStep (.firing p [.l, .r] .skip fun vs => .read fun s =>
    let f := polderView s.focus.l (arg vs 0).toNat
    let c := s.futureCause s.focus.l f
    if c ≠ 0 then .fault c 0 f
    else .atCommit (.futw f (arg vs 1))) s

/-! ## Messages (R209, R219, R221, R222) -/

/-- A destination token is illegal (R209). -/
def tokenBad (t : Nat) : Bool := decide (2 ^ 25 ≤ t) || decide (11 < bits t 13 10)

/-- The checks of a message's address (R219, R221): that of its header (notes/assumptions 160). -/
def messageCause (l : Loc) (a : Nat) : Nat :=
  if a % 16 ≠ 0 then 3
  else if 2 ^ 40 ≤ a then 4
  else match homePlace l a with
    | some p => if p.space = 0 ∨ p.space = 2 then 0 else 4
    | none => 4

/-- `SEND` (R221). -/
def execSend (p : Pred) (s : State) : Host.Outcome State Fault Refusal :=
  slotStep (.firing p [.l, .r] .skip fun vs => .read fun s =>
    let a := (arg vs 1).toNat
    let c := messageCause s.focus.l a
    if tokenBad (arg vs 0).toNat then .fault 1 0 0
    else if c ≠ 0 then .fault c 0 a
    else .atCommit (.send (arg vs 0).toNat a none)) s

/-- `SENDB` (R222). -/
def execSendb (s : State) : Host.Outcome State Fault Refusal :=
  slotStep (.firing .always [.l, .r, .x] .skip fun vs => .read fun s =>
    let t := (arg vs 0).toNat
    let a := (arg vs 1).toNat
    let m := (arg vs 2).toNat
    let c := messageCause s.focus.l a
    if tokenBad t || bit t 24 || decide (256 ≤ m) || m == 0 then .fault 1 0 0
    else if c ≠ 0 then .fault c 0 a
    else .atCommit (.send t a (some m))) s

/-! ## LAUNCH (R223, R224) -/

/-- The record at a home address, as the issuer's launch (R208, R223, R468). -/
def State.launchRec (s : State) (l : Loc) (bs : List Byte) : LaunchRec :=
  let w (i : Nat) : Nat := numAt bs (8 * i) 8
  { place := 0, id := 0, issuer := l, steal := bits (w 0) 62 61, prio := bits (w 0) 60 59, fclass := bits (w 0) 58 57,
    entry := s.rewrite l (bits (w 0) 56 0), cmask := bits (w 1) 31 24, dmask := bits (w 1) 23 20, w := bits (w 1) 19 16,
    x0 := bits (w 1) 15 12, h := bits (w 1) 11 8, y0 := bits (w 1) 7 5, groups := bits (w 2) 31 0, gauge := w 3, thr := w 4,
    cnt := polderView l (w 5), crec := if bits (w 6) 39 0 = 0 then 0 else polderView l (bits (w 6) 39 0),
    sig := if w 7 = 0 then 0 else polderView l (w 7),
    args := (List.range 5).map fun i => w64 (w (8 + i)), pasid := (s.ctx l).pasid.toNat, part := s.partOf l, ind := bit (w 0) 63,
    host := none }

/-- The 16 words of a launch record as its issuer sends it on: addresses converted and rewritten (R208, R223, R468). -/
def launchWords (r : LaunchRec) : List Nat :=
  [field (boolNat r.ind) 1 63 + field r.steal 2 61 + field r.prio 2 59 + field r.fclass 2 57 + r.entry % 2 ^ 57,
    field r.cmask 8 24 + field r.dmask 4 20 + field r.w 4 16 + field r.x0 4 12 + field r.h 4 8 + field r.y0 3 5,
    r.groups, r.gauge, r.thr, r.cnt, r.crec, r.sig] ++ r.args.map (fun v => v.toNat) ++ [0, 0, 0]

/-- The member polders of a launch in the order of R223. -/
def launchMembers (r : LaunchRec) : List Loc :=
  ((List.range 4).filter fun d => bit r.dmask d).flatMap fun d =>
    (List.range r.h).flatMap fun y => (List.range r.w).map fun x => Loc.polderOf r.issuer.dev (polderIndex d (r.x0 + x) (r.y0 + y))

/-- The fields of a launch record that R224 refuses with 0x01. -/
def launchFieldsBad (bs : List Byte) : Bool :=
  let w (i : Nat) : Nat := numAt bs (8 * i) 8
  let ind := bit (w 0) 63
  bits (w 1) 63 32 != 0 || bits (w 1) 4 0 != 0 || bits (w 2) 63 32 != 0 || (ind && w 2 != 0) || bits (w 6) 63 40 != 0
    || w 13 + w 14 + w 15 != 0 || bits (w 0) 62 61 == 3 || bits (w 0) 58 57 == 3
    || decide (12 < bits (w 1) 15 12 + bits (w 1) 19 16) || decide (8 < bits (w 1) 7 5 + bits (w 1) 11 8)
    || bits (w 1) 19 16 == 0 || bits (w 1) 11 8 == 0 || bits (w 1) 31 24 == 0 || bits (w 1) 23 20 == 0
    || (ind && w 3 == 0) || (!ind && w 3 + w 4 + w 5 != 0)

/-- The checks of R224 on a launch, in its order, up to the registration of an indirect one. -/
def State.launchCause (s : State) (l : Loc) (bs : List Byte) : Nat :=
  let r := s.launchRec l bs
  if launchFieldsBad bs then 1
  else if !(launchMembers r).all fun m => (s.polder m).part == some r.part then 0x0C
  else if (launchMembers r).any fun m => r.fclass != 0 && classBars r.fclass m then 0x0A
  else 0

/-- `LAUNCH`: the record is read and checked now; an indirect one registers its watch (R224). -/
def execLaunch (p : Pred) (t1 t0 : Target) (s : State) : Host.Outcome State Fault Refusal :=
  slotStep (.firing p [.l] (.send 0 .null [t0, t1]) fun vs => .read fun s =>
    let l := s.focus.l
    let a := (arg vs 0).toNat
    let c := if s.recordCause l a 64 ≠ 0 then s.recordCause l a 64 else s.recordCause l (a + 64) 64
    let bs := s.homeBytes l a 128
    let r : LaunchRec := { s.launchRec l bs with place := polderView l a }
    .whenSettled [a, a + 64] <|
    if c ≠ 0 then .fault c 0 a
    else if s.launchCause l bs ≠ 0 then .fault (s.launchCause l bs) 0 0
    else if r.ind then .seq (.atCommit (.launch r none)) (.register (s.watchOf .launch r.gauge r.thr r.place (launchWords r)))
    else .seq (.atCommit (.launch r none)) (.send 0 (.val 0#64) [t0, t1])) s

/-! ## Composition (R227, R228) -/

/-- The member slots of a composition by the context at `l`, its own apart. -/
def memberSlots (l : Loc) (n : Nat) : List Loc :=
  ((List.range 8).filter fun c => c / 2 ^ n == l.core / 2 ^ n && c != l.core).map fun c => { l with core := c }

/-- `COMPOSE` (R227). -/
def execCompose (p : Pred) (t1 t0 : Target) (s : State) : Host.Outcome State Fault Refusal :=
  slotStep (.firing p [.l] (.send 0 .null [t0, t1]) fun vs => .read fun s =>
    let l := s.focus.l
    let n := (arg vs 0).toNat
    let ms := memberSlots l n
    if n = 0 ∨ 4 ≤ n ∨ (s.ctx l).lead.isSome then .fault 1 0 0
    else if ms.all fun m => decide ((s.ctx m).state = 0#3) && (s.ctx m).reserved.isNone && (s.ctx m).lead.isNone then
      .all [
        .each ms (fun m => .ctx m fun x => { x with reserved := some .member }),
        .atCommit (.compose ms),
        .send 0 (.val 0#64) [t0, t1]]
    else .send 0 (.val 1#64) [t0, t1]) s

/-- `RELEASE` (R228). -/
def execRelease (p : Pred) (s : State) : Host.Outcome State Fault Refusal :=
  slotStep (.firing p [] .skip fun _ => .read fun s =>
    if (s.ctx s.focus.l).lead.isNone then .fault 1 0 0 else .atCommit .release) s

/-! ## Control words (R73-R76, R229) -/

/-- The numbers of R73's table. -/
def cwKnown (n : Nat) : Bool :=
  decide (n ≤ 3) || n == 0x10 || n == 0x20 || n == 0x21 || (decide (0x30 ≤ n) && decide (n ≤ 0x33)) || (decide (0x40 ≤ n) && decide (n ≤ 0x47))

/-- The numbers that a user context may not name (R73). -/
def cwPrivileged (n : Nat) : Bool := n == 0x20 || n == 0x21 || decide (0x40 ≤ n)

/-- `cw.ctxstate` of a context whose handler set is `hset` (R76). -/
def Context.ctxstate (c : Context) (hset : Nat) : Nat :=
  field hset 2 8 + field (boolNat c.lead.isSome) 1 5 + field (boolNat c.guest) 1 4
    + field (boolNat c.sup) 1 3 + c.state.toNat

/-- A control word as of the last block boundary (R73). -/
def State.controlRead (s : State) (l : Loc) (b : Block) (n : Nat) : Nat :=
  let c := s.ctx l
  if 0x40 ≤ n then (b.dikes0.getD (n - 0x40) 0#64).toNat
  else match n with
    | 0 => b.fm0.toNat
    | 1 => c.step.toNat
    | 2 => c.steal.toNat
    | 3 => c.prio.toNat
    | 0x10 => c.ctxstate b.hset0
    | 0x20 => c.trapvec.toNat
    | 0x21 => c.trapframe.toNat
    | 0x30 => c.pasid.toNat
    | 0x31 => c.home.toNat
    | 0x32 => c.spill.toNat
    | 0x33 => c.tree.toNat
    | _ => 0

/-- `CWR` (R229). -/
def execCwr (p : Pred) (n : BitVec 14) (t0 : Target) (s : State) : Host.Outcome State Fault Refusal :=
  slotStep (.firing p [] (.send 0 .null [t0]) fun _ => .inBlock fun s b =>
    let l := s.focus.l
    if !cwKnown n.toNat then .fault 1 0 0
    else if cwPrivileged n.toNat && !(s.ctx l).sup then .fault 0x0C 0 0
    else .send 0 (.val (w64 (s.controlRead l b n.toNat))) [t0]) s

/-- The bits of a control word that are not `rsv` (R6, R73, R75, R316, R393, R409); of `cw.steal` R73 does not say it, and the model takes [63:2] as
`rsv` (notes/assumptions 127). -/
def cwMask (n v : Nat) : Nat :=
  if 0x40 ≤ n then v / 4 * 4
  else match n with
    | 0 => field (bits v 10 8) 3 8 + bits v 4 0
    | 2 => v % 4
    | 3 => v % 4
    | 0x30 => v % 2 ^ 20
    | 0x31 => v % 2 ^ 24
    | 0x32 => field (bits v 39 16) 24 16 + v % 2
    | 0x33 => field (bits v 63 63) 1 63 + v % 128
    | _ => v

/-- A user context may write the number (R73). -/
def cwUserWrites (n : Nat) : Bool := decide (n ≤ 3)

/-- The refusals of a `CWW` (R73, R75, R393): 0 when the write may proceed. -/
def State.controlCause (s : State) (l : Loc) (n v : Nat) : Nat :=
  let c := s.ctx l
  if !cwKnown n then 1
  else if cwPrivileged n && !c.sup then 0x0C
  else if !c.sup && !cwUserWrites n then 0
  else match n with
    | 0 => if 5 ≤ bits v 10 8 then 1 else 0
    | 2 => if v % 4 = 3 then 1 else if !c.sup && decide (c.stealMax.toNat < v % 4) then 0x0C else 0
    | 0x32 =>
      if bit v 0 then
        (match homePlace l (bits v 39 16 * 0x10000) with
        | some p => if p.space = 0 ∨ p.space = 1 then 0 else 7
        | none => 7)
      else 0
    | _ => 0

/-- The act is a write of control word `n`. -/
def isCww (n : Nat) : CommitOp → Bool
  | .cww m _ => m == n
  | _ => false

/-- A `CWW` marks its number, with a value or a null; a second one of a number faults (R229). -/
def Act.markControl (n : Nat) (v : Option W64) : Act :=
  .inBlock fun _ b =>
    if b.acts.any fun a => isCww n a.2 then .fault 2 10 0
    else .atCommit (.cww n v)

/-- `CWW`: the value is held until commit, a null writes nothing; a user write to a word that is read-only for users, and any write
to `cw.ctxstate`, is discarded (R5, R229). -/
def execCww (p : Pred) (n : BitVec 14) (s : State) : Host.Outcome State Fault Refusal :=
  slotStep (.firing p [.l] (.markControl n.toNat none) fun vs => .inBlock fun s _ =>
    let v := (arg vs 0).toNat
    let c := s.controlCause s.focus.l n.toNat v
    if c ≠ 0 then .fault c 0 0
    else .markControl n.toNat (some (w64 (cwMask n.toNat v)))) s

/-! ## RELOC (R233) -/

/-- `RELOC` (R233). -/
def execReloc (s : State) : Host.Outcome State Fault Refusal :=
  slotStep (.firing .always [.l, .r, .x] .skip fun vs => .read fun s =>
    let l := s.focus.l
    let src := (arg vs 0).toNat
    let d := (arg vs 1).toNat
    let x := (arg vs 2).toNat
    if !(s.ctx l).sup then .fault 0x0C 0 0
    else if decide (8 ≤ src) || tokenBad d || !bit d 24 || bits d 23 16 != (s.device l).podpos || src == l.ctx then .fault 1 0 0
    else if s.storeCause l x 8 ≠ 0 then .fault (s.storeCause l x 8) 0 x
    else .atCommit (.reloc src d (polderView l x))) s

end Sys2Proof.Machine
end

