-- ==== Sys2Proof/Machine/Fetch.lean ====
section
/-! DEFINITION. Blocks: their fetch in two reads (spec/02 R29, R464), the checks before execution (R49), frames of the block window
(spec/20 R391, R405), the start of execution, tokens (R34, R37), starvation (R41) and port-push timeouts (spec/03 R68). -/

namespace Sys2Proof.Machine

/-! ## Fetch (R29, R464) -/

/-- One read of a block, served as a load of the same bytes would be (R330, R464). -/
def Act.fetchRead (l : Loc) (epoch : Nat) (second : Bool) (a n : Nat) : Act :=
  .read fun s =>
    let r := s.reqOf l a n (.fetch l epoch second)
    match if a < 2 ^ 40 then homePlace l a else none with
    | some p =>
      if p.space < 2 then .submit r
      else
        let t := (if p.space = 2 && decide (p.off / 0x20000 = l.core) then 4 else 16) + ((a + n - 1) / 64 - a / 64)
        (match s.fetchUnits r (n / 32) a with
        | .bad c _ => .event t (.blockFetchReadReturn l epoch second ⟨c, a, []⟩)
        | .ok bs _ none => .event t (.blockFetchReadReturn l epoch second ⟨0, a, bs⟩)
        | .ok bs _ (some e) => .seq (.count l 0x358) (.event t (.blockFetchReadReturn l epoch second ⟨0x11, a, if e = a then [] else bs⟩))
        | .fresh _ => .skip)
    | none => .submit r

/-- A new execution of the block at an address. -/
def Block.start (epoch addr : Nat) (fm : W64) (dikes : List W64) (hset : Nat) : Block :=
  { epoch := epoch, addr := addr, bytes := [], ready := false, ops := [], fired := [], waiting := [], off := [], done := [], out := [],
    exit := none, exits := 0, writes := [], stores := [], acts := [], pops := [], flags := 0, namo := 0, atoms := [], fault := none,
    heldSince := none, fenced := none, missed := [], got := [], again := false, bad := none, fm0 := fm, dikes0 := dikes, hset0 := hset }

/-- The block that a context executes next, with the state of the machine as of this boundary (R73). -/
def State.nextExecution (s : State) (l : Loc) (epoch addr : Nat) : Block :=
  Block.start epoch addr (s.ctx l).fm (s.polder l).dikes ((s.setOf l (s.partOf l)).getD 0)

/-- Fetch the block at a context's block address (R29). -/
def Act.fetchBlock (l : Loc) : Act :=
  .withEpoch fun ep => .read fun s =>
    let a := (s.ctx l).pc.toNat
    .seq (.ctx l fun x => { x with block := some (s.nextExecution l ep a) })
      (if a % 32 ≠ 0 then .raise l ep 0 3 0 a else .fetchRead l ep false a 160)

/-! ## Predicted blocks (R42, R391) -/

/-- A block whose bytes have all arrived. -/
def Block.whole (b : Block) : Bool := decide (160 ≤ b.bytes.length) && decide (b.bytes.length = blockBytes (b.hw 0))

/-- The static target of the exit with a number (R96, R97). -/
def Block.exitTo (b : Block) (e : Nat) : Option Nat :=
  b.instrs.findSome? fun x => match x.2 with
    | .br _ k o => if k.toNat = e then some (exitTarget b.addr o) else none
    | .call _ k o => if k.toNat = e then some (exitTarget b.addr o) else none
    | _ => none

/-- The address that the core predicts behind a block: where the exit leads whose number the block took when it last committed (R42). -/
def State.predicted (s : State) (l : Loc) (b : Block) : Option Nat :=
  ((s.core l).exits.find? fun x => x.1 == b.addr).bind fun x => b.exitTo x.2

/-- The place for one more predicted block of a context and its address, where the newest block in flight leads (R42). -/
def State.lookAhead (s : State) (l : Loc) : Option (Loc × Nat) :=
  match (s.ctx l).block, (aheadPlaces l).find? fun m => (s.ctx m).block.isNone with
  | some b, some m =>
    if (s.ctx l).lead.isSome || (s.ctx l).stopReq then none
    else
      let last := ((s.ahead l).getLast?.map fun x => x.2).getD b
      (s.predicted l last).bind fun a => if last.whole && a % 32 == 0 then some (m, a) else none
  | _, _ => none

/-- Predict one more block, if the last one leads anywhere. -/
def Act.lookAhead (l : Loc) : Act :=
  .read fun s => .when (s.lookAhead (realCtx l)).isSome (.event 0 (.blockFetch { l with ctx := l.ctx % 8 + 8 }))

/-- Fetch a predicted block: it runs under a copy of its context (R42). -/
def Act.fetchAhead (l : Loc) : Act :=
  .withEpoch fun ep => .read fun s =>
    match s.lookAhead l with
    | some (m, a) => .seq
        (.ctx m fun _ => { s.ctx l with
          block := some (s.nextExecution l ep a), held := [], late := [], surplus := 0, faultQ := [], rowQ := [], window := [], guest := false,
          duties := Duties.none, holders := [], stale := [], unacquired := [], unreleased := [] })
        (.fetchRead m ep false a 160)
    | none => .skip

/-- A predicted block that fetch began with becomes the non-speculative one: what has been fetched of it is kept, what it has executed is not. -/
def Act.adopt (l : Loc) (m : Loc) (x : Block) : Act :=
  .read fun s => .seq (.dropBlock m)
    (.ctx l fun c => { c with block := some { s.nextExecution l x.epoch x.addr with bytes := x.bytes, bad := x.bad } })

/-! ## Checks before execution (R49) -/

/-- The target names its own slot, a slot beyond the class, or an operand that the instruction there lacks (R49 order 7). -/
def Block.targetBad (b : Block) (slot : Nat) (t : Target) : Bool :=
  match t with
  | .none => false
  | .into o n =>
    n.toNat == slot || decide (b.slots ≤ n.toNat) || match b.instrAt n.toNat with
      | some i => !(operandsOf i).contains o
      | none => false

/-- A slot fails R49 order 7. -/
def Block.slotBad (b : Block) (slot : Nat) : Bool :=
  match b.instrAt slot with
  | some i => (targetsOf i).any (b.targetBad slot)
  | none => true

/-- A set bit of a mask, or its place below 32. -/
def maskBits (m : Nat) : List Nat := (List.range 32).filter fun n => bit m n

/-- The register number of a `WRITE`. -/
def writeReg : Instr → Option Nat
  | .write _ r => some r.toNat
  | _ => none

/-- Register numbers that `wmask` may name (R32). -/
def wmaskOk (n : Nat) : Bool := decide (n ≤ 15) || (decide (19 ≤ n) && decide (n ≤ 27)) || n == 31

/-- The checks of R49, orders 4 to 11: the first cause, its detail and the slot, none if the block may run. -/
def Block.check (b : Block) (narrow : Bool) : Option (Nat × Nat × Nat) :=
  let h0 := b.hw 0
  let is := b.instrs.map fun x => x.2
  let writes := is.filterMap writeReg
  let stores := is.filterMap storeLsid
  let loads := is.filterMap loadLsid
  let exits := is.filterMap exitOf
  let fc := bits h0 21 20
  if bits h0 31 24 ≠ 0xB7 then some (2, 1, 0)
  else if fc = 3 ∨ bits h0 18 0 ≠ 0 ∨ (List.range 5).any fun i => b.hw (3 + i) != 0 then some (2, 2, 0)
  else if fc = (if narrow then 1 else 2) then some (0x0A, 0, 0)
  else match (List.range b.slots).find? b.slotBad with
    | some n => some (1, n, n)
    | none =>
      let wm := maskBits (b.hw 2)
      let sm := maskBits (b.hw 1)
      if !(wm.all wmaskOk && decide (wm.length ≤ 16)) then some (2, 3, 0)
      else if !(writes.all wm.contains && wm.all writes.contains) then some (2, 4, 0)
      else if !(stores.all sm.contains && sm.all stores.contains && !loads.any sm.contains) then some (2, 5, 0)
      else if 32 < (is.filter isRead).length ∨ exits.isEmpty ∨ !exits.Nodup then some (2, 6, 0)
      else none

/-- A block whose bytes are all there is checked; one that passes waits for its frames (R49, R391). A predicted block never faults (R42). -/
def Act.checkBlock (l : Loc) (epoch : Nat) : Act :=
  .read fun s =>
    match s.blockAt l epoch with
    | some b =>
      match b.check l.narrow with
      | some (c, d, n) => if isAhead l then .skip else .raise l epoch n c d 0
      | none => .seq (.event 0 (.contextDispatch l.toCore)) (.when (isAhead l) (.lookAhead l))
    | none => .skip

/-- Every byte of a block is there: an uncorrectable error among them comes first (R49 orders 3 to 11). -/
def Act.judge (l : Loc) (epoch : Nat) (bad : Option Nat) : Act :=
  match bad with
  | some a => .raise l epoch 0 0x11 0 a
  | none => .checkBlock l epoch

/-- `BLOCK_FETCH`: a RUNNING context without a block fetches its next one, or goes on with the one that was predicted; or a block is predicted
(R29, R42, R391). -/
def execBlockFetch (s : State) : Host.Outcome State Fault Refusal :=
  match s.cur with
  | .blockFetch l =>
    if isAhead l then done (.fetchAhead (realCtx l)) s
    else if decide ((s.ctx l).state = 2#3) && (s.ctx l).block.isNone then
      match (s.ahead l).head? with
      | some (m, x) =>
        if x.addr = (s.ctx l).pc.toNat then done (.seq (.adopt l m x) (.when x.whole (.judge l x.epoch x.bad))) s
        else done (.seq (.dropAhead l) (.fetchBlock l)) s
      | none => done (.fetchBlock l) s
    else .next s
  | _ => .next s

/-- The read that brings the rest of a block (R464). -/
def Act.secondRead (l : Loc) (epoch addr cls : Nat) : Act := .fetchRead l epoch true (addr + 160) (128 * cls)

/-- What a read of a block brings (R49, R464): the first tells the size class, and a second follows where that is more; a cause of order 2 in either
comes before an uncorrectable error in the first. -/
def Act.fetched (l : Loc) (epoch : Nat) (b : Block) (second : Bool) (ans : Answer) : Act :=
  let torn := ans.cause == 0x11 && !ans.data.isEmpty
  if ans.cause ≠ 0 ∧ !torn then .raise l epoch 0 ans.cause 0 ans.addr
  else
    let bytes := if second then b.bytes ++ ans.data else ans.data
    let bad := b.bad.orElse fun _ => if torn then some ans.addr else none
    let cls := bits (numAt bytes 0 4) 23 22
    .seq (.block l fun x => { x with bytes := bytes, bad := bad })
      (if !second && cls != 0 then .secondRead l epoch b.addr cls
      else .judge l epoch bad)

/-- A read of a predicted block that has failed is dropped and counted, with the block and those behind it; if it is the non-speculative block by now, the
read is made again (R114, R328). -/
def Act.fetchFailed (m : Loc) (epoch : Nat) (second : Bool) : Act :=
  .read fun s => .seq (.count m 0x300) (
    match s.blockAt m epoch with
    | some _ => .each ((s.ahead m).filter fun x => decide (epoch ≤ x.2.epoch)) fun x => .dropBlock x.1
    | none => match s.blockAt (realCtx m) epoch with
      | some b => if second then .secondRead (realCtx m) epoch b.addr (bits (numAt b.bytes 0 4) 23 22)
          else .fetchRead (realCtx m) epoch false b.addr 160
      | none => .skip)

/-- `BLOCK_FETCH_READ_RETURN` (R464). -/
def execBlockFetchReadReturn (s : State) : Host.Outcome State Fault Refusal :=
  match s.cur with
  | .blockFetchReadReturn l ep second ans =>
    if isAhead l && ans.cause != 0 then done (.fetchFailed l ep second) s
    else
      let k := if (s.blockAt l ep).isSome then l else realCtx l
      (match s.blockAt k ep with
      | none => .next s
      | some b => if b.ready ∨ b.fault.isSome then .next s else done (.fetched k ep b second ans) s)
  | _ => .next s

/-! ## Frames (R391, R405) -/

/-- The frames that a block takes on each core of its polder: its class on its owner, and with `comp` one on each other member that
runs some of its slots (R391, R405). -/
def State.frameNeed (s : State) (l : Loc) (b : Block) : List (Nat × Nat) :=
  let n := bits (b.hw 0) 23 22 + 1
  match (s.ctx l).lead with
  | none => [(l.core, n)]
  | some (_, k) =>
    let base := l.core / 2 ^ k * 2 ^ k
    let o := blockOwner k b.addr
    let others := if bit (b.hw 0) 19 then
        ((List.range (2 ^ k)).filter fun m => m != o && (List.range b.slots).any fun i => memberOf k o i true == m) else []
    (base + o, n) :: others.map fun m => (base + m, 1)

/-- Frames of a core that blocks in execution hold, with (`all`) or without those of predicted blocks (R391). -/
def State.framesUsed (s : State) (all : Bool) (c : Loc) : Nat :=
  ((s.ctxs.filter fun x => x.1.toPolder == c.toPolder).map fun x => match x.2.block with
    | some b => if b.ready && (all || !isAhead x.1) then ((s.frameNeed x.1 b).filterMap fun q => if q.1 = c.core then some q.2 else none).sum else 0
    | none => 0).sum

/-- The frames that a block needs are free. -/
def State.framesFit (s : State) (l : Loc) (b : Block) : Bool :=
  (s.frameNeed l b).all fun q => decide (s.framesUsed true { l with core := q.1 } + q.2 ≤ 4)

/-- The cores on which a block takes frames. -/
def State.frameCores (s : State) (l : Loc) (b : Block) : List Nat := (s.frameNeed l b).map fun q => q.1

/-- Blocks of a polder that are checked and wait for frames, oldest first: the non-speculative or the predicted ones (R391). -/
def State.waitingBlocks (s : State) (isPredicted : Bool) (c : Loc) : List (Loc × Block) :=
  let ws := s.ctxs.filterMap fun x => match x.2.block with
    | some b =>
      if isAhead x.1 = isPredicted ∧ x.1.toPolder = c.toPolder ∧ !b.ready ∧ b.whole ∧ b.fault.isNone
          ∧ (!isPredicted || (b.bad.isNone && (b.check x.1.narrow).isNone)) then some (x.1, b) else none
    | none => none
  sortBy (fun x => x.2.epoch) ws

/-- Those among them that wait for frames of a core. -/
def State.waitingOn (s : State) (isPredicted : Bool) (c : Loc) : List (Loc × Block) :=
  (s.waitingBlocks isPredicted c).filter fun w => (s.frameCores w.1 w.2).contains c.core

/-- Begin to execute a block: its instructions without operands fire (R34). -/
def Act.startBlock (l : Loc) (epoch : Nat) : Act :=
  .read fun s =>
    match s.blockAt l epoch with
    | some b => .all [
        .block l (fun x => { x with ready := true }),
        .each (b.exitsLast ((b.instrs.filter fun x => (operandsOf x.2).isEmpty).map fun x => x.1)) (fun n => .offer l epoch n),
        .when (!isAhead l) (.lookAhead l),
        .settle l epoch]
    | none => .skip

/-- The predicted blocks that hold frames on the cores where a block needs some, youngest first (R391). -/
def State.framedAhead (s : State) (l : Loc) (b : Block) : List (Loc × Block) :=
  (sortBy (fun x => x.2.epoch) (s.ctxs.filterMap fun x => match x.2.block with
    | some y => if isAhead x.1 && decide (x.1.toPolder = l.toPolder) && y.ready && (s.frameNeed l b).any (fun q => q.1 == x.1.core)
        then some (x.1, y) else none
    | none => none)).reverse

/-- Discard predicted blocks, the youngest first, while a block that waits lacks frames (R391). -/
def Act.makeRoom (x : Loc × Block) : List (Loc × Block) → Act
  | [] => .skip
  | y :: ys => .read fun s => if s.framesFit x.1 x.2 then .skip else .seq (.dropBlock y.1) (Act.makeRoom x ys)

/-- Give frames to waiting blocks in turn; those of a core for which an older block waits on (`held`) are held for it. A non-speculative block takes those
of predicted ones (R391). -/
def Act.startWaiting : List (Loc × Block) → List Nat → Act
  | [], _ => .skip
  | x :: xs, held => .read fun s =>
    let cores := s.frameCores x.1 x.2
    if cores.any held.contains then Act.startWaiting xs (held ++ cores)
    else .seq (.when (!isAhead x.1) (.makeRoom x (s.framedAhead x.1 x.2)))
      (.read fun t =>
        if t.framesFit x.1 x.2 then .seq (.startBlock x.1 x.2.epoch) (Act.startWaiting xs held) else Act.startWaiting xs (held ++ cores))

/-! ## Tokens and starvation (R34, R37, R41) -/

/-- A token reaches its operand; a second one on an operand faults (R34, R37). -/
def Act.token (l : Loc) (epoch : Nat) (o : Opnd) (slot : Nat) (tok : Token) : Act :=
  .read fun s =>
    match s.blockAt l epoch with
    | none => .skip
    | some b =>
      if !b.live s.now then .skip
      else if (b.operand slot o).isSome then .raise l epoch slot 1 slot 0
      else .all [
        .block l (fun x => { x with ops := x.ops ++ [(slot, o, tok)] }),
        .offer l epoch slot, .wake l, .settle l epoch]

/-- `TOKEN_ARRIVAL` (R34). -/
def execTokenArrival (s : State) : Host.Outcome State Fault Refusal :=
  match s.cur with
  | .tokenArrival l ep o slot tok => done (.token l ep o slot tok) s
  | _ => .next s

/-- `BLOCK_STARVED` (R41). -/
def execBlockStarved (s : State) : Host.Outcome State Fault Refusal :=
  match s.cur with
  | .blockStarved l ep => done (match s.blockAt l ep with
    | some b => .when (s.starved l b) (.raise l ep 128 2 8 0)
    | none => .skip) s
  | _ => .next s

/-- `PORT_PUSH_TIMEOUT`: a port push held for more than 4,096 cycles faults (R68). -/
def execPortPushTimeout (s : State) : Host.Outcome State Fault Refusal :=
  match s.cur with
  | .portPushTimeout l ep => done (match s.blockAt l ep with
    | some b => .when (b.heldSince.any fun t => decide (t + 4096 < s.now)) (.raise l ep 128 2 9 0)
    | none => .skip) s
  | _ => .next s

end Sys2Proof.Machine
end

