-- ==== Sys2Proof/Machine/Boundary.lean ====
section
/-! DEFINITION. What happens at a block boundary (spec/16 R334-R343): failure and abandonment of a block, traps, stops, the end of a
thread with its completion duties (spec/04 R99, spec/09 R211, R226), and the next fetch (spec/20 R390). -/

namespace Sys2Proof.Machine

/-! ## Ending a thread (R99, R211, R226, R339, R345) -/

/-- The status byte of a host completion's word 0, bits [27:16], from R226's status bits and a code (R451). -/
def hostStatus (st code : Nat) : Nat :=
  field (st % 2) 1 11 + field (bits st 1 1) 1 10 + field (bits st 2 2) 1 9 + field (bits st 3 3) 1 8 + code % 256

/-- Held window writes are applied, in order of arrival, and the context's predicted blocks are discarded (R64). -/
def Act.applyWindow (l : Loc) : Act :=
  .read fun s => .seq
    (.when (!(s.ctx l).window.isEmpty) (.seq (.dropAhead l) (.each (s.ctx l).window fun w =>
      .writePlace ⟨l.toPolder, 2, l.core * 0x20000 + (s.ctx l).wp.toNat + 8 * w.1⟩ (bytesOf 8 w.2.toNat))))
    (.ctx l fun c => { c with window := [] })

/-- Free a mailbox slot that a started handler held (R400). -/
def Act.freeSlot (c : Loc) (chan : Nat) : Act :=
  .seq (.core c fun k =>
      let held := k.mail.filter fun m => m.started && m.chan == chan
      match held with
      | m :: _ => { k with mail := k.mail.erase m }
      | [] => k)
    (.offerWork c)

/-- The join counter of a task is decremented as `AMORL.DECZ` would, after every other duty (R211). -/
def Act.joinDecrement (l : Loc) (part pasid a : Nat) : Act :=
  .submit ⟨l, part, pasid, a, 8, false, .atomic ⟨.core l.core, .decz, .release, false, 0, 0, a, .duty l a⟩, false⟩

/-- The completion duties of a thread: its mailbox slot, its report to the launch tree
at the polder where the group was placed, its host completion, and its join counter
(R99, R211, R226, R409, R452). `st` is the status of R226. -/
def Act.performDuties (l : Loc) (d : Duties) (tree st : Nat) : Act :=
  .read fun s =>
    .all [
      (match d.slot with
        | some ch => .freeSlot l ch
        | none => .skip),
      (if bit tree 63 then
        let p : Loc := match d.origin with
          | .group _ _ home => Loc.polderOf l.dev home
          | _ => l.toPolder
        match (s.polder p).merges.find? fun m => m.idx == bits tree 5 0 with
        | some m => .event (if p = l.toPolder then 0 else 8 + s.way l p) (.mergeReport l.toPolder p m.launch 1 st)
        | none => .skip
      else .skip),
      (match d.origin with
        | .host t => .event 0 (.hostWorkComplete l.toDev t (hostStatus st 0) 1)
        | _ => .skip),
      .when (d.join != 0) (.joinDecrement l (s.partOf l) d.joinPasid d.join)]

/-- R226's status of a thread that ends. `abort` says that the thread was ended after an abort record, not that it went on to its own `END` (R226,
R288; notes/assumptions 125). -/
def endStatus (c : Context) (flt : Bool) : Nat :=
  boolNat flt + 2 * boolNat c.duties.dry + 4 * boolNat (flt && c.duties.abort) + 8 * boolNat (bit c.tree.toNat 6)

/-- A halt command finds no thread to halt any more (R455). -/
def Act.commandGone (l : Loc) : Act :=
  .polder l fun p => if p.cmdHalt = some l then { p with cmdHalt := none, cmdBusy := false, cmdRes := 1 } else p

/-- A packet about a thread goes from `l` to a core that holds an entry of it, unless loss separates them (R345, R353). -/
def Act.tellHolder (l h : Loc) (e : Event) : Act :=
  .read fun s => .when (!s.severed l h) (.event (8 + s.way l h) e)

/-- The thread of a context ends: its duties are done here, or, where the thread has come from elsewhere, its holders are told (R345,
R404); its slots are freed or parked (R197), and the context is DORMANT. -/
def Act.endContext (l : Loc) (flt : Bool) : Act :=
  .read fun s =>
    let c := s.ctx l
    .all [
      .dropAhead l,
      .applyWindow l,
      .leaveSlots l (!flt),
      (if c.holders.isEmpty then .performDuties l c.duties c.tree.toNat (endStatus c flt)
      else .each c.holders fun h =>
        .tellHolder l h (.threadReleaseArrival h ⟨l, s.partOf l, flt, c.duties.dry, flt && c.duties.abort, bit c.tree.toNat 6, false⟩)),
      .ctx l (fun x => { x with
        state := 0#3, sup := false, block := none, guest := false, holders := [], faultQ := [], faultLost := false, rowQ := [],
        late := [], surplus := 0, duties := Duties.none, window := [], stopReq := false, haltCause := 0, bySwap := false, wasSusp := false }),
      .each c.late fun f => .lateToHost l (s.partOf l) c.thread (s.engineRec l f.cause 0 f.addr f.seq),
      .when (decide (0 < c.surplus)) (.lateToHost l (s.partOf l) c.thread (s.engineRec l 0 c.surplus 0 0)),
      .commandGone l,
      .event 0 (.contextAllocation l.toCore),
      .event 0 (.contextDispatch l.toCore)]

/-- End the composition that a lead runs: its member slots become DORMANT (R228, R408). -/
def Act.decompose (l : Loc) : Act :=
  .read fun s =>
    match (s.ctx l).lead with
    | some (_, n) => .seq
        (.each (memberSlots l n) fun m =>
          .all [.applyWindow m, .ctx m fun x => { x with state := 0#3, lead := none }, .event 0 (.contextAllocation m.toCore)])
        (.ctx l fun x => { x with lead := none })
    | none => .skip

/-- The other members of the composed core that a context leads may have frames again (R391). -/
def Act.stirMembers (l : Loc) : Act :=
  .read fun s => match (s.ctx l).lead with
    | some (_, n) => .each (memberSlots l n) fun m => .event 0 (.contextDispatch m.toCore)
    | none => .skip

/-! ## Communicators (R422, R423) and fatal faults (R349) -/

/-- Polder `m` of a member table, as the polder `p` sees it. -/
def State.memberAt (s : State) (p : Loc) (m : Nat × Nat) : Loc := Loc.polderOf (s.devAt p.dev m.1) m.2

/-- Members of a communicator. -/
def Comm.size (c : Comm) : Nat := c.members.length
/-- The communicator of an identity on a polder. -/
def State.commAt (s : State) (p : Loc) (cid : Nat) : Option Comm := (s.polder p).comms.find? fun c => c.cid == cid

/-- The peer's side of a communicator. -/
def State.peerComm (s : State) (p : Loc) (c : Comm) (rank : Nat) : Option Comm :=
  s.commAt (s.memberAt p (c.members.getD rank (0, 0))) c.cid

/-- A home range lies in core memory or HBM. -/
def coreOrHbm (a n : Nat) : Bool :=
  let within (lo hi : Nat) : Bool := decide (lo ≤ a) && decide (a + n ≤ hi)
  within 0 0x20000 || within 0x100000 0x200000 || within 0x100000000 0x180000000

/-- The entries of a member table: device and polder index. -/
def State.memberTable (s : State) (l : Loc) (a m : Nat) : List Nat := (List.range m).map fun i => numAt (s.homeBytes l (a + 4 * i) 4) 0 4

/-- A communicator record, copied at activation; none where R423 refuses it. -/
def State.readComm (s : State) (l : Loc) (a : Nat) : Option Comm :=
  let bs := s.homeBytes l a 64
  let w (i : Nat) : Nat := numAt bs (8 * i) 8
  let m := bits (w 1) 43 32 + 1
  let rank := bits (w 1) 11 0
  let tix := bits (w 0) 57 45
  let rsv := bits (w 0) 44 43 + bits (w 0) 35 32 + bits (w 0) 15 0 + bits (w 1) 63 44 + bits (w 1) 31 12 + bits (w 2) 63 40
    + bits (w 3) 23 0 + bits (w 5) 63 8 + w 6 + w 7
  let tab := bits (w 2) 39 0
  let es := s.memberTable l tab m
  let ms := es.map fun e => (bits e 31 24, bits e 23 15)
  if !bit (w 0) 63 || rsv != 0 || tix == 0 || decide (4096 < tix) || bits (w 0) 31 16 == 0 || decide (m ≤ rank) || tab % 4 != 0
      || !coreOrHbm tab (4 * m) || es.any (fun e => e % 2 ^ 15 != 0 || decide (384 ≤ bits e 23 15))
      || ms.getD rank (0, 0) != ((s.device l).podpos, l.pidx) || !decide ms.Nodup then none
  else some
    { cid := bits (w 0) 31 16, chan := bits (w 0) 61 60, prio := bits (w 0) 59 58, tix := tix, hev := bit (w 0) 42, hidx := bits (w 0) 41 36,
      rank := rank, members := ms, record := polderView l a, part := s.partOf l, mtid := 0, pg := 0, dg := 0, base := 0, staging := [[], []], readers := [], shown := (0, 0), pairs := [],
      cmds := [], peers := [], pass := 0, ready := false, sub := 0, chunk := none, stopped := bit (w 0) 62 }

/-- The gauges of a member, counted over all activations: it is by these that the members' steps match one another (R425; notes/assumptions 77). -/
def Comm.pgAll (c : Comm) : Nat := c.base + c.pg
/-- The same of `dg`. -/
def Comm.dgAll (c : Comm) : Nat := c.base + c.dg

/-- The gauges of the other members as they stand when the communicator becomes active here. -/
def State.firstPeers (s : State) (p : Loc) (c : Comm) : List Peer :=
  (List.range c.size).filterMap fun r => if r = c.rank then none else (s.peerComm p c r).map fun x => ⟨r, x.pgAll, x.dgAll, x.shown.1, x.shown.2, false⟩

/-- Communicators that system software has built here and of which the slice knows, though no command of them has been accepted: they enter as their
records stand, unless they are known or halted (R281, R350; notes/assumptions 124). -/
def Act.enterBuilt (p : Loc) : Act :=
  .read fun s => Act.each (s.polder p).built fun a =>
    let l := p.toPolder
    .read fun t => match t.readComm l a with
      | some c => .when ((t.commAt p c.cid).isNone && !c.stopped) (.polder p fun q => { q with
          comms := q.comms ++ [{ c with peers := t.firstPeers l c, mtid := bits (t.home64 l (polderView l a + 24)) 47 24 }]
          halted := q.halted.filter fun x => x != c.cid
          aborts := q.aborts.filter fun x => x.cid != c.cid })
      | none => .skip

/-- A packet of a communicator goes to the slice of a member; one that no route of the partition reaches, or that is dry, receives none (R350, R352,
R462). -/
def Act.tellSlice (p d : Loc) (part : Nat) (e : Event) : Act :=
  .read fun s =>
    if d.toPolder = p.toPolder then .event 0 e
    else .when (s.routed p d part && !s.isDry p d) (.event (8 + s.way p d) e)

/-- The initiator sends ABORT to every member of a communicator, itself among them (R349, R350). -/
def Act.initiateAbort (p : Loc) (members : List (Nat × Nat)) (part cid reason : Nat) : Act :=
  .read fun s => Act.each members fun m => .tellSlice p (s.memberAt p m) part (.abortPacket (s.memberAt p m) cid reason p.toPolder)

/-- A context is ended by a fault, or by system software: that is fatal to the communicators whose member context it is (R349). -/
def Act.fatalFor (l : Loc) : Act :=
  .seq (.enterBuilt l) (.read fun s => Act.each ((s.polder l).comms.filter fun cm => s.tidLoc l.dev cm.mtid == l) fun cm =>
    .initiateAbort l.toPolder cm.members cm.part cm.cid 1)

/-! ## Traps (R335-R339) -/

/-- The causes whose frame or record shows no address (R332). -/
def tvalOf (cause addr : Nat) : Nat := if [1, 2, 0x0A, 0x0C, 0x0F, 0x10, 0x12].contains cause then 0 else addr % 2 ^ 64

/-- The context is ended by a fault (R339). -/
def Act.endedByFault (l : Loc) (r : FaultRec) : Act :=
  .read fun s => .all [.fatalFor l, .hostRec l (s.partOf l) r, .endContext l true]

/-- The frame of a context is written as an `ST64` is: it waits for work of the context itself, and for a zeroing (R172, R196, R279, R324, R338). -/
def State.frameWaits (s : State) (l : Loc) : Bool :=
  let f := (s.ctx l).trapframe.toNat
  ((List.range 8).any fun i => s.storeWaits l (s.storeKey l (f + 8 * i)) 8) || (homePlace l f).any s.unsettled

/-- Take a trap that is due at a boundary, or end or halt the context (R335, R338, R339). The composition of a composed core ends
first (R408). A trap whose frame must wait is looked at again in the next cycle. -/
def Act.takeTrap (l : Loc) (t : Trap) : Act :=
  .seq (.seq (.dropAhead l) (.decompose l)) (.read fun s =>
    let c := s.ctx l
    if c.sup then .doubleTrap l t t.epc
    else if c.trapvec = 0#64 then .endedByFault l (s.coreRec l t.cause t.inner t.detail t.tval (if t.cause = 0x0D then t.seq else 0))
    else if s.frameWaits l then .all [
      .each (homePlace l c.trapframe.toNat).toList .startZeroing,
      .ctx l fun x => { x with trapWait := some t },
      .event 1 (.blockAbandon l 0)]
    else .seq (.enterTrap l t) (.each (homePlace l c.trapframe.toNat).toList fun p => .passLines p 64))

/-! ## Stops (R343) -/

/-- A context command that waited for a boundary of the context is done: with 0 where the context is HALTED, else with 1 (R455). -/
def Act.commandDone (l : Loc) : Act :=
  .read fun s => .polder l fun p =>
    if p.cmdHalt = some l then { p with cmdHalt := none, cmdBusy := false, cmdRes := if (s.ctx l).state = 4#3 then 0 else 1 } else p

/-- A requested stop is met (R343, R455). -/
def Act.stopNow (l : Loc) (pc : Nat) : Act := .all [.dropAhead l, .decompose l, .halt l pc, .commandDone l]

/-! ## The boundary (R335) -/

/-- Step 5 of R335: the next block is fetched, unless a READY context of higher priority takes the place (R390). -/
def Act.nextBlock (l : Loc) : Act :=
  .read fun s =>
    let c := s.ctx l
    if c.state ≠ 2#3 then .event 0 (.contextDispatch l.toCore)
    else if (List.range 8).any fun k =>
        let x := s.ctx { l with ctx := k }
        decide (x.state = 1#3) && decide (c.prio.toNat < x.prio.toNat) then
      .seq (.ctx l fun x => { x with state := 1#3, readyAt := s.now }) (.event 0 (.contextDispatch l.toCore))
    else .seq (.event 0 (.blockFetch l)) (.event 0 (.contextDispatch l.toCore))

/-- The surplus of late faults, reported as one more late trap (R336). -/
def surplusTrap (c : Context) : Trap :=
  ⟨1, 0x0D, min c.surplus (2 ^ 20 - 1), 0, 0, 0, c.pc.toNat, 0, []⟩

/-- Steps 3 and 4 of R335: a late trap for the oldest late fault, else a record trap for the oldest record. -/
def Act.lateOrRecord (l : Loc) : Act :=
  .read fun s =>
    let c := s.ctx l
    if c.sup ∨ c.state ≠ 2#3 then .skip
    else match c.late with
      | f :: rest => .seq (.ctx l fun x => { x with late := rest })
          (.takeTrap l ⟨1, 0x0D, 0, 0, f.cause, f.seq, c.pc.toNat, f.addr, []⟩)
      | [] =>
        if 0 < c.surplus then .seq (.ctx l fun x => { x with surplus := 0 }) (.takeTrap l (surplusTrap c))
        else if c.trapvec = 0#64 then .skip
        else match c.faultQ with
          | r :: rest => .seq (.ctx l fun x => { x with faultQ := rest })
              (.takeTrap l ⟨2, r.cause, r.detail % 2 ^ 20, 0, 0, 0, c.pc.toNat, tvalOf r.cause r.addr, recWords r⟩)
          | [] => .skip

/-- A boundary after step 1: the window writes, the stop, late faults and records, and the next block (R64, R335). `trapped` says
that step 1 entered a trap. -/
def Act.boundary (l : Loc) (trapped : Bool) : Act :=
  .seq (.applyWindow l) (.read fun s =>
    let c := s.ctx l
    if c.trapWait.isSome then .skip
    else if c.state ≠ 2#3 then .seq (.commandDone l) (.event 0 (.contextDispatch l.toCore))
    else if c.stopReq then .seq (.stopNow l c.pc.toNat) (.event 0 (.contextDispatch l.toCore))
    else .seq (.when (!trapped) (.lateOrRecord l)) (.read fun t => .when (t.ctx l).trapWait.isNone (.nextBlock l)))

/-! ## Failure of a block (R334) -/

/-- Remove the listen slot of a registration that was never armed. -/
def Act.dropListen (p : Loc) (h : Handle) : Act :=
  .polder p fun q => { q with listens := q.listens.filter fun t => !(t.handle == h && !t.armed) }

/-- Give back what a block that does not commit has reserved: watch entries, listen slots, member slots and special-function requests
(R123, R164, R212, R227). Reservations of the deque and rings, and of queue words, are those of blocks in flight. -/
def Act.releaseBlock (l : Loc) (b : Block) : Act :=
  .seq (.each b.acts fun a => match a.2 with
      | .watch _ h _ => .seq (.cancelWatch l h true false) (.dropListen l h)
      | .launch _ (some h) => .cancelWatch l h true false
      | .join _ _ h => .polder l fun q => { q with watches := q.watches.filter fun w => !(w.idx == h.entry && w.gen == h.gen) }
      | .compose ms => .each ms fun m => .seq (.ctx m fun x => { x with reserved := none }) (.event 0 (.contextAllocation m.toCore))
      | _ => .skip)
    (.core l fun k => { k with sfu := k.sfu.filter fun r => !(r.l == l && r.epoch == b.epoch) })

/-- An atomic of the block has not been answered. -/
def Block.awaitsAtomic (b : Block) : Bool := b.out.any fun n => (b.instrAt n).any isAtomic

/-- A failed block is abandoned once its atomics are answered, and its precise trap is taken (R334). A predicted block never faults: it executes no further,
a load that could not complete is dropped and counted, and everything is done again once the block is the non-speculative one (R114). -/
def Act.abandon (l : Loc) (epoch : Nat) : Act :=
  .read fun s =>
    match s.blockAt l epoch with
    | none => .skip
    | some b =>
      match b.fault with
      | none => .when (b.again && !b.fixed && !isAhead l) (.all [
          .stirMembers l, .dropAhead l, .releaseBlock l b, .ctx l (fun c => { c with block := none, pc := w64 b.addr }), .wakeCore l, .boundary l true])
      | some f =>
        if isAhead l then .when ((b.instrAt f.slot).any fun i => (loadLsid i).isSome) (.count l 0x300)
        else if b.awaitsAtomic then .skip
        else .all [
          .stirMembers l,
          .releaseBlock l b,
          .ctx l (fun c => { c with
            block := none, pc := w64 b.addr, duties := { c.duties with dry := c.duties.dry || f.cause == 9 } }),
          .takeTrap l ⟨0, f.cause, f.detail, b.namo, 0, 0, b.addr, tvalOf f.cause f.addr, []⟩,
          .wakeCore l,
          .boundary l true]

/-- A trap that has waited for its frame is taken, if its context still runs (R338). -/
def Act.resumeTrap (l : Loc) (t : Trap) : Act :=
  .read fun s => .seq (.ctx l fun c => { c with trapWait := none })
    (.when (decide ((s.ctx l).state = 2#3)) (.seq (.takeTrap l t) (.boundary l true)))

/-- `BLOCK_ABANDON` (R334). -/
def execBlockAbandon (s : State) : Host.Outcome State Fault Refusal :=
  match s.cur with
  | .blockAbandon l ep => done (match (s.ctx l).trapWait with
    | some t => .resumeTrap l t
    | none => .abandon l ep) s
  | _ => .next s

/-- Ask a context to stop: a READY one, or one whose block has sent no atomic, stops at once; another at its boundary (R343). -/
def Act.requestStop (l : Loc) : Act :=
  .read fun s =>
    let c := s.ctx l
    if c.state = 1#3 then .seq (.stopNow l c.pc.toNat) (.event 0 (.contextDispatch l.toCore))
    else if c.state ≠ 2#3 then .skip
    else match c.block with
      | some b =>
        if decide (b.namo ≠ 0) || b.awaitsAtomic || b.fault.isSome then .ctx l fun x => { x with stopReq := true }
        else .all [.stirMembers l, .dropAhead l, .releaseBlock l b, .ctx l (fun x => { x with block := none, pc := w64 b.addr, stopReq := true }), .wakeCore l, .boundary l true]
      | none => .seq (.ctx l fun x => { x with stopReq := true }) (.boundary l true)

end Sys2Proof.Machine
end

