-- ==== Sys2Proof/Machine/Control.lean ====
section
/-! DEFINITION. Registers into and out of the block and the exits (spec/03 R65-R71, spec/04 R78-R80, R96-R102,
spec/09 R230-R232). -/

namespace Sys2Proof.Machine

/-! ## READ (R65, R78) -/

/-- `stat` (R70). -/
def Context.stat (c : Context) : Nat :=
  field c.lcount 20 41 + field (boolNat (c.lcount != 0)) 1 40
    + field (match c.late with
      | f :: _ => f.cause
      | [] => 0) 8 32
    + c.dseq.toNat * 2 ^ 16 + c.rseq.toNat

/-- `cyc`: cycles of the reference since the die left reset (R71). -/
def State.cyc (s : State) (l : Loc) : Nat :=
  let d := s.device l
  (s.now - (match d.dieBase.find? fun x => x.1 == l.die with
    | some x => x.2
    | none => d.cycBase)) % 2 ^ 64

/-- The value that `READ` delivers for a register that has no queue (R65). -/
def State.regValue (s : State) (l : Loc) (r : Nat) : Nat :=
  let c := s.ctx l
  if r < 16 then (if isAhead l then ((s.ctx l).block.bind fun b => s.aheadWord l b r).getD 0 else s.wword l r)
  else match r with
    | 16 => c.wp.toNat
    | 17 => s.tid l
    | 18 => c.stat
    | 19 => c.pol.toNat
    | 20 => 64 - (s.core l).ring.length
    | 22 => 64 - (s.core l).ring.length
    | 23 => 64 - (s.core l).ring.length
    | 28 => c.fq
    | 29 => s.cyc l
    | _ => 0

/-- The queue word that a `READ` of `eq1` or of a port reserves (R67). -/
def State.queueWord (s : State) (l : Loc) (b : Block) (r : Nat) : Option PortWord :=
  if r = 21 then (s.ctx l).rowQ[(b.pops.filter fun p => p.reg == 21).length]?.map fun w => ⟨0, w⟩
  else match portOf r with
    | some k => (s.portFree l k).head?
    | none => none

/-- `READ` (R78). -/
def execRead (r : BitVec 5) (t1 t0 : Target) (s : State) : Host.Outcome State Fault Refusal :=
  slotStep (.inBlock fun s b =>
    let l := s.focus.l
    let n := r.toNat
    if n = 21 || (portOf n).isSome then
      match s.queueWord l b n with
      | some w => .seq (.block l fun x => { x with
            pops := x.pops ++ [⟨n, s.focus.slot, w.tag, w.word⟩]
            waiting := x.waiting.filter fun k => k.1 != s.focus.slot })
          (.send 0 (.val w.word) [t0, t1])
      | none => .block l fun x => { x with
          fired := x.fired.filter fun k => k != s.focus.slot
          waiting := if x.waiting.any fun k => k.1 == s.focus.slot then x.waiting else x.waiting ++ [(s.focus.slot, s.now)] }
    else .seq (.block l fun x => { x with waiting := x.waiting.filter fun k => k.1 != s.focus.slot })
      (.send 0 (.val (w64 (s.regValue l n))) [t0, t1])) s

/-! ## WRITE (R79, R80) -/

/-- What waits for commit besides the register's own value: ring pushes and port pushes (R66, R68, R79). -/
def writeActs (slot r : Nat) (v : Option W64) : List (Nat × CommitOp) :=
  match v with
  | none => []
  | some w =>
    match portOf r with
    | some k => [(slot, .port k w)]
    | none => if r = 20 || r = 22 || r = 23 then [(slot, .push (r - 20) w.toNat)] else []

/-- Mark a register written, with a value or a null; a second `WRITE` of one number faults (R79, R80). -/
def Act.markWrite (r : Nat) (v : Option W64) : Act :=
  .inBlock fun s b =>
    if b.writes.any fun w => w.1 == r then .fault 2 10 0
    else .block s.focus.l fun x => { x with writes := x.writes ++ [(r, v)], acts := x.acts ++ writeActs s.focus.slot r v }

/-- `WRITE` (R79). -/
def execWrite (p : Pred) (r : BitVec 5) (s : State) : Host.Outcome State Fault Refusal :=
  slotStep (.firing p [.l] (.markWrite r.toNat none) fun vs => .markWrite r.toNat (some (arg vs 0))) s

/-! ## Exits (R96-R102) -/

/-- An exit fires: its choice is recorded; a second exit faults (R40, R96). -/
def Act.exitWith (k : State → Block → ExitAct) : Act :=
  .inBlock fun s b =>
    if b.exit.isSome then .fault 2 7 0
    else .block s.focus.l fun x => { x with exit := some (k s b), exits := x.exits + 1 }

/-- `BR` (R97). -/
def execBr (p : Pred) (_e : BitVec 3) (o : BitVec 20) (s : State) : Host.Outcome State Fault Refusal :=
  slotStep (.firing p [] .skip fun _ => .exitWith fun _ b => .goto (exitTarget b.addr o)) s
/-- `BRL` (R97). -/
def execBrl (p : Pred) (_e : BitVec 3) (s : State) : Host.Outcome State Fault Refusal :=
  slotStep (.firing p [.l] .skip fun vs => .exitWith fun _ _ => .goto (arg vs 0).toNat) s
/-- `CALL` (R97). -/
def execCall (p : Pred) (_e : BitVec 3) (o : BitVec 20) (s : State) : Host.Outcome State Fault Refusal :=
  slotStep (.firing p [] .skip fun _ => .exitWith fun _ b => .call (exitTarget b.addr o) b.next) s
/-- `CALLL` (R97). -/
def execCalll (p : Pred) (_e : BitVec 3) (s : State) : Host.Outcome State Fault Refusal :=
  slotStep (.firing p [.l] .skip fun vs => .exitWith fun _ b => .call (arg vs 0).toNat b.next) s
/-- `RET`: as `BRL` (R97). -/
def execRet (p : Pred) (_e : BitVec 3) (s : State) : Host.Outcome State Fault Refusal :=
  slotStep (.firing p [.l] .skip fun vs => .exitWith fun _ _ => .goto (arg vs 0).toNat) s
/-- `END` (R97, R99). -/
def execEnd (p : Pred) (_e : BitVec 3) (s : State) : Host.Outcome State Fault Refusal :=
  slotStep (.firing p [] .skip fun _ => .exitWith fun _ _ => .done) s
/-- `SUSP` (R97, R100). -/
def execSusp (p : Pred) (_e : BitVec 3) (o : BitVec 20) (s : State) : Host.Outcome State Fault Refusal :=
  slotStep (.firing p [] .skip fun _ => .exitWith fun _ b => .suspend (exitTarget b.addr o)) s

/-- The polder that a `MIGR` token names, or the cause it meets (R101); a token that misses the TLB is walked in the cycle of its use
(notes/assumptions 144). -/
def State.migrTarget (s : State) (l : Loc) (a : Nat) : Except Nat Loc :=
  if a < 2 ^ 40 then .ok l.toPolder
  else
    let c := s.ctx l
    match s.resolve l (s.partOf l) c.pasid.toNat c.sup a false with
    | .ok p => .ok p.owner
    | .error e => .error e

/-- `MIGR`: a member of a composed core takes an illegal-instruction fault, a translation fault is the block's (R101). -/
def execMigr (p : Pred) (_e : BitVec 3) (o : BitVec 20) (s : State) : Host.Outcome State Fault Refusal :=
  slotStep (.firing p [.l] .skip fun vs => .inBlock fun s b =>
    if (s.ctx s.focus.l).lead.isSome then .fault 1 s.focus.slot 0
    else .seq (.walkNow s.focus.l (s.partOf s.focus.l) (s.ctx s.focus.l).pasid.toNat (arg vs 0).toNat)
      (match s.migrTarget s.focus.l (arg vs 0).toNat with
      | .ok d => .exitWith fun _ _ => .migrate (exitTarget b.addr o) d
      | .error e => .fault e 0 (arg vs 0).toNat)) s

/-- `SYSC`: its trap is taken at commit (R231). -/
def execSysc (p : Pred) (_e : BitVec 3) (c : BitVec 20) (s : State) : Host.Outcome State Fault Refusal :=
  slotStep (.firing p [] .skip fun _ => .exitWith fun _ b => .sysc b.next c.toNat) s

/-! ## Workspace pointers and ERET (R230, R232, R340) -/

/-- Checks 2 to 4 of `SWITCH` on a workspace pointer: 0 when it may be taken (R230). -/
def State.wpCause (s : State) (l : Loc) (wp : Nat) : Nat :=
  if wp % 128 ≠ 0 then 3
  else if 0x1FF80 < wp then 7
  else if (List.range 8).any fun c =>
      let k : Loc := { l with ctx := c }
      c != l.ctx && decide ((s.ctx k).state ≠ 0#3) && overlap (s.ctx k).wp.toNat 128 wp 128 then 8
  else 0

/-- `SWITCH` (R230). -/
def execSwitch (p : Pred) (s : State) : Host.Outcome State Fault Refusal :=
  slotStep (.firing p [.l] .skip fun vs => .inBlock fun s _ =>
    let l := s.focus.l
    let a := (arg vs 0).toNat
    let c := if (s.ctx l).sup then s.wpCause l a else 0x0C
    if c ≠ 0 then .fault c 0 a
    else .block l fun x => { x with acts := x.acts ++ [(s.focus.slot, .switch a)] }) s

/-- Word `i` of the trap frame of a context as memory holds it (R337). -/
def State.frameWord (s : State) (l : Loc) (i : Nat) : Nat := s.home64 l ((s.ctx l).trapframe.toNat + 8 * i)

/-- `ERET`: a user context takes a privilege fault; the frame's `swp` is checked as `SWITCH` checks its operand; the
frame is read again at commit, after the block's stores (R232, R340). -/
def execEret (p : Pred) (_e : BitVec 3) (s : State) : Host.Outcome State Fault Refusal :=
  slotStep (.firing p [] .skip fun _ => .inBlock fun s _ =>
    let l := s.focus.l
    if !(s.ctx l).sup then .fault 0x0C 0 0
    else
      let swp := bits (s.frameWord l 3) 16 0
      let c := s.wpCause l swp
      if c ≠ 0 then .fault c 0 swp
      else .exitWith fun s _ => .eret swp (bits (s.frameWord l 1) 56 0)) s

end Sys2Proof.Machine
end

