-- ==== Sys2Proof/Machine/Launch.lean ====
section
/-! DEFINITION. Launches after their commit: the dispatcher's queues and stride scheduling (spec/20 R412), the placement of groups
(spec/09 R225), the merge entries of the completion tree (spec/18 R379, spec/20 R410) and completion (spec/09 R226). -/

namespace Sys2Proof.Machine

/-- A read performed at once, with the checks of R107: the bytes or the cause. -/
def State.readNow (s : State) (r : Req) : Except Nat (List Byte) :=
  if r.addr % r.size ≠ 0 then .error 3
  else match s.resolve r.who r.part r.pasid r.sup r.addr false with
    | .error e => .error e
    | .ok p =>
      if spaceCause r p ≠ 0 then .error (spaceCause r p)
      else if !s.routed r.who p.owner r.part then .error 6
      else if s.isGone r.who p.owner then .error 9
      else if !s.dikeAdmits r.who r.part p r.size false then .error 6
      else match s.keyOf p with
        | none => if p.space = 6 then .ok ((s.placeBytes p r.size).getD []) else .error 5
        | some k =>
          if (s.lockHit p.owner k r.size true).isSome then .error 8
          else if s.isDry r.who p.owner then .error 9
          else if s.eccHit k r.size then .error 0x11
          else .ok ((s.placeBytes p r.size).getD [])

/-! ## Member cores and the tree (R223, R225, R410) -/

/-- The member cores of a launch, in their order (R223). -/
def launchCores (r : LaunchRec) : List Loc :=
  (launchMembers r).flatMap fun m => ((List.range 8).filter fun c => bit r.cmask c).map fun c => { m with core := c }

/-- The nodes of a launch's tree: the issuing polder, then the other members (R410). -/
def launchNodes (r : LaunchRec) : List Loc :=
  r.issuer.toPolder :: (launchMembers r).filter fun m => m != r.issuer.toPolder

/-- The groups of a launch that go to a polder. -/
def groupsOn (r : LaunchRec) (p : Loc) : Nat :=
  let cs := launchCores r
  let n := max 1 cs.length
  ((List.range cs.length).map fun i =>
    if (cs.getD i default).toPolder = p then r.groups / n + boolNat (decide (i < r.groups % n)) else 0).sum

/-- The children of position `i` among `n` nodes (R410). -/
def treeChildren (n i : Nat) : Nat := ((List.range n).filter fun k => k != 0 && (k - 1) / 4 == i).length

/-- The reports that node `i` expects (R379, R410). -/
def treeExp (r : LaunchRec) (i : Nat) : Nat :=
  groupsOn r ((launchNodes r).getD i default) + treeChildren (launchNodes r).length i

/-- The lowest free merge entry of 64 (R379). -/
def PolderState.freeMerge (p : PolderState) : Option Nat := (List.range 64).find? fun i => !p.merges.any fun m => m.idx == i

/-- Every node of the tree can reserve a merge entry (R379). -/
def State.treeRoom (s : State) (r : LaunchRec) : Bool := (launchNodes r).all fun p => (s.polder p).freeMerge.isSome

/-- Reserve the merge entries of a launch; a node that expects nothing reports to its parent at once (R379, R410). -/
def Act.growTree (r : LaunchRec) : Act :=
  let nodes := launchNodes r
  Act.read fun s => Act.each (List.range nodes.length) fun i =>
    let p := nodes.getD i default
    let parent := nodes.getD ((i - 1) / 4) default
    if treeExp r i = 0 ∧ i ≠ 0 then .event (8 + s.way p parent) (.mergeReport p parent r.id 0 0)
    else .polder p fun q => { q with merges := q.merges ++ [
      { idx := q.freeMerge.getD 0, launch := r.id, exp := treeExp r i, got := 0, count := 0, st := 0,
        parent := if i = 0 then none else some parent, root := if i = 0 then some r else none, complete := true }] }

/-! ## The dispatcher (R412) -/

/-- A host interface has a packet that it may fetch (R449). -/
def hostQueueReady (q : HostQueue) : Bool :=
  let w (i : Nat) : Nat := (q.cfg.getD i 0#64).toNat
  let cap := 2 ^ (bits (w 2) 3 0 + 1)
  bit (w 0) 63 && !q.err && q.sqh != q.sqt && decide (q.held + q.flying < cap)

/-- Tickets of a queue by its number (R412, R457). -/
def DeviceState.tickets (d : DeviceState) (num : Nat) : Nat :=
  min 4096 (if 4096 ≤ num then (d.lqtix.getD (num - 4096) 0#64).toNat
    else match d.queues.find? fun q => q.q == num with
      | some q => bits (q.cfg.getD 0 0#64).toNat 56 44
      | none => 0)

/-- Queues with work, their numbers and passes, in ascending order of number (R412). -/
def DeviceState.busyQueues (d : DeviceState) : List (Nat × Nat) :=
  let ls := (d.launchQs.filter fun q => !q.items.isEmpty).map fun q => (q.num, q.pass)
  let hs := (d.queues.filter fun q => hostQueueReady q && !ls.any fun x => x.1 == q.q).map fun q => (q.q, q.pass)
  sortBy (fun x => x.1) (ls ++ hs)

/-- The pass from which a queue that becomes non-empty starts (R412). -/
def DeviceState.virtualTime (d : DeviceState) : Nat :=
  match d.busyQueues with
  | [] => d.vt
  | x :: xs => xs.foldl (fun m y => min m y.2) x.2

/-- Have the dispatcher run, unless it does (R412). -/
def Act.kickDispatch (d : Loc) : Act :=
  .read fun s => .when (!(s.device d).dispatching)
    (.seq (.device d fun x => { x with dispatching := true }) (.event 4 (.launchDispatch d.toDev)))

/-- Launches in the queue of a number. -/
def DeviceState.queueLen (d : DeviceState) (num : Nat) : Nat :=
  ((d.launchQs.filter fun q => q.num == num).map fun q => q.items.length).sum

/-- The pass of the queue of a number (R412). -/
def DeviceState.passOf (d : DeviceState) (num : Nat) : Nat :=
  max ((d.launchQs.find? fun q => q.num == num).elim 0 fun q => q.pass) ((d.queues.find? fun q => q.q == num).elim 0 fun q => q.pass)

/-- Enter a launch in the queue of a number; one without groups never comes here. A queue that becomes non-empty takes the virtual time; the launch of a
packet that its interface has just fetched is the rest of that dispatch (R412). -/
def DeviceState.enqueue (d : DeviceState) (num : Nat) (r : LaunchRec) : DeviceState :=
  let item : QueuedLaunch := ⟨{ r with id := d.launchId }, 0⟩
  let goesOn := (r.host.isSome && !r.ind) || d.busyQueues.any fun q => q.1 == num
  let pass := if goesOn then d.passOf num else max (d.passOf num) d.virtualTime
  { d with
    launchId := d.launchId + 1
    launchQs := if d.launchQs.any fun q => q.num == num then
        d.launchQs.map (fun q => if q.num = num then { q with items := q.items ++ [item], pass := pass } else q)
      else d.launchQs ++ [⟨num, [item], pass⟩] }

/-- The launch queue of a partition holds 64 entries (R412, R453). -/
def DeviceState.queueFull (d : DeviceState) (num : Nat) : Bool := decide (4096 ≤ num) && decide (64 ≤ d.queueLen num)

/-- Enter a launch in the queue of a number, or let it wait for room there (R412, R453). -/
def Act.queueLaunch (d : Loc) (num : Nat) (r : LaunchRec) : Act :=
  .seq (.device d fun x => if x.queueFull num then { x with launchWait := x.launchWait ++ [(num, r)] } else x.enqueue num r) (.kickDispatch d)

/-- A queue has made room: the oldest launch that waits for it enters (R412, R453). -/
def DeviceState.admitWaiting (d : DeviceState) (num : Nat) : DeviceState :=
  match d.launchWait.find? fun w => w.1 == num with
  | some w => if d.queueFull num then d else { d.enqueue num w.2 with launchWait := d.launchWait.erase w }
  | none => d

/-- Entries of a partition's launch queue and those that wait to enter it (R412). -/
def DeviceState.launchQueueLen (d : DeviceState) (part : Nat) : Nat :=
  d.queueLen (4096 + part) + (d.launchWait.filter fun w => w.1 == 4096 + part).length

/-! ## Completion (R226) -/

/-- A launch has completed: the record and its gauge, then the signal object; or the host packet that asked for it (R226, R450). A record in a workspace is
not written and reported to the host (R63; notes/assumptions 151). The cores it was placed on no longer count it for their reach (R396). -/
def Act.launchComplete (r : LaunchRec) (count st : Nat) : Act :=
  .read fun s =>
    let l := r.issuer
    let old := s.home64 l r.crec
    let barred := s.homeBarred l r.crec 16
    .seq (.each (launchCores r) fun c => .core c fun k => { k with reach := k.reach.filter fun x => x.1 != r.id })
      (match r.host with
      | some t => .event 0 (.hostWorkComplete l.toDev t (hostStatus st 0) count)
      | none => .all [
          .when (r.crec != 0 && !barred) (.write64 l (r.crec + 8) (count % 2 ^ 32 * 2 ^ 32 + st % 16)),
          .when (r.crec != 0) (if barred then .hostRec l r.part (s.coreRec l 8 0 0 r.crec 0) else if old = 2 ^ 64 - 1 then .hostRec l r.part (s.coreRec l 0x0B 0 0 r.crec 0) else .write64 l r.crec (old + 1)),
          .when (r.sig != 0) (.submit ⟨l, r.part, r.pasid, r.sig, 8, false,
            .atomic ⟨.core l.core, .add, .release, false, 2 ^ 64 - 1, 0, r.sig, .duty l r.sig⟩, false⟩)])

/-- Start a launch: one without groups completes at once, another enters its queue (R226, R412). -/
def Act.startLaunch (num : Nat) (r : LaunchRec) : Act :=
  if r.groups = 0 then .launchComplete r 0 0 else .queueLaunch r.issuer num r

/-- An indirect launch is satisfied: its count is read, and a read that fails completes the launch as dry (R224). -/
def Act.triggerLaunch (num : Nat) (r : LaunchRec) (dry : Bool) : Act :=
  .read fun s => .seq (.walkNow r.issuer r.part r.pasid r.cnt) <|
    match if dry then .error 9 else s.readNow ⟨r.issuer, r.part, r.pasid, r.cnt, 4, false, .line 0 0, false⟩ with
    | .ok bs => .startLaunch num { r with groups := natOfBytes bs }
    | .error _ => .launchComplete { r with groups := 0 } 0 2

/-! ## LAUNCH_DISPATCH and LAUNCH_GROUP_PLACEMENT (R225, R412) -/

/-- The task record of group `g` (R225). -/
def groupWords (r : LaunchRec) (g : Nat) : List W64 :=
  [w64 (field r.prio 2 60 + field r.fclass 2 58 + r.entry % 2 ^ 57), 0#64, w64 g] ++ r.args

/-- Send groups `a` to `a + n - 1` to the launch units of their polders. -/
def Act.sendGroups (r : LaunchRec) (a n : Nat) : Act :=
  let cs := launchCores r
  .seq (.each (List.range n) fun i =>
      let c := cs.getD ((a + i) % max 1 cs.length) default
      .polder c fun q =>
        let ment := ((q.merges.find? fun m => m.launch == r.id).elim 0 fun m => m.idx)
        { q with groups := q.groups ++ [⟨c, r.id, ⟨groupWords r (a + i), r.steal, r.pasid, .group (2 ^ 63 + ment) r.id c.pidx⟩, r.part⟩] })
    (.read fun s => .each (launchMembers r) fun p => .event (8 + s.way r.issuer p) (.launchGroupPlacement p))

/-- The queue that the dispatcher serves next, among those whose tickets are not 0 and whose launch can be placed (R379, R412). -/
def State.nextQueue (s : State) (d : Loc) : Option (Nat × Nat) :=
  let x := s.device d
  (x.busyQueues.filter fun q => decide (0 < x.tickets q.1)
      && (match (x.launchQs.find? fun y => y.num == q.1).bind fun y => y.items.head? with
        | some it => decide (it.next ≠ 0) || s.treeRoom it.launch
        | none => true)).foldl (fun b q => match b with
    | some p => if q.2 < p.2 then some q else some p
    | none => some q) none

/-- Advance a queue's pass by `size` strides (R412). -/
def DeviceState.advance (d : DeviceState) (num size : Nat) : DeviceState :=
  let step := 2 ^ 20 / max 1 (d.tickets num) * max 1 size
  let old := match d.launchQs.find? fun q => q.num == num with
    | some q => q.pass
    | none => match d.queues.find? fun q => q.q == num with
      | some q => q.pass
      | none => 0
  { d with
    vt := old + step
    launchQs := d.launchQs.map fun q => if q.num = num then { q with pass := old + step } else q
    queues := d.queues.map fun q => if q.q = num then { q with pass := old + step } else q }

/-- Dispatch up to 256 groups of the launch at the head of a queue (R412). -/
def Act.dispatchGroups (d : Loc) (num : Nat) (it : QueuedLaunch) : Act :=
  let n := min 256 (it.launch.groups - it.next)
  .all [
    .when (it.next == 0) (.growTree it.launch),
    .sendGroups it.launch it.next n,
    .device d fun x =>
      let left : List QueuedLaunch := if it.next + n < it.launch.groups then [{ it with next := it.next + n }] else []
      let y : DeviceState := { x with
        launchQs := x.launchQs.map (fun q => if q.num = num then { q with items := left ++ q.items.drop 1 } else q) }
      (y.advance num n).admitWaiting num]

/-- `LAUNCH_DISPATCH`: one dispatch from the non-empty queue of smallest pass, every 4 cycles (R412). -/
def Act.dispatchNext (d : Loc) : Act :=
  .read fun s =>
    match s.nextQueue d with
    | none => .device d fun x => { x with dispatching := false }
    | some (num, _) =>
      .seq (match ((s.device d).launchQs.find? fun y => y.num == num).bind fun y => y.items.head? with
          | some it => .dispatchGroups d num it
          | none => .event 0 (.packetFetch d num))
        (.event 4 (.launchDispatch d))

/-- `LAUNCH_DISPATCH` (R412). -/
def execLaunchDispatch (s : State) : Host.Outcome State Fault Refusal :=
  match s.cur with
  | .launchDispatch d => done (.dispatchNext d) s
  | _ => .next s

/-- The task ring that takes a group when the deque of its member core is full: that of the lowest context whose ring has room, since refills
go in ascending context order (R225, R392, R393). -/
def State.groupRing (s : State) (c : Loc) : Option Loc :=
  ((List.range 8).map fun k => ({ c.toCore with ctx := k } : Loc)).find? fun l => s.taskRing l (s.ringReserved l) == .room

/-- Place the groups that a polder's launch unit holds, in order for each core, as its deque has room or else its spillway (R225, R392). -/
def Act.placeGroups (p : Loc) : List HeldGroup → List Loc → Act
  | [], _ => .skip
  | g :: gs, full => .read fun s =>
    let ring := s.groupRing g.core
    if full.contains g.core || (!s.dequeRoom g.core && ring.isNone) || (s.polder p).part != some g.part then
      Act.placeGroups p gs (g.core :: full)
    else .all [
      .polder p fun q => { q with groups := q.groups.erase g },
      .core g.core (fun k => { k with
        reach := if g.launch == 0 || k.reach.any fun x => x.1 == g.launch then k.reach else k.reach ++ [(g.launch, g.entry.tag)] }),
      (match s.dequeRoom g.core, ring with
        | false, some l => .seq (.taskPush l g.entry) (.kickRefill l)
        | _, _ => .pushDeque g.core g.entry),
      Act.placeGroups p gs full]

/-- `LAUNCH_GROUP_PLACEMENT` (R225). -/
def execLaunchGroupPlacement (s : State) : Host.Outcome State Fault Refusal :=
  match s.cur with
  | .launchGroupPlacement p => done (.read fun x => .placeGroups p (x.polder p).groups []) s
  | _ => .next s

/-! ## MERGE_REPORT (R379) -/

/-- A report reaches a node's merge entry; the last one goes on to the parent, or completes the launch at the root (R226, R379). -/
def Act.mergeReport (p : Loc) (launch count st : Nat) : Act :=
  .read fun s =>
    match (s.polder p).merges.find? fun m => m.launch == launch with
    | none => .skip
    | some m =>
      let n : MergeEntry := { m with got := m.got + 1, count := (m.count + count) % 2 ^ 32, st := Nat.lor m.st st }
      if n.got < n.exp then .polder p fun q => { q with merges := q.merges.map fun x => if x.idx = m.idx then n else x }
      else .all [
        .polder p fun q => { q with merges := q.merges.filter fun x => x.idx != m.idx },
        (match n.parent with
          | some q => .event (8 + s.way p q) (.mergeReport p q launch n.count n.st)
          | none => match n.root with
            | some r => .launchComplete r n.count n.st
            | none => .skip),
        .kickDispatch p]

/-- `MERGE_REPORT` (R379). -/
def execMergeReport (s : State) : Host.Outcome State Fault Refusal :=
  match s.cur with
  | .mergeReport _ p launch count st => done (.mergeReport p launch count st) s
  | _ => .next s

end Sys2Proof.Machine
end

