-- ==== Sys2Proof/Machine/Messages.lean ====
section
/-! DEFINITION. Messages on their way: reply words (spec/09 R210, R220), the network interface (R219, R221), the table that decides the fate
of a message at its core (spec/20 R398-R400), slice messages (spec/18 R367), and forwarding (spec/16 R345). -/

namespace Sys2Proof.Machine

/-! ## Reply words (R210) -/

/-- Write one reply with a code: the count rises by one and watches are evaluated (R210). A reply word in the workspace of a context that is not DORMANT is
not written (R63; notes/assumptions 151). -/
def Act.writeReply (p : Place) (code : Nat) : Act :=
  .read fun s => .when (!s.workspaceHit p 8)
    (.writeLines p (bytesOf 8 (((natOfBytes ((s.placeBytes p 8).getD []) / 256 + 1) % 2 ^ 56) * 256 + code % 256)))

/-- `REPLY_ARRIVAL` (R210). -/
def execReplyArrival (s : State) : Host.Outcome State Fault Refusal :=
  match s.cur with
  | .replyArrival _ p code => done (.writeReply p code) s
  | _ => .next s

/-- Send a reply to the sender of a message; one without a reply word is discarded (R220), and none reaches an owner that the loss of a link or of
power separates from here (R353). -/
def Act.reply (src : Loc) (m : Message) (code : Nat) : Act :=
  .read fun s => match m.reply with
    | some p => .when (!s.severed src p.owner) (.event (8 + s.way src p.owner) (.replyArrival src p code))
    | none => .skip

/-! ## Fields of a message (R219) -/

/-- Channel of a message. -/
def msgChan (m : Message) : Nat := bits m.w0 63 62
/-- Partition of the sender. -/
def msgPart (m : Message) : Nat := bits m.w1 23 20
/-- An accepted message is reported when `ack` is 1 (R220). -/
def Act.ack (src : Loc) (m : Message) : Act := .when (bit m.w0 57) (.reply src m 0)

/-- The core that a message names (R209). -/
def State.messageCore (s : State) (d : Nat) (m : Message) : Loc := (s.tidLoc d m.dest).toCore

/-- The byte of slice handler memory that a message's `hb` names at polder `p`, if it is a slice message (R367). -/
def sliceByte (p : Loc) (m : Message) : Option Nat :=
  let base := imageBase (msgPart m) + p.pidx * 2 ^ 41 + 0x800000
  let hb := bits m.w0 56 0
  if base ≤ hb ∧ hb < base + 0x20000 then some (hb - base) else none

/-- The sender of a message, by the `stid` in its header (R219). -/
def State.senderOf (s : State) (d : Nat) (m : Message) : Loc := s.tidLoc d (bits m.w1 47 24)

/-- Put a message on the fabric: to the core or the slice that it names, or a FOREIGN or DRY reply where it cannot go (R221, R352,
R367, R462). `src` is the sender. -/
def Act.transmit (src : Loc) (m : Message) : Act :=
  .read fun s =>
    let c := s.messageCore src.dev m
    let back (code : Nat) : Act := match m.reply with
      | some p => .event 8 (.replyArrival src p code)
      | none => .skip
    if !s.routed src c (msgPart m) then back 3
    else if s.isDry src c.toPolder then back 4
    else .event (8 + s.way src c) (if (sliceByte c m).isSome then .sliceMessageArrival c.toPolder m else .messageArrival c m)

/-! ## Mailboxes (R398-R400) -/

/-- The slots usable in a channel of a core (R398). -/
def State.mailLimit (s : State) (c : Loc) (chan : Nat) : Nat :=
  let v := bits ((s.polder c).limits.getD c.core 0#64).toNat (5 * chan + 4) (5 * chan)
  if v = 0 ∨ 16 < v then 16 else v

/-- A slot of a channel is free within its limit; a message that waits for a move notice or a migration holds one too (R345, R399). -/
def State.mailRoom (s : State) (c : Loc) (chan : Nat) : Bool :=
  let k := s.core c
  let waiting := (k.forwards.map fun f => (f.waiting.filter fun m => msgChan m == chan).length).sum
  decide ((k.mail.filter fun m => m.chan == chan).length + waiting < s.mailLimit c chan)

/-- Take a message into a slot (R399). -/
def Act.mailIn (c : Loc) (m : Message) : Act :=
  .seq (.core c fun k => { k with mail := k.mail ++ [⟨msgChan m, m, false⟩] }) (.offerWork c)

/-- The bytes of a cell of the spillway message ring (R394). -/
def messageCell (m : Message) : List Byte :=
  let body := bytesOf 8 m.w0 ++ bytesOf 8 m.w1 ++ m.payload.flatMap fun w => bytesOf 8 w.toNat
  sliceBytes body 0 80 ++ bytesOf 8 m.dest ++ bytesOf 8 m.pasid ++ List.replicate 32 0#8

/-- What a unit of the polder does in the memory of a partition that is absent from it, whose own second-tier pages it then uses (R323, R347). -/
def Act.inPart (p : Loc) (part : Nat) (a : Act) : Act :=
  .read fun s =>
    if (s.polder p).part = some part then a
    else .all [.polder p fun q => { q with part := some part }, a, .polder p fun q => { q with part := (s.polder p).part }]

/-- Do `a` on the contexts and cores of a partition of the polder of `p`: the resident ones, or those that shadow storage holds while the partition is absent
(R346, R347); nothing where the partition is not defined there. -/
def Act.asResident (p : Loc) (part : Nat) (a : Act) : Act :=
  .read fun s =>
    let mine (l : Loc) : Bool := l.toPolder == p.toPolder
    let drop : Act := .fx (.forget mine fun _ => false)
    let put (xs : List (Loc × Context)) (ys : List (Loc × CoreState)) : Act :=
      .all [drop, .each xs fun x => .ctx x.1 fun _ => x.2, .each ys fun x => .core x.1 fun _ => x.2]
    if (s.polder p).part = some part then a
    else match (s.polder p).saves.find? fun v => v.part == part with
      | none => .skip
      | some v => .all [
          put v.ctxs v.cores,
          .polder p fun q => { q with part := some part },
          a,
          .read fun t => .polder p fun q => { q with
            part := (s.polder p).part
            saves := q.saves.map fun x =>
              if x.part = part then { x with ctxs := t.ctxs.filter fun y => mine y.1, cores := t.cores.filter fun y => mine y.1 } else x },
          put (s.ctxs.filter fun y => mine y.1) (s.cores.filter fun y => mine y.1)]

/-- Write a message to the spillway message ring of the context at `l`, which holds `c`, or refuse it FULL (R347, R399). -/
def Act.spillMessage (l : Loc) (c : Context) (m : Message) : Act :=
  .inPart l (msgPart m) (.read fun s =>
    if s.ringRoom l c 0x10 256 0 = .room then
      .seq (.ringPush l c.spillBase 0x10 0x8000 128 256 (messageCell m)) (.ack l m)
    else .seq (.count l 0x3A0) (.reply l m 1))

/-- A context as a swapped-out partition left it (R346). -/
def State.savedCtx (s : State) (l : Loc) (part : Nat) : Option Context :=
  ((s.polder l).saves.find? fun v => v.part == part).bind fun v => (v.ctxs.find? fun x => x.1 == l).map fun x => x.2

/-- A message is refused with a code, counted where R401 has a counter. -/
def Act.refuse (c : Loc) (m : Message) (code : Nat) : Act :=
  .all [.when (code == 1) (.count c 0x3A0), .when (code == 2) (.count c 0x3A8), .reply c m code]

/-- The forwarding entry of a context of a core: that of the thread that left it last. -/
def CoreState.forwardOf (k : CoreState) (l : Loc) : Option Forward := (k.forwards.filter fun f => f.old == l).getLast?

/-- The forwarding entry of a context for the thread that it says is at `place`. -/
def CoreState.entryVia (k : CoreState) (l place : Loc) : Option Forward :=
  (k.forwards.find? fun f => f.old == l && f.place == place).orElse fun _ => k.forwardOf l

/-- Change a forwarding entry of a core. -/
def Act.forwardEntry (l : Loc) (e : Option Forward) (f : Forward → Forward) : Act :=
  .core l fun k => { k with forwards := k.forwards.map fun x => if e = some x then f x else x }

/-- Send a message on, unchanged, to a thread's new place; a dry place refuses it (R345, R352). -/
def Act.forward (src place : Loc) (m : Message) : Act :=
  .read fun s => if s.isDry src place.toPolder then .reply src m 4
    else .event (8 + s.way src place) (.messageArrival place.toCore { m with fwd := some place })

/-- The partition of a polder is resident, or a swap to it is saved (R347). -/
def State.partDefined (s : State) (p : Loc) (part : Nat) : Bool :=
  (s.polder p).part == some part || (s.polder p).saves.any fun v => v.part == part

/-- A channel takes a message that arrives: a slot is free within its limit, and no replayed message waits for one (R399, R400). -/
def State.mailTakes (s : State) (c : Loc) (m : Message) : Bool :=
  s.mailRoom c (msgChan m) && !(s.core c).unmailed.any fun w => msgChan w == msgChan m

/-- The fate of a message for a context that is DORMANT (R345, R399). -/
def Act.dormantFate (c l : Loc) (m : Message) : Act :=
  .read fun s =>
    let fwd := (s.core c).forwardOf l
    let hold : Act := if s.mailTakes c m then
        .seq (.ack c m) (.forwardEntry l fwd fun f => { f with waiting := f.waiting ++ [m] })
      else .refuse c m 1
    match (s.ctx l).reserved, fwd with
    | some (.migration _), _ => hold
    | _, some f =>
      if m.fwd.isSome then .refuse c m 2
      else if f.moved then hold
      else .forward c f.place m
    | _, none => .refuse c m 2

/-- The fate of a message at its destination core, by R399's table; a polder that is dry to the sender refuses it (R352). The context that a message for an
absent partition names is the one that shadow storage holds (R346). -/
def Act.messageFate (c : Loc) (m : Message) : Act :=
  .read fun s =>
    let named := bit m.dest 24 || m.fwd.isSome
    let l : Loc := m.fwd.getD { c with ctx := bits m.dest 2 0 }
    let absent := (s.polder c).part != some (msgPart m)
    if s.isDry (s.senderOf c.dev m) c.toPolder then .reply c m 4
    else if !s.partDefined c (msgPart m) then .refuse c m 3
    else if named then .asResident c (msgPart m) (.read fun t =>
      let x := t.ctx l
      if x.state = 0#3 then .dormantFate c l m
      else if x.state = 3#3 ∨ x.state = 4#3 ∨ absent then .spillMessage l x m
      else if t.mailTakes c m then .seq (.ack c m) (.mailIn c m)
      else .refuse c m 1)
    else if absent then .refuse c m 1
    else if s.mailTakes c m then .seq (.ack c m) (.mailIn c m)
    else .refuse c m 1

/-- `MESSAGE_ARRIVAL` (R399). -/
def execMessageArrival (s : State) : Host.Outcome State Fault Refusal :=
  match s.cur with
  | .messageArrival c m => done (.messageFate c m) s
  | _ => .next s

/-! ## Slice messages (R367) -/

/-- A message for a handler of a set: FOREIGN without a valid set or outside its region, FULL past 16 slots, else an event (R367,
R368); a polder that has become dry to the sender refuses it (R352). -/
def Act.sliceMessage (p : Loc) (m : Message) : Act :=
  .read fun s =>
    if s.isDry (s.senderOf p.dev m) p then .reply p m 4
    else match s.setOf p (msgPart m), sliceByte p m with
    | some set, some o =>
      if !(decide (s.setBase p set ≤ o) && decide (o < s.setBase p set + s.setLen p set)) then .reply p m 3
      else if 16 ≤ ((s.polder p).events.filter fun e => e.set == set && e.msg.isSome).length then .seq (.count p 0x3A0) (.reply p m 1)
      else .all [
        .ack p m,
        .polder p fun q => { q with
          eventOrder := q.eventOrder + 1
          events := q.events ++ [⟨set, 0, q.eventOrder, o, false, 0, 0, 0, some m, m.pasid⟩] },
        .pokeSlice p]
    | _, _ => .reply p m 3

/-- `SLICE_MESSAGE_ARRIVAL` (R367). -/
def execSliceMessageArrival (s : State) : Host.Outcome State Fault Refusal :=
  match s.cur with
  | .sliceMessageArrival p m => done (.sliceMessage p m) s
  | _ => .next s

end Sys2Proof.Machine
end

