-- ==== Sys2Proof/Machine/Commit.lean ====
section
/-! DEFINITION. Commit: the waits and the checks in the cycle of commit, and the effects that become architectural together (spec/02
R38, R39, spec/03 R63-R68, spec/05 R108, R115, R120, spec/09 R207-R233). -/

namespace Sys2Proof.Machine

/-! ## Ports (R68) -/

/-- The core to which port `k` of core `c` leads (R68). -/
def portDest (c : Loc) (k : Nat) : Loc :=
  { c.toCore with core := match k with
    | 0 => (c.core + 1) % 8
    | 1 => (c.core + 7) % 8
    | 2 => (c.core + 2) % 8
    | _ => Nat.xor c.core 4 }

/-- The core whose port `k` leads to core `c`. -/
def portSource (c : Loc) (k : Nat) : Loc :=
  { c.toCore with core := match k with
    | 0 => (c.core + 7) % 8
    | 1 => (c.core + 1) % 8
    | 2 => (c.core + 6) % 8
    | _ => Nat.xor c.core 4 }

/-- The output buffer of a port is empty, so that a push finds a place (R68). -/
def State.portOpen (s : State) (c : Loc) (k : Nat) : Bool := ((s.core c).outbuf.getD k none).isNone

/-- A FIFO with one word more, named apart from those in it. -/
def fifoPush (fifo : List PortWord) (v : W64) : List PortWord := fifo ++ [⟨(fifo.getLast?.map fun w => w.tag + 1).getD 0, v⟩]

/-- Push a word on a port: into the FIFO of 8 words at the other end, or the output buffer where that is full (R68). -/
def Act.portPush (c : Loc) (k : Nat) (v : W64) : Act :=
  .read fun s =>
    let d := portDest c k
    let fifo := (s.core d).ports.getD k []
    if fifo.length < 8 then .seq (.core d fun x => { x with ports := x.ports.set k (fifoPush fifo v) }) (.wakeCore d)
    else .core c fun x => { x with outbuf := x.outbuf.set k (some v) }

/-- Remove a word that a `READ` has taken from a port's FIFO; a word in the sender's buffer moves up (R67, R68). -/
def Act.portPop (c : Loc) (k tag : Nat) : Act :=
  .seq (.core c fun x => { x with ports := x.ports.set k ((x.ports.getD k []).filter fun w => w.tag != tag) })
    (.read fun s =>
      let src := portSource c k
      let fifo := (s.core c).ports.getD k []
      match (s.core src).outbuf.getD k none with
      | some w => .when (decide (fifo.length < 8)) (.all [
          .core src fun x => { x with outbuf := x.outbuf.set k none },
          .core c fun x => { x with ports := x.ports.set k (fifoPush fifo w) },
          .wakeCore c])
      | none => .skip)

/-! ## Stores (R43, R115) -/

/-- The stores of a block that carry values, in ascending LSID order (R115). -/
def Block.valued (b : Block) : List PendStore := sortBy (fun st => st.lsid) (b.stores.filter fun st => st.val.isSome)

/-- Keep the old bytes of a store: as the context's own fetch sees them until a full fence (`own`), and as others see them until it releases and they
acquire (R43). -/
def Act.keepStale (l : Loc) (own : Bool) (k n : Nat) : Act :=
  .read fun s =>
    let ks := (List.range n).map fun i => k + i
    let fetched (j : Nat) : Byte := ((s.hidden l).find? fun x => x.1 == j).elim (s.mem.get j) fun x => x.2
    .ctx l fun c => { c with
      stale := c.stale ++ if own then (ks.filter fun j => !c.stale.any fun x => x.1 == j).map fun j => (j, fetched j) else []
      unacquired := c.unacquired.filter fun x => !ks.contains x.1
      unreleased := c.unreleased ++ (ks.filter fun j => !c.unreleased.any fun x => x.1 == j).map fun j => (j, s.mem.get j) }

/-- Perform one home store: `HomeWrite()` with its line of the slice (R72, R115). -/
def Act.homeStore (l : Loc) (st : PendStore) : Act :=
  .read fun s =>
    match homePlace l st.addr with
    | none => .skip
    | some p => .seq (.writePlace p (bytesOf st.size (st.val.getD 0#64).toNat))
        (match s.keyOf p with
        | some k => .when (decide (p.space < 2)) (.storeLine p.owner (k / 64) (lineClass (s.ctx l).pol.toNat st.addr))
        | none => .skip)

/-- A `GADV` is noted with its cycle, for an `SLWR` of the same cycle comes before it (R376). -/
def Act.noteRaised (l : Loc) (st : PendStore) : Act :=
  .read fun s => match homePlace l st.addr with
    | none => .skip
    | some p => .polder p.owner fun q => { q with
        raised := (q.raised.filter fun x => x.1 == s.now) ++ [(s.now, (s.keyOf p).getD 0, (st.val.getD 0#64).toNat)] }

/-- The LSIDs of the block's fences that release: `FENCE.REL` and `FENCE.FULL` (R118). -/
def Block.releaseFences (b : Block) : List Nat :=
  b.instrs.filterMap fun x => match x.2 with
    | .fence p n _ k _ =>
      if (k == .rel || k == .full) && b.done.contains x.1 && predFall p ((b.operand x.1 .x).getD (.val 0#64)) == .taken then some n.toNat else none
    | _ => none

/-- The stores of a block and the releases of its fences, in ascending LSID order (R115, R116, R118). -/
def Block.storeSteps (b : Block) : List (Nat × Option PendStore) :=
  sortBy (fun x => x.1) ((b.valued.map fun st => (st.lsid, some st)) ++ b.releaseFences.map fun n => (n, none))

/-- Perform the stores of a committing block, and its releases among them: those after its last `FENCE.FULL` stay unseen by the context's own fetch, and
all of them by that of others until a release behind them (R43, R116). -/
def Act.homeStores (l : Loc) (b : Block) : Act :=
  .seq (.when b.fenced.isSome (.ctx l fun c => { c with stale := [] }))
    (.each b.storeSteps fun x => match x.2 with
      | none => .releaseCode l
      | some st => .read fun s => .all [
          .keepStale l (b.fenced.all fun f => decide (f < st.lsid)) (s.storeKey l st.addr) st.size,
          .homeStore l st,
          .when st.gauge (.noteRaised l st),
          .when st.scope.isSome (.releaseCode l)])

/-- The faults of a block's stores in the cycle of commit: locks, busy slots and pins, and gauges that do not rise (R108, R120). -/
def storeFaults (l : Loc) : List PendStore → State → List BlockFault
  | [], _ => []
  | st :: sts, s =>
    let c := s.commitCause l st.addr st.size
    let here : List BlockFault :=
      if c ≠ 0 then [⟨s.now, st.slot, c, 0, st.addr⟩]
      else if st.gauge ∧ (st.val.getD 0#64).toNat ≤ s.home64 l st.addr then [⟨s.now, st.slot, 0x0B, 0, st.addr⟩]
      else []
    here ++ storeFaults l sts ((Act.homeStore l st).run s)

/-! ## WRITEs (R63, R65, R79) -/

/-- Write a word of the context's workspace at its `wp`; watches on the word are evaluated (R63, R467). -/
def Act.writeWord (l : Loc) (n : Nat) (v : Nat) : Act :=
  .read fun s => .writePlace ⟨l.toPolder, 2, l.core * 0x20000 + (s.ctx l).wp.toNat + 8 * n⟩ (bytesOf 8 v)

/-- The values of a block's `WRITE`s (R65, R79). -/
def Act.commitWrites (l : Loc) (b : Block) : Act :=
  Act.each b.writes fun w => match w.2 with
    | none => .skip
    | some v =>
      if w.1 < 16 then .writeWord l w.1 v.toNat
      else if w.1 = 19 then .ctx l fun c => { c with pol := w64 (v.toNat % 2 ^ 32) }
      else .skip

/-! ## Messages (R219, R221, R222) -/

/-- The message at a home address, as sent by the context: identity filled in and `hb` rewritten (R208, R219); a payload
that runs past its range is read on (notes/assumptions 160). -/
def State.messageOf (s : State) (l : Loc) (a dest : Nat) : Message :=
  let bs := s.homeBytes l a 80
  let w0 := numAt bs 0 8
  let w1 := numAt bs 8 8
  let rwi := bits w1 13 0
  { dest := dest
    w0 := w0 / 2 ^ 57 * 2 ^ 57 + s.rewrite l (bits w0 56 0) % 2 ^ 57
    w1 := bits w1 63 48 * 2 ^ 48 + field (s.tid l) 24 24 + field (s.partOf l) 4 20 + rwi
    payload := (List.range (bits w0 61 58)).map fun i => w64 (numAt bs (16 + 8 * i) 8)
    pasid := (s.ctx l).pasid.toNat
    reply := if rwi = 0 then none else some ⟨l.toPolder, 2, l.core * 0x20000 + 8 * rwi⟩
    fwd := none }

/-- The refusals of a message header: cause and address (R219). -/
def State.headerCause (s : State) (l : Loc) (a : Nat) : Nat × Nat :=
  let bs := s.homeBytes l a 16
  let w0 := numAt bs 0 8
  if s.homeEcc l a (16 + 8 * min 8 (bits w0 61 58)) then (0x11, a)
  else if bits (numAt bs 8 8) 19 14 ≠ 0 ∨ 8 < bits w0 61 58 then (1, 0)
  else if bits w0 4 0 ≠ 0 then (3, bits w0 56 0)
  else (0, 0)

/-- The copies that a send makes, in ascending core order (R222). -/
def sendCopies (dest : Nat) : Option Nat → List Nat
  | none => [dest]
  | some m => ((List.range 8).filter fun c => bit m c).map fun c => dest / 0x80 * 0x80 + c * 16 + dest % 16

/-- Messages that stand in a core's network interface (R221). -/
def State.netCount (s : State) (c : Loc) : Nat := ((s.core c).net.filter fun t => decide (s.now < t)).length

/-- Place a message in the interface and send it (R221). -/
def Act.sendMessage (l : Loc) (m : Message) : Act :=
  .read fun s =>
    let t := s.now + 8 + s.netCount l
    .seq (.core l fun k => { k with net := t :: k.net.filter fun x => decide (s.now < x) }) (.transmit l m)

/-! ## What waits for commit (R207) -/

/-- The record of an engine push, copied at commit (R207, R234). -/
def State.pushRecord (s : State) (l : Loc) (queue ptr : Nat) : List Byte := s.homeBytes l (bits ptr 39 0) (if queue = 3 then 64 else 32)

/-- Write a control word at commit (R73, R74). -/
def Act.controlWrite (l : Loc) (n : Nat) (v : W64) : Act :=
  .read fun s =>
    let c := s.ctx l
    let user := !c.sup && !cwUserWrites n
    if user then .skip
    else if 0x40 ≤ n then .polder l fun p => { p with dikes := p.dikes.set (n - 0x40) v }
    else .seq (.when (n == 0x32) (.kickRefill l)) <| .ctx l fun x => match n with
      | 0 => { x with fm := v }
      | 1 => { x with step := v }
      | 2 => { x with steal := BitVec.ofNat 2 v.toNat }
      | 3 => { x with prio := v }
      | 0x20 => { x with trapvec := v }
      | 0x21 => { x with trapframe := v }
      | 0x30 => { x with pasid := BitVec.ofNat 20 v.toNat }
      | 0x31 => { x with home := v }
      | 0x32 => { x with spill := v }
      | 0x33 => { x with tree := v }
      | _ => x

/-- The fault of one act in the cycle of commit, none if it may proceed; a write into a workspace is one (R63, R207, R212, R214, R216, R217, R219). -/
def State.actFault (s : State) (l : Loc) (slot : Nat) (op : CommitOp) : Option BlockFault :=
  let f (c a : Nat) : Option BlockFault := if c = 0 then none else some ⟨s.now, slot, c, 0, a⟩
  let record (a : Nat) : Option BlockFault :=
    let ws := s.taskWords l a
    let entry := bits (ws.getD 0 0) 56 0
    if s.homeEcc l a 64 then f 0x11 a else f (recordBars l ws) (if entry % 32 = 0 then bits (ws.getD 1 0) 56 0 else entry)
  match op with
  | .fork a _ => record a
  | .join _ a _ => record a
  | .futr u a => (record a).orElse fun _ => if s.homeBarred l u 8 then f 8 u else if s.homeBarred l (a + 56) 8 then f 8 (a + 56) else none
  | .futw a _ => if s.homeBarred l a 16 then f 8 a else if s.homeEcc l a 16 then f 0x11 a else if bits (s.home64 l a) 63 62 ≠ 0 then f 0x0B a else none
  | .send _ a _ => f (s.headerCause l a).1 (s.headerCause l a).2
  | _ => none

/-- A `FORK` without a place sets `inl` of its launch's tree word, and one whose ring's page is unmapped posts a spill fault (R212,
R409). -/
def Act.forkNowhere (l : Loc) (unmapped : Bool) : Act :=
  .read fun s =>
    let c := s.ctx l
    let r := s.coreRec l 0x14 0 0 c.spillBase 0
    .seq (.ctx l fun x => { x with tree := w64 (Nat.lor x.tree.toNat 64) })
      (.when unmapped (.seq (.post l r) (.hostRec l (s.partOf l) r)))

/-- Registration of a launch as its watch carries it; a dry answer completes the launch (notes/assumptions 158). -/
def launchWatch (l : Loc) (b : Block) (slot : Nat) (r : LaunchRec) : WatchReg :=
  ⟨l, b.epoch, slot, .launch, r.thr, r.place, r.pasid, r.part, r.gauge, launchWords r⟩

/-- Carry out one act at commit (R207). -/
def Act.commitOp (l : Loc) (b : Block) (slot : Nat) (op : CommitOp) : Act :=
  .read fun s =>
    let c := s.ctx l
    let steal := c.steal.toNat
    let pasid := c.pasid.toNat
    match op with
    | .ring o => .dispatch l o false
    | .push q ptr =>
      let bs := s.pushRecord l q ptr
      let bad := s.homeEcc l (bits ptr 39 0) (if q = 3 then 64 else 32)
      .seq (.when bad (.count l 0x358)) (.dispatch l (match q with
        | 0 => .eq0 ptr bs
        | 2 => .eq2 ptr bs
        | _ => .eq3 ptr bs) bad)
    | .port k v => .portPush l k v
    | .cww n v => (match v with
      | some w => .controlWrite l n w
      | none => .skip)
    | .fork a place =>
      .seq (.block l fun x => { x with acts := x.acts.erase (slot, op) })
        (if place < 2 then .enterAt l place (s.entryOf l (s.taskWords l a) steal pasid) else .forkNowhere l (place == 3))
    | .join ctr a h =>
      let free : Act := .polder l fun p => { p with watches := p.watches.filter fun w => !(w.idx == h.entry && w.gen == h.gen) }
      if s.home64 l ctr = 0 then .seq free (.enterFrom l a steal pasid none)
      else .polder l fun p => { p with watches := p.watches.map fun w =>
        if w.idx = h.entry ∧ w.gen = h.gen then { w with armed := true } else w }
    | .futr f a =>
      let w := s.home64 l f
      if bits w 63 62 = 0 then .seq (.write64 l (a + 56) (bits w 39 0)) (.write64 l f (w / 2 ^ 40 * 2 ^ 40 + a))
      else .enterFrom l a steal pasid (some (s.home64 l (f + 8)))
    | .futw f v => .fillFuture l f 1 v.toNat steal pasid
    | .send dest a mask => Act.each (sendCopies dest mask) fun d => .read fun s => .sendMessage l (s.messageOf l a d)
    | .launch r h => (match h with
      | none => .startLaunch (4096 + r.part) r
      | some h =>
        if h.gen = 0 then .triggerLaunch (4096 + r.part) r false
        else .event (8 + s.way l h.owner) (.watchArm (launchWatch l b slot r) h))
    | .compose ms =>
      let n := Nat.log2 (ms.length + 1)
      .seq (.each ms fun m => .ctx m fun x => { x with state := 2#3, reserved := none, lead := some (l, n) })
        (.ctx l fun x => { x with lead := some (l, n) })
    | .release => .decompose l
    | .switch wp => .ctx l fun x => { x with wp := BitVec.ofNat 17 wp }
    | .reloc src dest reply => .event 0 (.relocTransfer ⟨l, { l with ctx := src }, dest, reply⟩)
    | .watch w h v =>
      if h.gen = 0 then .event 0 (.watchSatisfactionArrival ⟨w, h, v⟩)
      else .seq (.polder l fun p => { p with listens := p.listens.map fun t => if t.handle = h then { t with armed := true } else t })
        (.event (8 + s.way l h.owner) (.watchArm w h))
    | .cancel h => .cancelWatch l h false false
    | .unlisten h => .seq (.cancelWatch l h false true) (.freeListen l h)

/-- The faults of a block's acts, each checked on the state that the acts before it leave (R207). -/
def actFaults (l : Loc) (b : Block) : List (Nat × CommitOp) → State → List BlockFault
  | [], _ => []
  | a :: as, s =>
    match s.actFault l a.1 a.2 with
    | some f => f :: actFaults l b as s
    | none => actFaults l b as ((Act.commitOp l b a.1 a.2).run s)

/-- The acts of a block in slot order (R39, R207). -/
def Block.actsInOrder (b : Block) : List (Nat × CommitOp) := sortBy (fun a => a.1) b.acts

/-! ## Waiting to commit (R66, R68, R102, R172, R196, R221, R279, R404, R412) -/

/-- Pushes of a block into the coprocessor ring (R66). -/
def Block.pushes (b : Block) : Nat := (b.acts.filter fun a => match a.2 with
  | .ring _ => true
  | .push _ _ => true
  | _ => false).length

/-- Messages that a block sends (R221). -/
def Block.messages (b : Block) : Nat := (b.acts.map fun a => match a.2 with
  | .send d _ m => (sendCopies d m).length
  | _ => 0).sum

/-- Launches that a block enters in the launch queue (R412). -/
def Block.launches (b : Block) : Nat := (b.acts.filter fun a => match a.2 with
  | .launch _ none => true
  | .launch _ (some h) => h.gen == 0
  | _ => false).length

/-- A port push of a block finds its output buffer occupied (R68). -/
def State.portBlocked (s : State) (l : Loc) (b : Block) : Bool := b.acts.any fun a => match a.2 with
  | .port k _ => !s.portOpen l k
  | _ => false

/-- The exit is `MIGR`. -/
def Block.migrates (b : Block) : Bool := match b.exit with
  | some (.migrate _ _) => true
  | _ => false

/-- Entries that a core's forwarding table may hold (R345). -/
def forwardLimit : Nat := 16

/-- A `MIGR` must wait: its coprocessor work has not retired, or every forwarding entry is an origin entry (R102, R404); or
a late fault of a supervisor, which R335 does not deliver, bars it (notes/assumptions 156). -/
def State.migrWaits (s : State) (l : Loc) (b : Block) : Bool :=
  let fs := (s.core l).forwards
  b.migrates && (decide ((s.ctx l).dseq ≠ (s.ctx l).rseq) || (decide (forwardLimit ≤ fs.length) && fs.all fun f => f.origin)
    || ((s.ctx l).sup && (s.ctx l).lcount != 0))

/-- The places that a block's commit writes or reads: its stores, and the records, counters and futures of its acts (R39, R207). -/
def Block.commitPlaces (b : Block) (l : Loc) : List Place :=
  ((b.valued.map fun st => st.addr) ++ b.acts.flatMap fun a => match a.2 with
    | .push _ ptr => [bits ptr 39 0]
    | .fork r _ => [r]
    | .join c r _ => [c, r]
    | .futr f r => [f, r]
    | .futw f _ => [f]
    | .send _ m _ => [m, m + 64]
    | _ => []).filterMap (homePlace l)

/-- Those among them in granules that are fresh or being zeroed: the commit is an access, and waits for the zeroing (R324). -/
def State.freshPlaces (s : State) (l : Loc) (b : Block) : List Place := (b.commitPlaces l).filter s.unsettled

/-- A committable block must wait for room, for a zeroing or for work of its own context. -/
def State.commitWaits (s : State) (l : Loc) (b : Block) : Bool :=
  let c := s.core l
  b.valued.any (fun st => s.storeWaits l (s.storeKey l st.addr) st.size)
    || b.atoms.any (fun a => s.storeWaits l a.1 a.2)
    || decide (64 < b.pushes + c.ring.length)
    || s.portBlocked l b
    || (decide (8 < b.messages + s.netCount l) && decide (0 < s.netCount l))
    || (decide (64 < b.launches + (s.device l).launchQueueLen (s.partOf l)) && decide (0 < (s.device l).launchQueueLen (s.partOf l)))
    || s.migrWaits l b
    || !(s.freshPlaces l b).isEmpty

/-- A late fault is due to a context whose `MIGR` waits: the block does not commit (R102). -/
def State.migrLate (s : State) (l : Loc) (b : Block) : Bool := b.migrates && !(s.ctx l).sup && (s.ctx l).lcount != 0

/-! ## The checks in the cycle of commit -/

/-- What a block's `WRITE`s and stores leave. -/
def State.afterStores (s : State) (l : Loc) (b : Block) : State := (Act.homeStores l b).run ((Act.commitWrites l b).run s)

/-- The fault of the exit at commit: `MIGR` with records or row descriptors (R102), or `ERET` whose frame has changed (R340). -/
def State.exitFault (s : State) (l : Loc) (b : Block) : List BlockFault :=
  let slot := ((b.instrs.filter fun x => (exitOf x.2).isSome && b.fired.contains x.1).map fun x => x.1).headD 0
  match b.exit with
  | some (.migrate _ _) =>
    if (s.ctx l).faultQ.isEmpty ∧ (s.ctx l).rowQ.isEmpty then [] else [⟨s.now, slot, 2, 11, 0⟩]
  | some (.eret _ _) =>
    let swp := bits ((s.afterStores l b).frameWord l 3) 16 0
    if s.wpCause l swp = 0 then [] else [⟨s.now, slot, s.wpCause l swp, 0, swp⟩]
  | _ => []

/-- The fault of a block in its cycle of commit that counts: that of the lowest slot (R334). -/
def State.commitFault (s : State) (l : Loc) (b : Block) : Option BlockFault :=
  let fs := storeFaults l b.valued ((Act.commitWrites l b).run s) ++ actFaults l b b.actsInOrder (s.afterStores l b) ++ s.exitFault l b
  fs.foldl (fun m f => match m with
    | some g => if f.slot < g.slot then some f else some g
    | none => some f) none

/-! ## Migration departs (R102, R403, R404) -/

/-- The forwarding entry that gives way when all 16 are in use: the oldest that is not an origin entry (R404). -/
def givesWay (fs : List Forward) : Option Forward :=
  if fs.length < forwardLimit then none else fs.find? fun f => !f.origin

/-- A forwarding entry is freed, and the messages that waited in it are refused DEAD (R345). -/
def Act.freeForward (c : Loc) (f : Forward) : Act :=
  .all [.core c fun k => { k with forwards := k.forwards.erase f }, .each f.waiting fun m => .refuse c m 2, .offerWork c]

/-- The holders of a thread after one more core keeps an entry, and the holder that a fifth one replaces (R345, R404). -/
def addHolder (hs : List Loc) (h : Loc) : List Loc × Option Loc :=
  if hs.length < 4 then (hs ++ [h], none)
  else match hs with
    | o :: x :: rest => (o :: rest ++ [h], some x)
    | _ => (hs ++ [h], none)

/-- The forwarding entry that a departing thread leaves: at its origin it keeps the thread's duties (R345, R404). -/
def newForward (c : Context) (l : Loc) : Forward :=
  let origin := c.holders.isEmpty
  ⟨l, l.toPolder, origin, false, false, false, if origin then c.duties else Duties.none, if origin then c.tree else 0#64, []⟩

/-- The thread leaves by `MIGR`: the packet goes to the named polder and a forwarding entry stays; the context is DORMANT and reserved
while the packet travels (R102, R403, R404). -/
def Act.depart (l : Loc) (next : Nat) (dest : Loc) : Act :=
  .read fun s =>
    let c := s.ctx l
    let h := addHolder c.holders l
    let m : MigPkt := ⟨l, c.prio.toNat % 4, c.steal.toNat, next, c.pasid.toNat, s.partOf l, h.1, (List.range 16).map fun i => w64 (s.wword l i)⟩
    .all [
      .when (decide (forwardLimit ≤ (s.core l).forwards.length)) (.count l 0x3B8),
      (match givesWay (s.core l).forwards with
        | some f => .freeForward l.toCore f
        | none => .skip),
      .core l (fun k => { k with forwards := (k.forwards.filter fun f => f.old != l || f.origin) ++ [newForward c l] }),
      .leaveSlots l false,
      .ctx l (fun x => { x with
        state := 0#3, block := none, guest := false, reserved := some (.migration m), window := [], stopReq := false }),
      .commandGone l,
      (match h.2 with
        | some x => .tellHolder l x (.threadReleaseArrival x ⟨l, s.partOf l, false, false, false, false, true⟩)
        | none => .skip),
      .event (8 + s.way l dest) (.migrationPacketArrival dest.toPolder m)]

/-! ## Commit (R38, R39) -/

/-- Queue words that a block has taken leave their queues (R39, R67). -/
def Act.commitPops (l : Loc) (b : Block) : Act :=
  .seq (.ctx l fun c => { c with rowQ := c.rowQ.drop (b.pops.filter fun p => p.reg == 21).length })
    (.each b.pops fun p => match portOf p.reg with
      | some k => .portPop l k p.tag
      | none => .skip)

/-- What the exit of a committed block does, and the boundary (R97-R102, R231, R232, R335). -/
def Act.leave (l : Loc) (e : ExitAct) : Act :=
  .read fun s =>
    let goto (a : Nat) : Act := .ctx l fun c => { c with pc := w64 a }
    match e with
    | .goto n => .seq (goto n) (.boundary l false)
    | .call n _ => .seq (goto n) (.boundary l false)
    | .done => .all [.applyWindow l, .decompose l, .endContext l false]
    | .suspend n => .seq (.when (s.ctx l).stopReq (.stopNow l n)) (.event 0 (.contextDispatch l.toCore))
    | .migrate n d => .all [.dropAhead l, .applyWindow l, .depart l n d, .event 0 (.contextAllocation l.toCore), .event 0 (.contextDispatch l.toCore)]
    | .sysc n code => .all [goto n, .takeTrap l ⟨3, 0x0F, code, 0, 0, 0, n, 0, []⟩, .boundary l true]
    | .eret _ _ => .seq (.seq (.dropAhead l) (.leaveTrap l (bits (s.frameWord l 3) 16 0) (bits (s.frameWord l 1) 56 0))) (.boundary l false)

/-- A context that suspends is SUSPENDED before the acts of its block are done, so that a record entered by one of them resumes it (R100, R211). -/
def Act.suspends (l : Loc) (b : Block) : Act :=
  match b.exit with
  | some (.suspend n) => .all [
      .dropAhead l, .applyWindow l, .decompose l,
      .ctx l fun c => { c with state := 3#3, pc := w64 n }]
  | _ => .skip

/-- Note the exit number that a block has taken, by which its successor will be predicted (R42). The core notes 64 blocks
(notes/assumptions 119). -/
def Act.learn (l : Loc) (b : Block) : Act :=
  match (b.instrs.find? fun x => (exitOf x.2).isSome && b.fired.contains x.1 && predFall (predIs x.2) ((b.operand x.1 .x).getD .null) == .taken).bind
      fun x => exitOf x.2 with
  | some e => .core l fun k => { k with exits := (b.addr, e) :: (k.exits.filter fun x => x.1 != b.addr).take 63 }
  | none => .skip

/-- The commit changes what predicted blocks were fetched or executed under: control words, the workspace pointer, the composition, what the fetch
sees. -/
def Block.upsetsAhead (b : Block) : Bool :=
  b.fenced.isSome || b.acts.any fun a => match a.2 with
    | .cww _ _ => true
    | .switch _ => true
    | .compose _ => true
    | .release => true
    | _ => false

/-- The commit releases all its stores: by an act or its exit (R294). -/
def Block.releases (b : Block) : Bool :=
  (b.acts.any fun a => match a.2 with
      | .fork _ _ => true
      | .send _ _ _ => true
      | .launch _ _ => true
      | .futw _ _ => true
      | _ => false)
    || match b.exit with
      | some .done => true
      | some (.migrate _ _) => true
      | _ => false

/-- The effects of a commit, in their order: `WRITE`s with `w15` of a call, stores, the acts in slot order, pops, flags, and the exit
(R39, R75, R98, R207). -/
def Act.commit (l : Loc) (b : Block) : Act :=
  .all [
    .stirMembers l,
    .when b.upsetsAhead (.dropAhead l),
    .learn l b,
    .commitWrites l b,
    (match b.exit with
      | some (.call _ ret) => .writeWord l 15 ret
      | _ => .skip),
    .homeStores l b,
    .when b.releases (.releaseCode l),
    .suspends l b,
    .each b.actsInOrder (fun a => .commitOp l b a.1 a.2),
    .commitPops l b,
    .ctx l (fun c => { c with fm := w64 (Nat.lor c.fm.toNat b.flags), block := none }),
    .leave l (b.exit.getD .done),
    .wakeCore l]

/-- Have a committable block try again in the next cycle. -/
def Act.commitAgain (l : Loc) (epoch : Nat) : Act :=
  .read fun s => .when (!s.agenda.any fun p => p.work == .event (.blockCommit l epoch)) (.event 1 (.blockCommit l epoch))

/-- Note since when a port push waits, and have the wait end after 4,096 cycles (R68). -/
def Act.holdPorts (l : Loc) (b : Block) : Act :=
  .read fun s =>
    if s.portBlocked l b then .when b.heldSince.isNone
      (.seq (.block l fun x => { x with heldSince := some s.now }) (.event 4097 (.portPushTimeout l b.epoch)))
    else .block l fun x => { x with heldSince := none }

/-- `BLOCK_COMMIT` (R38, R39): wait, fail, or make the effects architectural together. -/
def Act.tryCommit (l : Loc) (epoch : Nat) : Act :=
  .read fun s =>
    match s.blockAt l epoch with
    | none => .skip
    | some b =>
      if !b.ready || b.fault.isSome || !b.committable then .skip
      else if s.migrLate l b then .all [
          .stirMembers l, .dropAhead l, .releaseBlock l b, .ctx l (fun c => { c with block := none, pc := w64 b.addr }), .wakeCore l, .boundary l false]
      else if s.commitWaits l b then .all [.each (s.freshPlaces l b) .startZeroing, .holdPorts l b, .commitAgain l epoch]
      else match s.commitFault l b with
        | some f => .seq (.when (f.cause == 0x11) (.count l 0x358)) (.raise l epoch f.slot f.cause f.detail f.addr)
        | none => .commit l b

/-- `BLOCK_COMMIT` (R38). -/
def execBlockCommit (s : State) : Host.Outcome State Fault Refusal :=
  match s.cur with
  | .blockCommit l ep => done (.tryCommit l ep) s
  | _ => .next s

end Sys2Proof.Machine
end

