-- ==== Sys2Proof/Machine/Satisfy.lean ====
section
/-! DEFINITION. Satisfactions at the issuing polder (spec/05 R125-R127, spec/09 R214, R217, R218, R224), listen notifications (spec/05
R132), the pending list of a context (spec/16 R347, R348, spec/20 R394) and the reply to a registration (spec/05 R123). -/

namespace Sys2Proof.Machine

/-! ## The pending list (R347, R348, R394) -/

/-- The kind of a held operation in the pending area (R394). -/
def heldKind : WatchKind → Nat
  | .task => 0
  | .fut => 1
  | .join => 2
  | .listen => 3
  | .launch => 4
  | .hostWait => 0

/-- The 32 bytes of a pending-area entry (R394). -/
def State.heldBytes (s : State) (x : Sat) : List Byte :=
  bytesOf 8 (heldKind x.reg.kind) ++ bytesOf 8 (x.value.getD 0) ++ bytesOf 8 x.reg.arg ++ bytesOf 8 (s.handleWord x.handle)

/-- Change a context that is resident, or the saved context of an absent partition. -/
def Act.anyCtx (l : Loc) (part : Nat) (f : Context → Context) : Act :=
  .read fun s =>
    if (s.polder l).part = some part then .ctx l f
    else .polder l fun p => { p with saves := p.saves.map fun v =>
      if v.part = part then { v with ctxs := v.ctxs.map fun x => if x.1 = l then (x.1, f x.2) else x } else v }

/-- A context of a partition, resident or saved. -/
def State.anyCtx (s : State) (l : Loc) (part : Nat) : Context :=
  if (s.polder l).part = some part then s.ctx l else (s.savedCtx l part).getD (s.ctx l)

/-- Post a record to a context of a partition, resident or saved, by the rule of its queue (R342). -/
def Act.anyPost (l : Loc) (part : Nat) (r : FaultRec) : Act :=
  .read fun s =>
    if (s.anyCtx l part).faultQ.length < 8 then
      .anyCtx l part fun y => { y with faultQ := y.faultQ ++ [{ r with ovf := y.faultLost }], faultLost := false }
    else .seq (.anyCtx l part fun y => { y with faultLost := true }) (.hostRec l part r)

/-- Hold a satisfaction or a notification for a context that is HALTED or absent: in its pending area of 126 entries, then in the polder's overflow
of 64; beyond that the action is lost, and a record 0x14 is posted to it when it resumes (R347). -/
def Act.hold (x : Sat) : Act :=
  .inPart x.reg.issuer x.reg.part <| .read fun s =>
    let l := x.reg.issuer
    let c := s.anyCtx l x.reg.part
    let b := c.spillBase
    let n := s.home64 l (b + 0x20)
    if s.spillState l c = .room ∧ n < 126 then .all [
        .writeHome l (b + 0x40 + 32 * n) (s.heldBytes x),
        .write64 l (b + 0x20) (n + 1),
        .anyCtx l x.reg.part fun y => { y with held := y.held ++ [⟨x⟩] }]
    else if (s.polder l).overflow.length < 64 then .polder l fun p => { p with overflow := p.overflow ++ [⟨x⟩] }
    else .polder l fun p => { p with missed := p.missed ++ [(l, x.reg.part)] }

/-! ## Actions (R125, R127, R214, R217, R224) -/

/-- Post a record to the registering context, or to the host queue if its thread has ended (R125, R342). -/
def Act.postTo (l : Loc) (part cause addr : Nat) : Act :=
  .read fun s =>
    let r := s.coreRec l cause 0 0 addr 0
    if (s.ctx l).state = 0#3 then .hostRec l part r else .post l r

/-- Enter the record of a `WATCH.TASK` or a `JOIN`, checked as `FORK` checks its record (R125, R214). -/
def Act.enterSatisfied (w : WatchReg) : Act :=
  .read fun s =>
    let l := w.issuer
    let c := s.recordCause { l with ctx := l.ctx } w.arg 64
    let b := recordBars l (s.taskWords l w.arg)
    if c ≠ 0 ∧ c ≠ 8 then .postTo l w.part c w.arg
    else if b ≠ 0 then .postTo l w.part b w.arg
    else .enterFrom l w.arg (w.words.headD 0) w.pasid none

/-- The launch that a registration stands for: its record as its issuer sent it on when it fired, whose addresses a second conversion leaves as they are,
or the host packet's (R208, R224, R450, R468). -/
def State.launchOf (s : State) (w : WatchReg) : LaunchRec :=
  let r := s.launchRec w.issuer ((w.words.take 16).flatMap fun v => bytesOf 8 v)
  let host : Option HostTag := if w.words.length < 20 then none else some ⟨w.words.getD 17 0, w.words.getD 18 0, w.words.getD 19 0⟩
  { r with place := w.arg, pasid := w.pasid, part := w.part, host := host }

/-- The queue number of a launch (R412). -/
def launchNum (r : LaunchRec) : Nat :=
  match r.host with
  | some t => t.q
  | none => 4096 + r.part

/-- Perform the action of a satisfaction; `value` none is the dry answer (R125, R127; notes/assumptions 158). -/
def Act.perform (x : Sat) : Act :=
  .read fun s =>
    let w := x.reg
    let l := w.issuer
    let tag := w.words.headD 0
    .seq (match x.value with
        | some v => .acquireGauge l w.pasid w.gauge v
        | none => .skip)
      (match w.kind with
      | .task => (match x.value with
        | some _ => .enterSatisfied w
        | none => .postTo l w.part 9 w.gauge)
      | .join => (match x.value with
        | some _ => .enterSatisfied w
        | none => .postTo l w.part 9 w.gauge)
      | .fut =>
        if s.homeBarred l w.arg 16 then .postTo l w.part 8 w.arg
        else if bits (s.home64 l w.arg) 63 62 ≠ 0 then .postTo l w.part 0x0B w.arg
        else (match x.value with
          | some v => .fillFuture l w.arg 1 v tag w.pasid
          | none => .fillFuture l w.arg 2 9 tag w.pasid)
      | .launch => .triggerLaunch (launchNum (s.launchOf w)) (s.launchOf w) x.value.isNone
      | .hostWait => .event 0 (.hostWorkComplete l.toDev ⟨w.words.getD 0 0, w.words.getD 1 0, w.words.getD 2 0⟩
          (hostStatus (if x.value.isNone then 2 else 0) 0) 0)
      | .listen => .skip)

/-- A satisfaction at the issuing polder: held for a HALTED context or an absent partition, sent on where the context has left by
`RELOC`, and performed at once otherwise (R125, R344, R347). -/
def Act.satisfied (x : Sat) : Act :=
  .read fun s =>
    let l := x.reg.issuer
    let tied := x.reg.kind != .hostWait && decide (x.reg.words.length < 20)
    let absent := (s.polder l).part != some x.reg.part
    let moved := ((s.core l).forwardOf l).filter fun f => f.byReloc
    if tied && absent then .hold x
    else if tied && decide ((s.ctx l).state = 0#3) && moved.isSome then
      (match moved with
      | some f => .event (8 + s.way l f.place) (.watchSatisfactionArrival { x with reg := { x.reg with issuer := f.place } })
      | none => .skip)
    else if tied && decide ((s.ctx l).state = 4#3) then .hold x
    else .perform x

/-- `WATCH_SATISFACTION_ARRIVAL` (R125). -/
def execWatchSatisfactionArrival (s : State) : Host.Outcome State Fault Refusal :=
  match s.cur with
  | .watchSatisfactionArrival x => done (.satisfied x) s
  | _ => .next s

/-! ## Listens (R132) -/

/-- The transfer that a listen starts (R132). -/
def listenXfer (t : ListenSlot) : Xfer :=
  { id := 0, origin := .listen t.handle, kind := .copy, src := t.src, dst := t.dst, len := t.len, cls := t.cls, cwa := 0, st := false,
    pasid := t.pasid, part := t.part, sup := t.sup, core := t.owner.core, issued := false, next := 0, flying := [], cause := 0, addr := 0,
    lock := none, got := [] }

/-- The registration that a listen slot stands for. -/
def ListenSlot.registration (t : ListenSlot) : WatchReg :=
  ⟨t.owner, 0, 0, .listen, 0, t.place, t.pasid, t.part, 0, [t.src, t.dst, field t.cls 2 20 + (t.len - 1), t.mirror]⟩

/-- Start the pull of a listen for a value (R132). -/
def Act.startListen (p : Loc) (t : ListenSlot) (v : Nat) : Act :=
  .seq (.polder p fun q => { q with
      listens := q.listens.map fun x => if x.handle = t.handle then { x with running := true, nowV := v, pendingV := 0 } else x
      internalQ := q.internalQ ++ [listenXfer t] })
    (.event 0 (.transferIssue p.toPolder))

/-- A notification at the listener's engine: a running pull merges it, and a dry owner is reported once, as a pull with `st` = 0 reports
a failure, and ends the listen (R132, R133). For an absent partition it is held for the context that placed the listen (R347). -/
def Act.notified (p : Loc) (h : Handle) (v : Nat) (dry : Bool) : Act :=
  .read fun s =>
    match (s.polder p).listens.find? fun t => t.handle == h && !t.removed with
    | some t =>
      if dry then .seq (.lateFor t.owner t.part t.thread 9 t.src) (.polder p fun q => { q with listens := q.listens.filterMap fun x =>
          if x.handle = h then (if x.running then some { x with removed := true } else none) else some x })
      else if t.running then .polder p fun q => { q with listens := q.listens.map fun x =>
          if x.handle = h then { x with pendingV := max x.pendingV v } else x }
      else .startListen p t v
    | none => match ((s.polder p).saves.flatMap fun sv => sv.listens).find? fun t => t.handle == h && !t.removed with
      | some t => .hold ⟨t.registration, h, if dry then none else some v⟩
      | none => .skip

/-- `LISTEN_NOTIFICATION` (R132). -/
def execListenNotification (s : State) : Host.Outcome State Fault Refusal :=
  match s.cur with
  | .listenNotification p h v dry => done (.notified p h v dry) s
  | _ => .next s

/-! ## Replays (R348) -/

/-- The cause for which a held operation is dropped, and the address: its record, future, destination or mirror no longer translates or admits the
write (R348). -/
def State.heldCause (s : State) (x : Sat) : Nat × Nat :=
  let l := x.reg.issuer
  let record : Nat × Nat :=
    let c := s.recordCause l x.reg.arg 64
    (if c = 4 ∨ c = 5 ∨ c = 7 then c else 0, x.reg.arg)
  let spans (xs : List (Nat × Nat)) : Nat × Nat := ((xs.map fun y => (s.storeRange l y.1 y.2, y.1)).find? fun y => y.1 != 0).getD (0, 0)
  match x.reg.kind with
  | .fut => spans [(x.reg.arg, 8), (x.reg.arg + 8, 8)]
  | .task => record
  | .join => record
  | .launch => let r := s.launchOf x.reg; if r.crec = 0 then (0, 0) else spans [(r.crec, 8), (r.crec + 8, 8)]
  | .listen =>
    match (s.polder l).listens.find? fun t => t.handle == x.handle && !t.removed with
    | some t => if s.pullRange l t.dst t.len ≠ 0 then (7, t.dst) else if s.pullRange l t.mirror 8 ≠ 0 then (7, t.mirror) else (0, 0)
    | none => (0, 0)
  | .hostWait => (0, 0)

/-- Take the held satisfactions of a context that resumes, in their order: those of its pending area as memory now has them, then those
of the overflow (R348, R394). -/
def Act.replayHeld (l : Loc) : Act :=
  .read fun s =>
    let c := s.ctx l
    let b := c.spillBase
    let n := s.home64 l (b + 0x20)
    let area := (List.range (min n c.held.length)).filterMap fun i => (c.held[i]?).map fun h =>
      let v := s.home64 l (b + 0x40 + 32 * i + 8)
      let a := s.home64 l (b + 0x40 + 32 * i + 16)
      ({ h.sat with reg := { h.sat.reg with arg := a }, value := h.sat.value.map fun _ => v } : Sat)
    let mine (h : HeldOp) : Bool := h.sat.reg.issuer == l && h.sat.reg.part == s.partOf l
    let beyond := ((s.polder l).overflow.filter mine).map fun h => h.sat
    .all [
      .when (!c.held.isEmpty) (.write64 l (b + 0x20) 0),
      .ctx l fun x => { x with held := [] },
      .polder l fun p => { p with overflow := p.overflow.filter fun h => !mine h, missed := p.missed.filter fun m => m != (l, s.partOf l) },
      .each ((s.polder l).missed.filter fun m => m == (l, s.partOf l)) fun _ => .post l (s.coreRec l 0x14 0 0 b 0),
      .each (area ++ beyond) fun x => .read fun s =>
        if (s.heldCause x).1 ≠ 0 then .post l (s.coreRec l (s.heldCause x).1 0 0 (s.heldCause x).2 0)
        else if x.reg.kind = .listen then .notified l x.handle (x.value.getD 0) x.value.isNone
        else .perform x]

/-! ## The reply to a registration (R123, R450) -/

/-- A host's registration has been answered: a code where it failed, arming, or completion at once (R450). -/
def Act.hostRegistered (w : WatchReg) (h : Handle) (cause value : Nat) : Act :=
  .read fun s =>
    let t : HostTag := if w.kind = .launch then ⟨w.words.getD 17 0, w.words.getD 18 0, w.words.getD 19 0⟩
      else ⟨w.words.getD 0 0, w.words.getD 1 0, w.words.getD 2 0⟩
    if cause ≠ 0 then
      .event 0 (.hostWorkComplete w.issuer.toDev t
        (if w.kind = .hostWait ∧ cause = 9 then hostStatus 2 0 else hostStatus 0 (if cause = 4 ∨ cause = 5 then 3 else 5)) 0)
    else if h.gen = 0 then .perform ⟨w, h, some value⟩
    else .event (8 + s.way w.issuer h.owner) (.watchArm w h)

/-- `WATCH_REGISTRATION_REPLY` (R123). -/
def execWatchRegistrationReply (s : State) : Host.Outcome State Fault Refusal :=
  match s.cur with
  | .watchRegistrationReply w h c v =>
    done (if w.kind = .hostWait ∨ 20 ≤ w.words.length then .hostRegistered w h c v else .registered w h c v) s
  | _ => .next s

end Sys2Proof.Machine
end

