-- ==== Sys2Proof/Machine/Schedule.lean ====
section
/-! DEFINITION. Contexts and cores: allocation (spec/03 R61, R62, spec/20 R389), dispatch (R390, R391), refills (R392) and stealing
(R395-R397). -/

namespace Sys2Proof.Machine

/-! ## Allocation (R61, R62, R389) -/

/-- A context may be allocated, its forwarding entry apart: DORMANT, neither reserved nor a member slot, in a polder whose partition is
resident (R389, R454). -/
def State.freeCtx (s : State) (l : Loc) : Bool :=
  let c := s.ctx l
  decide (c.state = 0#3) && c.reserved.isNone && c.lead.isNone && (s.polder l).part.isSome && (s.polder l).swapping.isNone

/-- The context that a core allocates next: the lowest without a forwarding entry, else the lowest that has no origin entry
(R389). -/
def State.allocatable (s : State) (c : Loc) : Option Loc :=
  let ls := ((List.range 8).map fun k => ({ c.toCore with ctx := k } : Loc)).filter s.freeCtx
  match ls.find? fun l => ((s.core c).forwardOf l).isNone with
  | some l => some l
  | none => ls.find? fun l => (s.core c).forwards.all fun f => f.old != l || !f.origin

/-- What an arrival gives a context (R61, R62). -/
structure Arrival where
  pc : Nat
  pasid : Nat
  prio : Nat
  steal : Nat
  tree : Nat
  guest : Bool
  words : List W64
  duties : Duties
  holders : List Loc
  deriving DecidableEq, Repr, Inhabited

/-- The context-allocation unit fills a context: its workspace is zeroed, the arrival's words are written, and it is READY (R61). -/
def Act.allocate (l : Loc) (a : Arrival) : Act :=
  .withEpoch fun thr => .read fun s =>
    .all [
      (match (s.core l).forwardOf l with
        | some f => .seq (.count l 0x3B8) (.freeForward l.toCore f)
        | none => .skip),
      .writePlace ⟨l.toPolder, 2, l.core * 0x20000 + (s.ctx l).wp.toNat⟩ (List.replicate 128 0#8),
      .ctx l (fun c => { c with
        state := 1#3, pol := 0#64, fm := 0#64, step := 0#64, guest := a.guest, pasid := BitVec.ofNat 20 a.pasid, prio := w64 (a.prio % 4),
        steal := BitVec.ofNat 2 a.steal, stealMax := BitVec.ofNat 2 a.steal, tree := w64 a.tree, pc := w64 a.pc, sup := false,
        duties := a.duties, holders := a.holders, stale := [], unacquired := [], unreleased := [], faultQ := [], faultLost := false, rowQ := [], late := [], surplus := 0,
        block := none, window := [], stopReq := false, haltCause := 0, readyAt := s.now, reserved := none,
        resumed := false, thread := thr, rseq := c.dseq }),
      .each ((List.range a.words.length).zip a.words) fun w => .writeWord l w.1 w.2.toNat,
      .event 0 (.contextDispatch l.toCore)]

/-- The arrival of a message's handler (R62, R219). -/
def messageArrivalOf (m : Message) : Arrival :=
  ⟨bits m.w0 56 0, m.pasid, msgChan m, 0, 0, false, m.payload, { Duties.none with slot := some (msgChan m) }, []⟩

/-- The arrival of a task record or launch group from a deque (R62, R211, R225). -/
def taskArrivalOf (e : DequeEntry) : Arrival :=
  let w (i : Nat) : Nat := (e.words.getD i 0#64).toNat
  let tree := match e.origin with
    | .group t _ _ => t
    | _ => 0
  ⟨bits (w 0) 56 0, e.pasid, bits (w 0) 61 60, e.tag, tree, false, e.words.drop 2,
    { Duties.none with join := bits (w 1) 56 0, joinPasid := e.pasid, origin := e.origin }, []⟩

/-- Messages that wait in the interface take the slots that are free (R400). -/
def Act.mailWaiting (c : Loc) : List Message → List Nat → Act
  | [], _ => .skip
  | m :: ms, full => .read fun s =>
    if !full.contains (msgChan m) && s.mailRoom c (msgChan m) then
      .seq (.core c fun k => { k with mail := k.mail ++ [⟨msgChan m, m, false⟩], unmailed := k.unmailed.erase m }) (Act.mailWaiting c ms full)
    else Act.mailWaiting c ms (msgChan m :: full)

/-- The message whose handler starts next: highest channel first, and in order of acceptance within it (R389, R400). -/
def CoreState.nextMail (k : CoreState) : Option MailSlot :=
  [3, 2, 1, 0].findSome? fun ch => k.mail.find? fun m => !m.started && m.chan == ch

/-- Mark a mailbox slot as started. -/
def startSlot (m : MailSlot) : List MailSlot → List MailSlot
  | [] => []
  | x :: xs => if x = m then { x with started := true } :: xs else x :: startSlot m xs

/-! ## Guests (R403, R404) -/

/-- Guests that a polder holds. -/
def State.guests (s : State) (p : Loc) : Nat := (s.ctxs.filter fun x => x.1.toPolder == p.toPolder && x.2.guest && x.2.state != 0#3).length

/-- The core that admits a packet: the issuer's number if that core can, else the lowest that can (R404). -/
def State.guestCore (s : State) (p : Loc) (m : MigPkt) : Option Loc :=
  let core (n : Nat) : Loc := { p.toPolder with core := n }
  (m.source.core :: List.range 8).findSome? fun n => s.allocatable (core n)

/-- Admit the packets of the migration buffer, oldest first, as long as the guest limit and the contexts allow (R404). -/
def Act.admitGuests (p : Loc) : List MigPkt → Act
  | [] => .skip
  | m :: ms => .read fun s =>
    let glim := bits ((s.polder p).limits.getD 8 0#64).toNat 6 0
    if glim ≤ s.guests p then .skip
    else match s.guestCore p m with
      | none => .skip
      | some l => .all [
          .polder p fun q => { q with migBuf := q.migBuf.erase m },
          .allocate l ⟨m.resume, m.pasid, m.prio, m.steal, 0, true, m.words, Duties.none, m.holders⟩,
          .event (8 + s.way p m.source) (.migrationAdmissionReply m.source.toCore m 0 l),
          Act.admitGuests p ms]

/-! ## CONTEXT_ALLOCATION (R389) -/

/-- A core is idle: it has a context to allocate and none of the sources 1 to 3 has work (R395). -/
def State.idleCore (s : State) (c : Loc) : Bool :=
  let k := s.core c
  (s.allocatable c).isSome && (k.nextMail).isNone && k.unmailed.isEmpty && k.deque.isEmpty && (s.polder c).part.isSome

/-- Fill one context of a core from the first source that has work (R389). -/
def Act.allocateNext (c : Loc) : Act :=
  .read fun s =>
    let k := s.core c
    let again : Act := .event 0 (.contextAllocation c.toCore)
    match s.allocatable c with
    | none => .skip
    | some l =>
      match k.nextMail with
      | some m => .all [
          .core c fun x => { x with mail := startSlot m x.mail },
          .allocate l (messageArrivalOf m.msg), again]
      | none =>
        match k.deque with
        | e :: rest => .all [
            .core c fun x => { x with deque := rest },
            .allocate l (taskArrivalOf e),
            .enterHeld c, .kickRefill c, .event 0 (.launchGroupPlacement c.toPolder), again]
        | [] => .when (k.asking.isNone && !k.backoff) (.event 0 (.stealRequest c.toCore))

/-- `CONTEXT_ALLOCATION`: waiting messages, waiting guests, then one context of the core (R61, R389). -/
def execContextAllocation (s : State) : Host.Outcome State Fault Refusal :=
  match s.cur with
  | .contextAllocation c =>
    done (.all [
      .read fun x => .mailWaiting c (x.core c).unmailed [],
      .read fun x => .when ((x.core c).nextMail.isNone || (x.allocatable c).isNone) (.admitGuests c.toPolder (x.polder c).migBuf),
      .allocateNext c]) s
  | _ => .next s

/-! ## CONTEXT_DISPATCH (R390, R391) -/

/-- The contexts of a core that are RUNNING, member slots of a composition apart. -/
def State.runningOn (s : State) (c : Loc) : List Loc :=
  ((List.range 8).map fun k => ({ c.toCore with ctx := k } : Loc)).filter fun l =>
    decide ((s.ctx l).state = 2#3) && ((s.ctx l).lead.all fun q => q.1 == l)

/-- A further context may become RUNNING: fewer than four are, no checked block waits, and a frame is free beside those that blocks
hold or are being fetched for (R391). -/
def State.placeFree (s : State) (c : Loc) : Bool :=
  let run := s.runningOn c
  let fetching := (run.filter fun l => match (s.ctx l).block with
    | some b => !b.ready
    | none => true).length
  decide (run.length < 4) && (s.waitingOn false c).isEmpty && decide (s.framesUsed false c + fetching < 4)

/-- The READY context that R390 chooses: highest priority, then the one READY longest. -/
def State.nextReady (s : State) (c : Loc) : Option Loc :=
  ((List.range 8).map fun k => ({ c.toCore with ctx := k } : Loc)).foldl (fun b l =>
    let x := s.ctx l
    if x.state ≠ 1#3 then b
    else match b with
      | none => some l
      | some m =>
        let y := s.ctx m
        if y.prio.toNat < x.prio.toNat ∨ (y.prio = x.prio ∧ x.readyAt < y.readyAt) then some l else b) none

/-- A context becomes RUNNING; one that resumes takes its held operations first, and then, at the same boundary, a
late fault or a record (R335, R343, R348, R391). -/
def Act.runCtx (l : Loc) : Act :=
  .read fun s => .all [
    .dropAhead l,
    .when (s.ctx l).resumed (.replayHeld l),
    .ctx l fun c => { c with state := 2#3, resumed := false },
    .when (s.ctx l).resumed (.lateOrRecord l),
    .event 0 (.blockFetch l),
    .event 0 (.contextDispatch l.toCore)]

/-- `CONTEXT_DISPATCH`: frames go to the waiting blocks of the polder in turn, then to the READY context of the core that R390 chooses, then to
predicted blocks (R391). -/
def execContextDispatch (s : State) : Host.Outcome State Fault Refusal :=
  match s.cur with
  | .contextDispatch c =>
    done (.all [
      .startWaiting (s.waitingBlocks false c) [],
      .read fun x =>
        if !x.placeFree c then .skip
        else match x.nextReady c with
          | some l => .runCtx l
          | none => .skip,
      .read fun x => .startWaiting (x.waitingBlocks true c) ((x.waitingBlocks false c).flatMap fun w => x.frameCores w.1 w.2)]) s
  | _ => .next s

/-! ## DEQUE_REFILL (R392) -/

/-- The first context of a core whose task ring can be read and is not empty (R393). -/
def State.refillFrom (s : State) (c : Loc) : Option Loc :=
  ((List.range 8).map fun k => ({ c.toCore with ctx := k } : Loc)).find? fun l =>
    s.spillState l (s.ctx l) == .room && s.ringCount l (s.ctx l).spillBase 0 != 0

/-- The oldest record of a context's task ring as the deque entry that was put there; one that software has put there has the tag and PASID of the ring's
context (R62, R225, R392; notes/assumptions 150). -/
def State.ringEntry (s : State) (l : Loc) : DequeEntry :=
  let x := s.ctx l
  let bs := s.ringHead l x.spillBase 0 0x1000 64 448
  let words := (List.range 8).map fun i => w64 (numAt bs (8 * i) 8)
  match (s.core l).ringed.find? fun g => g.1 == l.ctx && g.2.1 == s.ringCell l (s.home64 l x.spillBase) with
  | some g => { g.2.2 with words := words }
  | none => ⟨words, x.steal.toNat, x.pasid.toNat, .task⟩

/-- `DEQUE_REFILL`: with 48 or fewer entries, the oldest ring record becomes the top entry (R392). -/
def Act.refill (c : Loc) : Act :=
  .seq (.core c fun k => { k with refilling := false }) (.read fun s =>
    match s.refillFrom c with
    | none => .enterHeld c
    | some l =>
      if 48 < (s.core c).deque.length then .skip
      else
        let e := s.ringEntry l
        let cell := s.ringCell l (s.home64 l (s.ctx l).spillBase)
        .all [
          .ringPop l (s.ctx l).spillBase 0,
          .core c fun k => { k with
            deque := k.deque ++ [e]
            ringed := k.ringed.filter fun g => !(g.1 == l.ctx && g.2.1 == cell) },
          .enterHeld c, .kickRefill c, .offerWork c])

/-- `DEQUE_REFILL` (R392). -/
def execDequeRefill (s : State) : Host.Outcome State Fault Refusal :=
  match s.cur with
  | .dequeRefill c => done (.refill c) s
  | _ => .next s

/-! ## Stealing (R395-R397) -/

/-- One step of the victim generator (R396). -/
def lfsrStep (s : Nat) : Nat :=
  let f := (s / 2 ^ 15 + s / 2 ^ 13 + s / 2 ^ 12 + s / 2 ^ 10) % 2
  (2 * s) % 2 ^ 16 + f

/-- Sixteen steps of it (R396). -/
def lfsrNext (s : Nat) : Nat := (List.range 16).foldl (fun x _ => lfsrStep x) s

/-- The polders of a level around a thief (R396): its own, its die's, its device's. -/
def levelPolders (t : Loc) (level : Nat) : List Loc :=
  if level = 0 then [t.toPolder]
  else if level = 1 then (List.range 96).map fun i => Loc.polderOf t.dev (t.die * 96 + i)
  else (List.range 384).map fun i => Loc.polderOf t.dev i

/-- The candidates of a level, in ascending order: die, y, x and core (R396). -/
def State.victims (s : State) (t : Loc) (level : Nat) : List Loc :=
  ((levelPolders t level).filter fun p => (s.polder p).part == (s.polder t).part).flatMap fun p =>
    ((List.range 8).map fun c => ({ p with core := c } : Loc)).filter fun c => c != t.toCore

/-- The reach of a core (R396). -/
def CoreState.widest (k : CoreState) : Nat := k.reach.foldl (fun m x => max m x.2) 0

/-- Go on to the next level that has candidates, or wait 256 cycles after the widest (R396). -/
def Act.nextLevel (c : Loc) (level : Nat) : Act :=
  .read fun s =>
    if (s.core c).widest < level then
      .seq (.core c fun k => { k with level := 0, tries := 0, backoff := true }) (.event 256 (.stealBackoffExpiry c))
    else .seq (.core c fun k => { k with level := level, tries := 0 }) (.event 0 (.stealRequest c))

/-- One attempt of an idle core: it reserves a context and asks the victim that its generator names (R395, R396). A round above a reach that has shrunk
ends (notes/assumptions 150). -/
def Act.askVictim (c : Loc) : Act :=
  .read fun s =>
    let k := s.core c
    if !s.idleCore c || k.asking.isSome || k.backoff then .skip
    else match s.allocatable c with
      | none => .skip
      | some l =>
        let vs := s.victims c k.level
        if k.widest < k.level then .nextLevel c k.level
        else if vs.isEmpty ∨ 8 ≤ k.tries then .nextLevel c (k.level + 1)
        else
          let r := lfsrNext k.lfsr.toNat
          let v := vs.getD (r * vs.length / 2 ^ 16) c
          .all [
            .core c fun x => { x with lfsr := BitVec.ofNat 16 r, tries := x.tries + 1, asking := some l.ctx },
            .ctx l fun x => { x with reserved := some .steal },
            .event (8 + s.way c v + 10) (.stealRequestArrival v c k.level (s.partOf c))]

/-- `STEAL_REQUEST` (R395, R396). -/
def execStealRequest (s : State) : Host.Outcome State Fault Refusal :=
  match s.cur with
  | .stealRequest c => done (.askVictim c) s
  | _ => .next s

/-- The scope tag of an entry contains the thief (R397). -/
def tagAdmits (tag : Nat) (victim thief : Loc) : Bool :=
  decide (victim.dev = thief.dev) && (match tag with
    | 0 => decide (victim.toPolder = thief.toPolder)
    | 1 => decide (victim.die = thief.die)
    | _ => true)

/-- `STEAL_REQUEST_ARRIVAL`: the victim grants its top entry, or refuses (R397). -/
def Act.answerThief (v t : Loc) (part : Nat) : Act :=
  .read fun s =>
    let back := 8 + s.way v t + 6
    match (s.core v).deque.getLast? with
    | some e =>
      if entryKind e = 0 && tagAdmits e.tag v t && !classBars (bits (e.words.getD 0 0#64).toNat 59 58) t
          && (s.polder v).part == some part && (s.polder v).swapping.isNone then
        .all [
          .core v fun k => { k with deque := k.deque.dropLast },
          .count v 0x390, .enterHeld v, .kickRefill v,
          .event 0 (.launchGroupPlacement v.toPolder),
          .event back (.stealReplyArrival v t (some e))]
      else .seq (.count v 0x398) (.event back (.stealReplyArrival v t none))
    | none => .seq (.count v 0x398) (.event back (.stealReplyArrival v t none))

/-- `STEAL_REQUEST_ARRIVAL` (R397). -/
def execStealRequestArrival (s : State) : Host.Outcome State Fault Refusal :=
  match s.cur with
  | .stealRequestArrival v t _ part => done (.answerThief v t part) s
  | _ => .next s

/-- `STEAL_REPLY_ARRIVAL`: a granted record starts at once in the reserved context; a refusal releases it (R395, R397). -/
def Act.stolen (c : Loc) (e : Option DequeEntry) : Act :=
  .read fun s =>
    match (s.core c).asking with
    | none => (match e with
      | some x => .pushDeque c x
      | none => .skip)
    | some n =>
      let l : Loc := { c with ctx := n }
      .seq (.core c fun k => { k with asking := none }) (match e with
        | some x => .all [.core c fun k => { k with level := 0, tries := 0 }, .allocate l (taskArrivalOf x), .event 0 (.contextAllocation c)]
        | none => .all [
            .ctx l fun x => { x with reserved := none },
            .event 0 (.contextAllocation c),
            .event 0 (.stealRequest c)])

/-- `STEAL_REPLY_ARRIVAL` (R397). -/
def execStealReplyArrival (s : State) : Host.Outcome State Fault Refusal :=
  match s.cur with
  | .stealReplyArrival _ c e => done (.stolen c e) s
  | _ => .next s

/-- `STEAL_BACKOFF_EXPIRY` (R396). -/
def execStealBackoffExpiry (s : State) : Host.Outcome State Fault Refusal :=
  match s.cur with
  | .stealBackoffExpiry c => done (.seq (.core c fun k => { k with backoff := false }) (.event 0 (.stealRequest c))) s
  | _ => .next s

end Sys2Proof.Machine
end

