-- ==== Sys2Proof/Machine/Engines.lean ====
section
/-! DEFINITION. The copy/pull engine of a polder (spec/12 R275-R279, spec/05 R128-R132, spec/09 R236, R238): taking transfers in turn,
registering their destinations, reading their source lines, landing them, and completion words. -/

namespace Sys2Proof.Machine

/-! ## Commands as transfers (R128, R236) -/

/-- The engine as the agent of a read, for a core: no context and no predicted block, so no range lock waits for it (R279). -/
def engineAgent (l : Loc) : Loc := { l with ctx := 32 }

/-- A transfer of a ring entry, by its descriptor (R128). -/
def RingEntry.xfer (e : RingEntry) (kind : XferKind) (src dst len desc : Nat) : Xfer :=
  { id := 0, origin := .ring e.owner.core e.seq.toNat, kind := kind, src := src, dst := dst, len := len, cls := bits desc 21 20,
    cwa := bits desc 63 24, st := bit desc 22, pasid := e.pasid, part := e.part, sup := e.sup, core := e.owner.core, issued := false,
    next := 0, flying := [], cause := 0, addr := 0, lock := none, got := [] }

/-- The first address of each page that `n` bytes from `a` meet. -/
def pagesOf (a n : Nat) : List Nat := (List.range ((a + n - 1) / 0x1000 + 1 - a / 0x1000)).map fun i => max a ((a / 0x1000 + i) * 0x1000)

/-- The source of a `GCOPY` without a sidecar address must be a core memory of this polder, page by page as it is translated; the first page whose
translation fails has its own cause (R236). -/
def State.gcopySource (s : State) (l : Loc) (part pasid : Nat) (sup : Bool) (a n : Nat) : Nat :=
  ((pagesOf a n).findSome? fun x =>
    match s.resolve l part pasid sup (x % 2 ^ 64) false with
    | .error c => some (if virtualForm (x % 2 ^ 64) then c else 1)
    | .ok p => if p.owner.toPolder = l.toPolder ∧ p.space = 2 then none else some 1).getD 0

/-- The checks of an `eq2` command with code `op`, made at acceptance: cause and address (R129, R236, R238). -/
def State.eq2Cause (s : State) (l : Loc) (part pasid : Nat) (sup : Bool) (op : Nat) (rec : List Byte) : Nat × Nat :=
  let w (i : Nat) : Nat := numAt rec (8 * i) 8
  let desc := w 2
  let n := bits desc 19 0 + 1
  let cwa := bits desc 63 24
  let cw : Nat × Nat :=
    if cwa % 8 ≠ 0 then (3, cwa) else if cwa ≠ 0 ∧ s.pullRange l cwa 8 ≠ 0 then (7, cwa) else (0, 0)
  if bits desc 21 20 = 3 ∨ bit desc 23 ∨ (op ≠ 4 ∧ w 3 ≠ 0) then (1, 0)
  else if op = 2 then
    if 2 ^ 13 ≤ w 1 then (1, 0)
    else if w 0 % 8 ≠ 0 then (3, w 0)
    else if w 1 % 8 ≠ 0 ∨ n % 8 ≠ 0 then (3, w 1)
    else if 128 < w 1 % 128 + n then (1, 0)
    else cw
  else if op = 4 then
    if 4096 < n then (1, 0)
    else if w 0 % 32 ≠ 0 then (3, w 0)
    else if w 1 % 32 ≠ 0 then (3, w 1)
    else if cwa % 8 ≠ 0 then (3, cwa)
    else if !inCoreRange (w 1) || s.pullRange l (w 1) (32 * n) ≠ 0 then (7, w 1)
    else if cw.1 ≠ 0 then cw
    else if w 3 = 0 then (s.gcopySource l part pasid sup (w 0) (32 * n), w 0)
    else (0, 0)
  else if cwa % 8 ≠ 0 then (3, cwa)
  else if s.pullRange l (w 1) n ≠ 0 then (7, w 1)
  else cw

/-- The kind, source, destination and length of an `eq2` command (R236). -/
def eq2Parts (op : Nat) (rec : List Byte) : XferKind × Nat × Nat × Nat :=
  let w (i : Nat) : Nat := numAt rec (8 * i) 8
  let n := bits (w 2) 19 0 + 1
  match op with
  | 2 => (.window, w 0, w 1, n)
  | 3 => (.fill (w 0), 0, w 1, n)
  | 4 => (.granule (w 3), w 0, w 1, 32 * n)
  | _ => (.copy, w 0, w 1, n)

/-! ## The end of a transfer (R129, R130, R132, R202, R276) -/

/-- A window write names the context of its offset (R64). -/
def windowCtx (p : Loc) (off : Nat) : Loc := { p.toPolder with core := off / 0x400, ctx := off % 0x400 / 0x80 }

/-- The pull of a listen has ended: the mirror is raised unless a line failed, a failure is a late fault of the listener, and a value
notified meanwhile starts the next pull (R132, R133). -/
def Act.listenLanded (p : Loc) (h : Handle) (cause addr : Nat) : Act :=
  .read fun s =>
    match (s.polder p).listens.find? fun t => t.handle == h with
    | none => .skip
    | some t => .all [
        (if cause ≠ 0 then .lateFor t.owner t.part t.thread cause addr
        else if s.wordBarred t.owner t.mirror then .lateFor t.owner t.part t.thread 8 t.mirror
        else .when (decide (s.home64 t.owner t.mirror < t.nowV)) (.write64 t.owner t.mirror t.nowV)),
        .polder p (fun q => { q with listens := q.listens.filterMap fun x =>
          if x.handle = h then (if x.removed then none else some { x with running := false }) else some x }),
        .when (!t.removed && decide (0 < t.pendingV)) (.startListen p t t.pendingV)]

/-- The packet that stands for the rest of a host copy: its work begun, and its next addresses and length (R450). -/
def HostWork.rest (w : HostWork) : List W64 :=
  [0#64, 0#64, w64 w.src, w64 w.dst, w64 w.left, 0#64, 0#64, 0#64, w64 w.tag.tag, w64 w.tag.vec, 1#64]

/-- Part of a host copy has ended: bytes for the host are written to it, and the copy goes on, or completes with the failure (R450,
R451). -/
def Act.hostPiece (d : Loc) (q tag vec : Nat) (t : Xfer) (cause : Nat) : Act :=
  .read fun s => match (s.device d).works.find? fun w => w.tag == ⟨q, tag, vec⟩ with
    | none => .skip
    | some w =>
      if cause ≠ 0 then .event 0 (.hostWorkComplete d w.tag (hostStatus (if cause = 9 then 2 else 1) 0) 0)
      else match t.kind with
        | .gather _ => .seq (.each ((List.range t.len).zip t.got) fun b => .fx (.hostByte (t.dst + b.1) b.2)) (.event 0 (.hostCopyout d q w.rest))
        | _ => .event 0 (.hostCopyin d q w.rest)

/-- A transfer that reads the row table of an `MROT`: it stays in flight for the stream that follows (R275). -/
def Xfer.readsTable (t : Xfer) : Bool :=
  match t.origin with
  | .rotTable _ _ => true
  | _ => false

/-- Everything of a transfer has landed or failed, or it was refused: its lock is released and whoever issued it is told (R130, R202,
R276). -/
def Act.xferEnd (p : Loc) (t : Xfer) (refused : Bool) (cause addr : Nat) : Act :=
  .all [
    .polder p fun q => { q with xfers := if t.readsTable && cause == 0 then q.xfers else q.xfers.filter fun x => x.id != t.id },
    (match t.lock with
      | some i => .when (i != 0) (.unlock p fun r => r.id == i)
      | none => .skip),
    (match t.origin with
      | .ring c n =>
        .seq (.complete { p.toPolder with core := c } n (if t.st && !refused then 0 else cause) addr 0) (.wakeCore { p.toPolder with core := c })
      | .rot c n => .rotLanded p c n cause addr
      | .rotTable c n => .tableRead p c n t.got cause addr
      | .listen h => .listenLanded p h cause addr
      | .slice set _ => .when refused (.setRecord p set 0x0D cause addr)
      | .host dev q tag vec => .hostPiece (Loc.device dev) q tag vec t cause
      | .chunk cid => match t.kind with
        | .gather i => .polder p fun q => { q with comms := q.comms.map fun c => if c.cid = cid then { c with chunk := c.chunk.map fun k =>
            { k with parts := k.parts.set i (some t.got), fails := if cause = 0 then k.fails else k.fails ++ [(cause, addr)] } } else c }
        | _ => .polder p fun q => { q with comms := q.comms.map fun c => if c.cid = cid then { c with chunk := c.chunk.map fun k =>
            { k with parts := k.parts.set 0 (some []), fails := if cause = 0 then k.fails else k.fails ++ [(cause, addr)] } } else c }),
    (match t.origin with
      | .chunk cid => .event 0 (.chunkEnd p.toPolder cid)
      | _ => .skip),
    .event 0 (.transferIssue p.toPolder)]

/-! ## Registering a destination (R63, R276, R278, R322) -/

/-- The span that a transfer writes, in polder view. -/
def State.xferSpan (s : State) (p : Loc) (t : Xfer) : Nat × Nat :=
  match t.kind with
  | .window =>
    let l := windowCtx p t.dst
    (0x100000 + l.core * 0x20000 + (s.ctx l).wp.toNat + t.dst % 128, t.len)
  | _ => (polderView { p with core := t.core } t.dst, t.len)

/-- What the destination of a transfer meets (R276). -/
def State.xferFate (s : State) (p : Loc) (t : Xfer) : RegFate :=
  let sp := s.xferSpan p t
  if s.dstHit p sp.1 sp.2 then .refuse sp.1
  else if (t.kind != .window && s.spanInWorkspace p sp.1 sp.2) || s.spanPinned p sp.1 sp.2 then .refuse sp.1
  else if s.wordBarred { p with core := t.core } t.cwa then .refuse t.cwa
  else if s.srcHit p sp.1 sp.2 then .wait
  else if 32 ≤ (s.polder p).locks.length then .wait
  else .go

/-- Change one transfer. -/
def Act.xfer (p : Loc) (id : Nat) (f : Xfer → Xfer) : Act :=
  .polder p fun q => { q with xfers := q.xfers.map fun x => if x.id = id then f x else x }

/-- A transfer that waits to be issued registers its destination, waits on, or is refused; one whose span its matrix entry has registered
starts at once, and one that gathers for a chunk writes no memory (R129, R201, R276). -/
def Act.registerXfer (p : Loc) (t : Xfer) : Act :=
  .read fun s =>
    let start : Act := .xfer p t.id fun x => { x with issued := true }
    let own := match t.kind with
      | .gather _ => true
      | _ => t.lock.isSome
    if own then start
    else match s.xferFate p t with
      | .wait => .skip
      | .refuse a => .xferEnd p t true 8 a
      | .go =>
        let sp := s.xferSpan p t
        let q : Nat × Nat × Bool × Loc := match t.origin with
          | .ring c n => (n, c, false, ((s.entryAt { p.toPolder with core := c } n).elim p.toPolder fun e => e.owner))
          | _ => (0, t.core, true, engineAgent { p with core := t.core })
        .seq (.xfer p t.id fun x => { x with lock := some (s.polder p).lockId, issued := true })
          (.lockSpan p true 1 q.1 q.2.1 q.2.2.1 q.2.2.2 sp.1 sp.2 0)

/-! ## Line reads (R275, R277) -/

/-- Line reads outstanding over all transfers. -/
def PolderState.reading (q : PolderState) : Nat := (q.xfers.map fun x => x.flying.length).sum

/-- Bytes that a `FILL` writes from byte `o` of its destination (R236). -/
def fillBytes (pattern dst o n : Nat) : List Byte := (List.range n).map fun i => (bytesOf 8 pattern).getD ((dst + o + i) % 8) 0#8

/-- Issue the next line of a transfer: up to 64 bytes, within one 64-byte line of the source (R275). -/
def Act.issueLine (p : Loc) (t : Xfer) : Act :=
  let o := t.next
  let base := match t.kind with
    | .fill _ => t.dst
    | _ => t.src
  let n := min (64 - (base + o) % 64) (t.len - o)
  .seq (.xfer p t.id fun x => { x with next := o + n, flying := x.flying ++ [(o, n)] })
    (match t.kind with
      | .fill v => .event 6 (.lineReadReply p.toPolder t.id o ⟨0, 0, fillBytes v t.dst o n⟩)
      | .host => .read fun s => .event 6 (.lineReadReply p.toPolder t.id o ⟨0, 0, s.hostMem.bytes (t.src + o) n⟩)
      | _ => .submit ⟨engineAgent { p with core := t.core }, t.part, t.pasid, (t.src + o) % 2 ^ 64, n, t.sup, .line t.id o, false⟩)

/-- Issue lines, oldest transfer first, as long as fewer than 256 are outstanding (R275). -/
def Act.issueLines (p : Loc) : Nat → Act
  | 0 => .skip
  | n + 1 => .read fun s =>
    if 256 ≤ (s.polder p).reading then .skip
    else match (s.polder p).xfers.find? fun t => t.issued && decide (t.next < t.len) with
      | none => .skip
      | some t => .seq (.issueLine p t) (Act.issueLines p n)

/-! ## TRANSFER_ISSUE (R275) -/

/-- Take a transfer into the engine. -/
def Act.takeXfer (p : Loc) (t : Xfer) : Act :=
  .read fun s =>
    let id := (s.polder p).xferId
    .seq (.polder p fun q => { q with xferId := id + 1, xfers := q.xfers ++ [{ t with id := id }] }) (.registerXfer p { t with id := id })

/-- The bulk pulls of a core that are in flight (R10). -/
def PolderState.pullsOf (q : PolderState) (n : Nat) : Nat :=
  (q.xfers.filter fun t => match t.origin with
    | .ring c _ => c == n
    | .rot c _ => c == n
    | .rotTable c _ => c == n
    | _ => false).length

/-- The next of the ten sources that has a transfer: the cores' rings, the slice core, the internal queue; a core has at most 16 in flight
(R10, R275). -/
def State.xferPick (s : State) (p : Loc) : Option Nat :=
  let q := s.polder p
  (List.range 10).findSome? fun i =>
    let n := (q.xferTurn + i) % 10
    let ready := if n < 8 then (s.unitHead { p.toPolder with core := n } .copy).isSome && decide (q.pullsOf n < 16)
      else if n = 8 then !q.sliceQ.isEmpty else !q.internalQ.isEmpty
    if ready then some n else none

/-- The step that an `eq2` command is, by its code (R236). -/
def eq2Event (op : Nat) (c : Loc) (seq : Nat) : Option Event :=
  match op with
  | 1 => some (.eq2Pull c seq)
  | 2 => some (.pullw c seq)
  | 3 => some (.fill c seq)
  | 4 => some (.gcopy c seq)
  | _ => none

/-- A pointer or record that R238 refuses: the entry ends with 0x01, or with 0x11 where its copy met an error. -/
def Act.takeEntry (p c : Loc) (e : RingEntry) : Act :=
  .seq (.entry c e.seq.toNat fun x => { x with phase := .accepted })
    (match e.op with
      | .pull src dst desc => .takeXfer p (e.xfer .copy src dst (bits desc 19 0 + 1) desc)
      | .eq2 ptr _ =>
        let bad := pointerCause (fun op => 1 ≤ op && op ≤ 4) 32 ptr e.bad
        if bad ≠ 0 then .complete c e.seq.toNat bad 0 0
        else match eq2Event (bits ptr 63 56) c e.seq.toNat with
          | some v => .event 0 v
          | none => .skip
      | _ => .skip)

/-- Take the next transfer, one source in turn (R275). -/
def Act.takeNext (p : Loc) : Act :=
  .read fun s =>
    let q := s.polder p
    match s.xferPick p with
    | none => .skip
    | some n =>
      if 64 ≤ q.xfers.length then .skip
      else .all [
        .polder p fun x => { x with xferTurn := (n + 1) % 10 },
        (if n < 8 then
          let c : Loc := { p.toPolder with core := n }
          match s.unitHead c .copy with
          | some e => .takeEntry p c e
          | none => .skip
        else if n = 8 then
          match q.sliceQ with
          | t :: ts => .seq (.polder p fun x => { x with sliceQ := ts }) (.takeXfer p t)
          | [] => .skip
        else match q.internalQ with
          | t :: ts => .seq (.polder p fun x => { x with internalQ := ts }) (.takeXfer p t)
          | [] => .skip),
        .event 1 (.transferIssue p.toPolder)]

/-- `TRANSFER_ISSUE`: waiting transfers try to register, one more is taken, and lines are read (R275, R276). -/
def execTransferIssue (s : State) : Host.Outcome State Fault Refusal :=
  match s.cur with
  | .transferIssue p =>
    done (.all [
      .each ((s.polder p).xfers.filter fun t => !t.issued) (.registerXfer p),
      .takeNext p,
      .issueLines p 256]) s
  | _ => .next s

/-! ## The commands of `eq2` (R236, R238) -/

/-- An `eq2` command is checked at acceptance; a refused one ends with its cause, and another becomes a transfer. -/
def Act.eq2Command (c : Loc) (seq op : Nat) : Act :=
  .read fun s =>
    match s.entryAt c seq with
    | some e =>
      (match e.op with
      | .eq2 _ rec =>
        let q := s.eq2Cause e.owner e.part e.pasid e.sup op rec
        let sources := if op = 4 ∧ numAt rec 24 8 = 0 ∧ q.1 ≠ 1 ∧ q.1 ≠ 3 ∧ q.1 ≠ 7 then pagesOf (numAt rec 0 8) (32 * (bits (numAt rec 16 8) 19 0 + 1)) else []
        .seq (.each sources fun a => .walkNow e.owner e.part e.pasid (a % 2 ^ 64)) <|
        if q.1 ≠ 0 then .complete c seq q.1 q.2 0
        else
          let x := eq2Parts op rec
          .seq (.takeXfer c.toPolder (e.xfer x.1 x.2.1 x.2.2.1 x.2.2.2 (numAt rec 16 8))) (.event 0 (.transferIssue c.toPolder))
      | _ => .skip)
    | none => .skip

/-- `EQ2_PULL` (R236). -/
def execEq2Pull (s : State) : Host.Outcome State Fault Refusal :=
  match s.cur with
  | .eq2Pull c seq => done (.eq2Command c seq 1) s
  | _ => .next s
/-- `PULLW` (R236). -/
def execPullw (s : State) : Host.Outcome State Fault Refusal :=
  match s.cur with
  | .pullw c seq => done (.eq2Command c seq 2) s
  | _ => .next s
/-- `FILL` (R236). -/
def execFill (s : State) : Host.Outcome State Fault Refusal :=
  match s.cur with
  | .fill c seq => done (.eq2Command c seq 3) s
  | _ => .next s
/-- `GCOPY` (R236). -/
def execGcopy (s : State) : Host.Outcome State Fault Refusal :=
  match s.cur with
  | .gcopy c seq => done (.eq2Command c seq 4) s
  | _ => .next s

/-! ## Landing (R64, R130, R277) -/

/-- The bit of a completion word that a cause sets (R130). -/
def statusBit (cause : Nat) : Nat :=
  if cause = 0x11 then 59 else if cause = 4 ∨ cause = 5 then 58 else if cause = 6 then 57 else if cause = 9 then 56
  else if cause = 8 then 62 else 61

/-- A completion word after `n` bytes have landed or failed: `pend` never passes below zero (R130). -/
def pendAfter (w n cause : Nat) : Nat :=
  let p := bits w 55 0
  let v := if p < n then Nat.lor w (2 ^ 63) - p else w - n
  if cause = 0 then v else Nat.lor v (2 ^ statusBit cause)

/-- Subtract from a completion word, with release at polder scope (R130, R277). -/
def Act.subPend (l : Loc) (cwa n cause : Nat) : Act :=
  .when (cwa != 0) (.read fun s => .write64 l cwa (pendAfter (s.home64 l cwa) n cause))

/-- Write bytes that an engine lands at a home address; lines of HBM and the second tier enter the slice (R18, R72). -/
def Act.landHome (l : Loc) (a cls : Nat) (bs : List Byte) : Act :=
  .seq (.putHome l a bs) (.read fun s =>
    match homePlace l a with
    | some p => if p.space < 2 then (match s.keyOf p with
        | some k => .storeLine l (k / 64) cls
        | none => .skip) else .skip
    | none => .skip)

/-- Write one word through the workspace window: held while the context is RUNNING, else in memory at once (R64). -/
def Act.landWindow (p : Loc) (off v : Nat) : Act :=
  .read fun s =>
    let l := windowCtx p off
    if (s.ctx l).state = 2#3 then .ctx l fun c => { c with window := c.window ++ [(off % 128 / 8, w64 v)] }
    else .writeWord l (off % 128 / 8) v

/-- The sidecar bytes of the rows of a line: those that came with it, or one byte a row at the command's address; the first cause, if
one cannot be read (R236). -/
def State.lineSides (s : State) (p : Loc) (t : Xfer) (side o n : Nat) (data : List Byte) : List (Except Nat Byte) :=
  (List.range (n / 32)).map fun i =>
    if side = 0 then (match data[n + i]? with
      | some b => .ok b
      | none => .error 1)
    else match s.readNow ⟨engineAgent { p with core := t.core }, t.part, t.pasid, (side + o / 32 + i) % 2 ^ 64, 1, t.sup, .line t.id o, false⟩ with
      | .ok bs => .ok (bs.getD 0 0#8)
      | .error c => .error c

/-- Land one row of granules and its sidecar byte together (R11, R236). -/
def Act.landRow (l : Loc) (a : Nat) (bs : List Byte) (side : Byte) : Act :=
  .seq (.writeHome l a bs) (.read fun s =>
    match s.homeKey l a with
    | some k => .fx (.sideByte (k / 32) side)
    | none => .skip)

/-- The bytes of a line would land in a workspace that came there after the destination was registered (R63). -/
def State.landBarred (s : State) (p : Loc) (t : Xfer) (o n : Nat) : Bool :=
  let at' (a m : Nat) : Bool := s.homeBarred { p with core := t.core } a m
  match t.kind with
  | .window => false
  | .gather _ => false
  | .rotated pb _ => (flipPieces pb (t.dst + o) n).any fun q => at' q.1 q.2
  | _ => at' (t.dst + o) n

/-- Land the bytes of a line: the cause with which part of it fails, 0 if none. -/
def State.landCause (s : State) (p : Loc) (t : Xfer) (o n : Nat) (ans : Answer) : Nat :=
  if ans.cause ≠ 0 then ans.cause
  else if s.landBarred p t o n then 8
  else match t.kind with
    | .granule side => ((s.lineSides p t side o n ans.data).findSome? fun x => match x with
        | .error c => some c
        | .ok _ => none).getD 0
    | _ => 0

/-- Write what a line brings; a line lands whole or not at all (R130, R289). -/
def Act.landLine (p : Loc) (t : Xfer) (o n : Nat) (ans : Answer) : Act :=
  .read fun s =>
    let l := engineAgent { p with core := t.core }
    if s.landCause p t o n ans ≠ 0 then .skip
    else match t.kind with
      | .window => .each (List.range (n / 8)) fun i => .landWindow p (t.dst + o + 8 * i) (numAt ans.data (8 * i) 8)
      | .granule side => .each ((List.range (n / 32)).zip (s.lineSides p t side o n ans.data)) fun q => match q.2 with
          | .ok b => .landRow l (t.dst + o + 32 * q.1) (sliceBytes ans.data (32 * q.1) 32) b
          | .error _ => .skip
      | .rotated pb gran => .each (xorPieces pb (t.dst + o) 3 n) fun q =>
          let bs := sliceBytes ans.data (q.1 - (t.dst + o)) q.2
          let a := Nat.xor q.1 (2 ^ pb)
          if gran then .each (List.range (q.2 / 32)) fun i =>
              .landRow l (a + 32 * i) (sliceBytes bs (32 * i) 32) (ans.data.getD (n + (q.1 - (t.dst + o)) / 32 + i) 0#8)
          else .landHome l a t.cls bs
      | .gather _ => .xfer p t.id fun x => { x with got := sliceBytes x.got 0 o ++ sliceBytes ans.data 0 n ++ x.got.drop (o + n) }
      | _ => .landHome l (t.dst + o) t.cls (sliceBytes ans.data 0 n)

/-- Subtract from the completion word of a transfer; one in a workspace is not written, and the command ends with 0x08 (R63, R130). -/
def Act.lowerPend (p : Loc) (t : Xfer) (n cause : Nat) : Act :=
  .read fun s =>
    let l := engineAgent { p with core := t.core }
    if s.wordBarred l t.cwa then .xfer p t.id fun x => if x.cause = 0 ∨ x.st then { x with st := false, cause := 8, addr := t.cwa } else x
    else .subPend l t.cwa n (if t.st then cause else 0)

/-- The places that a line of a transfer writes: the ends of its bytes and its completion word (R130). -/
def landPlaces (p : Loc) (t : Xfer) (o n : Nat) : List Place :=
  let at' (a : Nat) : List Place := (homePlace { p with core := t.core } a).toList
  (match t.kind with
    | .window => []
    | .gather _ => []
    | .rotated _ _ => []
    | _ => at' (t.dst + o) ++ at' (t.dst + o + n - 1)) ++ (if t.cwa = 0 then [] else at' t.cwa)

/-- A line of a transfer has been answered: its bytes land or fail, `pend` is lowered, and the last one ends the transfer (R130, R277). A line that would
write a fresh granule waits until it is zero (R324). One that a workspace refuses ends the command with 0x08 whatever its `st` (R63). -/
def Act.lineLanded (p : Loc) (t : Xfer) (o n : Nat) (ans : Answer) : Act :=
  .read fun s =>
    let wait := ((landPlaces p t o n).map s.freshWait).foldl max 0
    if (landPlaces p t o n).any s.unsettled then .seq (.each (landPlaces p t o n) .startZeroing) (.event wait (.lineReadReply p t.id o ans)) else
    let cause := s.landCause p t o n ans
    let sub := match t.kind with
      | .granule _ => n + n / 32
      | .gather _ => 0
      | _ => n
    let barred := ans.cause == 0 && s.landBarred p t o n
    let keep := t.cause ≠ 0 ∧ !(barred && t.st)
    let first := if keep then t.cause else cause
    let addr := if keep then t.addr else if barred then t.dst + o else ans.addr
    .all [
      (match t.kind with
        | .granule side => .when (side != 0 && ans.cause == 0) (.walkNow (engineAgent { p with core := t.core }) t.part t.pasid ((side + o / 32) % 2 ^ 64))
        | _ => .skip),
      .when (cause == 0x11 && ans.cause == 0) (.count p 0x358),
      .landLine p t o n ans,
      (match t.origin with
        | .ring n q => .noteDry { p.toPolder with core := n } q cause
        | .rot n q => .noteDry { p.toPolder with core := n } q cause
        | .rotTable n q => .noteDry { p.toPolder with core := n } q cause
        | _ => .skip),
      .xfer p t.id (fun x => { x with flying := x.flying.filter (fun f => f.1 != o), cause := first, addr := addr, st := x.st && !barred }),
      .lowerPend p { t with st := t.st && !barred } sub cause,
      .read (fun x => match (x.polder p).xfers.find? fun y => y.id == t.id with
        | some y => if y.len ≤ y.next ∧ y.flying.isEmpty then .xferEnd p y false y.cause y.addr else .issueLines p 256
        | none => .skip)]

/-- `LINE_READ_REPLY`: of a transfer, or of the stream that a `VDEC` reads (R185, R277). -/
def Act.lineReply (p : Loc) (id o : Nat) (ans : Answer) : Act :=
  .read fun s =>
    match (s.polder p).xfers.find? fun t => t.id == id with
    | some t => (match t.flying.find? fun f => f.1 == o with
      | some f => .lineLanded p t o f.2 ans
      | none => .skip)
    | none =>
      Act.each (List.range 8) fun n =>
        let c : Loc := { p.toPolder with core := n }
        match (s.core c).ring.find? fun e => e.rid == id && e.rid != 0 with
        | some e => .vdecLine c e ans
        | none => .skip

/-- `LINE_READ_REPLY` (R277). -/
def execLineReadReply (s : State) : Host.Outcome State Fault Refusal :=
  match s.cur with
  | .lineReadReply p id o ans => done (.lineReply p id o ans) s
  | _ => .next s

end Sys2Proof.Machine
end

