-- ==== Sys2Proof/Machine/Migration.lean ====
section
/-! DEFINITION. Threads that move: migration packets and their admission (spec/20 R403, R404), relocation (spec/09 R233, spec/16 R344),
move notices and releases (spec/16 R345). -/

namespace Sys2Proof.Machine

/-! ## Holders (R345) -/

/-- Messages that waited in a forwarding entry go on to the thread's place; one that has been forwarded before is refused (R345). -/
def Act.sendWaiting (l : Loc) (place : Loc) (ms : List Message) : Act :=
  Act.each ms fun m => if m.fwd.isSome then .refuse l.toCore m 2 else .forward l.toCore place m

/-- The thread that left `l` is at a new place: this core's entry becomes live, and every other holder is sent the place (R345). -/
def Act.arrived (l new : Loc) (part : Nat) (holders : List Loc) : Act :=
  .read fun s =>
    let f := (s.core l).forwardOf l
    .all [
      .forwardEntry l f fun x => { x with place := new, live := true, moved := false, waiting := [] },
      (match f with
        | some x => .sendWaiting l new x.waiting
        | none => .skip),
      .each (holders.filter fun h => h != l) fun h =>
        .seq (.asResident h part (.read fun t => .forwardEntry h ((t.core h).entryVia h l) fun x => { x with moved := true }))
          (.tellHolder l h (.moveNoticeArrival h part l new)),
      .offerWork l]

/-- `MOVE_NOTICE_ARRIVAL`: a holder learns the thread's new place and sends on what waited for it (R345). -/
def Act.moveNotice (h : Loc) (part : Nat) (old new : Loc) : Act :=
  .asResident h part <| .read fun s =>
    match (s.core h).entryVia h old with
    | none => .skip
    | some f => .all [
        .forwardEntry h (some f) fun x => { x with place := new, moved := false, waiting := [] },
        .sendWaiting h new f.waiting,
        .offerWork h]

/-- `MOVE_NOTICE_ARRIVAL` (R345). -/
def execMoveNoticeArrival (s : State) : Host.Outcome State Fault Refusal :=
  match s.cur with
  | .moveNoticeArrival h part old new => done (.moveNotice h part old new) s
  | _ => .next s

/-- `THREAD_RELEASE_ARRIVAL`: the holder frees its entry, counted where it gives way to another; the origin first performs the thread's duties
(R345, R401, R404). -/
def Act.threadReleased (h : Loc) (r : Release) : Act :=
  .asResident h r.part <| .read fun s =>
    match (s.core h).entryVia h r.thread with
    | none => .skip
    | some f =>
      let st := boolNat r.flt + 2 * boolNat (r.dry || f.duties.dry) + 4 * boolNat (r.abort || (r.flt && f.duties.abort))
        + 8 * boolNat (r.inl || bit f.tree.toNat 6)
      .all [.when r.replaced (.count h 0x3B8), .freeForward h.toCore f, .when f.origin (.performDuties h f.duties f.tree.toNat st)]

/-- `THREAD_RELEASE_ARRIVAL` (R404). -/
def execThreadReleaseArrival (s : State) : Host.Outcome State Fault Refusal :=
  match s.cur with
  | .threadReleaseArrival h r => done (.threadReleased h r) s
  | _ => .next s

/-! ## Admission (R404) -/

/-- `MIGRATION_PACKET_ARRIVAL`: a packet that can never be admitted is refused for good, one that finds the buffer full is sent back,
and another waits in the buffer for a context (R404). A dry polder refuses it for good. -/
def Act.migrationArrives (p : Loc) (m : MigPkt) : Act :=
  .read fun s =>
    let q := s.polder p
    let no (code : Nat) : Act := .event (8 + s.way p m.source) (.migrationAdmissionReply m.source.toCore m code p.toPolder)
    if s.isDry m.source p then no 4
    else if q.part ≠ some m.part then no 3
    else if bits (q.limits.getD 8 0#64).toNat 6 0 = 0 then no 6
    else if 8 ≤ q.migBuf.length then no 5
    else .seq (.polder p fun x => { x with migBuf := x.migBuf ++ [m] })
      (.each (List.range 8) fun c => .offerWork { p.toPolder with core := c })

/-- `MIGRATION_PACKET_ARRIVAL` (R404). -/
def execMigrationPacketArrival (s : State) : Host.Outcome State Fault Refusal :=
  match s.cur with
  | .migrationPacketArrival p m => done (.migrationArrives p m) s
  | _ => .next s

/-- A thread that no polder will take comes back HALTED: its words and its place are as they were, messages that waited are spilled, and
a record of 0x0C goes to the host queue (R404). -/
def Act.migrationRefused (l : Loc) (m : MigPkt) : Act :=
  .read fun s =>
    let f := (s.core l).forwardOf l
    .all [
      .core l fun k => { k with forwards := k.forwards.filter fun x => f != some x },
      .each ((List.range 16).zip m.words) fun w => .writeWord l w.1 w.2.toNat,
      .ctx l fun c => { c with state := 4#3, pc := w64 m.resume, reserved := none, guest := !c.holders.isEmpty, block := none },
      .hostRec l m.part (s.coreRec l 0x0C 0 0 0 0),
      (match f with
        | some x => .each x.waiting fun w => .read fun y => .spillMessage l (y.ctx l) w
        | none => .skip),
      .offerWork l]

/-- `MIGRATION_ADMISSION_REPLY`: accepted, the context is free and its entry live; busy, the packet is sent again after 1,024 cycles;
otherwise the thread is back (R404). The words of a thread that comes back have no place while its partition is absent: the answer waits for the
partition's return (notes/assumptions 149). -/
def Act.migrationAnswered (m : MigPkt) (code : Nat) (dest : Loc) : Act :=
  let l := m.source
  if code = 0 then .asResident l m.part (.seq
    (.ctx l fun c => { c with reserved := none, duties := Duties.none, holders := [] })
    (.arrived l dest m.part m.holders))
  else if code = 5 then .event 1024 (.migrationResend dest.toPolder m)
  else .read fun s =>
    if (s.polder l).part = some m.part then .migrationRefused l m
    else .when (s.partDefined l m.part) (.event 1 (.migrationAdmissionReply l.toCore m code dest))

/-- `MIGRATION_ADMISSION_REPLY` (R404). -/
def execMigrationAdmissionReply (s : State) : Host.Outcome State Fault Refusal :=
  match s.cur with
  | .migrationAdmissionReply _ m code dest => done (.migrationAnswered m code dest) s
  | _ => .next s

/-- `MIGRATION_RESEND` (R404). -/
def execMigrationResend (s : State) : Host.Outcome State Fault Refusal :=
  match s.cur with
  | .migrationResend p m => done (.event (8 + s.way m.source p) (.migrationPacketArrival p m)) s
  | _ => .next s

/-! ## RELOC (R233, R344) -/

/-- The reply code of a relocation that cannot be made; 0 if it can (R233). -/
def State.relocCode (s : State) (j : RelocJob) : Nat :=
  let d := s.tidLoc j.issuer.dev j.dest
  let f := (s.core j.source).forwards
  if (s.ctx d).state ≠ 0#3 ∨ (s.ctx d).reserved.isSome then 1
  else if (s.ctx j.source).state ≠ 4#3 then 2
  else if (s.polder d).part ≠ (s.polder j.source).part ∨ s.isDry j.source d then 3
  else if forwardLimit ≤ (f.filter fun x => x.old != j.source || x.origin).length then 4
  else 0

/-- The operations that the overflow of a context's polder holds for it (R347). -/
def State.beyond (s : State) (l : Loc) : List HeldOp :=
  (s.polder l).overflow.filter fun h => h.sat.reg.issuer == l && h.sat.reg.part == s.partOf l

/-- The state that a relocation carries; the held satisfactions are those of the pending area and of the overflow (R344). -/
def State.relocState (s : State) (l : Loc) (holders : List Loc) : RelocState :=
  let c := s.ctx l
  { pkt := ⟨l, c.prio.toNat % 4, c.steal.toNat, c.pc.toNat, c.pasid.toNat, s.partOf l, holders, (List.range 16).map fun i => w64 (s.wword l i)⟩
    pol := c.pol, fm := c.fm, step := c.step, trapvec := c.trapvec, trapframe := c.trapframe, home := c.home, spill := c.spill, tree := c.tree,
    ringed := ((s.core l).ringed.filter fun g => g.1 == l.ctx).map fun g => g.2
    sup := c.sup, haltCause := c.haltCause, faultQ := c.faultQ, faultLost := c.faultLost, rowQ := c.rowQ, late := c.late,
    surplus := c.surplus, held := c.held ++ s.beyond l }

/-- The state leaves the source: a forwarding entry that keeps the duties, parked slots, and a DORMANT context (R197, R233, R345). -/
def Act.relocDepart (j : RelocJob) : Act :=
  .read fun s =>
    let l := j.source
    let d := s.tidLoc j.issuer.dev j.dest
    let c := s.ctx l
    let h := addHolder c.holders l
    let st := s.relocState l h.1
    .all [
      .core l (fun k => { k with
        forwards := (k.forwards.filter fun f => f.old != l || f.origin) ++ [{ newForward c l with place := d, moved := true, byReloc := true }]
        ringed := k.ringed.filter fun g => g.1 != l.ctx }),
      .leaveSlots l false,
      .ctx l (fun x => { x with
        state := 0#3, guest := false, sup := false, holders := [], faultQ := [], faultLost := false, rowQ := [], late := [], surplus := 0,
        held := [], duties := Duties.none, stopReq := false, haltCause := 0, bySwap := false, wasSusp := false }),
      .polder l (fun q => { q with overflow := q.overflow.filter fun x => !(s.beyond l).contains x }),
      .ctx d (fun x => { x with reserved := some .reloc }),
      (match h.2 with
        | some x => .tellHolder l x (.threadReleaseArrival x ⟨l, s.partOf l, false, false, false, false, true⟩)
        | none => .skip),
      .event (8 + s.way l d) (.relocArrival j st)]

/-- `RELOC_TRANSFER`: it waits until the source's ring entries have retired, then answers with a code or sends the state (R233). -/
def Act.relocTransfer (j : RelocJob) : Act :=
  .read fun s =>
    let c := s.ctx j.source
    let back (code : Nat) : Act := match homePlace j.issuer j.reply with
      | some p => .writeReply p code
      | none => .skip
    if c.dseq ≠ c.rseq then .event 1 (.relocTransfer j)
    else if s.relocCode j ≠ 0 then back (s.relocCode j)
    else .relocDepart j

/-- `RELOC_TRANSFER` (R233). -/
def execRelocTransfer (s : State) : Host.Outcome State Fault Refusal :=
  match s.cur with
  | .relocTransfer j => done (.relocTransfer j) s
  | _ => .next s

/-- A registration of a thread that has moved: its satisfaction goes to the thread's new place; a listen stays with the pull engine that serves it
(R344; notes/assumptions 140). -/
def WatchEntry.rehome (src d : Loc) (part : Nat) (w : WatchEntry) : WatchEntry :=
  if w.reg.issuer = src ∧ w.reg.part = part ∧ w.reg.kind ≠ .hostWait ∧ w.reg.words.length < 20
      ∧ (w.reg.kind ≠ .listen ∨ src.toPolder = d.toPolder) then
    { w with reg := { w.reg with issuer := d } } else w

/-- The armed operations of a thread move with it (R344; notes/assumptions 140). -/
def Act.rehome (src d : Loc) (part : Nat) : Act :=
  .read fun s => .each (s.polders.filter fun x => (x.2.watches ++ x.2.saves.flatMap fun v => v.watches).any fun w => w.rehome src d part != w)
    fun x => .polder x.1 fun q => { q with
      watches := q.watches.map (·.rehome src d part)
      saves := q.saves.map fun v => { v with watches := v.watches.map (·.rehome src d part) } }

/-- `RELOC_ARRIVAL`: the destination context holds the state and is HALTED, its words at its own `wp`; holders are told, and the reply
says that the thread has moved (R233, R344, R345). Its `cw.steal` is the widest scope from then on (notes/assumptions 120). -/
def Act.relocArrives (j : RelocJob) (r : RelocState) : Act :=
  .withEpoch fun thr => .read fun s =>
    let d := s.tidLoc j.issuer.dev j.dest
    .all [
      (match (s.core d).forwardOf d with
        | some f => .when (!f.origin) (.seq (.count d 0x3B8) (.freeForward d.toCore f))
        | none => .skip),
      .ctx d (fun c => { c with
        state := 4#3, pc := w64 r.pkt.resume, pol := r.pol, fm := r.fm, step := r.step, steal := BitVec.ofNat 2 r.pkt.steal,
        stealMax := BitVec.ofNat 2 r.pkt.steal, prio := w64 r.pkt.prio, trapvec := r.trapvec, trapframe := r.trapframe,
        pasid := BitVec.ofNat 20 r.pkt.pasid, home := r.home, spill := r.spill, tree := r.tree, sup := r.sup, guest := false,
        haltCause := r.haltCause, faultQ := r.faultQ, faultLost := r.faultLost, rowQ := r.rowQ, late := r.late, surplus := r.surplus,
        held := [], holders := r.pkt.holders,
        duties := Duties.none, reserved := none, block := none, window := [], stopReq := false, stale := [], unacquired := [], unreleased := [], resumed := false,
        thread := thr, rseq := c.dseq }),
      .each ((List.range 16).zip r.pkt.words) fun w => .writeWord d w.1 w.2.toNat,
      .core d (fun k => { k with ringed := (k.ringed.filter fun g => g.1 != d.ctx) ++ r.ringed.map fun g => (d.ctx, g) }),
      .each r.held (fun h => .hold { h.sat with reg := { h.sat.reg with issuer := d } }),
      .rehome j.source d r.pkt.part,
      .asResident j.source r.pkt.part (.arrived j.source d r.pkt.part r.pkt.holders),
      (match homePlace j.issuer j.reply with
        | some p => .writeReply p 0
        | none => .skip)]

/-- `RELOC_ARRIVAL` (R344). -/
def execRelocArrival (s : State) : Host.Outcome State Fault Refusal :=
  match s.cur with
  | .relocArrival j r => done (.relocArrives j r) s
  | _ => .next s

end Sys2Proof.Machine
end

