-- ==== Sys2Proof/Machine/Collective.lean ====
section
/-! DEFINITION. The collective engine of a polder (spec/22 R422-R439, spec/09 R237): communicators, commands, their steps and chunks, pull
trees, arbitration, gauges, signatures and absent members. -/

namespace Sys2Proof.Machine

/-! ## Elements and steps (R425, R426, R430, R434) -/

/-- The types that a collective admits (R237). -/
def collTypes : List Nat := [0x10, 0x11, 0x12, 0x13, 0x14, 0x15, 3, 4, 7, 8]

/-- Bytes of an element. -/
def collWidth (ty : Nat) : Nat := tyWidth ty / 8

/-- Bytes of a piece (R425). -/
def pieceBytes : Nat := 16384

/-- Pieces of a block of `count` elements (R425). -/
def collPieces (ty count : Nat) : Nat := ceilDiv (count * collWidth ty) pieceBytes

/-- Steps of a command among `m` members (R426). -/
def collSteps (op m ty count : Nat) : Nat :=
  let b := collPieces ty count
  match op with
  | 1 => 2 * b
  | 2 => m * b
  | 3 => m * b
  | 4 => b
  | 5 => 1
  | 6 => 2
  | _ => b

/-- Kinds of steps (R426, R429, R431). -/
inductive StepKind where
  | reduce | bcast | barrier | counts | payload
  deriving DecidableEq, Repr, Inhabited

/-- A step: its kind and root, byte offsets into source and destination, its length, and whether the root's `dst` already holds the
result (R426). -/
structure CollStep where
  kind : StepKind
  root : Nat
  src : Nat
  dst : Nat
  len : Nat
  keep : Bool
  deriving DecidableEq, Repr, Inhabited

/-- Step number `n` of a communicator, within a command among `m` members (R426). -/
def CollCmd.step (c : CollCmd) (m n : Nat) : CollStep :=
  let j := n - c.first
  let total := c.count * collWidth c.ty
  let b := max 1 (collPieces c.ty c.count)
  let size (i : Nat) : Nat := min pieceBytes (total - pieceBytes * i)
  match c.op with
  | 1 =>
    let i := j / 2
    ⟨if j % 2 = 0 then .reduce else .bcast, i % max 1 m, pieceBytes * i, pieceBytes * i, size i, true⟩
  | 2 => ⟨.reduce, j / b, j / b * total + pieceBytes * (j % b), pieceBytes * (j % b), size (j % b), false⟩
  | 3 => ⟨.bcast, j / b, pieceBytes * (j % b), j / b * total + pieceBytes * (j % b), size (j % b), false⟩
  | 4 => ⟨.bcast, c.root, pieceBytes * j, pieceBytes * j, size j, false⟩
  | 5 => ⟨.barrier, 0, 0, 0, 0, false⟩
  | 6 => ⟨if j = 0 then .counts else .payload, 0, 0, 0, 0, false⟩
  | _ => ⟨.reduce, c.root, pieceBytes * j, pieceBytes * j, size j, false⟩

/-- The signature of a command (R434). -/
def CollCmd.sig (c : CollCmd) : Nat :=
  let x := (List.range 8).foldl (fun a i => Nat.xor a (bits c.count (5 * i + 4) (5 * i))) 0
  field c.op 3 13 + field c.ty 6 7 + field c.rop 2 5 + x

/-- The bytes that a command lands at a member with a rank; those of an all-to-all-v are not known at acceptance (R426, R431). -/
def CollCmd.landing (c : CollCmd) (m rank : Nat) : Nat :=
  let total := c.count * collWidth c.ty
  match c.op with
  | 3 => m * total
  | 5 => 0
  | 6 => 0
  | 7 => if rank = c.root then total else 0
  | _ => total

/-! ## Reduction (R156, R430) -/

/-- The carried form of an element: `f32` for the narrower formats (R430). -/
def collEnter (ty x : Nat) : Nat := if ty = 0x10 ∨ (tyFmt ty).isNone then x else (narrowTy 0x11 0 (decodeTy ty x)).1

/-- One addition, maximum or minimum of carried values (R430). -/
def collCombine (ty rop a b : Nat) : Nat :=
  match tyFmt ty, tyInt ty with
  | some F, _ =>
    let G := if F = .f64 then Fmt.f64 else Fmt.f32
    (fop G 0 (if rop = 0 then .add else if rop = 1 then .max else .min) a b).1
  | none, some (w, sg) =>
    let v (x : Nat) : Int := if sg then signedOf w x else ((x % 2 ^ w : Nat) : Int)
    if rop = 0 then (a + b) % 2 ^ w
    else if rop = 1 then (if v a < v b then b else a)
    else if v b < v a then b else a
  | none, none => 0

/-- The root's final narrowing (R430). -/
def collLeave (ty x : Nat) : Nat := if ty = 0x10 ∨ (tyFmt ty).isNone then x else (narrowTy ty 0 (decodeTy 0x11 x)).1

/-- Bytes of a carried element: 4 for the formats carried as `f32`. -/
def carryWidth (ty : Nat) : Nat := if ty = 0x10 ∨ (tyFmt ty).isNone then collWidth ty else 4

/-- Elements of `w` bytes in a list of bytes. -/
def elements (w n : Nat) (bs : List Byte) : List Nat := (List.range n).map fun i => numAt bs (w * i) w

/-- The partial result of a node: its own input, then each child's in ascending position (R430). A source is given as elements of the
type, a staging buffer in carried form. -/
def collPartial (ty rop n : Nat) (parts : List (Bool × List Byte)) : List Nat :=
  let vals := parts.map fun q => if q.1 then elements (carryWidth ty) n q.2 else (elements (collWidth ty) n q.2).map (collEnter ty)
  match vals with
  | [] => []
  | v :: vs => vs.foldl (fun acc x => (acc.zip x).map fun q => collCombine ty rop q.1 q.2) v

/-! ## Pull trees (R429) -/

/-- Position of a rank for a root among `m` members. -/
def treePos (m root rank : Nat) : Nat := (rank + m - root) % max 1 m
/-- Rank at a position. -/
def treeRank (m root pos : Nat) : Nat := (pos + root) % max 1 m
/-- Ranks of a position's children, in ascending position. -/
def treeKids (m root pos : Nat) : List Nat :=
  ((List.range 4).map fun i => 4 * pos + 1 + i).filterMap fun q => if q < m then some (treeRank m root q) else none
/-- Rank of a position's parent. -/
def treeParent (m root pos : Nat) : Nat := treeRank m root ((pos - 1) / 4)

/-- The position of this member in a step. -/
def Comm.pos (c : Comm) (root : Nat) : Nat := treePos c.size root c.rank
/-- What a peer last showed. -/
def Comm.peer (c : Comm) (rank : Nat) : Peer := (c.peers.find? fun x => x.rank == rank).getD ⟨rank, 0, 0, 0, 0, false⟩
/-- The command that a step number belongs to. -/
def Comm.cmdAt (c : Comm) (n : Nat) : Option CollCmd := c.cmds.find? fun x => decide (x.first ≤ n) && decide (n ≤ x.last)
/-- A communicator is active while an accepted command of it has not completed (R423). -/
def Comm.active (c : Comm) : Bool := c.cmds.any fun x => decide (c.dgAll < x.last)

/-- Change an active communicator of a polder. -/
def Act.comm (p : Loc) (cid : Nat) (f : Comm → Comm) : Act :=
  .polder p fun q => { q with comms := q.comms.map fun c => if c.cid = cid then f c else c }

/-! ## Acceptance (R422, R423, R426, R427) -/

/-- The fate of a collective command at the head of its ring. -/
inductive CollFate where
  | refuse (cause addr : Nat)
  | wait
  | go (comm : Comm) (cmd : CollCmd)
  deriving DecidableEq, Repr, Inhabited

/-- The communicator of a command: the copy that the engine holds while it is active, else the record as it stands now, with both gauges at zero; `base`
counts the steps of its earlier activations (R423, R425; notes/assumptions 77). -/
def State.commFor (s : State) (p l : Loc) (a : Nat) : Option Comm :=
  match (s.polder p).comms.find? fun c => c.record == polderView l a && c.active with
  | some c => some c
  | none =>
    if a % 64 ≠ 0 ∨ !coreOrHbm a 64 then none
    else (s.readComm l a).map fun n => match s.commAt p n.cid with
      | some c => if c.active then c else
          { n with base := c.dgAll, staging := c.staging, readers := c.readers, shown := c.shown, pairs := c.pairs, cmds := c.cmds,
                   peers := c.peers, pass := c.pass, stopped := n.stopped || c.stopped }
      | none => { n with peers := s.firstPeers p n }

/-- The fields of an `eq3` record that R237 and R426 refuse. -/
def collFieldsBad (op m : Nat) (w : Nat → Nat) : Bool :=
  let ty := bits (w 3) 63 58
  let rop := bits (w 3) 57 56
  let count := bits (w 3) 39 0
  bits (w 0) 63 40 + bits (w 1) 63 57 + bits (w 2) 63 40 + bits (w 3) 55 40 + bits (w 4) 63 40 + bits (w 5) 63 16 + w 7 != 0
    || decide (m ≤ bits (w 5) 15 0)
    || (if op = 5 then w 1 + w 2 + w 3 + w 6 != 0
        else !collTypes.contains ty || rop == 3 || (op == 6) != (count == 0) || (op != 6 && w 6 != 0))

/-- What becomes of a collective command that stands at the head of its ring (R238, R276, R423, R426). -/
def State.collFate (s : State) (p : Loc) (e : RingEntry) : CollFate :=
  match e.op with
  | .eq3 ptr rec =>
    let l := e.owner
    let op := bits ptr 63 56
    let w (i : Nat) : Nat := numAt rec (8 * i) 8
    let bad := pointerCause (fun o => 1 ≤ o && o ≤ 7) 64 ptr e.bad
    let a := bits (w 0) 39 0
    if bad ≠ 0 then .refuse bad 0
    else if s.homeEcc l a 64 then .refuse 0x11 a
    else match s.commFor p l a with
      | none => .refuse 1 a
      | some c =>
        if collFieldsBad op c.size w then .refuse 1 a
        else
          let last := c.cmds.foldl (fun m x => max m x.last) c.dgAll
          let cmd : CollCmd :=
            { core := l.core, seq := e.seq.toNat, op := op, ty := bits (w 3) 63 58, rop := bits (w 3) 57 56, count := bits (w 3) 39 0,
              src := bits (w 1) 56 0, dst := bits (w 2) 39 0, cwa := bits (w 4) 39 0, root := bits (w 5) 15 0, cnts := w 6,
              first := last + 1, last := last + collSteps op c.size (bits (w 3) 63 58) (bits (w 3) 39 0), issuer := l, pasid := e.pasid,
              sup := e.sup }
          let n := cmd.landing c.size c.rank
          let d := polderView l cmd.dst
          if cmd.cwa % 8 ≠ 0 then .refuse 3 cmd.cwa
          else if op = 6 ∧ cmd.cnts % 8 ≠ 0 then .refuse 3 cmd.cnts
          else if n ≠ 0 ∧ s.pullRange l cmd.dst n ≠ 0 then .refuse 7 cmd.dst
          else if op = 6 ∧ s.pullRange l cmd.cnts (16 * c.size) ≠ 0 then .refuse 7 cmd.cnts
          else if cmd.cwa ≠ 0 ∧ s.pullRange l cmd.cwa 8 ≠ 0 then .refuse 7 cmd.cwa
          else if c.stopped then .refuse 0x12 a
          else if !c.active && decide (8 ≤ ((s.polder p).comms.filter fun x => x.active).length) then .wait
          else if n ≠ 0 ∧ s.spanRefused p d n then .refuse 8 cmd.dst
          else if n ≠ 0 ∧ (s.srcHit p d n ∨ 32 ≤ (s.polder p).locks.length) then .wait
          else .go c cmd
  | _ => .wait

/-- Abort a communicator with a reason: 1 FAULT, 2 DRY, 3 MISMATCH, 4 SYSTEM; this engine starts no further chunk of it, and goes on with the others
(R349, R432). -/
def Act.abortComm (p : Loc) (c : Comm) (reason : Nat) : Act := .all [
  .comm p c.cid fun x => { x with stopped := true },
  .initiateAbort p c.members c.part c.cid reason,
  .event 0 (.chunkStart p.toPolder)]

/-- A command whose signature differs from that which a member has shown for a step of it (R434). -/
def Comm.differs (c : Comm) (x : CollCmd) : Bool :=
  c.peers.any fun y => y.sig != 0 && decide (x.first ≤ y.step) && decide (y.step ≤ x.last) && y.sig != x.sig

/-- A command that still stands at the head of its ring is accepted: the communicator is active, its destination registered, and the record shows the
command and its issuer (R278, R422, R423); or it ends with its cause, or waits on (R427). -/
def Act.collAccept (c : Loc) (seq : Nat) : Act :=
  .read fun s =>
    let p := c.toPolder
    match (s.entryAt c seq).filter fun e => e.phase == .dispatched with
    | none => .skip
    | some e =>
      match s.collFate p e with
      | .refuse cause a => .all [.when (cause == 0x11 && !e.bad) (.count p 0x358), .complete c seq cause a 0, .event 0 (.chunkStart p)]
      | .wait => .event 1 (.chunkStart p)
      | .go cm cmd =>
        let cm' : Comm := { cm with cmds := cm.cmds ++ [cmd], mtid := s.tid cmd.issuer % 2 ^ 24 }
        let n := cmd.landing cm.size cm.rank
        let w3 := s.home64 p (cm.record + 24)
        .all [
          .entry c seq fun x => { x with phase := .accepted },
          .polder p fun q => { q with
            comms := (q.comms.filter fun x => x.cid != cm.cid) ++ [cm']
            halted := q.halted.filter fun x => x != cm.cid
            aborts := q.aborts.filter fun x => x.cid != cm.cid },
          .when (n != 0) (.lockSpan p true 2 cmd.seq cmd.core false cmd.issuer (polderView cmd.issuer cmd.dst) n 0),
          .when (!s.homeBarred p (cm.record + 24) 8) (.write64 p (cm.record + 24) (field (w3 / 2 ^ 48 + 1) 16 48 + field cm'.mtid 24 24 + w3 % 2 ^ 24)),
          .when (cm'.differs cmd) (.abortComm p cm' 3),
          .event 0 (.chunkStart p)]

/-- `ALL_REDUCE` (R426). -/
def execAllReduce (s : State) : Host.Outcome State Fault Refusal :=
  match s.cur with
  | .allReduce c seq => done (.collAccept c seq) s
  | _ => .next s
/-- `REDUCE_SCATTER` (R426). -/
def execReduceScatter (s : State) : Host.Outcome State Fault Refusal :=
  match s.cur with
  | .reduceScatter c seq => done (.collAccept c seq) s
  | _ => .next s
/-- `ALL_GATHER` (R426). -/
def execAllGather (s : State) : Host.Outcome State Fault Refusal :=
  match s.cur with
  | .allGather c seq => done (.collAccept c seq) s
  | _ => .next s
/-- `BROADCAST` (R426). -/
def execBroadcast (s : State) : Host.Outcome State Fault Refusal :=
  match s.cur with
  | .broadcast c seq => done (.collAccept c seq) s
  | _ => .next s
/-- `BARRIER` (R426). -/
def execBarrier (s : State) : Host.Outcome State Fault Refusal :=
  match s.cur with
  | .barrier c seq => done (.collAccept c seq) s
  | _ => .next s
/-- `ALL_TO_ALL_V` (R431). -/
def execAllToAllV (s : State) : Host.Outcome State Fault Refusal :=
  match s.cur with
  | .allToAllV c seq => done (.collAccept c seq) s
  | _ => .next s
/-- `REDUCE` (R426). -/
def execReduce (s : State) : Host.Outcome State Fault Refusal :=
  match s.cur with
  | .reduce c seq => done (.collAccept c seq) s
  | _ => .next s

/-- The step that an `eq3` command is, by its code; one without a meaning is refused at acceptance all the same (R237, R238). -/
def eq3Event (op : Nat) (c : Loc) (seq : Nat) : Event :=
  match op with
  | 1 => .allReduce c seq
  | 2 => .reduceScatter c seq
  | 3 => .allGather c seq
  | 4 => .broadcast c seq
  | 5 => .barrier c seq
  | 6 => .allToAllV c seq
  | _ => .reduce c seq

/-- Take the commands at the heads of the cores' rings that need not wait. -/
def Act.takeCommands (p : Loc) : Act :=
  .read fun s => Act.each (List.range 8) fun n =>
    let c : Loc := { p.toPolder with core := n }
    match s.unitHead c .collective with
    | none => .skip
    | some e =>
      match s.collFate p e, e.op with
      | .wait, _ => .skip
      | _, .eq3 ptr _ => .event 0 (eq3Event (bits ptr 63 56) c e.seq.toNat)
      | _, _ => .skip

/-! ## The all-to-all's counts (R431) -/

/-- Word `r` of a command's count array. -/
def State.collCount (s : State) (p : Loc) (c : CollCmd) (r : Nat) : Nat := s.home64 { p with core := c.core } (c.cnts + 8 * r)

/-- Sum of the counts before index `r`. -/
def State.countsBefore (s : State) (p : Loc) (c : CollCmd) (base r : Nat) : Nat := ((List.range r).map fun q => s.collCount p c (base + q)).sum

/-- The pairs that a member places in staging: count and source offset for each rank. -/
def State.countPairs (s : State) (p : Loc) (c : CollCmd) (m : Nat) : List Byte :=
  (List.range m).flatMap fun r => bytesOf 8 (s.collCount p c r) ++ bytesOf 8 (s.countsBefore p c 0 r)

/-- The chunks of a payload step: sender, and byte offsets and length of each piece, by the counts that the count step brought (R428, R431). -/
def Comm.payloadPieces (c : Comm) (x : CollCmd) : List (Nat × Nat × Nat) :=
  (List.range c.size).flatMap fun r =>
    let n := (c.pairs.getD r (0, 0)).1 * collWidth x.ty
    (List.range (ceilDiv n pieceBytes)).map fun i => (r, pieceBytes * i, min pieceBytes (n - pieceBytes * i))

/-- The offset in the destination of what a sender sends, in elements (R431). -/
def Comm.roff (c : Comm) (r : Nat) : Nat := ((c.pairs.take r).map fun q => q.1).sum

/-! ## Readiness (R428, R429) -/

/-- A staging buffer may be written for step `n`: every node that reads what the last step of its parity left there is done with that step (R428,
R439). -/
def Comm.stagingFree (c : Comm) (n : Nat) : Bool :=
  let b := c.readers.getD (n % 2) (0, [])
  b.2.all fun r => decide (b.1 ≤ (c.peer r).dg)

/-- A staging buffer is filled for step `n`, for some ranks to read. -/
def Comm.stage (c : Comm) (n : Nat) (ranks : List Nat) (bs : List Byte) : Comm :=
  { c with staging := c.staging.set (n % 2) bs
           readers := (List.range 2).map fun i => if i = n % 2 then (n, ranks) else c.readers.getD i (0, []) }

/-- The next chunk of a communicator may begin: its step, or none (R428, R429, R431). -/
def Comm.nextChunk (c : Comm) : Option (Nat × CollCmd × CollStep) :=
  let n := c.dgAll + 1
  if c.stopped || c.chunk.isSome then none
  else match c.cmdAt n with
    | none => none
    | some x =>
      let t := x.step c.size n
      let p := c.pos t.root
      let kids := treeKids c.size t.root p
      let par := treeParent c.size t.root p
      let shown (rs : List Nat) : Bool := rs.all fun r => decide (n ≤ (c.peer r).pg)
      let others := (List.range c.size).filter fun r => r != c.rank
      let ok := match t.kind with
        | .reduce => shown kids && (p == 0 || kids.isEmpty || c.stagingFree n) && !(kids.any fun r => (c.peer r).absent)
        | .bcast => p == 0 || (decide (n ≤ (c.peer par).dg) && !(c.peer par).absent)
        | .barrier => if c.pgAll < n then shown kids else decide (n ≤ (c.peer par).dg)
        | .counts => if c.pgAll < n then c.stagingFree n else shown others && !(others.any fun r => (c.peer r).absent)
        | .payload => !(others.any fun r => (c.peer r).absent)
      if ok then some (n, x, t) else none

/-! ## Chunks (R428, R429, R432) -/

/-- The ranks whose memory or staging the chunk reads. -/
def Comm.readsFrom (c : Comm) (n : Nat) (t : CollStep) (sender : Nat) : List Nat :=
  let p := c.pos t.root
  match t.kind with
  | .reduce => treeKids c.size t.root p
  | .bcast => if p = 0 then [] else [treeParent c.size t.root p]
  | .barrier => if c.pgAll < n then treeKids c.size t.root p else [treeParent c.size t.root p]
  | .counts => if c.pgAll < n then [] else (List.range c.size).filter fun r => r != c.rank
  | .payload => if sender = c.rank then [] else [sender]

/-- A pull of a chunk, for its input `i`: from an address of the member that holds the command `x`. A home address of a peer is named by that polder's home
image, which the tables must map, and by the mesh form on another device, which has no image here; a virtual one is translated under the PASID of the
command that gives it (R23, R416; notes/assumptions 78). -/
def State.chunkXfer (s : State) (p : Loc) (c : Comm) (x mine : CollCmd) (owner : Loc) (i a n : Nat) : Xfer :=
  let home := decide (a < 2 ^ 40)
  let view := polderView { owner with core := x.core } a
  let far := owner.dev != p.dev
  let src := if !home || owner.toPolder == p.toPolder then a
    else if far then (match homePlace owner.toPolder view with
      | some q => s.meshOf q
      | none => 2 ^ 40 - 1)
    else imageBase c.part + owner.pidx * 2 ^ 41 + view
  { id := 0, origin := .chunk c.cid, kind := .gather i, src := src, dst := 0, len := n, cls := 1, cwa := 0, st := false,
    pasid := if home then mine.pasid else x.pasid, part := c.part, sup := if home && far then true else mine.sup, core := mine.core, issued := false,
    next := 0, flying := [], cause := 0, addr := 0, lock := some 0, got := List.replicate n 0#8 }

/-- The pulls and inputs of a chunk: what must be read, and what is at hand (R429, R431). -/
def State.chunkReads (s : State) (p : Loc) (c : Comm) (n : Nat) (x : CollCmd) (t : CollStep) : List Xfer × List (Option (List Byte)) :=
  let pos := c.pos t.root
  let peer (r : Nat) : Option CollCmd := (s.peerComm p c r).bind fun y => y.cmdAt n
  let place (r : Nat) : Loc := s.memberAt p (c.members.getD r (0, 0))
  let stage (r i k : Nat) : Option (List Byte) := some (((s.peerComm p c r).elim [] fun y => y.staging.getD (n % 2) []).drop i |>.take k)
  let own (a len : Nat) : Xfer := s.chunkXfer p c x x p.toPolder 0 a len
  let from_ (r i len : Nat) (a : CollCmd → Nat) : List Xfer := ((peer r).map fun y => s.chunkXfer p c y x (place r) i (a y) len).toList
  match t.kind with
  | .reduce =>
    let kids := treeKids c.size t.root pos
    if kids.isEmpty && pos != 0 then ([], [])
    else
      let ks := (List.range kids.length).zip kids
      let leaf (r : Nat) : Bool := decide (c.size ≤ 4 * treePos c.size t.root r + 1)
      (own (x.src + t.src) t.len :: ks.flatMap fun q => if leaf q.2 then from_ q.2 (q.1 + 1) t.len fun y => y.src + t.src else [],
       none :: ks.map fun q => if leaf q.2 then none else stage q.2 0 0x10000)
  | .bcast =>
    if pos = 0 then (if t.keep then ([], []) else ([own (x.src + t.src) t.len], [none]))
    else (from_ (treeParent c.size t.root pos) 0 t.len fun y => y.dst + t.dst, [none])
  | .barrier => ([], [])
  | .counts =>
    if c.pgAll < n then ([], [])
    else ([], (List.range c.size).map fun r => if r = c.rank then some ((s.countPairs p x c.size).drop (16 * r) |>.take 16)
      else stage r (16 * c.rank) 16)
  | .payload =>
    match (c.payloadPieces x)[c.sub]? with
    | none => ([], [])
    | some (r, o, k) =>
      let at_ (y : CollCmd) : Nat := y.src + (c.pairs.getD r (0, 0)).2 * collWidth x.ty + o
      (if r = c.rank then [own (at_ x) k] else from_ r 0 k at_, [none])

/-- The partition of a member is absent from its polder (R346, R436). -/
def State.memberAbsent (s : State) (p : Loc) (c : Comm) (r : Nat) : Bool :=
  let d := s.memberAt p (c.members.getD r (0, 0))
  ((s.polder d).saves.any fun v => v.comms.any fun y => y.cid == c.cid) && (s.commAt d c.cid).isNone

/-- The member that a reply comes from does not run the same command at this step: it holds no communicator of this identity, its table or channel
differs, or its command at the step has another signature or is none (R424, R434). -/
def State.replyWrong (s : State) (p : Loc) (c : Comm) (n : Nat) (x : CollCmd) (r : Nat) : Bool :=
  match s.peerComm p c r with
  | none => true
  | some y => y.members != c.members || y.chan != c.chan || (match y.cmdAt n with
    | some z => z.sig != x.sig
    | none => !y.stopped)

/-- The ranks that a chunk reads from. -/
def Comm.chunkFrom (c : Comm) (n : Nat) (x : CollCmd) (t : CollStep) : List Nat :=
  c.readsFrom n t (((c.payloadPieces x)[c.sub]?).getD (c.rank, 0, 0)).1

/-- Begin a chunk: a dry peer or one whose reply is not of the same step of the same command aborts the communicator, an absent one ends the chunk, one
that has stopped stops the communicator here, for its ABORT is on the way, and otherwise the reads are issued (R350, R428, R434-R436). -/
def Act.startChunk (p : Loc) (c : Comm) (n : Nat) (x : CollCmd) (t : CollStep) : Act :=
  .read fun s =>
    let from_ := c.chunkFrom n x t
    let place (r : Nat) : Loc := s.memberAt p (c.members.getD r (0, 0))
    let rd := s.chunkReads p c n x t
    let hold : Act := .polder p fun q => { q with collRunning := some c.cid }
    if from_.any fun r => s.isDry p (place r) then .all [
      .complete { p.toPolder with core := x.core } x.seq 9 0 0,
      .unlock p fun r => r.unit == 2 && r.seq == x.seq && r.core == x.core,
      .comm p c.cid (fun y => { y with cmds := y.cmds.filter fun z => z != x }),
      .abortComm p c 2]
    else match from_.find? (s.memberAbsent p c) with
      | some r => .all [hold, .comm p c.cid fun y => { y with chunk := some ⟨n, [none], []⟩ },
          .event (16 + s.way p (place r) + s.way (place r) p) (.absentAnswer p.toPolder c.cid r)]
      | none =>
        if from_.any (s.replyWrong p c n x) then .abortComm p c 3
        else if from_.any fun r => ((s.peerComm p c r).bind fun y => y.cmdAt n).isNone then
          .seq (.comm p c.cid fun y => { y with stopped := true }) (.event 0 (.chunkStart p.toPolder))
        else .all [
          hold,
          .comm p c.cid (fun y => { y with chunk := some ⟨n, rd.2, []⟩ }),
          .polder p (fun q => { q with internalQ := q.internalQ ++ rd.1 }),
          .event (if rd.1.isEmpty then 8 else 0) (if rd.1.isEmpty then .chunkEnd p.toPolder c.cid else .transferIssue p.toPolder)]

/-- Smaller pass, then lower identity (R432). -/
def commBefore (a b : Comm) : Bool := decide (b.prio < a.prio) || (a.prio == b.prio && (decide (a.pass < b.pass)
  || (a.pass == b.pass && decide (a.cid ≤ b.cid))))

/-- The ready communicator that the engine chooses (R432). -/
def chooseComm : List Comm → Option Comm
  | [] => none
  | c :: cs => match chooseComm cs with
    | some d => if commBefore c d then some c else some d
    | none => some c

/-- At a chunk boundary: those that have become ready take the virtual time, and the chosen one starts a chunk (R432). -/
def Act.arbitrate (p : Loc) : Act :=
  .read fun s =>
    let q := s.polder p
    let ready := q.comms.filter fun c => c.nextChunk.isSome
    let old := ready.filter fun c => c.ready
    let vt := match old with
      | [] => q.collVt
      | c :: cs => cs.foldl (fun m x => min m x.pass) c.pass
    let marked := q.comms.map fun c =>
      if c.nextChunk.isSome then (if c.ready then c else { c with ready := true, pass := max c.pass vt }) else { c with ready := false }
    if q.collRunning.isSome || q.swapping.isSome then .skip
    else .seq (.polder p fun x => { x with comms := marked })
      (match chooseComm (marked.filter fun c => c.nextChunk.isSome) with
        | none => .skip
        | some c => match c.nextChunk with
          | none => .skip
          | some (n, x, t) =>
            let pass := c.pass + 2 ^ 20 / max 1 c.tix
            .all [
              .polder p fun y => { y with collVt := pass, comms := y.comms.map fun z => if z.cid = c.cid then { z with pass := pass } else z },
              .startChunk p { c with pass := pass } n x t])

/-! ## The handler chain (R437) -/

/-- Ask the slice core for a handler of the chain. -/
def Act.askChain (p : Loc) (w : Option Nat) : Act :=
  .read fun s =>
    let q := s.polder p
    .when (!q.chain.contains w && q.chainRun.all fun r => r.1 != w) (.seq (.polder p fun q => { q with chain := q.chain ++ [w] }) (.pokeSlice p))

/-- A handler of the chain has run its time. -/
def State.chainDue (s : State) (p : Loc) (w : Option Nat) : Bool := (s.polder p).chainRun.any fun r => r.1 == w && decide (r.2 ≤ s.now)

/-- The handler of the chain ends: the next handler starts 8 slice cycles later (R364). -/
def Act.chainOver (p : Loc) : Act :=
  .read fun s => .seq (.polder p fun q => { q with chainRun := none, handlerDue := true }) (.event (s.sliceTicks p 8) (.handlerStart p.toPolder))

/-- `CHUNK_START`: commands are accepted; where a chunk may begin, the chain is asked for the handler that issues its pulls, and when that has run the
chosen communicator's chunk begins (R423, R432, R437). -/
def execChunkStart (s : State) : Host.Outcome State Fault Refusal :=
  match s.cur with
  | .chunkStart p => done (.seq (.takeCommands p) (.read fun t =>
      let q := t.polder p
      if t.chainDue p none then .seq (.chainOver p) (.arbitrate p)
      else .when (q.collRunning.isNone && q.swapping.isNone && q.comms.any fun c => c.nextChunk.isSome) (.askChain p none))) s
  | _ => .next s

/-! ## The end of a chunk (R426, R427, R429-R431, R435, R437) -/

/-- A collective event of a step's end, in the partition's set (R437, R365). -/
def Act.collEvent (p : Loc) (c : Comm) (n sig : Nat) : Act :=
  .read fun s =>
    match s.setOf p c.part with
    | none => .skip
    | some set =>
      if 16 ≤ ((s.polder p).events.filter fun e => e.kind == 5).length then .count p 0x368
      else .seq (.polder p fun q => { q with
          eventOrder := q.eventOrder + 1
          events := q.events ++ [⟨set, 5, q.eventOrder, c.hidx, true, c.cid, (n - c.base) % 2 ^ 32, sig, none, 0⟩] })
        (.pokeSlice p)

/-- The notice of a member's gauges, with the identity, the step and the signature of the command whose step raised them last (R424). -/
def Comm.notice (c : Comm) : GaugeNotice := ⟨c.cid, c.rank, c.base, c.pg, c.dg, c.shown.1, c.shown.2 - c.base⟩

/-- Tell every other member of the gauges (R424, R429). -/
def Act.sendGauges (p : Loc) (c : Comm) : Act :=
  .read fun s => Act.each ((List.range c.size).filter fun r => r != c.rank) fun r =>
    let d := s.memberAt p (c.members.getD r (0, 0))
    .when (!s.isDry p d) (.event (8 + s.way p d) (.collectiveGaugeNotice d c.notice))

/-- The engine lowers a command's `pend`; a completion word in a workspace is not written, and the command ends with 0x08 (R63, R130). -/
def Act.collPend (p : Loc) (x : CollCmd) (n : Nat) : Act :=
  let core : Loc := { p.toPolder with core := x.core }
  .read fun s => if s.wordBarred core x.cwa then .entry core x.seq fun e => if e.cause = 0 then { e with cause := 8, addr := x.cwa } else e
    else .subPend core x.cwa n 0

/-- A command has completed: its lock is released, its entry completes, and 1 is subtracted from `pend` where it landed nothing (R426,
R427). -/
def Act.collComplete (p : Loc) (c : Comm) (x : CollCmd) : Act :=
  let core : Loc := { p.toPolder with core := x.core }
  .all [
    .when (x.op != 6 && x.landing c.size c.rank == 0) (.collPend p x 1),
    .unlock p fun r => r.unit == 2 && r.seq == x.seq && r.core == x.core,
    .complete core x.seq 0 0 0,
    .wakeCore core]

/-- Commands that every member has passed are forgotten; until then peers may still read what they name (R426). -/
def Comm.prune (c : Comm) : Comm :=
  let low := ((List.range c.size).filter fun r => r != c.rank).foldl (fun m r => min m (c.peer r).dg) c.dgAll
  { c with cmds := c.cmds.filter fun x => decide (low < x.last) }

/-- Raise gauges: peers are told, and at a step's end the event is raised and a finished command completes (R427, R429, R437). -/
def Act.raiseGauges (p : Loc) (c : Comm) (n : Nat) (x : CollCmd) (pg dg : Bool) : Act :=
  let c' : Comm := { c with pg := if pg then max c.pg (n - c.base) else c.pg, dg := if dg then n - c.base else c.dg, sub := if dg then 0 else c.sub
                            shown := (x.sig, n) }
  .all [
    .comm p c.cid (fun y => ({ y with pg := c'.pg, dg := c'.dg, sub := c'.sub, shown := c'.shown } : Comm).prune),
    .when (dg && c.hev) (.collEvent p c n x.sig),
    .sendGauges p c',
    .when (dg && n == x.last) (.collComplete p c x)]

/-- The command ends with a cause and the communicator is aborted (R435). -/
def Act.collFail (p : Loc) (c : Comm) (x : CollCmd) (cause addr : Nat) : Act :=
  .all [
    .complete { p.toPolder with core := x.core } x.seq cause addr 0,
    .unlock p fun r => r.unit == 2 && r.seq == x.seq && r.core == x.core,
    .comm p c.cid (fun y => { y with cmds := y.cmds.filter fun z => z != x }),
    .abortComm p c (if cause = 9 then 2 else 1)]

/-- Bytes that the received counts say are to come (R431). -/
def CollCmd.total (x : CollCmd) (parts : List (List Byte)) : Nat := (parts.map fun bs => numAt bs 0 8).sum * collWidth x.ty

/-- Write the received counts and account for the bytes to come; the destination is checked and registered now (R431). Counts and a completion word in a
workspace are not written (R63). -/
def Act.landCounts (p : Loc) (c : Comm) (n : Nat) (x : CollCmd) (parts : List (List Byte)) : Act :=
  .read fun s =>
    let core : Loc := { p.toPolder with core := x.core }
    let counts := parts.map fun bs => numAt bs 0 8
    let total := x.total parts
    let d := polderView x.issuer x.dst
    let w := s.home64 core x.cwa
    let pend := bits w 55 0
    let put : Act := .each ((List.range c.size).zip counts) fun q => .write64 core (x.cnts + 8 * (c.size + q.1)) q.2
    if total ≠ 0 ∧ s.pullRange x.issuer x.dst total ≠ 0 then .collFail p c x 7 x.dst
    else if total ≠ 0 ∧ s.spanRefused p d total then .collFail p c x 8 x.dst
    else if s.spanInWorkspace p (polderView core (x.cnts + 8 * c.size)) (8 * c.size) then .collFail p c x 8 x.cnts
    else if s.wordBarred core x.cwa then .collFail p c x 8 x.cwa
    else .all [
      put,
      .comm p c.cid fun y => { y with pairs := parts.map fun bs => (numAt bs 0 8, numAt bs 8 8) },
      .when (x.cwa != 0) (.write64 core x.cwa (if pend + total = 0 then Nat.lor w (2 ^ 63) else w / 2 ^ 56 * 2 ^ 56 + (pend + total - 1) % 2 ^ 56)),
      .when (total != 0) (.lockSpan p true 2 x.seq x.core false x.issuer d total 0),
      .raiseGauges p c n x false true]

/-- Write a chunk's result at a home address, line by line; one that a workspace has come to since it was registered is refused (R63, R437). -/
def Act.landPiece (p : Loc) (c : Comm) (x : CollCmd) (a : Nat) (bs : List Byte) (k : Act) : Act :=
  let core : Loc := engineAgent { p.toPolder with core := x.core }
  .read fun s =>
    if s.homeBarred { p.toPolder with core := x.core } a bs.length then .collFail p c x 8 a
    else .all [
      .each (List.range (ceilDiv (a % 64 + bs.length) 64)) (fun i =>
        let lo := a / 64 * 64 + 64 * i
        .landHome core (max a lo) 1 (sliceBytes bs (max a lo - a) (min (lo + 64) (a + bs.length) - max a lo))),
      .collPend p x bs.length,
      k]

/-- What a chunk does when all of its inputs are there (R429-R431). -/
def Act.finishChunk (p : Loc) (c : Comm) (n : Nat) (x : CollCmd) (t : CollStep) (parts : List (List Byte)) : Act :=
  .read fun s =>
    let pos := c.pos t.root
    let got := parts.flatten
    match t.kind with
    | .reduce =>
      let kids := treeKids c.size t.root pos
      let leaf (i : Nat) : Bool := i == 0 || decide (c.size ≤ 4 * treePos c.size t.root (kids.getD (i - 1) 0) + 1)
      let k := t.len / max 1 (collWidth x.ty)
      let vs := collPartial x.ty x.rop k (((List.range parts.length).zip parts).map fun q => (!leaf q.1, q.2))
      if pos = 0 then
        .landPiece p c x (x.dst + t.dst) (vs.flatMap fun v => bytesOf (collWidth x.ty) (collLeave x.ty v)) (.raiseGauges p c n x false true)
      else if kids.isEmpty then .raiseGauges p c n x true true
      else .seq (.comm p c.cid fun y => y.stage n [treeParent c.size t.root pos] (vs.flatMap fun v => bytesOf (carryWidth x.ty) v))
        (.raiseGauges p c n x true true)
    | .bcast => if pos = 0 ∧ t.keep then .raiseGauges p c n x true true else .landPiece p c x (x.dst + t.dst) got (.raiseGauges p c n x true true)
    | .barrier => if c.pgAll < n then .raiseGauges p c n x true (pos == 0) else .raiseGauges p c n x false true
    | .counts =>
      if c.pgAll < n then .seq (.comm p c.cid fun y => y.stage n ((List.range c.size).filter fun r => r != c.rank) (s.countPairs p x c.size))
        (.raiseGauges p c n x true false)
      else .landCounts p c n x parts
    | .payload =>
      let go : Act := if c.sub + 1 < (c.payloadPieces x).length then .comm p c.cid fun y => { y with sub := y.sub + 1 } else .raiseGauges p c n x true true
      match (c.payloadPieces x)[c.sub]? with
      | some (r, o, _) => .landPiece p c x (x.dst + c.roff r * collWidth x.ty + o) got go
      | none => go

/-- The places that the end of a chunk writes: the ends of its result or counts, and the completion word (R426, R430, R431). -/
def chunkPlaces (p : Loc) (c : Comm) (n : Nat) (x : CollCmd) (t : CollStep) : List Place :=
  let core : Loc := { p.toPolder with core := x.core }
  let ends (a len : Nat) : List Place := (homePlace core a).toList ++ (homePlace core (a + len - 1)).toList
  (match t.kind with
    | .reduce => if c.pos t.root = 0 then ends (x.dst + t.dst) t.len else []
    | .bcast => if c.pos t.root = 0 ∧ t.keep then [] else ends (x.dst + t.dst) t.len
    | .payload => ((c.payloadPieces x)[c.sub]?).elim [] fun q => ends (x.dst + c.roff q.1 * collWidth x.ty + q.2.1) q.2.2
    | .counts => if c.pgAll < n then [] else ends (x.cnts + 8 * c.size) (8 * c.size)
    | .barrier => []) ++ (if x.cwa = 0 then [] else ends x.cwa 8)

/-- Received counts wait: their destination meets a source span of an earlier matrix entry, or the range-lock table has no room for it (R276, R278). -/
def State.countsWait (s : State) (p : Loc) (c : Comm) (n : Nat) (x : CollCmd) (t : CollStep) (parts : List (List Byte)) : Bool :=
  let total := x.total parts
  let d := polderView x.issuer x.dst
  t.kind == .counts && decide (n ≤ c.pgAll) && total != 0 && s.pullRange x.issuer x.dst total == 0 && !s.spanRefused p d total
    && (s.srcHit p d total || decide (32 ≤ (s.polder p).locks.length))

/-- The end of a chunk that it must put off: until fresh granules that it writes are zero (R324), or until its destination can be registered (R276,
R278). -/
def State.chunkWait (s : State) (p : Loc) (c : Comm) (k : Chunk) : Option Act :=
  match c.cmdAt k.n with
  | none => none
  | some x =>
    let t := x.step c.size k.n
    let parts := k.parts.map fun b => b.getD []
    let at' := chunkPlaces p c k.n x t
    if !k.fails.isEmpty then none
    else if at'.any s.unsettled then some (.seq (.each at' .startZeroing) (.event ((at'.map s.freshWait).foldl max 0) (.chunkEnd p.toPolder c.cid)))
    else if s.countsWait p c k.n x t parts then some (.event 1 (.chunkEnd p.toPolder c.cid))
    else none

/-- A member is noted as absent, or as back (R436). -/
def Comm.noteAbsent (c : Comm) (r : Nat) (b : Bool) : Comm :=
  { c with peers := { c.peer r with absent := b } :: c.peers.filter fun y => y.rank != r }

/-- What stands when a chunk is over: its results; where a read failed, the end of the command, unless the member that it reads from has become absent:
then nothing has landed, and the chunk begins again when the member is back (R428, R435, R436). -/
def Act.chunkOver (p : Loc) (c : Comm) (k : Chunk) : Act :=
  .read fun s =>
    let c' : Comm := { c with chunk := none }
    match c.cmdAt k.n with
    | none => .skip
    | some x =>
      let t := x.step c.size k.n
      match k.fails with
      | f :: _ => (match (c.chunkFrom k.n x t).find? (s.memberAbsent p c) with
        | some r => .comm p c.cid fun y => y.noteAbsent r true
        | none => .collFail p c' x f.1 f.2)
      | [] => .finishChunk p c' k.n x t (k.parts.map fun b => b.getD [])

/-- `CHUNK_END`: when every read of the running chunk has landed or failed, the chain is asked for the handler that ends the chunk; when that has run the
engine is free again and the chunk's results stand (R428, R435, R437). -/
def Act.chunkEnded (p : Loc) (cid : Nat) : Act :=
  .read fun s =>
    let ran := s.chainDue p (some cid)
    .seq (.when ran (.chainOver p)) (match s.commAt p cid with
    | none => .polder p fun q => if q.collRunning = some cid then { q with collRunning := none } else q
    | some c =>
      match c.chunk with
      | none => .skip
      | some k =>
        if k.parts.any fun b => b.isNone then .skip
        else (s.chunkWait p c k).getD <| if !ran then .askChain p (some cid) else .all [
          .polder p (fun q => { q with collRunning := none }),
          .comm p cid (fun y => { y with chunk := none }),
          .chunkOver p c k,
          .event 0 (.chunkStart p.toPolder)])

/-- `CHUNK_END` (R428). -/
def execChunkEnd (s : State) : Host.Outcome State Fault Refusal :=
  match s.cur with
  | .chunkEnd p cid => done (.chunkEnded p cid) s
  | _ => .next s

/-! ## Notices between members (R429, R436) -/

/-- The notice of an absent member's peer as a message for its spillway ring (R436). -/
def noticeMessage (part mtid : Nat) (n : GaugeNotice) : Message :=
  ⟨2 ^ 24 + mtid, field 4 4 58, field n.sig 16 48 + field part 4 20, [w64 n.cid, w64 n.rank, w64 n.base, w64 n.pg, w64 n.dg, w64 n.step], 0, none, none⟩

/-- The command that a notice is about has another signature here (R434). -/
def Comm.noticeWrong (c : Comm) (n : GaugeNotice) : Bool := !c.stopped && n.sig != 0 && (c.cmdAt (n.base + n.step)).any fun x => x.sig != n.sig

/-- `COLLECTIVE_GAUGE_NOTICE`: a member's gauges reach this engine, which compares the signature and step with its own (R434); for an absent partition they
are spilled, or sent again later (R429, R436). A notice for a communicator that is not known here says nothing: its gauges are looked at when it becomes active. -/
def Act.gaugeNotice (p : Loc) (n : GaugeNotice) : Act :=
  .read fun s =>
    match s.commAt p n.cid with
    | some c => .all [
        .comm p n.cid fun c =>
          let x := c.peer n.rank
          ({ c with peers := { x with pg := max x.pg (n.base + n.pg), dg := max x.dg (n.base + n.dg), sig := n.sig, step := n.base + n.step }
              :: c.peers.filter fun y => y.rank != n.rank } : Comm).prune,
        .when (c.noticeWrong n) (.abortComm p c 3),
        .event 0 (.chunkStart p.toPolder)]
    | none =>
      match (s.polder p).saves.findSome? fun v => (v.comms.find? fun c => c.cid == n.cid).map fun c => (v, c) with
      | none => .skip
      | some (v, c) =>
        let l := s.tidLoc p.dev c.mtid
        match s.savedCtx l v.part with
        | none => .skip
        | some y =>
          if s.ringRoom l y 0x10 256 0 = .room then .spillMessage l y (noticeMessage v.part c.mtid n)
          else
            let from_ := s.memberAt p (c.members.getD n.rank (0, 0))
            .seq (.count p 0x3A0) (.event (1024 + 8 + s.way p from_) (.collectiveNoticeResend from_ n.cid c.rank))

/-- `COLLECTIVE_GAUGE_NOTICE` (R429). -/
def execCollectiveGaugeNotice (s : State) : Host.Outcome State Fault Refusal :=
  match s.cur with
  | .collectiveGaugeNotice p n => done (.gaugeNotice p n) s
  | _ => .next s

/-- `COLLECTIVE_NOTICE_RESEND`: the gauges go to one member again (R436). -/
def execCollectiveNoticeResend (s : State) : Host.Outcome State Fault Refusal :=
  match s.cur with
  | .collectiveNoticeResend p cid rank =>
    done (.read fun x => match x.commAt p cid with
      | none => .skip
      | some c =>
        let d := x.memberAt p (c.members.getD rank (0, 0))
        .event (8 + s.way p d) (.collectiveGaugeNotice d c.notice)) s
  | _ => .next s

/-- `ABSENT_ANSWER`: the chunk ends without landing anything and waits for the member's return (R436). -/
def execAbsentAnswer (s : State) : Host.Outcome State Fault Refusal :=
  match s.cur with
  | .absentAnswer p cid rank =>
    done (.all [
      .polder p (fun q => if q.collRunning = some cid then { q with collRunning := none } else q),
      .comm p cid (fun c => ({ c with chunk := none } : Comm).noteAbsent rank true),
      .event 0 (.chunkStart p)]) s
  | _ => .next s

/-- `RETURN_NOTICE`: an absent member is back (R436). -/
def execReturnNotice (s : State) : Host.Outcome State Fault Refusal :=
  match s.cur with
  | .returnNotice p cid rank =>
    done (.seq (.comm p cid fun c => c.noteAbsent rank false)
      (.event 0 (.chunkStart p))) s
  | _ => .next s

/-- A partition that returns tells every tree neighbour of its communicators' current steps (R436). -/
def Act.announceReturn (p : Loc) : Act :=
  .read fun s => Act.each (s.polder p).comms fun c =>
    Act.each ((List.range c.size).filter fun r => r != c.rank) fun r =>
      let d := s.memberAt p (c.members.getD r (0, 0))
      .seq (.event (8 + s.way p d) (.returnNotice d c.cid c.rank)) (.event 0 (.chunkStart p.toPolder))

end Sys2Proof.Machine
end

