-- ==== Sys2Proof/Machine/Unwind.lean ====
section
/-! DEFINITION. The unwind of a communicator (spec/16 R349-R351): ABORT, STEP, AGREE and DONE, their time-outs, the abort by system
software, and what becomes of those that wait on an owner that is dry (spec/05 R127, R133, spec/16 R352). -/

namespace Sys2Proof.Machine

/-- The unwind of a communicator that a polder takes part in. -/
def State.abortAt (s : State) (p : Loc) (cid : Nat) : Option Abort := (s.polder p).aborts.find? fun a => a.cid == cid

/-- Change an unwind of a polder. -/
def Act.unwind (p : Loc) (cid : Nat) (f : Abort → Abort) : Act :=
  .polder p fun q => { q with aborts := q.aborts.map fun a => if a.cid = cid then f a else a }

/-- The order of initiators: device, then polder index (R351). -/
def State.before (s : State) (a b : Loc) : Bool :=
  let x := (s.device a).podpos
  let y := (s.device b).podpos
  decide (x < y) || (x == y && decide (a.pidx ≤ b.pidx))

/-- The time-outs of an unwind on a polder. -/
def isUnwindTimer (p : Loc) (cid : Nat) : Work → Bool
  | .event (.agreeTimeout q c) => q == p && c == cid
  | .event (.stepWaitTimeout q c) => q == p && c == cid
  | _ => false

/-! ## Members that are absent (R346, R350) -/

/-- The communicators that a polder takes part in: those of its partition, and those of absent partitions as they were saved. -/
def PolderState.knownComms (q : PolderState) : List Comm := q.comms ++ q.saves.flatMap fun v => v.comms

/-- A communicator that a polder takes part in. -/
def State.memberComm (s : State) (p : Loc) (cid : Nat) : Option Comm := (s.polder p).knownComms.find? fun c => c.cid == cid

/-- Change the saved set of a partition. -/
def Act.saved (p : Loc) (part : Nat) (f : SavedSet → SavedSet) : Act :=
  .polder p fun q => { q with saves := q.saves.map fun v => if v.part = part then f v else v }

/-- The engine starts no further chunk of a communicator, resident or saved (R350). -/
def Act.stopComm (p : Loc) (cid part : Nat) : Act :=
  .seq (.comm p cid fun x => { x with stopped := true })
    (.saved p part fun v => { v with comms := v.comms.map fun x => if x.cid = cid then { x with stopped := true } else x })

/-- A command of a saved communicator ends with a cause: its entry is complete and its destination is no longer registered. -/
def SavedSet.endCommand (v : SavedSet) (x : CollCmd) (cause addr : Nat) : SavedSet :=
  { v with
    cores := v.cores.map fun c => if c.1.core = x.core then (c.1, { c.2 with ring := c.2.ring.map fun e =>
      if e.seq.toNat = x.seq then { e with phase := .complete, cause := cause, addr := addr } else e }) else c
    locks := v.locks.filter fun k => !(k.unit == 2 && k.seq == x.seq && k.core == x.core) }

/-- A command of a communicator ends carrying 0x12, on a polder where its partition is resident or saved (R350). -/
def Act.endCollective (p : Loc) (part : Nat) (x : CollCmd) (record : Nat) : Act :=
  .read fun s =>
    if (s.polder p).part = some part then .seq (.complete { p.toPolder with core := x.core } x.seq 0x12 record 0)
      (.unlock p fun k => k.unit == 2 && k.seq == x.seq && k.core == x.core)
    else .saved p part fun v => v.endCommand x 0x12 record

/-! ## ABORT and STEP (R350 steps 1 and 2) -/

/-- End the commands of a communicator that have not been accepted: each ends carrying 0x12 (R350). -/
def Act.endUnaccepted (p : Loc) (record : Nat) : Act :=
  .read fun s => Act.each (List.range 8) fun n =>
    let c : Loc := { p.toPolder with core := n }
    Act.each ((s.core c).ring.filter fun e => e.phase == .dispatched && (match e.op with
      | .eq3 _ rec => polderView c (bits (numAt rec 0 8) 39 0) == record
      | _ => false)) fun e => .complete c e.seq.toNat 0x12 record 0

/-- The member context's step as of its last commit goes to the initiator (R350 step 2), and the initiator's answer is waited for: 2^20
cycles by itself, 2^21 by another (R350, R351). -/
def Act.answerStep (p : Loc) (a : Abort) : Act :=
  .read fun s =>
    let l := s.tidLoc p.dev a.mtid
    let own := a.initiator.toPolder == p.toPolder
    .all [
      .fx (.cancel (isUnwindTimer p.toPolder a.cid)),
      .event (if own then 2 ^ 20 else 2 ^ 21) (if own then .stepWaitTimeout p.toPolder a.cid else .agreeTimeout p.toPolder a.cid),
      .tellSlice p a.initiator a.part (.stepPacket a.initiator.toPolder a.cid a.rank (s.anyCtx l a.part).step.toNat)]

/-- `ABORT_PACKET`: the communicator starts no chunk, its unaccepted commands end, and the member answers; of two initiators the lower
carries on, unless it has failed (R350, R351). -/
def Act.abortArrives (p : Loc) (cid reason : Nat) (ini : Loc) : Act :=
  .seq (.enterBuilt p) (.read fun s =>
    if (s.polder p).halted.contains cid then .skip
    else match s.abortAt p cid, s.memberComm p cid with
      | some a, _ =>
        if s.before ini a.initiator || s.isDry p a.initiator then
          let b : Abort := { a with initiator := ini, reason := reason, answers := if ini = a.initiator then a.answers else [] }
          .seq (.unwind p cid fun _ => b) (.answerStep p b)
        else .skip
      | none, some c =>
        let a : Abort := { cid := cid, part := c.part, reason := reason, initiator := ini, members := c.members, rank := c.rank, record := c.record,
                           chan := c.chan, mtid := c.mtid, answers := [], dones := [], closed := false, agreed := none }
        .all [
          .stopComm p cid c.part,
          .when ((s.polder p).part == some c.part) (.endUnaccepted p c.record),
          .polder p (fun q => { q with aborts := q.aborts ++ [a] }),
          .answerStep p a,
          .event 0 (.chunkStart p.toPolder)]
      | none, none => .skip)

/-- `ABORT_PACKET` (R350). -/
def execAbortPacket (s : State) : Host.Outcome State Fault Refusal :=
  match s.cur with
  | .abortPacket p cid reason ini => done (.abortArrives p cid reason ini) s
  | _ => .next s

/-! ## AGREE (R350 steps 3 and 4) -/

/-- The smallest of the values received. -/
def agreedStep (answers : List (Nat × Nat)) : Nat :=
  match answers with
  | [] => 0
  | x :: xs => xs.foldl (fun m y => min m y.2) x.2

/-- AGREE goes to one member. -/
def Act.sendAgree (p : Loc) (a : Abort) (rank agreed : Nat) : Act :=
  .read fun s =>
    let d := s.memberAt p (a.members.getD rank (0, 0))
    .tellSlice p d a.part (.agreePacket d a.cid agreed a.reason)

/-- A member of an unwind is dry to the polder: it counts as not answering (R351). -/
def State.memberDry (s : State) (p : Loc) (a : Abort) (rank : Nat) : Bool := s.isDry p (s.memberAt p (a.members.getD rank (0, 0)))

/-- Step 3 closes: the agreed step is the minimum of the values received, and every member that answered hears it (R350). A member that has become dry
since counts as not answering (R351). -/
def Act.closeStep (p : Loc) (cid : Nat) : Act :=
  .read fun s =>
    match s.abortAt p cid with
    | none => .skip
    | some a =>
      if a.closed || a.initiator != p.toPolder then .skip
      else
        let ans := a.answers.filter fun q => !s.memberDry p a q.1
        let v := agreedStep ans
        .seq (.unwind p cid fun x => { x with answers := ans, closed := true, agreed := some v }) (.each ans fun q => .sendAgree p a q.1 v)

/-- `STEP_PACKET`: an answer counts once; when every member has answered the step closes, and a late one is told the agreed step (R350,
R351). -/
def Act.stepArrives (p : Loc) (cid rank value : Nat) : Act :=
  .read fun s =>
    match s.abortAt p cid with
    | none => .skip
    | some a =>
      if a.initiator != p.toPolder || s.memberDry p a rank then .skip
      else match a.agreed with
        | some v => .seq (.unwind p cid fun x => { x with answers := x.answers.filter (fun q => q.1 != rank) ++ [(rank, value)] })
            (.sendAgree p a rank v)
        | none =>
          let ans := a.answers.filter (fun q => q.1 != rank) ++ [(rank, value)]
          .seq (.unwind p cid fun x => { x with answers := ans }) (.when (decide (a.members.length ≤ ans.length)) (.closeStep p cid))

/-- `STEP_PACKET` (R350). -/
def execStepPacket (s : State) : Host.Outcome State Fault Refusal :=
  match s.cur with
  | .stepPacket p cid rank v => done (.stepArrives p cid rank v) s
  | _ => .next s

/-- `STEP_WAIT_TIMEOUT` (R350 step 3). -/
def execStepWaitTimeout (s : State) : Host.Outcome State Fault Refusal :=
  match s.cur with
  | .stepWaitTimeout p cid => done (.closeStep p cid) s
  | _ => .next s

/-- Free what is held for members that did not answer: watch entries and listens, those of partitions that have left the polder among them, and slots of
the atomic unit (R350 step 4, R353). -/
def Act.freeSilent (p : Loc) (silent : List Loc) : Act :=
  let ws (xs : List WatchEntry) : List WatchEntry := xs.filter fun w => !silent.contains w.reg.issuer.toPolder
  let ls (xs : List ListenSlot) : List ListenSlot := xs.filter fun t => !silent.contains t.handle.owner.toPolder
  .polder p fun q => { q with
    watches := ws q.watches
    listens := ls q.listens
    saves := q.saves.map fun v => { v with watches := ws v.watches, listens := ls v.listens }
    amoSlots := q.amoSlots.filter fun m => !(silent.any fun x => m.src == .polder x.dev x.pidx)
    amoHeld := q.amoHeld.filter fun m => !(silent.any fun x => amoSource m.1 m.2.owner == .polder x.dev x.pidx) }

/-- Take the notices of a communicator out of a context's spillway message ring: the cells go round once, and those are left out (R350 step 4). -/
def Act.dropNotices (l : Loc) (b cid : Nat) : Nat → Act
  | 0 => .skip
  | n + 1 => .read fun s =>
    let bs := s.ringHead l b 0x10 0x8000 128 256
    let m := messageOfCell bs
    .all [
      .ringPop l b 0x10,
      .when (bits m.w1 63 48 == 0 || (noticeOf m).cid != cid) (.ringPush l b 0x10 0x8000 128 256 bs),
      Act.dropNotices l b cid n]

/-- The traffic of a communicator that its member context holds in its spillway is discarded (R350 step 4). -/
def Act.dropSpilled (l : Loc) (part cid : Nat) : Act :=
  .inPart l part (.read fun s =>
    let c := s.anyCtx l part
    .when (s.spillState l c == .room) (.dropNotices l c.spillBase cid (s.ringCount l c.spillBase 0x10)))

/-- `AGREE_PACKET`: the communicator is halted, its remaining commands end carrying 0x12, its record shows the step and the reason, the
member context receives the abort record, and the initiator hears DONE (R350 steps 4 to 6, R422). -/
def Act.agreeArrives (p : Loc) (cid agreed reason : Nat) : Act :=
  .read fun s =>
    if (s.polder p).halted.contains cid then .skip
    else match s.abortAt p cid with
      | none => .skip
      | some a =>
        let l := s.tidLoc p.dev a.mtid
        let cmds := ((s.memberComm p cid).elim [] fun c => c.cmds.filter fun x => decide (c.dgAll < x.last))
        let answered := ((s.abortAt a.initiator cid).elim [] fun x => x.answers.map fun q => q.1)
        let silent := ((List.range a.members.length).filter fun r => r != a.rank && !answered.contains r).map fun r =>
          s.memberAt p (a.members.getD r (0, 0))
        let r : FaultRec := ⟨0x12, reason, 1, agreed % 2 ^ 40, 0, agreed, s.sliceTid p, false⟩
        let chunkOf (t : Xfer) : Bool := t.origin == .chunk cid
        .all [
          .each cmds (fun x => .endCollective p a.part x a.record),
          .polder p (fun q => { q with
            comms := q.comms.filter fun c => c.cid != cid
            saves := q.saves.map fun v => { v with comms := v.comms.filter fun c => c.cid != cid }
            collRunning := if q.collRunning = some cid then none else q.collRunning
            xfers := q.xfers.filter fun t => !chunkOf t
            internalQ := q.internalQ.filter fun t => !chunkOf t
            halted := cid :: q.halted }),
          .dropSpilled l a.part cid,
          .freeSilent p silent,
          .inPart p a.part (.read fun x => .when (!x.homeBarred p a.record 48) (.all [
            .write64 p a.record (Nat.lor (x.home64 p a.record) (2 ^ 62)),
            .write64 p (a.record + 32) agreed,
            .write64 p (a.record + 40) (x.home64 p (a.record + 40) / 256 * 256 + reason % 256)])),
          (if (s.anyCtx l a.part).state = 0#3 then .hostRec p a.part r
          else .seq (.anyCtx l a.part fun c => { c with duties := { c.duties with abort := true } }) (.anyPost l a.part r)),
          .fx (.cancel (isUnwindTimer p.toPolder cid)),
          .tellSlice p a.initiator a.part (.donePacket a.initiator.toPolder cid a.rank),
          .when (a.initiator != p.toPolder) (.polder p fun q => { q with aborts := q.aborts.filter fun x => x.cid != cid }),
          .event 0 (.chunkStart p.toPolder)]

/-- `AGREE_PACKET` (R350). -/
def execAgreePacket (s : State) : Host.Outcome State Fault Refusal :=
  match s.cur with
  | .agreePacket p cid v reason => done (.agreeArrives p cid v reason) s
  | _ => .next s

/-- `DONE_PACKET`: when every member that is not dry is done, the initiator forgets the unwind (R350 step 6). -/
def Act.doneArrives (p : Loc) (cid rank : Nat) : Act :=
  .read fun s =>
    match s.abortAt p cid with
    | none => .skip
    | some a =>
      let ds := if a.dones.contains rank then a.dones else a.dones ++ [rank]
      if a.closed && (List.range a.members.length).all (fun r => ds.contains r || s.memberDry p a r) then .polder p fun q => { q with aborts := q.aborts.filter fun x => x.cid != cid }
      else .unwind p cid fun x => { x with dones := ds }

/-- `DONE_PACKET` (R350). -/
def execDonePacket (s : State) : Host.Outcome State Fault Refusal :=
  match s.cur with
  | .donePacket p cid rank => done (.doneArrives p cid rank) s
  | _ => .next s

/-- `AGREE_TIMEOUT`: 2^21 cycles have passed without AGREE, and the member becomes an initiator (R351). -/
def Act.agreeLate (p : Loc) (cid : Nat) : Act :=
  .read fun s =>
    match s.abortAt p cid with
    | none => .skip
    | some a =>
      if (s.polder p).halted.contains cid then .skip
      else .seq (.unwind p cid fun x => { x with initiator := p.toPolder, answers := [], dones := [], closed := false, agreed := none })
        (.initiateAbort p a.members a.part cid a.reason)

/-- `AGREE_TIMEOUT` (R351). -/
def execAgreeTimeout (s : State) : Host.Outcome State Fault Refusal :=
  match s.cur with
  | .agreeTimeout p cid => done (.agreeLate p cid) s
  | _ => .next s

/-- `SYSTEM_ABORT`: system software aborts a communicator at one of its members (R349). -/
def execSystemAbort (s : State) : Host.Outcome State Fault Refusal :=
  match s.cur with
  | .systemAbort p cid => done (.seq (.enterBuilt p) (.read fun x => match x.memberComm p cid with
      | some c => .seq (.stopComm p cid c.part) (.initiateAbort p c.members c.part cid 4)
      | none => .skip)) s
  | _ => .next s

/-! ## Owners that have become dry (R127, R133, R349, R352) -/

/-- Answer the watches and listens whose owner has become dry to their issuer, and free their entries, those that the polder keeps for partitions that
have left it among them (R127, R133). -/
def Act.dryWatches (o : Loc) : Act :=
  .read fun s =>
    let gone := ((s.polder o).watches ++ (s.polder o).saves.flatMap fun v => v.watches).filter fun w => s.isDry w.reg.issuer o
    .seq (.polder o fun q => { q with
        watches := q.watches.filter fun w => !s.isDry w.reg.issuer o
        saves := q.saves.map fun v => { v with watches := v.watches.filter fun w => !s.isDry w.reg.issuer o } })
      (.each (gone.filter fun w => w.armed) fun w =>
        if w.reg.kind = .listen then .event 0 (.listenNotification w.reg.issuer.toPolder (w.handle o.toPolder) 0 true)
        else .event 0 (.watchSatisfactionArrival ⟨w.reg, w.handle o.toPolder, none⟩))

/-- Abort the communicators of a polder that have a member which is dry to it, and free what is held for that member (R349, R353). -/
def Act.dryComms (p : Loc) : Act :=
  .read fun s =>
    let lost (a : AmoSrc) : Bool := match a with
      | .polder d i => s.isDry p (Loc.polderOf d i)
      | _ => false
    .seq (.polder p fun q => { q with
        amoSlots := q.amoSlots.filter fun m => !lost m.src
        amoHeld := q.amoHeld.filter fun m => !lost (amoSource m.1 m.2.owner) })
      (.seq (.enterBuilt p) (.read fun t =>
        .each ((t.polder p).knownComms.filter fun c => !c.stopped && c.members.any fun m => t.isDry p (t.memberAt p m)) fun c =>
          .seq (.stopComm p c.cid c.part) (.initiateAbort p c.members c.part c.cid 2)))

/-- An owner has become dry: whoever waits on it is answered (R352). -/
def Act.sweepDry : Act :=
  .read fun s => Act.each s.polders fun x =>
    .seq (.dryWatches x.1) (.when ((s.device x.1).power && !(s.device x.1).dieDown.contains x.1.die) (.dryComms x.1))

end Sys2Proof.Machine
end

