-- ==== Sys2Proof/Machine/Slice.lean ====
section
/-! DEFINITION. The slice core: choosing events and starting handlers (spec/18 R362-R371), the base instructions (spec/10 R240, R241) and
the extension (R242-R252). A slice instruction's meaning acts on the running handler of the polder at `focus.l`. -/

namespace Sys2Proof.Machine

/-! ## Slice cycles (R364, R370) -/

/-- Slice cycles that a handler has run. -/
def State.elapsed (s : State) (p : Loc) (h : Handler) : Nat := (s.now - h.start) * (s.polder p).khz / 1400000

/-! ## The running handler -/

/-- Word `i` of the descriptor at entry. -/
def Handler.word (h : Handler) (i : Nat) : Nat := (h.desc.getD i 0#64).toNat
/-- The first byte of the handler's region. -/
def Handler.base (h : Handler) : Nat := 0x400 * bits (h.word 0) 7 0
/-- The end of the handler's region. -/
def Handler.limitOf (h : Handler) : Nat := h.base + 0x400 * bits (h.word 0) 15 8
/-- The partition of the handler's set. -/
def Handler.part (h : Handler) : Nat := bits (h.word 0) 59 56
/-- The PASID of the handler's set (R362). -/
def Handler.spasid (h : Handler) : Nat := bits (h.word 3) 19 0
/-- A register (R240). -/
def Handler.x (h : Handler) (r : BitVec 5) : Nat := (h.regs.getD r.toNat 0#32).toNat
/-- `n` bytes lie in the handler's region (R240). -/
def Handler.inRegion (h : Handler) (a n : Nat) : Bool := decide (h.base ≤ a) && decide (a + n ≤ h.limitOf)

/-- Change the running handler. -/
def Act.handler (p : Loc) (f : Handler → Handler) : Act := .polder p fun q => { q with handler := q.handler.map f }

/-- The work that a handler has on the agenda. -/
def isHandlerWork (p : Loc) (gen : Nat) : Work → Bool
  | .slice q g => q == p && g == gen
  | .event (.handlerBudgetExpiry q g) => q == p && g == gen
  | _ => false

/-- The handler is over: the next starts 8 slice cycles later (R364). -/
def Act.endHandler (p : Loc) (gen : Nat) : Act :=
  .read fun s => .all [
    .fx (.cancel (isHandlerWork p.toPolder gen)),
    .polder p fun q => { q with handler := none, handlerDue := true },
    .event (s.sliceTicks p 8) (.handlerStart p.toPolder)]

/-- KILLING A HANDLER: a record with the cause and the `pc` offset, counted in `slkill`; what it has performed stands (R371). -/
def Act.killHandler (p : Loc) (h : Handler) (cause : Nat) : Act :=
  .all [.recordFor p h.desc cause 0 h.pc, .count p 0x370, .endHandler p h.gen]

/-- A fetch or load of the handler meets an uncorrectable error: it is counted, and the handler is killed (R331, R371). -/
def Act.killPoisoned (p : Loc) (h : Handler) : Act := .seq (.count p 0x358) (.killHandler p h 7)

/-- The instruction retires: the handler is changed and goes on at `pc`, one slice cycle later (R240, R370). -/
def Act.retire (p : Loc) (h : Handler) (pc : Nat) (f : Handler → Handler) : Act :=
  .read fun s => .seq (.handler p fun x => { f x with pc := pc % 2 ^ 32, wait := false })
    (.fx (.sched (s.sliceTicks p 1) (.slice p.toPolder h.gen)))

/-- The instruction writes `rd` and the handler goes on behind its `n` bytes. -/
def Act.retireRd (p : Loc) (h : Handler) (n : Nat) (rd : BitVec 5) (v : Nat) : Act :=
  .retire p h (h.pc + n) fun x => { x with regs := setX x.regs rd.toNat v }

/-- Run a slice instruction on the running handler of the polder at `focus.l`. -/
def onHandler (k : Loc → Handler → State → Act) (s : State) : Host.Outcome State Fault Refusal :=
  match (s.polder s.focus.l).handler with
  | some h => done (k s.focus.l.toPolder h s) s
  | none => .next s

/-! ## Starting handlers (R362-R365, R369) -/

/-- Look at the descriptors: a set that has become invalid discards its pending events, and they are counted (R362). -/
def Act.refreshSets (p : Loc) : Act :=
  .read fun s =>
    let good := s.goodSets p
    let lost := (s.polder p).validSets.filter fun i => !good.contains i
    let n := ((s.polder p).events.filter fun e => lost.contains e.set).length
      + ((s.polder p).counterRegs.filter fun r => r.pending && lost.contains r.set).length
    .seq (.polder p fun q => { q with
        validSets := good
        events := q.events.filter fun e => !lost.contains e.set
        counterRegs := q.counterRegs.map fun r => if lost.contains r.set then { r with pending := false } else r })
      (Act.all (List.replicate n (.count p 0x368)))

/-- The pending events of a set: those that wait in queues, and those flagged on registrations (R368). -/
def PolderState.pendingOf (q : PolderState) (set : Nat) : List SliceEvent :=
  (q.events.filter fun e => e.set == set)
    ++ (q.counterRegs.filter fun r => r.pending && r.set == set).map fun r =>
      ⟨set, 1, r.order, r.hidx, true, r.home % 2 ^ 32, r.home / 2 ^ 32, r.id, none, 0⟩

/-- The oldest of some events. -/
def oldestOf : List SliceEvent → Option SliceEvent
  | [] => none
  | e :: es => match oldestOf es with
    | some f => if f.order < e.order then some f else some e
    | none => some e

/-- The oldest event of a set. One whose partition is about to leave the polder starts no handler (R346). -/
def State.setEvent (s : State) (p : Loc) (set : Nat) : Option SliceEvent :=
  let q := s.polder p
  if q.swapping.isSome && q.part == some (s.setPart p set) then none else oldestOf (q.pendingOf set)

/-- The set that is served next: in round-robin order the first that has something pending, the handler chain of the collectives being a fifth (R364,
R437). -/
def State.nextSet (s : State) (p : Loc) : Option Nat :=
  let q := s.polder p
  ((List.range 5).map fun i => (q.setTurn + 1 + i) % 5).find? fun set => if set = 4 then !q.chain.isEmpty else (s.setEvent p set).isSome

/-- An event leaves its queue or its flag. -/
def Act.takeEvent (p : Loc) (e : SliceEvent) : Act :=
  .polder p fun q => { q with
    setTurn := e.set
    events := q.events.filter fun x => x.order != e.order || x.set != e.set
    counterRegs := q.counterRegs.map fun r => if e.kind = 1 ∧ r.id = e.a3 then { r with pending := false } else r }

/-- The 80 bytes of the arrival area for a message: 16 header bytes, then the payload, zero beyond `len` (R365). -/
def arrivalBytes (m : Message) : List Byte :=
  sliceBytes (bytesOf 8 m.w0 ++ bytesOf 8 m.w1 ++ m.payload.flatMap fun w => bytesOf 8 w.toNat) 0 80

/-- The registers at entry: `sp` at the region's end and `a0` to `a3` by the event; all others zero (R365, R369). -/
def entryRegs (sp a0 a1 a2 a3 : Nat) : List (BitVec 32) :=
  (List.range 32).map fun i => BitVec.ofNat 32
    (if i = 2 then sp else if i = 10 then a0 else if i = 11 then a1 else if i = 12 then a2 else if i = 13 then a3 else 0)

/-- ENTERING A HANDLER at an offset (R364, R365, R369, R370). -/
def Act.enterHandler (p : Loc) (e : SliceEvent) (pc : Nat) : Act :=
  .read fun s =>
    let d := s.setDesc p e.set
    let base := s.setBase p e.set
    let gen := (s.polder p).handlerGen + 1
    let lim := bits (s.setWord p e.set 1) 13 0
    let regs := match e.msg with
      | some m => entryRegs (base + s.setLen p e.set) (0x100 + base) (bits m.w0 61 58) 0 (bits m.w1 47 24)
      | none => entryRegs (base + s.setLen p e.set) e.a0 e.a1 e.kind e.a3
    let h : Handler := { gen := gen, set := e.set, ev := e, desc := d, pc := pc, regs := regs, shi := 1#32, limit := lim, start := s.now,
                         replied := false, fetched := [], wait := false }
    .all [
      (match e.msg with
        | some m => .writePlace ⟨p.toPolder, 5, base + 0x100⟩ (arrivalBytes m)
        | none => .skip),
      .polder p fun q => { q with handler := some h, handlerGen := gen },
      .event (s.sliceTicks p lim) (.handlerBudgetExpiry p.toPolder gen),
      .fx (.sched 0 (.slice p.toPolder gen))]

/-- A handler of the chain runs in the slice core, for a time of its own within its limit of 512 slice cycles; what it does is done at its end (R437). -/
def Act.runChain (p : Loc) : Act :=
  .withFree fun n => .read fun s =>
    match (s.polder p).chain with
    | [] => .skip
    | w :: ws =>
      let d := s.sliceTicks p (Config.choice n % 512 + 1)
      .seq (.polder p fun q => { q with chain := ws, chainRun := some (w, s.now + d), setTurn := 4 })
        (.event d (match w with
          | none => .chunkStart p.toPolder
          | some cid => .chunkEnd p.toPolder cid))

/-- Choose events until one enters its handler; one whose table word is 0 is dropped and counted in `slnoent` (R365). -/
def Act.chooseEvent (p : Loc) : Nat → Act
  | 0 => .polder p fun q => { q with handlerDue := false }
  | n + 1 => .read fun s =>
    match (s.nextSet p).map fun set => (set == 4, s.setEvent p set) with
    | none => .polder p fun q => { q with handlerDue := false }
    | some (true, _) => .runChain p
    | some (false, none) => .polder p fun q => { q with handlerDue := false }
    | some (false, some e) =>
      let pc := if e.indexed then s.num (keyIn p.toPolder 5 (s.setBase p e.set + 4 * e.entry)) 4 else e.entry
      .seq (.takeEvent p e) (if e.indexed && pc == 0 then .seq (.count p 0x378) (Act.chooseEvent p n) else .enterHandler p e pc)

/-- Another start is still to come on the agenda. -/
def State.startPending (s : State) (p : Loc) : Bool :=
  s.agenda.any fun q => q.work == .event (.handlerStart p.toPolder)

/-- `HANDLER_START`: the descriptors are looked at, and unless a handler runs or a later start is due, the next event enters (R364). -/
def execHandlerStart (s : State) : Host.Outcome State Fault Refusal :=
  match s.cur with
  | .handlerStart p => done (.seq (.refreshSets p) (.read fun t =>
      .when ((t.polder p).handler.isNone && (t.polder p).chainRun.isNone && !t.startPending p)
        (.chooseEvent p ((t.polder p).events.length + (t.polder p).counterRegs.length + 1)))) s
  | _ => .next s

/-- `HANDLER_BUDGET_EXPIRY`: a handler whose `left` reaches 0 is killed with 0x10 (R370, R371). -/
def execHandlerBudgetExpiry (s : State) : Host.Outcome State Fault Refusal :=
  match s.cur with
  | .handlerBudgetExpiry p gen => done (match (s.polder p).handler with
      | some h => .when (h.gen == gen) (.killHandler p h 0x10)
      | none => .skip) s
  | _ => .next s

/-! ## Fetching a slice instruction (R240, R364) -/

/-- A byte of an instruction: as fetched before, or as it stands now. After a store, which of the two a fetch sees is left open until
`FENCE.I`; `old` says that it is the former. -/
def State.sliceByteAt (s : State) (p : Loc) (h : Handler) (old : Bool) (a : Nat) : Byte :=
  match h.fetched.find? fun c => c.1 == a with
  | some c => if old then c.2 else s.mem.get (keyIn p.toPolder 5 a)
  | none => s.mem.get (keyIn p.toPolder 5 a)

/-- The four bytes at the handler's `pc`, those beyond the region zero. -/
def State.sliceCode (s : State) (p : Loc) (h : Handler) (old : Bool) : List Byte :=
  (List.range 4).map fun i => if h.inRegion (h.pc + i) 1 then s.sliceByteAt p h old (h.pc + i) else 0#8

/-- Bytes of the instruction that starts with these. -/
def codeLen (bs : List Byte) : Nat := if (bs.getD 0 0#8).toNat % 4 = 3 then 4 else 2

/-- An uncorrectable error lies in the instruction bytes. -/
def State.codeError (s : State) (p : Loc) (h : Handler) (n : Nat) : Bool := s.eccHit (keyIn p.toPolder 5 h.pc) n

/-- Remember what was fetched. -/
def Act.noteFetch (p : Loc) (pc : Nat) (bs : List Byte) : Act :=
  let new := (List.range (codeLen bs)).map fun i => (pc + i, bs.getD i 0#8)
  .handler p fun x => { x with fetched := new ++ x.fetched.filter fun c => !(decide (pc ≤ c.1) && decide (c.1 < pc + codeLen bs)) }

/-- What a turn of the slice core does: nothing, a kill, or an instruction after an act. -/
inductive SliceTurn where
  | idle
  | act (a : Act)
  | run (a : Act) (i : Instr)

/-- The turn of handler `gen` (R240, R371): the instruction at its `pc`; one that waits for its line is the one fetched before. A fetch
outside the region, misaligned, or of a word with an uncorrectable error is an access fault. -/
def State.sliceTurn (s : State) (p : Loc) (gen : Nat) : SliceTurn :=
  match (s.polder p).handler with
  | none => .idle
  | some h =>
    if h.gen ≠ gen then .idle
    else
      let old := s.sliceCode p h true
      let new := s.sliceCode p h false
      let differ := !h.wait && old != new
      let bs := if h.wait then old else if differ && Config.choice s.free % 2 == 0 then old else new
      let n := codeLen bs
      if h.pc % 2 ≠ 0 || !h.inRegion h.pc n then .act (.killHandler p h 7)
      else if s.codeError p h n then .act (.killPoisoned p h)
      else .run (.all [.when differ (.fx .tickFree), .noteFetch p h.pc bs, .fx (.focus ⟨p.toPolder, 0, gen⟩)]) (decodeSlice (natOfBytes bs))

/-! ## Base instructions (R240, R241): RV32IMC as ratified -/

/-- An integer operation on 32-bit words, with the ratified results of division by zero and of its overflow. -/
def rvAlu (o : RvOp) (a b : BitVec 32) : BitVec 32 :=
  match o with
  | .add => a + b
  | .sub => a - b
  | .sll => a <<< (b.toNat % 32)
  | .slt => if a.toInt < b.toInt then 1#32 else 0#32
  | .sltu => if a.toNat < b.toNat then 1#32 else 0#32
  | .xor => a ^^^ b
  | .srl => a >>> (b.toNat % 32)
  | .sra => a.sshiftRight (b.toNat % 32)
  | .or => a ||| b
  | .and => a &&& b
  | .mul => a * b
  | .mulh => BitVec.ofInt 32 (a.toInt * b.toInt / 2 ^ 32)
  | .mulhsu => BitVec.ofInt 32 (a.toInt * (b.toNat : Int) / 2 ^ 32)
  | .mulhu => BitVec.ofNat 32 (a.toNat * b.toNat / 2 ^ 32)
  | .div => if b = 0#32 then BitVec.ofInt 32 (-1) else BitVec.ofInt 32 (a.toInt.tdiv b.toInt)
  | .divu => if b = 0#32 then BitVec.ofInt 32 (-1) else BitVec.ofNat 32 (a.toNat / b.toNat)
  | .rem => if b = 0#32 then a else BitVec.ofInt 32 (a.toInt.tmod b.toInt)
  | .remu => if b = 0#32 then a else BitVec.ofNat 32 (a.toNat % b.toNat)

/-- The condition of a branch. -/
def rvTaken (c : RvCond) (a b : BitVec 32) : Bool :=
  match c with
  | .beq => a == b
  | .bne => a != b
  | .blt => decide (a.toInt < b.toInt)
  | .bge => decide (b.toInt ≤ a.toInt)
  | .bltu => decide (a.toNat < b.toNat)
  | .bgeu => decide (b.toNat ≤ a.toNat)

/-- Bytes of a load. -/
def rvLoadSize : RvLoad → Nat
  | .lb => 1
  | .lbu => 1
  | .lh => 2
  | .lhu => 2
  | .lw => 4

/-- What a load makes of the bytes it read. -/
def rvLoaded (w : RvLoad) (v : Nat) : Nat :=
  match w with
  | .lb => wrapOf 32 (signedOf 8 v)
  | .lh => wrapOf 32 (signedOf 16 v)
  | _ => v

/-- Bytes of a store. -/
def rvStoreSize : RvStore → Nat
  | .sb => 1
  | .sh => 2
  | .sw => 4

/-- The value of a CSR that the slice core has: `shi` or `sbud` (R241). -/
def State.sliceCsr (s : State) (p : Loc) (h : Handler) (num : Nat) : Option Nat :=
  if num = 0x800 then some h.shi.toNat
  else if num = 0x801 then some ((h.limit - s.elapsed p h) % 2 ^ 14)
  else none

/-- A CSR access with source value `v`; `wr` says whether it writes. A CSR that does not exist, or a write to `sbud`, is illegal
(R241). -/
def Act.csrOp (p : Loc) (h : Handler) (n : Nat) (o : RvCsr) (rd : BitVec 5) (num v : Nat) (wr : Bool) : Act :=
  .read fun s =>
    match s.sliceCsr p h num with
    | none => .killHandler p h 1
    | some old =>
      let new := match o with
        | .rw => v
        | .rs => Nat.lor old v
        | .rc => Nat.land old (Nat.xor v (2 ^ 32 - 1))
      if wr && num == 0x801 then .killHandler p h 1
      else .retire p h (h.pc + n) fun x => { x with
        regs := setX x.regs rd.toNat old
        shi := if wr then BitVec.ofNat 32 (new % 256) else x.shi }

/-- A base instruction of `n` bytes (R240). A load or store outside the region, misaligned, or of a word with an uncorrectable error is
an access fault; `FENCE` orders accesses that this model performs in order; `FENCE.I` discards what was fetched. -/
def Act.base (n : Nat) (i : RvInstr) (p : Loc) (h : Handler) (s : State) : Act :=
  let x (r : BitVec 5) : BitVec 32 := BitVec.ofNat 32 (h.x r)
  let pcv : BitVec 32 := BitVec.ofNat 32 h.pc
  let rdv (rd : BitVec 5) (v : BitVec 32) : Act := .retireRd p h n rd v.toNat
  match i with
  | .lui rd imm => rdv rd (BitVec.ofNat 32 (imm.toNat * 2 ^ 12))
  | .auipc rd imm => rdv rd (pcv + BitVec.ofNat 32 (imm.toNat * 2 ^ 12))
  | .jal rd off => .retire p h (pcv + off).toNat fun y => { y with regs := setX y.regs rd.toNat (h.pc + n) }
  | .jalr rd rs1 off => .retire p h ((x rs1 + off).toNat / 2 * 2) fun y => { y with regs := setX y.regs rd.toNat (h.pc + n) }
  | .branch c rs1 rs2 off => .retire p h (if rvTaken c (x rs1) (x rs2) then (pcv + off).toNat else h.pc + n) id
  | .load w rd rs1 off =>
    let a := (x rs1 + off).toNat
    let k := rvLoadSize w
    if a % k ≠ 0 || !h.inRegion a k then .killHandler p h 7
    else if s.eccHit (keyIn p 5 a) k then .killPoisoned p h
    else .retireRd p h n rd (rvLoaded w (s.num (keyIn p 5 a) k))
  | .store w rs1 rs2 off =>
    let a := (x rs1 + off).toNat
    let k := rvStoreSize w
    if a % k ≠ 0 || !h.inRegion a k then .killHandler p h 7
    else .seq (.writePlace ⟨p, 5, a⟩ (bytesOf k (h.x rs2))) (.retire p h (h.pc + n) id)
  | .opImm o rd rs1 imm => rdv rd (rvAlu o (x rs1) imm)
  | .op o rd rs1 rs2 => rdv rd (rvAlu o (x rs1) (x rs2))
  | .fence => .retire p h (h.pc + n) id
  | .fenceI => .retire p h (h.pc + n) fun y => { y with fetched := [] }
  | .csr o rd num rs1 => .csrOp p h n o rd num.toNat (h.x rs1) (o == .rw || rs1 != 0#5)
  | .csrImm o rd num imm => .csrOp p h n o rd num.toNat imm.toNat (o == .rw || imm != 0#5)
  | .illegal => .killHandler p h 1

/-- `SLICE_BASE_INSTRUCTION` (R240): `short` says that it is two bytes long. -/
def execSliceBaseInstruction (short : Bool) (i : RvInstr) (s : State) : Host.Outcome State Fault Refusal :=
  onHandler (.base (if short then 2 else 4) i) s

/-! ## Home operands and their checks (R242, R245) -/

/-- The home address that a register forms with `shi` (R242). -/
def Handler.home (h : Handler) (r : BitVec 5) : Nat := h.shi.toNat % 256 * 2 ^ 32 + h.x r

/-- The place of a home address that the extension admits: a core memory in polder view, HBM, or an owned second-tier page (R242). -/
def State.slicePlace (s : State) (p : Loc) (a : Nat) : Option Place :=
  if a < 0x20000 then none
  else match homePlace p a with
    | some q => if q.space = 2 || q.space = 0 || (q.space = 1 && (s.tierKey q.owner q.off).isSome) then some q else none
    | none => none

/-- Check 3 of R245 on the 64-byte line of a place: a workspace, a range lock, or a pinned version (R322). -/
def State.sliceHeld (s : State) (p : Loc) (q : Place) : Bool :=
  let line : Place := { q with off := q.off / 64 * 64 }
  s.workspaceHit line 64 || s.pinHit line 64 || (match s.keyOf line with
    | some k => (s.lockHit p k 64 false).isSome
    | none => false)

/-- Wait for a home access of the polder itself: R330 with no hops, and a fresh granule's zeroing, which starts here unless it runs (R324). The
instruction is then taken up again. -/
def Act.awaitHome (p : Loc) (h : Handler) (q : Place) : Act :=
  .read fun s =>
    let m := memTerm q.space (match s.keyOf q with
      | some k => s.l2Hit q k
      | none => false)
    .all [.handler p fun x => { x with wait := true }, .fx (.sched (8 + 10 + m + 6 + s.freshWait q) (.slice p.toPolder h.gen)), .startZeroing q]

/-- The line that the slice core has used enters the slice, raising no event (R366). -/
def Act.quietUse (p : Loc) (q : Place) : Act :=
  .read fun s => .when (decide (q.space < 2)) (match s.keyOf q with
    | some k => .quietLine p (k / 64) 1
    | none => .skip)

/-! ## SLRD, SLWR and SGADV (R245, R246) -/

/-- A line that an `SLWR` writes: the gauges in it that a `GADV` of the same cycle has raised above what it brings keep their value, for the `GADV`
comes after it (R376). -/
def State.underRaised (s : State) (p : Loc) (q : Place) (bs : List Byte) : List Byte :=
  let k := (s.keyOf q).getD 0
  (s.polder p).raised.foldl (fun bs g =>
    if g.1 = s.now ∧ k ≤ g.2.1 ∧ g.2.1 < k + 64 ∧ numAt bs (g.2.1 - k) 8 < g.2.2 then
      bs.take (g.2.1 - k) ++ bytesOf 8 g.2.2 ++ bs.drop (g.2.1 - k + 8)
    else bs) bs

/-- A copy of a 64-byte line between handler memory and home memory: the checks, the wait, and the move (R245). -/
def Act.lineCopy (store : Bool) (rs2 rs1 rd : BitVec 5) (p : Loc) (h : Handler) (s : State) : Act :=
  let m := h.x rs1
  let home := h.home rs2 / 64 * 64
  let fail (c : Nat) : Act := .retireRd p h 4 rd c
  if m % 64 ≠ 0 || !h.inRegion m 64 then fail 3
  else match s.slicePlace p home with
    | none => fail 7
    | some q =>
      let near : Place := ⟨p, 5, m⟩
      if store && s.sliceHeld p q then fail 8
      else if !h.wait || s.unsettled q then .awaitHome p h q
      else if s.eccHit (if store then keyIn p 5 m else (s.keyOf q).getD 0) 64 then .seq (.count p 0x358) (fail 0x11)
      else .all [
        .read fun t => if store then .writePlace q (t.underRaised p q ((t.placeBytes near 64).getD [])) else .writePlace near ((t.placeBytes q 64).getD []),
        .quietUse p q,
        .retireRd p h 4 rd 0]

/-- `SLRD` (R245). -/
def execSlrd (rs2 rs1 rd : BitVec 5) (s : State) : Host.Outcome State Fault Refusal := onHandler (.lineCopy false rs2 rs1 rd) s
/-- `SLWR` (R245). -/
def execSlwr (rs2 rs1 rd : BitVec 5) (s : State) : Host.Outcome State Fault Refusal := onHandler (.lineCopy true rs2 rs1 rd) s

/-- A gauge advance by the slice core (R246). -/
def Act.sliceGauge (rs2 rs1 rd : BitVec 5) (p : Loc) (h : Handler) (s : State) : Act :=
  let a := h.home rs1
  let fin (c : Nat) : Act := .retireRd p h 4 rd c
  if a % 8 ≠ 0 then fin 3
  else match s.slicePlace p a with
    | none => fin 7
    | some q =>
      if s.sliceHeld p q then fin 8
      else if !h.wait || s.unsettled q then .awaitHome p h q
      else
        let k := (s.keyOf q).getD 0
        let g := s.num k 8
        if s.eccHit k 8 then .seq (.count p 0x358) (fin 0x11)
        else if h.x rs2 = 0 ∨ 2 ^ 64 ≤ g + h.x rs2 then fin 0x0B
        else .all [.writePlace q (bytesOf 8 (g + h.x rs2)), .quietUse p q, fin 0]

/-- `SGADV` (R246); its release orders accesses that this model performs in order. -/
def execSgadv (_g : Scope) (rs2 rs1 rd : BitVec 5) (s : State) : Host.Outcome State Fault Refusal := onHandler (.sliceGauge rs2 rs1 rd) s

/-! ## SSEND, SREPLY and SPULL (R247-R249) -/

/-- The message in handler memory as the interface sends it (R219, R247). -/
def State.sliceMessageOf (s : State) (p : Loc) (h : Handler) (a dest : Nat) : Message :=
  let bs := s.mem.bytes (keyIn p 5 a) 80
  let w0 := numAt bs 0 8
  let w1 := numAt bs 8 8
  let hb := bits w0 56 0
  let rwi := bits w1 13 0
  { dest := dest
    w0 := w0 / 2 ^ 57 * 2 ^ 57 + (if hb < 2 ^ 40 then imageBase h.part + p.pidx * 2 ^ 41 + hb else hb) % 2 ^ 57
    w1 := bits w1 63 48 * 2 ^ 48 + field (s.sliceTid p) 24 24 + field h.part 4 20 + rwi
    payload := (List.range (bits w0 61 58)).map fun i => w64 (numAt bs (16 + 8 * i) 8)
    pasid := h.spasid
    reply := if rwi = 0 then none else some ⟨p, 5, h.base + 8 * rwi⟩
    fwd := none }

/-- Messages that stand in the slice's interface (R247). -/
def State.sliceNetCount (s : State) (p : Loc) : Nat := ((s.polder p).sliceNet.filter fun t => decide (s.now < t)).length

/-- The status of an `SSEND` (R209, R219, R247). -/
def State.ssendStatus (s : State) (p : Loc) (h : Handler) (dest a : Nat) : Nat :=
  let bs := s.mem.bytes (keyIn p 5 a) 16
  let w0 := numAt bs 0 8
  let w1 := numAt bs 8 8
  let len := bits w0 61 58
  if tokenBad dest then 1
  else if a % 16 ≠ 0 || !h.inRegion a 16 then 3
  else if s.eccHit (keyIn p 5 a) 16 then 0x11
  else if bits w1 19 14 ≠ 0 ∨ 8 < len ∨ bits w0 4 0 ≠ 0 then 1
  else if !h.inRegion a (16 + 8 * len) then 3
  else if s.eccHit (keyIn p 5 a) (16 + 8 * len) then 0x11
  else if bits w1 13 0 ≠ 0 ∧ h.limitOf < h.base + 8 * bits w1 13 0 + 8 then 1
  else if 4 ≤ s.sliceNetCount p then 1
  else 0

/-- A message is sent, or its status says why not; the handler does not wait (R247). -/
def Act.sliceSend (rs2 rs1 rd : BitVec 5) (p : Loc) (h : Handler) (s : State) : Act :=
  let c := s.ssendStatus p h (h.x rs1) (h.x rs2)
  .all [
    .when (c == 0x11) (.count p 0x358),
    .when (c == 0) (.seq
      (.polder p fun q => { q with sliceNet := (s.now + 8 + s.sliceNetCount p) :: q.sliceNet.filter fun t => decide (s.now < t) })
      (.transmit p (s.sliceMessageOf p h (h.x rs2) (h.x rs1)))),
    .retireRd p h 4 rd c]

/-- `SSEND` (R247). -/
def execSsend (rs2 rs1 rd : BitVec 5) (s : State) : Host.Outcome State Fault Refusal := onHandler (.sliceSend rs2 rs1 rd) s

/-- `SREPLY`: once, and only for a message event with a reply word (R248). -/
def execSreply (rs1 : BitVec 5) (s : State) : Host.Outcome State Fault Refusal :=
  onHandler (fun p h _ => .seq
    (match h.ev.msg with
      | some m => .when (!h.replied) (.reply p m (h.x rs1 % 256))
      | none => .skip)
    (.retire p h (h.pc + 4) fun x => { x with replied := true })) s

/-- The status of an `SPULL`; its checks are those of an engine command of the polder under the set's PASID (R249). -/
def State.spullStatus (s : State) (p : Loc) (h : Handler) (a op : Nat) : Nat :=
  if a % 32 ≠ 0 || !h.inRegion a 32 then 3
  else if op < 1 ∨ 4 < op then 1
  else if s.eccHit (keyIn p 5 a) 32 then 0x11
  else
    let rec' := s.mem.bytes (keyIn p 5 a) 32
    let dst := numAt rec' 8 8
    let cwa := bits (numAt rec' 16 8) 63 24
    let c := (s.eq2Cause (engineAgent p) h.part h.spasid false op rec').1
    if c ≠ 0 then c
    else if (op ≠ 2 ∧ dst < 0x20000) ∨ (cwa ≠ 0 ∧ cwa < 0x20000) then 7
    else if 64 ≤ (s.polder p).xfers.length + (s.polder p).sliceQ.length then 1
    else 0

/-- The transfer of an `SPULL`: as if `st` = 1 (R249). -/
def State.spullXfer (s : State) (p : Loc) (h : Handler) (a op : Nat) : Xfer :=
  let rec' := s.mem.bytes (keyIn p 5 a) 32
  let x := eq2Parts op rec'
  let desc := numAt rec' 16 8
  { id := 0, origin := .slice h.set (s.sliceTid p), kind := x.1, src := x.2.1, dst := x.2.2.1, len := x.2.2.2, cls := bits desc 21 20,
    cwa := bits desc 63 24, st := true, pasid := h.spasid, part := h.part, sup := false, core := 0, issued := false,
    next := 0, flying := [], cause := 0, addr := 0, lock := none, got := [] }

/-- `SPULL` (R249). -/
def execSpull (rs2 rs1 rd : BitVec 5) (s : State) : Host.Outcome State Fault Refusal :=
  onHandler (fun p h t =>
    let c := t.spullStatus p h (h.x rs1) (h.x rs2)
    .all [
      .when (c == 0x11) (.count p 0x358),
      .when (c == 0) (.seq
        (.polder p fun q => { q with sliceQ := q.sliceQ ++ [t.spullXfer p h (h.x rs1) (h.x rs2)] })
        (.event 0 (.transferIssue p))),
      .retireRd p h 4 rd c]) s

/-! ## SCREG, SCARM and SCDRP (R250) -/

/-- The lowest free registration. -/
def PolderState.freeReg (q : PolderState) : Option Nat := (List.range 256).find? fun i => !q.counterRegs.any fun r => r.id == i

/-- `SCREG`: a handle, or all ones (R250). -/
def execScreg (rs2 rs1 rd : BitVec 5) (s : State) : Host.Outcome State Fault Refusal :=
  onHandler (fun p h t =>
    let a := h.home rs1
    match (t.polder p).freeReg, (t.slicePlace p a).bind t.keyOf with
    | some id, some k =>
      if a % 8 ≠ 0 ∨ 63 < h.x rs2 then .retireRd p h 4 rd (2 ^ 32 - 1)
      else .seq
        (.polder p fun q => { q with counterRegs := q.counterRegs ++ [⟨id, h.set, k, a, h.x rs2, true, false, 0⟩] })
        (.retireRd p h 4 rd id)
    | _, _ => .retireRd p h 4 rd (2 ^ 32 - 1)) s

/-- The registration that a handle of the current set names. -/
def PolderState.regOf (q : PolderState) (h : Handler) (v : Nat) : Option CounterReg :=
  q.counterRegs.find? fun r => r.id == v && r.set == h.set

/-- The granule of a registered counter is fresh or being zeroed: its place (R324). -/
def State.freshCounter (s : State) (p : Loc) (r : CounterReg) : Option Place := (s.slicePlace p r.home).filter fun q => s.unsettled q

/-- `SCARM`: re-arms; a counter that already holds 0 starts the handler as a new event, once its granule is zero (R250, R324). -/
def execScarm (rs1 rd : BitVec 5) (s : State) : Host.Outcome State Fault Refusal :=
  onHandler (fun p h t =>
    match (t.polder p).regOf h (h.x rs1) with
    | none => .retireRd p h 4 rd 1
    | some r => match t.freshCounter p r with
     | some q => .awaitHome p h q
     | none =>
      let zero := t.num r.key 8 == 0
      .seq
        (.polder p fun q => { q with
          eventOrder := q.eventOrder + 1
          counterRegs := q.counterRegs.map fun x =>
            if x.id = r.id then
              (if zero then { x with armed := false, pending := true, order := if x.pending then x.order else q.eventOrder }
              else { x with armed := true })
            else x })
        (.retireRd p h 4 rd 0)) s

/-- `SCDRP`: frees the handle (R250). -/
def execScdrp (rs1 rd : BitVec 5) (s : State) : Host.Outcome State Fault Refusal :=
  onHandler (fun p h t =>
    match (t.polder p).regOf h (h.x rs1) with
    | none => .retireRd p h 4 rd 1
    | some r => .seq (.polder p fun q => { q with counterRegs := q.counterRegs.filter fun x => x.id != r.id }) (.retireRd p h 4 rd 0)) s

/-! ## SAMO (R251) -/

/-- The operands of an atomic of the slice core as `amoNew` takes them: `CAS` expects x[rd] and writes x[rs2] (R251). -/
def samoOperands (o : AmoOp) (rs2 rd : Nat) : Nat × Nat := if o = .cas then (rd, rs2) else (rs2, rd)

/-- An atomic of the slice core: its checks, and the packet that enters the atomic unit; the handler waits at the instruction for
its answer (R251, R371, R372). -/
def Act.sliceAtomic (o : AmoOp) (rs2 rs1 rd : BitVec 5) (p : Loc) (h : Handler) (s : State) : Act :=
  let a := h.home rs1
  let n := if o = .decz then 8 else 4
  let fail : Act := .retireRd p h 4 rd (2 ^ 32 - 1)
  match s.slicePlace p a with
  | none => fail
  | some q =>
    if a % n ≠ 0 || s.sliceHeld p q then fail
    else .seq (.handler p fun x => { x with wait := true })
      (.event 0 (.atomicPacketArrival ⟨.slice, o, .relaxed, o != .decz, (samoOperands o (h.x rs2) (h.x rd)).1, (samoOperands o (h.x rs2) (h.x rd)).2, a, .handler p h.gen rd.toNat⟩ q))

/-- `SAMO.ADD` (R251). -/
def execSamoAdd (rs2 rs1 rd : BitVec 5) (s : State) : Host.Outcome State Fault Refusal := onHandler (.sliceAtomic .add rs2 rs1 rd) s
/-- `SAMO.AND` (R251). -/
def execSamoAnd (rs2 rs1 rd : BitVec 5) (s : State) : Host.Outcome State Fault Refusal := onHandler (.sliceAtomic .and rs2 rs1 rd) s
/-- `SAMO.OR` (R251). -/
def execSamoOr (rs2 rs1 rd : BitVec 5) (s : State) : Host.Outcome State Fault Refusal := onHandler (.sliceAtomic .or rs2 rs1 rd) s
/-- `SAMO.XOR` (R251). -/
def execSamoXor (rs2 rs1 rd : BitVec 5) (s : State) : Host.Outcome State Fault Refusal := onHandler (.sliceAtomic .xor rs2 rs1 rd) s
/-- `SAMO.MIN` (R251). -/
def execSamoMin (rs2 rs1 rd : BitVec 5) (s : State) : Host.Outcome State Fault Refusal := onHandler (.sliceAtomic .min rs2 rs1 rd) s
/-- `SAMO.MAX` (R251). -/
def execSamoMax (rs2 rs1 rd : BitVec 5) (s : State) : Host.Outcome State Fault Refusal := onHandler (.sliceAtomic .max rs2 rs1 rd) s
/-- `SAMO.MINN` (R251). -/
def execSamoMinn (rs2 rs1 rd : BitVec 5) (s : State) : Host.Outcome State Fault Refusal := onHandler (.sliceAtomic .minn rs2 rs1 rd) s
/-- `SAMO.MAXN` (R251). -/
def execSamoMaxn (rs2 rs1 rd : BitVec 5) (s : State) : Host.Outcome State Fault Refusal := onHandler (.sliceAtomic .maxn rs2 rs1 rd) s
/-- `SAMO.SWAP` (R251). -/
def execSamoSwap (rs2 rs1 rd : BitVec 5) (s : State) : Host.Outcome State Fault Refusal := onHandler (.sliceAtomic .swap rs2 rs1 rd) s
/-- `SAMO.CAS` (R251). -/
def execSamoCas (rs2 rs1 rd : BitVec 5) (s : State) : Host.Outcome State Fault Refusal := onHandler (.sliceAtomic .cas rs2 rs1 rd) s
/-- `SAMO.DECZ` (R251). -/
def execSamoDecz (rs2 rs1 rd : BitVec 5) (s : State) : Host.Outcome State Fault Refusal := onHandler (.sliceAtomic .decz rs2 rs1 rd) s

/-! ## STLIM and SHEND (R252) -/

/-- `STLIM`: the limit moves within the ceiling; a handler that has already used it up is killed at once (R252). -/
def execStlim (rs1 rd : BitVec 5) (s : State) : Host.Outcome State Fault Refusal :=
  onHandler (fun p h t =>
    let lim := min (max (h.x rs1) 1) (ceilingOf (h.word 1))
    if lim ≤ t.elapsed p h then .killHandler p h 0x10
    else .all [
      .fx (.cancel fun w => w == .event (.handlerBudgetExpiry p h.gen)),
      .event (h.start + t.sliceTicks p lim - t.now) (.handlerBudgetExpiry p h.gen),
      .retire p h (h.pc + 4) fun x => { x with limit := lim, regs := setX x.regs rd.toNat h.limit }]) s

/-- `SHEND`: the handler ends, and the next event is taken 8 slice cycles later (R252, R364). -/
def execShend (s : State) : Host.Outcome State Fault Refusal := onHandler (fun p h _ => .endHandler p h.gen) s

end Sys2Proof.Machine
end

