-- ==== Sys2Proof/Machine/Host.lean ====
section
/-! DEFINITION. The host port (spec/24 R447-R452, R456): queue interfaces, request packets, completions and interrupt messages. The steps
that the host or system software takes stand on the agenda when they are due; nothing inside the machine puts them there. -/

namespace Sys2Proof.Machine

/-! ## Configuration (R448) -/

/-- Word `i` of a configuration. -/
def cfgWord (cfg : List W64) (i : Nat) : Nat := (cfg.getD i 0#64).toNat
/-- The partition of an interface. -/
def cfgPart (cfg : List W64) : Nat := bits (cfgWord cfg 0) 62 59
/-- The target polder of an interface's packets. -/
def cfgPolder (d : Loc) (cfg : List W64) : Loc := Loc.polderOf d.dev (bits (cfgWord cfg 0) 43 35)
/-- Entries of the submission ring. -/
def cfgSlots (cfg : List W64) : Nat := 2 ^ bits (cfgWord cfg 1) 4 0
/-- The host address of the submission ring. -/
def cfgRing (cfg : List W64) : Nat := bits (cfgWord cfg 1) 63 6 * 64
/-- Entries of the completion ring (R449). -/
def cfgDone (cfg : List W64) : Nat := 2 ^ (bits (cfgWord cfg 2) 3 0 + 1)
/-- The host address of the completion ring. -/
def cfgDoneRing (cfg : List W64) : Nat := bits (cfgWord cfg 2) 63 4 * 16

/-- An interface that nothing has configured. -/
def HostQueue.initial (q : Nat) : HostQueue :=
  { q := q, cfg := List.replicate 4 0#64, sqt := 0, sqh := 0, cqh := 0, cqt := 0, held := 0, phase := true, flying := 0, err := false,
    pass := 0 }

/-- An interface of a device. -/
def DeviceState.queue (d : DeviceState) (q : Nat) : HostQueue := (d.queues.find? fun x => x.q == q).getD (HostQueue.initial q)

/-- A device with one interface replaced; a queue that becomes non-empty takes the virtual time (R412). -/
def DeviceState.setQueue (d : DeviceState) (x : HostQueue) : DeviceState :=
  let was := d.busyQueues.any fun y => y.1 == x.q
  let y : HostQueue := if !was && hostQueueReady x then { x with pass := max x.pass d.virtualTime } else x
  { d with queues := y :: d.queues.filter fun z => z.q != x.q }

/-- Change an interface, and let the dispatcher look. -/
def Act.queue (d : Loc) (q : Nat) (f : HostQueue → HostQueue) : Act :=
  .seq (.device d fun x => x.setQueue (f (x.queue q))) (.kickDispatch d)

/-- BAR 2 and, for the mailbox and `podpos`, BAR 0 answer: the function is enumerable (R459 step 5). -/
def DeviceState.enumerable (d : DeviceState) : Bool := d.power && decide (5 ≤ d.broughtUp)
/-- BAR 0 admits every write (R459 step 6). -/
def DeviceState.open (d : DeviceState) : Bool := d.enumerable && d.posWritten

/-! ## Doorbells (R449) -/

/-- The word that a notify page shows at an offset: `sqt` is written only, and reads zero (R5, R449). -/
def HostQueue.notifyWord (x : HostQueue) (o : Nat) : Nat :=
  if o = 4 then x.cqh else if o = 8 then field (boolNat x.err) 1 1 + field (boolNat (bit (cfgWord x.cfg 0) 63)) 1 0 else 0

/-- Completions that a head write consumes: one that leaves the head in place while the ring is full has consumed them all (R449). -/
def headSteps (x : HostQueue) (v : Nat) : Nat :=
  let n := cfgDone x.cfg
  let k := (v % 2 ^ 16 + n - x.cqh % n) % n
  min x.held (if k = 0 ∧ x.held = n then n else k)

/-- A tail and a head written to a notify page (R449). -/
def HostQueue.tailTo (x : HostQueue) (v : Nat) : HostQueue := { x with sqt := v % 2 ^ 16 % cfgSlots x.cfg }
/-- The completion head of an interface is written (R449). -/
def HostQueue.headTo (x : HostQueue) (v : Nat) : HostQueue := { x with cqh := v % 2 ^ 16, held := x.held - headSteps x v }

/-- A host access is 4 or 8 bytes long, naturally aligned, and within its BAR (R447). -/
def accessOk (off size bar : Nat) : Bool := (size == 4 || size == 8) && off % size == 0 && decide (off + size ≤ bar)

/-- A host access that completes with Unsupported Request (R447). -/
def Act.unsupported (d : Loc) : Act := .device d fun x => { x with unsupported := x.unsupported + 1 }

/-- A write of BAR 2 by the host: `off` bytes into it, of `size` bytes. Eight bytes at the tail write the tail and the head; what no field takes is
discarded (R5, R447, R449). -/
def Act.notifyWrite (d : Loc) (off size v : Nat) : Act :=
  .read fun s =>
    let q := off / 0x1000
    if !(s.device d).enumerable then .skip
    else if !accessOk off size (2 ^ 24) then .unsupported d
    else if off % 0x1000 = 0 then .queue d q fun x => if size = 8 then (x.tailTo v).headTo (v / 2 ^ 32) else x.tailTo v
    else if off % 0x1000 = 4 then .queue d q fun x => x.headTo v
    else .skip

/-- `SUBMISSION_TAIL_WRITE`: the host writes BAR 2 (R449). -/
def execSubmissionTailWrite (s : State) : Host.Outcome State Fault Refusal :=
  match s.cur with
  | .submissionTailWrite d off size v => done (.notifyWrite d off size v) s
  | _ => .next s
/-- `COMPLETION_HEAD_WRITE`: the host writes BAR 2 (R449). -/
def execCompletionHeadWrite (s : State) : Host.Outcome State Fault Refusal :=
  match s.cur with
  | .completionHeadWrite d off size v => done (.notifyWrite d off size v) s
  | _ => .next s

/-! ## Completions (R451, R452, R456) -/

/-- Send the message of a remap entry (R456). -/
def Act.interrupt (d : Loc) (w0 w1 : W64) : Act := .device d fun x => { x with irqs := x.irqs ++ [(bits w0.toNat 63 2 * 4, bits w1.toNat 31 0)] }

/-- A raise of a remap entry by an interface of a partition; one in the cycle in which an unmasking has sent a message coalesces with it (R456). -/
def Act.raiseEntry (d : Loc) (part i : Nat) : Act :=
  .read fun s => match (s.device d).remap.find? fun e => e.1 == i with
    | none => .skip
    | some (_, w0, w1) =>
      if bits w1.toNat 38 35 ≠ part || !bit w1.toNat 32 || (s.device d).unmasked.contains (i, s.now) then .skip
      else if bit w1.toNat 33 then
        .device d fun x => { x with remap := x.remap.map fun e => if e.1 = i then (i, w0, w1 ||| 0x400000000#64) else e }
      else .interrupt d w0 w1

/-- `REMAP_UNMASK`: a held message is sent once (R456). -/
def Act.unmask (d : Loc) (i : Nat) : Act :=
  .read fun s => match (s.device d).remap.find? fun e => e.1 == i with
    | none => .skip
    | some (_, w0, w1) => .seq
        (.device d fun x => { x with remap := x.remap.map fun e => if e.1 = i then (i, w0, w1 &&& 0xFFFFFFF9FFFFFFFF#64) else e })
        (.when (bit w1.toNat 34) (.seq (.interrupt d w0 w1)
          (.device d fun x => { x with unmasked := (i, s.now) :: x.unmasked.filter fun u => u.2 == s.now })))

/-- `REMAP_UNMASK` (R456). -/
def execRemapUnmask (s : State) : Host.Outcome State Fault Refusal :=
  match s.cur with
  | .remapUnmask d i => done (.when (s.device d).open (.unmask d i)) s
  | _ => .next s

/-- The 16 bytes of a completion entry (R451). -/
def completionBytes (tag status value : Nat) (phase : Bool) : List Byte :=
  bytesOf 8 (field value 32 32 + field status 12 16 + field tag 16 0) ++ bytesOf 8 (boolNat phase)

/-- THE WORK OF A PACKET COMPLETES: the completion entry, then the interrupt message; an entry that the host refuses stops the interface
(R449, R452). The interface is that of the packet's fetch. -/
def Act.workComplete (d : Loc) (t : HostTag) (status value : Nat) : Act :=
  .read fun s =>
    match (s.device d).works.find? fun w => w.tag == t with
    | none => .skip
    | some w =>
      let x := (s.device d).queue t.q
      let n := cfgDone w.cfg
      let a := cfgDoneRing w.cfg + 16 * (x.cqt % n)
      let gone : Act := .device d fun y => { y with works := y.works.filter fun z => z.tag != t }
      if x.err || Config.hostRefuses (bits (cfgWord w.cfg 3) 19 0) a then
        .all [gone, .queue d t.q fun y => { y with err := true, flying := y.flying - 1 }]
      else .all [
        .each ((List.range 16).zip (completionBytes t.tag status value x.phase)) fun b => .fx (.hostByte (a + b.1) b.2),
        gone,
        .queue d t.q (fun y => { y with
          cqt := (x.cqt + 1) % n, phase := if x.cqt % n + 1 = n then !y.phase else y.phase, held := y.held + 1, flying := y.flying - 1 }),
        .raiseEntry d (cfgPart w.cfg) ((bits (cfgWord w.cfg 0) 29 16 + t.vec) % 16384)]

/-- `HOST_WORK_COMPLETE` (R452). -/
def execHostWorkComplete (s : State) : Host.Outcome State Fault Refusal :=
  match s.cur with
  | .hostWorkComplete d t status value => done (.workComplete d t status value) s
  | _ => .next s

/-! ## PACKET_FETCH (R449, R450, R458) -/

/-- The mesh address of the PASID-table entry of a partition, by the first polder of a device that has the table (R454). -/
def State.pasidEntries (s : State) (d : Loc) (part pasid : Nat) : List Nat :=
  ((s.polders.filter fun x => x.1.dev == d.dev && areaWord x.2 part 4 != 0).map fun x => areaWord x.2 part 4 + 8 * pasid).eraseDups

/-- The PASID is marked revoked in a table of the device (R458). -/
def State.pasidRevoked (s : State) (d : Loc) (part pasid : Nat) : Bool :=
  (s.pasidEntries d part pasid).any fun a => match s.keyOf (s.meshPlace d.dev a) with
    | some k => bit (s.num k 8) 62
    | none => false

/-- The packet is malformed (R450). -/
def packetBad (ws : List W64) : Bool :=
  let w := cfgWord ws
  let opc := bits (w 0) 7 0
  bits (w 0) 63 52 != 0 || bits (w 1) 63 57 != 0 || decide (5 < opc) || bits (w 1) 4 0 != 0 || (decide (4 ≤ opc) && w 4 == 0)

/-- The code with which a packet completes before any work: 2 BADPKT, 1 REVOKED, 4 FOREIGN; 0 if it begins (R450, R451, R458). -/
def State.packetCode (s : State) (d : Loc) (cfg ws : List W64) : Nat :=
  let p := cfgPolder d cfg
  if packetBad ws then 2
  else if s.pasidRevoked d (cfgPart cfg) (bits (cfgWord ws 0) 51 32) then 1
  else if bits (cfgWord ws 0) 7 0 ≠ 0 ∧ (384 ≤ p.pidx ∨ (s.polder p).part ≠ some (cfgPart cfg)) then 4
  else 0

/-- The step of a packet by its `opc` (R450). -/
def packetEvent (d : Loc) (q : Nat) (ws : List W64) : Event :=
  match bits (cfgWord ws 0) 7 0 with
  | 0 => .hostNop d q ws
  | 1 => .hostRun d q ws
  | 2 => .hostLaunch d q ws
  | 3 => .hostWait d q ws
  | 4 => .hostCopyin d q ws
  | _ => .hostCopyout d q ws

/-- The packet at the head of an interface's ring is fetched; the model gives it a number, which stands above its tag. A `LAUNCH` that
goes on to place groups advances the pass by them (R412), any other packet by one. -/
def Act.fetchPacket (d : Loc) (q : Nat) : Act :=
  .read fun s =>
    let x := (s.device d).queue q
    let a := cfgRing x.cfg + 64 * x.sqh
    if !hostQueueReady x then .skip
    else if Config.hostRefuses (bits (cfgWord x.cfg 3) 19 0) a then .queue d q fun y => { y with err := true }
    else
      let bs := s.hostMem.bytes a 64
      let ws := (List.range 8).map fun i => w64 (numAt bs (8 * i) 8)
      let w0 := cfgWord ws 0
      let t : HostTag := ⟨q, (s.device d).packets * 2 ^ 16 + bits w0 31 16, bits w0 15 8⟩
      let work : HostWork := { tag := t, pasid := bits w0 51 32, part := cfgPart x.cfg, gen := (s.device d).revokeGen, cfg := x.cfg,
                               src := 0, dst := 0, left := 0 }
      let code := s.packetCode d x.cfg ws
      .all [
        .device d fun y => { y with packets := y.packets + 1, works := y.works ++ [work] },
        .device d fun y => y.setQueue { y.queue q with flying := x.flying + 1, sqh := (x.sqh + 1) % cfgSlots x.cfg },
        .when (!(code == 0 && bits w0 7 0 == 2)) (.device d fun y => y.advance q 1),
        (if code ≠ 0 then .event 0 (.hostWorkComplete d t (hostStatus 0 code) 0)
        else .event 0 (packetEvent d q (ws ++ [w64 t.tag, w64 t.vec, 0#64]))),
        .kickDispatch d]

/-- `PACKET_FETCH` (R449). -/
def execPacketFetch (s : State) : Host.Outcome State Fault Refusal :=
  match s.cur with
  | .packetFetch d q => done (.fetchPacket d q) s
  | _ => .next s

/-! ## The packets (R450) -/

/-- The completion address of a packet on its way. -/
def packetTag (q : Nat) (pkt : List W64) : HostTag := ⟨q, cfgWord pkt 8, cfgWord pkt 9⟩

/-- Complete a packet with a code. -/
def Act.packetDone (d : Loc) (t : HostTag) (status : Nat) : Act := .event 0 (.hostWorkComplete d t status 0)

/-- Go on with a packet's work, if the packet is known. -/
def Act.onPacket (d : Loc) (q : Nat) (pkt : List W64) (k : State → HostWork → Act) : Act :=
  .read fun s => match (s.device d).works.find? fun w => w.tag == packetTag q pkt with
    | some w => k s w
    | none => .skip

/-- `HOST_NOP` (R450). -/
def execHostNop (s : State) : Host.Outcome State Fault Refusal :=
  match s.cur with
  | .hostNop d q pkt => done (.onPacket d q pkt fun _ w => .packetDone d w.tag 0) s
  | _ => .next s

/-- The code of a failure before the work began: XLATE for a translation, else REFUSED (R450, R451). -/
def failCode (cause : Nat) : Nat := if cause = 4 ∨ cause = 5 then 3 else 5

/-- `HOST_RUN`: a task record of `kind` 0 goes to the target core's deque, held back while there is no room (R450). -/
def Act.runPacket (d : Loc) (pkt : List W64) (w : HostWork) : Act :=
  let cfg := w.cfg
  let p := cfgPolder d cfg
  let c : Loc := { p with core := bits (cfgWord cfg 0) 34 32 }
  let words := [w64 (field (bits (cfgWord cfg 0) 58 57) 2 60 + bits (cfgWord pkt 1) 56 0), 0#64] ++ (pkt.drop 2).take 6
  .seq (.polder p fun q => { q with groups := q.groups ++ [⟨c, 0, ⟨words, 0, w.pasid, .host w.tag⟩, w.part⟩] })
    (.event 0 (.launchGroupPlacement p))

/-- `HOST_RUN` (R450). -/
def execHostRun (s : State) : Host.Outcome State Fault Refusal :=
  match s.cur with
  | .hostRun d q pkt => done (.onPacket d q pkt fun _ w => .runPacket d pkt w) s
  | _ => .next s

/-- A virtual address in the form of R21. -/
def isVirtual (a : Nat) : Bool := decide (2 ^ 40 ≤ a) && decide (a < 2 ^ 57)

/-- `HOST_LAUNCH`: the record is read and checked, and the launch starts, or its watch is registered (R450, R224). -/
def Act.launchPacket (d : Loc) (q : Nat) (pkt : List W64) (s : State) (w : HostWork) : Act :=
  let l := cfgPolder d w.cfg
  let a := cfgWord pkt 2
  let read (i : Nat) : Except Nat (List Byte) :=
    if isVirtual a then s.readNow ⟨l, w.part, w.pasid, a + 64 * i, 64, false, .line 0 0, false⟩ else .error 4
  let slow : Act := .device d fun y => y.advance q 1
  .seq (.seq (.walkNow l w.part w.pasid a) (.walkNow l w.part w.pasid (a + 64))) <| match read 0, read 1 with
  | .error c, _ => .seq slow (.packetDone d w.tag (hostStatus 0 (failCode c)))
  | _, .error c => .seq slow (.packetDone d w.tag (hostStatus 0 (failCode c)))
  | .ok b0, .ok b1 =>
    let bs := b0 ++ b1
    let r : LaunchRec := { s.launchRec l bs with pasid := w.pasid, part := w.part, crec := 0, sig := 0, host := some w.tag }
    if s.launchCause l bs ≠ 0 then .seq slow (.packetDone d w.tag (hostStatus 0 5))
    else if r.ind then
      let words := (List.range 16).map (fun i => numAt bs (8 * i) 8) ++ [0, w.tag.q, w.tag.tag, w.tag.vec]
      let g : WatchReg := ⟨l, 0, 0, .launch, r.thr, 0, w.pasid, w.part, r.gauge, words⟩
      .seq slow (if r.gauge % 8 ≠ 0 then .packetDone d w.tag (hostStatus 0 5)
        else .submit ⟨l, w.part, w.pasid, r.gauge, 8, false, .watch g, false⟩)
    else .seq (.when (r.groups == 0) slow) (.startLaunch q r)

/-- `HOST_LAUNCH` (R450). -/
def execHostLaunch (s : State) : Host.Outcome State Fault Refusal :=
  match s.cur with
  | .hostLaunch d q pkt => done (.onPacket d q pkt fun t w => .launchPacket d q pkt t w) s
  | _ => .next s

/-- `HOST_WAIT`: a registration at the owner of the word (R450). -/
def Act.waitPacket (d : Loc) (pkt : List W64) (w : HostWork) : Act :=
  let l := cfgPolder d w.cfg
  let a := cfgWord pkt 2
  let g : WatchReg := ⟨l, 0, 0, .hostWait, 0, 0, w.pasid, w.part, a, [w.tag.q, w.tag.tag, w.tag.vec]⟩
  if !isVirtual a then .packetDone d w.tag (hostStatus 0 3)
  else if a % 8 ≠ 0 then .packetDone d w.tag (hostStatus 0 5)
  else .submit ⟨l, w.part, w.pasid, a, 8, false, .watch g, false⟩

/-- `HOST_WAIT` (R450). -/
def execHostWait (s : State) : Host.Outcome State Fault Refusal :=
  match s.cur with
  | .hostWait d q pkt => done (.onPacket d q pkt fun _ w => .waitPacket d pkt w) s
  | _ => .next s

/-- The transfer of one part of a host copy at the owner's engine. -/
def hostXfer (d : Loc) (w : HostWork) (kind : XferKind) (src dst n : Nat) : Xfer :=
  { id := 0, origin := .host d.dev w.tag.q w.tag.tag w.tag.vec, kind := kind, src := src, dst := dst, len := n, cls := 1, cwa := 0, st := true,
    pasid := w.pasid, part := w.part, sup := false, core := 0, issued := false, next := 0, flying := [], cause := 0, addr := 0,
    lock := none, got := [] }

/-- One part of a host copy, within a 4 KiB page of the device address: the page is translated under the packet's PASID, and the owner's
engine moves the bytes. A failure of the first translation is XLATE; a later failure, a device that the partition is not admitted to, an owner that is dry, or a page that is not core
memory, HBM or the second tier ends the copy with its status bits (R450, R451). -/
def Act.copyPacket (toDevice : Bool) (d : Loc) (pkt : List W64) (s : State) (w : HostWork) : Act :=
  let l := cfgPolder d w.cfg
  let src := cfgWord pkt 2
  let dst := cfgWord pkt 3
  let left := cfgWord pkt 4
  let begun := cfgWord pkt 10 ≠ 0
  let va := if toDevice then dst else src
  let n := min left (0x1000 - va % 0x1000)
  if left = 0 then .packetDone d w.tag 0
  else .seq (.walkNow l w.part w.pasid va) <| match if isVirtual va then s.resolve l w.part w.pasid false va false else .error 4 with
    | .error c => .packetDone d w.tag (if begun then hostStatus 1 0 else hostStatus 0 (failCode c))
    | .ok p =>
      if !s.routed l p.owner w.part then .packetDone d w.tag (hostStatus 1 0)
      else if s.isDry l p.owner then .packetDone d w.tag (hostStatus 2 0)
      else if 3 ≤ p.space then .packetDone d w.tag (hostStatus 1 0)
      else .all [
        .device d fun y => { y with works := y.works.map fun z =>
          if z.tag = w.tag then { z with src := (src + n) % 2 ^ 64, dst := (dst + n) % 2 ^ 64, left := left - n } else z },
        .polder p.owner fun q => { q with internalQ := q.internalQ ++
          [if toDevice then hostXfer d w .host src (placeHome p) n else hostXfer d w (.gather 0) (placeHome p) dst n] },
        .event 0 (.transferIssue p.owner.toPolder)]

/-- `HOST_COPYIN` (R450). -/
def execHostCopyin (s : State) : Host.Outcome State Fault Refusal :=
  match s.cur with
  | .hostCopyin d q pkt => done (.onPacket d q pkt fun t w => .copyPacket true d pkt t w) s
  | _ => .next s

/-- `HOST_COPYOUT` (R450). -/
def execHostCopyout (s : State) : Host.Outcome State Fault Refusal :=
  match s.cur with
  | .hostCopyout d q pkt => done (.onPacket d q pkt fun t w => .copyPacket false d pkt t w) s
  | _ => .next s

end Sys2Proof.Machine
end

