-- ==== Sys2Proof/Machine/Integer.lean ====
section
/-! DEFINITION. Constants, routing, integer arithmetic, comparisons, addresses and bit fields (spec/04 R77-R95). -/

namespace Sys2Proof.Machine

/-! ## Arithmetic (R87-R90) -/

/-- Number of leading zero bits of the low `w` bits of `v`, from bit `w - 1` down. -/
def clzFrom : Nat → Nat → Nat
  | 0, _ => 0
  | w + 1, v => if bit v w then 0 else 1 + clzFrom w v
/-- Number of trailing zero bits, looking at `w` bits from bit `i` up. -/
def ctzFrom : Nat → Nat → Nat → Nat
  | 0, _, _ => 0
  | w + 1, i, v => if bit v i then 0 else 1 + ctzFrom w (i + 1) v
/-- Number of one bits among the low `w`. -/
def popFrom : Nat → Nat → Nat
  | 0, _ => 0
  | w + 1, v => boolNat (bit v w) + popFrom w v

/-- The signed value clamped to `w` bits (R87). -/
def clampOf (w : Nat) (v : Int) : Nat := wrapOf w (max (-(2 ^ (w - 1) : Int)) (min v (2 ^ (w - 1) - 1)))

/-- Truncating division and its two special cases at width `w` (R89, R90). -/
def divOf (w : Nat) (signed : Bool) (l r : Nat) : Nat :=
  if r = 0 then 2 ^ w - 1
  else if signed then wrapOf w (Int.tdiv (signedOf w l) (signedOf w r))
  else l / r
/-- The remainder, with the sign of the dividend (R89). -/
def remOf (w : Nat) (signed : Bool) (l r : Nat) : Nat :=
  if r = 0 then l
  else if signed then wrapOf w (Int.tmod (signedOf w l) (signedOf w r))
  else l % r

/-- The result of a member at width `w` on operands below `2^w`; `amt` is the whole of the `.r` token, which shifts
and rotations take (R87, R88, R90). -/
def iopAt (o : Iop) (w l r amt : Nat) : Nat :=
  let m := 2 ^ w
  match o with
  | .add => (l + r) % m
  | .sub => (l + m - r) % m
  | .and => Nat.land l r
  | .or => Nat.lor l r
  | .xor => Nat.xor l r
  | .andn => Nat.land l (m - 1 - r)
  | .shl => if amt ≥ w then 0 else l * 2 ^ amt % m
  | .shr => if amt ≥ w then 0 else l / 2 ^ amt
  | .sra => wrapOf w (signedOf w l / ((2 ^ (if amt ≥ w then w else amt) : Nat) : Int))
  | .rol => let k := amt % w; (l * 2 ^ k % m) + l / 2 ^ (w - k) % m
  | .ror => let k := amt % w; l / 2 ^ k + l * 2 ^ (w - k) % m
  | .mul => l * r % m
  | .mulh => wrapOf w (signedOf w l * signedOf w r / ((m : Nat) : Int))
  | .mulhn => l * r / m
  | .div => divOf w true l r
  | .divn => divOf w false l r
  | .rem => remOf w true l r
  | .remn => remOf w false l r
  | .min => if signedOf w l ≤ signedOf w r then l else r
  | .max => if signedOf w l ≤ signedOf w r then r else l
  | .minn => min l r
  | .maxn => max l r
  | .clz => clzFrom w l
  | .ctz => ctzFrom w 0 l
  | .popc => popFrom w l
  | .addsat => clampOf w (signedOf w l + signedOf w r)
  | .subsat => clampOf w (signedOf w l - signedOf w r)
  | .absd => (signedOf w l - signedOf w r).natAbs

/-- The result of an IOP member (R87). -/
def iop (o : Iop) (l r : W64) : W64 := w64 (iopAt o 64 l.toNat r.toNat r.toNat)

/-- The result of an IOPW member: width 32, sign-extended; shifts and rotations take the whole of `.r` (R90). -/
def iopw (o : Iop) (l r : W64) : W64 :=
  BitVec.ofInt 64 (signedOf 32 (iopAt o 32 (l.toNat % 2 ^ 32) (r.toNat % 2 ^ 32) r.toNat))

/-- The bit length of a number. -/
def bitLen (w v : Nat) : Nat := w - clzFrom w v

/-- Cycles of a division or remainder: 12 + 3 × ceil(q / 8), q the bit length of the quotient's magnitude; division by
zero and the overflow case take 12 (R77), the overflow of a 32-bit division too (notes/assumptions 129). -/
def divLatency (w : Nat) (signed : Bool) (l r : W64) : Nat :=
  let a := l.toNat % 2 ^ w
  let b := r.toNat % 2 ^ w
  if b = 0 ∨ (signed ∧ a = 2 ^ (w - 1) ∧ b = 2 ^ w - 1) then 12
  else
    let q := if signed then (Int.tdiv (signedOf w a) (signedOf w b)).natAbs else a / b
    12 + 3 * ceilDiv (bitLen 65 q) 8

/-- The latency of a member after firing (R77). -/
def iopLatency (o : Iop) (w : Nat) (l r : W64) : Nat :=
  match o with
  | .mul => 3
  | .mulh => 3
  | .mulhn => 3
  | .div => divLatency w true l r
  | .divn => divLatency w false l r
  | .rem => divLatency w true l r
  | .remn => divLatency w false l r
  | _ => 1

/-- An IOP member fires on `.l` and `.r`. -/
def fireIop (o : Iop) (p : Pred) (t1 t0 : Target) (s : State) : Host.Outcome State Fault Refusal :=
  slotStep (.binaryTimed p (iopLatency o 64) [t0, t1] (iop o)) s
/-- An IOP member of one operand. -/
def fireIop1 (o : Iop) (p : Pred) (t1 t0 : Target) (s : State) : Host.Outcome State Fault Refusal :=
  slotStep (.unary p 1 [t0, t1] fun l => iop o l 0#64) s
/-- An IOPW member fires on `.l` and `.r`, with the latency of its IOP counterpart (R77, R90). -/
def fireIopw (o : Iop) (p : Pred) (t1 t0 : Target) (s : State) : Host.Outcome State Fault Refusal :=
  slotStep (.binaryTimed p (iopLatency o 32) [t0, t1] (iopw o)) s
/-- An IOPW member of one operand. -/
def fireIopw1 (o : Iop) (p : Pred) (t1 t0 : Target) (s : State) : Host.Outcome State Fault Refusal :=
  slotStep (.unary p 1 [t0, t1] fun l => iopw o l 0#64) s

/-! ## The IOP and IOPW members (R86, R87, R90) -/

/-- `ADD` (R87). -/
def execAdd (p : Pred) (t1 t0 : Target) (s : State) : Host.Outcome State Fault Refusal := fireIop .add p t1 t0 s
/-- `SUB` (R87). -/
def execSub (p : Pred) (t1 t0 : Target) (s : State) : Host.Outcome State Fault Refusal := fireIop .sub p t1 t0 s
/-- `AND` (R87). -/
def execAnd (p : Pred) (t1 t0 : Target) (s : State) : Host.Outcome State Fault Refusal := fireIop .and p t1 t0 s
/-- `OR` (R87). -/
def execOr (p : Pred) (t1 t0 : Target) (s : State) : Host.Outcome State Fault Refusal := fireIop .or p t1 t0 s
/-- `XOR` (R87). -/
def execXor (p : Pred) (t1 t0 : Target) (s : State) : Host.Outcome State Fault Refusal := fireIop .xor p t1 t0 s
/-- `ANDN` (R87). -/
def execAndn (p : Pred) (t1 t0 : Target) (s : State) : Host.Outcome State Fault Refusal := fireIop .andn p t1 t0 s
/-- `SHL` (R87). -/
def execShl (p : Pred) (t1 t0 : Target) (s : State) : Host.Outcome State Fault Refusal := fireIop .shl p t1 t0 s
/-- `SHR` (R87). -/
def execShr (p : Pred) (t1 t0 : Target) (s : State) : Host.Outcome State Fault Refusal := fireIop .shr p t1 t0 s
/-- `SRA` (R87). -/
def execSra (p : Pred) (t1 t0 : Target) (s : State) : Host.Outcome State Fault Refusal := fireIop .sra p t1 t0 s
/-- `ROL` (R87). -/
def execRol (p : Pred) (t1 t0 : Target) (s : State) : Host.Outcome State Fault Refusal := fireIop .rol p t1 t0 s
/-- `ROR` (R87). -/
def execRor (p : Pred) (t1 t0 : Target) (s : State) : Host.Outcome State Fault Refusal := fireIop .ror p t1 t0 s
/-- `MUL` (R87). -/
def execMul (p : Pred) (t1 t0 : Target) (s : State) : Host.Outcome State Fault Refusal := fireIop .mul p t1 t0 s
/-- `MULH` (R87). -/
def execMulh (p : Pred) (t1 t0 : Target) (s : State) : Host.Outcome State Fault Refusal := fireIop .mulh p t1 t0 s
/-- `MULHN` (R87). -/
def execMulhn (p : Pred) (t1 t0 : Target) (s : State) : Host.Outcome State Fault Refusal := fireIop .mulhn p t1 t0 s
/-- `DIV` (R87). -/
def execDiv (p : Pred) (t1 t0 : Target) (s : State) : Host.Outcome State Fault Refusal := fireIop .div p t1 t0 s
/-- `DIVN` (R87). -/
def execDivn (p : Pred) (t1 t0 : Target) (s : State) : Host.Outcome State Fault Refusal := fireIop .divn p t1 t0 s
/-- `REM` (R87). -/
def execRem (p : Pred) (t1 t0 : Target) (s : State) : Host.Outcome State Fault Refusal := fireIop .rem p t1 t0 s
/-- `REMN` (R87). -/
def execRemn (p : Pred) (t1 t0 : Target) (s : State) : Host.Outcome State Fault Refusal := fireIop .remn p t1 t0 s
/-- `MIN` (R87). -/
def execMin (p : Pred) (t1 t0 : Target) (s : State) : Host.Outcome State Fault Refusal := fireIop .min p t1 t0 s
/-- `MAX` (R87). -/
def execMax (p : Pred) (t1 t0 : Target) (s : State) : Host.Outcome State Fault Refusal := fireIop .max p t1 t0 s
/-- `MINN` (R87). -/
def execMinn (p : Pred) (t1 t0 : Target) (s : State) : Host.Outcome State Fault Refusal := fireIop .minn p t1 t0 s
/-- `MAXN` (R87). -/
def execMaxn (p : Pred) (t1 t0 : Target) (s : State) : Host.Outcome State Fault Refusal := fireIop .maxn p t1 t0 s
/-- `CLZ` (R87). -/
def execClz (p : Pred) (t1 t0 : Target) (s : State) : Host.Outcome State Fault Refusal := fireIop1 .clz p t1 t0 s
/-- `CTZ` (R87). -/
def execCtz (p : Pred) (t1 t0 : Target) (s : State) : Host.Outcome State Fault Refusal := fireIop1 .ctz p t1 t0 s
/-- `POPC` (R87). -/
def execPopc (p : Pred) (t1 t0 : Target) (s : State) : Host.Outcome State Fault Refusal := fireIop1 .popc p t1 t0 s
/-- `ADDSAT` (R87). -/
def execAddsat (p : Pred) (t1 t0 : Target) (s : State) : Host.Outcome State Fault Refusal := fireIop .addsat p t1 t0 s
/-- `SUBSAT` (R87). -/
def execSubsat (p : Pred) (t1 t0 : Target) (s : State) : Host.Outcome State Fault Refusal := fireIop .subsat p t1 t0 s
/-- `ABSD` (R87). -/
def execAbsd (p : Pred) (t1 t0 : Target) (s : State) : Host.Outcome State Fault Refusal := fireIop .absd p t1 t0 s
/-- `ADDW` (R90). -/
def execAddw (p : Pred) (t1 t0 : Target) (s : State) : Host.Outcome State Fault Refusal := fireIopw .add p t1 t0 s
/-- `SUBW` (R90). -/
def execSubw (p : Pred) (t1 t0 : Target) (s : State) : Host.Outcome State Fault Refusal := fireIopw .sub p t1 t0 s
/-- `ANDW` (R90). -/
def execAndw (p : Pred) (t1 t0 : Target) (s : State) : Host.Outcome State Fault Refusal := fireIopw .and p t1 t0 s
/-- `ORW` (R90). -/
def execOrw (p : Pred) (t1 t0 : Target) (s : State) : Host.Outcome State Fault Refusal := fireIopw .or p t1 t0 s
/-- `XORW` (R90). -/
def execXorw (p : Pred) (t1 t0 : Target) (s : State) : Host.Outcome State Fault Refusal := fireIopw .xor p t1 t0 s
/-- `ANDNW` (R90). -/
def execAndnw (p : Pred) (t1 t0 : Target) (s : State) : Host.Outcome State Fault Refusal := fireIopw .andn p t1 t0 s
/-- `SHLW` (R90). -/
def execShlw (p : Pred) (t1 t0 : Target) (s : State) : Host.Outcome State Fault Refusal := fireIopw .shl p t1 t0 s
/-- `SHRW` (R90). -/
def execShrw (p : Pred) (t1 t0 : Target) (s : State) : Host.Outcome State Fault Refusal := fireIopw .shr p t1 t0 s
/-- `SRAW` (R90). -/
def execSraw (p : Pred) (t1 t0 : Target) (s : State) : Host.Outcome State Fault Refusal := fireIopw .sra p t1 t0 s
/-- `ROLW` (R90). -/
def execRolw (p : Pred) (t1 t0 : Target) (s : State) : Host.Outcome State Fault Refusal := fireIopw .rol p t1 t0 s
/-- `RORW` (R90). -/
def execRorw (p : Pred) (t1 t0 : Target) (s : State) : Host.Outcome State Fault Refusal := fireIopw .ror p t1 t0 s
/-- `MULW` (R90). -/
def execMulw (p : Pred) (t1 t0 : Target) (s : State) : Host.Outcome State Fault Refusal := fireIopw .mul p t1 t0 s
/-- `DIVW` (R90). -/
def execDivw (p : Pred) (t1 t0 : Target) (s : State) : Host.Outcome State Fault Refusal := fireIopw .div p t1 t0 s
/-- `DIVNW` (R90). -/
def execDivnw (p : Pred) (t1 t0 : Target) (s : State) : Host.Outcome State Fault Refusal := fireIopw .divn p t1 t0 s
/-- `REMW` (R90). -/
def execRemw (p : Pred) (t1 t0 : Target) (s : State) : Host.Outcome State Fault Refusal := fireIopw .rem p t1 t0 s
/-- `REMNW` (R90). -/
def execRemnw (p : Pred) (t1 t0 : Target) (s : State) : Host.Outcome State Fault Refusal := fireIopw .remn p t1 t0 s
/-- `CLZW` (R90). -/
def execClzw (p : Pred) (t1 t0 : Target) (s : State) : Host.Outcome State Fault Refusal := fireIopw1 .clz p t1 t0 s
/-- `CTZW` (R90). -/
def execCtzw (p : Pred) (t1 t0 : Target) (s : State) : Host.Outcome State Fault Refusal := fireIopw1 .ctz p t1 t0 s
/-- `POPCW` (R90). -/
def execPopcw (p : Pred) (t1 t0 : Target) (s : State) : Host.Outcome State Fault Refusal := fireIopw1 .popc p t1 t0 s

/-! ## Immediate forms (R91) -/

/-- The sign-extended immediate of an I-format instruction. -/
def imm14 (i : BitVec 14) : W64 := i.signExtend 64

/-- `ADDI` (R91). -/
def execAddi (p : Pred) (i : BitVec 14) (t0 : Target) (s : State) : Host.Outcome State Fault Refusal :=
  slotStep (.unary p 1 [t0] fun l => iop .add l (imm14 i)) s
/-- `ANDI` (R91). -/
def execAndi (p : Pred) (i : BitVec 14) (t0 : Target) (s : State) : Host.Outcome State Fault Refusal :=
  slotStep (.unary p 1 [t0] fun l => iop .and l (imm14 i)) s
/-- `ORI` (R91). -/
def execOri (p : Pred) (i : BitVec 14) (t0 : Target) (s : State) : Host.Outcome State Fault Refusal :=
  slotStep (.unary p 1 [t0] fun l => iop .or l (imm14 i)) s
/-- `XORI` (R91). -/
def execXori (p : Pred) (i : BitVec 14) (t0 : Target) (s : State) : Host.Outcome State Fault Refusal :=
  slotStep (.unary p 1 [t0] fun l => iop .xor l (imm14 i)) s
/-- `SHLI` (R91). -/
def execShli (p : Pred) (a : BitVec 6) (t0 : Target) (s : State) : Host.Outcome State Fault Refusal :=
  slotStep (.unary p 1 [t0] fun l => iop .shl l (a.setWidth 64)) s
/-- `SHRI` (R91). -/
def execShri (p : Pred) (a : BitVec 6) (t0 : Target) (s : State) : Host.Outcome State Fault Refusal :=
  slotStep (.unary p 1 [t0] fun l => iop .shr l (a.setWidth 64)) s
/-- `SRAI` (R91). -/
def execSrai (p : Pred) (a : BitVec 6) (t0 : Target) (s : State) : Host.Outcome State Fault Refusal :=
  slotStep (.unary p 1 [t0] fun l => iop .sra l (a.setWidth 64)) s
/-- `MULI` (R91); it takes 3 cycles (R77). -/
def execMuli (p : Pred) (i : BitVec 14) (t0 : Target) (s : State) : Host.Outcome State Fault Refusal :=
  slotStep (.unary p 3 [t0] fun l => iop .mul l (imm14 i)) s

/-! ## Comparisons, addresses, bit fields (R92-R95) -/

/-- A condition of R92. -/
def condHolds (c : Cond) (l b : W64) : Bool :=
  match c with
  | .eq => l == b
  | .ne => l != b
  | .lt => l.slt b
  | .ge => !l.slt b
  | .ltn => l.ult b
  | .gen => !l.ult b
  | .tst => l &&& b != 0#64

/-- 1 or 0 as a token. -/
def boolWord (b : Bool) : W64 := if b then 1#64 else 0#64

/-- `CMP` (R92). -/
def execCmp (p : Pred) (c : Cond) (t1 t0 : Target) (s : State) : Host.Outcome State Fault Refusal :=
  slotStep (.binary p 1 [t0, t1] fun l r => boolWord (condHolds c l r)) s
/-- `CMPI`: the immediate is sign-extended and compared by the condition's own reading (R92). -/
def execCmpi (p : Pred) (c : Cond) (i : BitVec 11) (t0 : Target) (s : State) : Host.Outcome State Fault Refusal :=
  slotStep (.unary p 1 [t0] fun l => boolWord (condHolds c l (i.signExtend 64))) s
/-- `LEA` (R93). -/
def execLea (p : Pred) (a : BitVec 3) (t1 t0 : Target) (s : State) : Host.Outcome State Fault Refusal :=
  slotStep (.binary p 1 [t0, t1] fun l r => l + (r <<< a.toNat)) s

/-- The field of `EXT` (R94). -/
def extract (sign : Bool) (len pos : Nat) (l : W64) : W64 :=
  let n := extLen len
  let f := l.toNat / 2 ^ pos % 2 ^ n
  if sign then BitVec.ofInt 64 (signedOf n f) else w64 f

/-- `EXT` (R94). -/
def execExt (p : Pred) (g : BitVec 1) (len pos : BitVec 6) (t0 : Target) (s : State) : Host.Outcome State Fault Refusal :=
  slotStep (.unary p 1 [t0] (extract (g == 1#1) len.toNat pos.toNat)) s

/-- The insertion of R95: position `x[5:0]`, length `x[11:6]`; bits above 63 are dropped. -/
def insertBits (l r x : W64) : W64 :=
  let pos := x.toNat % 64
  let n := extLen (bits x.toNat 11 6)
  let mask : W64 := w64 ((2 ^ n - 1) * 2 ^ pos)
  (l &&& ~~~mask) ||| (w64 (r.toNat * 2 ^ pos) &&& mask)

/-- `INS` (R95). -/
def execIns (t1 t0 : Target) (s : State) : Host.Outcome State Fault Refusal :=
  slotStep (.firing .always [.l, .r, .x] (.send 0 .null [t0, t1]) fun vs =>
    .send 1 (.val (insertBits (arg vs 0) (arg vs 1) (arg vs 2))) [t0, t1]) s

/-! ## Constants and routing (R81-R85) -/

/-- `CONST` (R81). -/
def execConst (k : BitVec 16) (t0 : Target) (s : State) : Host.Outcome State Fault Refusal :=
  slotStep (.inBlock fun _ _ => .send 0 (.val (k.signExtend 64)) [t0]) s
/-- `CONSTH` (R82). -/
def execConsth (k : BitVec 16) (t0 : Target) (s : State) : Host.Outcome State Fault Refusal :=
  slotStep (.unary .always 0 [t0] fun l => (l <<< 16) ||| k.setWidth 64) s
/-- `MOV2` (R83). -/
def execMov2 (p : Pred) (t1 t0 : Target) (s : State) : Host.Outcome State Fault Refusal :=
  slotStep (.unary p 0 [t0, t1] fun l => l) s
/-- `NULL`: nulls, also when the predicate itself is one (R84). -/
def execNull (p : Pred) (t1 t0 : Target) (s : State) : Host.Outcome State Fault Refusal :=
  slotStep (.firing p [] (.send 0 .null [t0, t1]) fun _ => .send 0 .null [t0, t1]) s

/-- The token that `SEL` delivers; its rule for nulls replaces R36 (R85). -/
def selTok (l r x : Token) : Token :=
  match x with
  | .null => .null
  | .val v => if v.getLsbD 0 then l else r

/-- `SEL` (R85). -/
def execSel (t1 t0 : Target) (s : State) : Host.Outcome State Fault Refusal :=
  slotStep (.inBlock fun s b => .send 0 (selTok (b.tok s .l) (b.tok s .r) (b.tok s .x)) [t0, t1]) s

end Sys2Proof.Machine
end

