-- ==== Sys2Proof/Machine/Tenancy.lean ====
section
/-! DEFINITION. What system software does through BAR 0 (spec/24 R454-R458): context commands, stops, fences, revocation and
invalidation, partition swaps with their drain, save and load (spec/16 R343, R346, spec/12 R271-R273, spec/22 R436), and writes of the
other registers (spec/15 R315, R319, R324, R398). -/

namespace Sys2Proof.Machine

/-! ## Context commands (R455) -/

/-- The outcome of a context command: `res` is set and nothing is in progress. -/
def Act.commandResult (p : Loc) (res : Nat) : Act := .polder p fun q => { q with cmdRes := res, cmdBusy := false, cmdHalt := none }

/-- Carry out a context command on `l`, unless one is in progress or no partition is resident; `k` gives its effect in a state that admits
it (R455). -/
def Act.contextCommand (l : Loc) (cmd : Nat) (k : State → Option Act) : Act :=
  .read fun s =>
    let q := s.polder l
    if q.cmdBusy then .skip
    else .seq (.polder l fun x => { x with cmdWord := field cmd 2 6 + field l.core 3 3 + field l.ctx 3 0 })
      (if q.part.isNone then .commandResult l 2
      else match if (s.ctx l).lead.all (fun m => m.1 == l) then k s else none with
        | some a => a
        | none => .commandResult l 1)

/-- A stopped context is READY again (R343, R455). -/
def Act.release (l : Loc) : Act :=
  .makeReady l fun c => { c with haltCause := 0, bySwap := false, wasSusp := false, stopReq := false }

/-- Release: a HALTED or SUSPENDED context is READY (R455). -/
def Act.releaseCommand (l : Loc) : Act :=
  .contextCommand l 1 fun s =>
    if (s.ctx l).state = 4#3 ∨ (s.ctx l).state = 3#3 then some (.seq (.release l) (.commandResult l 0)) else none

/-- `CONTEXT_RELEASE_CMD` (R455). -/
def execContextReleaseCmd (s : State) : Host.Outcome State Fault Refusal :=
  match s.cur with
  | .contextReleaseCmd l => done (.when (s.device l).open (.releaseCommand l)) s
  | _ => .next s

/-- End: a HALTED or SUSPENDED context ends as one that a fault ends, with the cause that halted it, or 0x0C from system software
(R455). -/
def Act.endCommand (l : Loc) : Act :=
  .contextCommand l 2 fun s =>
    let c := s.ctx l
    let r := if c.haltCause = 0 then { s.coreRec l 0x0C 0 0 0 0 with src := 3 } else s.coreRec l c.haltCause 0 0 0 0
    if c.state = 4#3 ∨ c.state = 3#3 then some (.seq (.endedByFault l r) (.commandResult l 0)) else none

/-- `CONTEXT_END_CMD` (R455). -/
def execContextEndCmd (s : State) : Host.Outcome State Fault Refusal :=
  match s.cur with
  | .contextEndCmd l => done (.when (s.device l).open (.endCommand l)) s
  | _ => .next s

/-- Halt: a RUNNING or READY context at its next boundary, a SUSPENDED one at once (R455). -/
def Act.haltCommand (l : Loc) : Act :=
  .contextCommand l 3 fun s =>
    let c := s.ctx l
    if c.state = 1#3 ∨ c.state = 2#3 then
      some (.seq (.polder l fun q => { q with cmdBusy := true, cmdHalt := some l }) (.requestStop l))
    else if c.state = 3#3 then some (.seq (.halt l c.pc.toNat) (.commandResult l 0))
    else none

/-- `CONTEXT_HALT_CMD` (R455). -/
def execContextHaltCmd (s : State) : Host.Outcome State Fault Refusal :=
  match s.cur with
  | .contextHaltCmd l => done (.when (s.device l).open (.haltCommand l)) s
  | _ => .next s

/-! ## Stop and fence (R343, R352, R454) -/

/-- The contexts of a polder, member slots of a composition apart. -/
def State.polderCtxs (s : State) (p : Loc) : List Loc :=
  ((List.range 64).map fun i => ({ p.toPolder with core := i / 8, ctx := i % 8 } : Loc)).filter fun l =>
    (s.ctx l).lead.all fun m => m.1 == l

/-- A stop of every resident context is requested (R343, R454). -/
def Act.stopAll (p : Loc) : Act :=
  .seq (.polder p fun q => { q with stop := true }) (.read fun s => .each (s.polderCtxs p) .requestStop)

/-- `POLDER_STOP_REQUEST` (R454). -/
def execPolderStopRequest (s : State) : Host.Outcome State Fault Refusal :=
  match s.cur with
  | .polderStopRequest p => done (.when (s.device p).open (.stopAll p)) s
  | _ => .next s

/-- Something may have made owners dry: whoever was readmitted is so no longer where it was not dry before, and those that wait on a dry
owner are answered (R127, R349, R352). -/
def Act.loss (a : Act) : Act :=
  .read fun s => .seq a (.read fun t => .seq
    (.each t.devices fun d => .device d.1 fun x => { x with readmitted := x.readmitted.filter fun o => !t.dryBase d.1 o || s.dryBase d.1 o })
    .sweepDry)

/-- `fence` is written: a fenced polder is dry to everyone (R352, R454). -/
def Act.setFence (p : Loc) (on : Bool) : Act :=
  if on then .loss (.polder p fun q => { q with fence := true }) else .polder p fun q => { q with fence := false }

/-- `POLDER_FENCE`: `v` is the word written at control offset 0x4000 (R454). -/
def execPolderFence (s : State) : Host.Outcome State Fault Refusal :=
  match s.cur with
  | .polderFence p v => done (.when (s.device p).open (.setFence p (bit v 7))) s
  | _ => .next s

/-! ## Revocation and invalidation (R457, R458) -/

/-- Invalidate the translations of a device that satisfy a condition. -/
def Act.dropTlb (d : Loc) (f : TlbEntry → Bool) : Act :=
  .read fun s => .each (s.polders.filter fun x => x.1.dev == d.dev) fun x =>
    .polder x.1 fun q => { q with tlb := q.tlb.filter fun t => !f t }

/-- Mark a PASID revoked in the tables of a device (R454, R458). -/
def Act.markRevoked (d : Loc) (part pasid : Nat) : Act :=
  .read fun s => .each (s.pasidEntries d part pasid) fun a =>
    let p := s.meshPlace d.dev (a + 7)
    match s.keyOf p with
    | some k => .writePlace p [s.mem.get k ||| 0x40#8]
    | none => .skip

/-- `PASID_REVOKE`: unless one is in progress, the PASID is marked, its translations go, and the packets fetched so far are the earlier
ones (R457, R458). -/
def Act.revokePasid (d : Loc) (v : Nat) : Act :=
  .read fun s => .when (!(s.device d).revokeBusy) (.all [
    .device d fun x => { x with revoke := w64 (v % 2 ^ 24), revokeBusy := true, revokeGen := x.revokeGen + 1 },
    .markRevoked d (bits v 23 20) (bits v 19 0),
    .dropTlb d fun t => !t.gpa && t.part == bits v 23 20 && t.pasid == bits v 19 0,
    .event 1 (.revocationComplete d.toDev)])

/-- `PASID_REVOKE` (R457, R458). -/
def execPasidRevoke (s : State) : Host.Outcome State Fault Refusal :=
  match s.cur with
  | .pasidRevoke d v => done (.when (s.device d).open (.revokePasid d v)) s
  | _ => .next s

/-- A context of a partition holds a PASID outside DORMANT, resident or saved (R458). -/
def State.pasidHeld (s : State) (d : Loc) (part pasid : Nat) : Bool :=
  (s.ctxs.any fun x => x.1.dev == d.dev && (s.polder x.1).part == some part && !isAhead x.1 && x.2.state != 0#3 && x.2.pasid.toNat == pasid)
    || s.polders.any fun x => x.1.dev == d.dev && x.2.saves.any fun v => v.part == part
      && v.ctxs.any fun y => y.2.state != 0#3 && y.2.pasid.toNat == pasid

/-- `REVOCATION_COMPLETE`: once no earlier packet and no context holds the PASID, `busy` clears (R458). -/
def Act.revoked (d : Loc) : Act :=
  .read fun s =>
    let x := s.device d
    let part := bits x.revoke.toNat 23 20
    let pasid := bits x.revoke.toNat 19 0
    if (x.works.any fun w => w.part == part && w.pasid == pasid && decide (w.gen < x.revokeGen)) || s.pasidHeld d part pasid then
      .event 1 (.revocationComplete d.toDev)
    else .device d fun y => { y with revokeBusy := false }

/-- `REVOCATION_COMPLETE` (R458). -/
def execRevocationComplete (s : State) : Host.Outcome State Fault Refusal :=
  match s.cur with
  | .revocationComplete d => done (.when (s.device d).revokeBusy (.revoked d)) s
  | _ => .next s

/-- The translations that an invalidation names: `ikind`, `ipart`, `iaddr`, and the PASID that the revocation register held when it began (R457). -/
def named (v pasid : Nat) (t : TlbEntry) : Bool :=
  let a := bits v 56 0
  t.part == bits v 60 57 && (match bits v 62 61 with
    | 0 => !t.gpa && t.pasid == pasid
    | 1 => !t.gpa && t.pasid == pasid && decide (t.vpage ≤ a) && decide (a < t.vpage + t.size)
    | _ => true)

/-- Cycles until every walk that has started on a device has ended (R458). -/
def State.walksEnd (s : State) (d : Loc) : Nat :=
  s.agenda.foldl (fun m q => match q.work with
    | .event (.tlbWalkComplete p _) => if p.dev = d.dev then max m (q.due - s.now) else m
    | _ => m) 0

/-- An invalidation starts, unless one is in progress (R457, R458). -/
def Act.invalidate (d : Loc) (v : Nat) : Act :=
  .read fun s => .when (!(s.device d).invalBusy) (.all [
    .device d fun x => { x with inval := w64 (v % 2 ^ 63), invalBusy := true, invalPasid := bits x.revoke.toNat 19 0 },
    .dropTlb d (named v (bits (s.device d).revoke.toNat 19 0)),
    .event (s.walksEnd d + 1) (.invalidationComplete d.toDev)])

/-- `INVALIDATE_PASID` (R457). -/
def execInvalidatePasid (s : State) : Host.Outcome State Fault Refusal :=
  match s.cur with
  | .invalidatePasid d v => done (.when (s.device d).open (.invalidate d (bits v 60 0))) s
  | _ => .next s
/-- `INVALIDATE_PAGE` (R457). -/
def execInvalidatePage (s : State) : Host.Outcome State Fault Refusal :=
  match s.cur with
  | .invalidatePage d v => done (.when (s.device d).open (.invalidate d (2 ^ 61 + bits v 60 0))) s
  | _ => .next s
/-- `INVALIDATE_STAGE2` (R457). -/
def execInvalidateStage2 (s : State) : Host.Outcome State Fault Refusal :=
  match s.cur with
  | .invalidateStage2 d v => done (.when (s.device d).open (.invalidate d (2 * 2 ^ 61 + bits v 60 0))) s
  | _ => .next s
/-- `INVALIDATE_PARTITION` (R457). -/
def execInvalidatePartition (s : State) : Host.Outcome State Fault Refusal :=
  match s.cur with
  | .invalidatePartition d v => done (.when (s.device d).open (.invalidate d (3 * 2 ^ 61 + bits v 60 0))) s
  | _ => .next s

/-- `INVALIDATION_COMPLETE`: what earlier walks have installed goes too, and `ibusy` clears (R458). -/
def Act.invalidated (d : Loc) : Act :=
  .read fun s => .seq (.dropTlb d (named (s.device d).inval.toNat (s.device d).invalPasid))
    (.device d fun x => { x with invalBusy := false })

/-- `INVALIDATION_COMPLETE` (R458). -/
def execInvalidationComplete (s : State) : Host.Outcome State Fault Refusal :=
  match s.cur with
  | .invalidationComplete d => done (.when (s.device d).invalBusy (.invalidated d)) s
  | _ => .next s

/-! ## Accumulator banks in a swap (R271, R272) -/

/-- The memory key of an accumulator bank: 0 and 1 the banks, 2 the shadow store, 3 what moves through it in an exchange. -/
def bankKey (p : Loc) (i : Nat) : Nat := keyIn p.toPolder 3 (i * 0x80000)

/-- Zero `n` bytes from a key, error marks with them. -/
def Act.clearSpan (k n : Nat) : Act :=
  .seq (.fx (.keep fun a => decide (a < k) || decide (k + n ≤ a)))
    (.fx (.ecc fun us => us.filter fun u => !(decide (k ≤ u) && decide (u < k + n))))

/-- The marked units at `dst` that a marked unit at `src` becomes when its bytes move (R331). -/
def eccMoved (src dst u : Nat) : List Nat :=
  let v := dst + (u - src)
  if eccSize v = 32 then [v / 32 * 32] else (List.range (eccSize u / 8)).map fun i => v + 8 * i

/-- Copy `n` bytes, error marks with them. -/
def Act.copySpan (src dst n : Nat) : Act :=
  .read fun s => .all [
    .clearSpan dst n,
    .each (s.mem.filter fun c => decide (src ≤ c.1) && decide (c.1 < src + n)) fun c => .fx (.byte (dst + (c.1 - src)) c.2),
    .fx (.ecc fun us => us ++ (s.ecc.filter fun u => decide (src ≤ u) && decide (u < src + n)).flatMap (eccMoved src dst))]

/-- Move `n` bytes, error marks with them, and leave zeros behind. -/
def Act.moveSpan (src dst n : Nat) : Act := .seq (.copySpan src dst n) (.clearSpan src n)

/-- The place of a partition's accumulator save area in the polder's HBM (R454). -/
def State.savePlace (s : State) (p : Loc) (part : Nat) : Option Place :=
  (homePlace p (areaWord (s.polder p) part 0)).filter fun q => q.space == 0

/-- Make the granules of a save area no longer fresh. -/
def Act.settleArea (q : Place) : Act := .each (List.range 8) fun i => .settleFresh { q with off := q.off + 0x10000 * i }

/-- Change the banks of a polder. -/
def Act.banks (p : Loc) (f : PolderState → PolderState) : Act := .polder p f

/-- Bank `b` becomes the one of a partition: loaded from the shadow store or from the save area, else cleared (R271, R272). -/
def Act.loadBank (p : Loc) (part b : Nat) : Act :=
  .read fun s =>
    let q := s.polder p
    let put (x : AccBank) : PolderState → PolderState := fun y =>
      { y with banks := y.banks.set b { x with tag := some part, used := s.now }, bank := b }
    match q.shadow.filter fun x => x.tag == some part with
    | some x => .seq (.moveSpan (bankKey p 2) (bankKey p b) 0x80000) (.banks p fun y => { put x y with shadow := none })
    | none => match q.saved.find? fun x => x.tag == some part, s.savePlace p part with
      | some x, some a => .seq (.copySpan (keyIn p.toPolder 0 a.off) (bankKey p b) 0x80000)
          (.banks p fun y => { put x y with saved := y.saved.filter fun z => z.tag != some part })
      | _, _ => .seq (.clearSpan (bankKey p b) 0x80000) (.banks p (put AccBank.empty))

/-- Spill bank `b` to the shadow store (R271). -/
def Act.spillBank (p : Loc) (b : Nat) : Act :=
  .seq (.moveSpan (bankKey p b) (bankKey p 2) 0x80000)
    (.banks p fun y => { y with shadow := y.banks[b]?, banks := y.banks.set b AccBank.empty })

/-- Write the shadowed bank to its partition's save area in HBM (R271). -/
def Act.saveShadow (p : Loc) (x : AccBank) : Act :=
  .read fun s => .seq (match x.tag.bind (s.savePlace p) with
      | some a => .seq (.settleArea a) (.moveSpan (bankKey p 2) (keyIn p.toPolder 0 a.off) 0x80000)
      | none => .clearSpan (bankKey p 2) 0x80000)
    (.banks p fun y => { y with shadow := none, saved := y.saved ++ [x] })

/-- Exchange bank `b` with the shadow store, which holds the arriving partition's bank (R271). -/
def Act.exchangeBank (p : Loc) (part b : Nat) (x : AccBank) : Act :=
  .read fun s => .all [
    .moveSpan (bankKey p 2) (bankKey p 3) 0x80000, .moveSpan (bankKey p b) (bankKey p 2) 0x80000, .moveSpan (bankKey p 3) (bankKey p b) 0x80000,
    .banks p fun y => { y with shadow := y.banks[b]?, banks := y.banks.set b { x with tag := some part, used := s.now }, bank := b }]

/-- The bank of the two that ran least recently. -/
def PolderState.oldBank (q : PolderState) : Nat := if (q.banks.getD 1 AccBank.empty).used < (q.banks.getD 0 AccBank.empty).used then 1 else 0

/-- SELECTING THE BANK OF AN ARRIVING PARTITION, by R271's table. -/
def Act.selectBank (p : Loc) (part : Nat) : Act :=
  .read fun s =>
    let q := s.polder p
    match q.banks.findIdx? fun x => x.tag == some part with
    | some b => .banks p fun y => { y with bank := b, banks := y.banks.modify b fun x => { x with used := s.now } }
    | none => match q.banks.findIdx? fun x => x.tag.isNone with
      | some b => .loadBank p part b
      | none =>
        let b := q.oldBank
        match q.shadow with
        | none => .seq (.spillBank p b) (.loadBank p part b)
        | some x => if x.tag = some part then .exchangeBank p part b x else .all [.saveShadow p x, .spillBank p b, .loadBank p part b]

/-- The time of a selection: 8 cycles, and 2,100 for each spill or load; the HBM write of a save area adds 512 KiB at 54 bytes a cycle
(R28, R271). -/
def PolderState.bankTime (q : PolderState) (part : Nat) : Nat :=
  let load := if q.shadow.any (fun x => x.tag == some part) || q.saved.any (fun x => x.tag == some part) then 2100 else 0
  if q.banks.any fun x => x.tag == some part then 8
  else if q.banks.any fun x => x.tag.isNone then 8 + load
  else match q.shadow with
    | none => 2108 + load
    | some x => if x.tag = some part then 4208 else 2108 + 9710 + load

/-- A partition leaves for good: its bank, shadowed or saved copy is cleared to free slots of zero (R272). -/
def Act.clearBank (p : Loc) (part : Nat) : Act :=
  .read fun s =>
    let q := s.polder p
    .all [
      .each ((List.range 2).filter fun b => (q.banks.getD b AccBank.empty).tag == some part) fun b =>
        .seq (.clearSpan (bankKey p b) 0x80000) (.banks p fun y => { y with banks := y.banks.set b AccBank.empty }),
      .when (q.shadow.any fun x => x.tag == some part)
        (.seq (.clearSpan (bankKey p 2) 0x80000) (.banks p fun y => { y with shadow := none })),
      .banks p fun y => { y with saved := y.saved.filter fun x => x.tag != some part }]

/-! ## Swaps (R346, R436) -/

/-- Stop the contexts of the resident partition; its return resumes those that ran or could run, and leaves the others SUSPENDED (R343,
R346). -/
def Act.stopForSwap (p : Loc) : Act :=
  .read fun s => .each (s.polderCtxs p) fun l =>
    let c := s.ctx l
    if c.state = 3#3 then .seq (.ctx l fun x => { x with bySwap := true, wasSusp := true }) (.halt l c.pc.toNat)
    else .when ((c.state == 1#3 || c.state == 2#3) && !c.stopReq) (.seq (.ctx l fun x => { x with bySwap := true }) (.requestStop l))

/-- A swap toward a partition, or toward none, begins; a write while one is in progress is discarded (R454). -/
def Act.beginSwap (p : Loc) (target : Option Nat) : Act :=
  .read fun s => .when (s.polder p).swapping.isNone (.all [
    .polder p fun q => { q with swapping := some target, done := false, swapEnd := false },
    .stopForSwap p,
    .event 1 (.swapDrainComplete p.toPolder)])

/-- `PARTITION_SWAP`: a write of `swap` with bit 4 set (R346, R454). -/
def execPartitionSwap (s : State) : Host.Outcome State Fault Refusal :=
  match s.cur with
  | .partitionSwap p v => done (.when (s.device p).open (.beginSwap p (some (v % 16)))) s
  | _ => .next s
/-- `PARTITION_REMOVE`: a write of `swap` with bit 4 clear (R272, R454). -/
def execPartitionRemove (s : State) : Host.Outcome State Fault Refusal :=
  match s.cur with
  | .partitionRemove p _ => done (.when (s.device p).open (.beginSwap p none)) s
  | _ => .next s

/-- An entry that holds a range lock stands behind a running collective command, with which it stays (R436). -/
def State.behindColl (s : State) (p : Loc) (r : RangeLock) : Bool :=
  ((s.core { p.toPolder with core := r.core }).ring.dropWhile fun e => !e.collRuns).any fun e => e.seq.toNat == r.seq

/-- Phases 1 and 2 of R346 are over: no context runs, every accepted entry has retired, and every transfer, listen pull, chunk and handler of
the partition has completed. The locks of the collective commands that stay, and of what stands behind them, stay with them (R436). -/
def State.drained (s : State) (p : Loc) : Bool :=
  let q := s.polder p
  let mine (part : Nat) : Bool := q.part == some part
  ((s.polderCtxs p).all fun l => (s.ctx l).state == 0#3 || (s.ctx l).state == 4#3)
    && ((List.range 8).all fun n =>
      let k := s.core { p.toPolder with core := n }
      ringDrained k.ring && k.asking.isNone)
    && q.jobs.isEmpty && q.internalQ.isEmpty && (q.xfers ++ q.sliceQ).all (fun t => !mine t.part)
    && q.listens.all (fun t => !t.running) && q.collRunning.isNone
    && (q.handler.all fun h => !mine h.part) && q.locks.all fun r => r.unit == 2 || s.behindColl p r

/-- The staging buffers of the active communicators, in order, as the collective save area takes them (R436, R454). -/
def stagingBytes (cs : List Comm) : List Byte := (cs.filter fun c => c.active).flatMap fun c => c.staging.flatten

/-- Staging buffers of the active communicators, of the same sizes, with the bytes of a save area. -/
def restage : List Comm → List Byte → List Comm
  | [], _ => []
  | c :: cs, bs =>
    if !c.active then c :: restage cs bs else
    let r := c.staging.foldl (fun a x => (a.1 ++ [sliceBytes a.2 0 x.length], a.2.drop x.length)) (([] : List (List Byte)), bs)
    { c with staging := r.1 } :: restage cs r.2

/-- Phase 3: what the resident partition leaves on the polder (R346). -/
def State.saveSet (s : State) (p : Loc) (part : Nat) : SavedSet :=
  let q := s.polder p
  { part := part
    ctxs := s.ctxs.filter fun x => x.1.toPolder == p.toPolder
    cores := s.cores.filter fun x => x.1.toPolder == p.toPolder
    dikes := q.dikes
    objects := q.objects
    watches := q.watches
    listens := q.listens
    counterRegs := q.counterRegs.filter fun r => s.setPart p r.set == part
    comms := q.comms
    locks := q.locks }

/-- A core's own parts after a load: nothing of it is in progress. -/
def CoreState.settled (k : CoreState) : CoreState :=
  { k with refilling := false, vecBusy := true, sfuBusy := false, sfu := [], asking := none, backoff := false }

/-- The saved set of a partition, or an empty one where it has never been on the polder. -/
def PolderState.savedOf (q : PolderState) (part : Nat) : SavedSet :=
  (q.saves.find? fun v => v.part == part).getD ⟨part, [], [], List.replicate 8 0#64, [], [], [], [], [], []⟩

/-- The resident partition's set goes to shadow storage, or, where it is removed for good, is dropped (R272, R346, R436). -/
def Act.saveOut (p : Loc) (removed : Bool) : Act :=
  .read fun s =>
    let q := s.polder p
    match q.part with
    | none => .skip
    | some part => .all [
        .when (!removed) (match homePlace p (areaWord q part 1) with
          | some a => .when (a.space == 0 && !q.comms.isEmpty) (.writePlace a (stagingBytes q.comms))
          | none => .skip),
        .polder p fun y => { y with
          saves := if removed then y.saves else y.saves.filter (fun v => v.part != part) ++ [s.saveSet p part]
          dikes := List.replicate 8 0#64, objects := [], watches := [], listens := [], comms := [], locks := []
          counterRegs := y.counterRegs.filter fun r => s.setPart p r.set != part
          banks := y.banks.modify y.bank fun x => { x with used := s.now }
          part := none },
        .fx (.forget (fun l => l.toPolder == p.toPolder) fun _ => false),
        .each (s.cores.filter fun x => x.1.toPolder == p.toPolder) (fun x => .core x.1 fun k => { k with lfsr := x.2.lfsr }),
        .when removed (.clearBank p part)]

/-- The arriving partition's set is loaded; the victim generators go on as they stand, since only the reset of a core sets them (R271, R346, R396, R436). -/
def Act.loadIn (p : Loc) (part : Nat) : Act :=
  .read fun s =>
    let v := (s.polder p).savedOf part
    let staged : List Comm := match (homePlace p (areaWord (s.polder p) part 1)).bind fun a => if a.space = 0 then s.keyOf a else none with
      | some k => restage v.comms (s.mem.bytes k (stagingBytes v.comms).length)
      | none => v.comms
    .all [
      .polder p fun y => { y with
        part := some part, saves := y.saves.filter (fun x => x.part != part)
        dikes := v.dikes, objects := v.objects, watches := v.watches, listens := v.listens, comms := staged, locks := v.locks
        counterRegs := y.counterRegs ++ v.counterRegs },
      .each v.ctxs fun x => .ctx x.1 fun _ => x.2,
      .each v.cores fun x => .core x.1 fun k => { x.2.settled with lfsr := k.lfsr },
      .selectBank p part]

/-- Everything of a polder that can go on is looked at again. -/
def Act.stirPolder (p : Loc) : Act :=
  .seq (.each (List.range 8) fun n =>
      let c : Loc := { p.toPolder with core := n }
      .all [.offerWork c, .event 0 (.contextDispatch c), .event 1 (.vectorBeat c), .event 0 (.entryRetire c), .kickRefill c])
    (.all [.event 0 (.matrixEntryAccept p.toPolder), .event 0 (.transferIssue p.toPolder), .event 0 (.rangeLockRegister p.toPolder),
      .event 0 (.launchGroupPlacement p.toPolder), .event 0 (.chunkStart p.toPolder), .pokeSlice p])

/-- The swap has ended: `done` is set, the contexts that it stopped are READY, or SUSPENDED with what was held for them taken, and the polder
goes on (R343, R346, R348, R436, R454). -/
def Act.finishSwap (p : Loc) : Act :=
  .all [
    .polder p fun q => { q with done := true, swapping := none, swapEnd := false },
    .read fun s => .each ((s.polderCtxs p).filter fun l => (s.ctx l).bySwap) fun l =>
      if (s.ctx l).state ≠ 4#3 then .ctx l fun c => { c with bySwap := false, wasSusp := false }
      else if (s.ctx l).wasSusp then .seq (.ctx l fun c => { c with state := 3#3, bySwap := false, wasSusp := false }) (.replayHeld l)
      else .release l,
    .announceReturn p,
    .stirPolder p]

/-- Units take the entries that keep accepted ones from retiring (R271). -/
def Act.helpDrain (p : Loc) : Act :=
  .read fun s => .each (List.range 8) fun n =>
    let c : Loc := { p.toPolder with core := n }
    let k := s.core c
    .when (k.ring.any fun e => e.phase == .dispatched && s.mayAccept c e) (.all [
      .when (!k.vecBusy) (.seq (.core c fun x => { x with vecBusy := true }) (.event 1 (.vectorBeat c))),
      .event 0 (.matrixEntryAccept p.toPolder), .event 0 (.transferIssue p.toPolder), .event 0 (.chunkStart p.toPolder)])

/-- `SWAP_DRAIN_COMPLETE`: until the drain is over it is looked for each cycle; then the sets change places, and the swap ends when the
accumulator bank has been selected (R271, R346). -/
def Act.swapDrain (p : Loc) (target : Option Nat) : Act :=
  .read fun s =>
    if (s.polder p).swapEnd then .finishSwap p
    else if !s.drained p then .all [.stopForSwap p, .helpDrain p, .event 1 (.swapDrainComplete p.toPolder)]
    else .all [
      .saveOut p target.isNone,
      (match target with
        | some part => .loadIn p part
        | none => .skip),
      .polder p fun q => { q with swapEnd := true },
      .event (match target with
        | some part => (s.polder p).bankTime part
        | none => 8) (.swapDrainComplete p.toPolder)]

/-- `SWAP_DRAIN_COMPLETE` (R346). -/
def execSwapDrainComplete (s : State) : Host.Outcome State Fault Refusal :=
  match s.cur with
  | .swapDrainComplete p => done (match (s.polder p).swapping with
      | some t => .swapDrain p t
      | none => .skip) s
  | _ => .next s

/-! ## Writes of registers (R315, R319, R324, R329, R398, R447, R448, R454, R457, R460) -/

/-- The words of an object table entry after system software writes one: `rsv` bits stay zero; word 3 takes a write in an owner entry only, since
a reader entry's `gacq` is set by the device; and a write of word 0 sets `gacq` to 0 (R6, R315, R319; notes/assumptions 122). -/
def objStore (old : List W64) (n v : Nat) : List W64 :=
  let owner (x : Nat) : Bool := bit x 62
  match n with
  | 0 =>
    let pins := if owner v && owner (old.getD 0 0#64).toNat then old.getD 3 0#64 else 0#64
    (old.set 0 (w64 (v % 2 ^ 57 + bits v 63 60 * 2 ^ 60))).set 3 pins
  | 1 => old.set 1 (w64 (v % 2 ^ 57))
  | 3 => if owner (old.getD 0 0#64).toNat then old.set 3 (w64 (v % 2 ^ 40)) else old
  | _ => old.set n (w64 v)

/-- The word at an 8-byte offset of a polder's control space after a write, for the registers that system software writes there; an offset that no
entry uses keeps reading zero (R314). -/
def Act.controlStore (p : Loc) (o v : Nat) : Act :=
  if 0x300 ≤ o ∧ o < 0x3C0 then .polder p fun q => { q with counters := (o, v) :: q.counters.filter fun c => c.1 != o }
  else if 0x400 ≤ o ∧ o < 0x448 then
    .seq (.polder p fun q => { q with limits := q.limits.set ((o - 0x400) / 8) (w64 (v % (if o = 0x440 then 2 ^ 7 else 2 ^ 20))) })
      (.each (List.range 8) fun n => .offerWork { p.toPolder with core := n })
  else if 0x1000 ≤ o ∧ o < 0x3000 then
    let i := (o - 0x1000) / 32
    let n := o % 32 / 8
    .polder p fun q =>
      let old := (q.objects.find? fun e => e.1 == i).elim (List.replicate 4 0#64) fun e => e.2
      { q with
        objects := (i, objStore old n v) :: q.objects.filter fun e => e.1 != i
        l2 := if n = 0 then q.l2.filter fun x => !(x.reader.any fun r => r.1 == i) else q.l2 }
  else if 0x3000 ≤ o ∧ o < 0x4000 then
    let base := (o - 0x3000) * 8
    .polder p fun q => { q with
      unfresh := (List.range 64).filterMap (fun i => if bit v i then none else some (base + i))
        ++ q.unfresh.filter fun g => !(decide (base ≤ g) && decide (g < base + 64)) }
  else if o = 0x4000 then .seq (.setFence p (bit v 7)) (if bit v 5 then .stopAll p else .polder p fun q => { q with stop := false })
  else if o = 0x4008 then .beginSwap p (if bit v 4 then some (v % 16) else none)
  else if o = 0x4010 then
    let l : Loc := { p.toPolder with core := bits v 5 3, ctx := bits v 2 0 }
    match bits v 7 6 with
    | 1 => .releaseCommand l
    | 2 => .endCommand l
    | 3 => .haltCommand l
    | _ => .polder p fun q => if q.cmdBusy then q else { q with cmdWord := v % 2 ^ 6 }
  else if 0x4100 ≤ o ∧ o < 0x4500 then
    let part := (o - 0x4100) / 64
    let n := o % 64 / 8
    .when (decide (n < 5)) (.polder p fun q =>
      let old := (q.areas.find? fun a => a.1 == part).elim (List.replicate 5 0#64) fun a => a.2
      { q with areas := (part, old.set n (w64 v)) :: q.areas.filter fun a => a.1 != part })
  else .skip

/-- A word of an interface's configuration, its `rsv` bits zero (R448). -/
def cfgMask (n v : Nat) : Nat :=
  match n with
  | 0 => v / 2 ^ 32 * 2 ^ 32 + field (bits v 29 16) 14 16
  | 1 => v / 2 ^ 6 * 2 ^ 6 + v % 2 ^ 5
  | 3 => v % 2 ^ 20
  | _ => v

/-- A write of a remap entry: `pend` stays, and unmasking sends a held message (R456). -/
def Act.remapStore (d : Loc) (i n v : Nat) : Act :=
  .read fun s =>
    let old := ((s.device d).remap.find? fun e => e.1 == i).elim (0#64, 0#64) fun e => e.2
    let put (w0 w1 : W64) : Act := .device d fun x => { x with remap := (i, w0, w1) :: x.remap.filter fun e => e.1 != i }
    if n = 0 then put (w64 (v / 4 * 4)) old.2
    else
      let w1 := w64 (field (bits v 38 35) 4 35 + field (boolNat (bit old.2.toNat 34)) 1 34 + v % 2 ^ 34)
      .seq (put old.1 w1) (.when (!bit v 33) (.unmask d i))

/-- A write of a device-global register (R457). -/
def Act.globalStore (d : Loc) (o v : Nat) : Act :=
  if o = 0 then .revokePasid d v
  else if o = 8 then .invalidate d v
  else if o = 0x18 then .device d fun x => { x with pcap := if v % 2 ^ 16 ≤ 3200 then v % 2 ^ 16 else x.pcap }
  else if 0x20 ≤ o ∧ o < 0xA0 then
    .seq (.device d fun x => { x with lqtix := x.lqtix.set ((o - 0x20) / 8) (w64 (v % 2 ^ 13)) }) (.kickDispatch d)
  else .skip

/-- The places of the tables whose addresses the spec does not give: 64 bytes for each destination `dev`, with its routes, the partitions admitted to it
and its IP address and UDP port, and the recorded owner of a second-tier page (notes/assumptions 30). -/
def Act.tableStore (d : Loc) (o v : Nat) : Act :=
  if o < 0x4000 then
    let n := o / 64
    .device d fun x =>
      let r := (x.routes.find? fun r => r.dev == n).getD ⟨n, 0, 0, 0⟩
      let e := (x.ethTable.find? fun e => e.dev == n).getD ⟨n, false, 0, 0⟩
      let route (r : Route) : DeviceState := { x with routes := r :: x.routes.filter fun y => y.dev != n }
      let address (e : EtherAddr) : DeviceState := { x with ethTable := e :: x.ethTable.filter fun y => y.dev != n }
      match o % 64 / 8 with
      | 0 => route { r with ruevo := v % 2 ^ 12 }
      | 1 => route { r with ether := v % 2 ^ 16 }
      | 2 => route { r with parts := v % 2 ^ 16 }
      | 3 => address { e with addr := BitVec.ofNat 128 (e.addr.toNat / 2 ^ 64 * 2 ^ 64 + v % 2 ^ 64) }
      | 4 => address { e with addr := BitVec.ofNat 128 (v % 2 ^ 64 * 2 ^ 64 + e.addr.toNat % 2 ^ 64) }
      | 5 => address { e with port := BitVec.ofNat 16 v, v6 := bit v 16 }
      | _ => x
  else if o = 0x4000 then
    .device d fun x => { x with l2map := (if bit v 63 then [(bits v 40 0, bits v 49 41)] else []) ++ x.l2map.filter fun e => e.1 != bits v 40 0 }
  else .skip

/-- The word at an 8-byte offset of BAR 0, as system software reads it and as a 4-byte write leaves its other half (R447, R454, R456, R457, R460). -/
def State.bar0Word (s : State) (d : Loc) (off : Nat) : Nat :=
  let x := s.device d
  if off < 0x1800000 then s.controlWord (Loc.polderOf d.dev (off / 0x10000)) (off % 0x10000)
  else if off < 0x1840000 then (if off % 64 < 32 then cfgWord (x.queue ((off - 0x1800000) / 64)).cfg (off % 64 / 8) else 0)
  else if off < 0x1880000 then
    match x.remap.find? fun e => e.1 == (off - 0x1840000) / 16 with
    | some e => (if off % 16 = 0 then e.2.1 else e.2.2).toNat
    | none => 0
  else if off = 0x1880000 then x.revoke.toNat + field (boolNat x.revokeBusy) 1 63
  else if off = 0x1880008 then x.inval.toNat + field (boolNat x.invalBusy) 1 63
  else if off = 0x1880010 then x.podpos
  else if off = 0x1880018 then x.pcap
  else if 0x1880020 ≤ off ∧ off < 0x18800A0 then (x.lqtix.getD ((off - 0x1880020) / 8) 0#64).toNat
  else if 0x1890000 ≤ off ∧ off < 0x1890020 then numAt x.nonce (off - 0x1890000) 8
  else if off = 0x1890020 then x.mst
  else if 0x1890040 ≤ off ∧ off < 0x1890080 then numAt (Config.publicKey d.dev) (off - 0x1890040) 8
  else if 0x1891000 ≤ off ∧ off < 0x1898510 then numAt x.report (off - 0x1891000) 8
  else 0

/-- An 8-byte write of BAR 0 (R447, R459). -/
def Act.bar0Store (d : Loc) (off v : Nat) : Act :=
  if off < 0x1800000 then
    let p := Loc.polderOf d.dev (off / 0x10000)
    .seq (.fx (.ecc fun us => us.filter fun u => u != keyIn p 6 (off % 0x10000))) (.controlStore p (off % 0x10000) v)
  else if off < 0x1840000 then
    .when (decide (off % 64 < 32)) (.queue d ((off - 0x1800000) / 64) fun x =>
      { x with cfg := x.cfg.set (off % 64 / 8) (w64 (cfgMask (off % 64 / 8) v)) })
  else if off < 0x1880000 then .remapStore d ((off - 0x1840000) / 16) (off % 16 / 8) v
  else if off < 0x1890000 then .globalStore d (off - 0x1880000) v
  else if 0x18A0000 ≤ off ∧ off ≤ 0x18A4000 then .tableStore d (off - 0x18A0000) v
  else .skip

/-- A write of the nonce (R460). -/
def Act.nonceStore (d : Loc) (o v : Nat) : Act :=
  .device d fun x => { x with nonce := sliceBytes x.nonce 0 o ++ bytesOf 8 v ++ x.nonce.drop (o + 8) }

/-- The upper four bytes of these words hold read-only and `rsv` bits alone: a write of them is discarded (R5, R6, R454, R455, R457). -/
def upperFixed (base : Nat) : Bool :=
  base == 0x1880000 || (decide (base < 0x1800000) && [0x4000, 0x4008, 0x4010].contains (base % 0x10000))

/-- `REGISTER_WRITE` of 4 or 8 aligned bytes; another access is unsupported (R447). Before `podpos` has been written only the mailbox
and `podpos` take writes (R459); a write of `podpos` is the step `PODPOS_WRITE`, and of `go` the step `ATTEST_GO` (R460). -/
def Act.registerWrite (d : Loc) (off size v : Nat) : Act :=
  .read fun s =>
    let x := s.device d
    if !x.enumerable then .skip
    else if !accessOk off size (2 ^ 25) then .unsupported d
    else if size = 4 ∧ off % 8 = 4 ∧ upperFixed (off / 8 * 8) then .skip
    else
      let base := off / 8 * 8
      let old := s.bar0Word d base
      let word := if size = 8 then v % 2 ^ 64
        else if off % 8 = 0 then old / 2 ^ 32 * 2 ^ 32 + v % 2 ^ 32 else old % 2 ^ 32 + v % 2 ^ 32 * 2 ^ 32
      if 0x1890000 ≤ base ∧ base < 0x1890020 then .nonceStore d (base - 0x1890000) word
      else if base = 0x1890028 then .when (bit word 0) (.event 0 (.attestGo d.toDev))
      else if off = 0x1880010 then .event 0 (.podposWrite d.toDev word)
      else .when x.posWritten (.bar0Store d.toDev base word)

/-- `REGISTER_WRITE` (R315). -/
def execRegisterWrite (s : State) : Host.Outcome State Fault Refusal :=
  match s.cur with
  | .registerWrite d off size v => done (.registerWrite d off size v) s
  | _ => .next s

end Sys2Proof.Machine
end

