-- ==== Sys2Proof/Machine/Power.lean ====
section
/-! DEFINITION. Power, clocks, links and bring-up (spec/24 R459-R462, spec/15 R331, spec/16 R352, R353, spec/01 R17, R28) and attestation
(R460). What the environment decides (whether a retry succeeds, whether a bring-up step fails, whether a packet was cut) is a free value. -/

namespace Sys2Proof.Machine

/-! ## Where a step takes place -/

/-- The agent that an atomic's reply goes to. -/
def replyHome : AmoTo → Option Loc
  | .slot l _ _ => some l
  | .duty l _ => some l
  | .handler p _ _ => some p
  | .nowhere => none

/-- The context that a relocation arrives at, on the device of its source (R233). -/
def relocHome (j : RelocJob) : Loc :=
  { dev := j.source.dev, pidx := polderIndex (bits j.dest 15 14) (bits j.dest 13 10) (bits j.dest 9 7), core := bits j.dest 6 4,
    ctx := bits j.dest 2 0 }

/-- The agent at which a step takes place. -/
def Event.home : Event → Option Loc
  | .idle => none
  | .blockFetch l => some l
  | .blockFetchReadReturn l _ _ _ => some l
  | .tokenArrival l _ _ _ _ => some l
  | .blockCommit l _ => some l
  | .blockStarved l _ => some l
  | .portPushTimeout l _ => some l
  | .blockAbandon l _ => some l
  | .contextAllocation c => some c
  | .contextDispatch c => some c
  | .loadReply l _ _ _ _ => some l
  | .sluiceRequest _ at_ => some at_.owner
  | .tlbWalkComplete p _ => some p
  | .l2LineFill p _ _ _ _ _ => some p
  | .freshZeroingDone p _ => some p
  | .watchRegistration _ at_ => some at_.owner
  | .watchRegistrationReply r _ _ _ => some r.issuer
  | .watchArm _ h => some h.owner
  | .watchSatisfactionArrival s => some s.reg.issuer
  | .watchCancelArrival h _ _ => some h.owner
  | .atomicPacketArrival _ at_ => some at_.owner
  | .atomicTurn p _ => some p
  | .atomicReply a _ _ => replyHome a.into
  | .handlerStart p => some p
  | .handlerBudgetExpiry p _ => some p
  | .messageArrival c _ => some c
  | .sliceMessageArrival p _ => some p
  | .replyArrival _ at_ _ => some at_.owner
  | .moveNoticeArrival holder _ _ _ => some holder
  | .threadReleaseArrival holder _ => some holder
  | .migrationPacketArrival p _ => some p
  | .migrationAdmissionReply c _ _ _ => some c
  | .migrationResend p _ => some p
  | .relocTransfer j => some j.source
  | .relocArrival j _ => some (relocHome j)
  | .dequeRefill c => some c
  | .stealRequest c => some c
  | .stealRequestArrival victim _ _ _ => some victim
  | .stealReplyArrival _ thief _ => some thief
  | .stealBackoffExpiry c => some c
  | .launchDispatch d => some d
  | .launchGroupPlacement p => some p
  | .mergeReport _ p _ _ _ => some p
  | .sfuAccept c => some c
  | .sfuResult c _ _ _ _ _ => some c
  | .vectorBeat c => some c
  | .matrixEntryAccept p => some p
  | .matrixCommandRecord p _ _ => some p
  | .matrixSlab p _ _ => some p
  | .matrixEntryComplete p _ _ => some p
  | .rangeLockRegister p => some p
  | .entryRetire c => some c
  | .transferIssue p => some p
  | .eq2Pull c _ => some c
  | .pullw c _ => some c
  | .fill c _ => some c
  | .gcopy c _ => some c
  | .lineReadReply p _ _ _ => some p
  | .listenNotification p _ _ _ => some p
  | .allReduce c _ => some c
  | .reduceScatter c _ => some c
  | .allGather c _ => some c
  | .broadcast c _ => some c
  | .barrier c _ => some c
  | .allToAllV c _ => some c
  | .reduce c _ => some c
  | .chunkStart p => some p
  | .chunkEnd p _ => some p
  | .collectiveGaugeNotice p _ => some p
  | .absentAnswer p _ _ => some p
  | .returnNotice p _ _ => some p
  | .collectiveNoticeResend p _ _ => some p
  | .abortPacket p _ _ _ => some p
  | .stepPacket p _ _ _ => some p
  | .stepWaitTimeout p _ => some p
  | .agreePacket p _ _ _ => some p
  | .donePacket p _ _ => some p
  | .agreeTimeout p _ => some p
  | .linkRetry d _ _ => some d
  | .linkLost d _ => some d
  | .ethernetResend d _ _ => some d
  | .tailTimeout p => some p
  | .poisonedWormDiscard p _ => some p
  | .diePowerLoss d _ => some d
  | .thermalTrip d => some d
  | .clockThrottle d _ _ => some d
  | .powerOnBringup d => some d
  | .submissionTailWrite d _ _ _ => some d
  | .completionHeadWrite d _ _ _ => some d
  | .packetFetch d _ => some d
  | .hostNop d _ _ => some d
  | .hostRun d _ _ => some d
  | .hostLaunch d _ _ => some d
  | .hostWait d _ _ => some d
  | .hostCopyin d _ _ => some d
  | .hostCopyout d _ _ => some d
  | .hostWorkComplete d _ _ _ => some d
  | .remapUnmask d _ => some d
  | .pasidRevoke d _ => some d
  | .revocationComplete d => some d
  | .invalidatePasid d _ => some d
  | .invalidatePage d _ => some d
  | .invalidateStage2 d _ => some d
  | .invalidatePartition d _ => some d
  | .invalidationComplete d => some d
  | .podposWrite d _ => some d
  | .attestGo d => some d
  | .attestReportReady d => some d
  | .partitionSwap p _ => some p
  | .partitionRemove p _ => some p
  | .swapDrainComplete p => some p
  | .polderStopRequest p => some p
  | .polderFence p _ => some p
  | .contextReleaseCmd l => some l
  | .contextEndCmd l => some l
  | .contextHaltCmd l => some l
  | .registerWrite d _ _ _ => some d
  | .systemAbort p _ => some p
  | .readmission d _ => some d
  | .packagePowerLoss d => some d

/-- The agent at which an entry of the agenda takes place. -/
def workHome : Work → Option Loc
  | .fire l _ _ => some l
  | .slice p _ => some p
  | .event e => Event.home e

/-! ## Losing agents (R17, R352, R353) -/

/-- The owner that an address token of the agent at `l` leads to (R21). -/
def State.ownerOf (s : State) (l : Loc) (part pasid : Nat) (sup : Bool) (a : Nat) : Option Loc :=
  match s.resolve l part pasid sup a false with
  | .ok p => some p.owner
  | .error _ => none

/-- The owner that a context's access reaches. -/
def State.ctxOwner (s : State) (l : Loc) (a : Nat) : Option Loc := s.ownerOf l (s.partOf l) (s.ctx l).pasid.toNat (s.ctx l).sup a

/-- The owner that a line read of the copy/pull engine, or of a `VDEC` stream, reaches. -/
def State.lineOwner (s : State) (p : Loc) (id a : Nat) : Option Loc :=
  match (s.polder p).xfers.find? fun t => t.id == id with
  | some t => s.ownerOf (engineAgent { p with core := t.core }) t.part t.pasid t.sup a
  | none => ((s.cores.filter fun c => c.1.toPolder == p.toPolder).flatMap fun c => c.2.ring).findSome? fun e =>
      if e.rid = id ∧ id ≠ 0 then s.ownerOf e.owner e.part e.pasid e.sup a else none

/-- The agent that sent the packet whose arrival a step is; none for a step that is no arrival. -/
def State.packetFrom (s : State) : Work → Option Loc
  | .event (.loadReply l _ _ _ ans) => s.ctxOwner l ans.addr
  | .event (.blockFetchReadReturn l _ _ ans) => s.ctxOwner l ans.addr
  | .event (.lineReadReply p id _ ans) => s.lineOwner p id ans.addr
  | .event (.atomicReply a _ _) => (replyHome a.into).bind fun l => s.ctxOwner l a.addr
  | .event (.replyArrival src _ _) => some src
  | .event (.stealReplyArrival v _ _) => some v
  | .event (.mergeReport src _ _ _ _) => some src
  | .event (.sluiceRequest r _) => some r.who
  | .event (.watchRegistration w _) => some w.issuer
  | .event (.watchRegistrationReply _ h _ _) => some h.owner
  | .event (.watchArm w _) => some w.issuer
  | .event (.watchSatisfactionArrival x) => some x.handle.owner
  | .event (.listenNotification _ h _ _) => some h.owner
  | .event (.atomicPacketArrival a p) => some (amoWho a p.owner)
  | .event (.messageArrival c m) => some (s.senderOf c.dev m)
  | .event (.sliceMessageArrival p m) => some (s.senderOf p.dev m)
  | .event (.migrationPacketArrival _ m) => some m.source
  | .event (.migrationAdmissionReply _ _ _ d) => some d
  | .event (.relocArrival j _) => some j.source
  | .event (.moveNoticeArrival _ _ _ new) => some new
  | .event (.threadReleaseArrival _ r) => some r.thread
  | .event (.stealRequestArrival _ t _ _) => some t
  | .event (.abortPacket _ _ _ ini) => some ini
  | .event (.stepPacket p cid rank _) => (s.abortAt p cid).map fun a => s.memberAt p (a.members.getD rank (0, 0))
  | .event (.agreePacket p cid _ _) => (s.abortAt p cid).map fun a => a.initiator
  | .event (.donePacket p cid rank) => (s.abortAt p cid).map fun a => s.memberAt p (a.members.getD rank (0, 0))
  | .event (.collectiveGaugeNotice p n) => (s.memberComm p n.cid).map fun c => s.memberAt p (c.members.getD n.rank (0, 0))
  | .event (.absentAnswer p cid rank) => (s.memberComm p cid).map fun c => s.memberAt p (c.members.getD rank (0, 0))
  | .event (.returnNotice p cid rank) => (s.memberComm p cid).map fun c => s.memberAt p (c.members.getD rank (0, 0))
  | _ => none

/-- A packet was under way through the agents that `gone` describes: its sender is one of them, or it passes through their die (R16, R17). -/
def State.underWay (s : State) (gone : Loc → Bool) (w : Work) : Bool :=
  match s.packetFrom w, workHome w with
  | some a, some b => decide (a.toPolder ≠ b.toPolder) && (gone a || (s.transits a b).any gone)
  | _, _ => false

/-- A read whose request or response is poisoned is answered with 0x11 (R331). -/
def Act.poisonedRead (delay : Nat) (w : Work) : Act :=
  .read fun s => match w with
    | .event (.sluiceRequest r at_) => .answer r (delay + s.way at_.owner r.who + 6) 0x11 []
    | .event (.loadReply l ep n rd ans) => .event delay (.loadReply l ep n rd ⟨0x11, ans.addr, []⟩)
    | .event (.blockFetchReadReturn l ep second ans) => .event delay (.blockFetchReadReturn l ep second ⟨0x11, ans.addr, []⟩)
    | .event (.lineReadReply p id i ans) => .event delay (.lineReadReply p id i ⟨0x11, ans.addr, []⟩)
    | _ => .skip

/-- A packet that loss of power may have cut short arrives whole, or its routers close it with a poisoned tail after 4,096 cycles and its receiver discards
and counts it; which of the two is a free value (R17; notes/assumptions 126). -/
def Act.cutShort (p : Loc) (q : Pending) : Act :=
  .read fun s => .withFree fun n =>
    if Config.choice n % 2 = 0 then .fx (.sched (q.due - s.now) q.work)
    else .seq (.event (q.due - s.now + 4096) (.tailTimeout p.toPolder)) (.poisonedRead (q.due - s.now + 4096) q.work)

/-- What becomes of a step on the agenda when the agents that satisfy `gone` lose power: requests to them are answered dry by the owner's
checks, messages are refused DRY, a thief is refused, all else of theirs ends; a packet that one of them sent, or that was passing through their die, may
have been cut short (R17, R352). -/
def Act.orphan (gone : Loc → Bool) (q : Pending) : Act :=
  .read fun s =>
    let again : Act := .fx (.sched (q.due - s.now) q.work)
    match workHome q.work with
    | none => again
    | some home =>
      if !gone home then (if s.underWay gone q.work then .cutShort home q else again)
      else match q.work with
        | .event (.sluiceRequest r _) => .when (!gone r.who) again
        | .event (.watchRegistration w _) => .when (!gone w.issuer) again
        | .event (.watchArm w _) => .when (!gone w.issuer) again
        | .event (.migrationPacketArrival _ m) => .when (!gone m.source) again
        | .event (.atomicPacketArrival a p) => .when (!gone (amoWho a p.owner)) again
        | .event (.atomicTurn p (some x)) => .when (!gone (amoWho x.1 p)) (.event (s.way p (amoWho x.1 p)) (.atomicReply x.1 9 0))
        | .event (.messageArrival c m) => .when (!gone (s.senderOf c.dev m)) (.reply c m 4)
        | .event (.sliceMessageArrival p m) => .when (!gone (s.senderOf p.dev m)) (.reply p m 4)
        | .event (.stealRequestArrival v t _ _) => .when (!gone t) (.event (8 + s.way v t) (.stealReplyArrival v t none))
        | _ => .skip

/-- Requests that the lost agents held for others are answered dry (R352). -/
def Act.answerHeld (gone : Loc → Bool) : Act :=
  .read fun s => .each (s.polders.filter fun x => gone x.1) fun x =>
    .all [
      .each (x.2.amoHeld ++ x.2.amoWait ++ x.2.amoSlots.flatMap fun t => t.queue) fun a =>
        .when (!gone (amoWho a.1 x.1)) (.event (s.way x.1 (amoWho a.1 x.1)) (.atomicReply a.1 9 0)),
      .each (x.2.zeroing.flatMap fun z => z.2.2) fun r => .when (!gone r.1.who) (.answer r.1 (s.way x.1 r.1.who) 9 []),
      .each x.2.migBuf fun m => .when (!gone m.source) (.event (8 + s.way x.1 m.source) (.migrationAdmissionReply m.source.toCore m 4 x.1))]

/-- AGENTS LOSE POWER: their steps end, what others sent them is answered, watches and listens that they own are answered dry, and their state is lost
(R127, R133, R352, R459). -/
def Act.vanish (gone : Loc → Bool) : Act :=
  .read fun s => .all [
    .fx (.cancel fun _ => true),
    .answerHeld gone,
    .each s.agenda (.orphan gone),
    .each (s.polders.filter fun x => gone x.1) fun x => .seq
      (.polder x.1 fun q => { q with
        watches := q.watches.filter fun w => !gone w.reg.issuer
        saves := q.saves.map fun v => { v with watches := v.watches.filter fun w => !gone w.reg.issuer } })
      (.dryWatches x.1),
    .each s.devices fun x => .device x.1 fun d => { d with readmitted := d.readmitted.filter fun o => !gone o },
    .fx (.forget gone gone)]

/-- `DIE_POWER_LOSS`: the die's agents are gone, and it is dry to all others (R352). -/
def execDiePowerLoss (s : State) : Host.Outcome State Fault Refusal :=
  match s.cur with
  | .diePowerLoss d die => done (.loss (.seq
      (.device d fun x => { x with dieDown := if x.dieDown.contains die then x.dieDown else x.dieDown ++ [die] })
      (.vanish fun l => l.dev == d.dev && l.die == die && l.pidx < 384))) s
  | _ => .next s

/-- The memory of a device is lost (R459). -/
def Act.wipe (d : Loc) : Act :=
  .all [.fx (.keep fun k => k / 2 ^ 55 != d.dev), .fx (.sideKeep fun k => 32 * k / 2 ^ 55 != d.dev),
    .fx (.ecc fun us => us.filter fun u => u / 2 ^ 55 != d.dev)]

/-- The package loses power: every state held on it is lost (R459). -/
def Act.powerOff (d : Loc) : Act :=
  .loss (.all [.device d fun _ => DeviceState.initial, .vanish fun l => l.dev == d.dev, .wipe d])

/-- `PACKAGE_POWER_LOSS` (R459). -/
def execPackagePowerLoss (s : State) : Host.Outcome State Fault Refusal :=
  match s.cur with
  | .packagePowerLoss d => done (.powerOff d) s
  | _ => .next s
/-- `THERMAL_TRIP`: a junction at 110 °C removes power from the package (R461). -/
def execThermalTrip (s : State) : Host.Outcome State Fault Refusal :=
  match s.cur with
  | .thermalTrip d => done (.powerOff d) s
  | _ => .next s

/-! ## Bring-up (R459) -/

/-- The bytes of slice handler memory that bring-up leaves at 2, from the highest key down: in each polder's four set descriptors byte 9, so that `deflim` is 512
(R362; notes/assumptions 146). -/
def deflimKeys (d : Loc) : List Nat :=
  (List.range 1536).map fun i => ((d.dev * 512 + (383 - i / 4)) * 8 + 5) * 2 ^ 43 + 64 * (3 - i % 4) + 9

/-- `POWER_ON_BRINGUP`: steps 1 to 5. The step that fails, if one does, is a free value, and so is the image that step 2 measures. -/
def Act.bringUp (d : Loc) : Act :=
  .read fun s => .when (!(s.device d).power) (.withFree fun n =>
    let fail := Config.choice n % 6
    let last := if fail = 0 then 5 else fail - 1
    .all [
      .wipe d,
      .when (decide (1 ≤ last)) (.each (deflimKeys d) fun k => .fx (.byte k 2#8)),
      .fx (.forget (fun l => l.dev == d.dev) fun l => l.dev == d.dev),
      .device d fun _ => { DeviceState.initial with
        power := decide (1 ≤ last)
        broughtUp := last
        cycBase := s.now
        measure := if 2 ≤ last then Config.digest (bytesOf 8 n) % 2 ^ 512 else 0
        links := (List.range 32).map fun i => ⟨i, decide (i < 4) && decide (3 ≤ last), false⟩ }])

/-- `POWER_ON_BRINGUP` (R459). -/
def execPowerOnBringup (s : State) : Host.Outcome State Fault Refusal :=
  match s.cur with
  | .powerOnBringup d => done (.bringUp d) s
  | _ => .next s

/-- `PODPOS_WRITE`: step 6; BAR 0 admits every write, and at the first write the outside ports train. Which of them do is a free value; where none does, the
step has failed (R459; notes/assumptions 152). -/
def Act.writePodpos (d : Loc) (v : Nat) : Act :=
  .withFree fun n => .device d fun x =>
    let links := x.links.map fun k => if 4 ≤ k.id ∧ !x.posWritten then { k with trained := bit (Config.choice n) k.id } else k
    { x with podpos := v % 256, posWritten := true, links := links, broughtUp := if links.any fun k => decide (4 ≤ k.id) && k.trained then 6 else 5 }

/-- `PODPOS_WRITE` (R459). -/
def execPodposWrite (s : State) : Host.Outcome State Fault Refusal :=
  match s.cur with
  | .podposWrite d v => done (.when (s.device d).enumerable (.writePodpos d v)) s
  | _ => .next s

/-! ## Attestation (R460) -/

/-- Configuration words under their numbers as bytes, in the order of the numbers; what holds zeros alone is as if it had never been written. -/
def configList (xs : List (Nat × List Nat)) : List Byte :=
  (sortBy (fun x => x.1) (xs.filter fun x => x.2.any fun w => w != 0)).flatMap fun x => bytesOf 8 x.1 ++ x.2.flatMap (bytesOf 8)

/-- The partition, interface and remap configuration as bytes; a remap entry's `pend` is no configuration (R460; notes/assumptions 152). -/
def State.configBytes (s : State) (d : Loc) : List Byte :=
  let x := s.device d
  let ps := s.polders.filter fun y => y.1.dev == d.dev
  configList (ps.map fun y => (y.1.pidx, [y.2.part.elim 0 fun p => 16 + p]))
    ++ configList (ps.flatMap fun y => y.2.areas.map fun a => (y.1.pidx * 16 + a.1, a.2.map fun w => w.toNat))
    ++ configList (x.queues.map fun q => (q.q, q.cfg.map fun w => w.toNat))
    ++ configList (x.remap.map fun e => (e.1, [e.2.1.toNat, e.2.2.toNat - field (boolNat (bit e.2.2.toNat 34)) 1 34]))

/-- `ATTEST_GO`: signing starts over the nonce as it stands and takes about 0.4 s; while one goes on, the request is discarded and seen in
`mst` (R460). -/
def Act.attest (d : Loc) : Act :=
  .read fun s =>
    let x := s.device d
    if 2 ≤ x.mst then .device d fun y => { y with mst := 3 }
    else .seq (.device d fun y => { y with mst := 2, snapshot := x.nonce ++ s.configBytes d }) (.event 560000000 (.attestReportReady d.toDev))

/-- `ATTEST_GO` (R460). -/
def execAttestGo (s : State) : Host.Outcome State Fault Refusal :=
  match s.cur with
  | .attestGo d => done (.when (s.device d).enumerable (.attest d)) s
  | _ => .next s

/-- Bytes 0 to 175 of a report (R460). -/
def DeviceState.reportHead (x : DeviceState) (n : Nat) : List Byte :=
  sliceBytes x.snapshot 0 32 ++ bytesOf 8 x.podpos ++ bytesOf 64 x.measure ++ bytesOf 64 (Config.digest (x.snapshot.drop 32)) ++ bytesOf 8 n

/-- `ATTEST_REPORT_READY`: the counter rises by one and the report is written (R460). -/
def execAttestReportReady (s : State) : Host.Outcome State Fault Refusal :=
  match s.cur with
  | .attestReportReady d => done (.when (decide (2 ≤ (s.device d).mst)) (.device d fun x =>
      let n := x.reports + 1
      let head := x.reportHead n
      { x with mst := 1, reports := n, report := head ++ sliceBytes (Config.signature head) 0 29792 })) s
  | _ => .next s

/-! ## Clocks (R28, R461) -/

/-- A clock that the firmware may set: 0.2 to 1.4 GHz in steps of 50 MHz. -/
def clockOk (khz : Nat) : Bool := decide (200000 ≤ khz) && decide (khz ≤ 1400000) && khz % 50000 == 0

/-- The core-and-slice island of a polder takes a clock; a running handler keeps the slice cycles it has used (R364, R370). -/
def Act.setClock (p : Loc) (khz : Nat) : Act :=
  .read fun s => .seq (.polder p fun q => { q with khz := khz }) (match (s.polder p).handler with
    | none => .skip
    | some h =>
      let used := s.elapsed p h
      .read fun t =>
        let start := t.now - t.sliceTicks p used
        .all [
          .handler p fun x => { x with start := start },
          .fx (.cancel fun w => w == .event (.handlerBudgetExpiry p.toPolder h.gen)),
          .event (start + t.sliceTicks p h.limit - t.now) (.handlerBudgetExpiry p.toPolder h.gen)])

/-- `CLOCK_THROTTLE`: islands 0 to 383 are the polders' core-and-slice islands, and the others follow: R28 gives counts and no
numbers (R28, R461; notes/assumptions 117). -/
def execClockThrottle (s : State) : Host.Outcome State Fault Refusal :=
  match s.cur with
  | .clockThrottle d i khz => done (.when (clockOk khz && decide (i < 1024))
      (if i < 384 then .setClock (Loc.polderOf d.dev i) khz
      else .device d fun x => { x with clocks := (i, khz) :: x.clocks.filter fun c => c.1 != i })) s
  | _ => .next s

/-! ## Links (R331, R462) -/

/-- The retry interval of a link: 0.1 µs for a bridge, 1 µs for a Ruevo port (R331). -/
def retryInterval (link : Nat) : Nat := if link < 4 then 140 else 1400

/-- `LINK_LOST`: the link is declared lost; what no remaining link reaches is dry (R331, R352). -/
def execLinkLost (s : State) : Host.Outcome State Fault Refusal :=
  match s.cur with
  | .linkLost d i => done (.loss (.device d fun x => { x with links := x.links.map fun k => if k.id = i then { k with lost := true } else k })) s
  | _ => .next s

/-- An unanswered flit or worm: acknowledged now, or tried again after an interval; after `n` 16 the link is lost (R331, R462). Whether an
acknowledgement comes is a free value. -/
def Act.tryAgain (d : Loc) (link n interval : Nat) (next : Event) : Act :=
  .withFree fun k => if Config.choice k % 2 = 0 then .skip
    else if 16 ≤ n then .event 0 (.linkLost d.toDev link)
    else .event interval next

/-- `LINK_RETRY` (R331). -/
def execLinkRetry (s : State) : Host.Outcome State Fault Refusal :=
  match s.cur with
  | .linkRetry d link n => done (.tryAgain d link n (retryInterval link) (.linkRetry d link (n + 1))) s
  | _ => .next s

/-- `ETHERNET_RESEND`: port `p` is link 16 + p; a worm is resent after 64 µs, up to 16 times (R462). -/
def execEthernetResend (s : State) : Host.Outcome State Fault Refusal :=
  match s.cur with
  | .ethernetResend d port n => done (.tryAgain d (16 + port) n 89600 (.ethernetResend d port (n + 1))) s
  | _ => .next s

/-- `TAIL_TIMEOUT`: the worm is closed with a poisoned tail and goes on to its receiver (R17). -/
def execTailTimeout (s : State) : Host.Outcome State Fault Refusal :=
  match s.cur with
  | .tailTimeout p => done (.event 0 (.poisonedWormDiscard p.toPolder true)) s
  | _ => .next s
/-- The packets of other polders that are on their way to a polder. -/
def State.inbound (s : State) (p : Loc) : List Pending :=
  s.agenda.filter fun q => (s.packetFrom q.work).any fun a => a.toPolder != p.toPolder && ((workHome q.work).any fun b => b.toPolder == p.toPolder)

/-- A parity error in a router poisons a packet on its way to a polder: a read comes back as 0x11, all else is discarded and counted. Which packet it is, is a
free value (R331; notes/assumptions 126). -/
def Act.poisonOne (p : Loc) : Act :=
  .withFree fun n => .read fun s =>
    let qs := s.inbound p
    match qs[Config.choice n % max 1 qs.length]? with
    | none => .count p 0x360
    | some q =>
      let same := (s.agenda.filter fun x => x.work == q.work).erase q
      .all [
        .fx (.cancel fun w => w == q.work),
        .each same fun x => .fx (.sched (x.due - s.now) x.work),
        .poisonedRead (q.due - s.now) q.work,
        .count p 0x360]

/-- `POISONED_WORM_DISCARD`: the receiver discards a worm and counts it: one that a tail timeout has closed (`torn`), or one that a router has poisoned (R17,
R329, R331). -/
def execPoisonedWormDiscard (s : State) : Host.Outcome State Fault Refusal :=
  match s.cur with
  | .poisonedWormDiscard p torn => done (if torn then .count p 0x360 else .poisonOne p) s
  | _ => .next s

/-- `READMISSION`: system software readmits an owner to the agents of a device (R352); the first of a die that has lost its power alone shows that the die has
left reset, and its cycle counter starts (R71). -/
def execReadmission (s : State) : Host.Outcome State Fault Refusal :=
  match s.cur with
  | .readmission d o => done (.device d fun x => { x with
      dieBase := if x.dieDown.contains o.die && o.dev == d.dev && !x.readmitted.any (fun q => q.dev == o.dev && q.die == o.die)
        then (o.die, s.now) :: x.dieBase.filter (fun q => q.1 != o.die) else x.dieBase
      readmitted := if x.readmitted.contains o.toPolder then x.readmitted else x.readmitted ++ [o.toPolder] }) s
  | _ => .next s

end Sys2Proof.Machine
end

