-- ==== Sys2Proof/Machine/Dispatch.lean ====
section
/-! DEFINITION. The meaning of each instruction and step, by constructor. -/

namespace Sys2Proof.Machine

def exec (i : Instr) (s : State) : Host.Outcome State Fault Refusal :=
  match i with
  | .read r t1 t0 => Sys2Proof.Machine.execRead r t1 t0 s
  | .write p r => Sys2Proof.Machine.execWrite p r s
  | .const k t0 => Sys2Proof.Machine.execConst k t0 s
  | .consth k t0 => Sys2Proof.Machine.execConsth k t0 s
  | .mov2 p t1 t0 => Sys2Proof.Machine.execMov2 p t1 t0 s
  | .null p t1 t0 => Sys2Proof.Machine.execNull p t1 t0 s
  | .sel t1 t0 => Sys2Proof.Machine.execSel t1 t0 s
  | .add p t1 t0 => Sys2Proof.Machine.execAdd p t1 t0 s
  | .sub p t1 t0 => Sys2Proof.Machine.execSub p t1 t0 s
  | .and p t1 t0 => Sys2Proof.Machine.execAnd p t1 t0 s
  | .or p t1 t0 => Sys2Proof.Machine.execOr p t1 t0 s
  | .xor p t1 t0 => Sys2Proof.Machine.execXor p t1 t0 s
  | .andn p t1 t0 => Sys2Proof.Machine.execAndn p t1 t0 s
  | .shl p t1 t0 => Sys2Proof.Machine.execShl p t1 t0 s
  | .shr p t1 t0 => Sys2Proof.Machine.execShr p t1 t0 s
  | .sra p t1 t0 => Sys2Proof.Machine.execSra p t1 t0 s
  | .rol p t1 t0 => Sys2Proof.Machine.execRol p t1 t0 s
  | .ror p t1 t0 => Sys2Proof.Machine.execRor p t1 t0 s
  | .mul p t1 t0 => Sys2Proof.Machine.execMul p t1 t0 s
  | .mulh p t1 t0 => Sys2Proof.Machine.execMulh p t1 t0 s
  | .mulhn p t1 t0 => Sys2Proof.Machine.execMulhn p t1 t0 s
  | .div p t1 t0 => Sys2Proof.Machine.execDiv p t1 t0 s
  | .divn p t1 t0 => Sys2Proof.Machine.execDivn p t1 t0 s
  | .rem p t1 t0 => Sys2Proof.Machine.execRem p t1 t0 s
  | .remn p t1 t0 => Sys2Proof.Machine.execRemn p t1 t0 s
  | .min p t1 t0 => Sys2Proof.Machine.execMin p t1 t0 s
  | .max p t1 t0 => Sys2Proof.Machine.execMax p t1 t0 s
  | .minn p t1 t0 => Sys2Proof.Machine.execMinn p t1 t0 s
  | .maxn p t1 t0 => Sys2Proof.Machine.execMaxn p t1 t0 s
  | .clz p t1 t0 => Sys2Proof.Machine.execClz p t1 t0 s
  | .ctz p t1 t0 => Sys2Proof.Machine.execCtz p t1 t0 s
  | .popc p t1 t0 => Sys2Proof.Machine.execPopc p t1 t0 s
  | .addsat p t1 t0 => Sys2Proof.Machine.execAddsat p t1 t0 s
  | .subsat p t1 t0 => Sys2Proof.Machine.execSubsat p t1 t0 s
  | .absd p t1 t0 => Sys2Proof.Machine.execAbsd p t1 t0 s
  | .addw p t1 t0 => Sys2Proof.Machine.execAddw p t1 t0 s
  | .subw p t1 t0 => Sys2Proof.Machine.execSubw p t1 t0 s
  | .andw p t1 t0 => Sys2Proof.Machine.execAndw p t1 t0 s
  | .orw p t1 t0 => Sys2Proof.Machine.execOrw p t1 t0 s
  | .xorw p t1 t0 => Sys2Proof.Machine.execXorw p t1 t0 s
  | .andnw p t1 t0 => Sys2Proof.Machine.execAndnw p t1 t0 s
  | .shlw p t1 t0 => Sys2Proof.Machine.execShlw p t1 t0 s
  | .shrw p t1 t0 => Sys2Proof.Machine.execShrw p t1 t0 s
  | .sraw p t1 t0 => Sys2Proof.Machine.execSraw p t1 t0 s
  | .rolw p t1 t0 => Sys2Proof.Machine.execRolw p t1 t0 s
  | .rorw p t1 t0 => Sys2Proof.Machine.execRorw p t1 t0 s
  | .mulw p t1 t0 => Sys2Proof.Machine.execMulw p t1 t0 s
  | .divw p t1 t0 => Sys2Proof.Machine.execDivw p t1 t0 s
  | .divnw p t1 t0 => Sys2Proof.Machine.execDivnw p t1 t0 s
  | .remw p t1 t0 => Sys2Proof.Machine.execRemw p t1 t0 s
  | .remnw p t1 t0 => Sys2Proof.Machine.execRemnw p t1 t0 s
  | .clzw p t1 t0 => Sys2Proof.Machine.execClzw p t1 t0 s
  | .ctzw p t1 t0 => Sys2Proof.Machine.execCtzw p t1 t0 s
  | .popcw p t1 t0 => Sys2Proof.Machine.execPopcw p t1 t0 s
  | .addi p imm t0 => Sys2Proof.Machine.execAddi p imm t0 s
  | .andi p imm t0 => Sys2Proof.Machine.execAndi p imm t0 s
  | .ori p imm t0 => Sys2Proof.Machine.execOri p imm t0 s
  | .xori p imm t0 => Sys2Proof.Machine.execXori p imm t0 s
  | .shli p sh t0 => Sys2Proof.Machine.execShli p sh t0 s
  | .shri p sh t0 => Sys2Proof.Machine.execShri p sh t0 s
  | .srai p sh t0 => Sys2Proof.Machine.execSrai p sh t0 s
  | .muli p imm t0 => Sys2Proof.Machine.execMuli p imm t0 s
  | .cmp p c t1 t0 => Sys2Proof.Machine.execCmp p c t1 t0 s
  | .cmpi p c imm t0 => Sys2Proof.Machine.execCmpi p c imm t0 s
  | .lea p sh t1 t0 => Sys2Proof.Machine.execLea p sh t1 t0 s
  | .ext p g l sh t0 => Sys2Proof.Machine.execExt p g l sh t0 s
  | .ins t1 t0 => Sys2Proof.Machine.execIns t1 t0 s
  | .br p e o => Sys2Proof.Machine.execBr p e o s
  | .brl p e => Sys2Proof.Machine.execBrl p e s
  | .call p e o => Sys2Proof.Machine.execCall p e o s
  | .calll p e => Sys2Proof.Machine.execCalll p e s
  | .ret p e => Sys2Proof.Machine.execRet p e s
  | .endExit p e => Sys2Proof.Machine.execEnd p e s
  | .susp p e o => Sys2Proof.Machine.execSusp p e o s
  | .migr p e o => Sys2Proof.Machine.execMigr p e o s
  | .ld8 p l imm t0 => Sys2Proof.Machine.execLd8 p l imm t0 s
  | .ld16 p l imm t0 => Sys2Proof.Machine.execLd16 p l imm t0 s
  | .ld32 p l imm t0 => Sys2Proof.Machine.execLd32 p l imm t0 s
  | .ld64 p l imm t0 => Sys2Proof.Machine.execLd64 p l imm t0 s
  | .lds8 p l imm t0 => Sys2Proof.Machine.execLds8 p l imm t0 s
  | .lds16 p l imm t0 => Sys2Proof.Machine.execLds16 p l imm t0 s
  | .lds32 p l imm t0 => Sys2Proof.Machine.execLds32 p l imm t0 s
  | .lda p l sc o t0 => Sys2Proof.Machine.execLda p l sc o t0 s
  | .st8 p l imm => Sys2Proof.Machine.execSt8 p l imm s
  | .st16 p l imm => Sys2Proof.Machine.execSt16 p l imm s
  | .st32 p l imm => Sys2Proof.Machine.execSt32 p l imm s
  | .st64 p l imm => Sys2Proof.Machine.execSt64 p l imm s
  | .stl p l sc o => Sys2Proof.Machine.execStl p l sc o s
  | .fence p l sc k t0 => Sys2Proof.Machine.execFence p l sc k t0 s
  | .pref p l imm => Sys2Proof.Machine.execPref p l imm s
  | .amoar p x t1 t0 => Sys2Proof.Machine.execAmoar p x t1 t0 s
  | .gadv p l sc o => Sys2Proof.Machine.execGadv p l sc o s
  | .watchTask t1 t0 => Sys2Proof.Machine.execWatchTask t1 t0 s
  | .watchFut t1 t0 => Sys2Proof.Machine.execWatchFut t1 t0 s
  | .watchCancel p => Sys2Proof.Machine.execWatchCancel p s
  | .pull => Sys2Proof.Machine.execPull s
  | .listen p t1 t0 => Sys2Proof.Machine.execListen p t1 t0 s
  | .unlisten p => Sys2Proof.Machine.execUnlisten p s
  | .amo p x t1 t0 => Sys2Proof.Machine.execAmo p x t1 t0 s
  | .amoaq p x t1 t0 => Sys2Proof.Machine.execAmoaq p x t1 t0 s
  | .amorl p x t1 t0 => Sys2Proof.Machine.execAmorl p x t1 t0 s
  | .faddD p t1 t0 => Sys2Proof.Machine.execFaddD p t1 t0 s
  | .fsubD p t1 t0 => Sys2Proof.Machine.execFsubD p t1 t0 s
  | .fmulD p t1 t0 => Sys2Proof.Machine.execFmulD p t1 t0 s
  | .fdivD p t1 t0 => Sys2Proof.Machine.execFdivD p t1 t0 s
  | .fsqrtD p t1 t0 => Sys2Proof.Machine.execFsqrtD p t1 t0 s
  | .fminD p t1 t0 => Sys2Proof.Machine.execFminD p t1 t0 s
  | .fmaxD p t1 t0 => Sys2Proof.Machine.execFmaxD p t1 t0 s
  | .fnegD p t1 t0 => Sys2Proof.Machine.execFnegD p t1 t0 s
  | .fabsD p t1 t0 => Sys2Proof.Machine.execFabsD p t1 t0 s
  | .feqD p t1 t0 => Sys2Proof.Machine.execFeqD p t1 t0 s
  | .fltD p t1 t0 => Sys2Proof.Machine.execFltD p t1 t0 s
  | .fleD p t1 t0 => Sys2Proof.Machine.execFleD p t1 t0 s
  | .fclassD p t1 t0 => Sys2Proof.Machine.execFclassD p t1 t0 s
  | .fsgnjD p t1 t0 => Sys2Proof.Machine.execFsgnjD p t1 t0 s
  | .faddS p t1 t0 => Sys2Proof.Machine.execFaddS p t1 t0 s
  | .fsubS p t1 t0 => Sys2Proof.Machine.execFsubS p t1 t0 s
  | .fmulS p t1 t0 => Sys2Proof.Machine.execFmulS p t1 t0 s
  | .fdivS p t1 t0 => Sys2Proof.Machine.execFdivS p t1 t0 s
  | .fsqrtS p t1 t0 => Sys2Proof.Machine.execFsqrtS p t1 t0 s
  | .fminS p t1 t0 => Sys2Proof.Machine.execFminS p t1 t0 s
  | .fmaxS p t1 t0 => Sys2Proof.Machine.execFmaxS p t1 t0 s
  | .fnegS p t1 t0 => Sys2Proof.Machine.execFnegS p t1 t0 s
  | .fabsS p t1 t0 => Sys2Proof.Machine.execFabsS p t1 t0 s
  | .feqS p t1 t0 => Sys2Proof.Machine.execFeqS p t1 t0 s
  | .fltS p t1 t0 => Sys2Proof.Machine.execFltS p t1 t0 s
  | .fleS p t1 t0 => Sys2Proof.Machine.execFleS p t1 t0 s
  | .fclassS p t1 t0 => Sys2Proof.Machine.execFclassS p t1 t0 s
  | .fsgnjS p t1 t0 => Sys2Proof.Machine.execFsgnjS p t1 t0 s
  | .fmaD t1 t0 => Sys2Proof.Machine.execFmaD t1 t0 s
  | .fmaS t1 t0 => Sys2Proof.Machine.execFmaS t1 t0 s
  | .fcvt p x t1 t0 => Sys2Proof.Machine.execFcvt p x t1 t0 s
  | .sfnExp2 p t1 t0 => Sys2Proof.Machine.execSfnExp2 p t1 t0 s
  | .sfnLog2 p t1 t0 => Sys2Proof.Machine.execSfnLog2 p t1 t0 s
  | .sfnRcp p t1 t0 => Sys2Proof.Machine.execSfnRcp p t1 t0 s
  | .sfnRsq p t1 t0 => Sys2Proof.Machine.execSfnRsq p t1 t0 s
  | .sfnSin p t1 t0 => Sys2Proof.Machine.execSfnSin p t1 t0 s
  | .sfnCos p t1 t0 => Sys2Proof.Machine.execSfnCos p t1 t0 s
  | .sfnTanh p t1 t0 => Sys2Proof.Machine.execSfnTanh p t1 t0 s
  | .sfnSigm p t1 t0 => Sys2Proof.Machine.execSfnSigm p t1 t0 s
  | .vadd => Sys2Proof.Machine.execVadd s
  | .vsub => Sys2Proof.Machine.execVsub s
  | .vmul => Sys2Proof.Machine.execVmul s
  | .vdiv => Sys2Proof.Machine.execVdiv s
  | .vmin => Sys2Proof.Machine.execVmin s
  | .vmax => Sys2Proof.Machine.execVmax s
  | .vand => Sys2Proof.Machine.execVand s
  | .vor => Sys2Proof.Machine.execVor s
  | .vxor => Sys2Proof.Machine.execVxor s
  | .vshl => Sys2Proof.Machine.execVshl s
  | .vshr => Sys2Proof.Machine.execVshr s
  | .vfma => Sys2Proof.Machine.execVfma s
  | .vneg p => Sys2Proof.Machine.execVneg p s
  | .vabs p => Sys2Proof.Machine.execVabs p s
  | .vcpy p => Sys2Proof.Machine.execVcpy p s
  | .vexp2 p => Sys2Proof.Machine.execVexp2 p s
  | .vlog2 p => Sys2Proof.Machine.execVlog2 p s
  | .vrcp p => Sys2Proof.Machine.execVrcp p s
  | .vrsq p => Sys2Proof.Machine.execVrsq p s
  | .vtanh p => Sys2Proof.Machine.execVtanh p s
  | .vsigm p => Sys2Proof.Machine.execVsigm p s
  | .vsin p => Sys2Proof.Machine.execVsin p s
  | .vcos p => Sys2Proof.Machine.execVcos p s
  | .vredSum p => Sys2Proof.Machine.execVredSum p s
  | .vredMax p => Sys2Proof.Machine.execVredMax p s
  | .vredMin p => Sys2Proof.Machine.execVredMin p s
  | .vredAmax p => Sys2Proof.Machine.execVredAmax p s
  | .vscanInc p => Sys2Proof.Machine.execVscanInc p s
  | .vscanExc p => Sys2Proof.Machine.execVscanExc p s
  | .vgath => Sys2Proof.Machine.execVgath s
  | .vscat => Sys2Proof.Machine.execVscat s
  | .vmsk => Sys2Proof.Machine.execVmsk s
  | .vbcast p => Sys2Proof.Machine.execVbcast p s
  | .vpopaNone => Sys2Proof.Machine.execVpopaNone s
  | .vpopaRelu => Sys2Proof.Machine.execVpopaRelu s
  | .vpopaClamp => Sys2Proof.Machine.execVpopaClamp s
  | .vcmp c => Sys2Proof.Machine.execVcmp c s
  | .vsel => Sys2Proof.Machine.execVsel s
  | .vpermRev p => Sys2Proof.Machine.execVpermRev p s
  | .vpermIntl p => Sys2Proof.Machine.execVpermIntl p s
  | .vpermDintl p => Sys2Proof.Machine.execVpermDintl p s
  | .vpermRot => Sys2Proof.Machine.execVpermRot s
  | .vqnt p => Sys2Proof.Machine.execVqnt p s
  | .venc n => Sys2Proof.Machine.execVenc n s
  | .vdec p => Sys2Proof.Machine.execVdec p s
  | .mmaDd => Sys2Proof.Machine.execMmaDd s
  | .mmaSs => Sys2Proof.Machine.execMmaSs s
  | .mmaBb => Sys2Proof.Machine.execMmaBb s
  | .mmaHh => Sys2Proof.Machine.execMmaHh s
  | .mmaEe => Sys2Proof.Machine.execMmaEe s
  | .mmaEv => Sys2Proof.Machine.execMmaEv s
  | .mmaVv => Sys2Proof.Machine.execMmaVv s
  | .mmaBk => Sys2Proof.Machine.execMmaBk s
  | .mmaEk => Sys2Proof.Machine.execMmaEk s
  | .mmaQq => Sys2Proof.Machine.execMmaQq s
  | .mmaXx => Sys2Proof.Machine.execMmaXx s
  | .mmaYy => Sys2Proof.Machine.execMmaYy s
  | .mmaIi => Sys2Proof.Machine.execMmaIi s
  | .mmaNn => Sys2Proof.Machine.execMmaNn s
  | .mrot f => Sys2Proof.Machine.execMrot f s
  | .maccZero p => Sys2Proof.Machine.execMaccZero p s
  | .maccReclaim p => Sys2Proof.Machine.execMaccReclaim p s
  | .maccPark p => Sys2Proof.Machine.execMaccPark p s
  | .maccQuery p t1 t0 => Sys2Proof.Machine.execMaccQuery p t1 t0 s
  | .maccLoada p => Sys2Proof.Machine.execMaccLoada p s
  | .maccStorea p => Sys2Proof.Machine.execMaccStorea p s
  | .fork p t1 t0 => Sys2Proof.Machine.execFork p t1 t0 s
  | .join p t1 t0 => Sys2Proof.Machine.execJoin p t1 t0 s
  | .send p => Sys2Proof.Machine.execSend p s
  | .sendb => Sys2Proof.Machine.execSendb s
  | .futr p t1 t0 => Sys2Proof.Machine.execFutr p t1 t0 s
  | .futw p => Sys2Proof.Machine.execFutw p s
  | .launch p t1 t0 => Sys2Proof.Machine.execLaunch p t1 t0 s
  | .compose p t1 t0 => Sys2Proof.Machine.execCompose p t1 t0 s
  | .release p => Sys2Proof.Machine.execRelease p s
  | .cwr p n t0 => Sys2Proof.Machine.execCwr p n t0 s
  | .cww p n => Sys2Proof.Machine.execCww p n s
  | .switch p => Sys2Proof.Machine.execSwitch p s
  | .sysc p e c => Sys2Proof.Machine.execSysc p e c s
  | .eret p e => Sys2Proof.Machine.execEret p e s
  | .reloc => Sys2Proof.Machine.execReloc s
  | .slrd rs2 rs1 rd => Sys2Proof.Machine.execSlrd rs2 rs1 rd s
  | .slwr rs2 rs1 rd => Sys2Proof.Machine.execSlwr rs2 rs1 rd s
  | .sgadv g rs2 rs1 rd => Sys2Proof.Machine.execSgadv g rs2 rs1 rd s
  | .ssend rs2 rs1 rd => Sys2Proof.Machine.execSsend rs2 rs1 rd s
  | .spull rs2 rs1 rd => Sys2Proof.Machine.execSpull rs2 rs1 rd s
  | .screg rs2 rs1 rd => Sys2Proof.Machine.execScreg rs2 rs1 rd s
  | .scarm rs1 rd => Sys2Proof.Machine.execScarm rs1 rd s
  | .scdrp rs1 rd => Sys2Proof.Machine.execScdrp rs1 rd s
  | .samoAdd rs2 rs1 rd => Sys2Proof.Machine.execSamoAdd rs2 rs1 rd s
  | .samoAnd rs2 rs1 rd => Sys2Proof.Machine.execSamoAnd rs2 rs1 rd s
  | .samoOr rs2 rs1 rd => Sys2Proof.Machine.execSamoOr rs2 rs1 rd s
  | .samoXor rs2 rs1 rd => Sys2Proof.Machine.execSamoXor rs2 rs1 rd s
  | .samoMin rs2 rs1 rd => Sys2Proof.Machine.execSamoMin rs2 rs1 rd s
  | .samoMax rs2 rs1 rd => Sys2Proof.Machine.execSamoMax rs2 rs1 rd s
  | .samoMinn rs2 rs1 rd => Sys2Proof.Machine.execSamoMinn rs2 rs1 rd s
  | .samoMaxn rs2 rs1 rd => Sys2Proof.Machine.execSamoMaxn rs2 rs1 rd s
  | .samoSwap rs2 rs1 rd => Sys2Proof.Machine.execSamoSwap rs2 rs1 rd s
  | .samoCas rs2 rs1 rd => Sys2Proof.Machine.execSamoCas rs2 rs1 rd s
  | .samoDecz rs2 rs1 rd => Sys2Proof.Machine.execSamoDecz rs2 rs1 rd s
  | .sreply rs1 => Sys2Proof.Machine.execSreply rs1 s
  | .stlim rs1 rd => Sys2Proof.Machine.execStlim rs1 rd s
  | .shend => Sys2Proof.Machine.execShend s
  | .sliceBaseInstruction short imm => Sys2Proof.Machine.execSliceBaseInstruction short imm s
  | .blockFetch => Sys2Proof.Machine.execBlockFetch s
  | .blockFetchReadReturn => Sys2Proof.Machine.execBlockFetchReadReturn s
  | .tokenArrival => Sys2Proof.Machine.execTokenArrival s
  | .blockCommit => Sys2Proof.Machine.execBlockCommit s
  | .blockStarved => Sys2Proof.Machine.execBlockStarved s
  | .portPushTimeout => Sys2Proof.Machine.execPortPushTimeout s
  | .blockAbandon => Sys2Proof.Machine.execBlockAbandon s
  | .contextAllocation => Sys2Proof.Machine.execContextAllocation s
  | .contextDispatch => Sys2Proof.Machine.execContextDispatch s
  | .loadReply => Sys2Proof.Machine.execLoadReply s
  | .sluiceRequest => Sys2Proof.Machine.execSluiceRequest s
  | .tlbWalkComplete => Sys2Proof.Machine.execTlbWalkComplete s
  | .l2LineFill => Sys2Proof.Machine.execL2LineFill s
  | .freshZeroingDone => Sys2Proof.Machine.execFreshZeroingDone s
  | .watchRegistration => Sys2Proof.Machine.execWatchRegistration s
  | .watchRegistrationReply => Sys2Proof.Machine.execWatchRegistrationReply s
  | .watchArm => Sys2Proof.Machine.execWatchArm s
  | .watchSatisfactionArrival => Sys2Proof.Machine.execWatchSatisfactionArrival s
  | .watchCancelArrival => Sys2Proof.Machine.execWatchCancelArrival s
  | .atomicPacketArrival => Sys2Proof.Machine.execAtomicPacketArrival s
  | .atomicTurn => Sys2Proof.Machine.execAtomicTurn s
  | .atomicReply => Sys2Proof.Machine.execAtomicReply s
  | .handlerStart => Sys2Proof.Machine.execHandlerStart s
  | .handlerBudgetExpiry => Sys2Proof.Machine.execHandlerBudgetExpiry s
  | .messageArrival => Sys2Proof.Machine.execMessageArrival s
  | .sliceMessageArrival => Sys2Proof.Machine.execSliceMessageArrival s
  | .replyArrival => Sys2Proof.Machine.execReplyArrival s
  | .moveNoticeArrival => Sys2Proof.Machine.execMoveNoticeArrival s
  | .threadReleaseArrival => Sys2Proof.Machine.execThreadReleaseArrival s
  | .migrationPacketArrival => Sys2Proof.Machine.execMigrationPacketArrival s
  | .migrationAdmissionReply => Sys2Proof.Machine.execMigrationAdmissionReply s
  | .migrationResend => Sys2Proof.Machine.execMigrationResend s
  | .relocTransfer => Sys2Proof.Machine.execRelocTransfer s
  | .relocArrival => Sys2Proof.Machine.execRelocArrival s
  | .dequeRefill => Sys2Proof.Machine.execDequeRefill s
  | .stealRequest => Sys2Proof.Machine.execStealRequest s
  | .stealRequestArrival => Sys2Proof.Machine.execStealRequestArrival s
  | .stealReplyArrival => Sys2Proof.Machine.execStealReplyArrival s
  | .stealBackoffExpiry => Sys2Proof.Machine.execStealBackoffExpiry s
  | .launchDispatch => Sys2Proof.Machine.execLaunchDispatch s
  | .launchGroupPlacement => Sys2Proof.Machine.execLaunchGroupPlacement s
  | .mergeReport => Sys2Proof.Machine.execMergeReport s
  | .sfuAccept => Sys2Proof.Machine.execSfuAccept s
  | .sfuResult => Sys2Proof.Machine.execSfuResult s
  | .vectorBeat => Sys2Proof.Machine.execVectorBeat s
  | .matrixEntryAccept => Sys2Proof.Machine.execMatrixEntryAccept s
  | .matrixCommandRecord => Sys2Proof.Machine.execMatrixCommandRecord s
  | .matrixSlab => Sys2Proof.Machine.execMatrixSlab s
  | .matrixEntryComplete => Sys2Proof.Machine.execMatrixEntryComplete s
  | .rangeLockRegister => Sys2Proof.Machine.execRangeLockRegister s
  | .entryRetire => Sys2Proof.Machine.execEntryRetire s
  | .transferIssue => Sys2Proof.Machine.execTransferIssue s
  | .eq2Pull => Sys2Proof.Machine.execEq2Pull s
  | .pullw => Sys2Proof.Machine.execPullw s
  | .fill => Sys2Proof.Machine.execFill s
  | .gcopy => Sys2Proof.Machine.execGcopy s
  | .lineReadReply => Sys2Proof.Machine.execLineReadReply s
  | .listenNotification => Sys2Proof.Machine.execListenNotification s
  | .allReduce => Sys2Proof.Machine.execAllReduce s
  | .reduceScatter => Sys2Proof.Machine.execReduceScatter s
  | .allGather => Sys2Proof.Machine.execAllGather s
  | .broadcast => Sys2Proof.Machine.execBroadcast s
  | .barrier => Sys2Proof.Machine.execBarrier s
  | .allToAllV => Sys2Proof.Machine.execAllToAllV s
  | .reduce => Sys2Proof.Machine.execReduce s
  | .chunkStart => Sys2Proof.Machine.execChunkStart s
  | .chunkEnd => Sys2Proof.Machine.execChunkEnd s
  | .collectiveGaugeNotice => Sys2Proof.Machine.execCollectiveGaugeNotice s
  | .absentAnswer => Sys2Proof.Machine.execAbsentAnswer s
  | .returnNotice => Sys2Proof.Machine.execReturnNotice s
  | .collectiveNoticeResend => Sys2Proof.Machine.execCollectiveNoticeResend s
  | .abortPacket => Sys2Proof.Machine.execAbortPacket s
  | .stepPacket => Sys2Proof.Machine.execStepPacket s
  | .stepWaitTimeout => Sys2Proof.Machine.execStepWaitTimeout s
  | .agreePacket => Sys2Proof.Machine.execAgreePacket s
  | .donePacket => Sys2Proof.Machine.execDonePacket s
  | .agreeTimeout => Sys2Proof.Machine.execAgreeTimeout s
  | .linkRetry => Sys2Proof.Machine.execLinkRetry s
  | .linkLost => Sys2Proof.Machine.execLinkLost s
  | .ethernetResend => Sys2Proof.Machine.execEthernetResend s
  | .tailTimeout => Sys2Proof.Machine.execTailTimeout s
  | .poisonedWormDiscard => Sys2Proof.Machine.execPoisonedWormDiscard s
  | .diePowerLoss => Sys2Proof.Machine.execDiePowerLoss s
  | .thermalTrip => Sys2Proof.Machine.execThermalTrip s
  | .clockThrottle => Sys2Proof.Machine.execClockThrottle s
  | .powerOnBringup => Sys2Proof.Machine.execPowerOnBringup s
  | .submissionTailWrite => Sys2Proof.Machine.execSubmissionTailWrite s
  | .completionHeadWrite => Sys2Proof.Machine.execCompletionHeadWrite s
  | .packetFetch => Sys2Proof.Machine.execPacketFetch s
  | .hostNop => Sys2Proof.Machine.execHostNop s
  | .hostRun => Sys2Proof.Machine.execHostRun s
  | .hostLaunch => Sys2Proof.Machine.execHostLaunch s
  | .hostWait => Sys2Proof.Machine.execHostWait s
  | .hostCopyin => Sys2Proof.Machine.execHostCopyin s
  | .hostCopyout => Sys2Proof.Machine.execHostCopyout s
  | .hostWorkComplete => Sys2Proof.Machine.execHostWorkComplete s
  | .remapUnmask => Sys2Proof.Machine.execRemapUnmask s
  | .pasidRevoke => Sys2Proof.Machine.execPasidRevoke s
  | .revocationComplete => Sys2Proof.Machine.execRevocationComplete s
  | .invalidatePasid => Sys2Proof.Machine.execInvalidatePasid s
  | .invalidatePage => Sys2Proof.Machine.execInvalidatePage s
  | .invalidateStage2 => Sys2Proof.Machine.execInvalidateStage2 s
  | .invalidatePartition => Sys2Proof.Machine.execInvalidatePartition s
  | .invalidationComplete => Sys2Proof.Machine.execInvalidationComplete s
  | .podposWrite => Sys2Proof.Machine.execPodposWrite s
  | .attestGo => Sys2Proof.Machine.execAttestGo s
  | .attestReportReady => Sys2Proof.Machine.execAttestReportReady s
  | .partitionSwap => Sys2Proof.Machine.execPartitionSwap s
  | .partitionRemove => Sys2Proof.Machine.execPartitionRemove s
  | .swapDrainComplete => Sys2Proof.Machine.execSwapDrainComplete s
  | .polderStopRequest => Sys2Proof.Machine.execPolderStopRequest s
  | .polderFence => Sys2Proof.Machine.execPolderFence s
  | .contextReleaseCmd => Sys2Proof.Machine.execContextReleaseCmd s
  | .contextEndCmd => Sys2Proof.Machine.execContextEndCmd s
  | .contextHaltCmd => Sys2Proof.Machine.execContextHaltCmd s
  | .registerWrite => Sys2Proof.Machine.execRegisterWrite s
  | .systemAbort => Sys2Proof.Machine.execSystemAbort s
  | .readmission => Sys2Proof.Machine.execReadmission s
  | .packagePowerLoss => Sys2Proof.Machine.execPackagePowerLoss s

end Sys2Proof.Machine
end

