-- ==== Sys2Proof/Machine/Place.lean ====
section
/-! DEFINITION. Putting one instruction where the next step takes it from: slot 0 of a block in flight of context 0 for a
Brynrid word (spec/02 R29, R34), handler memory at the `pc` of a running handler for a slice word (spec/10 R240). The
machine itself gets there by its own fetches; these operations stand for the load of a program. -/

namespace Sys2Proof.Machine

/-- The place where a word is put: context 0 of core 0 of the first polder. -/
def firstLoc : Loc := ⟨0, 0, 0, 0⟩

/-- The 160 bytes of a block with the header identifier of R30, `w` in slot 0 and words of zero behind it. -/
def wordBlockBytes (w : Nat) : List Byte :=
  bytesOf 4 (0xB7 * 2 ^ 24) ++ List.replicate 28 0#8 ++ bytesOf 4 w ++ List.replicate 124 0#8

/-- A checked block of which slot 0 is due, with the value 0 at each operand. -/
def wordBlock (epoch w : Nat) : Block :=
  { Block.start epoch 0 0#64 (List.replicate 8 0#64) 0 with
    bytes := wordBlockBytes w
    ready := true
    ops := [(0, .l, .val 0#64), (0, .r, .val 0#64), (0, .x, .val 0#64)]
    fired := [0] }

/-- The block of a Brynrid word is in flight in context 0, and its slot 0 is due now. -/
def State.placeSlot (s : State) (w : Nat) : State :=
  { s with
    ctxs := assocSet firstLoc { s.ctx firstLoc with state := 2#3, block := some (wordBlock s.epoch w) } s.ctxs
    epoch := s.epoch + 1
    agenda := ⟨s.now, .fire firstLoc s.epoch 0⟩ :: s.agenda }

/-- Where a slice word is put in handler memory: behind the table and the arrival area of a region at 0x400. -/
def wordPc : Nat := 0x600

/-- A handler about to run the instruction at `wordPc`, in a region of 8 KiB at 0x400 (R362). -/
def wordHandler (gen now : Nat) : Handler :=
  { gen := gen, set := 0, ev := ⟨0, 1, 0, 0, false, 0, 0, 0, none, 0⟩,
    desc := [w64 (2 ^ 63 + 8 * 2 ^ 8 + 1), w64 (0x100 * 2 ^ 16 + 0x100), 0#64, 0#64, 0#64, 0#64, 0#64, 0#64], pc := wordPc,
    regs := List.replicate 32 0#32, shi := 1#32, limit := 0x100, start := now, replied := false, fetched := [],
    wait := false }

/-- A handler runs on the first polder, and its next instruction is a slice word. -/
def State.placeSlice (s : State) (w : Nat) : State :=
  let gen := (s.polder firstLoc).handlerGen + 1
  let k := keyIn firstLoc 5 wordPc
  { s with
    polders := assocSet firstLoc { s.polder firstLoc with handler := some (wordHandler gen s.now), handlerGen := gen } s.polders
    mem := (List.range 4).foldl (fun m i => m.put (k + i) ((bytesOf 4 w).getD i 0#8)) s.mem
    agenda := ⟨s.now, .slice firstLoc gen⟩ :: s.agenda }

end Sys2Proof.Machine
end

