-- ==== Sys2Proof/Machine/Step.lean ====
section
/-! DEFINITION. One step of the machine: the head of the agenda (notes/assumptions 6). -/

namespace Sys2Proof.Machine

/-- Run a due entry: a slot of a block in flight, the next instruction of a slice handler, or a step of the part. An
entry of an execution or a handler that is over does nothing. -/
def runWork (w : Work) (s : State) : Host.Outcome State Fault Refusal :=
  match w with
  | .fire l epoch slot =>
    (match s.blockAt l epoch with
    | some b =>
      (match b.instrAt slot with
      | some i => exec i { s with focus := ⟨l, epoch, slot⟩ }
      | none => .fault .undecodedSlot)
    | none => .next s)
  | .slice p gen =>
    (match s.sliceTurn p gen with
    | .idle => .next s
    | .act a => .next (a.run s)
    | .run a i => exec i (a.run s))
  | .event e =>
    match e.instr with
    | some i => exec i { s with cur := e }
    | none => .next s

/-- One step: time passes to the first entry of the agenda, which leaves it and runs. -/
def step (s : State) : Host.Outcome State Fault Refusal :=
  match s.agenda with
  | [] => .next s
  | p :: rest => runWork p.work { s with agenda := rest, now := max s.now p.due }

/-- The state with an instruction where the next step fetches it: a slice-extension word of R243 in handler memory, any
other word in a block in flight (notes/assumptions 6). -/
def State.withFetchWord (s : State) (_nbits w : Nat) : State :=
  if w % 128 = 0x0B ∧ (decodeSliceExt (w % 2 ^ 32)).isSome then s.placeSlice (w % 2 ^ 32) else s.placeSlot (w % 2 ^ 32)

end Sys2Proof.Machine
end

