-- ==== Sys2Proof/Safety.lean ====
section
/-! DEFINITION. The terms that claims use: the invariant of the machine, what a slot's firing may change (spec/02 R34-R39), and what a step
keeps. -/

namespace Sys2Proof.Machine

/-! ## The invariant of every step -/

/-- Every entry of an agenda is due at `lo` or later, and none before the one in front of it. -/
def agendaFrom : Nat → List Pending → Prop
  | _, [] => True
  | lo, p :: ps => lo ≤ p.due ∧ agendaFrom p.due ps

/-- Every key is in the form that its kind has, and none stands twice. -/
def keysOk {α : Type} (form : Loc → Loc) (ps : List (Loc × α)) : Prop :=
  (ps.map Prod.fst).Nodup ∧ ∀ p ∈ ps, form p.1 = p.1

/-- THE INVARIANT: the three memories are in their canonical form, the agenda lies in the order of time with nothing overdue,
and each context, core, polder and device has one home. -/
structure State.Inv (s : State) : Prop where
  mem : s.mem.wf = true
  side : s.side.wf = true
  hostMem : s.hostMem.wf = true
  agenda : agendaFrom s.now s.agenda
  ctxs : keysOk id s.ctxs
  cores : keysOk Loc.toCore s.cores
  polders : keysOk Loc.toPolder s.polders
  devices : keysOk Loc.toDev s.devices

/-! ## What a step keeps -/

/-- Every byte of memory, of the sidecar and of host memory reads as before. -/
def State.memKept (s t : State) : Prop :=
  (∀ k, t.mem.get k = s.mem.get k) ∧ (∀ k, t.side.get k = s.side.get k) ∧ ∀ k, t.hostMem.get k = s.hostMem.get k

/-- Every byte of memory outside `n` bytes from key `k` reads as before, as do the sidecar and host memory. -/
def State.memKeptBut (s t : State) (k n : Nat) : Prop :=
  (∀ j, (j < k ∨ k + n ≤ j) → t.mem.get j = s.mem.get j) ∧ (∀ j, t.side.get j = s.side.get j)
    ∧ ∀ j, t.hostMem.get j = s.hostMem.get j

/-- Every context is as before. -/
def State.ctxsKept (s t : State) : Prop := ∀ l, t.ctx l = s.ctx l
/-- Every context but one is as before. -/
def State.ctxsKeptBut (s t : State) (l : Loc) : Prop := ∀ m, m ≠ l → t.ctx m = s.ctx m
/-- Every core is as before. -/
def State.coresKept (s t : State) : Prop := ∀ l, t.core l = s.core l
/-- Every core but one is as before. -/
def State.coresKeptBut (s t : State) (l : Loc) : Prop := ∀ m, m.toCore ≠ l.toCore → t.core m = s.core m
/-- Every polder is as before. -/
def State.poldersKept (s t : State) : Prop := ∀ l, t.polder l = s.polder l
/-- Every polder but one is as before. -/
def State.poldersKeptBut (s t : State) (l : Loc) : Prop := ∀ m, m.toPolder ≠ l.toPolder → t.polder m = s.polder m
/-- Every device is as before. -/
def State.devicesKept (s t : State) : Prop := ∀ l, t.device l = s.device l
/-- Every device but one is as before. -/
def State.devicesKeptBut (s t : State) (l : Loc) : Prop := ∀ m, m.toDev ≠ l.toDev → t.device m = s.device m

/-- The agenda has an entry for an event `d` cycles from now. -/
def State.planned (s t : State) (d : Nat) (e : Event) : Prop := ⟨s.now + d, .event e⟩ ∈ t.agenda

/-! ## The firing of a slot (R34-R37, R39) -/

/-- The step's slot belongs to a block in flight in which nothing has failed. -/
def State.firingBlock (s : State) (b : Block) : Prop := s.blockAt s.focus.l s.focus.epoch = some b ∧ b.fault = none

/-- The values `vs` have arrived at the operands `os` of the step's slot, in that order. -/
def Block.gives (b : Block) (s : State) (os : List Opnd) (vs : List W64) : Prop :=
  os.map (b.operand s.focus.slot) = vs.map fun v => some (.val v)

/-- What a slot sends: a latency, a token and targets. -/
abbrev Sending := Nat × Token × List Target

/-- The agenda entry of a token that the step's slot sends to one target: it arrives its latency and one transit later (R34, R77). -/
def State.tokenTo (s : State) (b : Block) (lat : Nat) (tok : Token) : Target → Option Pending
  | .none => none
  | .into o n => some ⟨s.now + (lat + s.transit s.focus.l b s.focus.slot n.toNat),
      .event (.tokenArrival s.focus.l s.focus.epoch o n.toNat tok)⟩

/-- The agenda entries of what the step's slot sends. -/
def State.tokensOf (s : State) (b : Block) (xs : List Sending) : List Pending :=
  xs.flatMap fun x => x.2.2.filterMap (s.tokenTo b x.1 x.2.1)

/-- An entry that the settling of the block adds: another slot that may fire, its commit, or its starvation check (R38, R41). -/
def State.settling (s : State) (q : Pending) : Prop :=
  (∃ n, q.work = .fire s.focus.l s.focus.epoch n) ∨ q.work = .event (.blockCommit s.focus.l s.focus.epoch)
    ∨ q.work = .event (.blockStarved s.focus.l s.focus.epoch)

/-- THE FRAME OF A FIRING: the block in flight `b` becomes `b'` (which slots have fired or wait apart), the entries `xs` join the agenda,
and nothing else of the machine changes: no memory, no register, no other context, no core, no polder, no device (R39). -/
structure State.Fired (s t : State) (b b' : Block) (xs : List Pending) : Prop where
  rest : t = { s with agenda := t.agenda, ctxs := t.ctxs }
  others : ∀ l, l ≠ s.focus.l → t.ctx l = s.ctx l
  own : ∃ f w, t.ctx s.focus.l = { s.ctx s.focus.l with block := some { b' with fired := f, waiting := w } }
  kept : ∀ q ∈ s.agenda, q ∈ t.agenda
  sent : ∀ q ∈ xs, q ∈ t.agenda
  only : ∀ q ∈ t.agenda, q ∈ s.agenda ∨ q ∈ xs ∨ s.settling q

/-- AN INSTRUCTION COMPLETES: in every state in which its slot fires with its predicate taken, its operands `os` hold values `vs`, and `pre`
holds of them, its meaning answers a next state: the block is changed by `post`, the entries `out` join the agenda, and nothing else changes. -/
def Completes (i : Instr) (p : Pred) (os : List Opnd) (pre : State → Block → List W64 → Prop)
    (post : State → Block → List W64 → Block) (out : State → Block → List W64 → List Pending) : Prop :=
  ∀ s b vs, s.firingBlock b → predFall p (b.tok s .x) = .taken → b.gives s os vs → pre s b vs →
    ∃ t, exec i s = .next t ∧ s.Fired t b (post s b vs) (out s b vs)

/-- The instruction delivers a value computed from its operands, and leaves its block as it is. -/
def Delivers (i : Instr) (p : Pred) (os : List Opnd) (ts : List Target) (lat : List W64 → Nat) (f : List W64 → W64) : Prop :=
  Completes i p os (fun _ _ _ => True) (fun _ b _ => b) fun s b vs => s.tokensOf b [(lat vs, .val (f vs), ts)]

/-- A value computed from `.l`. -/
def Delivers1 (i : Instr) (p : Pred) (ts : List Target) (lat : Nat) (f : W64 → W64) : Prop :=
  Delivers i p [.l] ts (fun _ => lat) fun vs => f (arg vs 0)
/-- A value computed from `.l` and `.r`, after a time that they decide. -/
def Delivers2 (i : Instr) (p : Pred) (ts : List Target) (lat : W64 → W64 → Nat) (f : W64 → W64 → W64) : Prop :=
  Delivers i p [.l, .r] ts (fun vs => lat (arg vs 0) (arg vs 1)) fun vs => f (arg vs 0) (arg vs 1)

/-- A function of the low 32 bits of two operands, sign-extended (R90); the third argument is the whole of the second operand. -/
def word2 (f : BitVec 32 → BitVec 32 → W64 → BitVec 32) (l r : W64) : W64 :=
  (f (l.setWidth 32) (r.setWidth 32) r).signExtend 64

/-- The time of a division or remainder at width `n` (R77): 12 cycles for a divisor of zero and for the overflow, else 12 and 3 for each
started byte of the quotient's magnitude. -/
def divisionTime (n : Nat) (signed : Bool) (l r : W64) : Nat :=
  let a := l.setWidth n
  let b := r.setWidth n
  if b = 0#n ∨ (signed ∧ a = BitVec.intMin n ∧ b = BitVec.allOnes n) then 12
  else
    let q := if signed then (a.toInt.tdiv b.toInt).natAbs else a.toNat / b.toNat
    12 + 3 * (((if q = 0 then 0 else Nat.log2 q + 1) + 7) / 8)

/-- The instruction faults when it fires: its block keeps the fault with the cycle and the slot, and is to be abandoned; nothing else
changes (R37, R334). The detail of an illegal instruction is its slot (R333). -/
def Faults (i : Instr) (p : Pred) (os : List Opnd) (pre : State → Block → List W64 → Prop) (cause detail : Nat) (addr : List W64 → Nat) : Prop :=
  Completes i p os pre
    (fun s b vs => { b with fault := some ⟨s.now, s.focus.slot, cause, if cause = 1 then s.focus.slot else detail, addr vs⟩ })
    fun s _ _ => [⟨s.now, .event (.blockAbandon s.focus.l s.focus.epoch)⟩]

/-- A null on an operand, or on the predicate itself, makes an instruction that delivers send nulls, and do nothing else (R36). -/
def NullsPass (i : Instr) : Prop :=
  ∀ s b, s.firingBlock b → (∀ o ∈ inputsOf i, (b.operand s.focus.slot o).isSome) →
    (predFall (predIs i) (b.tok s .x) = .nulled
      ∨ (predFall (predIs i) (b.tok s .x) = .taken ∧ ∃ o ∈ inputsOf i, b.operand s.focus.slot o = some .null)) →
    ∃ t, exec i s = .next t ∧ s.Fired t b b (s.tokensOf b [(0, .null, targetsOf i)])

/-- A predicate that does not match makes an instruction do nothing: its slot is noted as off (R35). -/
def Skips (i : Instr) : Prop :=
  ∀ s b, s.firingBlock b → predFall (predIs i) (b.tok s .x) = .off →
    ∃ t, exec i s = .next t ∧ s.Fired t b { b with off := s.focus.slot :: b.off } []

/-- The instruction has an act wait for the commit of its block (R39, R207). -/
def Block.withAct (b : Block) (s : State) (op : CommitOp) : Block := { b with acts := b.acts ++ [(s.focus.slot, op)] }

/-- A `CWW` of control word `n` of an admitted value `v` has the write of `f v` wait for commit; a second one of the number in one block is a
block-format fault (R229). -/
def HoldsControl (p : Pred) (n : BitVec 14) (pre : State → W64 → Prop) (f : W64 → W64) : Prop :=
  Completes (.cww p n) p [.l] (fun s b vs => (b.acts.any fun a => isCww n.toNat a.2) = false ∧ pre s (arg vs 0))
    (fun s b vs => b.withAct s (.cww n.toNat (some (f (arg vs 0))))) (fun _ _ _ => []) ∧
  Faults (.cww p n) p [.l] (fun s b vs => (b.acts.any fun a => isCww n.toNat a.2) = true ∧ pre s (arg vs 0)) 2 10 (fun _ => 0)

/-- The rounding mode, and the operands as the format reads them (R158). -/
def floatArgs (F : Fmt) (s : State) (vs : List W64) : Nat × Nat × Nat × Nat :=
  (bits (s.ctx s.focus.l).fm.toNat 10 8, (arg vs 0).toNat % 2 ^ F.width, (arg vs 1).toNat % 2 ^ F.width, (arg vs 2).toNat % 2 ^ F.width)

/-- A floating-point result and its flags, computed from the rounding mode and the operands: the result is delivered after `lat` cycles, and the
flags join those that the block keeps for its commit (R75, R158). -/
def FloatDelivers (i : Instr) (F : Fmt) (p : Pred) (os : List Opnd) (ts : List Target) (lat : Nat × Nat × Nat × Nat → Nat)
    (f : Nat × Nat × Nat × Nat → Nat × Nat) : Prop :=
  Completes i p os (fun _ _ _ => True)
    (fun s b vs => { b with flags := Nat.lor b.flags (f (floatArgs F s vs)).2 })
    fun s b vs => s.tokensOf b [(lat (floatArgs F s vs), .val (BitVec.ofNat 64 (f (floatArgs F s vs)).1), ts)]

/-- The instruction has an act wait for commit, under `pre`, and nothing else changes. -/
def Holds (i : Instr) (p : Pred) (os : List Opnd) (pre : State → List W64 → Prop) (op : State → List W64 → CommitOp) : Prop :=
  Completes i p os (fun s _ vs => pre s vs) (fun s b vs => b.withAct s (op s vs)) fun _ _ _ => []

/-! ## Memory instructions -/

/-- The loads with their size and their effective address (R104, R112, R113). -/
def loadForms (p : Pred) (n : BitVec 5) (i : BitVec 9) (sc : Scope) (o : BitVec 6) (t0 : Target) : List (Instr × Nat × (W64 → Nat)) :=
  let far (v : W64) : Nat := (v + i.signExtend 64).toNat
  [(.ld8 p n i t0, 1, far), (.ld16 p n i t0, 2, far), (.ld32 p n i t0, 4, far), (.ld64 p n i t0, 8, far), (.lds8 p n i t0, 1, far),
    (.lds16 p n i t0, 2, far), (.lds32 p n i t0, 4, far), (.lda p n sc o t0, 8, fun v => (v + (o.setWidth 64 <<< 3)).toNat)]

/-- The stores with their size, their effective address, whether they advance a gauge, and their scope (R104, R115, R116, R120). -/
def storeForms (p : Pred) (n : BitVec 5) (i : BitVec 9) (sc : Scope) (o : BitVec 6) : List (Instr × Nat × (W64 → Nat) × Bool × Option Scope) :=
  let far (v : W64) : Nat := (v + i.signExtend 64).toNat
  let far8 (v : W64) : Nat := (v + (o.setWidth 64 <<< 3)).toNat
  [(.st8 p n i, 1, far, false, none), (.st16 p n i, 2, far, false, none), (.st32 p n i, 4, far, false, none), (.st64 p n i, 8, far, false, none),
    (.stl p n sc o, 8, far8, false, some sc), (.gadv p n sc o, 8, far8, true, some sc)]

/-- No store of the block has fired with the LSID. -/
def Block.lsidFree (b : Block) (n : Nat) : Prop := ∀ y ∈ b.stores, y.lsid ≠ n

/-- The slot waits for an answer. -/
def Block.awaits (b : Block) (s : State) : Block := { b with out := s.focus.slot :: b.out }

/-- The slot waits for the answer to a load miss, one of those that its core may have outstanding (R10). -/
def Block.misses (b : Block) (s : State) : Block := { b.awaits s with missed := s.focus.slot :: b.missed }

/-- What the load of the step's slot sees when it is performed at offset `off` of a core memory of its polder (R289, R292): its bytes, the aligned word that
they lie in, and whether the block must be executed again. -/
def State.coreSees (s : State) (b : Block) (n off : Nat) : List Byte × List Byte × Bool :=
  s.loadSees b s.focus.slot (keyIn s.focus.l.toPolder 2 off) n (keyIn s.focus.l.toPolder 2 off)

/-- The block behind that load: the slot waits for its answer, and what it has read is kept. -/
def Block.reads (b : Block) (s : State) (n off : Nat) : Block :=
  { b.awaits s with
    got := b.got ++ [⟨((b.instrAt s.focus.slot).bind loadLsid).getD 0, s.focus.slot, keyIn s.focus.l.toPolder 2 off, n, (s.coreSees b n off).2.1⟩]
    again := (s.coreSees b n off).2.2 || b.again }

/-- The block behind the answer to the load of slot `n`. -/
def Block.answered (b : Block) (n : Nat) : Block :=
  { b with
    out := b.out.filter fun k => k != n
    missed := b.missed.filter fun k => k != n
    done := n :: b.done }

/-- The machine with one more count at a counter of the step's polder (R329). -/
def State.counted (s : State) (off : Nat) : State :=
  (Effect.polder s.focus.l fun q => { q with counters := bumpIn off 1 q.counters }).apply s

/-- The request reaches the place `q` without a table walk: a home address, a mesh address of a supervisor, or a virtual address whose
translation the sluice holds (for a fetch over two pages, both translations); its use may reach the space, and it is no `PREF` of a line that the slice may
not hold (R21 to R27, R107 check 3, R119, R327). -/
def State.reaches (s : State) (r : Req) (q : Place) : Prop :=
  spaceCause r q = 0 ∧ reqStops r q = false ∧
  ((r.addr < 2 ^ 40 ∧ s.resolve r.who r.part r.pasid r.sup r.addr (useIsAmo r.use) = .ok q)
    ∨ (2 ^ 40 ≤ r.addr ∧ bit r.addr 63 = true ∧ r.sup = true ∧ meshOk r.addr = true ∧ q = s.meshPlace r.who.dev r.addr)
    ∨ (2 ^ 40 ≤ r.addr ∧ bit r.addr 63 = false ∧ bits r.addr 62 57 = 0 ∧ ∃ t, s.tlbFind r.who r.part r.pasid r.addr = some t
        ∧ t.torn = false ∧ (useIsAmo r.use = true → t.amoCause = 0) ∧ s.meshFits r.who (t.mesh + r.addr % t.size) = true
        ∧ q = s.meshPlace r.who.dev (t.mesh + r.addr % t.size)
        ∧ (useIsFetch r.use = true → (r.addr + r.size - 1) / 0x1000 = r.addr / 0x1000
          ∨ (s.tlbFind r.who r.part r.pasid (r.addr + r.size - 1)).isSome = true)))

/-- The arrival of a request at the owner of the place: 8 cycles of injection, the way there, and what contention adds to another polder's
requests (R330), and an atomic packet not before those that its polder sent there earlier (R372); a declared span of the polder's own memory makes no reader line (R12). -/
def State.requestTo (s : State) (r : Req) (q : Place) : Pending :=
  let d := 8 + s.way r.who q.owner + if q.owner.toPolder = r.who.toPolder then 0 else Config.contention s.free
  ⟨s.now + (if useIsAmo r.use then max d (s.amoSent r.who q.owner - s.now) else d),
    .event (match r.use with
      | .atomic a => .atomicPacketArrival a q
      | .watch w => .watchRegistration w q
      | _ => .sluiceRequest (reqSeen r q) q)⟩

/-- The instruction sends a request to the owner: the slot waits for its answer, one free value is used, and nothing else changes. -/
def Asks (i : Instr) (p : Pred) (os : List Opnd) (pre : State → List W64 → Prop) (post : State → Block → List W64 → Block)
    (r : State → List W64 → Req) : Prop :=
  ∀ s b vs q, s.firingBlock b → predFall p (b.tok s .x) = .taken → b.gives s os vs → pre s vs → s.reaches (r s vs) q →
    ∃ t, exec i s = .next t ∧ { s with free := s.free + 1 }.Fired t b (post s b vs) [s.requestTo (r s vs) q]

/-- A request of the step's context. -/
def State.asked (s : State) (a n : Nat) (use : Use) : Req :=
  ⟨s.focus.l, (s.polder s.focus.l).part.getD 0, (s.ctx s.focus.l).pasid.toNat, a, n, (s.ctx s.focus.l).sup, use, false⟩

/-- The machine after the walk that the step's context makes for an address token that it uses at once (R327). -/
def State.walked (s : State) (a : Nat) : State :=
  (Act.walkNow s.focus.l (s.partOf s.focus.l) (s.ctx s.focus.l).pasid.toNat a).run s

/-- The machine after the release that an atomic makes when it fires, as far as the fetch of other contexts sees it: what the context's stores have replaced
since its last release is theirs until their next acquire only (R43, R137). -/
def State.released (s : State) (o : AmoOrder) : State := if o = .release ∨ o = .both then (Act.releaseCode s.focus.l).run s else s

/-- The machine after the acquire that a `FENCE` makes: the context's fetch sees what others have released to it (R43, R118, R294). -/
def State.acquired (s : State) (k : FenceKind) : State :=
  if k = .full ∨ k = .acq then (Act.ctx s.focus.l fun c => { c with unacquired := [] }).run s else s

/-- The atomic packet that the step's slot sends (R135). -/
def State.amoPacket (s : State) (x : AmoOp) (order : AmoOrder) (vs : List W64) : AmoPkt :=
  ⟨.core s.focus.l.core, x, order, false, (arg vs 1).toNat, (arg vs 2).toNat, (arg vs 0).toNat, .slot s.focus.l s.focus.epoch s.focus.slot⟩

/-! ## Vector, matrix and task instructions -/

/-- The vector instructions: operation, predicate and operands (R173 to R185). -/
def vectorForms (p : Pred) (c : VCond) (n : CodeTable) : List (Instr × Vop × Pred × List Opnd) :=
  let v3 : List Opnd := [.l, .r, .x]
  let v2 : List Opnd := [.l, .r]
  [(.vadd, .add, .always, v3), (.vsub, .sub, .always, v3), (.vmul, .mul, .always, v3), (.vdiv, .div, .always, v3),
    (.vmin, .min, .always, v3), (.vmax, .max, .always, v3), (.vand, .and, .always, v3), (.vor, .or, .always, v3),
    (.vxor, .xor, .always, v3), (.vshl, .shl, .always, v3), (.vshr, .shr, .always, v3), (.vfma, .fma, .always, v3),
    (.vneg p, .neg, p, v2), (.vabs p, .abs, p, v2), (.vcpy p, .cpy, p, v2), (.vexp2 p, .exp2, p, v2), (.vlog2 p, .log2, p, v2),
    (.vrcp p, .rcp, p, v2), (.vrsq p, .rsq, p, v2), (.vtanh p, .tanh, p, v2), (.vsigm p, .sigm, p, v2), (.vsin p, .sin, p, v2)]
    ++ [(.vcos p, .cos, p, v2), (.vredSum p, .redSum, p, v2), (.vredMax p, .redMax, p, v2), (.vredMin p, .redMin, p, v2),
      (.vredAmax p, .redAmax, p, v2), (.vscanInc p, .scanInc, p, v2), (.vscanExc p, .scanExc, p, v2), (.vgath, .gath, .always, v3),
      (.vscat, .scat, .always, v3), (.vmsk, .msk, .always, v3), (.vbcast p, .bcast, p, v2), (.vpopaNone, .popaNone, .always, v3),
      (.vpopaRelu, .popaRelu, .always, v3), (.vpopaClamp, .popaClamp, .always, v3), (.vcmp c, (.cmp c), .always, v3),
      (.vsel, .sel, .always, v3), (.vpermRev p, .permRev, p, v2), (.vpermIntl p, .permIntl, p, v2), (.vpermDintl p, .permDintl, p, v2),
      (.vpermRot, .permRot, .always, v3), (.vqnt p, .qnt, p, v2), (.venc n, (.enc n), .always, v3), (.vdec p, .dec, p, v2)]

/-- The matrix instructions of two tiles: their format pair, and whether the second tile is a neighbour's (R188, R200). -/
def matrixForms (f : MmaPair) : List (Instr × MmaPair × Bool) :=
  [(.mmaDd, .dd, false), (.mmaSs, .ss, false), (.mmaBb, .bb, false), (.mmaHh, .hh, false), (.mmaEe, .ee, false), (.mmaEv, .ev, false),
    (.mmaVv, .vv, false), (.mmaBk, .bk, false), (.mmaEk, .ek, false), (.mmaQq, .qq, false), (.mmaXx, .xx, false), (.mmaYy, .yy, false),
    (.mmaIi, .ii, false), (.mmaNn, .nn, false), (.mrot f, f, true)]

/-- The slot state word (R205). -/
def slotStateWord (k : AccSlot) : Nat :=
  k.seq % 2 ^ 16 * 2 ^ 24 + min k.npend 255 * 2 ^ 16 + (if k.st = 0 then 0 else k.core % 8 * 2 ^ 10 + k.ctx % 8 * 2 ^ 7) + k.kind % 4 * 2 ^ 5
    + (if k.poison then 16 else 0) + k.st % 4

/-- A future and a record that `FUTR` may use (R216): the checks of a store on the future, of a task record on the other, no error in the future,
and no zeroing to wait for. -/
def State.futureReady (s : State) (vs : List W64) : Prop :=
  s.futureCause s.focus.l (polderView s.focus.l (arg vs 0).toNat) = 0 ∧ s.taskAddrCause s.focus.l (polderView s.focus.l (arg vs 1).toNat) = 0
    ∧ s.homeEcc s.focus.l (polderView s.focus.l (arg vs 0).toNat) 16 = false
    ∧ s.homeSettled s.focus.l [polderView s.focus.l (arg vs 0).toNat, polderView s.focus.l (arg vs 0).toNat + 8] = true

/-- The state bits of the future (R215). -/
def State.futureState (s : State) (vs : List W64) : Nat := s.home64 s.focus.l (polderView s.focus.l (arg vs 0).toNat) / 2 ^ 62 % 4

/-- A counter and a record that `JOIN` may use (R214). -/
def State.joinReady (s : State) (vs : List W64) : Prop :=
  s.counterCause s.focus.l (arg vs 0).toNat = 0 ∧ s.taskAddrCause s.focus.l (polderView s.focus.l (arg vs 1).toNat) = 0

/-- The machine with entry `i` of the step's polder reserved for a `JOIN`, not armed (R214). -/
def State.joinReserved (s : State) (vs : List W64) (i : Nat) : State :=
  let l := s.focus.l
  let n := (s.polder l).nextGen i
  let r := polderView l (arg vs 1).toNat
  (Effect.polder l fun q => { q with
    watches := q.watches ++ [⟨i, n, false, ⟨l, s.focus.epoch, s.focus.slot, .join, 0, r, (s.ctx l).pasid.toNat, (s.polder l).part.getD 0,
      (arg vs 0).toNat, [(s.ctx l).steal.toNat]⟩, (s.homeKey l (arg vs 0).toNat).getD 0, 0⟩]
    gens := (i, n) :: q.gens.filter fun x => x.1 != i }).apply s

/-- A destination token that keeps its format: 25 bits, and a column of a die (R209). -/
def legalToken (v : W64) : Prop := v.toNat < 2 ^ 25 ∧ v.toNat / 2 ^ 10 % 16 ≤ 11

/-- A message may be read at a home address: 16-byte aligned, in core memory or HBM (R219). -/
def State.messageAt (s : State) (v : W64) : Prop :=
  v.toNat % 16 = 0 ∧ ∃ q, homePlace s.focus.l v.toNat = some q ∧ (q.space = 0 ∨ q.space = 2)

/-- The launch record at an address passes the checks of R224, and no zeroing holds it back. -/
def State.launchReady (s : State) (a : Nat) : Prop :=
  s.recordCause s.focus.l a 64 = 0 ∧ s.recordCause s.focus.l (a + 64) 64 = 0 ∧ s.launchCause s.focus.l (s.homeBytes s.focus.l a 128) = 0
    ∧ s.homeSettled s.focus.l [a, a + 64] = true

/-- The launch that the record at an address asks for (R223). -/
def State.launchAt (s : State) (a : Nat) : LaunchRec :=
  { s.launchRec s.focus.l (s.homeBytes s.focus.l a 128) with place := polderView s.focus.l a }

/-- Every other member slot of a composition of `2^n` cores is DORMANT, unreserved and not composed (R227). -/
def State.membersFree (s : State) (n : Nat) : Prop := ∀ c, c < 8 → c / 2 ^ n = s.focus.l.core / 2 ^ n → c ≠ s.focus.l.core →
  (s.ctx { s.focus.l with core := c }).state = 0#3 ∧ (s.ctx { s.focus.l with core := c }).reserved = none
    ∧ (s.ctx { s.focus.l with core := c }).lead = none

/-- `t` is the machine with those slots reserved and nothing else changed. -/
def State.reserving (s : State) (n : Nat) (t : State) : Prop :=
  t = { s with ctxs := t.ctxs }
    ∧ (∀ c, c < 8 → c / 2 ^ n = s.focus.l.core / 2 ^ n → c ≠ s.focus.l.core →
        t.ctx { s.focus.l with core := c } = { s.ctx { s.focus.l with core := c } with reserved := some .member })
    ∧ ∀ l, (∀ c, c < 8 → c / 2 ^ n = s.focus.l.core / 2 ^ n → c ≠ s.focus.l.core → l ≠ { s.focus.l with core := c }) → t.ctx l = s.ctx l

/-! ## The slice core -/

/-- The polder of the step runs handler `h`. -/
def State.running (s : State) (h : Handler) : Prop := (s.polder s.focus.l).handler = some h ∧ h.regs.length = 32

/-- Register `r` of a handler after a write of `v` to `rd`; `x0` stays zero (R240). -/
def Handler.after (h : Handler) (rd : BitVec 5) (v : BitVec 32) : List (BitVec 32) := if rd = 0#5 then h.regs else h.regs.set rd.toNat v

/-- THE FRAME OF A SLICE INSTRUCTION: the handler becomes `h'`, its next instruction is due in one slice cycle, and nothing else changes. -/
structure State.Retires (s t : State) (h h' : Handler) : Prop where
  rest : t = { s with agenda := t.agenda, polders := t.polders }
  others : s.poldersKeptBut t s.focus.l
  own : t.polder s.focus.l = { s.polder s.focus.l with handler := some h' }
  due : ∀ q, q ∈ t.agenda ↔ q ∈ s.agenda ∨ q = ⟨s.now + s.sliceTicks s.focus.l 1, .slice s.focus.l.toPolder h.gen⟩

/-- The instruction of `n` bytes writes `v` to `rd` and goes on behind itself. -/
def State.RetiresTo (s t : State) (h : Handler) (n : Nat) (rd : BitVec 5) (v : BitVec 32) : Prop :=
  s.Retires t h { h with regs := h.after rd v, pc := (h.pc + n) % 2 ^ 32, wait := false }

/-- THE HANDLER IS KILLED with a cause (R371): no memory changes, the next event is taken 8 slice cycles later, the kill is counted, and a record goes to
the host queue of the set's partition. -/
structure State.Kills (s t : State) (h : Handler) (cause : Nat) : Prop where
  mem : s.memKept t
  beyond : (t.polder s.focus.l).handler = none
  next : s.planned t (s.sliceTicks s.focus.l 8) (.handlerStart s.focus.l.toPolder)
  gone : ∀ q ∈ t.agenda, q.work ≠ .slice s.focus.l.toPolder h.gen
  counted : (t.polder s.focus.l).counters = bumpIn 0x370 1 (s.polder s.focus.l).counters
  record : (bits (h.desc.getD 0 0#64).toNat 59 56, ⟨cause, 0, 1, 0, h.pc, 0, s.sliceTid s.focus.l.toPolder, false⟩) ∈ (t.device s.focus.l).hostRecs

/-- A slice instruction waits for home memory at a place and is then taken up again (R245, R330). -/
def State.SliceWaits (s t : State) (h : Handler) (q : Place) : Prop :=
  t = { s with agenda := t.agenda, polders := t.polders } ∧ s.poldersKeptBut t s.focus.l
    ∧ t.polder s.focus.l = { s.polder s.focus.l with handler := some { h with wait := true } }
    ∧ ∀ e, e ∈ t.agenda ↔ e ∈ s.agenda ∨ e = ⟨s.now + (8 + 10 + memTerm q.space (match s.keyOf q with
        | some k => s.l2Hit q k
        | none => false) + 6 + s.freshWait q), .slice s.focus.l.toPolder h.gen⟩

/-- The value of a register as a word; `x0` holds zero (R240). -/
def Handler.word32 (h : Handler) (r : BitVec 5) : BitVec 32 := h.regs.getD r.toNat 0#32

/-- What an arithmetic operation of RV32IM gives, in the terms of that standard (R240). -/
def rvResult (o : RvOp) (a b : BitVec 32) : BitVec 32 :=
  match o with
  | .add => a + b
  | .sub => a - b
  | .sll => a <<< (b.setWidth 5)
  | .slt => if a.slt b then 1#32 else 0#32
  | .sltu => if a.ult b then 1#32 else 0#32
  | .xor => a ^^^ b
  | .srl => a >>> (b.setWidth 5)
  | .sra => a.sshiftRight (b.setWidth 5).toNat
  | .or => a ||| b
  | .and => a &&& b
  | .mul => a * b
  | .mulh => ((a.signExtend 64 * b.signExtend 64) >>> 32).setWidth 32
  | .mulhsu => ((a.signExtend 64 * b.setWidth 64) >>> 32).setWidth 32
  | .mulhu => ((a.setWidth 64 * b.setWidth 64) >>> 32).setWidth 32
  | .div => if b = 0#32 then BitVec.allOnes 32 else a.sdiv b
  | .divu => if b = 0#32 then BitVec.allOnes 32 else a.udiv b
  | .rem => if b = 0#32 then a else a.srem b
  | .remu => if b = 0#32 then a else a.umod b

/-- What a load of RV32I makes of the bytes it reads (R240). -/
def rvExtends (w : RvLoad) (v : Nat) : BitVec 32 :=
  match w with
  | .lb => (BitVec.ofNat 8 v).signExtend 32
  | .lh => (BitVec.ofNat 16 v).signExtend 32
  | _ => BitVec.ofNat 32 v

/-! ## The steps of the part without an encoding -/

/-- Step `e` of the part, an instance of `i`, completes in a state of which `Q` holds. -/
def State.Runs (s : State) (i : Instr) (e : Event) (Q : State → Prop) : Prop := s.cur = e → ∃ t, exec i s = .next t ∧ Q t

/-- Of the contexts only `cs` change, of the cores only `ks`, of the polders only `ps`, of the devices only `ds`. -/
structure State.Touches (s t : State) (cs ks ps ds : List Loc) : Prop where
  ctxs : ∀ l, l ∉ cs → t.ctx l = s.ctx l
  cores : ∀ l, l.toCore ∉ ks → t.core l = s.core l
  polders : ∀ l, l.toPolder ∉ ps → t.polder l = s.polder l
  devices : ∀ l, l.toDev ∉ ds → t.device l = s.device l

/-- Likewise, and no memory changes. -/
def State.Keeps (s t : State) (cs ks ps ds : List Loc) : Prop := s.memKept t ∧ s.Touches t cs ks ps ds

/-- The agenda keeps its entries and gains exactly the steps `xs`, each its number of cycles from now. -/
def State.Plans (s t : State) (xs : List (Nat × Event)) : Prop :=
  ∀ q, q ∈ t.agenda ↔ q ∈ s.agenda ∨ q ∈ xs.map fun x => ⟨s.now + x.1, .event x.2⟩

/-- The frame of `Fired` for a step about slot `n` of an execution, and the focus as it was. -/
def State.FiredAt (s t : State) (l : Loc) (ep n : Nat) (b b' : Block) (xs : List Pending) : Prop :=
  { s with focus := ⟨l, ep, n⟩ }.Fired { t with focus := ⟨l, ep, n⟩ } b b' xs ∧ t.focus = s.focus

/-- The block fails: it keeps the fault, its abandonment is the next step of it, and nothing else changes (R334). -/
def State.Fails (s t : State) (l : Loc) (b : Block) (slot cause detail addr : Nat) : Prop :=
  s.Keeps t [l] [] [] [] ∧ t.ctx l = { s.ctx l with block := some { b with fault := some ⟨s.now, slot, cause, detail, addr⟩ } }
    ∧ s.Plans t [(0, .blockAbandon l b.epoch)]

/-- The block of an execution in flight, in which nothing has failed. -/
def State.inFlight (s : State) (l : Loc) (ep : Nat) (b : Block) : Prop := s.blockAt l ep = some b ∧ b.fault = none

/-- Cycles of a read of a block from the context's own core memory (R330, R464). -/
def ownFetchTime (a n : Nat) : Nat := 4 + ((a + n - 1) / 64 - a / 64)

/-- The context's own core memory can be fetched from: its owner is not dry, no error lies in it, and no store hides there that the fetch may not see (R43, R49). -/
def State.fetchable (s : State) (l : Loc) : Prop := s.isDry l l.toPolder = false ∧ s.ecc = [] ∧ s.hidden l = []

/-- The block can commit: it is ready, every mask bit is satisfied and one exit has fired; no wait and no fault stands against it (R38). -/
structure State.commits (s : State) (l : Loc) (ep : Nat) (b : Block) : Prop where
  flying : s.inFlight l ep b
  ready : b.ready = true
  able : b.committable = true
  free : s.commitWaits l b = false
  legal : s.commitFault l b = none

/-- Nothing awaits the context at its next boundary: it runs, no stop is asked for, no window write and no trap is held, and no READY context of its
core has a higher priority (R335, R390). The place is a context's own, not that of a predicted block. -/
structure State.steady (s : State) (l : Loc) : Prop where
  own : isAhead l = false
  runs : (s.ctx l).state = 2#3
  stop : (s.ctx l).stopReq = false
  window : (s.ctx l).window = []
  trap : (s.ctx l).trapWait = none
  best : ∀ k, (s.ctx { l with ctx := k }).state = 1#3 → (s.ctx { l with ctx := k }).prio.toNat ≤ (s.ctx l).prio.toNat

/-- No late fault and no record waits for the context (R335). -/
def State.unowed (s : State) (l : Loc) : Prop := (s.ctx l).late = [] ∧ (s.ctx l).surplus = 0 ∧ (s.ctx l).faultQ = []

/-- A steady context that is not composed. -/
structure State.calm (s : State) (l : Loc) : Prop extends State.steady s l where
  lead : (s.ctx l).lead = none

/-- The contexts of the core of a context, and the places of their predicted blocks. -/
def coreMates (l : Loc) : List Loc := l :: (List.range 32).map fun k => { l with ctx := k }

/-- What a commit may reach: a release may let the fetch of other contexts wait for their acquire (R43); of the rest only the contexts of the core, the core
and the polder change. -/
structure State.CommitWithin (s t : State) (l : Loc) : Prop where
  ctxs : ∀ m, m ∉ coreMates l → ∃ u, t.ctx m = { s.ctx m with unacquired := u }
  cores : s.coresKeptBut t l
  polders : s.poldersKeptBut t l
  devices : s.devicesKept t

/-- THE FRAME OF A COMMIT: of its core, which notes the exit taken, only the special-function requests of predicted blocks may change besides (R42). -/
structure State.CommitTouches (s t : State) (l : Loc) : Prop extends State.CommitWithin s t l where
  core : ∃ es rs, t.core l = { s.core l with exits := es, sfu := rs }

/-- The block commits and leaves by a jump, and the act `op` alone has waited for it; no word of the workspace, no `pol` and no memory is written, and no queue
word taken (R39, R207). -/
structure State.commitsWith (s : State) (l : Loc) (ep : Nat) (b : Block) (op : CommitOp) : Prop where
  able : s.commits l ep b
  steady : s.steady l
  owed : s.unowed l
  jumps : ∃ n, b.exit = some (.goto n)
  writes : ∀ w ∈ b.writes, 16 ≤ w.1 ∧ w.1 ≠ 19
  stores : b.stores = []
  pops : b.pops = []
  alone : ∃ slot, b.acts = [(slot, op)]

/-- The commit of such a block completes with `Q`. -/
def State.actCommits (s : State) (l : Loc) (ep : Nat) (op : CommitOp) (Q : Block → State → Prop) : Prop :=
  ∀ b, s.commitsWith l ep b op → s.Runs .blockCommit (.blockCommit l ep) (Q b)

/-- A context behind the commit of a block of its own, its control state `c` apart: the flags have joined `cw.fm`, and its next block is to be fetched (R75). -/
def State.leavesAs (s t : State) (l : Loc) (b : Block) (c : Context) : Prop :=
  s.planned t 0 (.blockFetch l) ∧ ∃ n st u r, t.ctx l = { c with
    block := none, pc := w64 n, fm := w64 (Nat.lor c.fm.toNat b.flags), stale := st, unacquired := u, unreleased := r }

/-- A context whose control word `n` takes the value `v` (R73); a dike window is its polder's, and `cw.ctxstate` takes nothing. -/
def Context.withWord (c : Context) (n : Nat) (v : W64) : Context :=
  if n = 0 then { c with fm := v } else if n = 1 then { c with step := v } else if n = 2 then { c with steal := v.setWidth 2 }
  else if n = 3 then { c with prio := v } else if n = 0x20 then { c with trapvec := v } else if n = 0x21 then { c with trapframe := v }
  else if n = 0x30 then { c with pasid := v.setWidth 20 } else if n = 0x31 then { c with home := v } else if n = 0x32 then { c with spill := v }
  else if n = 0x33 then { c with tree := v } else c

/-- The ring operation that an act enters, the record of a push as it stands in memory (R66, R207). -/
def State.ringOpOf (s : State) (l : Loc) : CommitOp → Option RingOp
  | .ring o => some o
  | .push 0 ptr => some (.eq0 ptr (s.homeBytes l (ptr % 2 ^ 40) 32))
  | .push 2 ptr => some (.eq2 ptr (s.homeBytes l (ptr % 2 ^ 40) 32))
  | .push 3 ptr => some (.eq3 ptr (s.homeBytes l (ptr % 2 ^ 40) 64))
  | _ => none

/-- The slots that a block has reserved for a composition (R227). -/
def Block.composing (b : Block) : List Loc := b.acts.flatMap fun a => match a.2 with
  | .compose ms => ms
  | _ => []

/-- A 64-bit word at a key. -/
def State.word (s : State) (k : Nat) : Nat := s.num k 8

/-- The frame of a trap stands at a key: its eight words (R337). -/
def State.frameAt (s : State) (k : Nat) (w0 epc tval wp : Nat) : Prop :=
  s.word k = w0 ∧ s.word (k + 8) = epc ∧ s.word (k + 16) = tval ∧ s.word (k + 24) = wp
    ∧ s.word (k + 32) = 0 ∧ s.word (k + 40) = 0 ∧ s.word (k + 48) = 0 ∧ s.word (k + 56) = 0

/-- A user context can take a trap: it has a vector, the frame passes the checks of a store and waits for nothing, and it lies at key `k` (R338). -/
def State.trapReady (s : State) (l : Loc) (k : Nat) : Prop :=
  (s.ctx l).sup = false ∧ (s.ctx l).trapvec ≠ 0#64 ∧ s.frameOk l = true
    ∧ s.frameWaits l = false ∧ ∃ q, homePlace l (s.ctx l).trapframe.toNat = some q ∧ s.keyOf q = some k

/-- A context is filled by an arrival (R61, R62): it is READY, its control registers are as an arrival leaves them, its workspace holds the arrival's words
and zeros, and no other byte of memory changes; what is not of a thread (`wp`, the trap vector and frame, `home`, `spill`) stays. -/
structure State.Filled (s t : State) (l : Loc) (a : Arrival) : Prop where
  ready : (t.ctx l).state = 1#3 ∧ (t.ctx l).readyAt = s.now ∧ (t.ctx l).block = none ∧ (t.ctx l).reserved = none
  named : (t.ctx l).pc = w64 a.pc ∧ (t.ctx l).pasid = BitVec.ofNat 20 a.pasid ∧ (t.ctx l).prio = w64 (a.prio % 4)
    ∧ (t.ctx l).steal = BitVec.ofNat 2 a.steal ∧ (t.ctx l).tree = w64 a.tree ∧ (t.ctx l).guest = a.guest ∧ (t.ctx l).duties = a.duties
  clear : (t.ctx l).sup = false ∧ (t.ctx l).pol = 0#64 ∧ (t.ctx l).fm = 0#64 ∧ (t.ctx l).step = 0#64 ∧ (t.ctx l).faultQ = [] ∧ (t.ctx l).rowQ = []
    ∧ (t.ctx l).late = []
  stays : (t.ctx l).wp = (s.ctx l).wp ∧ (t.ctx l).trapvec = (s.ctx l).trapvec ∧ (t.ctx l).trapframe = (s.ctx l).trapframe
    ∧ (t.ctx l).home = (s.ctx l).home ∧ (t.ctx l).spill = (s.ctx l).spill
  words : ∀ n, n < 16 → t.wword l n = (a.words.getD n 0#64).toNat
  memory : s.memKeptBut t (coreKey l (s.ctx l).wp.toNat) 128
  dispatch : s.planned t 0 (.contextDispatch l.toCore)

/-- A place where bytes land at a key as they are written: mapped, in no fresh granule, and not in the control block of the slice core (R362). -/
def State.takesAt (s : State) (q : Place) (k : Nat) : Prop := s.keyOf q = some k ∧ s.unsettled q = false ∧ (q.space = 5 → 0x400 ≤ q.off)

/-- A home address where bytes land at key `k`. -/
def State.landsAt (s : State) (l : Loc) (a k : Nat) : Prop := ∃ q, homePlace l a = some q ∧ s.takesAt q k

/-- A request passes the sluice of its owner: routed, not dry, admitted, mapped at key `k`, not stopped by a lock, in no fresh granule (R107, R317). -/
structure State.passes (s : State) (r : Req) (p : Place) (k : Nat) : Prop where
  routed : s.routed r.who p.owner r.part = true
  wet : s.isDry r.who p.owner = false
  admitted : (r.admitted || s.dikeAdmits r.who r.part p r.size false) = true
  space : p.space ≠ 6
  key : s.keyOf p = some k
  free : s.lockStops r p k = none
  settled : s.unsettled p = false

/-- A registration passes the owner of its gauge at key `k` (R123). -/
structure State.watchable (s : State) (w : WatchReg) (p : Place) (k : Nat) : Prop where
  routed : s.routed w.issuer p.owner.toPolder w.part = true
  wet : s.isDry w.issuer p.owner.toPolder = false
  admitted : s.dikeAdmits w.issuer w.part p 8 false = true
  key : s.keyOf p = some k
  settled : s.unsettled p = false
  sound : s.eccHit k 8 = false

/-- The context that a satisfaction is for can take it now: its partition is resident, it is not HALTED, and no thread has left it (R125, R344, R347). -/
def State.takes (s : State) (x : Sat) : Prop :=
  (s.polder x.reg.issuer).part = some x.reg.part ∧ (s.ctx x.reg.issuer).state ≠ 4#3 ∧ (s.ctx x.reg.issuer).state ≠ 0#3

/-! ## Entries of the dispatch ring and the polder's engines -/

/-- An entry that has completed (R264): its cause is the first that it met, and its flags have joined. -/
def RingEntry.ended (e : RingEntry) (cause addr flags : Nat) : RingEntry :=
  { e with phase := .complete, cause := if e.cause = 0 then cause else e.cause, addr := if e.cause = 0 then addr else e.addr, flags := Nat.lor e.flags flags }

/-- A core whose ring entry of a number is changed. -/
def CoreState.upd (k : CoreState) (n : Nat) (f : RingEntry → RingEntry) : CoreState :=
  { k with ring := k.ring.map fun e => if e.seq.toNat = n then f e else e }

/-- Nothing of the ring of a core changes but the entries of one number. -/
def State.ringKeptBut (s t : State) (c : Loc) (n : Nat) : Prop :=
  ∀ x : RingEntry, x.seq.toNat ≠ n → (x ∈ (t.core c).ring ↔ x ∈ (s.core c).ring)

/-- What the lock table shows of its entries: destination or source, base and length (R278). -/
def State.lockedSpans (s : State) (p : Loc) : List (Bool × Nat × Nat) := (s.polder p).locks.map fun r => (r.dst, r.base, r.len)

/-- The request for a line of a transfer (R275). -/
def lineRequest (p : Loc) (t : Xfer) (id o n : Nat) : Req :=
  ⟨engineAgent { p with core := t.core }, t.part, t.pasid, (t.src + o) % 2 ^ 64, n, t.sup, .line id o, false⟩

/-- A home address lies in core memory, at a key. -/
def State.inCore (s : State) (l : Loc) (a k : Nat) : Prop := ∃ q, homePlace l a = some q ∧ q.space = 2 ∧ s.keyOf q = some k

/-- An array of bytes in core memory, from a key: packed elements of 8 bits, at most one beat of them (R168, R170). -/
def State.byteArray (s : State) (o : Loc) (t : VTok) (ty n k : Nat) : Prop :=
  t.ty = ty ∧ t.gran = false ∧ t.bs = false ∧ t.cnt = n ∧ 0 < n ∧ n ≤ 64 ∧ s.inCore o t.addr k

/-- A row of `n` packed `i8` elements of a matrix operand, in core memory from a key (R165, R166). -/
def State.byteRow (s : State) (o : Loc) (h : Shape) (n k : Nat) : Prop :=
  h.ty = 1 ∧ h.gran = false ∧ h.bsm = 0 ∧ h.ext 0 = n ∧ h.ext 1 = 1 ∧ s.inCore o h.base k

/-! ## Collectives -/

/-- The members that a chunk reads from are there: none is dry, and each knows the communicator by the same table and channel and runs the same command at the
step (R424, R434 to R436). -/
def State.peersReady (s : State) (p : Loc) (c : Comm) (n : Nat) (x : CollCmd) (t : CollStep) : Prop :=
  ∀ r ∈ c.chunkFrom n x t, s.isDry p (s.memberAt p (c.members.getD r (0, 0))) = false ∧
    ∃ y z, s.peerComm p c r = some y ∧ y.members = c.members ∧ y.chan = c.chan ∧ y.cmdAt n = some z ∧ z.sig = x.sig

/-- A packet of a communicator is on its way to the slice at `d`: at once to the own one, by the network to one that a route of the partition reaches and
that is not dry (R350, R352, R462). -/
def State.tells (s t : State) (p d : Loc) (part : Nat) (e : Event) : Prop :=
  (d.toPolder = p.toPolder → s.planned t 0 e) ∧
  (d.toPolder ≠ p.toPolder → s.routed p d part = true → s.isDry p d = false → s.planned t (8 + s.way p d) e)

/-- ABORT goes to every member of a communicator (R349, R350). -/
def State.aborts (s t : State) (p : Loc) (members : List (Nat × Nat)) (part cid reason : Nat) : Prop :=
  ∀ m ∈ members, s.tells t p (s.memberAt p m) part (.abortPacket (s.memberAt p m) cid reason p.toPolder)

/-- `n` bytes from a home address stand in core memory from a key on. -/
def State.spanAt (s : State) (l : Loc) (a k n : Nat) : Prop := ∀ d, d < n → s.inCore l (a + d) (k + d)

/-- The record of a communicator stands in core memory from a key. -/
def State.recordAt (s : State) (p : Loc) (a k : Nat) : Prop := s.spanAt p a k 64

/-- A handler of the chain has been asked for, or runs (R437). -/
def State.chained (s : State) (p : Loc) (w : Option Nat) : Prop := w ∈ (s.polder p).chain ∨ ∃ d, (s.polder p).chainRun = some (w, d)

end Sys2Proof.Machine
end

