-- ==== Sys2Proof/Certificates/Slice0/Obligations.lean ====
section
/-! DEFINITION. The statements for the provers. -/

open Sys2Proof Sys2Proof.Machine

/-- R87, R88, R89, R77: each of the 28 integer members, with its predicate taken and values on its operands, completes: it delivers exactly
this result after exactly this time, and nothing else of the machine changes. -/
def Obligations.IntegerResults : Prop := ∀ p t1 t0,
  Delivers2 (.add p t1 t0) p [t0, t1] (fun _ _ => 1) (fun l r => l + r) ∧
  Delivers2 (.sub p t1 t0) p [t0, t1] (fun _ _ => 1) (fun l r => l - r) ∧
  Delivers2 (.and p t1 t0) p [t0, t1] (fun _ _ => 1) (fun l r => l &&& r) ∧
  Delivers2 (.or p t1 t0) p [t0, t1] (fun _ _ => 1) (fun l r => l ||| r) ∧
  Delivers2 (.xor p t1 t0) p [t0, t1] (fun _ _ => 1) (fun l r => l ^^^ r) ∧
  Delivers2 (.andn p t1 t0) p [t0, t1] (fun _ _ => 1) (fun l r => l &&& ~~~r) ∧
  Delivers2 (.shl p t1 t0) p [t0, t1] (fun _ _ => 1) (fun l r => if 64 ≤ r.toNat then 0#64 else l <<< r.toNat) ∧
  Delivers2 (.shr p t1 t0) p [t0, t1] (fun _ _ => 1) (fun l r => if 64 ≤ r.toNat then 0#64 else l >>> r.toNat) ∧
  Delivers2 (.sra p t1 t0) p [t0, t1] (fun _ _ => 1) (fun l r => l.sshiftRight (if 64 ≤ r.toNat then 64 else r.toNat)) ∧
  Delivers2 (.rol p t1 t0) p [t0, t1] (fun _ _ => 1) (fun l r => l.rotateLeft (r.toNat % 64)) ∧
  Delivers2 (.ror p t1 t0) p [t0, t1] (fun _ _ => 1) (fun l r => l.rotateRight (r.toNat % 64)) ∧
  Delivers2 (.mul p t1 t0) p [t0, t1] (fun _ _ => 3) (fun l r => l * r) ∧
  Delivers2 (.mulh p t1 t0) p [t0, t1] (fun _ _ => 3) (fun l r => BitVec.ofInt 64 (l.toInt * r.toInt / 2 ^ 64)) ∧
  Delivers2 (.mulhn p t1 t0) p [t0, t1] (fun _ _ => 3) (fun l r => BitVec.ofNat 64 (l.toNat * r.toNat / 2 ^ 64)) ∧
  Delivers2 (.div p t1 t0) p [t0, t1] (divisionTime 64 true) (fun l r => if r = 0#64 then BitVec.allOnes 64 else BitVec.ofInt 64 (l.toInt.tdiv r.toInt)) ∧
  Delivers2 (.divn p t1 t0) p [t0, t1] (divisionTime 64 false) (fun l r => if r = 0#64 then BitVec.allOnes 64 else l / r) ∧
  Delivers2 (.rem p t1 t0) p [t0, t1] (divisionTime 64 true) (fun l r => if r = 0#64 then l else BitVec.ofInt 64 (l.toInt.tmod r.toInt)) ∧
  Delivers2 (.remn p t1 t0) p [t0, t1] (divisionTime 64 false) (fun l r => if r = 0#64 then l else l % r) ∧
  Delivers2 (.min p t1 t0) p [t0, t1] (fun _ _ => 1) (fun l r => if l.toInt ≤ r.toInt then l else r) ∧
  Delivers2 (.max p t1 t0) p [t0, t1] (fun _ _ => 1) (fun l r => if l.toInt ≤ r.toInt then r else l) ∧
  Delivers2 (.minn p t1 t0) p [t0, t1] (fun _ _ => 1) (fun l r => if l.toNat ≤ r.toNat then l else r) ∧
  Delivers2 (.maxn p t1 t0) p [t0, t1] (fun _ _ => 1) (fun l r => if l.toNat ≤ r.toNat then r else l) ∧
  Delivers1 (.clz p t1 t0) p [t0, t1] 1 (fun l => BitVec.ofNat 64 ((List.range 64).reverse.takeWhile fun i => !l.getLsbD i).length) ∧
  Delivers1 (.ctz p t1 t0) p [t0, t1] 1 (fun l => BitVec.ofNat 64 ((List.range 64).takeWhile fun i => !l.getLsbD i).length) ∧
  Delivers1 (.popc p t1 t0) p [t0, t1] 1 (fun l => BitVec.ofNat 64 ((List.range 64).filter l.getLsbD).length) ∧
  Delivers2 (.addsat p t1 t0) p [t0, t1] (fun _ _ => 1) (fun l r => BitVec.ofInt 64 (max (-2 ^ 63) (min (l.toInt + r.toInt) (2 ^ 63 - 1)))) ∧
  Delivers2 (.subsat p t1 t0) p [t0, t1] (fun _ _ => 1) (fun l r => BitVec.ofInt 64 (max (-2 ^ 63) (min (l.toInt - r.toInt) (2 ^ 63 - 1)))) ∧
  Delivers2 (.absd p t1 t0) p [t0, t1] (fun _ _ => 1) (fun l r => BitVec.ofNat 64 (l.toInt - r.toInt).natAbs)

/-- R90, R77: each of the 19 word members computes on the low 32 bits of its operands, shifts and rotations by the whole of `.r`, and delivers
the sign-extended result. -/
def Obligations.WordResults : Prop := ∀ p t1 t0,
  Delivers2 (.addw p t1 t0) p [t0, t1] (fun _ _ => 1) (word2 fun l r _ => l + r) ∧
  Delivers2 (.subw p t1 t0) p [t0, t1] (fun _ _ => 1) (word2 fun l r _ => l - r) ∧
  Delivers2 (.andw p t1 t0) p [t0, t1] (fun _ _ => 1) (word2 fun l r _ => l &&& r) ∧
  Delivers2 (.orw p t1 t0) p [t0, t1] (fun _ _ => 1) (word2 fun l r _ => l ||| r) ∧
  Delivers2 (.xorw p t1 t0) p [t0, t1] (fun _ _ => 1) (word2 fun l r _ => l ^^^ r) ∧
  Delivers2 (.andnw p t1 t0) p [t0, t1] (fun _ _ => 1) (word2 fun l r _ => l &&& ~~~r) ∧
  Delivers2 (.shlw p t1 t0) p [t0, t1] (fun _ _ => 1) (word2 fun l _ n => if 32 ≤ n.toNat then 0#32 else l <<< n.toNat) ∧
  Delivers2 (.shrw p t1 t0) p [t0, t1] (fun _ _ => 1) (word2 fun l _ n => if 32 ≤ n.toNat then 0#32 else l >>> n.toNat) ∧
  Delivers2 (.sraw p t1 t0) p [t0, t1] (fun _ _ => 1) (word2 fun l _ n => l.sshiftRight (if 32 ≤ n.toNat then 32 else n.toNat)) ∧
  Delivers2 (.rolw p t1 t0) p [t0, t1] (fun _ _ => 1) (word2 fun l _ n => l.rotateLeft (n.toNat % 32)) ∧
  Delivers2 (.rorw p t1 t0) p [t0, t1] (fun _ _ => 1) (word2 fun l _ n => l.rotateRight (n.toNat % 32)) ∧
  Delivers2 (.mulw p t1 t0) p [t0, t1] (fun _ _ => 3) (word2 fun l r _ => l * r) ∧
  Delivers2 (.divw p t1 t0) p [t0, t1] (divisionTime 32 true) (word2 fun l r _ => if r = 0#32 then BitVec.allOnes 32 else BitVec.ofInt 32 (l.toInt.tdiv r.toInt)) ∧
  Delivers2 (.divnw p t1 t0) p [t0, t1] (divisionTime 32 false) (word2 fun l r _ => if r = 0#32 then BitVec.allOnes 32 else l / r) ∧
  Delivers2 (.remw p t1 t0) p [t0, t1] (divisionTime 32 true) (word2 fun l r _ => if r = 0#32 then l else BitVec.ofInt 32 (l.toInt.tmod r.toInt)) ∧
  Delivers2 (.remnw p t1 t0) p [t0, t1] (divisionTime 32 false) (word2 fun l r _ => if r = 0#32 then l else l % r) ∧
  Delivers1 (.clzw p t1 t0) p [t0, t1] 1 (fun v => word2 (fun l _ _ => BitVec.ofNat 32 ((List.range 32).reverse.takeWhile fun i => !l.getLsbD i).length) v 0#64) ∧
  Delivers1 (.ctzw p t1 t0) p [t0, t1] 1 (fun v => word2 (fun l _ _ => BitVec.ofNat 32 ((List.range 32).takeWhile fun i => !l.getLsbD i).length) v 0#64) ∧
  Delivers1 (.popcw p t1 t0) p [t0, t1] 1 (fun v => word2 (fun l _ _ => BitVec.ofNat 32 ((List.range 32).filter l.getLsbD).length) v 0#64)

/-- R81, R82, R83, R85, R91 to R95: constants, copies, selection, immediates, comparisons, `LEA`, `EXT` and `INS` complete and deliver
exactly these values. -/
def Obligations.SmallResults : Prop := ∀ p t1 t0,
  (∀ k, Delivers (.const k t0) .always [] [t0] (fun _ => 0) fun _ => k.signExtend 64) ∧
  (∀ k, Delivers1 (.consth k t0) .always [t0] 0 fun l => (l <<< 16) ||| k.setWidth 64) ∧
  Delivers1 (.mov2 p t1 t0) p [t0, t1] 0 (fun l => l) ∧
  (∀ i, Delivers1 (.addi p i t0) p [t0] 1 fun l => l + i.signExtend 64) ∧
  (∀ i, Delivers1 (.andi p i t0) p [t0] 1 fun l => l &&& i.signExtend 64) ∧
  (∀ i, Delivers1 (.ori p i t0) p [t0] 1 fun l => l ||| i.signExtend 64) ∧
  (∀ i, Delivers1 (.xori p i t0) p [t0] 1 fun l => l ^^^ i.signExtend 64) ∧
  (∀ a, Delivers1 (.shli p a t0) p [t0] 1 fun l => l <<< a.toNat) ∧
  (∀ a, Delivers1 (.shri p a t0) p [t0] 1 fun l => l >>> a.toNat) ∧
  (∀ a, Delivers1 (.srai p a t0) p [t0] 1 fun l => l.sshiftRight a.toNat) ∧
  (∀ i, Delivers1 (.muli p i t0) p [t0] 3 fun l => l * i.signExtend 64) ∧
  Delivers2 (.cmp p .eq t1 t0) p [t0, t1] (fun _ _ => 1) (fun l r => if l = r then 1#64 else 0#64) ∧
  Delivers2 (.cmp p .ne t1 t0) p [t0, t1] (fun _ _ => 1) (fun l r => if l = r then 0#64 else 1#64) ∧
  Delivers2 (.cmp p .lt t1 t0) p [t0, t1] (fun _ _ => 1) (fun l r => if l.toInt < r.toInt then 1#64 else 0#64) ∧
  Delivers2 (.cmp p .ge t1 t0) p [t0, t1] (fun _ _ => 1) (fun l r => if r.toInt ≤ l.toInt then 1#64 else 0#64) ∧
  Delivers2 (.cmp p .ltn t1 t0) p [t0, t1] (fun _ _ => 1) (fun l r => if l.toNat < r.toNat then 1#64 else 0#64) ∧
  Delivers2 (.cmp p .gen t1 t0) p [t0, t1] (fun _ _ => 1) (fun l r => if r.toNat ≤ l.toNat then 1#64 else 0#64) ∧
  Delivers2 (.cmp p .tst t1 t0) p [t0, t1] (fun _ _ => 1) (fun l r => if l &&& r = 0#64 then 0#64 else 1#64) ∧
  (∀ i, Delivers1 (.cmpi p .eq i t0) p [t0] 1 fun l => if l = i.signExtend 64 then 1#64 else 0#64) ∧
  (∀ i, Delivers1 (.cmpi p .ne i t0) p [t0] 1 fun l => if l = i.signExtend 64 then 0#64 else 1#64) ∧
  (∀ i, Delivers1 (.cmpi p .lt i t0) p [t0] 1 fun l => if l.toInt < (i.signExtend 64).toInt then 1#64 else 0#64) ∧
  (∀ i, Delivers1 (.cmpi p .ge i t0) p [t0] 1 fun l => if (i.signExtend 64).toInt ≤ l.toInt then 1#64 else 0#64) ∧
  (∀ i, Delivers1 (.cmpi p .ltn i t0) p [t0] 1 fun l => if l.toNat < (i.signExtend 64).toNat then 1#64 else 0#64) ∧
  (∀ i, Delivers1 (.cmpi p .gen i t0) p [t0] 1 fun l => if (i.signExtend 64).toNat ≤ l.toNat then 1#64 else 0#64) ∧
  (∀ i, Delivers1 (.cmpi p .tst i t0) p [t0] 1 fun l => if l &&& i.signExtend 64 = 0#64 then 0#64 else 1#64) ∧
  (∀ a, Delivers2 (.lea p a t1 t0) p [t0, t1] (fun _ _ => 1) fun l r => l + (r <<< a.toNat)) ∧
  (∀ len pos, Delivers1 (.ext p 0#1 len pos t0) p [t0] 1 fun l =>
    BitVec.ofNat 64 (l.toNat / 2 ^ pos.toNat % 2 ^ (if len = 0#6 then 64 else len.toNat))) ∧
  (∀ len pos, Delivers1 (.ext p 1#1 len pos t0) p [t0] 1 fun l =>
    (BitVec.ofNat (if len = 0#6 then 64 else len.toNat) (l.toNat / 2 ^ pos.toNat)).signExtend 64) ∧
  Delivers (.ins t1 t0) .always [.l, .r, .x] [t0, t1] (fun _ => 1) (fun vs =>
    let pos := (arg vs 2).toNat % 64
    let len := (arg vs 2).toNat / 64 % 64
    let mask := BitVec.ofNat 64 ((2 ^ (if len = 0 then 64 else len) - 1) * 2 ^ pos)
    (arg vs 0 &&& ~~~mask) ||| ((arg vs 1 <<< pos) &&& mask)) ∧
  (∀ s b, s.firingBlock b → predFall p (b.tok s .x) ≠ .off →
    ∃ t, exec (.null p t1 t0) s = .next t ∧ s.Fired t b b (s.tokensOf b [(0, .null, [t0, t1])])) ∧
  (∀ s b, s.firingBlock b →
    ∃ t, exec (.sel t1 t0) s = .next t ∧ s.Fired t b b (s.tokensOf b [(0, match b.tok s .x with
      | .null => .null
      | .val v => if v.getLsbD 0 then b.tok s .l else b.tok s .r, [t0, t1])]))

/-- R35: a predicate whose bit 0 does not match makes any Brynrid instruction do nothing at all, whatever its other operands carry. -/
def Obligations.PredicatedOff : Prop := ∀ i, Skips i

/-- R36: a null on any operand, or on the predicate, makes every instruction of the integer, comparison, address, floating-point and
special-function families send a null to each target and do nothing else. -/
def Obligations.NullsPropagate : Prop := ∀ p c x t1 t0,
  (∀ i ∈ [Instr.add p t1 t0, .sub p t1 t0, .and p t1 t0, .or p t1 t0, .xor p t1 t0, .andn p t1 t0, .shl p t1 t0, .shr p t1 t0, .sra p t1 t0,
    .rol p t1 t0, .ror p t1 t0, .mul p t1 t0, .mulh p t1 t0, .mulhn p t1 t0, .div p t1 t0, .divn p t1 t0, .rem p t1 t0, .remn p t1 t0,
    .min p t1 t0, .max p t1 t0, .minn p t1 t0, .maxn p t1 t0, .clz p t1 t0, .ctz p t1 t0, .popc p t1 t0, .addsat p t1 t0, .subsat p t1 t0,
    .absd p t1 t0, .addw p t1 t0, .subw p t1 t0, .andw p t1 t0, .orw p t1 t0, .xorw p t1 t0, .andnw p t1 t0, .shlw p t1 t0, .shrw p t1 t0,
    .sraw p t1 t0, .rolw p t1 t0, .rorw p t1 t0, .mulw p t1 t0, .divw p t1 t0, .divnw p t1 t0, .remw p t1 t0, .remnw p t1 t0,
    .clzw p t1 t0, .ctzw p t1 t0, .popcw p t1 t0, .mov2 p t1 t0, .cmp p c t1 t0, .ins t1 t0], NullsPass i) ∧
  (∀ i ∈ [Instr.faddD p t1 t0, .fsubD p t1 t0, .fmulD p t1 t0, .fdivD p t1 t0, .fsqrtD p t1 t0, .fminD p t1 t0, .fmaxD p t1 t0,
    .fnegD p t1 t0, .fabsD p t1 t0, .feqD p t1 t0, .fltD p t1 t0, .fleD p t1 t0, .fclassD p t1 t0, .fsgnjD p t1 t0, .faddS p t1 t0,
    .fsubS p t1 t0, .fmulS p t1 t0, .fdivS p t1 t0, .fsqrtS p t1 t0, .fminS p t1 t0, .fmaxS p t1 t0, .fnegS p t1 t0, .fabsS p t1 t0,
    .feqS p t1 t0, .fltS p t1 t0, .fleS p t1 t0, .fclassS p t1 t0, .fsgnjS p t1 t0, .fmaD t1 t0, .fmaS t1 t0, .fcvt p x t1 t0,
    .sfnExp2 p t1 t0, .sfnLog2 p t1 t0, .sfnRcp p t1 t0, .sfnRsq p t1 t0, .sfnSin p t1 t0, .sfnCos p t1 t0, .sfnTanh p t1 t0,
    .sfnSigm p t1 t0], NullsPass i) ∧
  (∀ n, NullsPass (.consth n t0)) ∧
  (∀ n, ∀ i ∈ [Instr.addi p n t0, .andi p n t0, .ori p n t0, .xori p n t0, .muli p n t0], NullsPass i) ∧
  (∀ n, ∀ i ∈ [Instr.shli p n t0, .shri p n t0, .srai p n t0], NullsPass i) ∧
  (∀ n, NullsPass (.cmpi p c n t0)) ∧ (∀ n, NullsPass (.lea p n t1 t0)) ∧ ∀ g n m, NullsPass (.ext p g n m t0)

/-- R42, R65, R67, R78: `READ` of a register without a queue delivers its value at once: a workspace word as memory holds it at `wp`, `wp`, `tid`, `stat`, `pol`, the free entries of the
dispatch ring, `fq`, `cyc` and zero; a predicted block finds a workspace word as the blocks before it leave it. `READ` of `eq1` or of a port with a word for it delivers that word and reserves it to the block. -/
def Obligations.ReadResults : Prop :=
  (∀ t1 t0,
  let gives (r : BitVec 5) (pre : State → Prop) (f : State → Block → W64) : Prop := Completes (.read r t1 t0) .always [] (fun s _ _ => pre s) (fun _ b _ => b)
    fun s b _ => s.tokensOf b [(0, .val (f s b), [t0, t1])]
  let reads (r : BitVec 5) (f : State → W64) : Prop := gives r (fun _ => True) fun s _ => f s
  (∀ r : BitVec 5, r.toNat < 16 →
    (gives r (fun s => isAhead s.focus.l = false) fun s _ => BitVec.ofNat 64 (s.num (coreKey s.focus.l ((s.ctx s.focus.l).wp.toNat + 8 * r.toNat)) 8)) ∧
    gives r (fun s => isAhead s.focus.l = true) fun s b => BitVec.ofNat 64 ((s.aheadWord s.focus.l b r.toNat).getD 0)) ∧
  reads 16#5 (fun s => (s.ctx s.focus.l).wp.setWidth 64) ∧
  reads 17#5 (fun s => BitVec.ofNat 64 (s.tid s.focus.l)) ∧
  reads 18#5 (fun s => BitVec.ofNat 64 (s.ctx s.focus.l).stat) ∧
  reads 19#5 (fun s => (s.ctx s.focus.l).pol) ∧
  (∀ r ∈ [20#5, 22#5, 23#5], reads r fun s => BitVec.ofNat 64 (64 - (s.core s.focus.l).ring.length)) ∧
  reads 28#5 (fun s => BitVec.ofNat 64 (s.ctx s.focus.l).fq) ∧
  reads 29#5 (fun s => BitVec.ofNat 64 (s.cyc s.focus.l)) ∧
  reads 31#5 (fun _ => 0#64)) ∧
  (∀ t1 t0 w, ∀ r ∈ [21#5, 24#5, 25#5, 26#5, 27#5],
  Completes (.read r t1 t0) .always [] (fun s b _ => s.queueWord s.focus.l b r.toNat = some w)
    (fun s b _ => { b with pops := b.pops ++ [⟨r.toNat, s.focus.slot, w.tag, w.word⟩] })
    fun s b _ => s.tokensOf b [(0, .val w.word, [t0, t1])])

/-- R79, R80, R66, R68: a `WRITE` is held for commit: its register is marked with the value, pushes to `eq0`, `eq2`, `eq3` and the ports wait
as acts of the block, and no register changes; a second `WRITE` of the number is a block-format fault with detail 10. At commit a port's word goes to the end of the FIFO
at its other end, or into the output buffer where that is full. -/
def Obligations.WriteRegisters : Prop := (∀ p (r : BitVec 5),
  Completes (.write p r) p [.l] (fun _ b _ => ¬ b.writes.any fun w => w.1 == r.toNat)
    (fun s b vs => { b with
      writes := b.writes ++ [(r.toNat, some (arg vs 0))]
      acts := b.acts ++ (if 24 ≤ r.toNat ∧ r.toNat ≤ 27 then [(s.focus.slot, .port (r.toNat - 24) (arg vs 0))]
        else if r = 20#5 ∨ r = 22#5 ∨ r = 23#5 then [(s.focus.slot, .push (r.toNat - 20) (arg vs 0).toNat)] else []) })
    (fun _ _ _ => []) ∧
  Faults (.write p r) p [.l] (fun _ b _ => b.writes.any fun w => w.1 == r.toNat) 2 10 (fun _ => 0)) ∧
  ∀ (s : State) l ep k v, k < (s.core (portDest l k)).ports.length → k < (s.core l).outbuf.length →
    s.actCommits l ep (.port k v) fun b t => s.memKept t ∧ s.leavesAs t l b (s.ctx l) ∧
      let fifo (x : State) : List W64 := ((x.core (portDest l k)).ports.getD k []).map fun w => w.word
      ((fifo s).length < 8 → fifo t = fifo s ++ [v]) ∧ (8 ≤ (fifo s).length → fifo t = fifo s ∧ (t.core l).outbuf.getD k none = some v)

/-- R96, R97, R101, R231: the first exit to fire is recorded with its next block address and takes effect at commit only; a second exit
that fires is a block-format fault with detail 7. A `MIGR` of a virtual address whose translation is not kept here walks the tables first. -/
def Obligations.ExitsRecorded : Prop := ∀ p e (o : BitVec 20),
  let exits (i : Instr) (os : List Opnd) (pre : State → Block → List W64 → Prop) (f : State → Block → List W64 → ExitAct) : Prop :=
    Completes i p os (fun s b vs => b.exit = none ∧ pre s b vs)
      (fun s b vs => { b with exit := some (f s b vs), exits := b.exits + 1 }) (fun _ _ _ => []) ∧
    Faults i p os (fun s b vs => b.exit.isSome ∧ pre s b vs) 2 7 (fun _ => 0)
  let yes : State → Block → List W64 → Prop := fun _ _ _ => True
  let away (b : Block) : Nat := (BitVec.ofNat 64 b.addr + (o.signExtend 64 <<< 5)).toNat
  let behind (b : Block) : Nat := b.addr + (160 + 128 * bits (b.hw 0) 23 22)
  exits (.br p e o) [] yes (fun _ b _ => .goto (away b)) ∧
  exits (.brl p e) [.l] yes (fun _ _ vs => .goto (arg vs 0).toNat) ∧
  exits (.call p e o) [] yes (fun _ b _ => .call (away b) (behind b)) ∧
  exits (.calll p e) [.l] yes (fun _ b vs => .call (arg vs 0).toNat (behind b)) ∧
  exits (.ret p e) [.l] yes (fun _ _ vs => .goto (arg vs 0).toNat) ∧
  exits (.endExit p e) [] yes (fun _ _ _ => .done) ∧
  exits (.susp p e o) [] yes (fun _ b _ => .suspend (away b)) ∧
  exits (.sysc p e o) [] yes (fun _ b _ => .sysc (behind b) o.toNat) ∧
  exits (.migr p e o) [.l] (fun s _ vs => (s.ctx s.focus.l).lead = none ∧ (arg vs 0).toNat < 2 ^ 40)
    (fun s b _ => .migrate (away b) s.focus.l.toPolder) ∧
  ∀ s b v d, s.firingBlock b → predFall p (b.tok s .x) = .taken → b.gives s [.l] [v] → (s.ctx s.focus.l).lead = none →
    s.migrTarget s.focus.l v.toNat = .ok d → ∃ t, exec (.migr p e o) s = .next t ∧
      (b.exit = none → (s.walked v.toNat).Fired t b { b with exit := some (.migrate (away b) d), exits := b.exits + 1 } []) ∧
      (b.exit.isSome → (s.walked v.toNat).Fired t b { b with fault := some ⟨s.now, s.focus.slot, 2, 7, 0⟩ }
        [⟨s.now, .event (.blockAbandon s.focus.l s.focus.epoch)⟩])

/-- R73, R230, R232, R233, R337: in a supervisor context `SWITCH` holds its new workspace pointer for commit, which changes `wp` alone, and `ERET` records the return to the workspace pointer and block
address that the trap frame holds. Fired by a user context, `SWITCH`, `ERET`, `RELOC`, and `CWR` and `CWW` of a supervisor's control word, take the privilege fault 0x0C. -/
def Obligations.PrivilegedInstructions : Prop :=
  (∀ p e,
  Completes (.switch p) p [.l]
    (fun s _ vs => (s.ctx s.focus.l).sup = true ∧ s.wpCause s.focus.l (arg vs 0).toNat = 0)
    (fun s b vs => b.withAct s (.switch (arg vs 0).toNat)) (fun _ _ _ => []) ∧
  Completes (.eret p e) p []
    (fun s b _ => (s.ctx s.focus.l).sup = true ∧ b.exit = none
      ∧ s.wpCause s.focus.l (bits (s.home64 s.focus.l ((s.ctx s.focus.l).trapframe.toNat + 24)) 16 0) = 0)
    (fun s b _ => { b with
      exit := some (.eret (bits (s.home64 s.focus.l ((s.ctx s.focus.l).trapframe.toNat + 24)) 16 0)
        (bits (s.home64 s.focus.l ((s.ctx s.focus.l).trapframe.toNat + 8)) 56 0))
      exits := b.exits + 1 }) fun _ _ _ => []) ∧
  (∀ p e t0,
  let user : State → Block → List W64 → Prop := fun s _ _ => (s.ctx s.focus.l).sup = false
  Faults (.switch p) p [.l] user 0x0C 0 (fun vs => (arg vs 0).toNat) ∧
  Faults (.eret p e) p [] user 0x0C 0 (fun _ => 0) ∧
  Faults .reloc .always [.l, .r, .x] user 0x0C 0 (fun _ => 0) ∧
  ∀ n ∈ [0x20#14, 0x21#14, 0x40#14, 0x41#14, 0x42#14, 0x43#14, 0x44#14, 0x45#14, 0x46#14, 0x47#14],
    Faults (.cwr p n t0) p [] user 0x0C 0 (fun _ => 0) ∧ Faults (.cww p n) p [.l] user 0x0C 0 fun _ => 0) ∧
  ∀ (s : State) l ep wp, s.actCommits l ep (.switch wp) fun b t =>
    s.memKept t ∧ s.CommitWithin t l ∧ s.leavesAs t l b { s.ctx l with wp := BitVec.ofNat 17 wp }

/-- R73, R76, R229: `CWR` delivers each control word, the supervisor's in a supervisor context only, `cw.fm`, the dike windows and the handler set in
`cw.ctxstate` as of the last block boundary. -/
def Obligations.ControlWordReads : Prop := ∀ p t0,
  let reads (n : BitVec 14) (pre : State → Prop) (f : State → Block → W64) : Prop :=
    Completes (.cwr p n t0) p [] (fun s _ _ => pre s) (fun _ b _ => b) fun s b _ => s.tokensOf b [(0, .val (f s b), [t0])]
  let c (s : State) : Context := s.ctx s.focus.l
  let sup : State → Prop := fun s => (c s).sup = true
  let any : State → Prop := fun _ => True
  reads 0#14 any (fun _ b => b.fm0) ∧ reads 1#14 any (fun s _ => (c s).step) ∧ reads 2#14 any (fun s _ => (c s).steal.setWidth 64) ∧
  reads 3#14 any (fun s _ => (c s).prio) ∧ reads 0x10#14 any (fun s b => BitVec.ofNat 64 ((c s).ctxstate b.hset0)) ∧
  reads 0x20#14 sup (fun s _ => (c s).trapvec) ∧ reads 0x21#14 sup (fun s _ => (c s).trapframe) ∧
  reads 0x30#14 any (fun s _ => (c s).pasid.setWidth 64) ∧ reads 0x31#14 any (fun s _ => (c s).home) ∧
  reads 0x32#14 any (fun s _ => (c s).spill) ∧ reads 0x33#14 any (fun s _ => (c s).tree) ∧
  ∀ k, k < 8 → reads (BitVec.ofNat 14 (0x40 + k)) sup fun _ b => b.dikes0.getD k 0#64

/-- R73, R75, R229: a `CWW` that the rules admit is held for commit with its reserved bits cleared, and a second one of the same number is a
block-format fault with detail 10; rounding modes 5 to 7 and the steal value 3 are illegal. The commit of its block puts the value into that word alone, and nothing
where the word is read-only to a user context. That `cw.steal` is read modulo 4 is the model's choice
(notes/assumptions 127). -/
def Obligations.ControlWordWrites : Prop := (∀ p,
  let sup (s : State) (_ : W64) : Prop := (s.ctx s.focus.l).sup = true
  HoldsControl p 0#14 (fun _ v => v.toNat / 256 % 8 < 5) (fun v => BitVec.ofNat 64 (v.toNat / 256 % 8 * 256 + v.toNat % 32)) ∧
  Faults (.cww p 0#14) p [.l] (fun _ _ vs => 5 ≤ (arg vs 0).toNat / 256 % 8) 1 0 (fun _ => 0) ∧
  HoldsControl p 1#14 (fun _ _ => True) id ∧
  HoldsControl p 2#14 (fun s v => v.toNat % 4 < 3 ∧ ((s.ctx s.focus.l).sup = true ∨ v.toNat % 4 ≤ (s.ctx s.focus.l).stealMax.toNat))
    (fun v => BitVec.ofNat 64 (v.toNat % 4)) ∧
  Faults (.cww p 2#14) p [.l] (fun _ _ vs => (arg vs 0).toNat % 4 = 3) 1 0 (fun _ => 0) ∧
  Faults (.cww p 2#14) p [.l] (fun s _ vs => (s.ctx s.focus.l).sup = false ∧ (arg vs 0).toNat % 4 < 3
    ∧ (s.ctx s.focus.l).stealMax.toNat < (arg vs 0).toNat % 4) 0x0C 0 (fun _ => 0) ∧
  HoldsControl p 3#14 (fun _ _ => True) (fun v => BitVec.ofNat 64 (v.toNat % 4)) ∧
  HoldsControl p 0x20#14 sup id ∧ HoldsControl p 0x21#14 sup id ∧
  HoldsControl p 0x30#14 (fun _ _ => True) (fun v => BitVec.ofNat 64 (v.toNat % 2 ^ 20)) ∧
  HoldsControl p 0x31#14 (fun _ _ => True) (fun v => BitVec.ofNat 64 (v.toNat % 2 ^ 24)) ∧
  ∀ k, k < 8 → HoldsControl p (BitVec.ofNat 14 (0x40 + k)) sup fun v => BitVec.ofNat 64 (v.toNat / 4 * 4)) ∧
  ∀ (s : State) l ep n v, (n = 3 → ∀ k, (s.ctx { l with ctx := k }).state = 1#3 → (s.ctx { l with ctx := k }).prio.toNat ≤ v.toNat) →
    s.actCommits l ep (.cww n (some v)) fun b t =>
      s.memKept t ∧ s.CommitWithin t l ∧
      s.leavesAs t l b (if (s.ctx l).sup = true ∨ n < 4 then (s.ctx l).withWord n v else s.ctx l) ∧
      (t.polder l).dikes = if (s.ctx l).sup = true ∧ 0x40 ≤ n then (s.polder l).dikes.set (n - 0x40) v else (s.polder l).dikes

/-- R75, R153, R158 to R161: each scalar floating-point member completes: the exact result of its operation, rounded once by `cw.fm.rm`, is delivered after its time, and its flags
join those that the block keeps for its commit. `FNEG`, `FABS` and `FSGNJ` touch the sign bit alone. `FCVT` converts the source element in the low bits of `.l` and delivers after 4 cycles. -/
def Obligations.FloatResults : Prop :=
  (∀ p t1 t0,
  FloatDelivers (.faddD p t1 t0) .f64 p [.l, .r] [t0, t1] (fun _ => 4) (fun (rm, l, r, _) => Fmt.finish .f64 rm ((Fmt.decode .f64 l).add rm (Fmt.decode .f64 r))) ∧
  FloatDelivers (.fsubD p t1 t0) .f64 p [.l, .r] [t0, t1] (fun _ => 4) (fun (rm, l, r, _) => Fmt.finish .f64 rm ((Fmt.decode .f64 l).add rm (Fmt.decode .f64 r).negate)) ∧
  FloatDelivers (.fmulD p t1 t0) .f64 p [.l, .r] [t0, t1] (fun _ => 4) (fun (rm, l, r, _) => Fmt.finish .f64 rm ((Fmt.decode .f64 l).mul (Fmt.decode .f64 r))) ∧
  FloatDelivers (.fdivD p t1 t0) .f64 p [.l, .r] [t0, t1] (fun (rm, l, r, _) => fopLatency .f64 rm .div l r) (fun (rm, l, r, _) => Fmt.finish .f64 rm ((Fmt.decode .f64 l).div (Fmt.decode .f64 r))) ∧
  FloatDelivers (.fsqrtD p t1 t0) .f64 p [.l] [t0, t1] (fun (rm, l, r, _) => fopLatency .f64 rm .sqrt l r) (fun (rm, l, _, _) => Fmt.finish .f64 rm (Fmt.decode .f64 l).sqrt) ∧
  FloatDelivers (.fminD p t1 t0) .f64 p [.l, .r] [t0, t1] (fun _ => 4) (fun (rm, l, r, _) => Fmt.finish .f64 rm ((Fmt.decode .f64 l).min (Fmt.decode .f64 r))) ∧
  FloatDelivers (.fmaxD p t1 t0) .f64 p [.l, .r] [t0, t1] (fun _ => 4) (fun (rm, l, r, _) => Fmt.finish .f64 rm ((Fmt.decode .f64 l).max (Fmt.decode .f64 r))) ∧
  FloatDelivers (.fnegD p t1 t0) .f64 p [.l] [t0, t1] (fun _ => 1) (fun (_, l, _, _) => ((l + 2 ^ 63) % 2 ^ 64, 0)) ∧
  FloatDelivers (.fabsD p t1 t0) .f64 p [.l] [t0, t1] (fun _ => 1) (fun (_, l, _, _) => (l % 2 ^ 63, 0)) ∧
  FloatDelivers (.feqD p t1 t0) .f64 p [.l, .r] [t0, t1] (fun _ => 4) (fun (_, l, r, _) => (if (Fmt.decode .f64 l).eq (Fmt.decode .f64 r) then 1 else 0, if (Fmt.decode .f64 l).isSig || (Fmt.decode .f64 r).isSig then 16 else 0)) ∧
  FloatDelivers (.fltD p t1 t0) .f64 p [.l, .r] [t0, t1] (fun _ => 4) (fun (_, l, r, _) => (if (Fmt.decode .f64 l).lt (Fmt.decode .f64 r) then 1 else 0, if (Fmt.decode .f64 l).isNan || (Fmt.decode .f64 r).isNan then 16 else 0)) ∧
  FloatDelivers (.fleD p t1 t0) .f64 p [.l, .r] [t0, t1] (fun _ => 4) (fun (_, l, r, _) => (if !(Fmt.decode .f64 l).isNan && !(Fmt.decode .f64 r).isNan && !(Fmt.decode .f64 r).lt (Fmt.decode .f64 l) then 1 else 0,
    if (Fmt.decode .f64 l).isNan || (Fmt.decode .f64 r).isNan then 16 else 0)) ∧
  FloatDelivers (.fclassD p t1 t0) .f64 p [.l] [t0, t1] (fun _ => 1) (fun (_, l, _, _) => (Fmt.classify .f64 l, 0)) ∧
  FloatDelivers (.fsgnjD p t1 t0) .f64 p [.l, .r] [t0, t1] (fun _ => 1) (fun (_, l, r, _) => (l % 2 ^ 63 + r / 2 ^ 63 % 2 * 2 ^ 63, 0)) ∧
  FloatDelivers (.fmaD t1 t0) .f64 .always [.l, .r, .x] [t0, t1] (fun _ => 5) (fun (rm, l, r, x) =>
    let prod := (Fmt.decode .f64 l).mul (Fmt.decode .f64 r)
    let sum := prod.1.add rm (Fmt.decode .f64 x)
    Fmt.finish .f64 rm (sum.1, Nat.lor prod.2 sum.2)) ∧
  FloatDelivers (.faddS p t1 t0) .f32 p [.l, .r] [t0, t1] (fun _ => 4) (fun (rm, l, r, _) => Fmt.finish .f32 rm ((Fmt.decode .f32 l).add rm (Fmt.decode .f32 r))) ∧
  FloatDelivers (.fsubS p t1 t0) .f32 p [.l, .r] [t0, t1] (fun _ => 4) (fun (rm, l, r, _) => Fmt.finish .f32 rm ((Fmt.decode .f32 l).add rm (Fmt.decode .f32 r).negate)) ∧
  FloatDelivers (.fmulS p t1 t0) .f32 p [.l, .r] [t0, t1] (fun _ => 4) (fun (rm, l, r, _) => Fmt.finish .f32 rm ((Fmt.decode .f32 l).mul (Fmt.decode .f32 r))) ∧
  FloatDelivers (.fdivS p t1 t0) .f32 p [.l, .r] [t0, t1] (fun (rm, l, r, _) => fopLatency .f32 rm .div l r) (fun (rm, l, r, _) => Fmt.finish .f32 rm ((Fmt.decode .f32 l).div (Fmt.decode .f32 r))) ∧
  FloatDelivers (.fsqrtS p t1 t0) .f32 p [.l] [t0, t1] (fun (rm, l, r, _) => fopLatency .f32 rm .sqrt l r) (fun (rm, l, _, _) => Fmt.finish .f32 rm (Fmt.decode .f32 l).sqrt) ∧
  FloatDelivers (.fminS p t1 t0) .f32 p [.l, .r] [t0, t1] (fun _ => 4) (fun (rm, l, r, _) => Fmt.finish .f32 rm ((Fmt.decode .f32 l).min (Fmt.decode .f32 r))) ∧
  FloatDelivers (.fmaxS p t1 t0) .f32 p [.l, .r] [t0, t1] (fun _ => 4) (fun (rm, l, r, _) => Fmt.finish .f32 rm ((Fmt.decode .f32 l).max (Fmt.decode .f32 r))) ∧
  FloatDelivers (.fnegS p t1 t0) .f32 p [.l] [t0, t1] (fun _ => 1) (fun (_, l, _, _) => ((l + 2 ^ 31) % 2 ^ 32, 0)) ∧
  FloatDelivers (.fabsS p t1 t0) .f32 p [.l] [t0, t1] (fun _ => 1) (fun (_, l, _, _) => (l % 2 ^ 31, 0)) ∧
  FloatDelivers (.feqS p t1 t0) .f32 p [.l, .r] [t0, t1] (fun _ => 4) (fun (_, l, r, _) => (if (Fmt.decode .f32 l).eq (Fmt.decode .f32 r) then 1 else 0, if (Fmt.decode .f32 l).isSig || (Fmt.decode .f32 r).isSig then 16 else 0)) ∧
  FloatDelivers (.fltS p t1 t0) .f32 p [.l, .r] [t0, t1] (fun _ => 4) (fun (_, l, r, _) => (if (Fmt.decode .f32 l).lt (Fmt.decode .f32 r) then 1 else 0, if (Fmt.decode .f32 l).isNan || (Fmt.decode .f32 r).isNan then 16 else 0)) ∧
  FloatDelivers (.fleS p t1 t0) .f32 p [.l, .r] [t0, t1] (fun _ => 4) (fun (_, l, r, _) => (if !(Fmt.decode .f32 l).isNan && !(Fmt.decode .f32 r).isNan && !(Fmt.decode .f32 r).lt (Fmt.decode .f32 l) then 1 else 0,
    if (Fmt.decode .f32 l).isNan || (Fmt.decode .f32 r).isNan then 16 else 0)) ∧
  FloatDelivers (.fclassS p t1 t0) .f32 p [.l] [t0, t1] (fun _ => 1) (fun (_, l, _, _) => (Fmt.classify .f32 l, 0)) ∧
  FloatDelivers (.fsgnjS p t1 t0) .f32 p [.l, .r] [t0, t1] (fun _ => 1) (fun (_, l, r, _) => (l % 2 ^ 31 + r / 2 ^ 31 % 2 * 2 ^ 31, 0)) ∧
  FloatDelivers (.fmaS t1 t0) .f32 .always [.l, .r, .x] [t0, t1] (fun _ => 5) (fun (rm, l, r, x) =>
    let prod := (Fmt.decode .f32 l).mul (Fmt.decode .f32 r)
    let sum := prod.1.add rm (Fmt.decode .f32 x)
    Fmt.finish .f32 rm (sum.1, Nat.lor prod.2 sum.2))) ∧
  (∀ p c t1 t0,
  FloatDelivers (.fcvt p c t1 t0) .f64 p [.l] [t0, t1] (fun _ => 4) fun (rm, l, _, _) => fcvt c rm l)

/-- R163, R164: a special-function request with room in the core's queue of 16 enters it behind the others, an idle unit takes it this cycle, and the slot waits for its result. At its
turn the unit accepts the first request whose block still stands, gives its result 12 cycles later and takes its next turn 4 cycles later; a result is delivered and its flags join those of the
block, and the request of a block that is over leaves no trace. -/
def Obligations.SpecialFunctions : Prop :=
  (∀ p t1 t0,
  let queues (i : Instr) (fn : SfnFn) : Prop := ∀ s b v, s.firingBlock b → predFall p (b.tok s .x) = .taken → b.gives s [.l] [v] →
    (s.core s.focus.l).sfu.length < 16 →
    ∃ t, exec i s = .next t ∧ s.memKept t ∧ s.ctxsKeptBut t s.focus.l ∧ s.poldersKept t ∧ s.devicesKept t ∧ s.coresKeptBut t s.focus.l ∧
      t.core s.focus.l = { s.core s.focus.l with
        sfu := (s.core s.focus.l).sfu ++ [⟨s.focus.l, s.focus.epoch, s.focus.slot, fn, v.toNat % 2 ^ 32⟩], sfuBusy := true } ∧
      ((s.core s.focus.l).sfuBusy = false → s.planned t 0 (.sfuAccept s.focus.l.toCore)) ∧
      ∃ f w, t.ctx s.focus.l = { s.ctx s.focus.l with block := some { b with out := s.focus.slot :: b.out, fired := f, waiting := w } }
  queues (.sfnExp2 p t1 t0) .exp2 ∧ queues (.sfnLog2 p t1 t0) .log2 ∧ queues (.sfnRcp p t1 t0) .rcp ∧ queues (.sfnRsq p t1 t0) .rsq ∧
  queues (.sfnSin p t1 t0) .sin ∧ queues (.sfnCos p t1 t0) .cos ∧ queues (.sfnTanh p t1 t0) .tanh ∧ queues (.sfnSigm p t1 t0) .sigm) ∧
  ((∀ (s : State) c r q, sfuLive s (s.core c).sfu = r :: q → 0 < r.epoch → s.Runs .sfuAccept (.sfuAccept c) fun t =>
    s.memKept t ∧ s.coresKeptBut t c ∧ s.poldersKept t ∧ s.devicesKept t ∧
    t.core c = { s.core c with sfu := q, sfuBusy := true } ∧ (∀ l, t.ctx l = { s.ctx l with block := (t.ctx l).block }) ∧
    s.planned t 12 (.sfuResult c r.l r.epoch r.slot (.val (w64 (sfn r.fn r.arg).1)) (sfn r.fn r.arg).2) ∧ s.planned t 4 (.sfuAccept c)) ∧
  (∀ (s : State) c, sfuLive s (s.core c).sfu = [] → s.Runs .sfuAccept (.sfuAccept c) fun t =>
    s.memKept t ∧ s.coresKeptBut t c ∧ s.poldersKept t ∧ s.devicesKept t ∧ t.core c = { s.core c with sfu := [], sfuBusy := false } ∧
    (∀ l, t.ctx l = { s.ctx l with block := (t.ctx l).block }) ∧ ∀ q ∈ t.agenda, q ∈ s.agenda ∨ ∃ l ep n, q.work = .fire l ep n) ∧
  (∀ (s : State) c l ep n b i tok fl, 0 < ep → s.inFlight l ep b → n ∈ b.out → b.instrAt n = some i →
    s.Runs .sfuResult (.sfuResult c l ep n tok fl) fun t =>
      s.FiredAt t l ep n b { b with out := b.out.filter (fun k => k != n), flags := Nat.lor b.flags fl }
        ({ s with focus := ⟨l, ep, n⟩ }.tokensOf b [(0, tok, targetsOf i)])) ∧
  ∀ (s : State) c l ep n tok fl, 0 < ep → s.blockAt l ep = none → s.Runs .sfuResult (.sfuResult c l ep n tok fl) fun t => t = s)

/-- R22: the home ranges of an agent: its core's private alias, the polder view of the eight core memories, the running accumulator bank,
slice handler memory, the HBM channel and the second-tier window; every other home address has no place. -/
def Obligations.HomeRanges : Prop := ∀ (l : Loc) (a : Nat),
  (a < 0x20000 → homePlace l a = some ⟨l.toPolder, 2, l.core * 0x20000 + a⟩) ∧
  (0x100000 ≤ a → a < 0x200000 → homePlace l a = some ⟨l.toPolder, 2, a - 0x100000⟩) ∧
  (0x400000 ≤ a → a < 0x480000 → homePlace l a = some ⟨l.toPolder, 3, a - 0x400000⟩) ∧
  (0x800000 ≤ a → a < 0x820000 → homePlace l a = some ⟨l.toPolder, 5, a - 0x800000⟩) ∧
  (0x100000000 ≤ a → a < 0x180000000 → homePlace l a = some ⟨l.toPolder, 0, a - 0x100000000⟩) ∧
  (0x4000000000 ≤ a → a < 0x8000000000 → homePlace l a = some ⟨l.toPolder, 1, a - 0x4000000000⟩) ∧
  (¬ (a < 0x20000 ∨ (0x100000 ≤ a ∧ a < 0x200000) ∨ (0x400000 ≤ a ∧ a < 0x480000) ∨ (0x800000 ≤ a ∧ a < 0x820000)
    ∨ (0x100000000 ≤ a ∧ a < 0x180000000) ∨ (0x4000000000 ≤ a ∧ a < 0x8000000000)) → homePlace l a = none)

/-- R10, R104, R107, R112, R113, R289, R292, R330: each load and `LDA` completes: in a core memory of its polder it is performed at once and its bytes are answered in 4
cycles, or 16 from another core's, and one that would miss a write that an earlier load of its block has seen has the block executed again; elsewhere a request of its
size goes to the owner of its place, as a load by that context, while fewer than 48 load misses of the core are outstanding. -/
def Obligations.LoadsRequest : Prop := ∀ p n i sc o t0, ∀ x ∈ loadForms p n i sc o t0,
  (∀ off, Completes x.1 p [.l]
    (fun s _ vs => x.2.2 (arg vs 0) % x.2.1 = 0 ∧ homePlace s.focus.l (x.2.2 (arg vs 0)) = some ⟨s.focus.l.toPolder, 2, off⟩
      ∧ s.lockHit s.focus.l (keyIn s.focus.l.toPolder 2 off) x.2.1 true = none
      ∧ s.eccHit (keyIn s.focus.l.toPolder 2 off) x.2.1 = false)
    (fun s b _ => b.reads s x.2.1 off)
    fun s b vs => ⟨s.now + (if off / 0x20000 = s.focus.l.core then 4 else 16), .event (.loadReply s.focus.l s.focus.epoch s.focus.slot none
      ⟨0, x.2.2 (arg vs 0), (s.coreSees b x.2.1 off).1⟩)⟩ ::
      if (s.coreSees b x.2.1 off).2.2 then [⟨s.now, .event (.blockAbandon s.focus.l s.focus.epoch)⟩] else []) ∧
  Asks x.1 p [.l]
    (fun s vs => x.2.2 (arg vs 0) % x.2.1 = 0 ∧ s.readerOf s.focus.l (s.ctx s.focus.l).pasid.toNat (x.2.2 (arg vs 0)) = none
      ∧ (x.2.2 (arg vs 0) < 2 ^ 40 → ∃ q, homePlace s.focus.l (x.2.2 (arg vs 0)) = some q ∧ q.space < 2) ∧ s.missesOf s.focus.l < 48)
    (fun s b _ => b.misses s)
    fun s vs => s.asked (x.2.2 (arg vs 0)) x.2.1 (.load s.focus.l s.focus.epoch s.focus.slot none)

/-- R107: a misaligned load faults with 0x03, one outside the home ranges or in a second-tier page that the polder does not own with 0x04, a user's
load of handler memory with 0x0C; a load in a destination that an engine of another owner has registered is answered with 0x08, and an
uncorrectable error with 0x11. A null address delivers a null and checks nothing. -/
def Obligations.LoadChecks : Prop := ∀ p n i sc o t0, ∀ x ∈ loadForms p n i sc o t0,
  let at_ (vs : List W64) : Nat := x.2.2 (arg vs 0)
  Faults x.1 p [.l] (fun _ _ vs => at_ vs % x.2.1 ≠ 0) 3 0 at_ ∧
  Faults x.1 p [.l] (fun s _ vs => at_ vs % x.2.1 = 0 ∧ at_ vs < 2 ^ 40 ∧ homePlace s.focus.l (at_ vs) = none) 4 0 at_ ∧
  Faults x.1 p [.l] (fun s _ vs => at_ vs % x.2.1 = 0 ∧ ∃ off, homePlace s.focus.l (at_ vs) = some ⟨s.focus.l.toPolder, 1, off⟩
    ∧ s.tierKey s.focus.l off = none) 4 0 at_ ∧
  Faults x.1 p [.l] (fun s _ vs => at_ vs % x.2.1 = 0 ∧ (s.ctx s.focus.l).sup = false
    ∧ ∃ off, homePlace s.focus.l (at_ vs) = some ⟨s.focus.l.toPolder, 5, off⟩) 0x0C 0 at_ ∧
  (∀ off r, Completes x.1 p [.l]
    (fun s _ vs => at_ vs % x.2.1 = 0 ∧ homePlace s.focus.l (at_ vs) = some ⟨s.focus.l.toPolder, 2, off⟩
      ∧ s.lockHit s.focus.l (keyIn s.focus.l.toPolder 2 off) x.2.1 true = some r ∧ r.owner ≠ s.focus.l)
    (fun s b _ => b.awaits s)
    fun s _ vs => [⟨s.now + (if off / 0x20000 = s.focus.l.core then 4 else 16),
      .event (.loadReply s.focus.l s.focus.epoch s.focus.slot none ⟨8, at_ vs, []⟩)⟩]) ∧
  (∀ off s b vs, s.firingBlock b → predFall p (b.tok s .x) = .taken → b.gives s [.l] vs → at_ vs % x.2.1 = 0 →
    homePlace s.focus.l (at_ vs) = some ⟨s.focus.l.toPolder, 2, off⟩ → s.lockHit s.focus.l (keyIn s.focus.l.toPolder 2 off) x.2.1 true = none →
    s.eccHit (keyIn s.focus.l.toPolder 2 off) x.2.1 = true → ∃ t, exec x.1 s = .next t ∧ (s.counted 0x358).Fired t b (b.awaits s)
      [⟨s.now + (if off / 0x20000 = s.focus.l.core then 4 else 16), .event (.loadReply s.focus.l s.focus.epoch s.focus.slot none ⟨0x11, at_ vs, []⟩)⟩]) ∧
  ∀ s b, s.firingBlock b → predFall p (b.tok s .x) = .taken → b.operand s.focus.slot .l = some .null →
    ∃ t, exec x.1 s = .next t ∧ s.Fired t b { b with done := s.focus.slot :: b.done } (s.tokensOf b [(0, .null, [t0])])

/-- R104, R108, R115, R116, R120, R466: each store and `GADV` that passes its checks is held with its LSID, address, size and value until its
block commits, and a null takes its LSID alone; one that fails a check faults with the check's cause and its address, and a second store
of an LSID is a block-format fault with detail 10. -/
def Obligations.StoresHeld : Prop := ∀ p n i sc o, ∀ x ∈ storeForms p n i sc o,
  Completes x.1 p [.l, .r]
    (fun s b vs => b.lsidFree n.toNat ∧ s.storeCause s.focus.l (x.2.2.1 (arg vs 0)) x.2.1 = 0)
    (fun s b vs => { b with stores := b.stores ++
      [⟨n.toNat, s.focus.slot, x.2.2.1 (arg vs 0), x.2.1, some (arg vs 1), x.2.2.2.1, x.2.2.2.2⟩] })
    (fun _ _ _ => []) ∧
  (∀ c, c ≠ 0 → Faults x.1 p [.l, .r] (fun s _ vs => s.storeCause s.focus.l (x.2.2.1 (arg vs 0)) x.2.1 = c) c 0 fun vs => x.2.2.1 (arg vs 0)) ∧
  Faults x.1 p [.l, .r] (fun s b vs => ¬ b.lsidFree n.toNat ∧ s.storeCause s.focus.l (x.2.2.1 (arg vs 0)) x.2.1 = 0) 2 10 (fun _ => 0) ∧
  ∀ s b, s.firingBlock b → predFall p (b.tok s .x) = .taken → (b.operand s.focus.slot .l = some .null ∨ b.operand s.focus.slot .r = some .null) →
    b.lsidFree n.toNat → ∃ t, exec x.1 s = .next t ∧
      s.Fired t b { b with stores := b.stores ++ [⟨n.toNat, s.focus.slot, 0, x.2.1, none, false, none⟩] } []

/-- R108: the checks of a store when it fires, in order: alignment 0x03; bits above the home form, an address outside the home ranges, a second-tier
page that the polder does not own, and a place at or above the context's HBM limit, 0x07; a user's store to handler memory, 0x0C; and the
workspace of a context that is not DORMANT, 0x08. -/
def Obligations.StoreChecks : Prop := ∀ (s : State) (l : Loc) (a n : Nat), 0 < n →
  let limit := (s.ctx l).home.toNat % 2 ^ 24
  (a % n ≠ 0 → s.storeCause l a n = 3) ∧
  (a % n = 0 → 2 ^ 40 ≤ a → s.storeCause l a n = 7) ∧
  (a % n = 0 → a < 2 ^ 40 → homePlace l a = none → s.storeCause l a n = 7) ∧
  ∀ q, a % n = 0 → homePlace l a = some q →
    (q.space = 1 → s.tierKey l q.off = none → s.storeCause l a n = 7) ∧
    (q.space = 0 → limit ≠ 0 → limit * 0x10000 ≤ q.off → s.storeCause l a n = 7) ∧
    (q.space = 5 → (s.ctx l).sup = false → s.storeCause l a n = 0x0C) ∧
    (q.space = 2 → ∀ k x, k < 8 → x = { q.owner with core := q.off / 0x20000, ctx := k } → (s.ctx x).state ≠ 0#3 →
      x.core * 0x20000 + (s.ctx x).wp.toNat < q.off + n → q.off < x.core * 0x20000 + (s.ctx x).wp.toNat + 128 → s.storeCause l a n = 8) ∧
    (q.space = 2 → (∀ k, k < 8 → (s.ctx { q.owner with core := q.off / 0x20000, ctx := k }).state = 0#3) → s.storeCause l a n = 0) ∧
    (q.space = 3 → s.storeCause l a n = 0) ∧
    (q.space = 0 → limit = 0 ∨ q.off < limit * 0x10000 → s.storeCause l a n = 0) ∧
    (q.space = 1 → (s.tierKey l q.off).isSome → s.storeCause l a n = 0) ∧
    (q.space = 5 → (s.ctx l).sup = true → s.storeCause l a n = 0)

/-- R12, R43, R118, R119, R329: a `FENCE` that fires delivers zero, `FENCE.FULL` notes its LSID for the block fetch, and one of kind full or acquire lets the
fetch see what others have released, where no block is fetched ahead; a null predicate delivers a null and orders nothing. `PREF` counts
itself and asks the owner of the line for it in the class of `pol`, unless the line is of core memory or an accumulator, which no slice holds; it is done when it has asked, and where
the line has no place it only counts a second time. -/
def Obligations.FencesAndPrefetches : Prop :=
  (∀ p n sc k t0,
  (∀ s b, s.firingBlock b → predFall p (b.tok s .x) = .taken → (k = .full ∨ k = .acq → s.ahead s.focus.l = []) →
    ∃ t, exec (.fence p n sc k t0) s = .next t ∧ (s.acquired k).Fired t b
      { b with done := s.focus.slot :: b.done, fenced := if k = .full then some (max n.toNat (b.fenced.getD 0)) else b.fenced }
      (s.tokensOf b [(0, .val 0#64, [t0])])) ∧
  ∀ s b, s.firingBlock b → predFall p (b.tok s .x) = .nulled →
    ∃ t, exec (.fence p n sc k t0) s = .next t ∧ s.Fired t b { b with done := s.focus.slot :: b.done } (s.tokensOf b [(0, .null, [t0])])) ∧
  (∀ p n (i : BitVec 9) s b vs a,
  s.firingBlock b → predFall p (b.tok s .x) = .taken → b.gives s [.l] vs → a = (arg vs 0 + i.signExtend 64).toNat / 64 * 64 →
  (∀ q, let r := s.asked a 64 (.pref (s.ctx s.focus.l).pol.toNat (s.readerOf s.focus.l (s.ctx s.focus.l).pasid.toNat a))
    s.reaches r q → ∃ t, exec (.pref p n i) s = .next t ∧
    { s.counted 0x308 with free := s.free + 1 }.Fired t b { b with done := s.focus.slot :: b.done }
      [s.requestTo r q]) ∧
  (∀ q, homePlace s.focus.l a = some q → q.space = 2 ∨ q.space = 3 → ∃ t, exec (.pref p n i) s = .next t ∧
    (s.counted 0x308).Fired t b { b with done := s.focus.slot :: b.done } []) ∧
  (a < 2 ^ 40 → homePlace s.focus.l a = none → ∃ t, exec (.pref p n i) s = .next t ∧
    ((s.counted 0x308).counted 0x310).Fired t b { b with done := s.focus.slot :: b.done } []))

/-- R43, R135, R137: each `AMO` form completes: a target in the polder's own core memories goes to its port at once, any other to the owner of its place,
and the slot waits for the old value; the packet carries the member, its ordering and its operands, and a release is made when it fires. -/
def Obligations.AtomicsSent : Prop := ∀ p x t1 t0, ∀ i ∈ [(Instr.amo p x t1 t0, AmoOrder.relaxed), (.amoaq p x t1 t0, .acquire),
    (.amorl p x t1 t0, .release), (.amoar p x t1 t0, .both)],
  let size : Nat := if x = .fadd ∨ x = .add32 ∨ x = .cas32 then 4 else 8
  let marked (s : State) (b : Block) (vs : List W64) : Block := { b.awaits s with
    atoms := if (homePlace s.focus.l (arg vs 0).toNat).isSome then ((s.homeKey s.focus.l (arg vs 0).toNat).getD 0, size) :: b.atoms else b.atoms }
  (∀ s b vs, s.firingBlock b → predFall p (b.tok s .x) = .taken → b.gives s (inputsOf i.1) vs → (arg vs 0).toNat % size = 0 →
    (∀ off, homePlace s.focus.l (arg vs 0).toNat = some ⟨s.focus.l.toPolder, 2, off⟩ → ∃ t, exec i.1 s = .next t ∧
      (s.released i.2).Fired t b (marked s b vs) [⟨s.now, .event (.atomicPacketArrival (s.amoPacket x i.2 vs) ⟨s.focus.l.toPolder, 2, off⟩)⟩]) ∧
    ∀ q, (∀ off, homePlace s.focus.l (arg vs 0).toNat ≠ some ⟨s.focus.l.toPolder, 2, off⟩) →
      let r := s.asked (arg vs 0).toNat size (.atomic (s.amoPacket x i.2 vs))
      s.reaches r q → ∃ t, exec i.1 s = .next t ∧ { s.released i.2 with free := s.free + 1 }.Fired t b (marked s b vs) [s.requestTo r q]) ∧
  Faults i.1 p (inputsOf i.1) (fun s _ vs => (arg vs 0).toNat < 2 ^ 40 ∧ homePlace s.focus.l (arg vs 0).toNat = none) 7 0 (fun vs => (arg vs 0).toNat) ∧
  Faults i.1 p (inputsOf i.1) (fun s _ vs => (∃ q, homePlace s.focus.l (arg vs 0).toNat = some q ∧ 3 ≤ q.space)) 7 0 (fun vs => (arg vs 0).toNat) ∧
  Faults i.1 p (inputsOf i.1) (fun s _ vs => (∃ q, homePlace s.focus.l (arg vs 0).toNat = some q ∧ q.space ≤ 2 ∧ q.space ≠ 1)
    ∧ (arg vs 0).toNat % size ≠ 0) 3 0 fun vs => (arg vs 0).toNat

/-- R122 to R124, R126, R129, R132, R133: `WATCH.TASK`, `WATCH.FUT` and `LISTEN` send a registration to the owner of the gauge and wait for its handle; a misaligned gauge is a misaligned
fault, and a `LISTEN` without a free listen slot takes 0x13 (one whose record lies in a granule still to be zeroed waits for that). `WATCH.CANCEL` and `UNLISTEN` hold their handle, and a `PULL` that passes its checks its operands, for commit; a `PULL` of class 3 is
illegal, and one whose destination or completion word leaves the ranges is a store-address fault; a null makes a `PULL` do nothing. At commit a reserved entry is armed, one that was met at once is satisfied, and a cancel goes to the entry's
owner. -/
def Obligations.WatchInstructions : Prop :=
  (∀ p t1 t0,
  let gauge (vs : List W64) : Nat := (arg vs 0).toNat
  let ready (s : State) (vs : List W64) : Prop := s.gaugeCause s.focus.l (gauge vs) = 0
  let reg (s : State) (k : WatchKind) (vs : List W64) (thr x : Nat) (ws : List Nat) : WatchReg :=
    ⟨s.focus.l, s.focus.epoch, s.focus.slot, k, thr, x, (s.ctx s.focus.l).pasid.toNat, (s.polder s.focus.l).part.getD 0, gauge vs, ws⟩
  let settled (s : State) (vs : List W64) : Prop := s.homeSettled s.focus.l [polderView s.focus.l (arg vs 1).toNat] = true
  let words (s : State) (vs : List W64) : List Nat :=
    (List.range 4).map fun i => numAt (s.listenBytes s.focus.l (polderView s.focus.l (arg vs 1).toNat)) (8 * i) 8
  (∀ x ∈ [(Instr.watchTask t1 t0, WatchKind.task, 64), (.watchFut t1 t0, .fut, 8)],
    Asks x.1 .always [.l, .r, .x]
      (fun s vs => ready s vs ∧ s.storeRange s.focus.l (polderView s.focus.l (arg vs 2).toNat) x.2.2 = 0) (fun s b _ => b.awaits s)
      (fun s vs => s.asked (gauge vs) 8
        (.watch (reg s x.2.1 vs (arg vs 1).toNat (polderView s.focus.l (arg vs 2).toNat) [(s.ctx s.focus.l).steal.toNat]))) ∧
    Faults x.1 .always [.l, .r, .x] (fun _ _ vs => gauge vs % 8 ≠ 0) 3 0 gauge ∧
    ∀ c l, c ≠ 0 → Faults x.1 .always [.l, .r, .x]
      (fun s _ vs => s.focus.l = l ∧ ready s vs ∧ s.storeRange l (polderView l (arg vs 2).toNat) x.2.2 = c) c 0 fun vs => polderView l (arg vs 2).toNat) ∧
  Asks (.listen p t1 t0) p [.l, .r]
    (fun s vs => settled s vs ∧ ready s vs ∧ s.recordCause s.focus.l (polderView s.focus.l (arg vs 1).toNat) 64 = 0
      ∧ (s.listenCause s.focus.l (s.listenBytes s.focus.l (polderView s.focus.l (arg vs 1).toNat))).1 = 0
      ∧ (s.polder s.focus.l).listens.length < 16) (fun s b _ => b.awaits s)
    (fun s vs => s.asked (gauge vs) 8 (.watch (reg s .listen vs 0 (polderView s.focus.l (arg vs 1).toNat) (words s vs)))) ∧
  Faults (.listen p t1 t0) p [.l, .r] (fun s _ vs => settled s vs ∧ gauge vs % 8 ≠ 0) 3 0 gauge ∧
  (∀ c d, c ≠ 0 → Faults (.listen p t1 t0) p [.l, .r]
    (fun s _ vs => settled s vs ∧ ready s vs ∧ s.recordCause s.focus.l (polderView s.focus.l (arg vs 1).toNat) 64 = 0
      ∧ s.listenCause s.focus.l (s.listenBytes s.focus.l (polderView s.focus.l (arg vs 1).toNat)) = (c, d)) c 0 fun _ => d) ∧
  Faults (.listen p t1 t0) p [.l, .r]
    (fun s _ vs => settled s vs ∧ ready s vs ∧ s.recordCause s.focus.l (polderView s.focus.l (arg vs 1).toNat) 64 = 0
      ∧ (s.listenCause s.focus.l (s.listenBytes s.focus.l (polderView s.focus.l (arg vs 1).toNat))).1 = 0
      ∧ 16 ≤ (s.polder s.focus.l).listens.length) 0x13 0 gauge) ∧
  (∀ p,
  let handle (s : State) (v : Nat) : Handle :=
    ⟨Loc.polderOf (s.devAt s.focus.l.dev (bits v 39 32)) (polderIndex (bits v 31 30) (bits v 29 26) (bits v 25 23)),
      if bits v 29 26 ≤ 11 then bits v 22 9 else 0, bits v 8 0⟩
  let pull : List Opnd := [.l, .r, .x]
  Holds (.watchCancel p) p [.l] (fun _ _ => True) (fun s vs => .cancel (handle s (arg vs 0).toNat)) ∧
  Holds (.unlisten p) p [.l] (fun _ _ => True) (fun s vs => .unlisten (handle s (arg vs 0).toNat)) ∧
  Holds .pull .always pull (fun s vs => s.pullCause s.focus.l (arg vs 1).toNat (arg vs 2).toNat = 0)
    (fun _ vs => .ring (.pull (arg vs 0).toNat (arg vs 1).toNat (arg vs 2).toNat)) ∧
  (∀ s b, s.firingBlock b → (∀ o ∈ pull, (b.operand s.focus.slot o).isSome) → (∃ o ∈ pull, b.operand s.focus.slot o = some .null) →
    ∃ t, exec .pull s = .next t ∧ s.Fired t b b []) ∧
  Faults .pull .always pull (fun _ _ vs => bits (arg vs 2).toNat 21 20 = 3 ∨ bits (arg vs 2).toNat 23 23 = 1) 1 0 (fun _ => 0) ∧
  let legal (vs : List W64) : Prop := bits (arg vs 2).toNat 21 20 ≠ 3 ∧ bits (arg vs 2).toNat 23 23 = 0
  let cwa (vs : List W64) : Nat := bits (arg vs 2).toNat 63 24
  let range (s : State) (vs : List W64) : Nat := s.pullRange s.focus.l (arg vs 1).toNat (bits (arg vs 2).toNat 19 0 + 1)
  Faults .pull .always pull (fun _ _ vs => legal vs ∧ cwa vs % 8 ≠ 0) 3 0 cwa ∧
  Faults .pull .always pull (fun s _ vs => legal vs ∧ cwa vs % 8 = 0 ∧ range s vs ≠ 0) 7 0 (fun vs => (arg vs 1).toNat) ∧
  Faults .pull .always pull (fun s _ vs => legal vs ∧ cwa vs % 8 = 0 ∧ range s vs = 0 ∧ cwa vs ≠ 0 ∧ s.pullRange s.focus.l (cwa vs) 8 ≠ 0) 7 0 cwa) ∧
  ∀ (s : State) l ep h,
  let far : Nat := 8 + s.way l h.owner
  (∀ w v, s.actCommits l ep (.watch w h v) fun b t => s.memKept t ∧ s.leavesAs t l b (s.ctx l) ∧
    (h.gen = 0 → s.planned t 0 (.watchSatisfactionArrival ⟨w, h, v⟩)) ∧
    (h.gen ≠ 0 → s.planned t far (.watchArm w h) ∧ ∀ x ∈ (t.polder l).listens, x.handle = h → x.armed = true)) ∧
  (s.actCommits l ep (.cancel h) fun b t => s.memKept t ∧ s.leavesAs t l b (s.ctx l) ∧ (h.gen ≠ 0 → s.planned t far (.watchCancelArrival h false false))) ∧
  s.actCommits l ep (.unlisten h) fun b t => s.memKept t ∧ s.leavesAs t l b (s.ctx l) ∧ (h.gen ≠ 0 → s.planned t far (.watchCancelArrival h false true)) ∧
    ∀ x ∈ (t.polder l).listens, x.handle = h → x.running = true ∧ x.removed = true

/-- R169, R173 to R185, R192, R203 to R205: each vector instruction whose operands pass the checks of R169 holds one entry with its operands for commit, and one that fails a check
faults with the check's cause and address. `MMA` of each pair, `MROT`, and the members of `MACC` that enter the ring hold an entry when their checks pass, an `MMA` with copies of its two records;
a pair that the polder cannot run faults with 0x0A, an illegal slot word with 0x01. `MACC.QUERY` delivers the state word of its slot as it stands. The commit enters what a block holds for the ring, pushes to the event
queues too, in slot order under the core's next sequence numbers (R66, R264). -/
def Obligations.CoprocessorHeld : Prop :=
  (∀ p c n, ∀ x ∈ vectorForms p c n,
  Holds x.1 x.2.2.1 x.2.2.2 (fun s vs => (s.vecCause s.focus.l x.2.1 (arg vs 0).toNat (arg vs 1).toNat (arg vs 2).toNat).1 = 0)
    (fun _ vs => .ring (.vec x.2.1 (arg vs 0).toNat (arg vs 1).toNat (arg vs 2).toNat)) ∧
  ∀ k, k ≠ 0 → ∀ d, Faults x.1 x.2.2.1 x.2.2.2
    (fun s _ vs => s.vecCause s.focus.l x.2.1 (arg vs 0).toNat (arg vs 1).toNat (arg vs 2).toNat = (k, d)) k 0 (fun _ => d)) ∧
  ((∀ p f,
  (∀ x ∈ matrixForms f,
    Holds x.1 .always [.l, .r, .x] (fun s vs => (s.mmaCause s.focus.l x.2.1 x.2.2 (arg vs 0).toNat (arg vs 1).toNat (arg vs 2).toNat).1 = 0)
      (fun s vs => .ring (.mma x.2.1 x.2.2 (s.homeBytes s.focus.l (arg vs 0).toNat 32) (s.homeBytes s.focus.l (arg vs 1).toNat 32)
        (arg vs 0).toNat (arg vs 2).toNat)) ∧
    Faults x.1 .always [.l, .r, .x] (fun s _ _ => pairRuns x.2.1 s.focus.l.narrow = false) 0x0A 0 (fun _ => 0)) ∧
  ∀ x ∈ [(Instr.maccZero p, MaccOp.zero, [Opnd.l]), (.maccReclaim p, .reclaim, [.l]), (.maccPark p, .park, [.l]), (.maccLoada p, .loada, [.l, .r]),
      (.maccStorea p, .storea, [.l, .r])],
    Holds x.1 p x.2.2 (fun _ vs => (maccCause x.2.1 (arg vs 0).toNat (arg vs 1).toNat).1 = 0)
      (fun _ vs => .ring (.macc x.2.1 (arg vs 0).toNat (arg vs 1).toNat)) ∧
    Faults x.1 p x.2.2 (fun _ _ vs => 128 ≤ (arg vs 0).toNat) 1 0 (fun _ => 0)) ∧
  (∀ p t1 t0,
  Completes (.maccQuery p t1 t0) p [.l] (fun _ _ vs => (arg vs 0).toNat < 32) (fun _ b _ => b) (fun s b vs =>
    s.tokensOf b [(0, .val (BitVec.ofNat 64 (slotStateWord ((s.polder s.focus.l).slotAt (arg vs 0).toNat))), [t0, t1])]) ∧
  Faults (.maccQuery p t1 t0) p [.l] (fun _ _ vs => 32 ≤ (arg vs 0).toNat) 1 0 (fun _ => 0))) ∧
  ∀ (s : State) l ep b, s.commits l ep b → s.steady l → s.unowed l → (∃ n, b.exit = some (.goto n)) → (∀ w ∈ b.writes, 16 ≤ w.1 ∧ w.1 ≠ 19) → b.stores = [] →
    b.pops = [] → (∀ a ∈ b.acts, (s.ringOpOf l a.2).isSome = true) → s.Runs .blockCommit (.blockCommit l ep) fun t => s.memKept t ∧
      ∃ es : List RingEntry, (t.core l).ring = (s.core l).ring ++ es ∧
        es.map (fun e => e.op) = b.actsInOrder.filterMap (fun a => s.ringOpOf l a.2) ∧
        es.map (fun e => e.seq) = (List.range es.length).map (fun i => (s.core l).seq + BitVec.ofNat 16 i) ∧
        (∀ e ∈ es, e.owner = l ∧ e.thread = (s.ctx l).thread ∧ e.phase = .dispatched ∧ e.cause = 0 ∧ e.pasid = (s.ctx l).pasid.toNat ∧ e.part = s.partOf l ∧
          e.sup = (s.ctx l).sup ∧ e.rm = (s.ctx l).fm.toNat / 2 ^ 8 % 8 ∧ e.pol = (s.ctx l).pol) ∧
        s.leavesAs t l b { s.ctx l with dseq := if es = [] then (s.ctx l).dseq else (s.core l).seq + BitVec.ofNat 16 (es.length - 1) }

/-- R212, R214, R216, R217: `FORK` holds its record and reports where it will go, 0 the deque, 1 the task ring, 2 nowhere; `FUTR` of an empty future holds its record and delivers a null
and 0, of a full one delivers the value and 1 and is an acquire, of a dry one 9 and 2, and of state 3 faults with 0x0B; `FUTW` holds its value. `JOIN` reserves the lowest free entry of its polder's watch table
under the next generation, holds the counter and the record for commit, and delivers the handle, or with no free entry faults with 0x13. At commit `FORK` enters its
record where it said, or marks its launch; a record of kind 1 resumes its context; `JOIN` arms its entry, or enters its record where the counter has come to zero; `FUTR` puts
its record at the head of the future's list, and `FUTW` of a future without readers fills it. -/
def Obligations.TasksForkAndJoin : Prop :=
  (∀ p t1 t0,
  let futr : Instr := .futr p t1 t0
  Completes (.fork p t1 t0) p [.l] (fun s _ vs => s.taskAddrCause s.focus.l (arg vs 0).toNat = 0)
    (fun s b vs => b.withAct s (.fork (arg vs 0).toNat (s.forkPlace s.focus.l)))
    (fun s b _ => s.tokensOf b [(0, .val (BitVec.ofNat 64 (min 2 (s.forkPlace s.focus.l))), [t0, t1])]) ∧
  Faults (.fork p t1 t0) p [.l] (fun _ _ vs => (arg vs 0).toNat % 64 ≠ 0) 3 0 (fun vs => (arg vs 0).toNat) ∧
  Completes futr p [.l, .r] (fun s _ vs => s.futureReady vs ∧ s.futureState vs = 0)
    (fun s b vs => b.withAct s (.futr (polderView s.focus.l (arg vs 0).toNat) (polderView s.focus.l (arg vs 1).toNat)))
    (fun s b _ => s.tokensOf b [(0, .null, [t0]), (0, .val 0#64, [t1])]) ∧
  (∀ s b vs, s.firingBlock b → predFall p (b.tok s .x) = .taken → b.gives s [.l, .r] vs → s.futureReady vs → s.futureState vs = 1 → s.ahead s.focus.l = [] →
    ∃ t, exec futr s = .next t ∧ (s.acquired .acq).Fired t b b (s.tokensOf b
      [(0, .val (BitVec.ofNat 64 (s.home64 s.focus.l (polderView s.focus.l (arg vs 0).toNat + 8))), [t0]), (0, .val 1#64, [t1])])) ∧
  Completes futr p [.l, .r] (fun s _ vs => s.futureReady vs ∧ s.futureState vs = 2) (fun _ b _ => b)
    (fun s b _ => s.tokensOf b [(0, .val 9#64, [t0]), (0, .val 2#64, [t1])]) ∧
  (∀ l, Faults futr p [.l, .r] (fun s _ vs => s.focus.l = l ∧ s.futureReady vs ∧ s.futureState vs = 3) 0x0B 0
    fun vs => polderView l (arg vs 0).toNat) ∧
  Holds (.futw p) p [.l, .r] (fun s vs => s.futureCause s.focus.l (polderView s.focus.l (arg vs 0).toNat) = 0)
    (fun s vs => .futw (polderView s.focus.l (arg vs 0).toNat) (arg vs 1))) ∧
  (∀ p t1 t0,
  (∀ s b vs i, s.firingBlock b → predFall p (b.tok s .x) = .taken → b.gives s [.l, .r] vs → s.joinReady vs → (s.polder s.focus.l).freeWatch = some i →
    ∃ t, exec (.join p t1 t0) s = .next t ∧ (s.joinReserved vs i).Fired t b
      (b.withAct s (.join (arg vs 0).toNat (polderView s.focus.l (arg vs 1).toNat) ⟨s.focus.l.toPolder, (s.polder s.focus.l).nextGen i, i⟩))
      (s.tokensOf b [(0, .val (BitVec.ofNat 64 (s.handleWord ⟨s.focus.l.toPolder, (s.polder s.focus.l).nextGen i, i⟩)), [t0, t1])])) ∧
  Faults (.join p t1 t0) p [.l, .r] (fun s _ vs => s.joinReady vs ∧ (s.polder s.focus.l).freeWatch = none) 0x13 0 fun vs => (arg vs 0).toNat) ∧
  ∀ (s : State) l ep a,
  let c := s.ctx l
  let e (ws : List Nat) : DequeEntry := s.entryOf l ws c.steal.toNat c.pasid.toNat
  let ws := s.taskWords l a
  let task : Prop := entryKind (e ws) = 0
  let enters (t : State) (x : DequeEntry) : Prop := (t.core l).deque = x :: (s.core l).deque ∧ s.planned t 0 (.contextAllocation l.toCore)
  let cell := s.ringCell l (s.home64 l (c.spillBase + 8))
  (s.actCommits l ep (.fork a 0) fun b t => task → s.memKept t ∧ enters t (e ws) ∧ s.leavesAs t l b c) ∧
  (s.actCommits l ep (.fork a 1) fun b t => task → s.leavesAs t l b c ∧ (l.ctx, cell, e ws) ∈ (t.core l).ringed ∧ (t.core l).deque = (s.core l).deque ∧
    ∀ k m, s.landsAt l (c.spillBase + 8) k → s.landsAt l cell m → (k + 8 ≤ m ∨ m + 64 ≤ k) →
      t.word k = (s.word k + 1) % 2 ^ 64 ∧ ∀ i, i < 8 → t.word (m + 8 * i) = ((e ws).words.getD i 0#64).toNat) ∧
  (s.actCommits l ep (.fork a 2) fun b t => s.memKept t ∧ s.leavesAs t l b { c with tree := BitVec.ofNat 64 (Nat.lor c.tree.toNat 64) }) ∧
  (s.actCommits l ep (.fork a 3) fun _ t => (s.partOf l, s.coreRec l 0x14 0 0 c.spillBase 0) ∈ (t.device l).hostRecs) ∧
  (∀ i, i < 2 → s.actCommits l ep (.fork a i) fun _ t => ∀ x : Loc, entryKind (e ws) = 1 → x = { l with ctx := ws.getD 2 0 % 8 } → (s.ctx x).state = 3#3 →
    (t.ctx x).state = 1#3) ∧
  (∀ ctr h, s.actCommits l ep (.join ctr a h) fun b t => s.memKept t ∧
    (s.home64 l ctr ≠ 0 → s.leavesAs t l b c ∧
      (t.polder l).watches = (s.polder l).watches.map fun w => if w.idx = h.entry ∧ w.gen = h.gen then { w with armed := true } else w) ∧
    (s.home64 l ctr = 0 → task → (s.core l).heldRecs = [] → s.dequeRoom l = true → s.leavesAs t l b c ∧ enters t (e ws) ∧
      (t.polder l).watches = (s.polder l).watches.filter fun w => !(w.idx == h.entry && w.gen == h.gen))) ∧
  (∀ f k m, s.landsAt l f k → s.landsAt l (a + 56) m → (k + 8 ≤ m ∨ m + 8 ≤ k) → s.actCommits l ep (.futr f a) fun b t => s.word k < 2 ^ 62 →
    s.leavesAs t l b c ∧ t.word k = s.word k / 2 ^ 40 * 2 ^ 40 + a ∧ t.word m = s.word k % 2 ^ 40 ∧
    ∀ j, (j < k ∨ k + 8 ≤ j) → (j < m ∨ m + 8 ≤ j) → t.mem.get j = s.mem.get j) ∧
  ∀ f k m v, s.landsAt l f k → s.landsAt l (f + 8) m → (k + 8 ≤ m ∨ m + 8 ≤ k) → s.actCommits l ep (.futw f v) fun b t => s.word k % 2 ^ 40 = 0 →
    s.leavesAs t l b c ∧ t.word k = 2 ^ 62 + s.word k ∧ t.word m = v.toNat ∧
    ∀ j, (j < k ∨ k + 8 ≤ j) → (j < m ∨ m + 8 ≤ j) → t.mem.get j = s.mem.get j

/-- R209, R219, R221, R222: `SEND` and `SENDB` with a legal token, an aligned message in core memory or HBM, and for `SENDB` a mask of the low eight bits,
hold the message for commit; an illegal token or mask faults with 0x01, a misaligned message with 0x03, another place with 0x04. At commit each copy takes a place in the
interface and is on its way to the core or slice that it names, or its reply word is told that it is foreign or dry. -/
def Obligations.MessagesHeld : Prop := ∀ p,
  Holds (.send p) p [.l, .r] (fun s vs => legalToken (arg vs 0) ∧ s.messageAt (arg vs 1)) (fun _ vs => .send (arg vs 0).toNat (arg vs 1).toNat none) ∧
  Faults (.send p) p [.l, .r] (fun _ _ vs => ¬ legalToken (arg vs 0)) 1 0 (fun _ => 0) ∧
  Faults (.send p) p [.l, .r] (fun _ _ vs => legalToken (arg vs 0) ∧ (arg vs 1).toNat % 16 ≠ 0) 3 0 (fun vs => (arg vs 1).toNat) ∧
  Faults (.send p) p [.l, .r] (fun s _ vs => legalToken (arg vs 0) ∧ (arg vs 1).toNat % 16 = 0 ∧ ¬ s.messageAt (arg vs 1)) 4 0
    (fun vs => (arg vs 1).toNat) ∧
  Holds .sendb .always [.l, .r, .x] (fun s vs => legalToken (arg vs 0) ∧ (arg vs 0).getLsbD 24 = false ∧ 0 < (arg vs 2).toNat ∧ (arg vs 2).toNat < 256
      ∧ s.messageAt (arg vs 1))
    (fun _ vs => .send (arg vs 0).toNat (arg vs 1).toNat (some (arg vs 2).toNat)) ∧
  Faults .sendb .always [.l, .r, .x] (fun _ _ vs => (arg vs 0).getLsbD 24 = true ∨ arg vs 2 = 0#64 ∨ 256 ≤ (arg vs 2).toNat) 1 0 (fun _ => 0) ∧
  ∀ (s : State) l ep dest a mask, s.actCommits l ep (.send dest a mask) fun b t => s.memKept t ∧ s.leavesAs t l b (s.ctx l) ∧
    t.netCount l = s.netCount l + (sendCopies dest mask).length ∧
    ∀ d ∈ sendCopies dest mask, ∀ m c, m = s.messageOf l a d → c = s.messageCore l.dev m →
      (s.routed l c (msgPart m) = true → s.isDry l c.toPolder = false →
        s.planned t (8 + s.way l c) (if (sliceByte c m).isSome then .sliceMessageArrival c.toPolder m else .messageArrival c m)) ∧
      ∀ x, m.reply = some x → (s.routed l c (msgPart m) = false → s.planned t 8 (.replyArrival l x 3)) ∧
        (s.routed l c (msgPart m) = true → s.isDry l c.toPolder = true → s.planned t 8 (.replyArrival l x 4))

/-- R223, R224: a `LAUNCH` whose record passes its checks holds it for commit; a direct one delivers 0, an indirect one registers a watch on its gauge, with the record's address and its
words as converted at the issuer (R208, R394, R468), and waits for the handle. At commit a direct one that has groups enters its partition's queue, and the entry of an
indirect one is armed. -/
def Obligations.LaunchesHeld : Prop := (∀ p t1 t0,
  Completes (.launch p t1 t0) p [.l] (fun s _ vs => s.launchReady (arg vs 0).toNat ∧ (s.launchAt (arg vs 0).toNat).ind = false)
    (fun s b vs => b.withAct s (.launch (s.launchAt (arg vs 0).toNat) none)) (fun s b _ => s.tokensOf b [(0, .val 0#64, [t0, t1])]) ∧
  Asks (.launch p t1 t0) p [.l]
    (fun s vs => s.launchReady (arg vs 0).toNat ∧ (s.launchAt (arg vs 0).toNat).ind = true ∧ (s.launchAt (arg vs 0).toNat).gauge % 8 = 0)
    (fun s b vs => (b.withAct s (.launch (s.launchAt (arg vs 0).toNat) none)).awaits s)
    (fun s vs => s.asked (s.launchAt (arg vs 0).toNat).gauge 8 (.watch ⟨s.focus.l, s.focus.epoch, s.focus.slot, .launch, (s.launchAt (arg vs 0).toNat).thr,
      polderView s.focus.l (arg vs 0).toNat, (s.ctx s.focus.l).pasid.toNat, (s.polder s.focus.l).part.getD 0, (s.launchAt (arg vs 0).toNat).gauge,
      launchWords (s.launchAt (arg vs 0).toNat)⟩))) ∧
  ∀ (s : State) l ep r, r.issuer = l →
  let num := 4096 + r.part
  (r.groups ≠ 0 → (s.device l).queueFull num = false → s.actCommits l ep (.launch r none) fun b t => s.memKept t ∧ s.leavesAs t l b (s.ctx l) ∧
    (t.device l).launchQs = ((s.device l).enqueue num r).launchQs ∧ (t.device l).dispatching = true) ∧
  ∀ h, h.gen ≠ 0 → s.actCommits l ep (.launch r (some h)) fun b t => s.memKept t ∧ s.leavesAs t l b (s.ctx l) ∧
    ∃ slot, s.planned t (8 + s.way l h.owner) (.watchArm (launchWatch l b slot r) h)

/-- R227, R228, R233: `COMPOSE` of 2, 4 or 8 cores reserves every other member slot, if all are DORMANT, unreserved and not composed, and delivers 0;
otherwise it reserves nothing and delivers 1; a reserved word or a composed issuer faults with 0x01. `RELEASE` by a composed context is held,
by another is illegal. A supervisor's `RELOC` of another context of its core to a context of its device is held. At commit the reserved slots
become RUNNING members of the composition, those of a released one DORMANT, and the relocation begins. -/
def Obligations.CompositionEffects : Prop := ∀ p t1 t0,
  (∀ n, 1 ≤ n → n ≤ 3 → ∀ s b v, s.firingBlock b → predFall p (b.tok s .x) = .taken → b.gives s [.l] [v] → v.toNat = n → (s.ctx s.focus.l).lead = none →
    (s.membersFree n → ∃ s0 t, s.reserving n s0 ∧ exec (.compose p t1 t0) s = .next t ∧
      s0.Fired t b (b.withAct s (.compose (memberSlots s.focus.l n))) (s.tokensOf b [(0, .val 0#64, [t0, t1])])) ∧
    (¬ s.membersFree n → ∃ t, exec (.compose p t1 t0) s = .next t ∧ s.Fired t b b (s.tokensOf b [(0, .val 1#64, [t0, t1])]))) ∧
  Faults (.compose p t1 t0) p [.l] (fun s _ vs => arg vs 0 = 0#64 ∨ 4 ≤ (arg vs 0).toNat ∨ (s.ctx s.focus.l).lead.isSome = true) 1 0 (fun _ => 0) ∧
  Holds (.release p) p [] (fun s _ => (s.ctx s.focus.l).lead.isSome = true) (fun _ _ => .release) ∧
  Faults (.release p) p [] (fun s _ _ => (s.ctx s.focus.l).lead = none) 1 0 (fun _ => 0) ∧
  Holds .reloc .always [.l, .r, .x] (fun s vs => (s.ctx s.focus.l).sup = true ∧ (arg vs 0).toNat < 8 ∧ (arg vs 0).toNat ≠ s.focus.l.ctx
      ∧ legalToken (arg vs 1) ∧ (arg vs 1).getLsbD 24 = true ∧ (arg vs 1).toNat / 2 ^ 16 % 2 ^ 8 = (s.device s.focus.l).podpos
      ∧ s.storeCause s.focus.l (arg vs 2).toNat 8 = 0)
    (fun s vs => .reloc (arg vs 0).toNat (arg vs 1).toNat (polderView s.focus.l (arg vs 2).toNat)) ∧
  Faults .reloc .always [.l, .r, .x] (fun s _ vs => (s.ctx s.focus.l).sup = true ∧ (8 ≤ (arg vs 0).toNat ∨ (arg vs 0).toNat = s.focus.l.ctx
      ∨ ¬ legalToken (arg vs 1) ∨ (arg vs 1).getLsbD 24 = false ∨ (arg vs 1).toNat / 2 ^ 16 % 2 ^ 8 ≠ (s.device s.focus.l).podpos)) 1 0 (fun _ => 0) ∧
  ∀ (s : State) l ep,
  (∀ ms, (∀ m ∈ ms, m.toCore ≠ l.toCore) → s.actCommits l ep (.compose ms) fun b t => s.memKept t ∧
    let n := Nat.log2 (ms.length + 1)
    s.leavesAs t l b { s.ctx l with lead := some (l, n) } ∧
    ∀ m ∈ ms, ∃ u, t.ctx m = { s.ctx m with state := 2#3, reserved := none, lead := some (l, n), unacquired := u }) ∧
  (∀ x n, (s.ctx l).lead = some (x, n) → (∀ m ∈ memberSlots l n, (s.ctx m).window = []) → s.actCommits l ep .release fun b t => s.memKept t ∧
    s.leavesAs t l b { s.ctx l with lead := none } ∧ ∀ m ∈ memberSlots l n, ∃ u, t.ctx m = { s.ctx m with state := 0#3, lead := none, unacquired := u }) ∧
  ∀ src dest reply, s.actCommits l ep (.reloc src dest reply) fun b t => s.memKept t ∧ s.leavesAs t l b (s.ctx l) ∧
    s.planned t 0 (.relocTransfer ⟨l, { l with ctx := src }, dest, reply⟩)

/-- R240: the arithmetic base instructions of RV32IM complete with the ratified results, division by zero and its overflow included; `x0` stays zero, and
nothing but the handler changes. -/
def Obligations.SliceArithmetic : Prop := ∀ s h short, s.running h →
  let n := if short then 2 else 4
  (∀ rd imm, ∃ t, exec (.sliceBaseInstruction short (.lui rd imm)) s = .next t ∧ s.RetiresTo t h n rd (imm ++ 0#12)) ∧
  (∀ rd imm, ∃ t, exec (.sliceBaseInstruction short (.auipc rd imm)) s = .next t ∧ s.RetiresTo t h n rd (BitVec.ofNat 32 h.pc + (imm ++ 0#12))) ∧
  (∀ o rd rs1 rs2, ∃ t, exec (.sliceBaseInstruction short (.op o rd rs1 rs2)) s = .next t ∧
    s.RetiresTo t h n rd (rvResult o (h.word32 rs1) (h.word32 rs2))) ∧
  ∀ o rd rs1 imm, ∃ t, exec (.sliceBaseInstruction short (.opImm o rd rs1 imm)) s = .next t ∧ s.RetiresTo t h n rd (rvResult o (h.word32 rs1) imm)

/-- R240, R241: jumps and branches go where the standard says, a link is the address behind the instruction; `FENCE` does nothing more and `FENCE.I` drops
what was fetched; `shi` keeps its low 8 bits, `sbud` reads the cycles that are left; any other CSR, a write to `sbud`, and an illegal instruction
kill the handler with 0x01. -/
def Obligations.SliceControl : Prop := ∀ s h short, s.running h →
  let n := if short then 2 else 4
  let runs (i : RvInstr) (h' : Handler) : Prop := ∃ t, exec (.sliceBaseInstruction short i) s = .next t ∧ s.Retires t h h'
  let kills (i : RvInstr) : Prop := ∃ t, exec (.sliceBaseInstruction short i) s = .next t ∧ s.Kills t h 1
  let link (rd : BitVec 5) : List (BitVec 32) := h.after rd (BitVec.ofNat 32 (h.pc + n))
  (∀ rd off, runs (.jal rd off) { h with regs := link rd, pc := (BitVec.ofNat 32 h.pc + off).toNat, wait := false }) ∧
  (∀ rd rs1 off, runs (.jalr rd rs1 off) { h with regs := link rd, pc := (h.word32 rs1 + off).toNat / 2 * 2, wait := false }) ∧
  (∀ c rs1 rs2 off, rvTaken c (h.word32 rs1) (h.word32 rs2) = true →
    runs (.branch c rs1 rs2 off) { h with pc := (BitVec.ofNat 32 h.pc + off).toNat, wait := false }) ∧
  (∀ c rs1 rs2 off, rvTaken c (h.word32 rs1) (h.word32 rs2) = false →
    runs (.branch c rs1 rs2 off) { h with pc := (h.pc + n) % 2 ^ 32, wait := false }) ∧
  runs .fence { h with pc := (h.pc + n) % 2 ^ 32, wait := false } ∧
  runs .fenceI { h with pc := (h.pc + n) % 2 ^ 32, wait := false, fetched := [] } ∧
  (∀ rd rs1, runs (.csr .rw rd 0x800#12 rs1)
    { h with regs := h.after rd h.shi, shi := BitVec.ofNat 32 ((h.word32 rs1).toNat % 256), pc := (h.pc + n) % 2 ^ 32, wait := false }) ∧
  (∀ rd imm, runs (.csrImm .rw rd 0x800#12 imm)
    { h with regs := h.after rd h.shi, shi := BitVec.ofNat 32 imm.toNat, pc := (h.pc + n) % 2 ^ 32, wait := false }) ∧
  (∀ rd, runs (.csr .rs rd 0x801#12 0#5)
    { h with regs := h.after rd (BitVec.ofNat 32 ((h.limit - s.elapsed s.focus.l h) % 2 ^ 14)), pc := (h.pc + n) % 2 ^ 32, wait := false }) ∧
  (∀ rd rs1, kills (.csr .rw rd 0x801#12 rs1)) ∧
  (∀ o rd num rs1, num ≠ 0x800#12 → num ≠ 0x801#12 → kills (.csr o rd num rs1)) ∧
  kills .illegal

/-- R240: an aligned load or store within the set's region completes: a load extends what it reads, a store changes its bytes of handler memory alone; a
misaligned one or one outside the region kills the handler with 0x07 and changes no memory. -/
def Obligations.SliceMemory : Prop := ∀ s h short, s.running h → s.Inv →
  let n := if short then 2 else 4
  let kills (i : RvInstr) : Prop := ∃ t, exec (.sliceBaseInstruction short i) s = .next t ∧ s.Kills t h 7
  (∀ w rd rs1 off a, a = (h.word32 rs1 + off).toNat →
    (a % rvLoadSize w = 0 → h.inRegion a (rvLoadSize w) = true → s.eccHit (keyIn s.focus.l.toPolder 5 a) (rvLoadSize w) = false →
      ∃ t, exec (.sliceBaseInstruction short (.load w rd rs1 off)) s = .next t ∧
        s.RetiresTo t h n rd (rvExtends w (s.num (keyIn s.focus.l.toPolder 5 a) (rvLoadSize w)))) ∧
    (a % rvLoadSize w ≠ 0 ∨ h.inRegion a (rvLoadSize w) = false → kills (.load w rd rs1 off))) ∧
  (∀ w rs1 rs2 off a, a = (h.word32 rs1 + off).toNat →
    (a % rvStoreSize w = 0 → h.inRegion a (rvStoreSize w) = true →
      ∃ t, exec (.sliceBaseInstruction short (.store w rs1 rs2 off)) s = .next t ∧
        s.memKeptBut t (keyIn s.focus.l.toPolder 5 a) (rvStoreSize w) ∧
        t.num (keyIn s.focus.l.toPolder 5 a) (rvStoreSize w) = (h.word32 rs2).toNat % 2 ^ (8 * rvStoreSize w) ∧
        (t.polder s.focus.l).handler = some { h with pc := (h.pc + n) % 2 ^ 32, wait := false }) ∧
    (a % rvStoreSize w ≠ 0 ∨ h.inRegion a (rvStoreSize w) = false → kills (.store w rs1 rs2 off)))

/-- R242, R244, R245, R246: `SLRD`, `SLWR` and `SGADV` whose checks fail report the cause and change nothing else; one whose checks pass waits for its line or
gauge, in no fresh granule, and when that has come moves the 64 bytes or raises the gauge by x[rs2] and reports 0; an advance by zero or past 64 bits reports 0x0B;
a workspace, a range lock or a pinned version anywhere in the line refuses a write with 0x08, and gauges that a `GADV` of the same cycle has raised keep their value
under an `SLWR` (R376). -/
def Obligations.SliceHomeAccess : Prop := ∀ s h g rs2 rs1 rd, s.running h → s.Inv → s.ecc = [] →
  let p := s.focus.l.toPolder
  let m := (h.word32 rs1).toNat
  let line := (h.shi.toNat % 256 * 2 ^ 32 + (h.word32 rs2).toNat) / 64 * 64
  let a := h.shi.toNat % 256 * 2 ^ 32 + (h.word32 rs1).toNat
  (∀ i ∈ [Instr.slrd rs2 rs1 rd, .slwr rs2 rs1 rd],
    (m % 64 ≠ 0 ∨ h.inRegion m 64 = false → ∃ t, exec i s = .next t ∧ s.RetiresTo t h 4 rd 3#32) ∧
    (m % 64 = 0 → h.inRegion m 64 = true → s.slicePlace p line = none → ∃ t, exec i s = .next t ∧ s.RetiresTo t h 4 rd 7#32)) ∧
  (∀ q, m % 64 = 0 → h.inRegion m 64 = true → s.slicePlace p line = some q →
    (h.wait = false → s.unsettled q = false → ∃ t, exec (.slrd rs2 rs1 rd) s = .next t ∧ s.SliceWaits t h q) ∧
    (s.sliceHeld p q = true → ∃ t, exec (.slwr rs2 rs1 rd) s = .next t ∧ s.RetiresTo t h 4 rd 8#32) ∧
    (s.sliceHeld p q = false → h.wait = false → s.unsettled q = false → ∃ t, exec (.slwr rs2 rs1 rd) s = .next t ∧ s.SliceWaits t h q) ∧
    (h.wait = true → q.space = 2 → ∃ t, exec (.slrd rs2 rs1 rd) s = .next t ∧ s.memKeptBut t (keyIn p 5 m) 64 ∧
      t.mem.bytes (keyIn p 5 m) 64 = s.mem.bytes (keyIn q.owner 2 q.off) 64 ∧
      (t.polder p).handler = some { h with regs := h.after rd 0#32, pc := (h.pc + 4) % 2 ^ 32, wait := false }) ∧
    (s.sliceHeld p q = false → h.wait = true → q.space = 2 → ∃ t, exec (.slwr rs2 rs1 rd) s = .next t ∧ s.memKeptBut t (keyIn q.owner 2 q.off) 64 ∧
      t.mem.bytes (keyIn q.owner 2 q.off) 64 = s.underRaised p q (s.mem.bytes (keyIn p 5 m) 64) ∧
      ((∀ g ∈ (s.polder p).raised, g.1 ≠ s.now) → t.mem.bytes (keyIn q.owner 2 q.off) 64 = s.mem.bytes (keyIn p 5 m) 64) ∧
      (t.polder p).handler = some { h with regs := h.after rd 0#32, pc := (h.pc + 4) % 2 ^ 32, wait := false })) ∧
  (a % 8 ≠ 0 → ∃ t, exec (.sgadv g rs2 rs1 rd) s = .next t ∧ s.RetiresTo t h 4 rd 3#32) ∧
  (a % 8 = 0 → s.slicePlace p a = none → ∃ t, exec (.sgadv g rs2 rs1 rd) s = .next t ∧ s.RetiresTo t h 4 rd 7#32) ∧
  ∀ q, a % 8 = 0 → s.slicePlace p a = some q →
    (s.sliceHeld p q = true → ∃ t, exec (.sgadv g rs2 rs1 rd) s = .next t ∧ s.RetiresTo t h 4 rd 8#32) ∧
    (s.sliceHeld p q = false → h.wait = false → s.unsettled q = false → ∃ t, exec (.sgadv g rs2 rs1 rd) s = .next t ∧ s.SliceWaits t h q) ∧
    ∀ v, s.sliceHeld p q = false → h.wait = true → q.space = 2 → v = s.num (keyIn q.owner 2 q.off) 8 →
      ((h.word32 rs2 = 0#32 ∨ 2 ^ 64 ≤ v + (h.word32 rs2).toNat) → ∃ t, exec (.sgadv g rs2 rs1 rd) s = .next t ∧ s.RetiresTo t h 4 rd 0x0B#32) ∧
      (h.word32 rs2 ≠ 0#32 → v + (h.word32 rs2).toNat < 2 ^ 64 → ∃ t, exec (.sgadv g rs2 rs1 rd) s = .next t ∧ s.memKeptBut t (keyIn q.owner 2 q.off) 8 ∧
        t.num (keyIn q.owner 2 q.off) 8 = v + (h.word32 rs2).toNat ∧
        (t.polder p).handler = some { h with regs := h.after rd 0#32, pc := (h.pc + 4) % 2 ^ 32, wait := false })

/-- R247, R248, R249, R250, R329: the slice's messages, pulls and registrations complete: `SSEND` puts a legal message in the interface of 4 and reports 0, or reports
why not and sends nothing (an uncorrectable error is counted besides); `SREPLY` marks the event replied; `SPULL` queues its transfer, or reports the cause; `SCREG` returns the lowest free handle of an
armed registration, or all ones; `SCARM` and `SCDRP` of a handle of another set report 0x01, else 0. -/
def Obligations.SliceServices : Prop := ∀ s h rs2 rs1 rd, s.running h →
  let p := s.focus.l.toPolder
  let x (r : BitVec 5) : Nat := (h.word32 r).toNat
  let goesOn (t : State) (v : BitVec 32) : Prop :=
    (t.polder p).handler = some { h with regs := h.after rd v, pc := (h.pc + 4) % 2 ^ 32, wait := false }
  let refused (i : Instr) (c : Nat) : Prop :=
    (c ≠ 0 → c ≠ 0x11 → ∃ t, exec i s = .next t ∧ s.RetiresTo t h 4 rd (BitVec.ofNat 32 c)) ∧
    (c = 0x11 → ∃ t, exec i s = .next t ∧ goesOn t 0x11#32 ∧ s.memKept t ∧ (t.polder p).counters = bumpIn 0x358 1 (s.polder p).counters)
  refused (.ssend rs2 rs1 rd) (s.ssendStatus p h (x rs1) (x rs2)) ∧
  (s.ssendStatus p h (x rs1) (x rs2) = 0 → ∃ t, exec (.ssend rs2 rs1 rd) s = .next t ∧ goesOn t 0#32 ∧ s.memKept t ∧
    t.sliceNetCount p = s.sliceNetCount p + 1) ∧
  (∃ t, exec (.sreply rs1) s = .next t ∧ (t.polder p).handler = some { h with replied := true, pc := (h.pc + 4) % 2 ^ 32, wait := false } ∧ s.memKept t) ∧
  refused (.spull rs2 rs1 rd) (s.spullStatus p h (x rs1) (x rs2)) ∧
  (s.spullStatus p h (x rs1) (x rs2) = 0 → ∃ t, exec (.spull rs2 rs1 rd) s = .next t ∧ goesOn t 0#32 ∧ s.memKept t ∧
    (t.polder p).sliceQ = (s.polder p).sliceQ ++ [s.spullXfer p h (x rs1) (x rs2)] ∧ s.planned t 0 (.transferIssue p)) ∧
  (∀ id q k, (s.polder p).freeReg = some id → s.slicePlace p (h.home rs1) = some q → s.keyOf q = some k → h.home rs1 % 8 = 0 → x rs2 ≤ 63 →
    ∃ t, exec (.screg rs2 rs1 rd) s = .next t ∧ goesOn t (BitVec.ofNat 32 id) ∧ s.memKept t ∧
      (t.polder p).counterRegs = (s.polder p).counterRegs ++ [⟨id, h.set, k, h.home rs1, x rs2, true, false, 0⟩]) ∧
  ((s.polder p).freeReg = none ∨ s.slicePlace p (h.home rs1) = none ∨ h.home rs1 % 8 ≠ 0 ∨ 63 < x rs2 →
    ∃ t, exec (.screg rs2 rs1 rd) s = .next t ∧ s.RetiresTo t h 4 rd (BitVec.allOnes 32)) ∧
  (∀ i ∈ [Instr.scarm rs1 rd, .scdrp rs1 rd], (s.polder p).regOf h (x rs1) = none → ∃ t, exec i s = .next t ∧ s.RetiresTo t h 4 rd 1#32) ∧
  ∀ r, (s.polder p).regOf h (x rs1) = some r →
    (s.freshCounter p r = none → ∃ t, exec (.scarm rs1 rd) s = .next t ∧ goesOn t 0#32 ∧ s.memKept t ∧
      ∀ y ∈ (t.polder p).counterRegs, y.id = r.id → (s.num r.key 8 = 0 → y.armed = false ∧ y.pending = true) ∧ (s.num r.key 8 ≠ 0 → y.armed = true)) ∧
    ∃ t, exec (.scdrp rs1 rd) s = .next t ∧ goesOn t 0#32 ∧ s.memKept t ∧
      (t.polder p).counterRegs = (s.polder p).counterRegs.filter fun y => y.id != r.id

/-- R251: each `SAMO` whose address passes its checks sends one packet of the slice core to the atomic unit and waits for its answer (`CAS` compares with x[rd] and
writes x[rs2]); one that does not reports all ones and changes nothing else. -/
def Obligations.SliceAtomics : Prop := ∀ s h rs2 rs1 rd, s.running h → ∀ x ∈ [(Instr.samoAdd rs2 rs1 rd, AmoOp.add), (.samoAnd rs2 rs1 rd, .and),
    (.samoOr rs2 rs1 rd, .or), (.samoXor rs2 rs1 rd, .xor), (.samoMin rs2 rs1 rd, .min), (.samoMax rs2 rs1 rd, .max), (.samoMinn rs2 rs1 rd, .minn),
    (.samoMaxn rs2 rs1 rd, .maxn), (.samoSwap rs2 rs1 rd, .swap), (.samoCas rs2 rs1 rd, .cas), (.samoDecz rs2 rs1 rd, .decz)],
  let p := s.focus.l.toPolder
  let a := h.shi.toNat % 256 * 2 ^ 32 + (h.word32 rs1).toNat
  let n := if x.2 = .decz then 8 else 4
  (s.slicePlace p a = none ∨ a % n ≠ 0 → ∃ t, exec x.1 s = .next t ∧ s.RetiresTo t h 4 rd (BitVec.allOnes 32)) ∧
  ∀ q, s.slicePlace p a = some q →
    (s.sliceHeld p q = true → ∃ t, exec x.1 s = .next t ∧ s.RetiresTo t h 4 rd (BitVec.allOnes 32)) ∧
    (a % n = 0 → s.sliceHeld p q = false → ∃ t, exec x.1 s = .next t ∧
      t = { s with agenda := t.agenda, polders := t.polders } ∧
      t.polder p = { s.polder p with handler := some { h with wait := true } } ∧
      s.planned t 0 (.atomicPacketArrival ⟨.slice, x.2, .relaxed, x.2 != .decz, (if x.2 = .cas then h.word32 rd else h.word32 rs2).toNat,
        (if x.2 = .cas then h.word32 rs2 else h.word32 rd).toNat, a, .handler p h.gen rd.toNat⟩ q))

/-- R252, R364, R370: `STLIM` within the ceiling, which is at most 8,192, sets the limit, reports the one before and moves the end of the budget; a limit that has been used up kills the
handler with 0x10. `SHEND` ends the handler, and the slice core takes its next event 8 slice cycles later. -/
def Obligations.SliceEnds : Prop := ∀ s h rs1 rd limit, s.running h →
  limit = min (max (h.word32 rs1).toNat 1) (min ((h.desc.getD 1 0#64).toNat / 2 ^ 16 % 2 ^ 14) 8192) →
  (s.elapsed s.focus.l h < limit → ∃ t, exec (.stlim rs1 rd) s = .next t ∧ s.memKept t ∧
    (t.polder s.focus.l).handler =
      some { h with limit := limit, regs := h.after rd (BitVec.ofNat 32 h.limit), pc := (h.pc + 4) % 2 ^ 32, wait := false } ∧
    ⟨s.now + (h.start + s.sliceTicks s.focus.l limit - s.now), .event (.handlerBudgetExpiry s.focus.l.toPolder h.gen)⟩ ∈ t.agenda) ∧
  (limit ≤ s.elapsed s.focus.l h → ∃ t, exec (.stlim rs1 rd) s = .next t ∧ s.Kills t h 0x10) ∧
  ∃ t, exec .shend s = .next t ∧ s.memKept t ∧ (t.polder s.focus.l).handler = none ∧ s.planned t (s.sliceTicks s.focus.l 8) (.handlerStart s.focus.l.toPolder)
    ∧ ∀ q ∈ t.agenda, q.work ≠ .slice s.focus.l.toPolder h.gen

/-- R29, R464, R49: a RUNNING context without a block, none predicted, starts the execution at its block address: a misaligned address fails it with 0x03, and from the
context's own core memory the read of 160 bytes returns after the load time and one cycle for each further line. When a read returns, a cause or a failed check
of R49 fails the block, a class above 0 is read to its end, an uncorrectable error among bytes that are all there fails it with 0x11, and a block that passes waits for its frames. -/
def Obligations.BlockFetches : Prop :=
  (∀ (s : State) l, isAhead l = false → (s.ctx l).state = 2#3 → (s.ctx l).block = none → s.ahead l = [] →
    let a := (s.ctx l).pc.toNat
    let b := s.nextExecution l s.epoch a
    s.Runs .blockFetch (.blockFetch l) fun t =>
      (a % 32 ≠ 0 → s.Fails t l b 0 3 0 a) ∧
      (a % 32 = 0 → a + 160 ≤ 0x20000 → s.fetchable l →
        s.Keeps t [l] [] [] [] ∧ t.ctx l = { s.ctx l with block := some b } ∧
        s.Plans t [(ownFetchTime a 160, .blockFetchReadReturn l s.epoch false ⟨0, a, s.mem.bytes (coreKey l a) 160⟩)])) ∧
  ∀ (s : State) l ep second ans b, isAhead l = false → s.inFlight l ep b → b.ready = false → b.bad = none →
    let c := { b with bytes := if second then b.bytes ++ ans.data else ans.data }
    let cls := bits (numAt c.bytes 0 4) 23 22
    s.Runs .blockFetchReadReturn (.blockFetchReadReturn l ep second ans) fun t =>
      (1 < ans.cause → ans.cause ≠ 0x11 ∨ ans.data = [] → s.Fails t l b 0 ans.cause 0 ans.addr) ∧
      (ans.cause = 0x11 → ans.data ≠ [] → second = true ∨ cls = 0 → s.Fails t l { c with bad := some ans.addr } 0 0x11 0 ans.addr) ∧
      (ans.cause = 0 → second = false → 0 < cls → b.addr + 160 + 128 * cls ≤ 0x20000 → s.fetchable l →
        s.Keeps t [l] [] [] [] ∧ t.ctx l = { s.ctx l with block := some c } ∧
        s.Plans t [(ownFetchTime (b.addr + 160) (128 * cls), .blockFetchReadReturn l ep true
          ⟨0, b.addr + 160, s.mem.bytes (coreKey l (b.addr + 160)) (128 * cls)⟩)]) ∧
      (ans.cause = 0 → second = true ∨ cls = 0 →
        (∀ x d n, c.check l.narrow = some (x, d, n) → s.Fails t l c n x (if x = 1 then n else d) 0) ∧
        (c.check l.narrow = none →
          s.Keeps t [l] [] [] [] ∧ t.ctx l = { s.ctx l with block := some c } ∧ s.Plans t [(0, .contextDispatch l.toCore)]))

/-- R34, R37, R41, R68, R107: a token joins the operand that it names, and a second one on that operand fails the block with 0x01 at the receiving slot; a
starved block fails with 0x02, detail 8, and a push held for more than 4,096 cycles fails its block with 0x02, detail 9; a load's reply delivers the value or
fails the block with the cause that the owner found. -/
def Obligations.BlockEvents : Prop := ∀ (s : State) l ep b, s.inFlight l ep b →
  (∀ o n tok, s.Runs .tokenArrival (.tokenArrival l ep o n tok) fun t =>
    (b.operand n o = none → s.FiredAt t l ep n b { b with ops := b.ops ++ [(n, o, tok)] } []) ∧
    (b.operand n o ≠ none → s.Fails t l b n 1 n 0)) ∧
  s.Runs .blockStarved (.blockStarved l ep) (fun t => if s.starved l b then s.Fails t l b 128 2 8 0 else t = s) ∧
  s.Runs .portPushTimeout (.portPushTimeout l ep) (fun t =>
    (∀ u, b.heldSince = some u → u + 4096 < s.now → s.Fails t l b 128 2 9 0) ∧
    ((∀ u, b.heldSince = some u → s.now ≤ u + 4096) → t = s)) ∧
  (∀ n i a data, n ∈ b.out → b.instrAt n = some i → isLda i = false → s.missesOf l < 48 →
    s.Runs .loadReply (.loadReply l ep n none ⟨0, a, data⟩) fun t =>
      s.FiredAt t l ep n b (b.answered n) ({ s with focus := ⟨l, ep, n⟩ }.tokensOf b [(0, .val (s.loadValue l b i a data), targetsOf i)])) ∧
  (∀ n i a data, n ∈ b.out → b.instrAt n = some i → isLda i = true → s.missesOf l < 48 → s.ahead l = [] →
    let v := s.loadValue l b i a data
    s.Runs .loadReply (.loadReply l ep n none ⟨0, a, data⟩) fun t =>
      s.Keeps t [l] [] [l.toPolder] [] ∧
      t.polder l = ((Act.acquireGauge l (s.ctx l).pasid.toNat a v.toNat).run s).polder l ∧
      (∃ f w, t.ctx l = { s.ctx l with unacquired := [], block := some { b.answered n with fired := f, waiting := w } }) ∧
      ∀ q ∈ { s with focus := ⟨l, ep, n⟩ }.tokensOf b [(0, .val v, targetsOf i)], q ∈ t.agenda) ∧
  ∀ n a cause, n ∈ b.out → 1 < cause → s.Runs .loadReply (.loadReply l ep n none ⟨cause, a, []⟩) fun t =>
    s.Fails t l { b with out := b.out.filter (fun k => k != n), missed := b.missed.filter fun k => k != n } n cause 0 a

/-- R38, R39, R63, R67, R75, R79, R97 to R100, R102, R115, R120, R324, R403: a block that can commit and leaves by a jump or a call makes its effects architectural together:
its `WRITE`s of workspace words and of `pol`, and its home stores, change their bytes and no others, a call leaves the return address in `w15`, the words
that its `READ`s have reserved leave their queues, the flags join `cw.fm`, and the next block is fetched. `END` leaves the context DORMANT and its host
completion under way, `SUSP` leaves it SUSPENDED at its target, `MIGR` sends the thread off. A block that must wait tries again in the next cycle, the fresh
granules that it needs being zeroed, and a fault in the cycle of commit, as 0x0B for a `GADV` that does not raise its gauge, fails it; in neither case does
any memory change. What an act that waits for commit does is stated with its instruction. -/
def Obligations.BlockCommits : Prop := ∀ (s : State) l ep b, s.Inv →
  let c := s.ctx l
  let commit (Q : State → Prop) : Prop := s.Runs .blockCommit (.blockCommit l ep) Q
  let spot (r : Nat) : Nat := coreKey l (c.wp.toNat + 8 * r)
  let still : Prop := b.writes = [] ∧ b.stores = [] ∧ b.acts = [] ∧ b.pops = []
  (s.commits l ep b → s.calm l → s.unowed l →
    (∀ n, b.exit = some (.goto n) → b.acts = [] → b.pops = [] → commit fun t =>
      s.CommitTouches t l ∧ s.planned t 0 (.blockFetch l) ∧ (∀ k, t.side.get k = s.side.get k) ∧ (∀ k, t.hostMem.get k = s.hostMem.get k) ∧
      (∃ p st u r, t.ctx l = { c with
        block := none, pc := w64 n, fm := w64 (Nat.lor c.fm.toNat b.flags), pol := p, stale := st, unacquired := u, unreleased := r }) ∧
      (b.stores = [] → (∀ k, (∀ w ∈ b.writes, w.1 < 16 → w.2.isSome = true → k < spot w.1 ∨ spot w.1 + 8 ≤ k) → t.mem.get k = s.mem.get k)) ∧
      ((b.writes.map fun w => w.1).Nodup →
        (∀ r v, (r, some v) ∈ b.writes → r < 16 → b.stores = [] → t.word (spot r) = v.toNat) ∧
        (∀ v, (19, some v) ∈ b.writes → (t.ctx l).pol = w64 (v.toNat % 2 ^ 32)) ∧ ((∀ v, (19, some v) ∉ b.writes) → (t.ctx l).pol = c.pol)) ∧
      (b.writes = [] →
        (∀ k, (∀ y ∈ b.stores, y.val.isSome = true → k < s.storeKey l y.addr ∨ s.storeKey l y.addr + y.size ≤ k) → t.mem.get k = s.mem.get k) ∧
        ∀ st ∈ b.stores, ∀ v q k, st.val = some v → homePlace l st.addr = some q → s.keyOf q = some k →
          (∀ y ∈ b.stores, y.val.isSome = true → st.lsid ≤ y.lsid → y = st ∨ s.storeKey l y.addr + y.size ≤ k ∨ k + st.size ≤ s.storeKey l y.addr) →
          t.num k st.size = v.toNat % 2 ^ (8 * st.size))) ∧
    (∀ n ret, b.exit = some (.call n ret) → still → commit fun t =>
      s.CommitTouches t l ∧ s.leavesAs t l b c ∧ (t.ctx l).pc = w64 n ∧ t.word (spot 15) = ret % 2 ^ 64 ∧ s.memKeptBut t (spot 15) 8) ∧
    (∀ n p, b.exit = some (.goto n) → b.writes = [] → b.stores = [] → b.acts = [] → b.pops = [p] → commit fun t => s.memKept t ∧
      s.leavesAs t l b { c with rowQ := if p.reg = 21 then c.rowQ.drop 1 else c.rowQ } ∧
      ∀ k, p.reg = 24 + k → k < (s.core l).ports.length → 4 ≤ (s.core l).ports.length → k < 4 →
        let fifo (x : State) : List PortWord := (x.core l).ports.getD k []
        let left := (fifo s).filter fun w => w.tag != p.tag
        ((s.core (portSource l k)).outbuf.getD k none = none → fifo t = left) ∧
        ∀ v, (s.core (portSource l k)).outbuf.getD k none = some v → left.length < 8 → ∃ g, fifo t = left ++ [⟨g, v⟩]) ∧
    (b.exit = some .done → still → commit fun t => s.memKept t ∧ (t.ctx l).state = 0#3 ∧ (t.ctx l).block = none ∧ (t.ctx l).sup = false ∧
      (t.ctx l).duties = Duties.none ∧ s.planned t 0 (.contextAllocation l.toCore) ∧
      ∀ tag, c.holders = [] → c.duties.origin = .host tag → s.planned t 0 (.hostWorkComplete l.toDev tag (hostStatus (endStatus c false) 0) 1)) ∧
    (∀ n, b.exit = some (.suspend n) → still → commit fun t => s.memKept t ∧ s.CommitTouches t l ∧ s.planned t 0 (.contextDispatch l.toCore) ∧
      ∃ st u r, t.ctx l = { c with
        state := 3#3, block := none, pc := w64 n, fm := w64 (Nat.lor c.fm.toNat b.flags), stale := st, unacquired := u, unreleased := r }) ∧
    ∀ n d, b.exit = some (.migrate n d) → still → commit fun t =>
      let m : MigPkt := ⟨l, c.prio.toNat % 4, c.steal.toNat, n, c.pasid.toNat, s.partOf l, (addHolder c.holders l).1, (List.range 16).map fun i => w64 (s.wword l i)⟩
      s.memKept t ∧ (t.ctx l).state = 0#3 ∧ (t.ctx l).block = none ∧ (t.ctx l).reserved = some (.migration m) ∧
      newForward c l ∈ (t.core l).forwards ∧ s.planned t (8 + s.way l d) (.migrationPacketArrival d.toPolder m)) ∧
  (s.inFlight l ep b → b.ready = true → b.committable = true → s.migrLate l b = false →
    (s.commitWaits l b = true → commit fun t => s.Keeps t [l] [] [l.toPolder] [] ∧ ∃ q ∈ t.agenda, q.work = .event (.blockCommit l ep)) ∧
    (s.commitWaits l b = false →
      (∀ f, s.commitFault l b = some f → commit fun t =>
        (if f.cause = 0x11 then (Act.count l 0x358).run s else s).Fails t l b f.slot f.cause (if f.cause = 1 then f.slot else f.detail) f.addr) ∧
      ∀ n st v, b.exit = some (.goto n) → b.writes = [] → b.acts = [] → b.stores = [st] → st.val = some v → st.gauge = true →
        s.commitCause l st.addr st.size = 0 → v.toNat ≤ s.home64 l st.addr → commit fun t => s.Fails t l b st.slot 0x0B 0 st.addr))

/-- R123, R227, R334, R337 to R340: a failed block whose atomics are answered is abandoned, and what it had reserved is given back. With `sup` = 0 and a vector the trap is entered: the eight words of the frame
are written at `cw.trapframe` and no other byte changes, `sup` is set, `wp` is unchanged, and the handler's block is fetched next; without a vector the context is
ended by the fault, and in a handler, or where the frame cannot be written, it is a double trap: each posts a record of the cause to the host queue and writes no memory. The commit of `SYSC` enters a
trap of kind 3, and that of `ERET` goes back to what the frame holds. -/
def Obligations.TrapsTaken : Prop := ∀ (s : State) l ep b k, s.Inv → s.calm l →
  (∀ f, s.blockAt l ep = some b → b.fault = some f → b.awaitsAtomic = false → l ∉ b.composing → 0 < f.cause → f.cause < 256 → b.namo < 256 →
    s.Runs .blockAbandon (.blockAbandon l ep) fun t =>
      (s.trapReady l k → s.memKeptBut t k 64 ∧
        t.frameAt k (b.namo * 2 ^ 32 + boolNat ((s.ctx l).lcount != 0) * 2 ^ 30 + f.detail % 2 ^ 20 * 2 ^ 8 + f.cause)
          (b.addr % 2 ^ 57) (tvalOf f.cause f.addr) (s.ctx l).wp.toNat ∧
        (∃ d, t.ctx l = { s.ctx l with sup := true, pc := (s.ctx l).trapvec, block := none, duties := { (s.ctx l).duties with dry := d } }) ∧
        s.planned t 0 (.blockFetch l) ∧ s.Touches t (coreMates l ++ b.composing) [l.toCore] [l.toPolder] [] ∧
        (∀ m ∈ b.composing, (t.ctx m).reserved = none) ∧
        ∀ a ∈ b.acts, ∀ w h v, a.2 = .watch w h v → h.gen ≠ 0 → s.planned t (8 + s.way l h.owner) (.watchCancelArrival h true false)) ∧
      ((s.ctx l).sup = false → (s.ctx l).trapvec = 0#64 → s.memKept t ∧ (t.ctx l).state = 0#3 ∧ (t.ctx l).sup = false ∧ (t.ctx l).block = none ∧
        (s.partOf l, s.coreRec l f.cause 0 f.detail (tvalOf f.cause f.addr) 0) ∈ (t.device l).hostRecs) ∧
      ((s.ctx l).sup = true → s.memKept t ∧ (t.ctx l).state = 4#3 ∧ (t.ctx l).sup = true ∧ (t.ctx l).pc = w64 b.addr ∧
        (s.partOf l, s.coreRec l f.cause 0 f.detail (tvalOf f.cause f.addr) 0) ∈ (t.device l).hostRecs) ∧
      ((s.ctx l).sup = false → (s.ctx l).trapvec ≠ 0#64 → s.frameFault l ≠ 0 → s.frameWaits l = false → s.memKept t ∧ (t.ctx l).state = 4#3 ∧ (t.ctx l).sup = true ∧
        (t.ctx l).pc = (s.ctx l).trapvec ∧
        (s.partOf l, s.coreRec l (s.frameFault l) 0 0 (s.ctx l).trapframe.toNat 0) ∈ (t.device l).hostRecs)) ∧
  (∀ n c, s.commits l ep b → b.exit = some (.sysc n c) → b.acts = [] → b.pops = [] → b.writes = [] → b.stores = [] → s.trapReady l k →
    s.Runs .blockCommit (.blockCommit l ep) fun t => s.memKeptBut t k 64 ∧
      t.frameAt k (boolNat ((s.ctx l).lcount != 0) * 2 ^ 30 + 3 * 2 ^ 28 + c % 2 ^ 20 * 2 ^ 8 + 0x0F) (n % 2 ^ 57) 0 (s.ctx l).wp.toNat ∧
      (∃ st u r, t.ctx l = { s.ctx l with
        sup := true, pc := (s.ctx l).trapvec, block := none, fm := w64 (Nat.lor (s.ctx l).fm.toNat b.flags), stale := st, unacquired := u, unreleased := r }) ∧
      s.planned t 0 (.blockFetch l)) ∧
  ∀ w e, s.commits l ep b → b.exit = some (.eret w e) → b.acts = [] → b.pops = [] → b.writes = [] → b.stores = [] → s.unowed l → (s.ctx l).sup = true →
    s.Runs .blockCommit (.blockCommit l ep) fun t => s.memKept t ∧ s.CommitTouches t l ∧ s.planned t 0 (.blockFetch l) ∧
      ∃ st u r, t.ctx l = { s.ctx l with
        sup := false, block := none, wp := BitVec.ofNat 17 (bits (s.frameWord l 3) 16 0), pc := w64 (bits (s.frameWord l 1) 56 0)
        fm := w64 (Nat.lor (s.ctx l).fm.toNat b.flags), stale := st, unacquired := u, unreleased := r }

/-- R61, R62, R389 to R392: a core fills its lowest free context from the waiting message of the highest channel, else from the bottom of its deque, else it sets out to
steal; a READY context becomes RUNNING and fetches, a checked block for which frames are free begins to execute, and a refill moves the oldest record of a task
ring to the top of the deque, with the tag, the PASID and the origin that it was entered with (R62). -/
def Obligations.ContextsFilled : Prop :=
  (∀ (s : State) c, s.Inv → (s.core c).unmailed = [] → (s.polder c).migBuf = [] →
    s.Runs .contextAllocation (.contextAllocation c) fun t =>
      (s.allocatable c = none → t = s) ∧
      (∀ l, s.allocatable c = some l → (s.core c).forwardOf l = none → (s.core c).heldRecs = [] →
        (∀ m, (s.core c).nextMail = some m → m.msg.payload.length ≤ 16 →
          s.Filled t l (messageArrivalOf m.msg) ∧ (t.core c).mail = startSlot m (s.core c).mail ∧ (t.core c).deque = (s.core c).deque) ∧
        (∀ e rest, (s.core c).nextMail = none → (s.core c).deque = e :: rest → e.words.length ≤ 18 →
          s.Filled t l (taskArrivalOf e) ∧ (t.core c).deque = rest ∧ (t.core c).mail = (s.core c).mail) ∧
        ((s.core c).nextMail = none → (s.core c).deque = [] → (s.core c).asking = none → (s.core c).backoff = false →
          s.Keeps t [] [] [] [] ∧ s.Plans t [(0, .stealRequest c.toCore)]))) ∧
  (∀ (s : State) c l, s.waitingBlocks false c = [] → s.waitingBlocks true c = [] → s.placeFree c = true → s.nextReady c = some l → (s.ctx l).resumed = false →
    s.ahead l = [] →
    s.Runs .contextDispatch (.contextDispatch c) fun t =>
      s.Keeps t [l] [] [] [] ∧ t.ctx l = { s.ctx l with state := 2#3 } ∧ s.Plans t [(0, .blockFetch l), (0, .contextDispatch l.toCore)]) ∧
  (∀ (s : State) c l ep b, s.inFlight l ep b → s.waitingBlocks false c = [(l, b)] → s.waitingBlocks true c = [] → s.framesFit l b = true → s.nextReady c = none →
    s.Runs .contextDispatch (.contextDispatch c) fun t =>
      s.Keeps t [l] [] [] [] ∧ ∃ f w, t.ctx l = { s.ctx l with block := some { b with ready := true, fired := f, waiting := w } }) ∧
  ∀ (s : State) c, s.Inv → (s.core c).heldRecs = [] → s.Runs .dequeRefill (.dequeRefill c) fun t =>
    (s.refillFrom c = none → s.Keeps t [] [c.toCore] [] [] ∧ t.core c = { s.core c with refilling := false } ∧ s.Plans t []) ∧
    ∀ l k, s.refillFrom c = some l → (s.core c).deque.length ≤ 48 → s.landsAt l (s.ctx l).spillBase k →
      let bs := s.ringHead l (s.ctx l).spillBase 0 0x1000 64 448
      let words := (List.range 8).map fun i => w64 (numAt bs (8 * i) 8)
      let cell := s.ringCell l (s.home64 l (s.ctx l).spillBase)
      ((∀ g ∈ (s.core l).ringed, g.1 = l.ctx → g.2.1 ≠ cell) → (t.core c).deque = (s.core c).deque ++ [⟨words, (s.ctx l).steal.toNat, (s.ctx l).pasid.toNat, .task⟩]) ∧
        (∀ e, (s.core l).ringed = [(l.ctx, cell, e)] →
          (t.core c).deque = (s.core c).deque ++ [{ e with words := words }] ∧ (t.core c).ringed = []) ∧
        (t.core c).refilling = true ∧ t.word k = (s.home64 l (s.ctx l).spillBase + 1) % 2 ^ 64 ∧ s.memKeptBut t k 8 ∧ s.planned t 4 (.dequeRefill c.toCore)

/-- R395 to R397: an idle core reserves a context and asks the victim that its generator names, goes to the next level when a level is done, and waits 256 cycles after
the widest; the victim grants the record at the top of its deque or refuses; a granted record fills the reserved context at once, and a refusal frees it. -/
def Obligations.CoresSteal : Prop :=
  (∀ (s : State) c l, s.idleCore c = true → (s.core c).asking = none → (s.core c).backoff = false → s.allocatable c = some l →
    let k := s.core c
    let vs := s.victims c k.level
    let r := lfsrNext k.lfsr.toNat
    let v := vs.getD (r * vs.length / 2 ^ 16) c
    s.Runs .stealRequest (.stealRequest c) fun t =>
      (k.level ≤ k.widest → vs ≠ [] → k.tries < 8 →
        s.Keeps t [l] [c.toCore] [] [] ∧ t.ctx l = { s.ctx l with reserved := some .steal } ∧
        t.core c = { k with lfsr := BitVec.ofNat 16 r, tries := k.tries + 1, asking := some l.ctx } ∧
        s.Plans t [(8 + s.way c v + 10, .stealRequestArrival v c k.level (s.partOf c))]) ∧
      (vs = [] ∨ 8 ≤ k.tries → k.level + 1 ≤ k.widest →
        s.Keeps t [] [c.toCore] [] [] ∧ t.core c = { k with level := k.level + 1, tries := 0 } ∧ s.Plans t [(0, .stealRequest c)]) ∧
      (k.widest < k.level ∨ (vs = [] ∨ 8 ≤ k.tries) ∧ k.widest < k.level + 1 →
        s.Keeps t [] [c.toCore] [] [] ∧ t.core c = { k with level := 0, tries := 0, backoff := true } ∧ s.Plans t [(256, .stealBackoffExpiry c)])) ∧
  (∀ (s : State) v c level part, let back := 8 + s.way v c + 6
    s.Runs .stealRequestArrival (.stealRequestArrival v c level part) fun t =>
      ((s.core v).deque = [] →
        s.Keeps t [] [] [v.toPolder] [] ∧ (t.polder v).counters = bumpIn 0x398 1 (s.polder v).counters ∧ s.Plans t [(back, .stealReplyArrival v c none)]) ∧
      ∀ es e, (s.core v).deque = es ++ [e] → (s.core v).heldRecs = [] →
        (entryKind e = 0 → tagAdmits e.tag v c = true → classBars (bits (e.words.getD 0 0#64).toNat 59 58) c = false →
          (s.polder v).part = some part → (s.polder v).swapping = none →
          s.Keeps t [] [v.toCore] [v.toPolder] [] ∧ (t.core v).deque = es ∧ (t.polder v).counters = bumpIn 0x390 1 (s.polder v).counters ∧
          s.planned t back (.stealReplyArrival v c (some e))) ∧
        (entryKind e ≠ 0 ∨ tagAdmits e.tag v c = false ∨ (s.polder v).part ≠ some part →
          s.Keeps t [] [] [v.toPolder] [] ∧ (t.polder v).counters = bumpIn 0x398 1 (s.polder v).counters ∧ s.Plans t [(back, .stealReplyArrival v c none)])) ∧
  (∀ (s : State) v c n e, s.Inv → (s.core c).asking = some n → (s.core c).forwardOf { c with ctx := n } = none →
    s.Runs .stealReplyArrival (.stealReplyArrival v c e) fun t =>
      (e = none → s.Keeps t [{ c with ctx := n }] [c.toCore] [] [] ∧ (t.ctx { c with ctx := n }).reserved = none ∧ (t.core c).asking = none ∧
        s.Plans t [(0, .contextAllocation c), (0, .stealRequest c)]) ∧
      ∀ x, e = some x → x.words.length ≤ 18 → s.Filled t { c with ctx := n } (taskArrivalOf x) ∧
        t.core c = { s.core c with asking := none, level := 0, tries := 0 }) ∧
  ∀ (s : State) c, s.Runs .stealBackoffExpiry (.stealBackoffExpiry c) fun t =>
    s.Keeps t [] [c.toCore] [] [] ∧ t.core c = { s.core c with backoff := false } ∧ s.Plans t [(0, .stealRequest c)]

/-- R225, R226, R379, R410, R412: the dispatcher sends up to 256 groups of the launch at the head of the queue that it serves and advances that queue by its stride, or
has a host packet fetched; a polder places a group in the deque of its member core when there is room, else in a task ring of the core that has room, else holds it; a merge entry passes on the sum of the reports of its node when
the last has come, and at the root the launch completes. -/
def Obligations.LaunchesRun : Prop :=
  (∀ (s : State) d,
    let head (num : Nat) : Option QueuedLaunch := ((s.device d).launchQs.find? fun y => y.num == num).bind fun y => y.items.head?
    s.Runs .launchDispatch (.launchDispatch d) fun t =>
    (s.nextQueue d = none → s.Keeps t [] [] [] [d.toDev] ∧ t.device d = { s.device d with dispatching := false } ∧ s.Plans t []) ∧
    (∀ num p, s.nextQueue d = some (num, p) → head num = none → s.Keeps t [] [] [] [] ∧ s.Plans t [(0, .packetFetch d num), (4, .launchDispatch d)]) ∧
    ∀ num p it, s.nextQueue d = some (num, p) → head num = some it →
      let r := it.launch
      let n := min 256 (r.groups - it.next)
      let core (i : Nat) : Loc := (launchCores r).getD ((it.next + i) % max 1 (launchCores r).length) default
      s.memKept t ∧ (∀ l, t.ctx l = s.ctx l) ∧ (∀ l, t.core l = s.core l) ∧ s.planned t 4 (.launchDispatch d) ∧
      (∀ q, let ment := ((t.polder q).merges.find? fun m => m.launch == r.id).elim 0 fun m => m.idx
        (t.polder q).groups = (s.polder q).groups ++ ((List.range n).filter fun i => decide ((core i).toPolder = q.toPolder)).map fun i =>
          ⟨core i, r.id, ⟨groupWords r (it.next + i), r.steal, r.pasid, .group (2 ^ 63 + ment) r.id (core i).pidx⟩, r.part⟩) ∧
      (it.next ≠ 0 → ∀ q, (t.polder q).merges = (s.polder q).merges) ∧
      (it.next = 0 → ∀ i, i < (launchNodes r).length → let q := (launchNodes r).getD i default
        (treeExp r i ≠ 0 ∨ i = 0 → ∃ m ∈ (t.polder q).merges, m.launch = r.id ∧ m.exp = treeExp r i ∧ m.got = 0) ∧
        (treeExp r i = 0 → i ≠ 0 → ∃ x, s.planned t (8 + s.way q x) (.mergeReport q x r.id 0 0))) ∧
      (∀ q ∈ launchMembers r, s.planned t (8 + s.way r.issuer q) (.launchGroupPlacement q)) ∧
      ((∀ w ∈ (s.device d).launchWait, w.1 ≠ num) →
        ((t.device d).launchQs.find? fun q => q.num == num).map (fun q => q.pass) = (((s.device d).launchQs.find? fun q => q.num == num).map fun q =>
          q.pass + 2 ^ 20 / max 1 ((s.device d).tickets num) * max 1 n) ∧
        (t.device d).launchQs.map (fun q => (q.num, q.items)) = (s.device d).launchQs.map fun q =>
        (q.num, if q.num = num then (if it.next + n < r.groups then [{ it with next := it.next + n }] else []) ++ q.items.drop 1 else q.items))) ∧
  (∀ (s : State) p, s.Runs .launchGroupPlacement (.launchGroupPlacement p) fun t =>
    let gs := (s.polder p).groups
    let on (c : Loc) : List HeldGroup := gs.filter fun g => decide (g.core.toCore = c.toCore)
    (t.polder p).groups.Sublist gs ∧
    ((∀ g ∈ gs, (s.polder p).part = some g.part) → (∀ c, (s.core c).deque.length + s.dequeReserved c + (on c).length ≤ 64) →
      s.memKept t ∧ (∀ l, t.ctx l = s.ctx l) ∧ (t.polder p).groups = [] ∧
      ∀ c, (t.core c).deque = ((on c).map fun g => g.entry).reverse ++ (s.core c).deque)) ∧
  (∀ (s : State) p g, (s.polder p).groups = [g] → g.core.toPolder = p.toPolder →
    s.Runs .launchGroupPlacement (.launchGroupPlacement p) fun t =>
      (s.dequeRoom g.core = true → (s.polder p).part = some g.part →
        s.Keeps t [] [g.core.toCore] [p.toPolder] [] ∧ (t.polder p).groups = [] ∧ (t.core g.core).deque = g.entry :: (s.core g.core).deque ∧
        s.Plans t [(0, .contextAllocation g.core.toCore)]) ∧
      (∀ l k kt, s.Inv → s.dequeRoom g.core = false → (s.polder p).part = some g.part → s.groupRing g.core = some l → g.entry.words.length = 8 →
        s.landsAt l ((s.ctx l).spillBase + 0x1000 + 64 * (s.home64 l ((s.ctx l).spillBase + 8) % 448)) k → s.landsAt l ((s.ctx l).spillBase + 8) kt →
        (k + 64 ≤ kt ∨ kt + 8 ≤ k) →
        (t.polder p).groups = [] ∧ (t.core g.core).deque = (s.core g.core).deque ∧
        (let cell := s.ringCell l (s.home64 l ((s.ctx l).spillBase + 8));
          (t.core g.core).ringed = ((s.core g.core).ringed.filter fun x => !(x.1 == l.ctx && x.2.1 == cell)) ++ [(l.ctx, cell, g.entry)]) ∧
        (∀ n, n < 8 → t.word (k + 8 * n) = (g.entry.words.getD n 0#64).toNat) ∧ t.word kt = (s.home64 l ((s.ctx l).spillBase + 8) + 1) % 2 ^ 64 ∧
        ∀ j, (j < k ∨ k + 64 ≤ j) → (j < kt ∨ kt + 8 ≤ j) → t.mem.get j = s.mem.get j) ∧
      (s.dequeRoom g.core = false ∧ s.groupRing g.core = none ∨ (s.polder p).part ≠ some g.part → t = s)) ∧
  (∀ (s : State) src p launch count st, (∀ m ∈ (s.polder p).merges, m.launch ≠ launch) → s.Runs .mergeReport (.mergeReport src p launch count st) fun t => t = s) ∧
  ∀ (s : State) src p m launch count st, (s.polder p).merges.find? (fun m => m.launch == launch) = some m →
    let n : MergeEntry := { m with got := m.got + 1, count := (m.count + count) % 2 ^ 32, st := Nat.lor m.st st }
    let gone (t : State) : Prop := (t.polder p).merges = (s.polder p).merges.filter fun x => x.idx != m.idx
    s.Runs .mergeReport (.mergeReport src p launch count st) fun t =>
      (n.got < n.exp → s.Keeps t [] [] [p.toPolder] [] ∧ s.Plans t [] ∧
        (t.polder p).merges = (s.polder p).merges.map fun x => if x.idx = m.idx then n else x) ∧
      (n.exp ≤ n.got → gone t) ∧
      (∀ q, n.exp ≤ n.got → m.parent = some q → s.memKept t ∧ s.planned t (8 + s.way p q) (.mergeReport p q launch n.count n.st)) ∧
      (∀ r h, n.exp ≤ n.got → m.parent = none → m.root = some r → r.host = some h →
        s.memKept t ∧ s.planned t 0 (.hostWorkComplete r.issuer.toDev h (hostStatus n.st 0) n.count)) ∧
      ∀ r k, s.Inv → n.exp ≤ n.got → m.parent = none → m.root = some r → r.host = none → r.sig = 0 → r.crec ≠ 0 → s.landsAt r.issuer r.crec k →
        s.landsAt r.issuer (r.crec + 8) (k + 8) → s.home64 r.issuer r.crec + 1 < 2 ^ 64 →
        (s.homeBarred r.issuer r.crec 16 = false →
          t.word k = s.home64 r.issuer r.crec + 1 ∧ t.word (k + 8) = n.count * 2 ^ 32 + n.st % 16 ∧ s.memKeptBut t k 16) ∧
        (s.homeBarred r.issuer r.crec 16 = true → s.memKept t ∧ (r.part, s.coreRec r.issuer 8 0 0 r.crec 0) ∈ (t.device r.issuer).hostRecs)

/-- R107, R317, R321, R324, R326, R327, R330, R332: the owner's sluice answers a load that it must refuse with the first cause that applies, and one that passes with
the bytes that its block sees as they stand, after its 10 cycles, the memory's time and the way back; a lock of its own entry has it wait; a fresh granule is zeroed first, so that
all its bytes read zero but those written meanwhile, and whoever waited goes on; a line enters the slice and takes the place of a victim where its set is full, a reader
line that of its older version; a completed walk keeps its translation or answers its accesses with the cause. -/
def Obligations.RequestsServed : Prop :=
  (∀ (s : State) r p l ep n, r.use = .load l ep n none →
    let back := s.way p.owner r.who + 6
    let reply (c : Nat) (bs : List Byte) : Event := .loadReply l ep n none ⟨c, r.addr, bs⟩
    s.Runs .sluiceRequest (.sluiceRequest r p) fun t =>
      (s.routed r.who p.owner r.part = false → s.Keeps t [] [] [] [] ∧ s.Plans t [(back, reply 6 [])]) ∧
      (s.routed r.who p.owner r.part = true → s.isGone r.who p.owner = true → s.Keeps t [] [] [] [] ∧ s.Plans t [(back, reply 9 [])]) ∧
      (∀ k, s.routed r.who p.owner r.part = true → s.isGone r.who p.owner = false → s.dikeAdmits r.who r.part p r.size false = true → p.space ≠ 6 →
        s.keyOf p = some k →
        (s.lockStops r p k = some true → s.Keeps t [] [] [] [] ∧ s.Plans t [(1, .sluiceRequest { r with admitted := true } p)]) ∧
        (s.lockStops r p k = some false → s.Keeps t [] [] [] [] ∧ s.Plans t [(10 + back, reply 8 [])]) ∧
        (s.lockStops r p k = none → s.isDry r.who p.owner = true → s.Keeps t [] [] [] [] ∧ s.Plans t [(back, reply 9 [])])) ∧
      (s.routed r.who p.owner r.part = true → s.isGone r.who p.owner = false → s.dikeAdmits r.who r.part p r.size false = false → r.admitted = false → isAhead l = false →
        s.Keeps t [] [] [p.owner.toPolder] [] ∧ (t.polder p.owner).counters = bumpIn 0x340 1 (s.polder p.owner).counters ∧
        s.Plans t [(10 + back, reply 6 [])]) ∧
      (∀ k, s.passes r p k →
        (s.eccHit k r.size = true → s.Keeps t [] [] [p.owner.toPolder] [] ∧
          (t.polder p.owner).counters = bumpIn 0x358 1 (s.polder p.owner).counters ∧ s.Plans t [(10 + back, reply 0x11 [])]) ∧
        (s.eccHit k r.size = false → s.Keeps t [l] [] [p.owner.toPolder] [] ∧
          let after := 10 + memTerm p.space (s.l2Hit p k) + back
          (s.blockAt l ep = none → t.ctx l = s.ctx l ∧ s.planned t after (reply 0 (s.mem.bytes k r.size))) ∧
          ∀ b, s.blockAt l ep = some b →
            let x := s.loadSees b n (s.loadPlace l r.addr) r.size k
            s.planned t after (reply 0 x.1) ∧ (x.2.2 = true → s.planned t 0 (.blockAbandon l ep)) ∧
            t.ctx l = { s.ctx l with block := some { b with
              got := b.got ++ [⟨((b.instrAt n).bind loadLsid).getD 0, n, s.loadPlace l r.addr, r.size, x.2.1⟩]
              again := x.2.2 || b.again } }))) ∧
  (∀ (s : State) p g, s.Inv → g < 0x8000 → (s.polder p).unfresh.contains g = false →
    let waits := ((s.polder p).zeroing.filter fun z => z.1 == g).flatMap fun z => z.2.2
    s.Runs .freshZeroingDone (.freshZeroingDone p g) fun t =>
      s.memKeptBut t (keyIn p 0 (g * 0x10000)) 0x10000 ∧
      ((s.polder p).zeroed.contains g = false → ∀ j, j < 0x10000 → t.mem.get (keyIn p 0 (g * 0x10000) + j) = 0#8) ∧
      ((s.polder p).zeroed.contains g = true → s.memKept t) ∧ (t.polder p).unfresh = g :: (s.polder p).unfresh ∧
      (∀ r q l ep n rd, (r, q) ∈ waits → r.use = .load l ep n rd → s.planned t 0 (.sluiceRequest r q)) ∧
      (waits = [] → (∀ l, l.toPolder ≠ p.toPolder → t.ctx l = s.ctx l) ∧ s.coresKept t ∧ s.poldersKeptBut t p ∧ s.devicesKept t ∧
        t.polder p = { s.polder p with
          unfresh := g :: (s.polder p).unfresh
          zeroed := (s.polder p).zeroed.filter fun z => z != g
          zeroing := (s.polder p).zeroing.filter fun z => !(z.1 == g) })) ∧
  (∀ (s : State) p line cls pref data rd,
    let pasid : Option Nat := rd.map fun r => r.2.2
    let set := (s.polder p).l2.filter fun x => x.key % 2048 == line % 2048
    s.Runs .l2LineFill (.l2LineFill p line cls pref rd data) fun t =>
      s.Keeps t [] [] [p.toPolder] [] ∧
      (s.l2Find p line pasid = none → set.length < 16 → (t.polder p).l2 = ⟨line, cls, s.now, pref, rd, data⟩ :: (s.polder p).l2) ∧
      (s.l2Find p line pasid = none → 16 ≤ set.length → ∀ v, victimOf set = some v → (t.polder p).l2 = ⟨line, cls, s.now, pref, rd, data⟩ ::
        (s.polder p).l2.filter fun y => !(v.key == y.key && v.pasid == y.pasid)) ∧
      ∀ x, s.l2Find p line pasid = some x → ∃ y ∈ (t.polder p).l2, y.key = line ∧ y.reader = rd ∧ y.data = data ∧ y.used = s.now) ∧
  ∀ (s : State) p id w, (s.polder p).walks = [w] → w.id = id →
    s.Runs .tlbWalkComplete (.tlbWalkComplete p id) fun t => s.memKept t ∧
      (∀ tr, s.walk p w.part w.pasid w.vpage = .ok tr → (s.polder p).tlb = [] → tr ∈ (t.polder p).tlb) ∧
      ∀ c, s.walk p w.part w.pasid w.vpage = .error c → (t.polder p).walks = [] ∧ s.ctxsKept t ∧ s.coresKept t ∧ s.devicesKept t ∧
        (∀ r ∈ w.reqs, ∀ l ep n rd, r.use = .load l ep n rd → s.planned t 1 (.loadReply l ep n rd ⟨c, r.addr, []⟩)) ∧
        ∀ r ∈ w.reqs, ∀ a, r.use = .atomic a → s.planned t 1 (.atomicReply a (s.walkCause p w.part w.pasid w.vpage true c) 0)

/-- R123 to R127, R132, R133, R217, R347: a registration at the owner of its gauge answers at once where the word already satisfies it, else takes the lowest free entry, or is
refused with 0x13; its reply gives the handle and has the arming wait for commit; an armed entry whose word reaches the threshold is satisfied and gone, and one
that the owner has lost meanwhile is answered dry; a
satisfaction enters its record or fills its future, is kept for a HALTED context, and is a record of 0x09 where the owner has failed; a cancellation frees the entry
that it names and no other, that of an `UNLISTEN` only a listen's; a notification starts the pull of its listen, or waits for the running one. -/
def Obligations.WatchesRun : Prop :=
  (∀ (s : State) w p k, s.watchable w p k →
    let o := p.owner.toPolder
    let d := 10 + memTerm p.space (s.l2Hit p k) + (s.way o w.issuer + 6)
    s.Runs .watchRegistration (.watchRegistration w p) fun t =>
      s.Keeps t [] [] [o] [] ∧
      (watchMet w (s.word k) = true → (t.polder o).watches = (s.polder o).watches ∧
        s.planned t d (.watchRegistrationReply w ⟨o, 0, 0⟩ 0 (s.word k))) ∧
      (watchMet w (s.word k) = false → (s.polder o).freeWatch = none → (t.polder o).watches = (s.polder o).watches ∧
        s.planned t d (.watchRegistrationReply w ⟨o, 0, 0⟩ 0x13 0)) ∧
      ∀ i, watchMet w (s.word k) = false → (s.polder o).freeWatch = some i →
        let w' : WatchReg := if w.kind = .listen then { w with thr := s.word k } else w
        let n := (s.polder o).nextGen i
        (t.polder o).watches = (s.polder o).watches ++ [⟨i, n, false, w', k, 0⟩] ∧
        s.planned t d (.watchRegistrationReply w' ⟨o, n, i⟩ 0 (s.word k))) ∧
  (∀ (s : State) w h c v b, (w.kind = .task ∨ w.kind = .fut) → w.words.length < 20 → s.inFlight w.issuer w.epoch b → 0 < h.gen →
    s.Runs .watchRegistrationReply (.watchRegistrationReply w h c v) fun t =>
      let b' : Block := { b with out := b.out.filter fun n => n != w.slot }
      (1 < c → s.Fails t w.issuer b' w.slot c 0 w.gauge) ∧
      ∀ i, c = 0 → b.instrAt w.slot = some i →
        s.FiredAt t w.issuer w.epoch w.slot b { b' with acts := b.acts ++ [(w.slot, .watch w h none)] }
          ({ s with focus := ⟨w.issuer, w.epoch, w.slot⟩ }.tokensOf b [(0, .val (w64 (s.handleWord h)), targetsOf i)])) ∧
  (∀ (s : State) w h x, (s.polder h.owner).watches = [x] → x.idx = h.entry → x.gen = h.gen → x.armed = false → x.reg.kind ≠ .listen →
    s.Runs .watchArm (.watchArm w h) fun t => s.Keeps t [] [] [h.owner.toPolder] [] ∧
      (watchMet x.reg (s.word x.key) = true → (t.polder h.owner).watches = [] ∧
        s.Plans t [(s.way h.owner w.issuer, .watchSatisfactionArrival ⟨x.reg, h, some (s.word x.key)⟩)]) ∧
      (watchMet x.reg (s.word x.key) = false → (t.polder h.owner).watches = [{ x with armed := true }] ∧ s.Plans t [])) ∧
  (∀ (s : State) w h, ((s.polder h.owner).watches.find? fun x => x.idx == h.entry && x.gen == h.gen && !x.armed) = none →
    s.Runs .watchArm (.watchArm w h) fun t => s.Keeps t [] [] [] [] ∧ s.Plans t [(s.way h.owner w.issuer,
      if w.kind = .listen then .listenNotification w.issuer.toPolder h 0 true else .watchSatisfactionArrival ⟨w, h, none⟩)]) ∧
  (∀ (s : State) x, s.Inv → x.reg.words.length < 20 →
    let l := x.reg.issuer
    s.Runs .watchSatisfactionArrival (.watchSatisfactionArrival x) fun t =>
      (∀ v, s.takes x → x.reg.kind = .task → x.value = some v → s.recordCause l x.reg.arg 64 = 0 → recordBars l (s.taskWords l x.reg.arg) = 0 →
        entryKind (s.entryOf l (s.taskWords l x.reg.arg) (x.reg.words.headD 0) x.reg.pasid) = 0 → (s.core l).heldRecs = [] → s.dequeRoom l = true →
        s.Keeps t [] [l.toCore] [l.toPolder] [] ∧ s.Plans t [(0, .contextAllocation l.toCore)] ∧
        (t.core l).deque = s.entryOf l (s.taskWords l x.reg.arg) (x.reg.words.headD 0) x.reg.pasid :: (s.core l).deque) ∧
      (∀ v k, s.takes x → x.reg.kind = .fut → x.value = some v → s.landsAt l x.reg.arg k → s.landsAt l (x.reg.arg + 8) (k + 8) →
        s.homeBarred l x.reg.arg 16 = false → bits (s.word k) 63 62 = 0 → bits (s.word k) 39 0 = 0 →
        t.word (k + 8) = v % 2 ^ 64 ∧ t.word k = 2 ^ 62 + s.word k ∧ s.memKeptBut t k 16) ∧
      (s.takes x → x.reg.kind = .task → x.value = none → (s.ctx l).faultQ = [] →
        s.Keeps t [l] [] [] [] ∧ (t.ctx l).faultQ = [{ s.coreRec l 9 0 0 x.reg.gauge 0 with ovf := (s.ctx l).faultLost }]) ∧
      ((s.polder l).part = some x.reg.part → (s.ctx l).state = 4#3 → x.reg.kind ≠ .hostWait → s.spillState l (s.ctx l) ≠ .room →
        (s.polder l).overflow.length < 64 → s.Keeps t [] [] [l.toPolder] [] ∧ (t.polder l).overflow = (s.polder l).overflow ++ [⟨x⟩] ∧ s.Plans t [])) ∧
  (∀ (s : State) h u, s.Runs .watchCancelArrival (.watchCancelArrival h u false) fun t => s.Keeps t [] [] [h.owner.toPolder] [] ∧ s.Plans t [] ∧
    ∀ x, x ∈ (t.polder h.owner).watches ↔ x ∈ (s.polder h.owner).watches ∧ ¬(x.idx = h.entry ∧ x.gen = h.gen ∧ x.armed = !u)) ∧
  (∀ (s : State) h u, s.Runs .watchCancelArrival (.watchCancelArrival h u true) fun t => s.memKept t ∧ s.ctxsKept t ∧ s.coresKept t ∧ s.devicesKept t ∧ s.Plans t [] ∧
    ∀ x, x ∈ (t.polder h.owner).watches ↔ x ∈ (s.polder h.owner).watches ∧ ¬(x.idx = h.entry ∧ x.gen = h.gen ∧ x.armed = !u ∧ x.reg.kind = .listen)) ∧
  ∀ (s : State) p h v x, (s.polder p).listens = [x] → x.handle = h → x.removed = false →
    s.Runs .listenNotification (.listenNotification p h v false) fun t => s.Keeps t [] [] [p.toPolder] [] ∧
      (x.running = true → (t.polder p).listens = [{ x with pendingV := max x.pendingV v }] ∧ s.Plans t []) ∧
      (x.running = false → (t.polder p).listens = [{ x with running := true, nowV := v, pendingV := 0 }] ∧
        (t.polder p).internalQ = (s.polder p).internalQ ++ [listenXfer x] ∧ s.Plans t [(0, .transferIssue p.toPolder)])

/-- R134 to R136, R334, R372, R373: an atomic on a core memory of its own polder is performed when it arrives, another enters the unit, which begins the turn of
the head packet of one slot in each slice cycle and performs it at once or, where its line is absent, when the line is there; the word takes the member's new value, no
other byte changes, and the old value goes back; a reply delivers it and counts it in `namo`, or fails the block. -/
def Obligations.AtomicsPerformed : Prop :=
  (∀ (s : State) a p k l ep n, s.Inv → a.into = .slot l ep n → p.owner = l.toPolder → s.isDry l p.owner = false → s.amoBlocked a p = false →
    s.keyOf p = some k → p.space ≤ 2 → (s.polder p.owner).amoHeld = [] →
    s.Runs .atomicPacketArrival (.atomicPacketArrival a p) fun t =>
      (p.space = 2 → a.src ≠ .slice → s.amoCause p k (amoSize a) = 0 →
        s.memKeptBut t k (amoSize a) ∧ t.num k (amoSize a) = amoNew a.op (8 * amoSize a) (s.num k (amoSize a)) a.r a.x % 2 ^ (8 * amoSize a) ∧
        s.planned t (if a.addr < 2 ^ 40 then (if p.off / 0x20000 = l.core then 4 else 16) else 24) (.atomicReply a 0 (s.num k (amoSize a)))) ∧
      (p.space ≠ 2 → (s.polder p.owner).amoWait = [] → (s.polder p.owner).amoSlots = [] → (s.polder p.owner).amoBusy = false →
        s.Keeps t [] [] [p.owner.toPolder] [] ∧ (t.polder p.owner).amoSlots = [⟨0, amoSource a p.owner, 0, [(a, p)]⟩] ∧
        s.Plans t [(1, .atomicTurn p.owner.toPolder none)])) ∧
  (∀ (s : State) o, s.Inv → s.Runs .atomicTurn (.atomicTurn o none) fun t =>
    (s.polder o).amoHeld = [] →
    ((s.polder o).amoSlots = [] → s.Keeps t [] [] [o.toPolder] [] ∧ s.Plans t [] ∧ (t.polder o).amoBusy = false) ∧
    ∀ a p k i src n, (s.polder o).amoSlots = [⟨i, src, n, [(a, p)]⟩] → i < 32 → (s.polder o).amoWait = [] → p.owner = o → s.keyOf p = some k →
      s.amoCause p k (amoSize a) = 0 → s.amoBegun o = [] →
      s.memKept t ∧ (t.polder o).amoSlots = [] ∧ s.planned t (s.sliceTicks o 1) (.atomicTurn o.toPolder none) ∧
      ((p.space = 2 ∨ s.l2Hit p k = true) → s.planned t 0
        (.atomicTurn o.toPolder (some (a, p, s.amoRank a p, 10 + memTerm p.space true + s.way p.owner (amoWho a p.owner) + 6)))) ∧
      (p.space < 2 → s.l2Hit p k = false → s.planned t (memTerm p.space false)
        (.atomicTurn o.toPolder (some (a, p, s.amoRank a p, 10 + s.way p.owner (amoWho a p.owner) + 6))))) ∧
  (∀ (s : State) o a p k r back, s.Inv → s.keyOf p = some k → p.space ≤ 2 → s.unsettled p = false → s.amoCause p k (amoSize a) = 0 →
    s.Runs .atomicTurn (.atomicTurn o (some (a, p, r, back))) fun t =>
      (r = 65 → s.sliceWrites o = true → s.Keeps t [] [] [] [] ∧ s.Plans t [(0, .atomicTurn o.toPolder (some (a, p, 67, back)))]) ∧
      ((r ≠ 65 ∨ s.sliceWrites o = false) → s.memKeptBut t k (amoSize a) ∧ t.num k (amoSize a) = amoNew a.op (8 * amoSize a) (s.num k (amoSize a)) a.r a.x % 2 ^ (8 * amoSize a) ∧
      s.planned t back (.atomicReply a 0 (s.num k (amoSize a))))) ∧
  (∀ (s : State) a c old l ep n b i, a.into = .slot l ep n → s.inFlight l ep b → b.instrAt n = some i → amoAcquires a old = false →
    s.Runs .atomicReply (.atomicReply a c old) fun t =>
      let b' : Block := { b with out := b.out.filter fun k => k != n }
      (c = 0 → s.FiredAt t l ep n b { b' with namo := b.namo + 1 } ({ s with focus := ⟨l, ep, n⟩ }.tokensOf b [(0, .val (w64 old), targetsOf i)])) ∧
      (1 < c → s.FiredAt t l ep n b { b' with fault := some ⟨s.now, n, c, 0, a.addr⟩ } [⟨s.now, .event (.blockAbandon l ep)⟩])) ∧
  ∀ (s : State) a p gen rd h old, a.into = .handler p gen rd → (s.polder p).handler = some h → h.gen = gen → h.wait = true →
    s.Runs .atomicReply (.atomicReply a 0 old) fun t =>
      s.Keeps t [] [] [p.toPolder] [] ∧ (t.polder p).handler = some { h with pc := (h.pc + 4) % 2 ^ 32, regs := setX h.regs rd old, wait := false } ∧
      ⟨s.now, .slice p.toPolder gen⟩ ∈ t.agenda

/-- R362, R364, R365, R369 to R371: with no handler running, the slice core takes the event it chooses out of its queue and enters the handler: `pc` is the entry offset,
`sp` the region's end, `a0` to `a3` the event's, the other registers zero, a message stands in the arrival area, and the budget is the set's; an event whose table word is
0 is dropped and counted. A handler whose budget ends is killed with 0x10. -/
def Obligations.HandlersStart : Prop :=
  (∀ (s : State) p e, s.Inv → (s.polder p).handler = none → s.startPending p = false → s.goodSets p = (s.polder p).validSets →
    (s.polder p).chainRun = none → (s.polder p).events = [e] → (s.polder p).counterRegs = [] → e.set < 4 → s.nextSet p = some e.set →
    let pc := if e.indexed then s.num (keyIn p.toPolder 5 (s.setBase p e.set + 4 * e.entry)) 4 else e.entry
    let base := s.setBase p e.set
    let lim := bits (s.setWord p e.set 1) 13 0
    s.Runs .handlerStart (.handlerStart p) fun t => (t.polder p).events = [] ∧
      (e.indexed = true → pc = 0 → s.Keeps t [] [] [p.toPolder] [] ∧ (t.polder p).handler = none ∧
        (t.polder p).counters = bumpIn 0x378 1 (s.polder p).counters) ∧
      (e.indexed = false ∨ pc ≠ 0 → ∃ h, (t.polder p).handler = some h ∧ h.pc = pc ∧ h.shi = 1#32 ∧ h.limit = lim ∧ h.start = s.now ∧
        h.replied = false ∧ h.wait = false ∧ h.fetched = [] ∧ h.desc = s.setDesc p e.set ∧
        s.planned t (s.sliceTicks p lim) (.handlerBudgetExpiry p.toPolder h.gen) ∧ (⟨s.now, .slice p.toPolder h.gen⟩ : Pending) ∈ t.agenda ∧
        (e.msg = none → h.regs = entryRegs (base + s.setLen p e.set) e.a0 e.a1 e.kind e.a3 ∧ s.Keeps t [] [] [p.toPolder] []) ∧
        ∀ m, e.msg = some m → h.regs = entryRegs (base + s.setLen p e.set) (0x100 + base) (bits m.w0 61 58) 0 (bits m.w1 47 24) ∧
          t.mem.bytes (keyIn p.toPolder 5 (base + 0x100)) 80 = slicePart ⟨p.toPolder, 5, base + 0x100⟩ (arrivalBytes m) ∧ s.memKeptBut t (keyIn p.toPolder 5 (base + 0x100)) 80)) ∧
  ∀ (s : State) p h gen, (s.polder p).handler = some h → s.Runs .handlerBudgetExpiry (.handlerBudgetExpiry p gen) fun t =>
    (h.gen = gen → { s with focus := ⟨p, 0, 0⟩ }.Kills t h 0x10) ∧ (h.gen ≠ gen → t = s)

/-- R210, R220, R345, R347, R352, R367, R399: a message meets its fate at its core: DRY where that polder is dry to its sender, FOREIGN where its partition is unknown, forwarded or DEAD
where the thread it names has gone, a slot of its channel where one is free, and FULL otherwise; a slice message becomes an event of its set; a reply adds one to the count of its word and stores the
code, and changes no other byte, unless the word lies in a workspace that is in use (R63). -/
def Obligations.MessagesArrive : Prop :=
  (∀ (s : State) c m, bit m.w0 57 = false →
    let l : Loc := m.fwd.getD { c with ctx := bits m.dest 2 0 }
    let said (t : State) (code : Nat) : Prop := ∀ q, m.reply = some q → s.severed c q.owner = false → s.planned t (8 + s.way c q.owner) (.replyArrival c q code)
    s.Runs .messageArrival (.messageArrival c m) fun t =>
      (s.isDry (s.senderOf c.dev m) c.toPolder = true → s.Keeps t [] [] [] [] ∧ said t 4) ∧
      (s.isDry (s.senderOf c.dev m) c.toPolder = false →
      (s.partDefined c (msgPart m) = false → s.Keeps t [] [] [c.toPolder] [] ∧ said t 3) ∧
      ((s.polder c).part = some (msgPart m) → (bit m.dest 24 = false ∧ m.fwd = none) ∨ (s.ctx l).state = 1#3 ∨ (s.ctx l).state = 2#3 → s.mailRoom c (msgChan m) = true → (s.core c).unmailed = [] →
        s.Keeps t [] [c.toCore] [] [] ∧ t.core c = { s.core c with mail := (s.core c).mail ++ [⟨msgChan m, m, false⟩] } ∧
        s.Plans t [(0, .contextAllocation c.toCore)]) ∧
      ((s.polder c).part = some (msgPart m) → (bit m.dest 24 = false ∧ m.fwd = none) ∨ (s.ctx l).state = 1#3 ∨ (s.ctx l).state = 2#3 → s.mailRoom c (msgChan m) = false →
        s.Keeps t [] [] [c.toPolder] [] ∧ (t.polder c).counters = bumpIn 0x3A0 1 (s.polder c).counters ∧ said t 1) ∧
      ((s.polder c).part = some (msgPart m) → bit m.dest 24 = true ∨ m.fwd.isSome = true → (s.ctx l).state = 0#3 → (s.ctx l).reserved = none →
        ((s.core c).forwardOf l = none ∨ m.fwd.isSome = true →
          s.Keeps t [] [] [c.toPolder] [] ∧ (t.polder c).counters = bumpIn 0x3A8 1 (s.polder c).counters ∧ said t 2) ∧
        ∀ f, (s.core c).forwardOf l = some f → f.moved = false → m.fwd = none → s.isDry c f.place.toPolder = false → s.Keeps t [] [] [] [] ∧
          s.Plans t [(8 + s.way c f.place, .messageArrival f.place.toCore { m with fwd := some f.place })]))) ∧
  (∀ (s : State) p m, bit m.w0 57 = false → s.isDry (s.senderOf p.dev m) p = false → s.Runs .sliceMessageArrival (.sliceMessageArrival p m) fun t =>
    (∀ q, s.setOf p (msgPart m) = none → m.reply = some q → s.severed p q.owner = false → s.Keeps t [] [] [] [] ∧ s.Plans t [(8 + s.way p q.owner, .replyArrival p q 3)]) ∧
    ∀ set o, s.setOf p (msgPart m) = some set → sliceByte p m = some o → s.setBase p set ≤ o → o < s.setBase p set + s.setLen p set →
      s.Keeps t [] [] [p.toPolder] [] ∧
      (16 ≤ ((s.polder p).events.filter fun e => e.set == set && e.msg.isSome).length → (t.polder p).events = (s.polder p).events ∧
        ∀ q, m.reply = some q → s.severed p q.owner = false → s.planned t (8 + s.way p q.owner) (.replyArrival p q 1)) ∧
      (((s.polder p).events.filter fun e => e.set == set && e.msg.isSome).length < 16 →
        (t.polder p).events = (s.polder p).events ++ [⟨set, 0, (s.polder p).eventOrder, o, false, 0, 0, 0, some m, m.pasid⟩])) ∧
  ∀ (s : State) c q code k, s.Inv → s.takesAt q k → s.Runs .replyArrival (.replyArrival c q code) fun t =>
    (s.workspaceHit q 8 = true → s.Keeps t [] [] [] [] ∧ s.Plans t []) ∧
    (s.workspaceHit q 8 = false → t.word k = (s.word k / 256 + 1) % 2 ^ 56 * 256 + code % 256 ∧ s.memKeptBut t k 8)

/-- R233, R344, R345, R403, R404: a packet of a moving thread is refused FOREIGN or NOGUEST for good, BUSY where the buffer of 8 is full, and waits in it otherwise; a
BUSY one is sent again after 1,024 cycles, an accepted one frees its context, and a refused one leaves the thread HALTED with a record of 0x0C. A relocation waits for its
source's entries, answers with a code, or moves the whole state, which lands HALTED; a holder of a forwarding entry learns the new place and frees the entry at the
release. -/
def Obligations.ThreadsMove : Prop :=
  (∀ (s : State) p m, s.isDry m.source p = false →
    let no (code : Nat) : Nat × Event := (8 + s.way p m.source, .migrationAdmissionReply m.source.toCore m code p.toPolder)
    let glim := bits ((s.polder p).limits.getD 8 0#64).toNat 6 0
    s.Runs .migrationPacketArrival (.migrationPacketArrival p m) fun t =>
      ((s.polder p).part ≠ some m.part → s.Keeps t [] [] [] [] ∧ s.Plans t [no 3]) ∧
      ((s.polder p).part = some m.part → glim = 0 → s.Keeps t [] [] [] [] ∧ s.Plans t [no 6]) ∧
      ((s.polder p).part = some m.part → glim ≠ 0 → 8 ≤ (s.polder p).migBuf.length → s.Keeps t [] [] [] [] ∧ s.Plans t [no 5]) ∧
      ((s.polder p).part = some m.part → glim ≠ 0 → (s.polder p).migBuf.length < 8 →
        s.Keeps t [] [] [p.toPolder] [] ∧ (t.polder p).migBuf = (s.polder p).migBuf ++ [m])) ∧
  (∀ (s : State) c m dest code f, (s.core m.source).forwardOf m.source = some f → f.waiting = [] → m.holders = [m.source] →
    (s.polder m.source).part = some m.part → s.Inv →
    s.Runs .migrationAdmissionReply (.migrationAdmissionReply c m code dest) fun t =>
      (code = 0 → s.Keeps t [m.source] [m.source.toCore] [] [] ∧ (t.ctx m.source).reserved = none ∧
        (t.core m.source).forwardOf m.source = some { f with place := dest, live := true, moved := false, waiting := [] } ∧
        s.Plans t [(0, .contextAllocation m.source.toCore)]) ∧
      (code = 5 → s.Keeps t [] [] [] [] ∧ s.Plans t [(1024, .migrationResend dest.toPolder m)]) ∧
      (code ≠ 0 → code ≠ 5 → m.words.length = 16 → (t.ctx m.source).state = 4#3 ∧ (t.ctx m.source).pc = w64 m.resume ∧
        (t.ctx m.source).reserved = none ∧ (∀ n, n < 16 → t.wword m.source n = (m.words.getD n 0#64).toNat) ∧
        s.memKeptBut t (coreKey m.source (s.ctx m.source).wp.toNat) 128 ∧
        (m.part, s.coreRec m.source 0x0C 0 0 0 0) ∈ (t.device m.source).hostRecs)) ∧
  (∀ (s : State) p m, s.Runs .migrationResend (.migrationResend p m) fun t =>
    s.Keeps t [] [] [] [] ∧ s.Plans t [(8 + s.way m.source p, .migrationPacketArrival p m)]) ∧
  (∀ (s : State) j k, s.Inv → s.landsAt j.issuer j.reply k → s.homeBarred j.issuer j.reply 8 = false →
    let d := s.tidLoc j.issuer.dev j.dest
    s.Runs .relocTransfer (.relocTransfer j) fun t =>
      ((s.ctx j.source).dseq ≠ (s.ctx j.source).rseq → s.Keeps t [] [] [] [] ∧ s.Plans t [(1, .relocTransfer j)]) ∧
      ((s.ctx j.source).dseq = (s.ctx j.source).rseq → s.relocCode j ≠ 0 →
        t.word k = (s.word k / 256 + 1) % 2 ^ 56 * 256 + s.relocCode j % 256 ∧ s.memKeptBut t k 8 ∧ s.ctxsKept t) ∧
      ((s.ctx j.source).dseq = (s.ctx j.source).rseq → s.relocCode j = 0 → j.source ≠ d →
        s.memKept t ∧ (t.ctx j.source).state = 0#3 ∧ (t.ctx d).reserved = some .reloc ∧ (t.ctx d).state = 0#3 ∧
        s.planned t (8 + s.way j.source d) (.relocArrival j (s.relocState j.source (addHolder (s.ctx j.source).holders j.source).1)))) ∧
  (∀ (s : State) j r k, s.Inv → s.landsAt j.issuer j.reply k → s.homeBarred j.issuer j.reply 8 = false → (s.polder j.source).part = some r.pkt.part →
    let d := s.tidLoc j.issuer.dev j.dest
    let w := coreKey d (s.ctx d).wp.toNat
    (s.core d).forwardOf d = none → r.pkt.words.length = 16 → r.held = [] → (k + 8 ≤ w ∨ w + 128 ≤ k) →
    s.Runs .relocArrival (.relocArrival j r) fun t =>
      ((t.ctx d).state = 4#3 ∧ (t.ctx d).pc = w64 r.pkt.resume ∧ (t.ctx d).sup = r.sup ∧ (t.ctx d).pol = r.pol ∧ (t.ctx d).fm = r.fm ∧
        (t.ctx d).step = r.step ∧ (t.ctx d).trapvec = r.trapvec ∧ (t.ctx d).trapframe = r.trapframe ∧ (t.ctx d).home = r.home ∧
        (t.ctx d).spill = r.spill ∧ (t.ctx d).tree = r.tree ∧ (t.ctx d).faultQ = r.faultQ ∧ (t.ctx d).rowQ = r.rowQ ∧ (t.ctx d).late = r.late ∧
        (t.ctx d).wp = (s.ctx d).wp) ∧
      (∀ n, n < 16 → t.wword d n = (r.pkt.words.getD n 0#64).toNat) ∧ t.word k = (s.word k / 256 + 1) % 2 ^ 56 * 256 ∧
      ∀ a, (a < w ∨ w + 128 ≤ a) → (a < k ∨ k + 8 ≤ a) → t.mem.get a = s.mem.get a) ∧
  ∀ (s : State) h f, f.waiting = [] →
    (∀ part old new, (s.polder h).part = some part → (s.core h).entryVia h old = some f → s.Runs .moveNoticeArrival (.moveNoticeArrival h part old new) fun t => s.Keeps t [] [h.toCore] [] [] ∧
      (t.core h).forwards = (s.core h).forwards.map (fun x => if f = x then { f with place := new, moved := false } else x) ∧
      s.Plans t [(0, .contextAllocation h.toCore)]) ∧
    ∀ r, (s.polder h).part = some r.part → (s.core h).entryVia h r.thread = some f → s.Runs .threadReleaseArrival (.threadReleaseArrival h r) fun t =>
      (t.core h).forwards = (s.core h).forwards.erase f ∧
      (f.origin = false → s.Keeps t [] [h.toCore] [h.toPolder] [] ∧
        (t.polder h).counters = (if r.replaced then bumpIn 0x3B8 1 (s.polder h).counters else (s.polder h).counters) ∧ s.Plans t [(0, .contextAllocation h.toCore)]) ∧
      ∀ g, f.origin = true → f.duties.origin = .host g → s.memKept t ∧
        s.planned t 0 (.hostWorkComplete h.toDev g (hostStatus (boolNat r.flt + 2 * boolNat (r.dry || f.duties.dry)
          + 4 * boolNat (r.abort || (r.flt && f.duties.abort)) + 8 * boolNat (r.inl || bit f.tree.toNat 6)) 0) 1)

/-- R193, R235, R238, R264, R269, R276, R278: the matrix engine accepts the entry in turn, or ends it with 0x01 where its records are refused; an `eq0` command
becomes the instruction it asks for; a job that registers takes its slot and its spans, one that may not ends with 0x08 after the time of completion, one that must
wait waits, and one that has registered begins its passes once its operands are there; a pull of a ring is taken, registered and read line by line; an `eq2` command that is refused ends with its cause, and another becomes a transfer. -/
def Obligations.EntriesAccepted : Prop :=
  (∀ (s : State) p c e, (s.polder p).matrixStall = false → (s.polder p).jobs.length < 4 →
    s.matrixPick p = some (c, e) → (∀ ptr r, e.op ≠ .eq0 ptr r) →
    s.Runs .matrixEntryAccept (.matrixEntryAccept p) fun t => s.Keeps t [] [c.toCore] [p.toPolder] [] ∧
      t.core c = (s.core c).upd e.seq.toNat (fun x => { x with phase := .accepted }) ∧
      t.polder p = { s.polder p with matrixTurn := c.core, jobs := (s.polder p).jobs ++ [MatrixJob.fresh c e s.now] } ∧
      s.Plans t [(4, .rangeLockRegister p.toPolder), (1, .matrixEntryAccept p.toPolder)]) ∧
  (∀ (s : State) p j, (s.polder p).jobs = [j] → j.reg = false → j.refused = false → j.started = false → j.checked = false → j.since + 4 ≤ s.now →
    let u (k : MatrixJob) (n : Nat) (e : Event) (t : State) : Prop := t.polder p = { s.polder p with jobs := [k] } ∧
      s.Plans t [(n, e), (0, .transferIssue p), (0, .chunkStart p)]
    s.Runs .rangeLockRegister (.rangeLockRegister p) fun t => s.Keeps t [] [] [p.toPolder] [] ∧
      (s.codedLanding p j = true → s.Keeps t [] [] [] [] ∧ s.Plans t [(0, .transferIssue p), (0, .chunkStart p)]) ∧
      (s.codedLanding p j = false →
      (s.mmaRefused j.owner j.op = true → j.op.isRot = false →
        u { j with refused := true, passesDone := true, cause := 1, addr := 0 } 4 (.matrixEntryComplete p.toPolder j.core j.seq) t) ∧
      (s.mmaRefused j.owner j.op = true → j.op.isRot = true →
        (t.polder p).jobs = [{ j with refused := true, passesDone := true, cause := 1, addr := 0 }] ∧
        s.planned t 4 (.matrixEntryComplete p.toPolder j.core j.seq)) ∧
      (s.mmaRefused j.owner j.op = false → s.tableXfer j = none →
        u { j with checked := true, table := some [] } (j.since + 6 - s.now) (.rangeLockRegister p.toPolder) t) ∧
      ∀ x, s.mmaRefused j.owner j.op = false → s.tableXfer j = some x → s.planned t 1 (.transferIssue p.toPolder) ∧
        t.polder p = { s.polder p with jobs := [{ j with checked := true }], internalQ := (s.polder p).internalQ ++ [x] })) ∧
  (∀ (s : State) p c n e ptr r,
    let k : Loc := { p.toPolder with core := c }
    let bad := pointerCause (fun op => 0x60 ≤ op && op ≤ 0x6F) 32 ptr e.bad
    s.entryAt k n = some e → e.op = .eq0 ptr r →
    s.Runs .matrixCommandRecord (.matrixCommandRecord p c n) fun t => s.Keeps t [] [k] [p.toPolder] [] ∧
      let stops (cause addr : Nat) : Prop := t.core k = (s.core k).upd n (fun x => { x with phase := .accepted }) ∧
        t.polder p = { s.polder p with matrixTurn := c, jobs := (s.polder p).jobs ++
          [{ MatrixJob.fresh k e s.now with refused := true, passesDone := true, cause := cause, addr := addr }] } ∧
        s.Plans t [(8, .matrixEntryComplete p.toPolder c n), (1, .matrixEntryAccept p.toPolder)]
      (bad ≠ 0 → stops bad 0) ∧ (bad = 0 → s.entryOp e = none → stops 1 0) ∧
      (∀ m a b, bad = 0 → s.entryOp e = some (.macc m a b) → (maccCause m a b).1 ≠ 0 → stops (maccCause m a b).1 (maccCause m a b).2) ∧
      (∀ pr rot a b la x, bad = 0 → s.entryOp e = some (.mma pr rot a b la x) →
        let v := s.mmaCause e.owner pr rot la (numAt r 8 8) x
        v.1 ≠ 0 → stops v.1 v.2.2) ∧
      (∀ m a b, bad = 0 → s.entryOp e = some (.macc m a b) → (maccCause m a b).1 = 0 → s.poldersKept t ∧
        t.core k = (s.core k).upd n (fun x => { x with op := .macc m a b }) ∧ s.Plans t [(0, .matrixEntryAccept p.toPolder)]) ∧
      ∀ pr rot a b la x, bad = 0 → s.entryOp e = some (.mma pr rot a b la x) → (s.mmaCause e.owner pr rot la (numAt r 8 8) x).1 = 0 → s.poldersKept t ∧
        t.core k = (s.core k).upd n (fun y => { y with op := .mma pr rot a b la x }) ∧ s.Plans t [(0, .matrixEntryAccept p.toPolder)]) ∧
  (∀ (s : State) p j bs, (s.polder p).jobs = [j] → j.reg = false → j.refused = false → j.started = false → j.checked = true → j.table = some bs → j.since + 6 ≤ s.now →
    j.op.isRot = false →
    let c : Loc := { p.toPolder with core := j.core }
    s.Runs .rangeLockRegister (.rangeLockRegister p) fun t => s.Keeps t [] [c] [p.toPolder] [] ∧
      (s.regFate p j = .wait → s.Keeps t [] [] [] [] ∧ s.Plans t [(0, .transferIssue p), (0, .chunkStart p)]) ∧
      (∀ a, s.regFate p j = .refuse a →
        t.polder p = { s.polder p with jobs := [{ j with refused := true, passesDone := true, cause := 8, addr := a }] } ∧
        s.Plans t [(4, .matrixEntryComplete p.toPolder j.core j.seq), (0, .transferIssue p), (0, .chunkStart p)]) ∧
      (s.regFate p j = .go → slotTake j.op j.owner ((s.polder p).slotAt j.slot) = none →
        t.polder p = { s.polder p with jobs := [{ j with refused := true, passesDone := true, cause := 8, addr := 0x400000 + 0x4000 * j.slot }] } ∧
        s.Plans t [(4, .matrixEntryComplete p.toPolder j.core j.seq), (0, .rangeLockRegister p.toPolder), (0, .transferIssue p), (0, .chunkStart p)]) ∧
      ∀ u, s.regFate p j = .go → slotTake j.op j.owner ((s.polder p).slotAt j.slot) = some u →
        (t.polder p).banks = (s.polder p).banks.set (s.polder p).bank { (s.polder p).theBank with
          slots := (s.polder p).theBank.slots.set j.slot { s.takenBy c j u with npend := u.npend + 1, seq := j.seq } } ∧
        (∀ e, s.entryAt c j.seq = some e → (s.ctx e.owner).thread = e.thread → (s.ctx e.owner).state ≠ 0#3 →
          s.takenBy c j u = if j.op.takes ((s.polder c).slotAt j.slot).st then { u with freeAfter := none } else u) ∧
        t.lockedSpans p = s.lockedSpans p ++ (s.jobSources j).map (fun d => (false, d)) ++ (jobTarget j).toList.map (fun d => (true, d)) ∧
        (t.polder p).jobs = [{ j with reg := true, first := (s.polder p).lockId, parts := [], pulls := 0 }] ∧
        s.Plans t [(0, .rangeLockRegister p.toPolder), (0, .transferIssue p), (0, .chunkStart p)]) ∧
  (∀ (s : State) p j bs, (s.polder p).jobs = [j] → j.reg = true → j.refused = false → j.started = false → j.pulling = true → j.checked = true →
    j.table = some bs → j.since + 6 ≤ s.now →
    s.Runs .rangeLockRegister (.rangeLockRegister p) fun t => s.Keeps t [] [] [p.toPolder] [] ∧
      (s.passesWait p j = true → s.Keeps t [] [] [] [] ∧ s.Plans t [(0, .transferIssue p), (0, .chunkStart p)]) ∧
      (s.passesWait p j = false → (t.polder p).jobs = [{ j with started := true, due := s.now + j.op.firstSlab }] ∧
        s.Plans t [(j.op.firstSlab, .matrixSlab p.toPolder j.core j.seq), (0, .transferIssue p), (0, .chunkStart p)] ∧
        (t.polder p).banks = if j.op.parks then (s.polder p).banks.set (s.polder p).bank { (s.polder p).theBank with
          slots := (s.polder p).theBank.slots.set j.slot { (s.polder p).slotAt j.slot with st := 2 } } else (s.polder p).banks)) ∧
  (∀ (s : State) p n e src dst desc r q, (s.polder p).xfers = [] → s.xferPick p = some n → n < 8 →
    s.unitHead { p.toPolder with core := n } .copy = some e → e.owner.toCore = { p.toPolder with core := n } → e.op = .pull src dst desc →
    let x := e.xfer .copy src dst (bits desc 19 0 + 1) desc
    let id := (s.polder p).xferId
    s.Runs .transferIssue (.transferIssue p) fun t =>
      (∀ a, s.xferFate p x = .refuse a → s.Keeps t (coreMates e.owner) [e.owner.toCore] [p.toPolder] [] ∧
        (t.polder p).xfers = [] ∧ (t.polder p).xferTurn = (n + 1) % 10 ∧ t.core e.owner = (s.core e.owner).upd e.seq.toNat (fun y => y.ended 8 a 0)) ∧
      (s.xferFate p x = .go → src % 64 + x.len ≤ 64 → r = lineRequest p x id 0 x.len → s.reaches r q →
        s.Keeps t [] [e.owner.toCore] [p.toPolder] [] ∧
        (t.polder p).xfers = [{ x with id := id, issued := true, lock := some (s.polder p).lockId, next := x.len, flying := [(0, x.len)] }] ∧
        t.lockedSpans p = s.lockedSpans p ++ [(true, s.xferSpan p x)] ∧ s.planned t 1 (.transferIssue p.toPolder) ∧
        s.planned t (12 + s.way r.who q.owner + (if q.owner.toPolder = r.who.toPolder then 0 else Config.contention s.free)) (.sluiceRequest r q))) ∧
  ∀ (s : State) c n e ptr r i op, s.entryAt c n = some e → e.op = .eq2 ptr r →
    (i, op) ∈ [(Instr.eq2Pull, 1), (.pullw, 2), (.fill, 3), (.gcopy, 4)] →
    let v := s.eq2Cause e.owner e.part e.pasid e.sup op r
    let y := eq2Parts op r
    let x := e.xfer y.1 y.2.1 y.2.2.1 y.2.2.2 (numAt r 16 8)
    let id := (s.polder c).xferId
    ∀ ev, eq2Event op c n = some ev → s.Runs i ev fun t =>
      let exact := op ≠ 4 ∨ numAt r 24 8 ≠ 0
      s.memKept t ∧ s.ctxsKept t ∧ s.coresKeptBut t c ∧ s.devicesKept t ∧ (exact → s.poldersKeptBut t c) ∧
      (v.1 ≠ 0 → t.core c = (s.core c).upd n (fun y => y.ended v.1 v.2 0) ∧ s.planned t 0 (.entryRetire c.toCore) ∧
        (exact → s.poldersKept t ∧ s.Plans t [(0, .entryRetire c.toCore)])) ∧
      (v.1 = 0 → s.xferFate c.toPolder x = .wait → s.coresKept t ∧ s.planned t 0 (.transferIssue c.toPolder) ∧
        (t.polder c).xferId = id + 1 ∧ (t.polder c).xfers = (s.polder c).xfers ++ [{ x with id := id }]) ∧
      (v.1 = 0 → s.xferFate c.toPolder x = .go → s.coresKept t ∧ s.planned t 0 (.transferIssue c.toPolder) ∧
        t.lockedSpans c = s.lockedSpans c ++ [(true, s.xferSpan c.toPolder x)] ∧
        { x with id := id, issued := true, lock := some (s.polder c).lockId } ∈ (t.polder c).xfers)

/-- R130, R170, R173, R180, R185, R194, R204, R264, R277: a beat of the vector unit writes its elements and no other byte, and the last one completes the entry; a slab
adds the products of a row to its accumulator element, and a `MACC` member zeroes or copies its slot; a line of a transfer lands its bytes, lowers `pend` and, as the last
one, ends the transfer, or fails without a write. -/
def Obligations.EnginesWork : Prop :=
  (∀ (s : State) c, (s.core c).vecHead = none → s.Runs .vectorBeat (.vectorBeat c) fun t =>
    s.Keeps t [] [c.toCore] [] [] ∧ t.core c = { s.core c with vecBusy := false } ∧ s.Plans t []) ∧
  (∀ (s : State) c e op l r x, s.Inv → (s.core c).vecHead = some e → e.owner.toCore = c.toCore → e.beat = 0 → (s.polder c).swapping = none → e.op = .vec op l r x →
    s.Runs .vectorBeat (.vectorBeat c) fun t => s.Touches t [] [c.toCore] [c.toPolder] [] ∧
      (vecCount op l r x = 0 → (∀ n, op ≠ .enc n) → s.memKept t ∧ t.core c = (s.core c).upd e.seq.toNat (fun y => y.ended 0 0 0) ∧
        s.planned t 0 (.entryRetire c.toCore) ∧ s.planned t 1 (.vectorBeat c.toCore)) ∧
      (∀ n k, op = .bcast → s.byteArray e.owner (vtok l) 1 n k → s.beatCause e.owner op l r x 0 n (s.beatOf e op l r x 0 n n) = (0, 0) →
        s.ringKeptBut t c e.seq.toNat ∧ (∀ y ∈ (t.core c).ring, y.seq = e.seq → y.phase = .complete) ∧
        (∀ i, i < n → t.mem.get (k + i) = BitVec.ofNat 8 r) ∧ s.memKeptBut t k n) ∧
      ∀ n k ka kb, op = .add → s.byteArray e.owner (vtok l) 1 n k → s.byteArray e.owner (vtok r) 1 n ka → s.byteArray e.owner (vtok x) 1 n kb →
        s.beatCause e.owner op l r x 0 n (s.beatOf e op l r x 0 n n) = (0, 0) →
        s.ringKeptBut t c e.seq.toNat ∧ (∀ y ∈ (t.core c).ring, y.seq = e.seq → y.phase = .complete) ∧
        (∀ i, i < n → t.mem.get (k + i) = s.mem.get (ka + i) + s.mem.get (kb + i)) ∧ s.memKeptBut t k n) ∧
  (∀ (s : State) p j, s.Inv → (s.polder p).jobs = [j] → j.owner.toPolder = p.toPolder → j.kb = 0 → j.pulls = 0 →
    let base := s.slotKey p j.slot
    s.Runs .matrixSlab (.matrixSlab p j.core j.seq) fun t => s.Touches t [] [] [p.toPolder] [] ∧
      (∀ w x, j.op = .macc .zero w x → (∀ i, i < 0x4000 → t.mem.get (base + i) = 0#8) ∧ s.memKeptBut t base 0x4000 ∧
        s.planned t 0 (.matrixEntryComplete p.toPolder j.core j.seq)) ∧
      (∀ w r k, j.op = .macc .loada w r → s.inCore j.owner r k → s.eccHit k 0x4000 = false →
        (∀ i, i < 0x4000 → t.mem.get (base + i) = s.mem.get (k + i)) ∧ s.memKeptBut t base 0x4000 ∧
        s.planned t 4 (.matrixEntryComplete p.toPolder j.core j.seq)) ∧
      (∀ w r k, j.op = .macc .storea w r → s.inCore j.owner r k → s.eccHit base 0x4000 = false → s.spanInWorkspace p (polderView j.owner r) 0x4000 = false →
        (∀ i, i < 0x4000 → t.mem.get (k + i) = s.mem.get (base + i)) ∧ s.memKeptBut t k 0x4000 ∧
        s.planned t 4 (.matrixEntryComplete p.toPolder j.core j.seq)) ∧
      ∀ a b la x n ka kb, j.op = .mma .ii false a b la x → n ≤ 32 → s.byteRow j.owner (shapeOf a) n ka → s.byteRow j.owner (shapeOf b) n kb → s.ecc = [] →
        j.started = true → j.passesDone = false → j.due ≤ s.now → (s.polder p).matrixFree ≤ s.now →
        t.num base 4 = (((if bit x 5 then 0 else (s.num base 4 : Int)) +
          ((List.range n).map fun i => (s.mem.get (ka + i)).toInt * (s.mem.get (kb + i)).toInt).sum) % 2 ^ 32).toNat ∧ s.memKeptBut t base 4) ∧
  ∀ (s : State) p x n ans c q, s.Inv → (s.polder p).xfers = [x] → x.origin = .ring c q → x.kind = .copy → x.next = x.len → x.flying = [(0, n)] → x.cause = 0 → 0 < n →
    let l := engineAgent { p with core := x.core }
    (landPlaces p x 0 n).any s.unsettled = false → s.wordBarred l x.cwa = false →
    s.Runs .lineReadReply (.lineReadReply p x.id 0 ans) fun t => (t.polder p).xfers = [] ∧
      (∀ i, x.lock = some i → i ≠ 0 → (t.polder p).locks = (s.polder p).locks.filter fun r => r.id != i) ∧
      (s.landBarred p x 0 n = true → ans.cause = 0 → x.cwa = 0 → s.memKept t ∧
        t.core { p.toPolder with core := c } = (s.core { p.toPolder with core := c }).upd q (fun y => y.ended 8 x.dst 0)) ∧
      (s.landBarred p x 0 n = false →
      (∀ k, ans.cause = 0 → ans.data.length = n → s.landsAt l x.dst k → x.cwa = 0 → t.mem.bytes k n = ans.data ∧ s.memKeptBut t k n) ∧
      (∀ k w, ans.cause = 0 → ans.data.length = n → s.landsAt l x.dst k → s.inCore l x.cwa w → x.cwa ≠ 0 → (w + 8 ≤ k ∨ k + n ≤ w) → n ≤ bits (s.word w) 55 0 →
        t.mem.bytes k n = ans.data ∧ t.word w = s.word w - n ∧ ∀ a, (a < k ∨ k + n ≤ a) → (a < w ∨ w + 8 ≤ a) → t.mem.get a = s.mem.get a) ∧
      (ans.cause ≠ 0 → x.cwa = 0 → s.memKept t) ∧
      (x.cwa = 0 → (ans.cause ≠ 0 → x.st = false) →
        t.core { p.toPolder with core := c } = (s.core { p.toPolder with core := c }).upd q (fun y => y.ended ans.cause ans.addr 0)))

/-- R75, R99, R194, R198, R199, R264, R265: a matrix entry that has run leaves the engine and is complete, with the row descriptors it asked for, or with its cause and, where it was
not refused, its slot poisoned; the completed entry at the head of a ring retires: it leaves the ring, its row descriptors are pushed, its flags are ORed into `cw.fm`, `rseq` takes its number,
its registrations are released and its cause becomes a late fault; of a thread that has left, a cause goes to the host queue, and to what is left of the
context's own queue. -/
def Obligations.EntriesRetire : Prop :=
  (∀ (s : State) p j, s.jobAt p j.core j.seq = some j →
    let c : Loc := { p.toPolder with core := j.core }
    s.Runs .matrixEntryComplete (.matrixEntryComplete p j.core j.seq) fun t => s.Keeps t [] [c] [p.toPolder] [] ∧
      s.Plans t [(0, .entryRetire c), (0, .matrixEntryAccept p.toPolder), (0, .rangeLockRegister p.toPolder)] ∧
      (t.polder p).jobs = (s.polder p).jobs.filter (fun x => !(x.core == j.core && x.seq == j.seq)) ∧
      (j.cause = 0 ∨ j.refused = true → (t.polder p).banks = (s.polder p).banks) ∧
      (j.cause ≠ 0 → t.core c = (s.core c).upd j.seq (fun e => { e with rows := [] }.ended j.cause j.addr j.flags)) ∧
      (j.cause ≠ 0 → j.refused = false → (s.polder p).jobs.countP (fun y => y.slot == j.slot) = 1 → (t.polder p).banks = (s.polder p).banks.set (s.polder p).bank { (s.polder p).theBank with
        slots := (s.polder p).theBank.slots.set j.slot { (s.polder p).slotAt j.slot with poison := true } }) ∧
      (∀ m w r, j.cause = 0 → j.op = .macc m w r → t.core c = (s.core c).upd j.seq (fun e => { e with rows := [] }.ended 0 j.addr j.flags)) ∧
      ∀ pr rot a b la x, j.cause = 0 → j.op = .mma pr rot a b la x →
        let rows := (List.range (if bit x 6 then (shapeOf a).ext 1 else 0)).map fun i => w64
          (j.seq % 2 ^ 16 * 2 ^ 32 + pairAcc pr * 2 ^ 18 + (shapeOf b).ext 1 % 2 ^ 7 * 2 ^ 11 + i % 2 ^ 6 * 2 ^ 5 + j.slot % 2 ^ 5)
        t.core c = (s.core c).upd j.seq (fun e => { e with rows := rows }.ended 0 j.addr j.flags)) ∧
  ∀ (s : State) c e, (s.core c).ready = [e] → 0 < s.retireRoom c → e.owner.toCore = c.toCore →
    let l := e.owner
    s.Runs .entryRetire (.entryRetire c) fun t => s.memKept t ∧
      t.core c = { s.core c with ring := (s.core c).ring.filter fun x => x.seq != e.seq, retired := (s.now, 4 - s.retireRoom c + 1) } ∧
      (t.polder c).locks = (s.polder c).locks.filter (fun r => !e.locks.contains r.id) ∧
      (e.orphaned s = false → s.Touches t (coreMates l) [c.toCore] [c.toPolder] [] ∧ (t.ctx l).rowQ = (s.ctx l).rowQ ++ e.rows ∧
        (t.ctx l).fm = w64 (Nat.lor (s.ctx l).fm.toNat e.flags) ∧ (t.ctx l).rseq = e.seq ∧ (t.ctx l).wp = (s.ctx l).wp ∧ (t.ctx l).pc = (s.ctx l).pc ∧
        (e.cause = 0 → (t.ctx l).late = (s.ctx l).late) ∧
        (e.cause ≠ 0 → (s.ctx l).late.length < 8 → (s.ctx l).surplus = 0 → (t.ctx l).late = (s.ctx l).late ++ [⟨e.cause, e.seq.toNat, e.addr⟩])) ∧
      (e.orphaned s = true → s.Touches t (coreMates l) [c.toCore] [c.toPolder] [c.toDev] ∧ (t.ctx l).rseq = (s.ctx l).rseq ∧ (t.ctx l).late = (s.ctx l).late ∧
        (e.cause ≠ 0 →
          let r : FaultRec := { s.coreRec l 0x0D e.cause 0 e.addr e.seq.toNat with src := 2 }
          (e.part, r) ∈ (t.device c).hostRecs ∧
          ((s.ctx l).thread = e.thread → (s.ctx l).state = 0#3 → (s.ctx l).faultQ.length < 8 → { r with ovf := (s.ctx l).faultLost } ∈ (t.ctx l).faultQ)))

/-- R422, R423, R426, R429, R430, R432, R434 to R437: a collective command is accepted and its record shows it, or ends with its cause, or waits; the engine starts the chunk of
the communicator in turn, and ends it, when a handler of the chain has run for it; a chunk that has ended raises the gauges of its step and tells the other members, the root of a
reduction lands the sums and a member what is broadcast to it, a finished command completes, and a failed line ends the command and aborts the communicator, as does a signature
that differs; notices of members say what they say and no more. -/
def Obligations.CollectivesRun : Prop :=
  (∀ (s : State) c n e i op, s.Inv → s.entryAt c n = some e → e.phase = .dispatched →
    (i, op) ∈ [(Instr.allReduce, 1), (.reduceScatter, 2), (.allGather, 3), (.broadcast, 4), (.barrier, 5), (.allToAllV, 6), (.reduce, 7)] →
    s.Runs i (eq3Event op c n) fun t =>
      (∀ x a, s.collFate c.toPolder e = .refuse x a → s.Keeps t [] [c.toCore] [c.toPolder] [] ∧ (x ≠ 0x11 → t.polder c = s.polder c) ∧
        t.core c = (s.core c).upd n (fun y => y.ended x a 0) ∧ s.Plans t [(0, .entryRetire c.toCore), (0, .chunkStart c.toPolder)]) ∧
      (s.collFate c.toPolder e = .wait → s.Keeps t [] [] [] [] ∧ s.Plans t [(1, .chunkStart c.toPolder)]) ∧
      (∀ m x, s.collFate c.toPolder e = .go m x → m.differs x = true → s.aborts t c.toPolder m.members m.part m.cid 3 ∧
        (∀ y ∈ (t.polder c).comms, y.cid = m.cid → y.stopped = true)) ∧
      ∀ m x k, s.collFate c.toPolder e = .go m x → m.differs x = false → s.landsAt c.toPolder (m.record + 24) k →
        s.homeBarred c.toPolder (m.record + 24) 8 = false →
        let tid := s.tid x.issuer % 2 ^ 24
        let len := x.landing m.size m.rank
        (t.polder c).comms = (s.polder c).comms.filter (fun y => y.cid != m.cid) ++ [{ m with cmds := m.cmds ++ [x], mtid := tid }] ∧
        t.lockedSpans c = s.lockedSpans c ++ (if len = 0 then [] else [(true, polderView x.issuer x.dst, len)]) ∧
        t.word k = (s.word k / 2 ^ 48 + 1) % 2 ^ 16 * 2 ^ 48 + tid * 2 ^ 24 + s.word k % 2 ^ 24 ∧ s.memKeptBut t k 8 ∧
        s.Touches t [] [c.toCore] [c.toPolder] [] ∧ t.core c = (s.core c).upd n (fun y => { y with phase := .accepted }) ∧
        s.planned t 0 (.chunkStart c.toPolder)) ∧
  (∀ (s : State) p c n x st, (∀ i, i < 8 → (s.core { p.toPolder with core := i }).head .collective = none) → (s.polder p).collRunning = none →
    (s.polder p).swapping = none → (s.polder p).comms = [c] → c.ready = true → c.nextChunk = some (n, x, st) → st.kind = .barrier → s.peersReady p c n x st →
    s.Runs .chunkStart (.chunkStart p) fun t => s.Keeps t [] [] [p.toPolder] [] ∧
      (s.chainDue p none = false → (t.polder p).comms = [c] ∧ (t.polder p).collRunning = none ∧ t.chained p none) ∧
      (s.chainDue p none = true → (t.polder p).collRunning = some c.cid ∧ (t.polder p).chainRun = none ∧
        (t.polder p).comms = [{ c with pass := c.pass + 2 ^ 20 / max 1 c.tix, chunk := some ⟨n, [], []⟩ }] ∧
        s.Plans t [(s.sliceTicks p 8, .handlerStart p.toPolder), (8, .chunkEnd p.toPolder c.cid)])) ∧
  (∀ (s : State) p c k x, s.Inv → (s.polder p).comms = [c] → c.chunk = some k → (∀ b ∈ k.parts, b.isSome = true) → c.cmdAt k.n = some x → x.cwa = 0 →
    (x.step c.size k.n).kind ≠ .counts → (chunkPlaces p c k.n x (x.step c.size k.n)).any s.unsettled = false →
    let st := x.step c.size k.n
    let core : Loc := { p.toPolder with core := x.core }
    let root := c.pos st.root = 0
    let step := k.n - c.base
    let data := (k.parts.map fun b => b.getD []).flatten
    let tells (t : State) (pg dg : Nat) : Prop :=
      (∃ y, s.commAt p c.cid = some c ∧ t.commAt p c.cid = some y ∧ y.pg = pg ∧ y.dg = dg ∧ y.chunk = none ∧ y.stopped = c.stopped) ∧
      ∀ r, r < c.size → r ≠ c.rank → s.isDry p (s.memberAt p (c.members.getD r (0, 0))) = false →
        s.planned t (8 + s.way p (s.memberAt p (c.members.getD r (0, 0))))
          (.collectiveGaugeNotice (s.memberAt p (c.members.getD r (0, 0))) ({ c with pg := pg, dg := dg, shown := (x.sig, k.n) } : Comm).notice)
    s.Runs .chunkEnd (.chunkEnd p c.cid) fun t =>
      (s.chainDue p (some c.cid) = false → s.Keeps t [] [] [p.toPolder] [] ∧ (t.polder p).comms = [c] ∧ t.chained p (some c.cid)) ∧
      (s.chainDue p (some c.cid) = true →
      s.planned t 0 (.chunkStart p.toPolder) ∧ (t.polder p).collRunning = none ∧ (t.polder p).chainRun = none ∧
      s.planned t (s.sliceTicks p 8) (.handlerStart p.toPolder) ∧
      (∀ r, k.fails ≠ [] → (c.chunkFrom k.n x st).find? (s.memberAbsent p c) = some r → s.memKept t ∧ s.coresKept t ∧
        ∃ y, t.commAt p c.cid = some y ∧ (y.peer r).absent = true ∧ y.chunk = none ∧ y.cmds = c.cmds ∧ y.pg = c.pg ∧ y.dg = c.dg) ∧
      (∀ f fs, k.fails = f :: fs → (c.chunkFrom k.n x st).find? (s.memberAbsent p c) = none → s.memKept t ∧ t.core core = (s.core core).upd x.seq (fun y => y.ended f.1 f.2 0) ∧
        s.aborts t p c.members c.part c.cid (if f.1 = 9 then 2 else 1) ∧ ∃ y, t.commAt p c.cid = some y ∧ y.stopped = true ∧ x ∉ y.cmds) ∧
      (k.fails = [] → st.kind = .bcast → root → st.keep = true → s.memKept t ∧ tells t (max c.pg step) step) ∧
      (∀ q, k.fails = [] → st.kind = .bcast → ¬(root ∧ st.keep = true) → s.spanAt (engineAgent core) (x.dst + st.dst) q data.length →
        s.homeBarred core (x.dst + st.dst) data.length = false →
        t.mem.bytes q data.length = data ∧ s.memKeptBut t q data.length ∧ tells t (max c.pg step) step) ∧
      (k.fails = [] → st.kind = .barrier → s.memKept t ∧ (c.pgAll < k.n → root → tells t step step) ∧ (c.pgAll < k.n → ¬ root → tells t step c.dg) ∧
        (k.n ≤ c.pgAll → tells t c.pg step)) ∧
      (k.fails = [] → ((st.kind = .bcast ∧ root ∧ st.keep = true) ∨ (st.kind = .barrier ∧ (root ∨ k.n ≤ c.pgAll))) → k.n = x.last →
        t.core core = (s.core core).upd x.seq (fun y => y.ended 0 0 0)) ∧
      ∀ a b q, k.fails = [] → st.kind = .reduce → root → c.size = 2 → k.parts = [some a, some b] → x.ty = 3 → x.rop = 0 →
        s.spanAt (engineAgent core) (x.dst + st.dst) q (st.len / 4 * 4) → s.homeBarred core (x.dst + st.dst) (st.len / 4 * 4) = false →
        (∀ i, i < st.len / 4 → t.num (q + 4 * i) 4 = (numAt a (4 * i) 4 + numAt b (4 * i) 4) % 2 ^ 32) ∧ s.memKeptBut t q (st.len / 4 * 4) ∧ tells t c.pg step)) ∧
  ∀ (s : State) p c cid r, (∀ n : GaugeNotice, n.cid = cid → s.Runs .collectiveGaugeNotice (.collectiveGaugeNotice p n) fun t =>
      (s.commAt p cid = none → (s.polder p).saves = [] → t = s) ∧
      (s.commAt p cid = some c → c.noticeWrong n = true → s.aborts t p c.members c.part cid 3 ∧ ∃ y, t.commAt p cid = some y ∧ y.stopped = true) ∧
      (s.commAt p cid = some c → c.noticeWrong n = false → s.Keeps t [] [] [p.toPolder] [] ∧ s.Plans t [(0, .chunkStart p.toPolder)] ∧ ∃ y, t.commAt p cid = some y ∧
        y.peer n.rank = { c.peer n.rank with
          pg := max (c.peer n.rank).pg (n.base + n.pg), dg := max (c.peer n.rank).dg (n.base + n.dg), sig := n.sig, step := n.base + n.step } ∧
        ∀ k, k ≠ n.rank → y.peer k = c.peer k)) ∧
    (s.commAt p cid = some c → c.cid = cid →
      (s.Runs .collectiveNoticeResend (.collectiveNoticeResend p cid r) fun t => s.Keeps t [] [] [] [] ∧
        s.Plans t [(8 + s.way p (s.memberAt p (c.members.getD r (0, 0))), .collectiveGaugeNotice (s.memberAt p (c.members.getD r (0, 0))) c.notice)]) ∧
      (s.Runs .absentAnswer (.absentAnswer p cid r) fun t => s.Keeps t [] [] [p.toPolder] [] ∧ s.Plans t [(0, .chunkStart p.toPolder)] ∧
        (t.polder p).collRunning ≠ some cid ∧ ∃ y, t.commAt p cid = some y ∧ y.chunk = none ∧ (y.peer r).absent = true ∧ y.pg = c.pg ∧ y.dg = c.dg) ∧
      s.Runs .returnNotice (.returnNotice p cid r) fun t => s.Keeps t [] [] [p.toPolder] [] ∧ s.Plans t [(0, .chunkStart p.toPolder)] ∧
        ∃ y, t.commAt p cid = some y ∧ (y.peer r).absent = false ∧ y.chunk = c.chunk ∧ y.pg = c.pg ∧ y.dg = c.dg)

/-- R349 to R352: ABORT stops a communicator at a member, which keeps the unwind, ends the commands it has not accepted with 0x12 and answers with its step; the initiator
closes the step when all have answered or the wait ends, and the agreed step is the least that it received; AGREE halts the communicator, marks its record and posts one 0x12
record, and DONE goes back; a second ABORT of a halted communicator is ignored; a member that hears no AGREE becomes an initiator, as does one that system software asks; a
member that is dry to the initiator counts as not answering. The slice knows every communicator that system software has built there (R281), by its record. -/
def Obligations.CommunicatorsUnwind : Prop :=
  (∀ (s : State) p cid why ini,
    let u := (Act.enterBuilt p).run s
    s.Keeps u [] [] [p.toPolder] [] ∧
    (∀ a c, a ∈ (s.polder p).built → s.readComm p.toPolder a = some c → c.stopped = false → (u.commAt p c.cid).isSome = true) ∧
    s.Runs .abortPacket (.abortPacket p cid why ini) fun t =>
    (cid ∈ (u.polder p).halted → t = u) ∧
    (u.abortAt p cid = none → u.memberComm p cid = none → t = u) ∧
    ∀ c, cid ∉ (u.polder p).halted → u.abortAt p cid = none → u.commAt p cid = some c → (u.polder p).part = some c.part →
      (u.tidLoc p.dev c.mtid).toPolder = p.toPolder →
      u.memKept t ∧ u.ctxsKept t ∧ (∃ y, t.commAt p cid = some y ∧ y.stopped = true) ∧
      (∃ a, a ∈ (t.polder p).aborts ∧ a.cid = cid ∧ a.reason = why ∧ a.initiator = ini ∧ a.members = c.members ∧ a.rank = c.rank ∧ a.answers = []) ∧
      (∀ i e ptr r, i < 8 → e ∈ (t.core { p.toPolder with core := i }).ring → e.op = .eq3 ptr r →
        polderView { p.toPolder with core := i } (bits (numAt r 0 8) 39 0) = c.record → e.phase ≠ .dispatched) ∧
      u.tells t p ini c.part (.stepPacket ini.toPolder cid c.rank (u.ctx (u.tidLoc p.dev c.mtid)).step.toNat) ∧
      u.planned t (if ini.toPolder = p.toPolder then 2 ^ 20 else 2 ^ 21)
        (if ini.toPolder = p.toPolder then .stepWaitTimeout p.toPolder cid else .agreeTimeout p.toPolder cid)) ∧
  (∀ (s : State) p cid a, s.abortAt p cid = some a → a.cid = cid → a.initiator = p → a.closed = false → a.agreed = none →
    (∀ x ∈ a.answers, s.memberDry p a x.1 = false) →
    let agrees (t : State) (xs : List (Nat × Nat)) (v : Nat) : Prop :=
      s.Keeps t [] [] [p.toPolder] [] ∧ (∀ x ∈ xs, v ≤ x.2) ∧ (∃ x ∈ xs, v = x.2) ∧
      t.abortAt p cid = some { a with answers := xs, closed := true, agreed := some v } ∧
      ∀ x ∈ xs, s.tells t p (s.memberAt p (a.members.getD x.1 (0, 0))) a.part (.agreePacket (s.memberAt p (a.members.getD x.1 (0, 0))) cid v a.reason)
    (a.answers ≠ [] → s.Runs .stepWaitTimeout (.stepWaitTimeout p cid) fun t => ∃ v, agrees t a.answers v) ∧
    ∀ r v, s.Runs .stepPacket (.stepPacket p cid r v) fun t =>
      let xs := a.answers.filter (fun q => q.1 != r) ++ [(r, v)]
      (s.memberDry p a r = true → t = s) ∧
      (s.memberDry p a r = false → a.members.length ≤ xs.length → ∃ w, agrees t xs w) ∧
      (s.memberDry p a r = false → xs.length < a.members.length →
        s.Keeps t [] [] [p.toPolder] [] ∧ s.Plans t [] ∧ t.abortAt p cid = some { a with answers := xs })) ∧
  (∀ (s : State) p cid v why, s.Inv → s.Runs .agreePacket (.agreePacket p cid v why) fun t =>
    (cid ∈ (s.polder p).halted → t = s) ∧
    ∀ a k, cid ∉ (s.polder p).halted → s.abortAt p cid = some a → a.cid = cid → s.recordAt p a.record k → (s.polder p).part = some a.part →
      (s.tidLoc p.dev a.mtid).toPolder = p.toPolder → s.homeBarred p a.record 48 = false →
      let l := s.tidLoc p.dev a.mtid
      (s.spillState l (s.ctx l) = .room → s.ringCount l (s.ctx l).spillBase 0x10 = 0) →
      let r : FaultRec := ⟨0x12, why, 1, v % 2 ^ 40, 0, v, s.sliceTid p, false⟩
      cid ∈ (t.polder p).halted ∧ t.commAt p cid = none ∧ (t.polder p).collRunning ≠ some cid ∧
      t.word k = Nat.lor (s.word k) (2 ^ 62) ∧ t.word (k + 32) = v % 2 ^ 64 ∧ t.word (k + 40) = s.word (k + 40) / 256 * 256 + why % 256 ∧
      (∀ x, (x < k ∨ k + 8 ≤ x) → (x < k + 32 ∨ k + 48 ≤ x) → t.mem.get x = s.mem.get x) ∧
      ((s.ctx l).state ≠ 0#3 → (s.ctx l).faultQ.length < 8 →
        ∃ o, (t.ctx l).faultQ = (s.ctx l).faultQ ++ [{ r with ovf := o }] ∧ (t.ctx l).duties.abort = true) ∧
      ((s.ctx l).state = 0#3 → (a.part, r) ∈ (t.device p).hostRecs) ∧
      s.tells t p a.initiator a.part (.donePacket a.initiator.toPolder cid a.rank)) ∧
  ∀ (s : State) p cid a c,
    (s.abortAt p cid = some a → a.cid = cid →
      (∀ r, s.Runs .donePacket (.donePacket p cid r) fun t => s.Keeps t [] [] [p.toPolder] [] ∧ s.Plans t [] ∧
        let ds := if r ∈ a.dones then a.dones else a.dones ++ [r]
        let all := ∀ k, k < a.members.length → k ∈ ds ∨ s.memberDry p a k = true
        (a.closed = true → all → t.abortAt p cid = none) ∧
        (a.closed = false ∨ ¬ all → t.abortAt p cid = some { a with dones := ds })) ∧
      s.Runs .agreeTimeout (.agreeTimeout p cid) fun t =>
        (cid ∈ (s.polder p).halted → t = s) ∧
        (cid ∉ (s.polder p).halted → s.Keeps t [] [] [p.toPolder] [] ∧ s.aborts t p a.members a.part cid a.reason ∧
          t.abortAt p cid = some { a with initiator := p, answers := [], dones := [], closed := false, agreed := none })) ∧
    let u := (Act.enterBuilt p).run s
    (u.commAt p cid = some c → c.cid = cid → s.Runs .systemAbort (.systemAbort p cid) fun t =>
      u.Keeps t [] [] [p.toPolder] [] ∧ u.aborts t p c.members c.part cid 4 ∧ t.commAt p cid = some { c with stopped := true })

/-- R17, R28, R329, R331, R352, R459 to R462: an unanswered link tries again after its interval and is lost after sixteen; a lost link leaves dry what it alone reached; a cut
worm is closed, discarded and counted, and a packet that a router has poisoned is dropped, a read answered with 0x11; a die without power loses its agents and is dry; a package without power loses all its state; bring-up goes on to the step that fails;
`podpos`, the attestation mailbox, an island's clock and a readmission take what is written. -/
def Obligations.PowerAndLinks : Prop := ∀ (s : State) d,
  (∀ i ev link again time n, (i, ev, link, again, time) ∈
      [(Instr.linkRetry, Event.linkRetry d link n, link, Event.linkRetry d link (n + 1), if link < 4 then 140 else 1400),
        (.ethernetResend, .ethernetResend d (link - 16) n, 16 + (link - 16), .ethernetResend d (link - 16) (n + 1), 89600)] →
    s.Runs i ev fun t => s.Keeps t [] [] [] [] ∧ (Config.choice s.free % 2 = 0 → s.Plans t []) ∧
      (Config.choice s.free % 2 ≠ 0 → 16 ≤ n → s.Plans t [(0, .linkLost d.toDev link)]) ∧
      (Config.choice s.free % 2 ≠ 0 → n < 16 → s.Plans t [(time, again)])) ∧
  (∀ k, s.Runs .linkLost (.linkLost d k) fun t => s.memKept t ∧ s.ctxsKept t ∧ s.coresKept t ∧
    (t.device d).links = (s.device d).links.map (fun x => if x.id = k then { x with lost := true } else x) ∧
    ∀ o, o.dev ≠ d.dev → s.dryBase d o = false → t.dryBase d o = true → t.isDry d o = true) ∧
  (∀ p, (s.Runs .tailTimeout (.tailTimeout p) fun t => s.Keeps t [] [] [] [] ∧ s.Plans t [(0, .poisonedWormDiscard p.toPolder true)]) ∧
    (∀ torn, torn = true ∨ s.inbound p = [] → s.Runs .poisonedWormDiscard (.poisonedWormDiscard p torn) fun t =>
      s.Keeps t [] [] [p.toPolder] [] ∧ s.Plans t [] ∧ t.polder p = { s.polder p with counters := bumpIn 0x360 1 (s.polder p).counters }) ∧
    ∀ w, s.inbound p = [w] → s.Runs .poisonedWormDiscard (.poisonedWormDiscard p false) fun t => s.Keeps t [] [] [p.toPolder] [] ∧
      t.polder p = { s.polder p with counters := bumpIn 0x360 1 (s.polder p).counters } ∧ (∀ q, q ≠ w → (q ∈ s.agenda → q ∈ t.agenda)) ∧
      (∀ c m, w.work = .event (.messageArrival c m) → w ∉ t.agenda) ∧
      ∀ l ep n rd ans, w.work = .event (.loadReply l ep n rd ans) → s.planned t (w.due - s.now) (.loadReply l ep n rd ⟨0x11, ans.addr, []⟩)) ∧
  (∀ die, s.Runs .diePowerLoss (.diePowerLoss d die) fun t => s.memKept t ∧ die ∈ (t.device d).dieDown ∧
    ∀ l : Loc, ((l.dev = d.dev ∧ l.die = die ∧ l.pidx < 384) → t.ctx l = Context.initial l.ctx ∧ t.core l = CoreState.initial l.toCore ∧
        (∀ q ∈ t.agenda, ∀ ep n, q.work ≠ .fire l ep n) ∧ ∀ src, (s.device src).readmitted = [] → t.isDry src l = true) ∧
      (¬ (l.dev = d.dev ∧ l.die = die ∧ l.pidx < 384) → t.ctx l = s.ctx l ∧ t.core l = s.core l)) ∧
  (∀ i ev, (i, ev) ∈ [(Instr.thermalTrip, Event.thermalTrip d), (.packagePowerLoss, .packagePowerLoss d)] → s.Runs i ev fun t =>
    t.device d = DeviceState.initial ∧ (∀ k, t.mem.get k = if k / 2 ^ 55 = d.dev then 0#8 else s.mem.get k) ∧
    (∀ k, t.side.get k = if 32 * k / 2 ^ 55 = d.dev then 0#8 else s.side.get k) ∧ (∀ k, t.hostMem.get k = s.hostMem.get k) ∧
    ∀ l : Loc, t.ctx l = if l.dev = d.dev then Context.initial l.ctx else s.ctx l) ∧
  (s.Runs .powerOnBringup (.powerOnBringup d) fun t => ((s.device d).power = true → t = s) ∧ ((s.device d).power = false →
    let last := if Config.choice s.free % 6 = 0 then 5 else Config.choice s.free % 6 - 1
    s.Plans t [] ∧ (t.device d).broughtUp = last ∧ (t.device d).power = decide (1 ≤ last) ∧ (t.device d).cycBase = s.now ∧ (t.device d).podpos = 0 ∧
    (t.device d).posWritten = false ∧ (∀ k ∈ (t.device d).links, k.lost = false ∧ (k.trained = true ↔ k.id < 4 ∧ 3 ≤ last)) ∧
    (∀ k, t.mem.get k = if 1 ≤ last ∧ k ∈ deflimKeys d then 2#8 else if k / 2 ^ 55 = d.dev then 0#8 else s.mem.get k) ∧
    ∀ l : Loc, t.ctx l = if l.dev = d.dev then Context.initial l.ctx else s.ctx l)) ∧
  (∀ v, s.Runs .podposWrite (.podposWrite d v) fun t => ((s.device d).enumerable = false → t = s) ∧ ((s.device d).enumerable = true →
    s.Keeps t [] [] [] [d.toDev] ∧ s.Plans t [] ∧ (t.device d).podpos = v % 256 ∧ (t.device d).open = true ∧
    (t.device d).broughtUp = (if (t.device d).links.any fun k => decide (4 ≤ k.id) && k.trained then 6 else 5) ∧
    (t.device d).links = if (s.device d).posWritten then (s.device d).links
      else (s.device d).links.map fun k => if 4 ≤ k.id then { k with trained := bit (Config.choice s.free) k.id } else k)) ∧
  (s.Runs .attestGo (.attestGo d) fun t => ((s.device d).enumerable = false → t = s) ∧ ((s.device d).enumerable = true → s.Keeps t [] [] [] [d.toDev] ∧
    (2 ≤ (s.device d).mst → t.device d = { s.device d with mst := 3 } ∧ s.Plans t []) ∧
    ((s.device d).mst < 2 → t.device d = { s.device d with mst := 2, snapshot := (s.device d).nonce ++ s.configBytes d } ∧
      s.Plans t [(560000000, .attestReportReady d.toDev)]))) ∧
  (s.Runs .attestReportReady (.attestReportReady d) fun t => 2 ≤ (s.device d).mst → s.Keeps t [] [] [] [d.toDev] ∧ s.Plans t [] ∧ (t.device d).mst = 1 ∧
    (t.device d).reports = (s.device d).reports + 1 ∧ (t.device d).report.length = 29968 ∧ (t.device d).report.take 32 = sliceBytes (s.device d).snapshot 0 32 ∧
    ((t.device d).report.drop 168).take 8 = bytesOf 8 ((s.device d).reports + 1)) ∧
  (∀ i khz, s.Runs .clockThrottle (.clockThrottle d i khz) fun t =>
    (khz < 200000 ∨ 1400000 < khz ∨ khz % 50000 ≠ 0 ∨ 1024 ≤ i → t = s) ∧
    (200000 ≤ khz → khz ≤ 1400000 → khz % 50000 = 0 → i < 384 → s.memKept t ∧ (t.polder (Loc.polderOf d.dev i)).khz = khz ∧
      s.Touches t [] [] [Loc.polderOf d.dev i] []) ∧
    (200000 ≤ khz → khz ≤ 1400000 → khz % 50000 = 0 → 384 ≤ i → i < 1024 → s.Keeps t [] [] [] [d.toDev] ∧ s.Plans t [] ∧ (i, khz) ∈ (t.device d).clocks)) ∧
  ∀ o, s.Runs .readmission (.readmission d o) fun t => s.Keeps t [] [] [] [d.toDev] ∧ s.Plans t [] ∧ t.isDry d o = false

/-- R447, R449 to R452, R456, R458: a doorbell takes its value, and an access that is none is counted as an Unsupported Request; a packet is fetched, numbered and begun, or completed with the code of its refusal; `NOP` completes, `RUN` enters a
task record, `LAUNCH` a launch, `WAIT` a registration, a copy hands its next piece to the owner's engine; completed work writes its 16-byte entry and no other byte, and raises its
interrupt; an entry that is unmasked sends what it held. -/
def Obligations.HostPackets : Prop := ∀ (s : State) d q,
  (∀ i ev off size v, (i, ev) ∈ [(Instr.submissionTailWrite, Event.submissionTailWrite d off size v), (.completionHeadWrite, .completionHeadWrite d off size v)] →
    s.Runs i ev fun t =>
      let n := off / 0x1000
      let x := (s.device d).queue n
      let y := (t.device d).queue n
      ((s.device d).enumerable = false → t = s) ∧
      ((s.device d).enumerable = true → accessOk off size (2 ^ 24) = false → s.Keeps t [] [] [] [d.toDev] ∧ s.Plans t [] ∧
        t.device d = { s.device d with unsupported := (s.device d).unsupported + 1 }) ∧
      ((s.device d).enumerable = true → accessOk off size (2 ^ 24) = true →
        s.Keeps t [] [] [] [d.toDev] ∧ y.sqh = x.sqh ∧ y.cqt = x.cqt ∧ (∀ r, r ≠ n → (t.device d).queue r = (s.device d).queue r) ∧
        (off % 0x1000 = 0 → y.sqt = v % 2 ^ 16 % cfgSlots x.cfg) ∧ (off % 0x1000 = 0 → size = 4 → y.cqh = x.cqh ∧ y.held = x.held) ∧
        (off % 0x1000 = 0 → size = 8 → y.cqh = v / 2 ^ 32 % 2 ^ 16 ∧ y.held ≤ x.held) ∧
        (off % 0x1000 = 4 → y.sqt = x.sqt ∧ y.cqh = v % 2 ^ 16 ∧ y.held ≤ x.held) ∧ (off % 0x1000 ≠ 0 → off % 0x1000 ≠ 4 → t = s))) ∧
  (let x := (s.device d).queue q
    let a := cfgRing x.cfg + 64 * x.sqh
    let ws := (List.range 8).map fun i => w64 (numAt (s.hostMem.bytes a 64) (8 * i) 8)
    let tag : HostTag := ⟨q, (s.device d).packets * 2 ^ 16 + bits (cfgWord ws 0) 31 16, bits (cfgWord ws 0) 15 8⟩
    x.q = q → hostQueueReady x = true → s.Runs .packetFetch (.packetFetch d q) fun t => s.Keeps t [] [] [] [d.toDev] ∧
      (Config.hostRefuses (bits (cfgWord x.cfg 3) 19 0) a = true → ((t.device d).queue q).err = true ∧ (t.device d).works = (s.device d).works) ∧
      (Config.hostRefuses (bits (cfgWord x.cfg 3) 19 0) a = false →
        ((t.device d).queue q).sqh = (x.sqh + 1) % cfgSlots x.cfg ∧ ((t.device d).queue q).flying = x.flying + 1 ∧
        (t.device d).works = (s.device d).works ++ [⟨tag, bits (cfgWord ws 0) 51 32, cfgPart x.cfg, (s.device d).revokeGen, x.cfg, 0, 0, 0⟩] ∧
        (s.packetCode d x.cfg ws ≠ 0 → s.planned t 0 (.hostWorkComplete d tag (s.packetCode d x.cfg ws % 256) 0)) ∧
        (s.packetCode d x.cfg ws = 0 → s.planned t 0 (packetEvent d q (ws ++ [w64 tag.tag, w64 tag.vec, 0#64]))))) ∧
  (∀ pkt w, (s.device d).works.find? (fun y => y.tag == packetTag q pkt) = some w →
    let l := cfgPolder d w.cfg
    let a := cfgWord pkt 2
    let b := cfgWord pkt 3
    let left := cfgWord pkt 4
    (s.Runs .hostNop (.hostNop d q pkt) fun t => s.Keeps t [] [] [] [] ∧ s.Plans t [(0, .hostWorkComplete d w.tag 0 0)]) ∧
    (s.Runs .hostRun (.hostRun d q pkt) fun t => s.Keeps t [] [] [l] [] ∧ s.Plans t [(0, .launchGroupPlacement l)] ∧
      ∃ g, (t.polder l).groups = (s.polder l).groups ++ [g] ∧ g.core = { l with core := bits (cfgWord w.cfg 0) 34 32 } ∧ g.part = w.part ∧
        g.entry.pasid = w.pasid ∧ g.entry.origin = .host w.tag ∧ g.entry.words.drop 2 = (pkt.drop 2).take 6) ∧
    (∀ b0 b1, isVirtual a = true → s.readNow ⟨l, w.part, w.pasid, a, 64, false, .line 0 0, false⟩ = .ok b0 → s.readNow ⟨l, w.part, w.pasid, a + 64, 64, false, .line 0 0, false⟩ = .ok b1 →
      let r : LaunchRec := { s.launchRec l (b0 ++ b1) with pasid := w.pasid, part := w.part, crec := 0, sig := 0, host := some w.tag }
      s.launchCause l (b0 ++ b1) = 0 → r.ind = false → s.Runs .hostLaunch (.hostLaunch d q pkt) fun t => s.memKept t ∧
        (r.groups = 0 → s.planned t 0 (.hostWorkComplete r.issuer.toDev w.tag 0 0)) ∧
        (0 < r.groups → ∃ y ∈ (t.device r.issuer).launchQs, y.num = q ∧ (⟨{ r with id := (s.device r.issuer).launchId }, 0⟩ : QueuedLaunch) ∈ y.items)) ∧
    (s.Runs .hostWait (.hostWait d q pkt) fun t =>
      (isVirtual a = false → s.Keeps t [] [] [] [] ∧ s.Plans t [(0, .hostWorkComplete d w.tag 3 0)]) ∧
      (isVirtual a = true → a % 8 ≠ 0 → s.Keeps t [] [] [] [] ∧ s.Plans t [(0, .hostWorkComplete d w.tag 5 0)]) ∧
      ∀ p, isVirtual a = true → a % 8 = 0 →
        let r : Req := ⟨l, w.part, w.pasid, a, 8, false, .watch ⟨l, 0, 0, .hostWait, 0, 0, w.pasid, w.part, a, [w.tag.q, w.tag.tag, w.tag.vec]⟩, false⟩
        s.reaches r p → s.Keeps t [] [] [] [] ∧ ∀ e, e ∈ t.agenda ↔ e ∈ s.agenda ∨ e = s.requestTo r p) ∧
    (s.Runs .hostCopyin (.hostCopyin d q pkt) fun t =>
      (left = 0 → s.Keeps t [] [] [] [] ∧ s.Plans t [(0, .hostWorkComplete d w.tag 0 0)]) ∧
      ∀ p, 0 < left → isVirtual b = true → s.resolve l w.part w.pasid false b false = .ok p → s.routed l p.owner w.part = true → s.isDry l p.owner = false → p.space < 3 →
        s.memKept t ∧ s.ctxsKept t ∧ s.coresKept t ∧ s.devicesKeptBut t d ∧ s.planned t 0 (.transferIssue p.owner.toPolder) ∧
        (∀ e, s.tlbFind l w.part w.pasid b = some e → e.torn = false →
          s.Keeps t [] [] [p.owner.toPolder] [d.toDev] ∧ s.Plans t [(0, .transferIssue p.owner.toPolder)]) ∧
        (t.polder p.owner).internalQ = (s.polder p.owner).internalQ ++ [hostXfer d w .host a (placeHome p) (min left (0x1000 - b % 0x1000))]) ∧
    s.Runs .hostCopyout (.hostCopyout d q pkt) fun t =>
      (left = 0 → s.Keeps t [] [] [] [] ∧ s.Plans t [(0, .hostWorkComplete d w.tag 0 0)]) ∧
      ∀ p, 0 < left → isVirtual a = true → s.resolve l w.part w.pasid false a false = .ok p → s.routed l p.owner w.part = true → s.isDry l p.owner = false → p.space < 3 →
        s.memKept t ∧ s.ctxsKept t ∧ s.coresKept t ∧ s.devicesKeptBut t d ∧ s.planned t 0 (.transferIssue p.owner.toPolder) ∧
        (∀ e, s.tlbFind l w.part w.pasid a = some e → e.torn = false →
          s.Keeps t [] [] [p.owner.toPolder] [d.toDev] ∧ s.Plans t [(0, .transferIssue p.owner.toPolder)]) ∧
        (t.polder p.owner).internalQ = (s.polder p.owner).internalQ ++ [hostXfer d w (.gather 0) (placeHome p) b (min left (0x1000 - a % 0x1000))]) ∧
  (∀ w status value,
    let x := (s.device d).queue q
    let n := cfgDone w.cfg
    let a := cfgDoneRing w.cfg + 16 * (x.cqt % n)
    s.hostMem.wf = true → w.tag.q = q → x.q = q → (s.device d).works.find? (fun y => y.tag == w.tag) = some w → x.err = false →
    s.Runs .hostWorkComplete (.hostWorkComplete d w.tag status value) fun t =>
      (∀ k, t.mem.get k = s.mem.get k) ∧ s.Touches t [] [] [] [d.toDev] ∧ (t.device d).works = (s.device d).works.filter (fun y => y.tag != w.tag) ∧
      (Config.hostRefuses (bits (cfgWord w.cfg 3) 19 0) a = true → s.memKept t ∧ ((t.device d).queue q).err = true) ∧
      (Config.hostRefuses (bits (cfgWord w.cfg 3) 19 0) a = false →
        numAt (t.hostMem.bytes a 16) 0 8 = value % 2 ^ 32 * 2 ^ 32 + status % 2 ^ 12 * 2 ^ 16 + w.tag.tag % 2 ^ 16 ∧
        numAt (t.hostMem.bytes a 16) 8 8 = boolNat x.phase ∧ (∀ k, (k < a ∨ a + 16 ≤ k) → t.hostMem.get k = s.hostMem.get k) ∧
        ((t.device d).queue q).cqt = (x.cqt + 1) % n ∧ ((t.device d).queue q).held = x.held + 1)) ∧
  ∀ i w0 w1, (s.device d).open = true → (s.device d).remap.find? (fun e => e.1 == i) = some (i, w0, w1) →
    s.Runs .remapUnmask (.remapUnmask d i) fun t => s.Keeps t [] [] [] [d.toDev] ∧ s.Plans t [] ∧
      (t.device d).remap.find? (fun e => e.1 == i) = some (i, w0, w1 &&& 0xFFFFFFF9FFFFFFFF#64) ∧
      (t.device d).irqs = (s.device d).irqs ++ (if bit w1.toNat 34 then [(bits w0.toNat 63 2 * 4, bits w1.toNat 31 0)] else [])

/-- R343, R352, R454, R455: a context command is carried out on a context whose state admits it, and otherwise says why not; a requested stop halts a READY context at once and
a RUNNING one whose block has sent no atomic; a fenced polder is dry to everyone. -/
def Obligations.ContextCommands : Prop := ∀ (s : State) l,
  (∀ i ev cmd, (i, ev, cmd) ∈ [(Instr.contextReleaseCmd, Event.contextReleaseCmd l, 1), (.contextEndCmd, .contextEndCmd l, 2), (.contextHaltCmd, .contextHaltCmd l, 3)] →
    s.Runs i ev fun t =>
      ((s.device l).open = false ∨ (s.polder l).cmdBusy = true → t = s) ∧
      ((s.device l).open = true → (s.polder l).cmdBusy = false → (s.polder l).part = none → s.Keeps t [] [] [l.toPolder] [] ∧ (t.polder l).cmdRes = 2) ∧
      ∀ p, (s.device l).open = true → (s.polder l).cmdBusy = false → (s.polder l).part = some p → (s.ctx l).lead = none →
        (t.polder l).cmdWord = cmd * 2 ^ 6 + l.core % 2 ^ 3 * 2 ^ 3 + l.ctx % 2 ^ 3 ∧
        (cmd = 1 → (s.ctx l).state = 3#3 ∨ (s.ctx l).state = 4#3 → s.Keeps t [l] [] [l.toPolder] [] ∧ (t.polder l).cmdRes = 0 ∧ (t.ctx l).state = 1#3 ∧
          (t.ctx l).pc = (s.ctx l).pc ∧ (t.ctx l).sup = (s.ctx l).sup ∧ s.Plans t [(0, .contextDispatch l.toCore)]) ∧
        (cmd = 2 → (s.ctx l).state = 3#3 ∨ (s.ctx l).state = 4#3 → (s.ctx l).window = [] → s.memKept t ∧ (t.polder l).cmdRes = 0 ∧ (t.ctx l).state = 0#3 ∧ (t.ctx l).sup = false ∧
          (s.partOf l, if (s.ctx l).haltCause = 0 then { s.coreRec l 0x0C 0 0 0 0 with src := 3 } else s.coreRec l (s.ctx l).haltCause 0 0 0 0) ∈ (t.device l).hostRecs) ∧
        (cmd = 3 → (s.ctx l).state = 1#3 ∨ (s.ctx l).state = 3#3 → s.Keeps t (l :: aheadPlaces l) [l.toCore] [l.toPolder] [] ∧ (t.polder l).cmdRes = 0 ∧ (t.polder l).cmdBusy = false ∧
          (t.ctx l).state = 4#3 ∧ (t.ctx l).pc = (s.ctx l).pc ∧ (t.ctx l).sup = (s.ctx l).sup) ∧
        (∀ b, cmd = 3 → (s.ctx l).state = 2#3 → (s.ctx l).block = some b → b.namo = 0 → b.awaitsAtomic = false → b.fault = none → b.acts = [] → (s.ctx l).window = [] →
          s.memKept t ∧ (t.polder l).cmdRes = 0 ∧ (t.polder l).cmdBusy = false ∧ (t.ctx l).state = 4#3 ∧ (t.ctx l).pc = w64 b.addr ∧ (t.ctx l).block = none) ∧
        (∀ b, cmd = 3 → (s.ctx l).state = 2#3 → (s.ctx l).block = some b → b.namo ≠ 0 → s.Keeps t [l] [] [l.toPolder] [] ∧ (t.polder l).cmdBusy = true ∧
          t.ctx l = { s.ctx l with stopReq := true }) ∧
        ((s.ctx l).state = 0#3 ∨ (cmd ≠ 3 ∧ ((s.ctx l).state = 1#3 ∨ (s.ctx l).state = 2#3)) ∨ (cmd = 3 ∧ (s.ctx l).state = 4#3) →
          s.Keeps t [] [] [l.toPolder] [] ∧ s.Plans t [] ∧ (t.polder l).cmdRes = 1)) ∧
  (∀ p, (s.device p).open = true → s.Runs .polderStopRequest (.polderStopRequest p) fun t => (t.polder p).stop = true ∧
    ((∀ m ∈ s.polderCtxs p, (s.ctx m).lead = none ∧ (s.ctx m).state ≠ 2#3) → s.memKept t ∧ ∀ m ∈ s.polderCtxs p,
      (t.ctx m).state = (if (s.ctx m).state = 1#3 then 4#3 else (s.ctx m).state) ∧ (t.ctx m).pc = (s.ctx m).pc)) ∧
  ∀ p v, (s.device p).open = true → s.Runs .polderFence (.polderFence p v) fun t => s.memKept t ∧ s.ctxsKept t ∧
    (bit v 7 = true → (t.polder p).fence = true ∧ ∀ src, s.dryBase src.toDev p = false ∨ p.toPolder ∉ (s.device src).readmitted → t.isDry src p = true) ∧
    (bit v 7 = false → s.Plans t [] ∧ s.Keeps t [] [] [p.toPolder] [] ∧ t.polder p = { s.polder p with fence := false })

/-- R271, R315, R346, R436, R447, R454, R457, R458: a revocation marks its PASID and drops its translations, and ends when no earlier packet and no context holds it; an invalidation
drops what it names and ends when the walks before it have; a swap begins unless one goes on, waits for its drain, exchanges the saved sets, and then resumes what it stopped;
a register takes a write that its rule admits. -/
def Obligations.TenancyChanges : Prop := ∀ (s : State) d,
  (∀ v, s.Inv → s.Runs .pasidRevoke (.pasidRevoke d v) fun t =>
    ((s.device d).open = false ∨ (s.device d).revokeBusy = true → t = s) ∧ ((s.device d).open = true → (s.device d).revokeBusy = false →
      (t.device d).revoke = w64 (v % 2 ^ 24) ∧ (t.device d).revokeBusy = true ∧ (t.device d).revokeGen = (s.device d).revokeGen + 1 ∧
      s.planned t 1 (.revocationComplete d.toDev) ∧ s.ctxsKept t ∧ s.coresKept t ∧
      (∀ l : Loc, l.dev = d.dev → ∀ x ∈ (t.polder l).tlb, x.gpa = false → x.part = bits v 23 20 → x.pasid ≠ bits v 19 0) ∧
      (s.pasidEntries d (bits v 23 20) (bits v 19 0) = [] → s.memKept t) ∧
      ∀ a k, s.pasidEntries d (bits v 23 20) (bits v 19 0) = [a] → s.keyOf (s.meshPlace d.dev (a + 7)) = some k → s.isFresh (s.meshPlace d.dev (a + 7)) = false →
        t.mem.get k = s.mem.get k ||| 0x40#8 ∧ s.memKeptBut t k 1)) ∧
  (s.Runs .revocationComplete (.revocationComplete d) fun t =>
    let x := s.device d
    let held := (x.works.any fun w => w.part == bits x.revoke.toNat 23 20 && w.pasid == bits x.revoke.toNat 19 0 && decide (w.gen < x.revokeGen))
      || s.pasidHeld d (bits x.revoke.toNat 23 20) (bits x.revoke.toNat 19 0)
    (x.revokeBusy = false → t = s) ∧ (x.revokeBusy = true → held = true → s.Keeps t [] [] [] [] ∧ s.Plans t [(1, .revocationComplete d.toDev)]) ∧
    (x.revokeBusy = true → held = false → s.Keeps t [] [] [] [d.toDev] ∧ s.Plans t [] ∧ t.device d = { x with revokeBusy := false })) ∧
  (∀ i ev kind v, (i, ev, kind) ∈ [(Instr.invalidatePasid, Event.invalidatePasid d v, 0), (.invalidatePage, .invalidatePage d v, 1),
      (.invalidateStage2, .invalidateStage2 d v, 2), (.invalidatePartition, .invalidatePartition d v, 3)] →
    s.Runs i ev fun t =>
      let w := kind * 2 ^ 61 + bits v 60 0
      ((s.device d).open = false ∨ (s.device d).invalBusy = true → t = s) ∧ ((s.device d).open = true → (s.device d).invalBusy = false →
        s.memKept t ∧ s.ctxsKept t ∧ s.coresKept t ∧ t.device d = { s.device d with inval := w64 w, invalBusy := true, invalPasid := bits (s.device d).revoke.toNat 19 0 } ∧
        s.Plans t [(s.walksEnd d + 1, .invalidationComplete d.toDev)] ∧
        ∀ l : Loc, l.dev = d.dev → (t.polder l).tlb = (s.polder l).tlb.filter fun x => !named w (bits (s.device d).revoke.toNat 19 0) x)) ∧
  (s.Runs .invalidationComplete (.invalidationComplete d) fun t => ((s.device d).invalBusy = false → t = s) ∧ ((s.device d).invalBusy = true →
    s.memKept t ∧ s.ctxsKept t ∧ s.coresKept t ∧ t.device d = { s.device d with invalBusy := false } ∧ s.Plans t [] ∧
    ∀ l : Loc, l.dev = d.dev → (t.polder l).tlb = (s.polder l).tlb.filter fun x => !named (s.device d).inval.toNat (s.device d).invalPasid x)) ∧
  (∀ i ev p v target, (i, ev, target) ∈ [(Instr.partitionSwap, Event.partitionSwap p v, some (v % 16)), (.partitionRemove, .partitionRemove p v, none)] →
    s.Runs i ev fun t => ((s.device p).open = false ∨ (s.polder p).swapping.isSome = true → t = s) ∧
      ((s.device p).open = true → (s.polder p).swapping = none → s.planned t 1 (.swapDrainComplete p.toPolder) ∧
        (t.polder p).swapping = some target ∧ (t.polder p).done = false ∧ (t.polder p).part = (s.polder p).part ∧
        ((∀ l ∈ s.polderCtxs p, (s.ctx l).state = 0#3 ∨ (s.ctx l).state = 4#3) → s.Keeps t [] [] [p.toPolder] []) ∧
        ((∀ l ∈ s.polderCtxs p, (s.ctx l).lead = none) → ∀ l ∈ s.polderCtxs p, (s.ctx l).state = 3#3 → (t.ctx l).state = 4#3 ∧ (t.ctx l).wasSusp = true ∧ (t.ctx l).pc = (s.ctx l).pc))) ∧
  (∀ p target, (s.polder p).swapping = some target → s.Runs .swapDrainComplete (.swapDrainComplete p) fun t =>
    ((s.polder p).swapEnd = true → (t.polder p).done = true ∧ (t.polder p).swapping = none ∧
      ((∀ m ∈ s.polderCtxs p, (s.ctx m).wasSusp = false) → ∀ l ∈ s.polderCtxs p, (s.ctx l).bySwap = true → (s.ctx l).state = 4#3 → (t.ctx l).state = 1#3 ∧ (t.ctx l).bySwap = false ∧ (t.ctx l).pc = (s.ctx l).pc)) ∧
    ((s.polder p).swapEnd = false → s.drained p = false → s.planned t 1 (.swapDrainComplete p.toPolder) ∧ (t.polder p).part = (s.polder p).part) ∧
    ∀ old, (s.polder p).swapEnd = false → s.drained p = true → (s.polder p).part = some old → target ≠ some old →
      (t.polder p).part = target ∧ (t.polder p).swapEnd = true ∧ (target ≠ none → s.saveSet p old ∈ (t.polder p).saves) ∧
      (target = none → (t.polder p).dikes = List.replicate 8 0#64 ∧ (t.polder p).saves = (s.polder p).saves) ∧
      ∀ new, target = some new → (t.polder p).dikes = ((s.polder p).savedOf new).dikes ∧ (t.polder p).watches = ((s.polder p).savedOf new).watches ∧
        ((s.polder p).saves.all (fun v => v.part != new) = true → ∀ l : Loc, l.toPolder = p.toPolder → (t.ctx l).state = 0#3)) ∧
  ∀ off size v, s.Runs .registerWrite (.registerWrite d off size v) fun t =>
    ((s.device d).enumerable = false → t = s) ∧
    ((s.device d).enumerable = true → ((size ≠ 4 ∧ size ≠ 8) ∨ off % size ≠ 0 ∨ 2 ^ 25 < off + size) →
      s.Keeps t [] [] [] [d.toDev] ∧ s.Plans t [] ∧ t.device d = { s.device d with unsupported := (s.device d).unsupported + 1 }) ∧
    (∀ i, i < 384 → size = 4 → off ∈ [0x10000 * i + 0x4004, 0x10000 * i + 0x400C, 0x10000 * i + 0x4014, 0x1880004] → (s.device d).enumerable = true → t = s) ∧
    ((s.device d).open = true → size = 8 → off = 0x1880018 → s.Keeps t [] [] [] [d.toDev] ∧ s.Plans t [] ∧
      (t.device d).pcap = if v % 2 ^ 16 ≤ 3200 then v % 2 ^ 16 else (s.device d).pcap) ∧
    (∀ i o, (s.device d).open = true → size = 8 → i < 384 → off = 0x10000 * i + o → 0x300 ≤ o → o < 0x3C0 → o % 8 = 0 →
      s.Keeps t [] [] [Loc.polderOf d.dev i] [] ∧ s.Plans t [] ∧ t.controlWord (Loc.polderOf d.dev i) o = v % 2 ^ 64) ∧
    ((s.device d).enumerable = true → size = 8 → off = 0x1880010 → s.Keeps t [] [] [] [] ∧ s.Plans t [(0, .podposWrite d.toDev (v % 2 ^ 64))]) ∧
    ((s.device d).enumerable = true → size = 8 → off = 0x1890028 → v % 2 = 1 → s.Keeps t [] [] [] [] ∧ s.Plans t [(0, .attestGo d.toDev)]) ∧
    ((s.device d).posWritten = false → accessOk off size (2 ^ 25) = true → off ≠ 0x1880010 → ¬ (0x1890000 ≤ off ∧ off < 0x1890030) → t = s)

/-! ## The whole machine -/

/-- R44, R45, R48, R138, R186, R206, R239: every instruction form that the specification encodes by hand decodes from its word, as do two words of the slice extension of R243. -/
def Obligations.WordsDecode : Prop := ∀ x ∈ ([
    -- R138
    (0x54081085, .ld32 .always 2#5 8#9 (.into .l 5#7)), (0x580FFF09, .lds8 .always 3#5 0x1FF#9 (.into .r 9#7)), (0x5E128486, .lda .always 4#5 .pod 2#6 (.into .l 6#7)),
    (0x68150000, .stl .always 5#5 .polder 0#6), (0x701A8200, .gadv .always 6#5 .pod 1#6), (0x6A1DC083, .fence .always 7#5 .die .rel (.into .l 3#7)),
    (0x72000094, .watchTask .none (.into .l 20#7)), (0x7C24008C, .amoaq .always .cas .none (.into .l 12#7)), (0x7A340000, .amo .always .decz .none .none),
    -- R186
    (0x82000085, .faddS .always .none (.into .l 5#7)), (0x800E0E86, .fdivD .always (.into .r 7#7) (.into .l 6#7)), (0x84000109, .fmaD .none (.into .r 9#7)),
    (0x88000083, .fcvt .always .f32f64 .none (.into .l 3#7)), (0x8A0C0084, .sfnRsq .always .none (.into .l 4#7)), (0x90080000, .vmul), (0x92000000, .vfma),
    (0x94880000, .vcpy .onTrue), (0xA2040000, .vpopaRelu), (0xAC100000, .venc .auto),
    -- R206
    (0xC0000000, .mmaDd), (0xC4000000, .mmaBb), (0xCE000000, .mmaBk), (0xDA000000, .mmaNn), (0xDC1C0000, .mrot .bk), (0xDE000000, .maccZero .always),
    (0xDE840000, .maccReclaim .onTrue), (0xDE0C0089, .maccQuery .always .none (.into .l 9#7)), (0xDE140000, .maccStorea .always),
    -- R239
    (0xE0031489, .fork .always (.into .x 10#7) (.into .l 9#7)), (0xE2000086, .join .always .none (.into .l 6#7)), (0xE4000000, .send .always), (0xE6000000, .sendb),
    (0xE8030A84, .futr .always (.into .x 5#7) (.into .l 4#7)), (0xEA800000, .futw .onTrue), (0xEC000087, .launch .always .none (.into .l 7#7)),
    (0xEE000183, .compose .always .none (.into .x 3#7)), (0xF0000000, .release .always), (0xF2000282, .cwr .always 1#14 (.into .l 2#7)),
    (0xF4008600, .cww .always 0x43#14), (0xF6000000, .switch .always), (0xF8200017, .sysc .always 2#3 0x17#20), (0xFA000000, .eret .always 0#3), (0xFC000000, .reloc),
    -- the words of spec/04 and of R246 and spec/17
    (0x023C0082, .read 15#5 .none (.into .l 2#7)), (0x04BC0000, .write .onTrue 15#5), (0x07FFFD05, .const 0xFFFE#16 (.into .r 5#7)), (0x22390D04, .divw .always (.into .l 6#7) (.into .r 4#7)),
    (0x364FFF88, .cmpi .always .ltn 0x7FF#11 (.into .x 8#7)), (0x3A221083, .ext .always 1#1 4#6 8#6 (.into .l 3#7)), (0x4430000C, .call .always 3#3 12#20),
    (0x0465138B, .sgadv .polder 6#5 10#5 7#5), (0x006F2F8B, .ssend 6#5 30#5 31#5)] : List (Nat × Instr)),
  decodeTableWord 32 x.1 = some x.2

/-- R44 to R48, R243: decoding the word that the encoder gives a well-formed instruction gives the instruction back, with every operand at every value: as a word of a block with whatever
follows it, or as a word of the slice core. A word has one meaning and drops no bit: it is the word that the encoder gives its instruction. Events have no word, and the base instructions of the
slice core are those of RV32IMC. -/
def Obligations.EncodingsAgree : Prop :=
  (∀ i w, i.wf = true → encode i = some w →
  w < 2 ^ 32 ∧ ((∀ rest, decodeBytes (bytesOf 4 w ++ rest) = .ok (i, rest)) ∨ (w % 128 = 0x0B ∧ decodeSlice w = i))) ∧
  (∀ w i, w < 2 ^ 32 → (decodeWord w = .ok i → encode i = some w) ∧
  (w % 128 = 0x0B → decodeSliceExt w = some i → encode i = some w))

/-- R34, R44, R240, R353: a step takes the first entry of the agenda and lets time pass to it. A due slot of a block in flight runs the instruction that its word decodes to, a
handler's turn the instruction at its `pc` (one outside its region or with an uncorrectable error kills it), and an event its own instruction; an entry of an execution that is over does nothing. -/
def Obligations.StepRunsDecoded : Prop := ∀ (s : State) p rest, s.agenda = p :: rest →
  let u : State := { s with agenda := rest, now := max s.now p.due }
  (∀ l epoch slot b i, p.work = .fire l epoch slot → (s.ctx l).block = some b → b.epoch = epoch → decodeWord (numAt b.bytes (32 + 4 * slot) 4) = .ok i →
    step s = exec i { u with focus := ⟨l, epoch, slot⟩ }) ∧
  (∀ l epoch slot, p.work = .fire l epoch slot → (∀ b, (s.ctx l).block = some b → b.epoch ≠ epoch) → step s = .next u) ∧
  (∀ q gen h, p.work = .slice q gen → (s.polder q).handler = some h → h.gen = gen → s.sliceCode q h true = s.sliceCode q h false →
    let code := s.sliceCode q h false
    let n := if (natOfBytes code) % 4 = 3 then 4 else 2
    (h.pc % 2 = 0 → h.inRegion h.pc n = true → s.codeError q h n = false →
      step s = exec (decodeSlice (natOfBytes code)) { (Act.noteFetch q h.pc code).run u with focus := ⟨q.toPolder, 0, gen⟩ }) ∧
    (h.pc % 2 ≠ 0 ∨ h.inRegion h.pc n = false → step s = .next ((Act.killHandler q h 7).run u)) ∧
    (h.pc % 2 = 0 → h.inRegion h.pc n = true → s.codeError q h n = true → step s = .next ((Act.killPoisoned q h).run u))) ∧
  (∀ q gen, p.work = .slice q gen → (∀ h, (s.polder q).handler = some h → h.gen ≠ gen) → step s = .next u) ∧
  (∀ e i, p.work = .event e → e.instr = some i → step s = exec i { u with cur := e })

/-- R59, R60, R69, R71, R73, R268, R323, R454, R461: after reset the invariant holds; no time has passed, no device is powered, and only its bring-up is due; every context is DORMANT
with its control words zero and the workspace of its number, holds no block and is no guest; the queues are empty; nothing is resident. That memory reads as zero before anything is written
is the model's own choice (notes/assumptions 8), as are the values that notes/assumptions 2 lists. -/
def Obligations.ResetHolds : Prop := State.reset.Inv ∧ State.reset.now = 0 ∧ State.reset.agenda = [⟨0, .event (.powerOnBringup (Loc.device 0))⟩] ∧
  (∀ k, State.reset.mem.get k = 0#8 ∧ State.reset.side.get k = 0#8 ∧ State.reset.hostMem.get k = 0#8) ∧
  (∀ l : Loc, let c := State.reset.ctx l
    c.state = 0#3 ∧ c.wp = BitVec.ofNat 17 (0x1FC00 + 0x80 * l.ctx) ∧ c.fm = 0#64 ∧ c.step = 0#64 ∧ c.trapvec = 0#64 ∧ c.trapframe = 0#64 ∧ c.pasid = 0#20 ∧
    c.home = 0#64 ∧ c.spill = 0#64 ∧ c.sup = false ∧ c.guest = false ∧ c.block = none ∧ c.faultQ = [] ∧ c.rowQ = []) ∧
  (∀ l : Loc, let c := State.reset.core l
    c.ring = [] ∧ c.ports = [[], [], [], []] ∧ c.deque = [] ∧ c.mail = []) ∧
  (∀ l : Loc, let p := State.reset.polder l
    p.part = none ∧ p.dikes = List.replicate 8 0#64 ∧ p.fence = false ∧ p.stop = false ∧ p.watches = [] ∧ p.handler = none ∧ p.tlb = []) ∧
  ∀ l : Loc, (State.reset.device l).power = false ∧ (State.reset.device l).cycBase = 0 ∧ (State.reset.device l).revokeBusy = false

/-- The invariant of Sys2Proof/Safety.lean is kept by every step of every state, whatever the step runs, and time never goes back: the three memories stay in their canonical form,
nothing on the agenda is overdue, and every context, core, polder and device keeps one home. -/
def Obligations.StepKeepsInv : Prop := ∀ s t, s.Inv → step s = .next t → t.Inv ∧ s.now ≤ t.now
end

