-- ==== Sys2Proof/Laws/State.lean ====
section
/-! SUPPORT. One lemma for each field under each effect (all by `rfl`), what the keyed parts read as after each effect,
and the rules of `Act.run`. -/

namespace Sys2Proof.Machine

/-! ## Fields under effects -/

section ctxEffect
variable (s : State) (l : Loc) (f : Context → Context)

@[simp] theorem apply_ctx_now : ((Effect.ctx l f).apply s).now = s.now := rfl
@[simp] theorem apply_ctx_free : ((Effect.ctx l f).apply s).free = s.free := rfl
@[simp] theorem apply_ctx_epoch : ((Effect.ctx l f).apply s).epoch = s.epoch := rfl
@[simp] theorem apply_ctx_focus : ((Effect.ctx l f).apply s).focus = s.focus := rfl
@[simp] theorem apply_ctx_cur : ((Effect.ctx l f).apply s).cur = s.cur := rfl
@[simp] theorem apply_ctx_agenda : ((Effect.ctx l f).apply s).agenda = s.agenda := rfl
@[simp] theorem apply_ctx_mem : ((Effect.ctx l f).apply s).mem = s.mem := rfl
@[simp] theorem apply_ctx_side : ((Effect.ctx l f).apply s).side = s.side := rfl
@[simp] theorem apply_ctx_hostMem : ((Effect.ctx l f).apply s).hostMem = s.hostMem := rfl
@[simp] theorem apply_ctx_ecc : ((Effect.ctx l f).apply s).ecc = s.ecc := rfl
@[simp] theorem apply_ctx_ctxs : ((Effect.ctx l f).apply s).ctxs = assocSet l (f (s.ctx l)) s.ctxs := rfl
@[simp] theorem apply_ctx_cores : ((Effect.ctx l f).apply s).cores = s.cores := rfl
@[simp] theorem apply_ctx_polders : ((Effect.ctx l f).apply s).polders = s.polders := rfl
@[simp] theorem apply_ctx_devices : ((Effect.ctx l f).apply s).devices = s.devices := rfl

end ctxEffect

section coreEffect
variable (s : State) (l : Loc) (f : CoreState → CoreState)

@[simp] theorem apply_core_now : ((Effect.core l f).apply s).now = s.now := rfl
@[simp] theorem apply_core_free : ((Effect.core l f).apply s).free = s.free := rfl
@[simp] theorem apply_core_epoch : ((Effect.core l f).apply s).epoch = s.epoch := rfl
@[simp] theorem apply_core_focus : ((Effect.core l f).apply s).focus = s.focus := rfl
@[simp] theorem apply_core_cur : ((Effect.core l f).apply s).cur = s.cur := rfl
@[simp] theorem apply_core_agenda : ((Effect.core l f).apply s).agenda = s.agenda := rfl
@[simp] theorem apply_core_mem : ((Effect.core l f).apply s).mem = s.mem := rfl
@[simp] theorem apply_core_side : ((Effect.core l f).apply s).side = s.side := rfl
@[simp] theorem apply_core_hostMem : ((Effect.core l f).apply s).hostMem = s.hostMem := rfl
@[simp] theorem apply_core_ecc : ((Effect.core l f).apply s).ecc = s.ecc := rfl
@[simp] theorem apply_core_ctxs : ((Effect.core l f).apply s).ctxs = s.ctxs := rfl
@[simp] theorem apply_core_cores : ((Effect.core l f).apply s).cores = assocSet l.toCore (f (s.core l)) s.cores := rfl
@[simp] theorem apply_core_polders : ((Effect.core l f).apply s).polders = s.polders := rfl
@[simp] theorem apply_core_devices : ((Effect.core l f).apply s).devices = s.devices := rfl

end coreEffect

section polderEffect
variable (s : State) (l : Loc) (f : PolderState → PolderState)

@[simp] theorem apply_polder_now : ((Effect.polder l f).apply s).now = s.now := rfl
@[simp] theorem apply_polder_free : ((Effect.polder l f).apply s).free = s.free := rfl
@[simp] theorem apply_polder_epoch : ((Effect.polder l f).apply s).epoch = s.epoch := rfl
@[simp] theorem apply_polder_focus : ((Effect.polder l f).apply s).focus = s.focus := rfl
@[simp] theorem apply_polder_cur : ((Effect.polder l f).apply s).cur = s.cur := rfl
@[simp] theorem apply_polder_agenda : ((Effect.polder l f).apply s).agenda = s.agenda := rfl
@[simp] theorem apply_polder_mem : ((Effect.polder l f).apply s).mem = s.mem := rfl
@[simp] theorem apply_polder_side : ((Effect.polder l f).apply s).side = s.side := rfl
@[simp] theorem apply_polder_hostMem : ((Effect.polder l f).apply s).hostMem = s.hostMem := rfl
@[simp] theorem apply_polder_ecc : ((Effect.polder l f).apply s).ecc = s.ecc := rfl
@[simp] theorem apply_polder_ctxs : ((Effect.polder l f).apply s).ctxs = s.ctxs := rfl
@[simp] theorem apply_polder_cores : ((Effect.polder l f).apply s).cores = s.cores := rfl
@[simp] theorem apply_polder_polders : ((Effect.polder l f).apply s).polders = assocSet l.toPolder (f (s.polder l)) s.polders := rfl
@[simp] theorem apply_polder_devices : ((Effect.polder l f).apply s).devices = s.devices := rfl

end polderEffect

section deviceEffect
variable (s : State) (l : Loc) (f : DeviceState → DeviceState)

@[simp] theorem apply_device_now : ((Effect.device l f).apply s).now = s.now := rfl
@[simp] theorem apply_device_free : ((Effect.device l f).apply s).free = s.free := rfl
@[simp] theorem apply_device_epoch : ((Effect.device l f).apply s).epoch = s.epoch := rfl
@[simp] theorem apply_device_focus : ((Effect.device l f).apply s).focus = s.focus := rfl
@[simp] theorem apply_device_cur : ((Effect.device l f).apply s).cur = s.cur := rfl
@[simp] theorem apply_device_agenda : ((Effect.device l f).apply s).agenda = s.agenda := rfl
@[simp] theorem apply_device_mem : ((Effect.device l f).apply s).mem = s.mem := rfl
@[simp] theorem apply_device_side : ((Effect.device l f).apply s).side = s.side := rfl
@[simp] theorem apply_device_hostMem : ((Effect.device l f).apply s).hostMem = s.hostMem := rfl
@[simp] theorem apply_device_ecc : ((Effect.device l f).apply s).ecc = s.ecc := rfl
@[simp] theorem apply_device_ctxs : ((Effect.device l f).apply s).ctxs = s.ctxs := rfl
@[simp] theorem apply_device_cores : ((Effect.device l f).apply s).cores = s.cores := rfl
@[simp] theorem apply_device_polders : ((Effect.device l f).apply s).polders = s.polders := rfl
@[simp] theorem apply_device_devices : ((Effect.device l f).apply s).devices = assocSet l.toDev (f (s.device l)) s.devices := rfl

end deviceEffect

section byteEffect
variable (s : State) (k : Nat) (b : Byte)

@[simp] theorem apply_byte_now : ((Effect.byte k b).apply s).now = s.now := rfl
@[simp] theorem apply_byte_free : ((Effect.byte k b).apply s).free = s.free := rfl
@[simp] theorem apply_byte_epoch : ((Effect.byte k b).apply s).epoch = s.epoch := rfl
@[simp] theorem apply_byte_focus : ((Effect.byte k b).apply s).focus = s.focus := rfl
@[simp] theorem apply_byte_cur : ((Effect.byte k b).apply s).cur = s.cur := rfl
@[simp] theorem apply_byte_agenda : ((Effect.byte k b).apply s).agenda = s.agenda := rfl
@[simp] theorem apply_byte_mem : ((Effect.byte k b).apply s).mem = s.mem.put k b := rfl
@[simp] theorem apply_byte_side : ((Effect.byte k b).apply s).side = s.side := rfl
@[simp] theorem apply_byte_hostMem : ((Effect.byte k b).apply s).hostMem = s.hostMem := rfl
@[simp] theorem apply_byte_ecc : ((Effect.byte k b).apply s).ecc = s.ecc := rfl
@[simp] theorem apply_byte_ctxs : ((Effect.byte k b).apply s).ctxs = s.ctxs := rfl
@[simp] theorem apply_byte_cores : ((Effect.byte k b).apply s).cores = s.cores := rfl
@[simp] theorem apply_byte_polders : ((Effect.byte k b).apply s).polders = s.polders := rfl
@[simp] theorem apply_byte_devices : ((Effect.byte k b).apply s).devices = s.devices := rfl

end byteEffect

section sideByteEffect
variable (s : State) (k : Nat) (b : Byte)

@[simp] theorem apply_sideByte_now : ((Effect.sideByte k b).apply s).now = s.now := rfl
@[simp] theorem apply_sideByte_free : ((Effect.sideByte k b).apply s).free = s.free := rfl
@[simp] theorem apply_sideByte_epoch : ((Effect.sideByte k b).apply s).epoch = s.epoch := rfl
@[simp] theorem apply_sideByte_focus : ((Effect.sideByte k b).apply s).focus = s.focus := rfl
@[simp] theorem apply_sideByte_cur : ((Effect.sideByte k b).apply s).cur = s.cur := rfl
@[simp] theorem apply_sideByte_agenda : ((Effect.sideByte k b).apply s).agenda = s.agenda := rfl
@[simp] theorem apply_sideByte_mem : ((Effect.sideByte k b).apply s).mem = s.mem := rfl
@[simp] theorem apply_sideByte_side : ((Effect.sideByte k b).apply s).side = s.side.put k b := rfl
@[simp] theorem apply_sideByte_hostMem : ((Effect.sideByte k b).apply s).hostMem = s.hostMem := rfl
@[simp] theorem apply_sideByte_ecc : ((Effect.sideByte k b).apply s).ecc = s.ecc := rfl
@[simp] theorem apply_sideByte_ctxs : ((Effect.sideByte k b).apply s).ctxs = s.ctxs := rfl
@[simp] theorem apply_sideByte_cores : ((Effect.sideByte k b).apply s).cores = s.cores := rfl
@[simp] theorem apply_sideByte_polders : ((Effect.sideByte k b).apply s).polders = s.polders := rfl
@[simp] theorem apply_sideByte_devices : ((Effect.sideByte k b).apply s).devices = s.devices := rfl

end sideByteEffect

section hostByteEffect
variable (s : State) (k : Nat) (b : Byte)

@[simp] theorem apply_hostByte_now : ((Effect.hostByte k b).apply s).now = s.now := rfl
@[simp] theorem apply_hostByte_free : ((Effect.hostByte k b).apply s).free = s.free := rfl
@[simp] theorem apply_hostByte_epoch : ((Effect.hostByte k b).apply s).epoch = s.epoch := rfl
@[simp] theorem apply_hostByte_focus : ((Effect.hostByte k b).apply s).focus = s.focus := rfl
@[simp] theorem apply_hostByte_cur : ((Effect.hostByte k b).apply s).cur = s.cur := rfl
@[simp] theorem apply_hostByte_agenda : ((Effect.hostByte k b).apply s).agenda = s.agenda := rfl
@[simp] theorem apply_hostByte_mem : ((Effect.hostByte k b).apply s).mem = s.mem := rfl
@[simp] theorem apply_hostByte_side : ((Effect.hostByte k b).apply s).side = s.side := rfl
@[simp] theorem apply_hostByte_hostMem : ((Effect.hostByte k b).apply s).hostMem = s.hostMem.put k b := rfl
@[simp] theorem apply_hostByte_ecc : ((Effect.hostByte k b).apply s).ecc = s.ecc := rfl
@[simp] theorem apply_hostByte_ctxs : ((Effect.hostByte k b).apply s).ctxs = s.ctxs := rfl
@[simp] theorem apply_hostByte_cores : ((Effect.hostByte k b).apply s).cores = s.cores := rfl
@[simp] theorem apply_hostByte_polders : ((Effect.hostByte k b).apply s).polders = s.polders := rfl
@[simp] theorem apply_hostByte_devices : ((Effect.hostByte k b).apply s).devices = s.devices := rfl

end hostByteEffect

section keepEffect
variable (s : State) (p : Nat → Bool)

@[simp] theorem apply_keep_now : ((Effect.keep p).apply s).now = s.now := rfl
@[simp] theorem apply_keep_free : ((Effect.keep p).apply s).free = s.free := rfl
@[simp] theorem apply_keep_epoch : ((Effect.keep p).apply s).epoch = s.epoch := rfl
@[simp] theorem apply_keep_focus : ((Effect.keep p).apply s).focus = s.focus := rfl
@[simp] theorem apply_keep_cur : ((Effect.keep p).apply s).cur = s.cur := rfl
@[simp] theorem apply_keep_agenda : ((Effect.keep p).apply s).agenda = s.agenda := rfl
@[simp] theorem apply_keep_mem : ((Effect.keep p).apply s).mem = s.mem.keep p := rfl
@[simp] theorem apply_keep_side : ((Effect.keep p).apply s).side = s.side := rfl
@[simp] theorem apply_keep_hostMem : ((Effect.keep p).apply s).hostMem = s.hostMem := rfl
@[simp] theorem apply_keep_ecc : ((Effect.keep p).apply s).ecc = s.ecc := rfl
@[simp] theorem apply_keep_ctxs : ((Effect.keep p).apply s).ctxs = s.ctxs := rfl
@[simp] theorem apply_keep_cores : ((Effect.keep p).apply s).cores = s.cores := rfl
@[simp] theorem apply_keep_polders : ((Effect.keep p).apply s).polders = s.polders := rfl
@[simp] theorem apply_keep_devices : ((Effect.keep p).apply s).devices = s.devices := rfl

end keepEffect

section sideKeepEffect
variable (s : State) (p : Nat → Bool)

@[simp] theorem apply_sideKeep_now : ((Effect.sideKeep p).apply s).now = s.now := rfl
@[simp] theorem apply_sideKeep_free : ((Effect.sideKeep p).apply s).free = s.free := rfl
@[simp] theorem apply_sideKeep_epoch : ((Effect.sideKeep p).apply s).epoch = s.epoch := rfl
@[simp] theorem apply_sideKeep_focus : ((Effect.sideKeep p).apply s).focus = s.focus := rfl
@[simp] theorem apply_sideKeep_cur : ((Effect.sideKeep p).apply s).cur = s.cur := rfl
@[simp] theorem apply_sideKeep_agenda : ((Effect.sideKeep p).apply s).agenda = s.agenda := rfl
@[simp] theorem apply_sideKeep_mem : ((Effect.sideKeep p).apply s).mem = s.mem := rfl
@[simp] theorem apply_sideKeep_side : ((Effect.sideKeep p).apply s).side = s.side.keep p := rfl
@[simp] theorem apply_sideKeep_hostMem : ((Effect.sideKeep p).apply s).hostMem = s.hostMem := rfl
@[simp] theorem apply_sideKeep_ecc : ((Effect.sideKeep p).apply s).ecc = s.ecc := rfl
@[simp] theorem apply_sideKeep_ctxs : ((Effect.sideKeep p).apply s).ctxs = s.ctxs := rfl
@[simp] theorem apply_sideKeep_cores : ((Effect.sideKeep p).apply s).cores = s.cores := rfl
@[simp] theorem apply_sideKeep_polders : ((Effect.sideKeep p).apply s).polders = s.polders := rfl
@[simp] theorem apply_sideKeep_devices : ((Effect.sideKeep p).apply s).devices = s.devices := rfl

end sideKeepEffect

section schedEffect
variable (s : State) (d : Nat) (w : Work)

@[simp] theorem apply_sched_now : ((Effect.sched d w).apply s).now = s.now := rfl
@[simp] theorem apply_sched_free : ((Effect.sched d w).apply s).free = s.free := rfl
@[simp] theorem apply_sched_epoch : ((Effect.sched d w).apply s).epoch = s.epoch := rfl
@[simp] theorem apply_sched_focus : ((Effect.sched d w).apply s).focus = s.focus := rfl
@[simp] theorem apply_sched_cur : ((Effect.sched d w).apply s).cur = s.cur := rfl
@[simp] theorem apply_sched_agenda : ((Effect.sched d w).apply s).agenda = schedule ⟨s.now + d, w⟩ s.agenda := rfl
@[simp] theorem apply_sched_mem : ((Effect.sched d w).apply s).mem = s.mem := rfl
@[simp] theorem apply_sched_side : ((Effect.sched d w).apply s).side = s.side := rfl
@[simp] theorem apply_sched_hostMem : ((Effect.sched d w).apply s).hostMem = s.hostMem := rfl
@[simp] theorem apply_sched_ecc : ((Effect.sched d w).apply s).ecc = s.ecc := rfl
@[simp] theorem apply_sched_ctxs : ((Effect.sched d w).apply s).ctxs = s.ctxs := rfl
@[simp] theorem apply_sched_cores : ((Effect.sched d w).apply s).cores = s.cores := rfl
@[simp] theorem apply_sched_polders : ((Effect.sched d w).apply s).polders = s.polders := rfl
@[simp] theorem apply_sched_devices : ((Effect.sched d w).apply s).devices = s.devices := rfl

end schedEffect

section cancelEffect
variable (s : State) (p : Work → Bool)

@[simp] theorem apply_cancel_now : ((Effect.cancel p).apply s).now = s.now := rfl
@[simp] theorem apply_cancel_free : ((Effect.cancel p).apply s).free = s.free := rfl
@[simp] theorem apply_cancel_epoch : ((Effect.cancel p).apply s).epoch = s.epoch := rfl
@[simp] theorem apply_cancel_focus : ((Effect.cancel p).apply s).focus = s.focus := rfl
@[simp] theorem apply_cancel_cur : ((Effect.cancel p).apply s).cur = s.cur := rfl
@[simp] theorem apply_cancel_agenda : ((Effect.cancel p).apply s).agenda = s.agenda.filter fun q => !p q.work := rfl
@[simp] theorem apply_cancel_mem : ((Effect.cancel p).apply s).mem = s.mem := rfl
@[simp] theorem apply_cancel_side : ((Effect.cancel p).apply s).side = s.side := rfl
@[simp] theorem apply_cancel_hostMem : ((Effect.cancel p).apply s).hostMem = s.hostMem := rfl
@[simp] theorem apply_cancel_ecc : ((Effect.cancel p).apply s).ecc = s.ecc := rfl
@[simp] theorem apply_cancel_ctxs : ((Effect.cancel p).apply s).ctxs = s.ctxs := rfl
@[simp] theorem apply_cancel_cores : ((Effect.cancel p).apply s).cores = s.cores := rfl
@[simp] theorem apply_cancel_polders : ((Effect.cancel p).apply s).polders = s.polders := rfl
@[simp] theorem apply_cancel_devices : ((Effect.cancel p).apply s).devices = s.devices := rfl

end cancelEffect

section tickFreeEffect
variable (s : State)

@[simp] theorem apply_tickFree_now : (Effect.tickFree.apply s).now = s.now := rfl
@[simp] theorem apply_tickFree_free : (Effect.tickFree.apply s).free = s.free + 1 := rfl
@[simp] theorem apply_tickFree_epoch : (Effect.tickFree.apply s).epoch = s.epoch := rfl
@[simp] theorem apply_tickFree_focus : (Effect.tickFree.apply s).focus = s.focus := rfl
@[simp] theorem apply_tickFree_cur : (Effect.tickFree.apply s).cur = s.cur := rfl
@[simp] theorem apply_tickFree_agenda : (Effect.tickFree.apply s).agenda = s.agenda := rfl
@[simp] theorem apply_tickFree_mem : (Effect.tickFree.apply s).mem = s.mem := rfl
@[simp] theorem apply_tickFree_side : (Effect.tickFree.apply s).side = s.side := rfl
@[simp] theorem apply_tickFree_hostMem : (Effect.tickFree.apply s).hostMem = s.hostMem := rfl
@[simp] theorem apply_tickFree_ecc : (Effect.tickFree.apply s).ecc = s.ecc := rfl
@[simp] theorem apply_tickFree_ctxs : (Effect.tickFree.apply s).ctxs = s.ctxs := rfl
@[simp] theorem apply_tickFree_cores : (Effect.tickFree.apply s).cores = s.cores := rfl
@[simp] theorem apply_tickFree_polders : (Effect.tickFree.apply s).polders = s.polders := rfl
@[simp] theorem apply_tickFree_devices : (Effect.tickFree.apply s).devices = s.devices := rfl

end tickFreeEffect

section tickEpochEffect
variable (s : State)

@[simp] theorem apply_tickEpoch_now : (Effect.tickEpoch.apply s).now = s.now := rfl
@[simp] theorem apply_tickEpoch_free : (Effect.tickEpoch.apply s).free = s.free := rfl
@[simp] theorem apply_tickEpoch_epoch : (Effect.tickEpoch.apply s).epoch = s.epoch + 1 := rfl
@[simp] theorem apply_tickEpoch_focus : (Effect.tickEpoch.apply s).focus = s.focus := rfl
@[simp] theorem apply_tickEpoch_cur : (Effect.tickEpoch.apply s).cur = s.cur := rfl
@[simp] theorem apply_tickEpoch_agenda : (Effect.tickEpoch.apply s).agenda = s.agenda := rfl
@[simp] theorem apply_tickEpoch_mem : (Effect.tickEpoch.apply s).mem = s.mem := rfl
@[simp] theorem apply_tickEpoch_side : (Effect.tickEpoch.apply s).side = s.side := rfl
@[simp] theorem apply_tickEpoch_hostMem : (Effect.tickEpoch.apply s).hostMem = s.hostMem := rfl
@[simp] theorem apply_tickEpoch_ecc : (Effect.tickEpoch.apply s).ecc = s.ecc := rfl
@[simp] theorem apply_tickEpoch_ctxs : (Effect.tickEpoch.apply s).ctxs = s.ctxs := rfl
@[simp] theorem apply_tickEpoch_cores : (Effect.tickEpoch.apply s).cores = s.cores := rfl
@[simp] theorem apply_tickEpoch_polders : (Effect.tickEpoch.apply s).polders = s.polders := rfl
@[simp] theorem apply_tickEpoch_devices : (Effect.tickEpoch.apply s).devices = s.devices := rfl

end tickEpochEffect

section focusEffect
variable (s : State) (f : Focus)

@[simp] theorem apply_focus_now : ((Effect.focus f).apply s).now = s.now := rfl
@[simp] theorem apply_focus_free : ((Effect.focus f).apply s).free = s.free := rfl
@[simp] theorem apply_focus_epoch : ((Effect.focus f).apply s).epoch = s.epoch := rfl
@[simp] theorem apply_focus_focus : ((Effect.focus f).apply s).focus = f := rfl
@[simp] theorem apply_focus_cur : ((Effect.focus f).apply s).cur = s.cur := rfl
@[simp] theorem apply_focus_agenda : ((Effect.focus f).apply s).agenda = s.agenda := rfl
@[simp] theorem apply_focus_mem : ((Effect.focus f).apply s).mem = s.mem := rfl
@[simp] theorem apply_focus_side : ((Effect.focus f).apply s).side = s.side := rfl
@[simp] theorem apply_focus_hostMem : ((Effect.focus f).apply s).hostMem = s.hostMem := rfl
@[simp] theorem apply_focus_ecc : ((Effect.focus f).apply s).ecc = s.ecc := rfl
@[simp] theorem apply_focus_ctxs : ((Effect.focus f).apply s).ctxs = s.ctxs := rfl
@[simp] theorem apply_focus_cores : ((Effect.focus f).apply s).cores = s.cores := rfl
@[simp] theorem apply_focus_polders : ((Effect.focus f).apply s).polders = s.polders := rfl
@[simp] theorem apply_focus_devices : ((Effect.focus f).apply s).devices = s.devices := rfl

end focusEffect

section eccEffect
variable (s : State) (f : List Nat → List Nat)

@[simp] theorem apply_ecc_now : ((Effect.ecc f).apply s).now = s.now := rfl
@[simp] theorem apply_ecc_free : ((Effect.ecc f).apply s).free = s.free := rfl
@[simp] theorem apply_ecc_epoch : ((Effect.ecc f).apply s).epoch = s.epoch := rfl
@[simp] theorem apply_ecc_focus : ((Effect.ecc f).apply s).focus = s.focus := rfl
@[simp] theorem apply_ecc_cur : ((Effect.ecc f).apply s).cur = s.cur := rfl
@[simp] theorem apply_ecc_agenda : ((Effect.ecc f).apply s).agenda = s.agenda := rfl
@[simp] theorem apply_ecc_mem : ((Effect.ecc f).apply s).mem = s.mem := rfl
@[simp] theorem apply_ecc_side : ((Effect.ecc f).apply s).side = s.side := rfl
@[simp] theorem apply_ecc_hostMem : ((Effect.ecc f).apply s).hostMem = s.hostMem := rfl
@[simp] theorem apply_ecc_ecc : ((Effect.ecc f).apply s).ecc = f s.ecc := rfl
@[simp] theorem apply_ecc_ctxs : ((Effect.ecc f).apply s).ctxs = s.ctxs := rfl
@[simp] theorem apply_ecc_cores : ((Effect.ecc f).apply s).cores = s.cores := rfl
@[simp] theorem apply_ecc_polders : ((Effect.ecc f).apply s).polders = s.polders := rfl
@[simp] theorem apply_ecc_devices : ((Effect.ecc f).apply s).devices = s.devices := rfl

end eccEffect

section forgetEffect
variable (s : State) (f g : Loc → Bool)

@[simp] theorem apply_forget_now : ((Effect.forget f g).apply s).now = s.now := rfl
@[simp] theorem apply_forget_free : ((Effect.forget f g).apply s).free = s.free := rfl
@[simp] theorem apply_forget_epoch : ((Effect.forget f g).apply s).epoch = s.epoch := rfl
@[simp] theorem apply_forget_focus : ((Effect.forget f g).apply s).focus = s.focus := rfl
@[simp] theorem apply_forget_cur : ((Effect.forget f g).apply s).cur = s.cur := rfl
@[simp] theorem apply_forget_agenda : ((Effect.forget f g).apply s).agenda = s.agenda := rfl
@[simp] theorem apply_forget_mem : ((Effect.forget f g).apply s).mem = s.mem := rfl
@[simp] theorem apply_forget_side : ((Effect.forget f g).apply s).side = s.side := rfl
@[simp] theorem apply_forget_hostMem : ((Effect.forget f g).apply s).hostMem = s.hostMem := rfl
@[simp] theorem apply_forget_ecc : ((Effect.forget f g).apply s).ecc = s.ecc := rfl
@[simp] theorem apply_forget_ctxs : ((Effect.forget f g).apply s).ctxs = s.ctxs.filter fun p => !f p.1 := rfl
@[simp] theorem apply_forget_cores : ((Effect.forget f g).apply s).cores = s.cores.filter fun p => !f p.1 := rfl
@[simp] theorem apply_forget_polders : ((Effect.forget f g).apply s).polders = s.polders.filter fun p => !g p.1 := rfl
@[simp] theorem apply_forget_devices : ((Effect.forget f g).apply s).devices = s.devices := rfl

end forgetEffect

/-! ## Keyed lookups -/

/-- Looking up the key that was set. -/
@[simp] theorem lookupD_assocSet_same {α : Type} (k : Loc) (d v : α) (ps : List (Loc × α)) :
    lookupD k d (assocSet k v ps) = v := by
  induction ps with
  | nil => simp [assocSet, lookupD]
  | cons p ps ih =>
    simp only [assocSet]
    split
    · simp [lookupD]
    · simp [lookupD, *]

/-- Looking up another key. -/
theorem lookupD_assocSet_other {α : Type} {j k : Loc} (h : j ≠ k) (d v : α) (ps : List (Loc × α)) :
    lookupD j d (assocSet k v ps) = lookupD j d ps := by
  induction ps with
  | nil => simp [assocSet, lookupD, Ne.symm h]
  | cons p ps ih =>
    simp only [assocSet]
    split
    · next e => simp [lookupD, e, Ne.symm h]
    · simp only [lookupD, ih]

@[simp] theorem toCore_toCore (l : Loc) : l.toCore.toCore = l.toCore := rfl
@[simp] theorem toPolder_toPolder (l : Loc) : l.toPolder.toPolder = l.toPolder := rfl
@[simp] theorem toCore_toPolder (l : Loc) : l.toCore.toPolder = l.toPolder := rfl
@[simp] theorem toPolder_toCore (l : Loc) : l.toPolder.toCore = l.toPolder := rfl
@[simp] theorem toPolder_toDev (l : Loc) : l.toPolder.toDev = l.toDev := rfl
@[simp] theorem toCore_toDev (l : Loc) : l.toCore.toDev = l.toDev := rfl
@[simp] theorem toDev_toDev (l : Loc) : l.toDev.toDev = l.toDev := rfl

/-! ## The parts of the machine under effects -/

/-- The part that was changed. -/
@[simp] theorem ctx_apply_ctx (l : Loc) (f : Context → Context) (s : State) :
    ((Effect.ctx l f).apply s).ctx l = f (s.ctx l) := by
  simp [State.ctx]

/-- Another part. -/
theorem ctx_apply_ctx_other (l m : Loc) (f : Context → Context) (s : State) (h : m ≠ l) :
    ((Effect.ctx l f).apply s).ctx m = s.ctx m := by
  simp [State.ctx, lookupD_assocSet_other h]

@[simp] theorem ctx_apply_core (m : Loc) (l : Loc) (f : CoreState → CoreState) (s : State) : ((Effect.core l f).apply s).ctx m = s.ctx m := rfl
@[simp] theorem ctx_apply_polder (m : Loc) (l : Loc) (f : PolderState → PolderState) (s : State) : ((Effect.polder l f).apply s).ctx m = s.ctx m := rfl
@[simp] theorem ctx_apply_device (m : Loc) (l : Loc) (f : DeviceState → DeviceState) (s : State) : ((Effect.device l f).apply s).ctx m = s.ctx m := rfl
@[simp] theorem ctx_apply_byte (m : Loc) (k : Nat) (b : Byte) (s : State) : ((Effect.byte k b).apply s).ctx m = s.ctx m := rfl
@[simp] theorem ctx_apply_sideByte (m : Loc) (k : Nat) (b : Byte) (s : State) : ((Effect.sideByte k b).apply s).ctx m = s.ctx m := rfl
@[simp] theorem ctx_apply_hostByte (m : Loc) (k : Nat) (b : Byte) (s : State) : ((Effect.hostByte k b).apply s).ctx m = s.ctx m := rfl
@[simp] theorem ctx_apply_keep (m : Loc) (p : Nat → Bool) (s : State) : ((Effect.keep p).apply s).ctx m = s.ctx m := rfl
@[simp] theorem ctx_apply_sideKeep (m : Loc) (p : Nat → Bool) (s : State) : ((Effect.sideKeep p).apply s).ctx m = s.ctx m := rfl
@[simp] theorem ctx_apply_sched (m : Loc) (d : Nat) (w : Work) (s : State) : ((Effect.sched d w).apply s).ctx m = s.ctx m := rfl
@[simp] theorem ctx_apply_cancel (m : Loc) (p : Work → Bool) (s : State) : ((Effect.cancel p).apply s).ctx m = s.ctx m := rfl
@[simp] theorem ctx_apply_tickFree (m : Loc) (s : State) : (Effect.tickFree.apply s).ctx m = s.ctx m := rfl
@[simp] theorem ctx_apply_tickEpoch (m : Loc) (s : State) : (Effect.tickEpoch.apply s).ctx m = s.ctx m := rfl
@[simp] theorem ctx_apply_focus (m : Loc) (f : Focus) (s : State) : ((Effect.focus f).apply s).ctx m = s.ctx m := rfl
@[simp] theorem ctx_apply_ecc (m : Loc) (f : List Nat → List Nat) (s : State) : ((Effect.ecc f).apply s).ctx m = s.ctx m := rfl

/-- The part that was changed. -/
@[simp] theorem core_apply_core (l : Loc) (f : CoreState → CoreState) (s : State) :
    ((Effect.core l f).apply s).core l = f (s.core l) := by
  simp [State.core]

/-- Another part. -/
theorem core_apply_core_other (l m : Loc) (f : CoreState → CoreState) (s : State) (h : m.toCore ≠ l.toCore) :
    ((Effect.core l f).apply s).core m = s.core m := by
  simp [State.core, lookupD_assocSet_other h]

@[simp] theorem core_apply_ctx (m : Loc) (l : Loc) (f : Context → Context) (s : State) : ((Effect.ctx l f).apply s).core m = s.core m := rfl
@[simp] theorem core_apply_polder (m : Loc) (l : Loc) (f : PolderState → PolderState) (s : State) : ((Effect.polder l f).apply s).core m = s.core m := rfl
@[simp] theorem core_apply_device (m : Loc) (l : Loc) (f : DeviceState → DeviceState) (s : State) : ((Effect.device l f).apply s).core m = s.core m := rfl
@[simp] theorem core_apply_byte (m : Loc) (k : Nat) (b : Byte) (s : State) : ((Effect.byte k b).apply s).core m = s.core m := rfl
@[simp] theorem core_apply_sideByte (m : Loc) (k : Nat) (b : Byte) (s : State) : ((Effect.sideByte k b).apply s).core m = s.core m := rfl
@[simp] theorem core_apply_hostByte (m : Loc) (k : Nat) (b : Byte) (s : State) : ((Effect.hostByte k b).apply s).core m = s.core m := rfl
@[simp] theorem core_apply_keep (m : Loc) (p : Nat → Bool) (s : State) : ((Effect.keep p).apply s).core m = s.core m := rfl
@[simp] theorem core_apply_sideKeep (m : Loc) (p : Nat → Bool) (s : State) : ((Effect.sideKeep p).apply s).core m = s.core m := rfl
@[simp] theorem core_apply_sched (m : Loc) (d : Nat) (w : Work) (s : State) : ((Effect.sched d w).apply s).core m = s.core m := rfl
@[simp] theorem core_apply_cancel (m : Loc) (p : Work → Bool) (s : State) : ((Effect.cancel p).apply s).core m = s.core m := rfl
@[simp] theorem core_apply_tickFree (m : Loc) (s : State) : (Effect.tickFree.apply s).core m = s.core m := rfl
@[simp] theorem core_apply_tickEpoch (m : Loc) (s : State) : (Effect.tickEpoch.apply s).core m = s.core m := rfl
@[simp] theorem core_apply_focus (m : Loc) (f : Focus) (s : State) : ((Effect.focus f).apply s).core m = s.core m := rfl
@[simp] theorem core_apply_ecc (m : Loc) (f : List Nat → List Nat) (s : State) : ((Effect.ecc f).apply s).core m = s.core m := rfl

/-- The part that was changed. -/
@[simp] theorem polder_apply_polder (l : Loc) (f : PolderState → PolderState) (s : State) :
    ((Effect.polder l f).apply s).polder l = f (s.polder l) := by
  simp [State.polder]

/-- Another part. -/
theorem polder_apply_polder_other (l m : Loc) (f : PolderState → PolderState) (s : State) (h : m.toPolder ≠ l.toPolder) :
    ((Effect.polder l f).apply s).polder m = s.polder m := by
  simp [State.polder, lookupD_assocSet_other h]

@[simp] theorem polder_apply_ctx (m : Loc) (l : Loc) (f : Context → Context) (s : State) : ((Effect.ctx l f).apply s).polder m = s.polder m := rfl
@[simp] theorem polder_apply_core (m : Loc) (l : Loc) (f : CoreState → CoreState) (s : State) : ((Effect.core l f).apply s).polder m = s.polder m := rfl
@[simp] theorem polder_apply_device (m : Loc) (l : Loc) (f : DeviceState → DeviceState) (s : State) : ((Effect.device l f).apply s).polder m = s.polder m := rfl
@[simp] theorem polder_apply_byte (m : Loc) (k : Nat) (b : Byte) (s : State) : ((Effect.byte k b).apply s).polder m = s.polder m := rfl
@[simp] theorem polder_apply_sideByte (m : Loc) (k : Nat) (b : Byte) (s : State) : ((Effect.sideByte k b).apply s).polder m = s.polder m := rfl
@[simp] theorem polder_apply_hostByte (m : Loc) (k : Nat) (b : Byte) (s : State) : ((Effect.hostByte k b).apply s).polder m = s.polder m := rfl
@[simp] theorem polder_apply_keep (m : Loc) (p : Nat → Bool) (s : State) : ((Effect.keep p).apply s).polder m = s.polder m := rfl
@[simp] theorem polder_apply_sideKeep (m : Loc) (p : Nat → Bool) (s : State) : ((Effect.sideKeep p).apply s).polder m = s.polder m := rfl
@[simp] theorem polder_apply_sched (m : Loc) (d : Nat) (w : Work) (s : State) : ((Effect.sched d w).apply s).polder m = s.polder m := rfl
@[simp] theorem polder_apply_cancel (m : Loc) (p : Work → Bool) (s : State) : ((Effect.cancel p).apply s).polder m = s.polder m := rfl
@[simp] theorem polder_apply_tickFree (m : Loc) (s : State) : (Effect.tickFree.apply s).polder m = s.polder m := rfl
@[simp] theorem polder_apply_tickEpoch (m : Loc) (s : State) : (Effect.tickEpoch.apply s).polder m = s.polder m := rfl
@[simp] theorem polder_apply_focus (m : Loc) (f : Focus) (s : State) : ((Effect.focus f).apply s).polder m = s.polder m := rfl
@[simp] theorem polder_apply_ecc (m : Loc) (f : List Nat → List Nat) (s : State) : ((Effect.ecc f).apply s).polder m = s.polder m := rfl

/-- The part that was changed. -/
@[simp] theorem device_apply_device (l : Loc) (f : DeviceState → DeviceState) (s : State) :
    ((Effect.device l f).apply s).device l = f (s.device l) := by
  simp [State.device]

/-- Another part. -/
theorem device_apply_device_other (l m : Loc) (f : DeviceState → DeviceState) (s : State) (h : m.toDev ≠ l.toDev) :
    ((Effect.device l f).apply s).device m = s.device m := by
  simp [State.device, lookupD_assocSet_other h]

@[simp] theorem device_apply_ctx (m : Loc) (l : Loc) (f : Context → Context) (s : State) : ((Effect.ctx l f).apply s).device m = s.device m := rfl
@[simp] theorem device_apply_core (m : Loc) (l : Loc) (f : CoreState → CoreState) (s : State) : ((Effect.core l f).apply s).device m = s.device m := rfl
@[simp] theorem device_apply_polder (m : Loc) (l : Loc) (f : PolderState → PolderState) (s : State) : ((Effect.polder l f).apply s).device m = s.device m := rfl
@[simp] theorem device_apply_byte (m : Loc) (k : Nat) (b : Byte) (s : State) : ((Effect.byte k b).apply s).device m = s.device m := rfl
@[simp] theorem device_apply_sideByte (m : Loc) (k : Nat) (b : Byte) (s : State) : ((Effect.sideByte k b).apply s).device m = s.device m := rfl
@[simp] theorem device_apply_hostByte (m : Loc) (k : Nat) (b : Byte) (s : State) : ((Effect.hostByte k b).apply s).device m = s.device m := rfl
@[simp] theorem device_apply_keep (m : Loc) (p : Nat → Bool) (s : State) : ((Effect.keep p).apply s).device m = s.device m := rfl
@[simp] theorem device_apply_sideKeep (m : Loc) (p : Nat → Bool) (s : State) : ((Effect.sideKeep p).apply s).device m = s.device m := rfl
@[simp] theorem device_apply_sched (m : Loc) (d : Nat) (w : Work) (s : State) : ((Effect.sched d w).apply s).device m = s.device m := rfl
@[simp] theorem device_apply_cancel (m : Loc) (p : Work → Bool) (s : State) : ((Effect.cancel p).apply s).device m = s.device m := rfl
@[simp] theorem device_apply_tickFree (m : Loc) (s : State) : (Effect.tickFree.apply s).device m = s.device m := rfl
@[simp] theorem device_apply_tickEpoch (m : Loc) (s : State) : (Effect.tickEpoch.apply s).device m = s.device m := rfl
@[simp] theorem device_apply_focus (m : Loc) (f : Focus) (s : State) : ((Effect.focus f).apply s).device m = s.device m := rfl
@[simp] theorem device_apply_ecc (m : Loc) (f : List Nat → List Nat) (s : State) : ((Effect.ecc f).apply s).device m = s.device m := rfl
@[simp] theorem device_apply_forget (m : Loc) (f g : Loc → Bool) (s : State) : ((Effect.forget f g).apply s).device m = s.device m := rfl

/-! ## Programs of effects -/

@[simp] theorem run_skip (s : State) : Act.skip.run s = s := rfl
@[simp] theorem run_fx (e : Effect) (s : State) : (Act.fx e).run s = e.apply s := rfl
@[simp] theorem run_seq (a b : Act) (s : State) : (Act.seq a b).run s = b.run (a.run s) := rfl
@[simp] theorem run_read (k : State → Act) (s : State) : (Act.read k).run s = (k s).run s := rfl
@[simp] theorem run_all_nil (s : State) : (Act.all []).run s = s := rfl
@[simp] theorem run_all_cons (a : Act) (as : List Act) (s : State) : (Act.all (a :: as)).run s = (Act.all as).run (a.run s) := rfl
@[simp] theorem run_each_nil {α : Type} (f : α → Act) (s : State) : (Act.each [] f).run s = s := rfl
@[simp] theorem run_each_cons {α : Type} (x : α) (xs : List α) (f : α → Act) (s : State) :
    (Act.each (x :: xs) f).run s = (Act.each xs f).run ((f x).run s) := rfl
@[simp] theorem run_when (c : Bool) (a : Act) (s : State) : (Act.when c a).run s = if c then a.run s else s := by
  cases c <;> rfl

@[simp] theorem run_ctx (l : Loc) (f : Context → Context) (s : State) : (Act.ctx l f).run s = (Effect.ctx l f).apply s := rfl
@[simp] theorem run_core (l : Loc) (f : CoreState → CoreState) (s : State) :
    (Act.core l f).run s = (Effect.core l f).apply s := rfl
@[simp] theorem run_polder (l : Loc) (f : PolderState → PolderState) (s : State) :
    (Act.polder l f).run s = (Effect.polder l f).apply s := rfl
@[simp] theorem run_device (l : Loc) (f : DeviceState → DeviceState) (s : State) :
    (Act.device l f).run s = (Effect.device l f).apply s := rfl
@[simp] theorem run_event (d : Nat) (e : Event) (s : State) :
    (Act.event d e).run s = (Effect.sched d (.event e)).apply s := rfl
@[simp] theorem run_withFree (k : Nat → Act) (s : State) :
    (Act.withFree k).run s = (k s.free).run (Effect.tickFree.apply s) := rfl
@[simp] theorem run_withEpoch (k : Nat → Act) (s : State) :
    (Act.withEpoch k).run s = (k s.epoch).run (Effect.tickEpoch.apply s) := rfl

/-- A property that every effect keeps is kept by every program of effects. -/
theorem run_keeps (P : State → Prop) (h : ∀ e s, P s → P (Effect.apply e s)) (a : Act) (s : State) : P s → P (a.run s) := by
  induction a generalizing s with
  | skip => exact id
  | fx e => exact h e s
  | seq a b iha ihb => exact fun hp => ihb _ (iha _ hp)
  | read k ih => exact ih s s

end Sys2Proof.Machine
end

