-- ==== Sys2Proof/Laws/Firing.lean ====
section
/-! SUPPORT. What the shared operations of a slot's firing do: sending tokens, changing the block, settling it. Each law builds a `Fired`
from the one before. -/

namespace Sys2Proof.Machine

theorem mem_schedule (p q : Pending) (ps : List Pending) : q ∈ schedule p ps ↔ q = p ∨ q ∈ ps := by
  induction ps with
  | nil => simp [schedule]
  | cons r rs ih =>
    simp only [schedule]
    split
    · simp
    · simp only [List.mem_cons, ih]; exact or_left_comm

/-- Two blocks are the same execution of the same bytes. -/
def Block.alike (b c : Block) : Prop := c.epoch = b.epoch ∧ c.addr = b.addr ∧ c.bytes = b.bytes

theorem alike_refl (b : Block) : b.alike b := ⟨rfl, rfl, rfl⟩

/-- The block of a context after `Act.block`. -/
theorem run_block (l : Loc) (f : Block → Block) (s : State) :
    (Act.block l f).run s = (Effect.ctx l fun c => { c with block := c.block.map f }).apply s := rfl

theorem blockAt_some {s : State} {l : Loc} {e : Nat} {b : Block} (h : s.blockAt l e = some b) :
    (s.ctx l).block = some b ∧ b.epoch = e := by
  unfold State.blockAt at h
  split at h
  · next c hc =>
    split at h
    · next he => cases h; exact ⟨hc, he⟩
    · cases h
  · cases h

/-- What a firing has done so far leaves the block in flight where it was. -/
theorem Fired_blockAt {s t : State} {b b' : Block} {xs : List Pending} (hb : s.firingBlock b) (ha : b.alike b') (h : s.Fired t b b' xs) :
    ∃ f w, t.blockAt s.focus.l s.focus.epoch = some { b' with fired := f, waiting := w } := by
  obtain ⟨f, w, hc⟩ := h.own
  refine ⟨f, w, ?_⟩
  have := (blockAt_some hb.1).2
  simp [State.blockAt, hc, ha.1, this]

theorem Fired_focus {s t : State} {b b' : Block} {xs : List Pending} (h : s.Fired t b b' xs) : t.focus = s.focus := by
  rw [h.rest]
theorem Fired_now {s t : State} {b b' : Block} {xs : List Pending} (h : s.Fired t b b' xs) : t.now = s.now := by
  rw [h.rest]

/-- Nothing has happened yet. -/
theorem fired_refl {s : State} {b : Block} (hb : s.firingBlock b) : s.Fired s b b [] := by
  refine ⟨rfl, fun _ _ => rfl, ⟨b.fired, b.waiting, ?_⟩, fun _ h => h, ?_, fun _ h => .inl h⟩
  · rw [← (blockAt_some hb.1).1]
  · simp

/-- The agenda grows by entries that a firing may add. -/
theorem Fired_agenda {s t u : State} {b b' : Block} {xs ys : List Pending} (h : s.Fired t b b' xs)
    (hu : u = { t with agenda := u.agenda }) (hk : ∀ q ∈ t.agenda, q ∈ u.agenda) (hs : ∀ q ∈ ys, q ∈ u.agenda)
    (ho : ∀ q ∈ u.agenda, q ∈ t.agenda ∨ q ∈ ys ∨ s.settling q) : s.Fired u b b' (xs ++ ys) := by
  have hc : ∀ l, u.ctx l = t.ctx l := by intro l; rw [hu]; rfl
  have happ : ∀ q, q ∈ xs ++ ys ↔ q ∈ xs ∨ q ∈ ys := fun q => List.mem_append
  refine ⟨?_, fun l hl => by rw [hc, h.others l hl], ?_, fun q hq => hk q (h.kept q hq), ?_, ?_⟩
  · rw [hu, h.rest]
  · obtain ⟨f, w, e⟩ := h.own
    exact ⟨f, w, by rw [hc, e]⟩
  · intro q hq
    rcases (happ q).1 hq with hq | hq
    · exact hk q (h.sent q hq)
    · exact hs q hq
  · intro q hq
    rcases ho q hq with hq | hq | hq
    · rcases h.only q hq with hq | hq | hq
      · exact .inl hq
      · exact .inr (.inl ((happ q).2 (.inl hq)))
      · exact .inr (.inr hq)
    · exact .inr (.inl ((happ q).2 (.inr hq)))
    · exact .inr (.inr hq)

/-- The block is changed. -/
theorem Fired_block {s t : State} {b b' b'' : Block} {xs : List Pending} {g : Block → Block} (h : s.Fired t b b' xs)
    (hg : ∀ f w, ∃ f' w', g { b' with fired := f, waiting := w } = { b'' with fired := f', waiting := w' }) :
    s.Fired ((Act.block s.focus.l g).run t) b b'' xs := by
  refine ⟨?_, ?_, ?_, h.kept, h.sent, h.only⟩
  · rw [run_block]
    conv => lhs; rw [h.rest]
    rfl
  · intro l hl
    rw [run_block, ctx_apply_ctx_other _ _ _ _ hl, h.others l hl]
  · obtain ⟨f, w, e⟩ := h.own
    obtain ⟨f', w', e'⟩ := hg f w
    exact ⟨f', w', by rw [run_block, ctx_apply_ctx, e]; simp [e']⟩

/-- Scheduling one entry. -/
theorem Fired_sched {s t : State} {b b' : Block} {xs : List Pending} {d : Nat} {w : Work} (h : s.Fired t b b' xs)
    (hq : s.settling ⟨s.now + d, w⟩) : s.Fired ((Act.fx (.sched d w)).run t) b b' xs := by
  have := Fired_agenda (ys := []) (u := (Act.fx (.sched d w)).run t) h rfl (fun q hq => by simp [mem_schedule, hq])
    (by simp) (by
      intro q hq'
      rw [run_fx, apply_sched_agenda, mem_schedule, Fired_now h] at hq'
      rcases hq' with rfl | hq'
      · exact .inr (.inr hq)
      · exact .inl hq')
  simpa using this

/-- Transit depends on the context and on the block's address and bytes alone. -/
theorem transit_alike {s t : State} {b c : Block} {l : Loc} (hl : (t.ctx l).lead = (s.ctx l).lead) (ha : b.alike c) (m n : Nat) :
    t.transit l c m n = s.transit l b m n := by
  have hw : c.hw 0 = b.hw 0 := by simp [Block.hw, ha.2.2]
  simp [State.transit, hl, ha.2.1, hw]

theorem deliver_each {s : State} {b : Block} {lat : Nat} {tok : Token} (ts : List Target) (t : State) (hn : t.now = s.now) :
    ∃ ag, (Act.each ts fun x => match x with
        | .none => Act.skip
        | .into o n => Act.event (lat + s.transit s.focus.l b s.focus.slot n.toNat)
            (.tokenArrival s.focus.l s.focus.epoch o n.toNat tok)).run t = { t with agenda := ag } ∧
      ∀ q, q ∈ ag ↔ q ∈ t.agenda ∨ q ∈ ts.filterMap (s.tokenTo b lat tok) := by
  induction ts generalizing t with
  | nil => exact ⟨t.agenda, rfl, by simp⟩
  | cons x xs ih =>
    cases x with
    | none =>
      obtain ⟨ag, h1, h2⟩ := ih t hn
      exact ⟨ag, by simpa using h1, by simpa [State.tokenTo] using h2⟩
    | into o n =>
      obtain ⟨ag, h1, h2⟩ := ih ((Act.event (lat + s.transit s.focus.l b s.focus.slot n.toNat)
        (.tokenArrival s.focus.l s.focus.epoch o n.toNat tok)).run t) (by simpa using hn)
      refine ⟨ag, by simpa using h1, ?_⟩
      intro q
      rw [h2 q, run_event, apply_sched_agenda, mem_schedule, hn]
      simp only [List.filterMap_cons, State.tokenTo, List.mem_cons]
      rw [or_assoc, or_left_comm]

/-- SENDING TOKENS puts one entry for each target on the agenda and does nothing else. -/
theorem Fired_send {s t : State} {b b' : Block} {xs : List Pending} {lat : Nat} {tok : Token} {ts : List Target}
    (hb : s.firingBlock b) (ha : b.alike b') (h : s.Fired t b b' xs) :
    s.Fired ((Act.send lat tok ts).run t) b b' (xs ++ s.tokensOf b [(lat, tok, ts)]) := by
  obtain ⟨f, w, hat⟩ := Fired_blockAt hb ha h
  have hfo := Fired_focus h
  have hlead : (t.ctx s.focus.l).lead = (s.ctx s.focus.l).lead := by
    obtain ⟨f, w, e⟩ := h.own
    rw [e]
  let c : Block := { b' with fired := f, waiting := w }
  have hrun : (Act.send lat tok ts).run t = (Act.each ts fun x => match x with
        | .none => Act.skip
        | .into o n => Act.event (lat + s.transit s.focus.l b s.focus.slot n.toNat)
            (.tokenArrival s.focus.l s.focus.epoch o n.toNat tok)).run t := by
    have htr : ∀ n, t.transit s.focus.l c s.focus.slot n = s.transit s.focus.l b s.focus.slot n :=
      fun n => transit_alike hlead ⟨ha.1, ha.2.1, ha.2.2⟩ _ _
    simp only [Act.send, Act.deliver, run_read, hfo, hat]
    congr 2
    funext x
    cases x with
    | none => rfl
    | into o n => simp only [← htr]; rfl
  obtain ⟨ag, h1, h2⟩ := deliver_each (s := s) (b := b) (lat := lat) (tok := tok) ts t (Fired_now h)
  rw [hrun, h1]
  refine Fired_agenda h rfl (fun q hq => (h2 q).2 (.inl hq)) ?_ ?_
  · intro q hq
    refine (h2 q).2 (.inr ?_)
    simpa [State.tokensOf] using hq
  · intro q hq
    rcases (h2 q).1 hq with hq | hq
    · exact .inl hq
    · exact .inr (.inl (by simpa [State.tokensOf] using hq))

/-- Offering a slot again. -/
theorem Fired_offer {s t : State} {b b' : Block} {xs : List Pending} {n : Nat} (hb : s.firingBlock b) (ha : b.alike b')
    (h : s.Fired t b b' xs) : s.Fired ((Act.offer s.focus.l s.focus.epoch n).run t) b b' xs := by
  obtain ⟨f, w, hat⟩ := Fired_blockAt hb ha h
  simp only [Act.offer, run_read, hat]
  split
  · split
    · exact h
    · split
      · rw [run_seq]
        exact Fired_sched (Fired_block h fun f w => ⟨_, _, rfl⟩) (.inl ⟨n, rfl⟩)
      · exact Fired_block h fun f w => ⟨_, _, rfl⟩
  · exact h

/-- Waking the block's waiting slots. -/
theorem Fired_wake {s t : State} {b b' : Block} {xs : List Pending} (hb : s.firingBlock b) (ha : b.alike b')
    (h : s.Fired t b b' xs) : s.Fired ((Act.wake s.focus.l).run t) b b' xs := by
  obtain ⟨f, w, hat⟩ := Fired_blockAt hb ha h
  have he := (blockAt_some hat).2
  simp only [Act.wake, run_read, (blockAt_some hat).1]
  have : ∀ (ns : List Nat) (u : State), s.Fired u b b' xs →
      s.Fired ((Act.each ns fun n => Act.offer s.focus.l b'.epoch n).run u) b b' xs := by
    intro ns
    induction ns with
    | nil => exact fun u hu => hu
    | cons n ns ih =>
      intro u hu
      rw [run_each_cons]
      refine ih _ ?_
      simp only at he
      rw [he]
      exact Fired_offer hb ha hu
  exact this _ t h

/-- Settling the block (R38, R41). -/
theorem Fired_settle {s t : State} {b b' : Block} {xs : List Pending} (hb : s.firingBlock b) (ha : b.alike b')
    (h : s.Fired t b b' xs) : s.Fired (Act.settleFocus.run t) b b' xs := by
  have hw := Fired_wake hb ha h
  obtain ⟨f, w, hat⟩ := Fired_blockAt hb ha hw
  simp only [Act.settleFocus, run_read, run_seq, Fired_focus h, Act.settle, hat]
  split
  · exact hw
  · split
    · exact Fired_sched hw (.inr (.inl rfl))
    · rw [run_when]
      split
      · exact Fired_sched hw (.inr (.inr rfl))
      · exact hw

/-- A FIRING WITH ITS PREDICATE TAKEN AND VALUES ON ITS OPERANDS runs its continuation on those values. -/
theorem run_firing {s : State} {b : Block} {p : Pred} {os : List Opnd} {vs : List W64} {a : Act} {k : List W64 → Act}
    (hb : s.firingBlock b) (hp : predFall p (b.tok s .x) = .taken) (hv : b.gives s os vs) :
    (Act.firing p os a k).run s = (k vs).run s := by
  have hl : b.live s.now = true := by simp [Block.live, hb.2]
  have hvs : tokVals (os.map (b.tok s)) = some vs := by
    clear hp
    unfold Block.gives at hv
    induction os generalizing vs with
    | nil => cases vs <;> simp_all [tokVals]
    | cons o os ih =>
      cases vs with
      | nil => simp at hv
      | cons v vs =>
        simp only [List.map_cons, List.cons.injEq] at hv
        simp [tokVals, Block.tok, hv.1, ih hv.2]
  simp [Act.firing, Act.inBlock, hb.1, hl, hp, hvs]

/-- The same for what is done in the block without operands. -/
theorem run_inBlock {s : State} {b : Block} {k : State → Block → Act} (hb : s.firingBlock b) :
    (Act.inBlock k).run s = (k s b).run s := by
  have hl : b.live s.now = true := by simp [Block.live, hb.2]
  simp [Act.inBlock, hb.1, hl]

/-- COMPLETION FROM A SHARED OPERATION: it is enough that the continuation, run on the values, is a firing of the block as claimed. -/
theorem completes_of {i : Instr} {p : Pred} {os : List Opnd} {pre : State → Block → List W64 → Prop}
    {post : State → Block → List W64 → Block} {out : State → Block → List W64 → List Pending} {a : Act} {k : List W64 → Act}
    (he : ∀ s, exec i s = slotStep (.firing p os a k) s)
    (hk : ∀ s b vs, s.firingBlock b → b.gives s os vs → pre s b vs →
      b.alike (post s b vs) ∧ s.Fired ((k vs).run s) b (post s b vs) (out s b vs)) :
    Completes i p os pre post out := by
  intro s b vs hb hp hv hpre
  obtain ⟨ha, hf⟩ := hk s b vs hb hv hpre
  refine ⟨_, ?_, Fired_settle hb ha hf⟩
  rw [he, slotStep, done, run_seq, run_firing hb hp hv]

/-- A value from one operand. -/
theorem delivers_unary {i : Instr} {p : Pred} {lat : Nat} {ts : List Target} {f : W64 → W64} {g : List W64 → W64}
    (he : ∀ s, exec i s = slotStep (.unary p lat ts f) s) (hg : ∀ vs, g vs = f (arg vs 0)) :
    Delivers i p [.l] ts (fun _ => lat) g := by
  refine completes_of he fun s b vs hb _ _ => ⟨alike_refl b, ?_⟩
  rw [hg]
  exact Fired_send (xs := []) hb (alike_refl b) (fired_refl hb)

/-- A value from two operands, with a latency that they decide. -/
theorem delivers_binaryTimed {i : Instr} {p : Pred} {lat : W64 → W64 → Nat} {ts : List Target} {f : W64 → W64 → W64}
    {g : List W64 → W64} {n : List W64 → Nat} (he : ∀ s, exec i s = slotStep (.binaryTimed p lat ts f) s)
    (hg : ∀ vs, g vs = f (arg vs 0) (arg vs 1)) (hn : ∀ vs, n vs = lat (arg vs 0) (arg vs 1)) : Delivers i p [.l, .r] ts n g := by
  refine completes_of he fun s b vs hb _ _ => ⟨alike_refl b, ?_⟩
  rw [hg, hn]
  exact Fired_send (xs := []) hb (alike_refl b) (fired_refl hb)

/-- A value from two operands. -/
theorem delivers_binary {i : Instr} {p : Pred} {lat : Nat} {ts : List Target} {f : W64 → W64 → W64} {g : List W64 → W64}
    (he : ∀ s, exec i s = slotStep (.binary p lat ts f) s) (hg : ∀ vs, g vs = f (arg vs 0) (arg vs 1)) :
    Delivers i p [.l, .r] ts (fun _ => lat) g := by
  refine completes_of he fun s b vs hb _ _ => ⟨alike_refl b, ?_⟩
  rw [hg]
  exact Fired_send (xs := []) hb (alike_refl b) (fired_refl hb)

/-- Putting one event on the agenda. -/
theorem Fired_event {s t : State} {b b' : Block} {xs : List Pending} {d : Nat} {e : Event} (h : s.Fired t b b' xs) :
    s.Fired ((Act.event d e).run t) b b' (xs ++ [⟨s.now + d, .event e⟩]) := by
  refine Fired_agenda (ys := [⟨s.now + d, .event e⟩]) h rfl (fun q hq => by simp [mem_schedule, hq]) ?_ ?_
  · intro q hq
    rw [run_event, apply_sched_agenda, mem_schedule, Fired_now h]
    exact .inl (by simpa using hq)
  · intro q hq'
    rw [run_event, apply_sched_agenda, mem_schedule, Fired_now h] at hq'
    rcases hq' with rfl | hq'
    · exact .inr (.inl (by simp))
    · exact .inl hq'

/-- A FAULT OF THE STEP'S SLOT: the block keeps it and is to be abandoned. -/
theorem Fired_fault {s : State} {b : Block} {c d a : Nat} (hb : s.firingBlock b) (hc : c ≠ 0x11) :
    s.Fired ((Act.fault c d a).run s) b { b with fault := some ⟨s.now, s.focus.slot, c, if c = 1 then s.focus.slot else d, a⟩ }
      [⟨s.now, .event (.blockAbandon s.focus.l s.focus.epoch)⟩] := by
  have h0 : (c == 0x11) = false := by simpa using hc
  have hs : ∀ t : State, (Act.when false (Act.count s.focus.l 0x358)).run t = t := fun _ => rfl
  simp only [Act.fault, Act.raise, run_read, run_seq, h0, hs, hb.1, hb.2, Bool.not_false, run_when, if_true]
  exact Fired_event (d := 0) (xs := []) (Fired_block (fired_refl hb) fun f w => ⟨_, _, rfl⟩)

/-- An instruction whose continuation is a fault. -/
theorem faults_of {i : Instr} {p : Pred} {os : List Opnd} {pre : State → Block → List W64 → Prop} {c d : Nat} {a : List W64 → Nat}
    {n : Act} {k : List W64 → Act}
    (hc : c ≠ 0x11) (he : ∀ s, exec i s = slotStep (.firing p os n k) s)
    (hk : ∀ s b vs, s.firingBlock b → b.gives s os vs → pre s b vs → (k vs).run s = (Act.fault c d (a vs)).run s) : Faults i p os pre c d a := by
  refine completes_of he fun s b vs hb hv hp => ⟨⟨rfl, rfl, rfl⟩, ?_⟩
  rw [hk s b vs hb hv hp]
  exact Fired_fault hb hc

/-- An instruction whose continuation changes its block alone. -/
theorem completes_block {i : Instr} {p : Pred} {os : List Opnd} {pre : State → Block → List W64 → Prop} {post}
    {n : Act} {k : List W64 → Act} (g : State → Block → List W64 → Block → Block)
    (he : ∀ s, exec i s = slotStep (.firing p os n k) s)
    (hpost : ∀ s b vs, b.alike (post s b vs) ∧ ∀ f w, ∃ f' w', g s b vs { b with fired := f, waiting := w } = { post s b vs with fired := f', waiting := w' })
    (hk : ∀ s b vs, s.firingBlock b → b.gives s os vs → pre s b vs → (k vs).run s = (Act.block s.focus.l (g s b vs)).run s) :
    Completes i p os pre post (fun _ _ _ => []) := by
  refine completes_of he fun s b vs hb hv hp => ⟨(hpost s b vs).1, ?_⟩
  rw [hk s b vs hb hv hp]
  exact Fired_block (fired_refl hb) (hpost s b vs).2

/-- An instruction without operands or predicate. -/
theorem completes_inBlock {i : Instr} {k : State → Block → Act} (he : ∀ s, exec i s = slotStep (.inBlock k) s) {pre post out}
   (hf : ∀ s b, s.firingBlock b → pre s b [] → b.alike (post s b []) ∧ s.Fired ((k s b).run s) b (post s b []) (out s b [])) : Completes i .always [] pre post out := by
  intro s b vs hb _ hv hp
  have : vs = [] := by simpa [Block.gives] using hv.symm
  subst this
  refine ⟨_, ?_, Fired_settle hb (hf s b hb hp).1 (hf s b hb hp).2⟩
  rw [he, slotStep, done, run_seq, run_inBlock hb]

/-- A predicated instruction skips. -/
theorem skips_of {i : Instr} {os a k} (he : ∀ s, exec i s = slotStep (.firing (predIs i) os a k) s) : Skips i := by
  intro s b hb hp
  have hl : b.live s.now = true := by simp [Block.live, hb.2]
  refine ⟨_, ?_, Fired_settle hb (b' := { b with off := s.focus.slot :: b.off }) ⟨rfl, rfl, rfl⟩ (Fired_block (g := fun b => { b with off := s.focus.slot :: b.off }) (fired_refl hb) fun f w => ⟨_, _, rfl⟩)⟩
  rw [he, slotStep, done, run_seq]
  congr 2
  simp [Act.firing, Act.inBlock, hb.1, hl, hp, Act.predOff]
/-- An unpredicated instruction has no predicate that could fail to match. -/
theorem skips_always {i : Instr} (h : predIs i = .always) : Skips i := by
  intro s b hb hp
  rw [h] at hp
  simp [predFall] at hp
/-- An instruction that sends nulls where it has one. -/
theorem nulls_of {i : Instr} {k} (he : ∀ s, exec i s = slotStep (.firing (predIs i) (inputsOf i) (.send 0 .null (targetsOf i)) k) s) : NullsPass i := by
  intro s b hb ha h
  have hl : b.live s.now = true := by simp [Block.live, hb.2]
  refine ⟨_, ?_, Fired_settle hb (alike_refl b) (Fired_send (xs := []) (lat := 0) (tok := .null) (ts := targetsOf i) hb (alike_refl b) (fired_refl hb))⟩
  rw [he, slotStep, done, run_seq]
  congr 2
  have hn : ∀ os : List Opnd, (∃ o ∈ os, b.operand s.focus.slot o = some .null) → tokVals (os.map (b.tok s)) = none := by
    intro os
    induction os with
    | nil => simp
    | cons o os ih =>
      rintro ⟨x, hx, hnull⟩
      simp only [List.map_cons]
      cases ht : b.tok s o with
      | null => rfl
      | val v =>
        rcases List.mem_cons.1 hx with rfl | hx
        · simp [Block.tok, hnull] at ht
        · simp [tokVals, ih ⟨x, hx, hnull⟩]
  rcases h with h | ⟨h, h2⟩
  · simp [Act.firing, Act.inBlock, hb.1, hl, h]
  · simp [Act.firing, Act.inBlock, hb.1, hl, h, hn _ h2]
end Sys2Proof.Machine
end

