-- ==== Sys2Proof/Laws/Events.lean ====
section
/-! SUPPORT. What the shared operations of the steps of the part do: what they change of the machine, and what they plan. -/

namespace Sys2Proof.Machine

/-! ## What changes -/

theorem touches_refl (s : State) (cs ks ps ds : List Loc) : s.Touches s cs ks ps ds := ⟨fun _ _ => rfl, fun _ _ => rfl, fun _ _ => rfl, fun _ _ => rfl⟩
theorem touches_trans {s t u : State} {cs ks ps ds : List Loc} (h : s.Touches t cs ks ps ds) (k : t.Touches u cs ks ps ds) : s.Touches u cs ks ps ds :=
  ⟨fun l m => (k.ctxs l m).trans (h.ctxs l m), fun l m => (k.cores l m).trans (h.cores l m),
    fun l m => (k.polders l m).trans (h.polders l m), fun l m => (k.devices l m).trans (h.devices l m)⟩

theorem memKept_refl (s : State) : s.memKept s := ⟨fun _ => rfl, fun _ => rfl, fun _ => rfl⟩
theorem memKept_trans {s t u : State} (h : s.memKept t) (k : t.memKept u) : s.memKept u :=
  ⟨fun a => (k.1 a).trans (h.1 a), fun a => (k.2.1 a).trans (h.2.1 a), fun a => (k.2.2 a).trans (h.2.2 a)⟩

theorem keeps_refl (s : State) (cs ks ps ds : List Loc) : s.Keeps s cs ks ps ds := ⟨memKept_refl s, touches_refl s cs ks ps ds⟩
theorem keeps_trans {s t u : State} {cs ks ps ds : List Loc} (h : s.Keeps t cs ks ps ds) (k : t.Keeps u cs ks ps ds) : s.Keeps u cs ks ps ds :=
  ⟨memKept_trans h.1 k.1, touches_trans h.2 k.2⟩

/-- An act, run in any state, changes no memory, and of the agents only those named. -/
def Act.Only (a : Act) (cs ks ps ds : List Loc) : Prop := ∀ s : State, s.Keeps (a.run s) cs ks ps ds

section only
variable {cs ks ps ds : List Loc}

theorem only_skip : Act.skip.Only cs ks ps ds := fun s => keeps_refl s _ _ _ _
theorem only_seq {a b : Act} (ha : a.Only cs ks ps ds) (hb : b.Only cs ks ps ds) : (Act.seq a b).Only cs ks ps ds :=
  fun s => keeps_trans (ha s) (hb _)
theorem only_read {k : State → Act} (h : ∀ s, (k s).Only cs ks ps ds) : (Act.read k).Only cs ks ps ds := fun s => h s s
theorem only_all {as : List Act} (h : ∀ a ∈ as, a.Only cs ks ps ds) : (Act.all as).Only cs ks ps ds := by
  induction as with
  | nil => exact only_skip
  | cons a as ih => exact only_seq (h a (.head _)) (ih fun b hb => h b (.tail _ hb))
theorem only_each {α : Type} {xs : List α} {f : α → Act} (h : ∀ x ∈ xs, (f x).Only cs ks ps ds) : (Act.each xs f).Only cs ks ps ds := by
  refine only_all fun a ha => ?_
  obtain ⟨x, hx, rfl⟩ := List.mem_map.1 ha
  exact h x hx
theorem only_when {c : Bool} {a : Act} (h : c = true → a.Only cs ks ps ds) : (Act.when c a).Only cs ks ps ds := by
  cases c
  · exact only_skip
  · exact h rfl
theorem only_ctx {l : Loc} {f : Context → Context} (h : l ∈ cs) : (Act.ctx l f).Only cs ks ps ds := fun s =>
  ⟨memKept_refl s, fun m hm => ctx_apply_ctx_other _ _ _ _ fun e => hm (e ▸ h), fun _ _ => rfl, fun _ _ => rfl, fun _ _ => rfl⟩
theorem only_core {l : Loc} {f : CoreState → CoreState} (h : l.toCore ∈ ks) : (Act.core l f).Only cs ks ps ds := fun s =>
  ⟨memKept_refl s, fun _ _ => rfl, fun m hm => core_apply_core_other _ _ _ _ fun e => hm (e ▸ h), fun _ _ => rfl, fun _ _ => rfl⟩
theorem only_polder {l : Loc} {f : PolderState → PolderState} (h : l.toPolder ∈ ps) : (Act.polder l f).Only cs ks ps ds := fun s =>
  ⟨memKept_refl s, fun _ _ => rfl, fun _ _ => rfl, fun m hm => polder_apply_polder_other _ _ _ _ fun e => hm (e ▸ h), fun _ _ => rfl⟩
theorem only_device {l : Loc} {f : DeviceState → DeviceState} (h : l.toDev ∈ ds) : (Act.device l f).Only cs ks ps ds := fun s =>
  ⟨memKept_refl s, fun _ _ => rfl, fun _ _ => rfl, fun _ _ => rfl, fun m hm => device_apply_device_other _ _ _ _ fun e => hm (e ▸ h)⟩
theorem only_block {l : Loc} {f : Block → Block} (h : l ∈ cs) : (Act.block l f).Only cs ks ps ds := only_ctx h
theorem only_event {d : Nat} {e : Event} : (Act.event d e).Only cs ks ps ds := fun s =>
  ⟨memKept_refl s, fun _ _ => rfl, fun _ _ => rfl, fun _ _ => rfl, fun _ _ => rfl⟩
theorem only_sched {d : Nat} {w : Work} : (Act.fx (.sched d w)).Only cs ks ps ds := fun s =>
  ⟨memKept_refl s, fun _ _ => rfl, fun _ _ => rfl, fun _ _ => rfl, fun _ _ => rfl⟩
theorem only_cancel {p : Work → Bool} : (Act.fx (.cancel p)).Only cs ks ps ds := fun s =>
  ⟨memKept_refl s, fun _ _ => rfl, fun _ _ => rfl, fun _ _ => rfl, fun _ _ => rfl⟩
theorem only_tickFree : (Act.fx .tickFree).Only cs ks ps ds := fun s =>
  ⟨memKept_refl s, fun _ _ => rfl, fun _ _ => rfl, fun _ _ => rfl, fun _ _ => rfl⟩
theorem only_tickEpoch : (Act.fx .tickEpoch).Only cs ks ps ds := fun s =>
  ⟨memKept_refl s, fun _ _ => rfl, fun _ _ => rfl, fun _ _ => rfl, fun _ _ => rfl⟩
theorem only_withFree {k : Nat → Act} (h : ∀ n, (k n).Only cs ks ps ds) : (Act.withFree k).Only cs ks ps ds :=
  only_read fun s => only_seq only_tickFree (h _)
theorem only_withEpoch {k : Nat → Act} (h : ∀ n, (k n).Only cs ks ps ds) : (Act.withEpoch k).Only cs ks ps ds :=
  only_read fun s => only_seq only_tickEpoch (h _)

theorem only_offer {l : Loc} {ep n : Nat} (h : l ∈ cs) : (Act.offer l ep n).Only cs ks ps ds := by
  refine only_read fun s => ?_
  split
  · split
    · split
      · exact only_skip
      · split
        · exact only_seq (only_block h) only_sched
        · exact only_block h
    · exact only_skip
  · exact only_skip
theorem only_wake {l : Loc} (h : l ∈ cs) : (Act.wake l).Only cs ks ps ds := by
  refine only_read fun s => ?_
  split
  · exact only_each fun n _ => only_offer h
  · exact only_skip
theorem mem_insertBy {α : Type} {f : α → Nat} {x y : α} {xs : List α} : y ∈ insertBy f x xs ↔ y = x ∨ y ∈ xs := by
  induction xs with
  | nil => simp [insertBy]
  | cons z zs ih =>
    unfold insertBy
    split
    · simp
    · simp only [List.mem_cons, ih]; exact or_left_comm
/-- Sorting keeps the members. -/
theorem mem_sortBy {α : Type} {f : α → Nat} {y : α} {xs : List α} : y ∈ sortBy f xs ↔ y ∈ xs := by
  induction xs with
  | nil => rfl
  | cons x xs ih => rw [sortBy, List.foldr_cons, mem_insertBy, ← sortBy, ih, List.mem_cons]
/-- The waiting slots of a core are of its contexts. -/
theorem waitingSlots_at {s : State} {c : Loc} {x} (h : x ∈ s.waitingSlots c) : ∃ k, x.1 = { c with ctx := k } := by
  obtain ⟨k, _, h⟩ := List.mem_flatMap.1 (mem_sortBy.1 h)
  split at h
  · obtain ⟨_, _, rfl⟩ := List.mem_map.1 h
    exact ⟨k, rfl⟩
  · cases h
theorem only_wakeCore {c : Loc} (h : ∀ k, { c with ctx := k } ∈ cs) : (Act.wakeCore c).Only cs ks ps ds :=
  only_read fun s => only_each fun x hx => only_offer (by obtain ⟨k, e⟩ := waitingSlots_at hx; exact e ▸ h k)
theorem only_settle {l : Loc} {ep : Nat} : (Act.settle l ep).Only cs ks ps ds := by
  refine only_read fun s => ?_
  split
  · split
    · exact only_skip
    · split
      · exact only_event
      · exact only_when fun _ => only_event
  · exact only_skip
theorem only_deliver {l : Loc} {ep n lat : Nat} {tok : Token} {ts : List Target} : (Act.deliver l ep n lat tok ts).Only cs ks ps ds := by
  refine only_read fun s => ?_
  split
  · refine only_each fun t _ => ?_
    split
    · exact only_skip
    · exact only_event
  · exact only_skip
theorem only_raise {l : Loc} {ep n c d a : Nat} (h : l ∈ cs) : (Act.raise l ep n c d a).Only cs ks ps ds := by
  refine only_read fun s => ?_
  split
  · exact only_when fun _ => only_seq (only_block h) only_event
  · exact only_skip
theorem only_count {l : Loc} {off : Nat} (h : l.toPolder ∈ ps) : (Act.count l off).Only cs ks ps ds := only_polder h

end only

/-! ## What is planned -/

theorem plans_refl (s : State) : s.Plans s [] := fun q => by simp
theorem plans_event {s t : State} {xs : List (Nat × Event)} {d : Nat} {e : Event} (h : s.Plans t xs) (hn : t.now = s.now) :
    s.Plans ((Act.event d e).run t) (xs ++ [(d, e)]) := by
  intro q
  show q ∈ schedule ⟨t.now + d, .event e⟩ t.agenda ↔ _
  rw [mem_schedule, h q, hn]
  simp only [List.map_append, List.mem_append, List.map_cons, List.map_nil, List.mem_singleton]
  grind

/-! ## A step about a slot -/

/-- The act does the same whatever the focus is. -/
def Act.Blind (a : Act) : Prop := ∀ (s : State) f, a.run { s with focus := f } = { a.run s with focus := f }

theorem blind_skip : Act.skip.Blind := fun _ _ => rfl
theorem blind_seq {a b : Act} (ha : a.Blind) (hb : b.Blind) : (Act.seq a b).Blind := fun s f => by
  rw [run_seq, run_seq, ha, hb]
theorem blind_read {k : State → Act} (h : ∀ (s : State) f, k { s with focus := f } = k s) (hk : ∀ s, (k s).Blind) : (Act.read k).Blind := fun s f => by
  rw [run_read, run_read, h, hk]
theorem blind_all {as : List Act} (h : ∀ a ∈ as, a.Blind) : (Act.all as).Blind := by
  induction as with
  | nil => exact blind_skip
  | cons a as ih => exact blind_seq (h a (.head _)) (ih fun b hb => h b (.tail _ hb))
theorem blind_each {α : Type} {xs : List α} {g : α → Act} (h : ∀ x, (g x).Blind) : (Act.each xs g).Blind := by
  refine blind_all fun a ha => ?_
  obtain ⟨x, _, rfl⟩ := List.mem_map.1 ha
  exact h x
theorem blind_when {c : Bool} {a : Act} (h : a.Blind) : (Act.when c a).Blind := by
  cases c
  · exact blind_skip
  · exact h
theorem blind_ctx {l : Loc} {g : Context → Context} : (Act.ctx l g).Blind := fun _ _ => rfl
theorem blind_block {l : Loc} {g : Block → Block} : (Act.block l g).Blind := fun _ _ => rfl
theorem blind_event {d : Nat} {e : Event} : (Act.event d e).Blind := fun _ _ => rfl
theorem blind_sched {d : Nat} {w : Work} : (Act.fx (.sched d w)).Blind := fun _ _ => rfl
theorem blind_offer {l : Loc} {ep n : Nat} : (Act.offer l ep n).Blind := by
  refine blind_read (fun s f => rfl) fun s => ?_
  split
  · split
    · split
      · exact blind_skip
      · split
        · exact blind_seq blind_block blind_sched
        · exact blind_block
    · exact blind_skip
  · exact blind_skip
theorem blind_wake {l : Loc} : (Act.wake l).Blind := by
  refine blind_read (fun s f => rfl) fun s => ?_
  split
  · exact blind_each fun n => blind_offer
  · exact blind_skip
theorem blind_settle {l : Loc} {ep : Nat} : (Act.settle l ep).Blind := by
  refine blind_read (fun s f => rfl) fun s => ?_
  split
  · split
    · exact blind_skip
    · split
      · exact blind_event
      · exact blind_when blind_event
  · exact blind_skip
theorem blind_deliver {l : Loc} {ep n lat : Nat} {tok : Token} {ts : List Target} : (Act.deliver l ep n lat tok ts).Blind := by
  refine blind_read (fun s f => rfl) fun s => ?_
  split
  · refine blind_each fun t => ?_
    split
    · exact blind_skip
    · exact blind_event
  · exact blind_skip

theorem blind_focus {a : Act} (ha : a.Blind) (s : State) : (a.run s).focus = s.focus := by
  have h := ha s s.focus
  rw [show ({ s with focus := s.focus } : State) = s from rfl] at h
  rw [h]

/-- What the laws of a firing say of an act that does not look at the focus, they say of it at any slot. -/
theorem firedAt_of {s : State} {l : Loc} {ep n : Nat} {b b' : Block} {xs : List Pending} {a : Act} (ha : a.Blind)
    (h : { s with focus := ⟨l, ep, n⟩ }.Fired (a.run { s with focus := ⟨l, ep, n⟩ }) b b' xs) : s.FiredAt (a.run s) l ep n b b' xs := by
  rw [ha] at h
  exact ⟨h, blind_focus ha s⟩

/-- A block changes, tokens are sent, the waiting slots are offered again, and the block is settled. -/
theorem firedAt_settled {s : State} {l : Loc} {ep n : Nat} {b b' : Block} {xs : List Pending} {a : Act}
    (hb : s.blockAt l ep = some b) (hf : b.fault = none) (ha : a.Blind) (hl : b.alike b')
    (h : { s with focus := ⟨l, ep, n⟩ }.Fired (a.run { s with focus := ⟨l, ep, n⟩ }) b b' xs) :
    s.FiredAt ((Act.seq a (.seq (.wake l) (.seq (.settle l ep) .skip))).run s) l ep n b b' xs := by
  refine firedAt_of (blind_seq ha (blind_seq blind_wake (blind_seq blind_settle blind_skip))) ?_
  have h2 := Fired_settle (s := { s with focus := ⟨l, ep, n⟩ }) ⟨hb, hf⟩ hl h
  simp only [Act.settleFocus, run_read, run_seq, Fired_focus h] at h2
  exact h2

/-! ## A failure -/

theorem inFlight_epoch {s : State} {l : Loc} {ep : Nat} {b : Block} (h : s.inFlight l ep b) : b.epoch = ep := (blockAt_some h.1).2

/-- A fault that is the first of its block. -/
theorem run_raise {s : State} {l : Loc} {ep : Nat} {b : Block} (h : s.inFlight l ep b) (n c d a : Nat) :
    s.Fails ((Act.raise l ep n c d a).run s) l b n c (if c = 1 then n else d) a := by
  refine ⟨only_raise (List.mem_singleton.2 rfl) s, ?_, ?_⟩
  · simp only [Act.raise, run_read, h.1, h.2, Bool.not_false, run_when, if_true, run_seq]
    have hb := (blockAt_some h.1).1
    show (Effect.apply _ _).ctx l = _
    simp [run_block, hb]
  · simp only [Act.raise, run_read, h.1, h.2, Bool.not_false, run_when, if_true, run_seq]
    rw [inFlight_epoch h]
    exact plans_event (xs := []) (s := s) (fun q => by simp [run_block]) rfl

end Sys2Proof.Machine
end

