-- ==== Sys2Proof/Laws/Memory.lean ====
section
/-! SUPPORT. Memory as data, access requests on their way to the owner, and the checks of loads and stores. -/

namespace Sys2Proof.Machine

/-! ## Memory as data -/

theorem get_put_same (m : Memory) (a : Nat) (b : Byte) (h : m.wf = true) : (m.put a b).get a = b := by
  have key : ∀ (m : Memory) (lo : Nat), Memory.above lo m = true → (m.put a b).get a = b := by
    intro m
    induction m with
    | nil =>
      intro lo _
      simp only [Memory.put]
      split
      · next e => simp [Memory.get, e]
      · simp [Memory.get]
    | cons c m ih =>
      intro lo h
      have hlow : ∀ (m : Memory) (n : Nat), a < n → Memory.above n m = true → Memory.get a m = unlistedByte := by
        intro m
        induction m with
        | nil => intros; rfl
        | cons d m ih =>
          intro n hn hd
          simp only [Memory.above, Bool.and_eq_true, decide_eq_true_eq] at hd
          have : d.1 ≠ a := by omega
          simp [Memory.get, this, ih (d.1 + 1) (by omega) hd.2]
      simp only [Memory.above, Bool.and_eq_true, decide_eq_true_eq] at h
      simp only [Memory.put]
      split
      · split
        · next hlt e =>
          have : c.1 ≠ a := by omega
          simp [Memory.get, this, hlow m (c.1 + 1) (by omega) h.2, e]
        · simp [Memory.get]
      · split
        · split
          · next e => rw [hlow m (c.1 + 1) (by omega) h.2, e]
          · simp [Memory.get]
        · next h1 h2 =>
          have : c.1 ≠ a := fun e => h2 e.symm
          simp [Memory.get, this, ih (c.1 + 1) h.2]
  exact key m 0 h

theorem get_put_other (m : Memory) (a j : Nat) (b : Byte) (hj : j ≠ a) : (m.put a b).get j = m.get j := by
  induction m with
  | nil =>
    simp only [Memory.put]
    split
    · rfl
    · simp [Memory.get, Ne.symm hj]
  | cons c m ih =>
    simp only [Memory.put]
    split
    · split
      · rfl
      · simp [Memory.get, Ne.symm hj]
    · split
      · next e =>
        split
        · have : c.1 ≠ j := fun h => hj (e ▸ h.symm)
          simp [Memory.get, this]
        · have : c.1 ≠ j := fun h => hj (e ▸ h.symm)
          simp [Memory.get, this, Ne.symm hj]
      · simp [Memory.get, ih]

theorem above_mono (m : Memory) {lo hi : Nat} (h : lo ≤ hi) (hm : Memory.above hi m = true) : Memory.above lo m = true := by
  cases m with
  | nil => rfl
  | cons c m =>
    simp only [Memory.above, Bool.and_eq_true, decide_eq_true_eq] at hm ⊢
    exact ⟨⟨by omega, hm.1.2⟩, hm.2⟩

theorem above_put (m : Memory) (lo a : Nat) (b : Byte) (h : Memory.above lo m = true) (ha : lo ≤ a) :
    Memory.above lo (m.put a b) = true := by
  induction m generalizing lo with
  | nil =>
    simp only [Memory.put]
    split
    · rfl
    · next e => simp [Memory.above, ha, e]
  | cons c m ih =>
    have h' := h
    simp only [Memory.above, Bool.and_eq_true, decide_eq_true_eq] at h
    simp only [Memory.put]
    split
    · split
      · exact h'
      · next hlt e =>
        simp only [Memory.above, Bool.and_eq_true, decide_eq_true_eq]
        refine ⟨⟨ha, by simpa using e⟩, ⟨by omega, h.1.2⟩, h.2⟩
    · split
      · next heq =>
        split
        · exact above_mono m (by omega) h.2
        · next e =>
          simp only [Memory.above, Bool.and_eq_true, decide_eq_true_eq]
          exact ⟨⟨ha, by simpa using e⟩, heq ▸ h.2⟩
      · simp only [Memory.above, Bool.and_eq_true, decide_eq_true_eq]
        exact ⟨h.1, ih (c.1 + 1) h.2 (by omega)⟩

/-- A WRITE KEEPS THE CANONICAL FORM. -/
theorem wf_put (m : Memory) (a : Nat) (b : Byte) (h : m.wf = true) : (m.put a b).wf = true := above_put m 0 a b h (Nat.zero_le _)

theorem above_filter (m : Memory) (lo : Nat) (p : Host.Cell → Bool) (h : Memory.above lo m = true) : Memory.above lo (m.filter p) = true := by
  induction m generalizing lo with
  | nil => rfl
  | cons c m ih =>
    have h' := h
    simp only [Memory.above, Bool.and_eq_true, decide_eq_true_eq] at h
    simp only [List.filter_cons]
    split
    · simp only [Memory.above, Bool.and_eq_true, decide_eq_true_eq]
      exact ⟨h.1, ih _ h.2⟩
    · exact above_mono _ (by omega) (ih _ h.2)

/-- Forgetting addresses keeps the canonical form. -/
theorem wf_keep (m : Memory) (p : Nat → Bool) (h : m.wf = true) : (m.keep p).wf = true := above_filter m 0 _ h

theorem get_keep (m : Memory) (p : Nat → Bool) (a : Nat) : (m.keep p).get a = if p a then m.get a else unlistedByte := by
  induction m with
  | nil => simp [Memory.keep, Memory.get]
  | cons c m ih =>
    unfold Memory.keep at *
    simp only [List.filter_cons]
    split
    · next hp =>
      by_cases hc : c.1 = a
      · simp [Memory.get, hc, hc ▸ hp]
      · simp only [Memory.get, hc, if_false, ih]
    · next hp =>
      by_cases hc : c.1 = a
      · subst hc
        simp [ih, hp]
      · simp only [Memory.get, hc, if_false, ih]

/-! ## Requests (R107, R330) -/

/-- The request as its owner sees it is of the same agent, takes the same time to issue, and differs in its reader line only (R12). -/
theorem reqSeen_cases (r : Req) (q : Place) : reqSeen r q = r
    ∨ (∃ l ep n rd, r.use = .load l ep n rd ∧ reqSeen r q = { r with use := .load l ep n none })
    ∨ ∃ pol rd, r.use = .pref pol rd ∧ reqSeen r q = { r with use := .pref pol none } := by
  unfold reqSeen
  repeat' split
  · next h => exact .inr (.inl ⟨_, _, _, _, h, rfl⟩)
  · next h => exact .inr (.inr ⟨_, _, h, rfl⟩)
  · exact .inl rfl
  · exact .inl rfl

/-- A REQUEST WHOSE PLACE IS KNOWN is on its way, with one free value used. -/
theorem run_submit {s : State} {r : Req} {q : Place} (h : s.reaches r q) (hu : issueCycles r.use = 0) :
    (Act.submit r).run s = { s with free := s.free + 1, agenda := schedule (s.requestTo r q) s.agenda } := by
  obtain ⟨hc, hst, h⟩ := h
  have hgo : (if spaceCause r q ≠ 0 then Act.answer r 1 (spaceCause r q) [] else if reqStops r q = true then Act.skip else Act.sendTo (reqSeen r q) q)
      = Act.sendTo (reqSeen r q) q := by rw [if_neg (by simp [hc]), if_neg (by simp [hst])]
  have hsend : (Act.sendTo (reqSeen r q) q).run s = { s with free := s.free + 1, agenda := schedule (s.requestTo r q) s.agenda } := by
    unfold Act.sendTo Act.arrive State.requestTo
    rw [run_withFree]
    rcases reqSeen_cases r q with h | ⟨l, ep, n, rd, hr, h⟩ | ⟨pol, rd, hr, h⟩ <;> rw [h]
    · cases hr : r.use <;> simp [hr, issueCycles] at hu ⊢ <;> rfl
    · simp [hr, issueCycles]; rfl
    · simp [hr, issueCycles]; rfl
  unfold Act.submit
  simp only [run_read]
  rcases h with ⟨ha, hr⟩ | ⟨ha, hb, hs, hm, rfl⟩ | ⟨ha, hb, hz, t, ht, htorn, hx, hm, rfl, hf⟩
  · simp only [ha, if_true, hr, hgo, hsend]
  · have : ¬ r.addr < 2 ^ 40 := by omega
    simp only [this, if_false, hb, if_true, hs, hm, Bool.and_self, hgo, hsend]
  · have : ¬ r.addr < 2 ^ 40 := by omega
    have hx' : (useIsAmo r.use && t.amoCause != 0) = false := by
      cases hu' : useIsAmo r.use
      · rfl
      · simp [hx hu']
    have hs' : (useIsFetch r.use && (r.addr + r.size - 1) / 0x1000 != r.addr / 0x1000
        && (s.tlbFind r.who r.part r.pasid (r.addr + r.size - 1)).isNone) = false := by
      cases hu' : useIsFetch r.use
      · rfl
      · rcases hf hu' with h | h
        · simp [h]
        · simp [Option.isNone_eq_false_iff.2 h]
    rw [if_neg this]
    simp only [hs', ht]
    simp [hb, hz, htorn, hx', hm, hgo, hsend]

/-- What is sent for a firing, over the state with its free value used. -/
theorem Fired_request {s t u : State} {b b' : Block} {xs : List Pending} {q : Pending} (h : s.Fired t b b' xs)
    (hu : u = { t with free := s.free + 1, agenda := schedule q t.agenda }) :
    { s with free := s.free + 1 }.Fired u b b' (xs ++ [q]) := by
  subst hu
  have h1 : ({ s with free := s.free + 1 } : State).Fired { t with free := s.free + 1 } b b' xs := by
    refine ⟨?_, h.others, h.own, h.kept, h.sent, h.only⟩
    conv => lhs; rw [h.rest]
  refine Fired_agenda (ys := [q]) h1 rfl ?_ ?_ ?_
  · intro x hx; exact (mem_schedule _ _ _).2 (.inr hx)
  · intro x hx; exact (mem_schedule _ _ _).2 (.inl (by simpa using hx))
  · intro x hx
    rcases (mem_schedule _ _ _).1 hx with rfl | hx
    · exact .inr (.inl (by simp))
    · exact .inl hx

/-- An instruction whose continuation, run on its values, is a firing over the state `s0` that has the step's focus. -/
theorem completes_over {i : Instr} {p : Pred} {os : List Opnd} {a : Act} {k : List W64 → Act} {s s0 : State} {b b' : Block} {vs} {xs}
    (he : exec i s = slotStep (.firing p os a k) s) (hb : s.firingBlock b) (hp : predFall p (b.tok s .x) = .taken)
    (hv : b.gives s os vs) (h0 : s0.firingBlock b) (_ : s0.focus = s.focus) (ha : b.alike b') (h : s0.Fired ((k vs).run s) b b' xs) :
    ∃ t, exec i s = .next t ∧ s0.Fired t b b' xs := by
  refine ⟨_, ?_, Fired_settle h0 ha h⟩
  rw [he, slotStep, done, run_seq, run_firing hb hp hv]

/-- A home address is in no declared object. -/
theorem readerOf_home {s : State} {l pasid a} (h : a < 2 ^ 40) : s.readerOf l pasid a = none :=
  if_pos (by rw [decide_eq_true h, Bool.true_or])

/-- A place of a home address: the address has 40 bits. -/
theorem homePlace_lt {l a q} (h : homePlace l a = some q) : a < 2 ^ 40 := by
  unfold homePlace at h
  repeat' split at h
  all_goals first | omega | cases h

/-- The owner of a home place is the polder of the agent. -/
theorem homePlace_owner {l a q} (h : homePlace l a = some q) : q.owner = l.toPolder := by
  unfold homePlace at h
  repeat' split at h
  all_goals first | (cases h; rfl) | cases h

/-- The slot waits for an answer. -/
theorem Fired_pend {s t : State} {b b' : Block} {xs} (h : s.Fired t b b' xs) :
    s.Fired (Act.pend.run t) b { b' with out := s.focus.slot :: b'.out } xs := by
  have hf := Fired_focus h
  simp only [Act.pend, run_read, hf]
  exact Fired_block (g := fun b => { b with out := s.focus.slot :: b.out }) h fun f w => ⟨_, _, rfl⟩

/-- Second-tier keys are those of the polder. -/
theorem tierKey_owner (s : State) (l : Loc) (off : Nat) : s.tierKey l.toPolder off = s.tierKey l off := rfl

/-- A change of the block does not change where a request goes. -/
theorem reaches_pend {s : State} {r q} {f : Block → Block} (h : s.reaches r q) : ((Act.block s.focus.l f).run s).reaches r q := by
  refine ⟨h.1, h.2.1, ?_⟩
  rcases h.2.2 with h | h | h
  · refine .inl ⟨h.1, ?_⟩
    have := h.2
    simp only [State.resolve, h.1, if_true] at this ⊢
    exact this
  · exact .inr (.inl h)
  · exact .inr (.inr h)

/-- Nor when it arrives. -/
theorem requestTo_pend (s : State) (r q) (f : Block → Block) : ((Act.block s.focus.l f).run s).requestTo r q = s.requestTo r q := rfl

/-- A CHANGE OF THE BLOCK AND A REQUEST. -/
theorem Fired_ask {s : State} {b b' : Block} {r : Req} {q : Place} {f : Block → Block} (hb : s.firingBlock b) (hr : s.reaches r q) (hu : issueCycles r.use = 0)
    (hg : ∀ f' w, ∃ f'' w', f { b with fired := f', waiting := w } = { b' with fired := f'', waiting := w' }) :
    ({ s with free := s.free + 1 } : State).Fired ((Act.submit r).run ((Act.block s.focus.l f).run s)) b b' [s.requestTo r q] := by
  rw [run_submit (reaches_pend hr) hu]
  exact Fired_request (xs := []) (Fired_block (fired_refl hb) hg) rfl

/-- A count does not change where a request goes. -/
theorem counted_reaches {s : State} {r q off} (h : s.reaches r q) : (s.counted off).reaches r q := by
  have hp : ∀ l, ∃ c, (s.counted off).polder l = { s.polder l with counters := c } := by
    intro l
    by_cases hl : l.toPolder = s.focus.l.toPolder
    · refine ⟨bumpIn off 1 (s.polder s.focus.l).counters, ?_⟩
      have h1 : (s.counted off).polder l = (s.counted off).polder s.focus.l := by simp [State.polder, hl]
      have h2 : s.polder l = s.polder s.focus.l := by simp [State.polder, hl]
      rw [h1, h2, State.counted, polder_apply_polder]
    · exact ⟨(s.polder l).counters, by rw [State.counted, polder_apply_polder_other _ _ _ _ hl]⟩
  have htier : ∀ l o, (s.counted off).tierKey l o = s.tierKey l o := by
    intro l o
    obtain ⟨c, hc⟩ := hp l
    simp only [State.tierKey, State.homeMapEntry, hc]
    rfl
  have hgone : ∀ a o, (s.counted off).isGone a o = s.isGone a o := by
    intro a o
    obtain ⟨c, hc⟩ := hp o
    have hd : (s.counted off).dryBase a o = s.dryBase a o := by
      simp only [State.dryBase, hc]
      rfl
    simp only [State.isGone, State.isDry, hd]
    rfl
  have hfits : ∀ l m, (s.counted off).meshFits l m = s.meshFits l m := by
    intro l m
    simp only [State.meshFits, hgone, htier]
    rfl
  refine ⟨h.1, h.2.1, ?_⟩
  rcases h.2.2 with h | h | h
  · refine .inl ⟨h.1, ?_⟩
    have := h.2
    simp only [State.resolve, h.1, if_true, htier] at this ⊢
    exact this
  · exact .inr (.inl h)
  · refine .inr (.inr ?_)
    have ht : ∀ a, (s.counted off).tlbFind r.who r.part r.pasid a = s.tlbFind r.who r.part r.pasid a := by
      intro a
      obtain ⟨c, hc⟩ := hp r.who
      simp only [State.tlbFind, hc]
    simp only [ht, hfits]
    exact h

/-- A count beside a firing. -/
theorem Fired_counted {s t : State} {b b' xs off} (h : s.Fired t b b' xs) : (s.counted off).Fired ((Act.count s.focus.l off).run t) b b' xs := by
  refine ⟨?_, h.others, h.own, h.kept, h.sent, h.only⟩
  have : (Act.count s.focus.l off).run t = (Act.count s.focus.l off).run { s with agenda := t.agenda, ctxs := t.ctxs } := by rw [← h.rest]
  rw [this]; rfl

/-- An instruction that holds an act for commit. -/
theorem holds_of {i : Instr} {p : Pred} {os} {pre : State → List W64 → Prop} {op : State → List W64 → CommitOp} {n : Act} {k : List W64 → Act}
    (he : ∀ s, exec i s = slotStep (.firing p os n k) s)
    (hk : ∀ s b vs, s.firingBlock b → pre s vs → (k vs).run s = (Act.block s.focus.l fun b => { b with acts := b.acts ++ [(s.focus.slot, op s vs)] }).run s) : Holds i p os pre op := by
  refine completes_of he fun s b vs hb hv hp => ⟨⟨rfl, rfl, rfl⟩, ?_⟩
  rw [hk s b vs hb hp]
  exact Fired_block (g := fun b => { b with acts := b.acts ++ [(s.focus.slot, op s vs)] }) (fired_refl hb) fun f w => ⟨f, w, rfl⟩

/-- What the loads are instances of. -/
theorem load_form {p n i sc o t0} : ∀ x ∈ loadForms p n i sc o t0, ∀ s, exec x.1 s = fireLoad p x.2.1 x.2.2 t0 s := by
  simp only [loadForms, List.forall_mem_cons]
  refine ⟨?_, ?_, ?_, ?_, ?_, ?_, ?_, ?_, by simp⟩ <;> intro s <;> rfl

/-- What the stores are instances of. -/
theorem store_form {p n i sc o} : ∀ x ∈ storeForms p n i sc o, ∀ s, exec x.1 s = fireStore p n x.2.1 x.2.2.2.1 x.2.2.2.2 x.2.2.1 s := by
  simp only [storeForms, List.forall_mem_cons]
  refine ⟨?_, ?_, ?_, ?_, ?_, ?_, by simp⟩ <;> intro s <;> rfl

/-- A free LSID. -/
theorem lsid_free {b : Block} {n : Nat} : b.lsidFree n ↔ (b.stores.any fun y => y.lsid == n) = false := by
  simp [Block.lsidFree]

/-- What the atomics are instances of. -/
theorem amo_form {p x t1 t0} : ∀ i ∈ [(Instr.amo p x t1 t0, AmoOrder.relaxed), (.amoaq p x t1 t0, .acquire), (.amorl p x t1 t0, .release), (.amoar p x t1 t0, .both)],
    (∀ s, exec i.1 s = fireAmo i.2 p x t1 t0 s) ∧ inputsOf i.1 = amoInputs x := by
  simp only [List.forall_mem_cons]
  refine ⟨?_, ?_, ?_, ?_, by simp⟩ <;> exact ⟨fun _ => rfl, rfl⟩

/-- The size of an atomic that a block fires. -/
theorem amo_size (a : AmoPkt) (h : a.narrow = false) : amoSize a = if a.op = .fadd ∨ a.op = .add32 ∨ a.op = .cas32 then 4 else 8 := by
  simp only [amoSize, amoNarrow, h]
  cases a.op <;> rfl

end Sys2Proof.Machine
end

