-- ==== Sys2Proof/Laws/PerInstr.lean ====
section
/-! SUPPORT. The family `EncodedBound`, one lemma per constructor of `Instr`: a word that the encoder gives has 32
bits (spec/02 R44, spec/10 R240). The lemmas about the packers bound each field within its place. -/

namespace Sys2Proof.Laws

theorem Pred_code_lt (p : Pred) : p.code ≤ 3 := by cases p <;> decide
theorem Scope_code_lt (c : Scope) : c.code ≤ 7 := by cases c <;> decide
theorem FenceKind_code_lt (c : FenceKind) : c.code ≤ 3 := by cases c <;> decide
theorem Cond_code_lt (c : Cond) : c.code ≤ 7 := by cases c <;> decide
theorem AmoOp_code_lt (c : AmoOp) : c.code ≤ 31 := by cases c <;> decide
theorem CvtPair_code_lt (c : CvtPair) : c.code ≤ 31 := by cases c <;> decide
theorem VCond_code_lt (c : VCond) : c.code ≤ 31 := by cases c <;> decide
theorem CodeTable_code_lt (c : CodeTable) : c.code ≤ 31 := by cases c <;> decide
theorem MmaPair_code_lt (c : MmaPair) : c.code ≤ 31 := by cases c <;> decide
theorem Opnd_code_lt (o : Opnd) : o.code ≤ 3 := by cases o <;> decide

theorem Target_code_lt (t : Target) : t.code < 512 := by
  cases t with
  | none => decide
  | into o s => have := Opnd_code_lt o; have := s.isLt; simp only [Target.code]; omega

theorem packOp_lt {op rest : Nat} (h : op < 128) (hr : rest < 33554432) : packOp op rest < 2 ^ 32 := by
  simp only [packOp]; omega

theorem packA_lt {op : Nat} {r : BitVec 5} {b t : Target} (h : op < 128) : packA op r b t < 2 ^ 32 :=
  packOp_lt h (by have := r.isLt; have := Target_code_lt b; have := Target_code_lt t; omega)

theorem packW_lt {op : Nat} {p : Pred} {r : BitVec 5} (h : op < 128) : packW op p r < 2 ^ 32 :=
  packOp_lt h (by have := r.isLt; have := Pred_code_lt p; omega)

theorem packC_lt {op : Nat} {k : BitVec 16} {t : Target} (h : op < 128) : packC op k t < 2 ^ 32 :=
  packOp_lt h (by have := k.isLt; have := Target_code_lt t; omega)

theorem packG_lt {op x : Nat} {p : Pred} {b t : Target} (h : op < 128) (hx : x ≤ 31) : packG op x p b t < 2 ^ 32 :=
  packOp_lt h (by have := Pred_code_lt p; have := Target_code_lt b; have := Target_code_lt t; omega)

theorem packI_lt {op : Nat} {p : Pred} {i : BitVec 14} {t : Target} (h : op < 128) : packI op p i t < 2 ^ 32 :=
  packOp_lt h (by have := Pred_code_lt p; have := i.isLt; have := Target_code_lt t; omega)

theorem packShift_lt {op : Nat} {p : Pred} {i : BitVec 6} {t : Target} (h : op < 128) : packShift op p i t < 2 ^ 32 :=
  packOp_lt h (by have := Pred_code_lt p; have := i.isLt; have := Target_code_lt t; omega)

theorem packCmp_lt {op : Nat} {p : Pred} {c : Cond} {b t : Target} (h : op < 128) : packCmp op p c b t < 2 ^ 32 :=
  packG_lt h (by have := Cond_code_lt c; omega)

theorem packJ_lt {op : Nat} {p : Pred} {c : Cond} {i : BitVec 11} {t : Target} (h : op < 128) :
    packJ op p c i t < 2 ^ 32 :=
  packOp_lt h (by have := Pred_code_lt p; have := Cond_code_lt c; have := i.isLt; have := Target_code_lt t; omega)

theorem packLea_lt {op : Nat} {p : Pred} {s : BitVec 3} {b t : Target} (h : op < 128) : packLea op p s b t < 2 ^ 32 :=
  packG_lt h (by have := s.isLt; omega)

theorem packExt_lt {op : Nat} {p : Pred} {g : BitVec 1} {l s : BitVec 6} {t : Target} (h : op < 128) :
    packExt op p g l s t < 2 ^ 32 :=
  packOp_lt h (by
    have := Pred_code_lt p; have := g.isLt; have := l.isLt; have := s.isLt; have := Target_code_lt t; omega)

theorem packX_lt {op : Nat} {p : Pred} {e : BitVec 3} {o : BitVec 20} (h : op < 128) : packX op p e o < 2 ^ 32 :=
  packOp_lt h (by have := Pred_code_lt p; have := e.isLt; have := o.isLt; omega)

theorem packL_lt {op : Nat} {p : Pred} {l : BitVec 5} {i : BitVec 9} {t : Target} (h : op < 128) :
    packL op p l i t < 2 ^ 32 :=
  packOp_lt h (by have := Pred_code_lt p; have := l.isLt; have := i.isLt; have := Target_code_lt t; omega)

theorem packLda_lt {op : Nat} {p : Pred} {l : BitVec 5} {c : Scope} {o : BitVec 6} {t : Target} (h : op < 128) :
    packLda op p l c o t < 2 ^ 32 :=
  packOp_lt h (by
    have := Pred_code_lt p; have := l.isLt; have := Scope_code_lt c; have := o.isLt; have := Target_code_lt t; omega)

theorem packFence_lt {op : Nat} {p : Pred} {l : BitVec 5} {c : Scope} {k : FenceKind} {t : Target} (h : op < 128) :
    packFence op p l c k t < 2 ^ 32 :=
  packOp_lt h (by
    have := Pred_code_lt p; have := l.isLt; have := Scope_code_lt c; have := FenceKind_code_lt k
    have := Target_code_lt t; omega)

theorem packAmo_lt {op : Nat} {p : Pred} {c : AmoOp} {b t : Target} (h : op < 128) : packAmo op p c b t < 2 ^ 32 :=
  packG_lt h (AmoOp_code_lt c)

theorem packCvt_lt {op : Nat} {p : Pred} {c : CvtPair} {b t : Target} (h : op < 128) : packCvt op p c b t < 2 ^ 32 :=
  packG_lt h (CvtPair_code_lt c)

theorem packVcmp_lt {op : Nat} {c : VCond} (h : op < 128) : packVcmp op c < 2 ^ 32 := packG_lt h (VCond_code_lt c)

theorem packVenc_lt {op : Nat} {c : CodeTable} (h : op < 128) : packVenc op c < 2 ^ 32 := packG_lt h (CodeTable_code_lt c)

theorem packMrot_lt {op : Nat} {c : MmaPair} (h : op < 128) : packMrot op c < 2 ^ 32 := packG_lt h (MmaPair_code_lt c)

theorem packR_lt {f3 f7 rs2 rs1 rd : Nat} (h3 : f3 < 8) (h7 : f7 < 128) (h2 : rs2 < 32) (h1 : rs1 < 32) (hd : rd < 32) :
    packR f3 f7 rs2 rs1 rd < 2 ^ 32 := by
  simp only [packR]; omega

end Sys2Proof.Laws

namespace Sys2Proof.Laws.EncodedBound

/-- A word that the encoder gives for `i` has 32 bits. -/
def Statement (i : Instr) : Prop := ∀ w, encode i = some w → w < 2 ^ 32

theorem read (r : BitVec 5) (t1 : Target) (t0 : Target) : Statement (.read r t1 t0) :=
  fun _ h => Option.some.inj h ▸ packA_lt (by decide)
theorem write (p : Pred) (r : BitVec 5) : Statement (.write p r) :=
  fun _ h => Option.some.inj h ▸ packW_lt (by decide)
theorem const (k : BitVec 16) (t0 : Target) : Statement (.const k t0) :=
  fun _ h => Option.some.inj h ▸ packC_lt (by decide)
theorem consth (k : BitVec 16) (t0 : Target) : Statement (.consth k t0) :=
  fun _ h => Option.some.inj h ▸ packC_lt (by decide)
theorem mov2 (p : Pred) (t1 : Target) (t0 : Target) : Statement (.mov2 p t1 t0) :=
  fun _ h => Option.some.inj h ▸ packG_lt (by decide) (by decide)
theorem null (p : Pred) (t1 : Target) (t0 : Target) : Statement (.null p t1 t0) :=
  fun _ h => Option.some.inj h ▸ packG_lt (by decide) (by decide)
theorem sel (t1 : Target) (t0 : Target) : Statement (.sel t1 t0) :=
  fun _ h => Option.some.inj h ▸ packG_lt (by decide) (by decide)
theorem add (p : Pred) (t1 : Target) (t0 : Target) : Statement (.add p t1 t0) :=
  fun _ h => Option.some.inj h ▸ packG_lt (by decide) (by decide)
theorem sub (p : Pred) (t1 : Target) (t0 : Target) : Statement (.sub p t1 t0) :=
  fun _ h => Option.some.inj h ▸ packG_lt (by decide) (by decide)
theorem and (p : Pred) (t1 : Target) (t0 : Target) : Statement (.and p t1 t0) :=
  fun _ h => Option.some.inj h ▸ packG_lt (by decide) (by decide)
theorem or (p : Pred) (t1 : Target) (t0 : Target) : Statement (.or p t1 t0) :=
  fun _ h => Option.some.inj h ▸ packG_lt (by decide) (by decide)
theorem xor (p : Pred) (t1 : Target) (t0 : Target) : Statement (.xor p t1 t0) :=
  fun _ h => Option.some.inj h ▸ packG_lt (by decide) (by decide)
theorem andn (p : Pred) (t1 : Target) (t0 : Target) : Statement (.andn p t1 t0) :=
  fun _ h => Option.some.inj h ▸ packG_lt (by decide) (by decide)
theorem shl (p : Pred) (t1 : Target) (t0 : Target) : Statement (.shl p t1 t0) :=
  fun _ h => Option.some.inj h ▸ packG_lt (by decide) (by decide)
theorem shr (p : Pred) (t1 : Target) (t0 : Target) : Statement (.shr p t1 t0) :=
  fun _ h => Option.some.inj h ▸ packG_lt (by decide) (by decide)
theorem sra (p : Pred) (t1 : Target) (t0 : Target) : Statement (.sra p t1 t0) :=
  fun _ h => Option.some.inj h ▸ packG_lt (by decide) (by decide)
theorem rol (p : Pred) (t1 : Target) (t0 : Target) : Statement (.rol p t1 t0) :=
  fun _ h => Option.some.inj h ▸ packG_lt (by decide) (by decide)
theorem ror (p : Pred) (t1 : Target) (t0 : Target) : Statement (.ror p t1 t0) :=
  fun _ h => Option.some.inj h ▸ packG_lt (by decide) (by decide)
theorem mul (p : Pred) (t1 : Target) (t0 : Target) : Statement (.mul p t1 t0) :=
  fun _ h => Option.some.inj h ▸ packG_lt (by decide) (by decide)
theorem mulh (p : Pred) (t1 : Target) (t0 : Target) : Statement (.mulh p t1 t0) :=
  fun _ h => Option.some.inj h ▸ packG_lt (by decide) (by decide)
theorem mulhn (p : Pred) (t1 : Target) (t0 : Target) : Statement (.mulhn p t1 t0) :=
  fun _ h => Option.some.inj h ▸ packG_lt (by decide) (by decide)
theorem div (p : Pred) (t1 : Target) (t0 : Target) : Statement (.div p t1 t0) :=
  fun _ h => Option.some.inj h ▸ packG_lt (by decide) (by decide)
theorem divn (p : Pred) (t1 : Target) (t0 : Target) : Statement (.divn p t1 t0) :=
  fun _ h => Option.some.inj h ▸ packG_lt (by decide) (by decide)
theorem rem (p : Pred) (t1 : Target) (t0 : Target) : Statement (.rem p t1 t0) :=
  fun _ h => Option.some.inj h ▸ packG_lt (by decide) (by decide)
theorem remn (p : Pred) (t1 : Target) (t0 : Target) : Statement (.remn p t1 t0) :=
  fun _ h => Option.some.inj h ▸ packG_lt (by decide) (by decide)
theorem min (p : Pred) (t1 : Target) (t0 : Target) : Statement (.min p t1 t0) :=
  fun _ h => Option.some.inj h ▸ packG_lt (by decide) (by decide)
theorem max (p : Pred) (t1 : Target) (t0 : Target) : Statement (.max p t1 t0) :=
  fun _ h => Option.some.inj h ▸ packG_lt (by decide) (by decide)
theorem minn (p : Pred) (t1 : Target) (t0 : Target) : Statement (.minn p t1 t0) :=
  fun _ h => Option.some.inj h ▸ packG_lt (by decide) (by decide)
theorem maxn (p : Pred) (t1 : Target) (t0 : Target) : Statement (.maxn p t1 t0) :=
  fun _ h => Option.some.inj h ▸ packG_lt (by decide) (by decide)
theorem clz (p : Pred) (t1 : Target) (t0 : Target) : Statement (.clz p t1 t0) :=
  fun _ h => Option.some.inj h ▸ packG_lt (by decide) (by decide)
theorem ctz (p : Pred) (t1 : Target) (t0 : Target) : Statement (.ctz p t1 t0) :=
  fun _ h => Option.some.inj h ▸ packG_lt (by decide) (by decide)
theorem popc (p : Pred) (t1 : Target) (t0 : Target) : Statement (.popc p t1 t0) :=
  fun _ h => Option.some.inj h ▸ packG_lt (by decide) (by decide)
theorem addsat (p : Pred) (t1 : Target) (t0 : Target) : Statement (.addsat p t1 t0) :=
  fun _ h => Option.some.inj h ▸ packG_lt (by decide) (by decide)
theorem subsat (p : Pred) (t1 : Target) (t0 : Target) : Statement (.subsat p t1 t0) :=
  fun _ h => Option.some.inj h ▸ packG_lt (by decide) (by decide)
theorem absd (p : Pred) (t1 : Target) (t0 : Target) : Statement (.absd p t1 t0) :=
  fun _ h => Option.some.inj h ▸ packG_lt (by decide) (by decide)
theorem addw (p : Pred) (t1 : Target) (t0 : Target) : Statement (.addw p t1 t0) :=
  fun _ h => Option.some.inj h ▸ packG_lt (by decide) (by decide)
theorem subw (p : Pred) (t1 : Target) (t0 : Target) : Statement (.subw p t1 t0) :=
  fun _ h => Option.some.inj h ▸ packG_lt (by decide) (by decide)
theorem andw (p : Pred) (t1 : Target) (t0 : Target) : Statement (.andw p t1 t0) :=
  fun _ h => Option.some.inj h ▸ packG_lt (by decide) (by decide)
theorem orw (p : Pred) (t1 : Target) (t0 : Target) : Statement (.orw p t1 t0) :=
  fun _ h => Option.some.inj h ▸ packG_lt (by decide) (by decide)
theorem xorw (p : Pred) (t1 : Target) (t0 : Target) : Statement (.xorw p t1 t0) :=
  fun _ h => Option.some.inj h ▸ packG_lt (by decide) (by decide)
theorem andnw (p : Pred) (t1 : Target) (t0 : Target) : Statement (.andnw p t1 t0) :=
  fun _ h => Option.some.inj h ▸ packG_lt (by decide) (by decide)
theorem shlw (p : Pred) (t1 : Target) (t0 : Target) : Statement (.shlw p t1 t0) :=
  fun _ h => Option.some.inj h ▸ packG_lt (by decide) (by decide)
theorem shrw (p : Pred) (t1 : Target) (t0 : Target) : Statement (.shrw p t1 t0) :=
  fun _ h => Option.some.inj h ▸ packG_lt (by decide) (by decide)
theorem sraw (p : Pred) (t1 : Target) (t0 : Target) : Statement (.sraw p t1 t0) :=
  fun _ h => Option.some.inj h ▸ packG_lt (by decide) (by decide)
theorem rolw (p : Pred) (t1 : Target) (t0 : Target) : Statement (.rolw p t1 t0) :=
  fun _ h => Option.some.inj h ▸ packG_lt (by decide) (by decide)
theorem rorw (p : Pred) (t1 : Target) (t0 : Target) : Statement (.rorw p t1 t0) :=
  fun _ h => Option.some.inj h ▸ packG_lt (by decide) (by decide)
theorem mulw (p : Pred) (t1 : Target) (t0 : Target) : Statement (.mulw p t1 t0) :=
  fun _ h => Option.some.inj h ▸ packG_lt (by decide) (by decide)
theorem divw (p : Pred) (t1 : Target) (t0 : Target) : Statement (.divw p t1 t0) :=
  fun _ h => Option.some.inj h ▸ packG_lt (by decide) (by decide)
theorem divnw (p : Pred) (t1 : Target) (t0 : Target) : Statement (.divnw p t1 t0) :=
  fun _ h => Option.some.inj h ▸ packG_lt (by decide) (by decide)
theorem remw (p : Pred) (t1 : Target) (t0 : Target) : Statement (.remw p t1 t0) :=
  fun _ h => Option.some.inj h ▸ packG_lt (by decide) (by decide)
theorem remnw (p : Pred) (t1 : Target) (t0 : Target) : Statement (.remnw p t1 t0) :=
  fun _ h => Option.some.inj h ▸ packG_lt (by decide) (by decide)
theorem clzw (p : Pred) (t1 : Target) (t0 : Target) : Statement (.clzw p t1 t0) :=
  fun _ h => Option.some.inj h ▸ packG_lt (by decide) (by decide)
theorem ctzw (p : Pred) (t1 : Target) (t0 : Target) : Statement (.ctzw p t1 t0) :=
  fun _ h => Option.some.inj h ▸ packG_lt (by decide) (by decide)
theorem popcw (p : Pred) (t1 : Target) (t0 : Target) : Statement (.popcw p t1 t0) :=
  fun _ h => Option.some.inj h ▸ packG_lt (by decide) (by decide)
theorem addi (p : Pred) (i : BitVec 14) (t0 : Target) : Statement (.addi p i t0) :=
  fun _ h => Option.some.inj h ▸ packI_lt (by decide)
theorem andi (p : Pred) (i : BitVec 14) (t0 : Target) : Statement (.andi p i t0) :=
  fun _ h => Option.some.inj h ▸ packI_lt (by decide)
theorem ori (p : Pred) (i : BitVec 14) (t0 : Target) : Statement (.ori p i t0) :=
  fun _ h => Option.some.inj h ▸ packI_lt (by decide)
theorem xori (p : Pred) (i : BitVec 14) (t0 : Target) : Statement (.xori p i t0) :=
  fun _ h => Option.some.inj h ▸ packI_lt (by decide)
theorem shli (p : Pred) (s : BitVec 6) (t0 : Target) : Statement (.shli p s t0) :=
  fun _ h => Option.some.inj h ▸ packShift_lt (by decide)
theorem shri (p : Pred) (s : BitVec 6) (t0 : Target) : Statement (.shri p s t0) :=
  fun _ h => Option.some.inj h ▸ packShift_lt (by decide)
theorem srai (p : Pred) (s : BitVec 6) (t0 : Target) : Statement (.srai p s t0) :=
  fun _ h => Option.some.inj h ▸ packShift_lt (by decide)
theorem muli (p : Pred) (i : BitVec 14) (t0 : Target) : Statement (.muli p i t0) :=
  fun _ h => Option.some.inj h ▸ packI_lt (by decide)
theorem cmp (p : Pred) (c : Cond) (t1 : Target) (t0 : Target) : Statement (.cmp p c t1 t0) :=
  fun _ h => Option.some.inj h ▸ packCmp_lt (by decide)
theorem cmpi (p : Pred) (c : Cond) (i : BitVec 11) (t0 : Target) : Statement (.cmpi p c i t0) :=
  fun _ h => Option.some.inj h ▸ packJ_lt (by decide)
theorem lea (p : Pred) (s : BitVec 3) (t1 : Target) (t0 : Target) : Statement (.lea p s t1 t0) :=
  fun _ h => Option.some.inj h ▸ packLea_lt (by decide)
theorem ext (p : Pred) (g : BitVec 1) (l : BitVec 6) (s : BitVec 6) (t0 : Target) : Statement (.ext p g l s t0) :=
  fun _ h => Option.some.inj h ▸ packExt_lt (by decide)
theorem ins (t1 : Target) (t0 : Target) : Statement (.ins t1 t0) :=
  fun _ h => Option.some.inj h ▸ packG_lt (by decide) (by decide)
theorem br (p : Pred) (e : BitVec 3) (o : BitVec 20) : Statement (.br p e o) :=
  fun _ h => Option.some.inj h ▸ packX_lt (by decide)
theorem brl (p : Pred) (e : BitVec 3) : Statement (.brl p e) :=
  fun _ h => Option.some.inj h ▸ packX_lt (by decide)
theorem call (p : Pred) (e : BitVec 3) (o : BitVec 20) : Statement (.call p e o) :=
  fun _ h => Option.some.inj h ▸ packX_lt (by decide)
theorem calll (p : Pred) (e : BitVec 3) : Statement (.calll p e) :=
  fun _ h => Option.some.inj h ▸ packX_lt (by decide)
theorem ret (p : Pred) (e : BitVec 3) : Statement (.ret p e) :=
  fun _ h => Option.some.inj h ▸ packX_lt (by decide)
theorem endExit (p : Pred) (e : BitVec 3) : Statement (.endExit p e) :=
  fun _ h => Option.some.inj h ▸ packX_lt (by decide)
theorem susp (p : Pred) (e : BitVec 3) (o : BitVec 20) : Statement (.susp p e o) :=
  fun _ h => Option.some.inj h ▸ packX_lt (by decide)
theorem migr (p : Pred) (e : BitVec 3) (o : BitVec 20) : Statement (.migr p e o) :=
  fun _ h => Option.some.inj h ▸ packX_lt (by decide)
theorem ld8 (p : Pred) (l : BitVec 5) (i : BitVec 9) (t0 : Target) : Statement (.ld8 p l i t0) :=
  fun _ h => Option.some.inj h ▸ packL_lt (by decide)
theorem ld16 (p : Pred) (l : BitVec 5) (i : BitVec 9) (t0 : Target) : Statement (.ld16 p l i t0) :=
  fun _ h => Option.some.inj h ▸ packL_lt (by decide)
theorem ld32 (p : Pred) (l : BitVec 5) (i : BitVec 9) (t0 : Target) : Statement (.ld32 p l i t0) :=
  fun _ h => Option.some.inj h ▸ packL_lt (by decide)
theorem ld64 (p : Pred) (l : BitVec 5) (i : BitVec 9) (t0 : Target) : Statement (.ld64 p l i t0) :=
  fun _ h => Option.some.inj h ▸ packL_lt (by decide)
theorem lds8 (p : Pred) (l : BitVec 5) (i : BitVec 9) (t0 : Target) : Statement (.lds8 p l i t0) :=
  fun _ h => Option.some.inj h ▸ packL_lt (by decide)
theorem lds16 (p : Pred) (l : BitVec 5) (i : BitVec 9) (t0 : Target) : Statement (.lds16 p l i t0) :=
  fun _ h => Option.some.inj h ▸ packL_lt (by decide)
theorem lds32 (p : Pred) (l : BitVec 5) (i : BitVec 9) (t0 : Target) : Statement (.lds32 p l i t0) :=
  fun _ h => Option.some.inj h ▸ packL_lt (by decide)
theorem lda (p : Pred) (l : BitVec 5) (sc : Scope) (o : BitVec 6) (t0 : Target) : Statement (.lda p l sc o t0) :=
  fun _ h => Option.some.inj h ▸ packLda_lt (by decide)
theorem st8 (p : Pred) (l : BitVec 5) (i : BitVec 9) : Statement (.st8 p l i) :=
  fun _ h => Option.some.inj h ▸ packL_lt (by decide)
theorem st16 (p : Pred) (l : BitVec 5) (i : BitVec 9) : Statement (.st16 p l i) :=
  fun _ h => Option.some.inj h ▸ packL_lt (by decide)
theorem st32 (p : Pred) (l : BitVec 5) (i : BitVec 9) : Statement (.st32 p l i) :=
  fun _ h => Option.some.inj h ▸ packL_lt (by decide)
theorem st64 (p : Pred) (l : BitVec 5) (i : BitVec 9) : Statement (.st64 p l i) :=
  fun _ h => Option.some.inj h ▸ packL_lt (by decide)
theorem stl (p : Pred) (l : BitVec 5) (sc : Scope) (o : BitVec 6) : Statement (.stl p l sc o) :=
  fun _ h => Option.some.inj h ▸ packLda_lt (by decide)
theorem fence (p : Pred) (l : BitVec 5) (sc : Scope) (k : FenceKind) (t0 : Target) : Statement (.fence p l sc k t0) :=
  fun _ h => Option.some.inj h ▸ packFence_lt (by decide)
theorem pref (p : Pred) (l : BitVec 5) (i : BitVec 9) : Statement (.pref p l i) :=
  fun _ h => Option.some.inj h ▸ packL_lt (by decide)
theorem amoar (p : Pred) (x : AmoOp) (t1 : Target) (t0 : Target) : Statement (.amoar p x t1 t0) :=
  fun _ h => Option.some.inj h ▸ packAmo_lt (by decide)
theorem gadv (p : Pred) (l : BitVec 5) (sc : Scope) (o : BitVec 6) : Statement (.gadv p l sc o) :=
  fun _ h => Option.some.inj h ▸ packLda_lt (by decide)
theorem watchTask (t1 : Target) (t0 : Target) : Statement (.watchTask t1 t0) :=
  fun _ h => Option.some.inj h ▸ packG_lt (by decide) (by decide)
theorem watchFut (t1 : Target) (t0 : Target) : Statement (.watchFut t1 t0) :=
  fun _ h => Option.some.inj h ▸ packG_lt (by decide) (by decide)
theorem watchCancel (p : Pred) : Statement (.watchCancel p) :=
  fun _ h => Option.some.inj h ▸ packG_lt (by decide) (by decide)
theorem pull : Statement (.pull) :=
  fun _ h => Option.some.inj h ▸ packG_lt (by decide) (by decide)
theorem listen (p : Pred) (t1 : Target) (t0 : Target) : Statement (.listen p t1 t0) :=
  fun _ h => Option.some.inj h ▸ packG_lt (by decide) (by decide)
theorem unlisten (p : Pred) : Statement (.unlisten p) :=
  fun _ h => Option.some.inj h ▸ packG_lt (by decide) (by decide)
theorem amo (p : Pred) (x : AmoOp) (t1 : Target) (t0 : Target) : Statement (.amo p x t1 t0) :=
  fun _ h => Option.some.inj h ▸ packAmo_lt (by decide)
theorem amoaq (p : Pred) (x : AmoOp) (t1 : Target) (t0 : Target) : Statement (.amoaq p x t1 t0) :=
  fun _ h => Option.some.inj h ▸ packAmo_lt (by decide)
theorem amorl (p : Pred) (x : AmoOp) (t1 : Target) (t0 : Target) : Statement (.amorl p x t1 t0) :=
  fun _ h => Option.some.inj h ▸ packAmo_lt (by decide)
theorem faddD (p : Pred) (t1 : Target) (t0 : Target) : Statement (.faddD p t1 t0) :=
  fun _ h => Option.some.inj h ▸ packG_lt (by decide) (by decide)
theorem fsubD (p : Pred) (t1 : Target) (t0 : Target) : Statement (.fsubD p t1 t0) :=
  fun _ h => Option.some.inj h ▸ packG_lt (by decide) (by decide)
theorem fmulD (p : Pred) (t1 : Target) (t0 : Target) : Statement (.fmulD p t1 t0) :=
  fun _ h => Option.some.inj h ▸ packG_lt (by decide) (by decide)
theorem fdivD (p : Pred) (t1 : Target) (t0 : Target) : Statement (.fdivD p t1 t0) :=
  fun _ h => Option.some.inj h ▸ packG_lt (by decide) (by decide)
theorem fsqrtD (p : Pred) (t1 : Target) (t0 : Target) : Statement (.fsqrtD p t1 t0) :=
  fun _ h => Option.some.inj h ▸ packG_lt (by decide) (by decide)
theorem fminD (p : Pred) (t1 : Target) (t0 : Target) : Statement (.fminD p t1 t0) :=
  fun _ h => Option.some.inj h ▸ packG_lt (by decide) (by decide)
theorem fmaxD (p : Pred) (t1 : Target) (t0 : Target) : Statement (.fmaxD p t1 t0) :=
  fun _ h => Option.some.inj h ▸ packG_lt (by decide) (by decide)
theorem fnegD (p : Pred) (t1 : Target) (t0 : Target) : Statement (.fnegD p t1 t0) :=
  fun _ h => Option.some.inj h ▸ packG_lt (by decide) (by decide)
theorem fabsD (p : Pred) (t1 : Target) (t0 : Target) : Statement (.fabsD p t1 t0) :=
  fun _ h => Option.some.inj h ▸ packG_lt (by decide) (by decide)
theorem feqD (p : Pred) (t1 : Target) (t0 : Target) : Statement (.feqD p t1 t0) :=
  fun _ h => Option.some.inj h ▸ packG_lt (by decide) (by decide)
theorem fltD (p : Pred) (t1 : Target) (t0 : Target) : Statement (.fltD p t1 t0) :=
  fun _ h => Option.some.inj h ▸ packG_lt (by decide) (by decide)
theorem fleD (p : Pred) (t1 : Target) (t0 : Target) : Statement (.fleD p t1 t0) :=
  fun _ h => Option.some.inj h ▸ packG_lt (by decide) (by decide)
theorem fclassD (p : Pred) (t1 : Target) (t0 : Target) : Statement (.fclassD p t1 t0) :=
  fun _ h => Option.some.inj h ▸ packG_lt (by decide) (by decide)
theorem fsgnjD (p : Pred) (t1 : Target) (t0 : Target) : Statement (.fsgnjD p t1 t0) :=
  fun _ h => Option.some.inj h ▸ packG_lt (by decide) (by decide)
theorem faddS (p : Pred) (t1 : Target) (t0 : Target) : Statement (.faddS p t1 t0) :=
  fun _ h => Option.some.inj h ▸ packG_lt (by decide) (by decide)
theorem fsubS (p : Pred) (t1 : Target) (t0 : Target) : Statement (.fsubS p t1 t0) :=
  fun _ h => Option.some.inj h ▸ packG_lt (by decide) (by decide)
theorem fmulS (p : Pred) (t1 : Target) (t0 : Target) : Statement (.fmulS p t1 t0) :=
  fun _ h => Option.some.inj h ▸ packG_lt (by decide) (by decide)
theorem fdivS (p : Pred) (t1 : Target) (t0 : Target) : Statement (.fdivS p t1 t0) :=
  fun _ h => Option.some.inj h ▸ packG_lt (by decide) (by decide)
theorem fsqrtS (p : Pred) (t1 : Target) (t0 : Target) : Statement (.fsqrtS p t1 t0) :=
  fun _ h => Option.some.inj h ▸ packG_lt (by decide) (by decide)
theorem fminS (p : Pred) (t1 : Target) (t0 : Target) : Statement (.fminS p t1 t0) :=
  fun _ h => Option.some.inj h ▸ packG_lt (by decide) (by decide)
theorem fmaxS (p : Pred) (t1 : Target) (t0 : Target) : Statement (.fmaxS p t1 t0) :=
  fun _ h => Option.some.inj h ▸ packG_lt (by decide) (by decide)
theorem fnegS (p : Pred) (t1 : Target) (t0 : Target) : Statement (.fnegS p t1 t0) :=
  fun _ h => Option.some.inj h ▸ packG_lt (by decide) (by decide)
theorem fabsS (p : Pred) (t1 : Target) (t0 : Target) : Statement (.fabsS p t1 t0) :=
  fun _ h => Option.some.inj h ▸ packG_lt (by decide) (by decide)
theorem feqS (p : Pred) (t1 : Target) (t0 : Target) : Statement (.feqS p t1 t0) :=
  fun _ h => Option.some.inj h ▸ packG_lt (by decide) (by decide)
theorem fltS (p : Pred) (t1 : Target) (t0 : Target) : Statement (.fltS p t1 t0) :=
  fun _ h => Option.some.inj h ▸ packG_lt (by decide) (by decide)
theorem fleS (p : Pred) (t1 : Target) (t0 : Target) : Statement (.fleS p t1 t0) :=
  fun _ h => Option.some.inj h ▸ packG_lt (by decide) (by decide)
theorem fclassS (p : Pred) (t1 : Target) (t0 : Target) : Statement (.fclassS p t1 t0) :=
  fun _ h => Option.some.inj h ▸ packG_lt (by decide) (by decide)
theorem fsgnjS (p : Pred) (t1 : Target) (t0 : Target) : Statement (.fsgnjS p t1 t0) :=
  fun _ h => Option.some.inj h ▸ packG_lt (by decide) (by decide)
theorem fmaD (t1 : Target) (t0 : Target) : Statement (.fmaD t1 t0) :=
  fun _ h => Option.some.inj h ▸ packG_lt (by decide) (by decide)
theorem fmaS (t1 : Target) (t0 : Target) : Statement (.fmaS t1 t0) :=
  fun _ h => Option.some.inj h ▸ packG_lt (by decide) (by decide)
theorem fcvt (p : Pred) (x : CvtPair) (t1 : Target) (t0 : Target) : Statement (.fcvt p x t1 t0) :=
  fun _ h => Option.some.inj h ▸ packCvt_lt (by decide)
theorem sfnExp2 (p : Pred) (t1 : Target) (t0 : Target) : Statement (.sfnExp2 p t1 t0) :=
  fun _ h => Option.some.inj h ▸ packG_lt (by decide) (by decide)
theorem sfnLog2 (p : Pred) (t1 : Target) (t0 : Target) : Statement (.sfnLog2 p t1 t0) :=
  fun _ h => Option.some.inj h ▸ packG_lt (by decide) (by decide)
theorem sfnRcp (p : Pred) (t1 : Target) (t0 : Target) : Statement (.sfnRcp p t1 t0) :=
  fun _ h => Option.some.inj h ▸ packG_lt (by decide) (by decide)
theorem sfnRsq (p : Pred) (t1 : Target) (t0 : Target) : Statement (.sfnRsq p t1 t0) :=
  fun _ h => Option.some.inj h ▸ packG_lt (by decide) (by decide)
theorem sfnSin (p : Pred) (t1 : Target) (t0 : Target) : Statement (.sfnSin p t1 t0) :=
  fun _ h => Option.some.inj h ▸ packG_lt (by decide) (by decide)
theorem sfnCos (p : Pred) (t1 : Target) (t0 : Target) : Statement (.sfnCos p t1 t0) :=
  fun _ h => Option.some.inj h ▸ packG_lt (by decide) (by decide)
theorem sfnTanh (p : Pred) (t1 : Target) (t0 : Target) : Statement (.sfnTanh p t1 t0) :=
  fun _ h => Option.some.inj h ▸ packG_lt (by decide) (by decide)
theorem sfnSigm (p : Pred) (t1 : Target) (t0 : Target) : Statement (.sfnSigm p t1 t0) :=
  fun _ h => Option.some.inj h ▸ packG_lt (by decide) (by decide)
theorem vadd : Statement (.vadd) :=
  fun _ h => Option.some.inj h ▸ packG_lt (by decide) (by decide)
theorem vsub : Statement (.vsub) :=
  fun _ h => Option.some.inj h ▸ packG_lt (by decide) (by decide)
theorem vmul : Statement (.vmul) :=
  fun _ h => Option.some.inj h ▸ packG_lt (by decide) (by decide)
theorem vdiv : Statement (.vdiv) :=
  fun _ h => Option.some.inj h ▸ packG_lt (by decide) (by decide)
theorem vmin : Statement (.vmin) :=
  fun _ h => Option.some.inj h ▸ packG_lt (by decide) (by decide)
theorem vmax : Statement (.vmax) :=
  fun _ h => Option.some.inj h ▸ packG_lt (by decide) (by decide)
theorem vand : Statement (.vand) :=
  fun _ h => Option.some.inj h ▸ packG_lt (by decide) (by decide)
theorem vor : Statement (.vor) :=
  fun _ h => Option.some.inj h ▸ packG_lt (by decide) (by decide)
theorem vxor : Statement (.vxor) :=
  fun _ h => Option.some.inj h ▸ packG_lt (by decide) (by decide)
theorem vshl : Statement (.vshl) :=
  fun _ h => Option.some.inj h ▸ packG_lt (by decide) (by decide)
theorem vshr : Statement (.vshr) :=
  fun _ h => Option.some.inj h ▸ packG_lt (by decide) (by decide)
theorem vfma : Statement (.vfma) :=
  fun _ h => Option.some.inj h ▸ packG_lt (by decide) (by decide)
theorem vneg (p : Pred) : Statement (.vneg p) :=
  fun _ h => Option.some.inj h ▸ packG_lt (by decide) (by decide)
theorem vabs (p : Pred) : Statement (.vabs p) :=
  fun _ h => Option.some.inj h ▸ packG_lt (by decide) (by decide)
theorem vcpy (p : Pred) : Statement (.vcpy p) :=
  fun _ h => Option.some.inj h ▸ packG_lt (by decide) (by decide)
theorem vexp2 (p : Pred) : Statement (.vexp2 p) :=
  fun _ h => Option.some.inj h ▸ packG_lt (by decide) (by decide)
theorem vlog2 (p : Pred) : Statement (.vlog2 p) :=
  fun _ h => Option.some.inj h ▸ packG_lt (by decide) (by decide)
theorem vrcp (p : Pred) : Statement (.vrcp p) :=
  fun _ h => Option.some.inj h ▸ packG_lt (by decide) (by decide)
theorem vrsq (p : Pred) : Statement (.vrsq p) :=
  fun _ h => Option.some.inj h ▸ packG_lt (by decide) (by decide)
theorem vtanh (p : Pred) : Statement (.vtanh p) :=
  fun _ h => Option.some.inj h ▸ packG_lt (by decide) (by decide)
theorem vsigm (p : Pred) : Statement (.vsigm p) :=
  fun _ h => Option.some.inj h ▸ packG_lt (by decide) (by decide)
theorem vsin (p : Pred) : Statement (.vsin p) :=
  fun _ h => Option.some.inj h ▸ packG_lt (by decide) (by decide)
theorem vcos (p : Pred) : Statement (.vcos p) :=
  fun _ h => Option.some.inj h ▸ packG_lt (by decide) (by decide)
theorem vredSum (p : Pred) : Statement (.vredSum p) :=
  fun _ h => Option.some.inj h ▸ packG_lt (by decide) (by decide)
theorem vredMax (p : Pred) : Statement (.vredMax p) :=
  fun _ h => Option.some.inj h ▸ packG_lt (by decide) (by decide)
theorem vredMin (p : Pred) : Statement (.vredMin p) :=
  fun _ h => Option.some.inj h ▸ packG_lt (by decide) (by decide)
theorem vredAmax (p : Pred) : Statement (.vredAmax p) :=
  fun _ h => Option.some.inj h ▸ packG_lt (by decide) (by decide)
theorem vscanInc (p : Pred) : Statement (.vscanInc p) :=
  fun _ h => Option.some.inj h ▸ packG_lt (by decide) (by decide)
theorem vscanExc (p : Pred) : Statement (.vscanExc p) :=
  fun _ h => Option.some.inj h ▸ packG_lt (by decide) (by decide)
theorem vgath : Statement (.vgath) :=
  fun _ h => Option.some.inj h ▸ packG_lt (by decide) (by decide)
theorem vscat : Statement (.vscat) :=
  fun _ h => Option.some.inj h ▸ packG_lt (by decide) (by decide)
theorem vmsk : Statement (.vmsk) :=
  fun _ h => Option.some.inj h ▸ packG_lt (by decide) (by decide)
theorem vbcast (p : Pred) : Statement (.vbcast p) :=
  fun _ h => Option.some.inj h ▸ packG_lt (by decide) (by decide)
theorem vpopaNone : Statement (.vpopaNone) :=
  fun _ h => Option.some.inj h ▸ packG_lt (by decide) (by decide)
theorem vpopaRelu : Statement (.vpopaRelu) :=
  fun _ h => Option.some.inj h ▸ packG_lt (by decide) (by decide)
theorem vpopaClamp : Statement (.vpopaClamp) :=
  fun _ h => Option.some.inj h ▸ packG_lt (by decide) (by decide)
theorem vcmp (c : VCond) : Statement (.vcmp c) :=
  fun _ h => Option.some.inj h ▸ packVcmp_lt (by decide)
theorem vsel : Statement (.vsel) :=
  fun _ h => Option.some.inj h ▸ packG_lt (by decide) (by decide)
theorem vpermRev (p : Pred) : Statement (.vpermRev p) :=
  fun _ h => Option.some.inj h ▸ packG_lt (by decide) (by decide)
theorem vpermIntl (p : Pred) : Statement (.vpermIntl p) :=
  fun _ h => Option.some.inj h ▸ packG_lt (by decide) (by decide)
theorem vpermDintl (p : Pred) : Statement (.vpermDintl p) :=
  fun _ h => Option.some.inj h ▸ packG_lt (by decide) (by decide)
theorem vpermRot : Statement (.vpermRot) :=
  fun _ h => Option.some.inj h ▸ packG_lt (by decide) (by decide)
theorem vqnt (p : Pred) : Statement (.vqnt p) :=
  fun _ h => Option.some.inj h ▸ packG_lt (by decide) (by decide)
theorem venc (n : CodeTable) : Statement (.venc n) :=
  fun _ h => Option.some.inj h ▸ packVenc_lt (by decide)
theorem vdec (p : Pred) : Statement (.vdec p) :=
  fun _ h => Option.some.inj h ▸ packG_lt (by decide) (by decide)
theorem mmaDd : Statement (.mmaDd) :=
  fun _ h => Option.some.inj h ▸ packG_lt (by decide) (by decide)
theorem mmaSs : Statement (.mmaSs) :=
  fun _ h => Option.some.inj h ▸ packG_lt (by decide) (by decide)
theorem mmaBb : Statement (.mmaBb) :=
  fun _ h => Option.some.inj h ▸ packG_lt (by decide) (by decide)
theorem mmaHh : Statement (.mmaHh) :=
  fun _ h => Option.some.inj h ▸ packG_lt (by decide) (by decide)
theorem mmaEe : Statement (.mmaEe) :=
  fun _ h => Option.some.inj h ▸ packG_lt (by decide) (by decide)
theorem mmaEv : Statement (.mmaEv) :=
  fun _ h => Option.some.inj h ▸ packG_lt (by decide) (by decide)
theorem mmaVv : Statement (.mmaVv) :=
  fun _ h => Option.some.inj h ▸ packG_lt (by decide) (by decide)
theorem mmaBk : Statement (.mmaBk) :=
  fun _ h => Option.some.inj h ▸ packG_lt (by decide) (by decide)
theorem mmaEk : Statement (.mmaEk) :=
  fun _ h => Option.some.inj h ▸ packG_lt (by decide) (by decide)
theorem mmaQq : Statement (.mmaQq) :=
  fun _ h => Option.some.inj h ▸ packG_lt (by decide) (by decide)
theorem mmaXx : Statement (.mmaXx) :=
  fun _ h => Option.some.inj h ▸ packG_lt (by decide) (by decide)
theorem mmaYy : Statement (.mmaYy) :=
  fun _ h => Option.some.inj h ▸ packG_lt (by decide) (by decide)
theorem mmaIi : Statement (.mmaIi) :=
  fun _ h => Option.some.inj h ▸ packG_lt (by decide) (by decide)
theorem mmaNn : Statement (.mmaNn) :=
  fun _ h => Option.some.inj h ▸ packG_lt (by decide) (by decide)
theorem mrot (f : MmaPair) : Statement (.mrot f) :=
  fun _ h => Option.some.inj h ▸ packMrot_lt (by decide)
theorem maccZero (p : Pred) : Statement (.maccZero p) :=
  fun _ h => Option.some.inj h ▸ packG_lt (by decide) (by decide)
theorem maccReclaim (p : Pred) : Statement (.maccReclaim p) :=
  fun _ h => Option.some.inj h ▸ packG_lt (by decide) (by decide)
theorem maccPark (p : Pred) : Statement (.maccPark p) :=
  fun _ h => Option.some.inj h ▸ packG_lt (by decide) (by decide)
theorem maccQuery (p : Pred) (t1 : Target) (t0 : Target) : Statement (.maccQuery p t1 t0) :=
  fun _ h => Option.some.inj h ▸ packG_lt (by decide) (by decide)
theorem maccLoada (p : Pred) : Statement (.maccLoada p) :=
  fun _ h => Option.some.inj h ▸ packG_lt (by decide) (by decide)
theorem maccStorea (p : Pred) : Statement (.maccStorea p) :=
  fun _ h => Option.some.inj h ▸ packG_lt (by decide) (by decide)
theorem fork (p : Pred) (t1 : Target) (t0 : Target) : Statement (.fork p t1 t0) :=
  fun _ h => Option.some.inj h ▸ packG_lt (by decide) (by decide)
theorem join (p : Pred) (t1 : Target) (t0 : Target) : Statement (.join p t1 t0) :=
  fun _ h => Option.some.inj h ▸ packG_lt (by decide) (by decide)
theorem send (p : Pred) : Statement (.send p) :=
  fun _ h => Option.some.inj h ▸ packG_lt (by decide) (by decide)
theorem sendb : Statement (.sendb) :=
  fun _ h => Option.some.inj h ▸ packG_lt (by decide) (by decide)
theorem futr (p : Pred) (t1 : Target) (t0 : Target) : Statement (.futr p t1 t0) :=
  fun _ h => Option.some.inj h ▸ packG_lt (by decide) (by decide)
theorem futw (p : Pred) : Statement (.futw p) :=
  fun _ h => Option.some.inj h ▸ packG_lt (by decide) (by decide)
theorem launch (p : Pred) (t1 : Target) (t0 : Target) : Statement (.launch p t1 t0) :=
  fun _ h => Option.some.inj h ▸ packG_lt (by decide) (by decide)
theorem compose (p : Pred) (t1 : Target) (t0 : Target) : Statement (.compose p t1 t0) :=
  fun _ h => Option.some.inj h ▸ packG_lt (by decide) (by decide)
theorem release (p : Pred) : Statement (.release p) :=
  fun _ h => Option.some.inj h ▸ packG_lt (by decide) (by decide)
theorem cwr (p : Pred) (n : BitVec 14) (t0 : Target) : Statement (.cwr p n t0) :=
  fun _ h => Option.some.inj h ▸ packI_lt (by decide)
theorem cww (p : Pred) (n : BitVec 14) : Statement (.cww p n) :=
  fun _ h => Option.some.inj h ▸ packI_lt (by decide)
theorem switch (p : Pred) : Statement (.switch p) :=
  fun _ h => Option.some.inj h ▸ packG_lt (by decide) (by decide)
theorem sysc (p : Pred) (e : BitVec 3) (c : BitVec 20) : Statement (.sysc p e c) :=
  fun _ h => Option.some.inj h ▸ packX_lt (by decide)
theorem eret (p : Pred) (e : BitVec 3) : Statement (.eret p e) :=
  fun _ h => Option.some.inj h ▸ packX_lt (by decide)
theorem reloc : Statement (.reloc) :=
  fun _ h => Option.some.inj h ▸ packG_lt (by decide) (by decide)
theorem slrd (rs2 : BitVec 5) (rs1 : BitVec 5) (rd : BitVec 5) : Statement (.slrd rs2 rs1 rd) :=
  fun _ h => Option.some.inj h ▸ packR_lt (by decide) (by decide) (by omega) (by omega) (by omega)
theorem slwr (rs2 : BitVec 5) (rs1 : BitVec 5) (rd : BitVec 5) : Statement (.slwr rs2 rs1 rd) :=
  fun _ h => Option.some.inj h ▸ packR_lt (by decide) (by decide) (by omega) (by omega) (by omega)
theorem sgadv (g : Scope) (rs2 : BitVec 5) (rs1 : BitVec 5) (rd : BitVec 5) : Statement (.sgadv g rs2 rs1 rd) :=
  fun _ h => Option.some.inj h ▸ packR_lt (by decide) (by cases g <;> decide) (by omega) (by omega) (by omega)
theorem ssend (rs2 : BitVec 5) (rs1 : BitVec 5) (rd : BitVec 5) : Statement (.ssend rs2 rs1 rd) :=
  fun _ h => Option.some.inj h ▸ packR_lt (by decide) (by decide) (by omega) (by omega) (by omega)
theorem spull (rs2 : BitVec 5) (rs1 : BitVec 5) (rd : BitVec 5) : Statement (.spull rs2 rs1 rd) :=
  fun _ h => Option.some.inj h ▸ packR_lt (by decide) (by decide) (by omega) (by omega) (by omega)
theorem screg (rs2 : BitVec 5) (rs1 : BitVec 5) (rd : BitVec 5) : Statement (.screg rs2 rs1 rd) :=
  fun _ h => Option.some.inj h ▸ packR_lt (by decide) (by decide) (by omega) (by omega) (by omega)
theorem scarm (rs1 : BitVec 5) (rd : BitVec 5) : Statement (.scarm rs1 rd) :=
  fun _ h => Option.some.inj h ▸ packR_lt (by decide) (by decide) (by omega) (by omega) (by omega)
theorem scdrp (rs1 : BitVec 5) (rd : BitVec 5) : Statement (.scdrp rs1 rd) :=
  fun _ h => Option.some.inj h ▸ packR_lt (by decide) (by decide) (by omega) (by omega) (by omega)
theorem samoAdd (rs2 : BitVec 5) (rs1 : BitVec 5) (rd : BitVec 5) : Statement (.samoAdd rs2 rs1 rd) :=
  fun _ h => Option.some.inj h ▸ packR_lt (by decide) (by decide) (by omega) (by omega) (by omega)
theorem samoAnd (rs2 : BitVec 5) (rs1 : BitVec 5) (rd : BitVec 5) : Statement (.samoAnd rs2 rs1 rd) :=
  fun _ h => Option.some.inj h ▸ packR_lt (by decide) (by decide) (by omega) (by omega) (by omega)
theorem samoOr (rs2 : BitVec 5) (rs1 : BitVec 5) (rd : BitVec 5) : Statement (.samoOr rs2 rs1 rd) :=
  fun _ h => Option.some.inj h ▸ packR_lt (by decide) (by decide) (by omega) (by omega) (by omega)
theorem samoXor (rs2 : BitVec 5) (rs1 : BitVec 5) (rd : BitVec 5) : Statement (.samoXor rs2 rs1 rd) :=
  fun _ h => Option.some.inj h ▸ packR_lt (by decide) (by decide) (by omega) (by omega) (by omega)
theorem samoMin (rs2 : BitVec 5) (rs1 : BitVec 5) (rd : BitVec 5) : Statement (.samoMin rs2 rs1 rd) :=
  fun _ h => Option.some.inj h ▸ packR_lt (by decide) (by decide) (by omega) (by omega) (by omega)
theorem samoMax (rs2 : BitVec 5) (rs1 : BitVec 5) (rd : BitVec 5) : Statement (.samoMax rs2 rs1 rd) :=
  fun _ h => Option.some.inj h ▸ packR_lt (by decide) (by decide) (by omega) (by omega) (by omega)
theorem samoMinn (rs2 : BitVec 5) (rs1 : BitVec 5) (rd : BitVec 5) : Statement (.samoMinn rs2 rs1 rd) :=
  fun _ h => Option.some.inj h ▸ packR_lt (by decide) (by decide) (by omega) (by omega) (by omega)
theorem samoMaxn (rs2 : BitVec 5) (rs1 : BitVec 5) (rd : BitVec 5) : Statement (.samoMaxn rs2 rs1 rd) :=
  fun _ h => Option.some.inj h ▸ packR_lt (by decide) (by decide) (by omega) (by omega) (by omega)
theorem samoSwap (rs2 : BitVec 5) (rs1 : BitVec 5) (rd : BitVec 5) : Statement (.samoSwap rs2 rs1 rd) :=
  fun _ h => Option.some.inj h ▸ packR_lt (by decide) (by decide) (by omega) (by omega) (by omega)
theorem samoCas (rs2 : BitVec 5) (rs1 : BitVec 5) (rd : BitVec 5) : Statement (.samoCas rs2 rs1 rd) :=
  fun _ h => Option.some.inj h ▸ packR_lt (by decide) (by decide) (by omega) (by omega) (by omega)
theorem samoDecz (rs2 : BitVec 5) (rs1 : BitVec 5) (rd : BitVec 5) : Statement (.samoDecz rs2 rs1 rd) :=
  fun _ h => Option.some.inj h ▸ packR_lt (by decide) (by decide) (by omega) (by omega) (by omega)
theorem sreply (rs1 : BitVec 5) : Statement (.sreply rs1) :=
  fun _ h => Option.some.inj h ▸ packR_lt (by decide) (by decide) (by omega) (by omega) (by omega)
theorem stlim (rs1 : BitVec 5) (rd : BitVec 5) : Statement (.stlim rs1 rd) :=
  fun _ h => Option.some.inj h ▸ packR_lt (by decide) (by decide) (by omega) (by omega) (by omega)
theorem shend : Statement (.shend) :=
  fun _ h => Option.some.inj h ▸ packR_lt (by decide) (by decide) (by omega) (by omega) (by omega)
theorem sliceBaseInstruction (short : Bool) (i : RvInstr) : Statement (.sliceBaseInstruction short i) := fun _ h => nomatch h
theorem blockFetch : Statement (.blockFetch) := fun _ h => nomatch h
theorem blockFetchReadReturn : Statement (.blockFetchReadReturn) := fun _ h => nomatch h
theorem tokenArrival : Statement (.tokenArrival) := fun _ h => nomatch h
theorem blockCommit : Statement (.blockCommit) := fun _ h => nomatch h
theorem blockStarved : Statement (.blockStarved) := fun _ h => nomatch h
theorem portPushTimeout : Statement (.portPushTimeout) := fun _ h => nomatch h
theorem blockAbandon : Statement (.blockAbandon) := fun _ h => nomatch h
theorem contextAllocation : Statement (.contextAllocation) := fun _ h => nomatch h
theorem contextDispatch : Statement (.contextDispatch) := fun _ h => nomatch h
theorem loadReply : Statement (.loadReply) := fun _ h => nomatch h
theorem sluiceRequest : Statement (.sluiceRequest) := fun _ h => nomatch h
theorem tlbWalkComplete : Statement (.tlbWalkComplete) := fun _ h => nomatch h
theorem l2LineFill : Statement (.l2LineFill) := fun _ h => nomatch h
theorem freshZeroingDone : Statement (.freshZeroingDone) := fun _ h => nomatch h
theorem watchRegistration : Statement (.watchRegistration) := fun _ h => nomatch h
theorem watchRegistrationReply : Statement (.watchRegistrationReply) := fun _ h => nomatch h
theorem watchArm : Statement (.watchArm) := fun _ h => nomatch h
theorem watchSatisfactionArrival : Statement (.watchSatisfactionArrival) := fun _ h => nomatch h
theorem watchCancelArrival : Statement (.watchCancelArrival) := fun _ h => nomatch h
theorem atomicPacketArrival : Statement (.atomicPacketArrival) := fun _ h => nomatch h
theorem atomicTurn : Statement (.atomicTurn) := fun _ h => nomatch h
theorem atomicReply : Statement (.atomicReply) := fun _ h => nomatch h
theorem handlerStart : Statement (.handlerStart) := fun _ h => nomatch h
theorem handlerBudgetExpiry : Statement (.handlerBudgetExpiry) := fun _ h => nomatch h
theorem messageArrival : Statement (.messageArrival) := fun _ h => nomatch h
theorem sliceMessageArrival : Statement (.sliceMessageArrival) := fun _ h => nomatch h
theorem replyArrival : Statement (.replyArrival) := fun _ h => nomatch h
theorem moveNoticeArrival : Statement (.moveNoticeArrival) := fun _ h => nomatch h
theorem threadReleaseArrival : Statement (.threadReleaseArrival) := fun _ h => nomatch h
theorem migrationPacketArrival : Statement (.migrationPacketArrival) := fun _ h => nomatch h
theorem migrationAdmissionReply : Statement (.migrationAdmissionReply) := fun _ h => nomatch h
theorem migrationResend : Statement (.migrationResend) := fun _ h => nomatch h
theorem relocTransfer : Statement (.relocTransfer) := fun _ h => nomatch h
theorem relocArrival : Statement (.relocArrival) := fun _ h => nomatch h
theorem dequeRefill : Statement (.dequeRefill) := fun _ h => nomatch h
theorem stealRequest : Statement (.stealRequest) := fun _ h => nomatch h
theorem stealRequestArrival : Statement (.stealRequestArrival) := fun _ h => nomatch h
theorem stealReplyArrival : Statement (.stealReplyArrival) := fun _ h => nomatch h
theorem stealBackoffExpiry : Statement (.stealBackoffExpiry) := fun _ h => nomatch h
theorem launchDispatch : Statement (.launchDispatch) := fun _ h => nomatch h
theorem launchGroupPlacement : Statement (.launchGroupPlacement) := fun _ h => nomatch h
theorem mergeReport : Statement (.mergeReport) := fun _ h => nomatch h
theorem sfuAccept : Statement (.sfuAccept) := fun _ h => nomatch h
theorem sfuResult : Statement (.sfuResult) := fun _ h => nomatch h
theorem vectorBeat : Statement (.vectorBeat) := fun _ h => nomatch h
theorem matrixEntryAccept : Statement (.matrixEntryAccept) := fun _ h => nomatch h
theorem matrixCommandRecord : Statement (.matrixCommandRecord) := fun _ h => nomatch h
theorem matrixSlab : Statement (.matrixSlab) := fun _ h => nomatch h
theorem matrixEntryComplete : Statement (.matrixEntryComplete) := fun _ h => nomatch h
theorem rangeLockRegister : Statement (.rangeLockRegister) := fun _ h => nomatch h
theorem entryRetire : Statement (.entryRetire) := fun _ h => nomatch h
theorem transferIssue : Statement (.transferIssue) := fun _ h => nomatch h
theorem eq2Pull : Statement (.eq2Pull) := fun _ h => nomatch h
theorem pullw : Statement (.pullw) := fun _ h => nomatch h
theorem fill : Statement (.fill) := fun _ h => nomatch h
theorem gcopy : Statement (.gcopy) := fun _ h => nomatch h
theorem lineReadReply : Statement (.lineReadReply) := fun _ h => nomatch h
theorem listenNotification : Statement (.listenNotification) := fun _ h => nomatch h
theorem allReduce : Statement (.allReduce) := fun _ h => nomatch h
theorem reduceScatter : Statement (.reduceScatter) := fun _ h => nomatch h
theorem allGather : Statement (.allGather) := fun _ h => nomatch h
theorem broadcast : Statement (.broadcast) := fun _ h => nomatch h
theorem barrier : Statement (.barrier) := fun _ h => nomatch h
theorem allToAllV : Statement (.allToAllV) := fun _ h => nomatch h
theorem reduce : Statement (.reduce) := fun _ h => nomatch h
theorem chunkStart : Statement (.chunkStart) := fun _ h => nomatch h
theorem chunkEnd : Statement (.chunkEnd) := fun _ h => nomatch h
theorem collectiveGaugeNotice : Statement (.collectiveGaugeNotice) := fun _ h => nomatch h
theorem absentAnswer : Statement (.absentAnswer) := fun _ h => nomatch h
theorem returnNotice : Statement (.returnNotice) := fun _ h => nomatch h
theorem collectiveNoticeResend : Statement (.collectiveNoticeResend) := fun _ h => nomatch h
theorem abortPacket : Statement (.abortPacket) := fun _ h => nomatch h
theorem stepPacket : Statement (.stepPacket) := fun _ h => nomatch h
theorem stepWaitTimeout : Statement (.stepWaitTimeout) := fun _ h => nomatch h
theorem agreePacket : Statement (.agreePacket) := fun _ h => nomatch h
theorem donePacket : Statement (.donePacket) := fun _ h => nomatch h
theorem agreeTimeout : Statement (.agreeTimeout) := fun _ h => nomatch h
theorem linkRetry : Statement (.linkRetry) := fun _ h => nomatch h
theorem linkLost : Statement (.linkLost) := fun _ h => nomatch h
theorem ethernetResend : Statement (.ethernetResend) := fun _ h => nomatch h
theorem tailTimeout : Statement (.tailTimeout) := fun _ h => nomatch h
theorem poisonedWormDiscard : Statement (.poisonedWormDiscard) := fun _ h => nomatch h
theorem diePowerLoss : Statement (.diePowerLoss) := fun _ h => nomatch h
theorem thermalTrip : Statement (.thermalTrip) := fun _ h => nomatch h
theorem clockThrottle : Statement (.clockThrottle) := fun _ h => nomatch h
theorem powerOnBringup : Statement (.powerOnBringup) := fun _ h => nomatch h
theorem submissionTailWrite : Statement (.submissionTailWrite) := fun _ h => nomatch h
theorem completionHeadWrite : Statement (.completionHeadWrite) := fun _ h => nomatch h
theorem packetFetch : Statement (.packetFetch) := fun _ h => nomatch h
theorem hostNop : Statement (.hostNop) := fun _ h => nomatch h
theorem hostRun : Statement (.hostRun) := fun _ h => nomatch h
theorem hostLaunch : Statement (.hostLaunch) := fun _ h => nomatch h
theorem hostWait : Statement (.hostWait) := fun _ h => nomatch h
theorem hostCopyin : Statement (.hostCopyin) := fun _ h => nomatch h
theorem hostCopyout : Statement (.hostCopyout) := fun _ h => nomatch h
theorem hostWorkComplete : Statement (.hostWorkComplete) := fun _ h => nomatch h
theorem remapUnmask : Statement (.remapUnmask) := fun _ h => nomatch h
theorem pasidRevoke : Statement (.pasidRevoke) := fun _ h => nomatch h
theorem revocationComplete : Statement (.revocationComplete) := fun _ h => nomatch h
theorem invalidatePasid : Statement (.invalidatePasid) := fun _ h => nomatch h
theorem invalidatePage : Statement (.invalidatePage) := fun _ h => nomatch h
theorem invalidateStage2 : Statement (.invalidateStage2) := fun _ h => nomatch h
theorem invalidatePartition : Statement (.invalidatePartition) := fun _ h => nomatch h
theorem invalidationComplete : Statement (.invalidationComplete) := fun _ h => nomatch h
theorem podposWrite : Statement (.podposWrite) := fun _ h => nomatch h
theorem attestGo : Statement (.attestGo) := fun _ h => nomatch h
theorem attestReportReady : Statement (.attestReportReady) := fun _ h => nomatch h
theorem partitionSwap : Statement (.partitionSwap) := fun _ h => nomatch h
theorem partitionRemove : Statement (.partitionRemove) := fun _ h => nomatch h
theorem swapDrainComplete : Statement (.swapDrainComplete) := fun _ h => nomatch h
theorem polderStopRequest : Statement (.polderStopRequest) := fun _ h => nomatch h
theorem polderFence : Statement (.polderFence) := fun _ h => nomatch h
theorem contextReleaseCmd : Statement (.contextReleaseCmd) := fun _ h => nomatch h
theorem contextEndCmd : Statement (.contextEndCmd) := fun _ h => nomatch h
theorem contextHaltCmd : Statement (.contextHaltCmd) := fun _ h => nomatch h
theorem registerWrite : Statement (.registerWrite) := fun _ h => nomatch h
theorem systemAbort : Statement (.systemAbort) := fun _ h => nomatch h
theorem readmission : Statement (.readmission) := fun _ h => nomatch h
theorem packagePowerLoss : Statement (.packagePowerLoss) := fun _ h => nomatch h

end Sys2Proof.Laws.EncodedBound
end

