-- ==== Sys2Proof/Laws/Values.lean ====
section
/-! SUPPORT. The results of the integer members in terms of bit vectors (spec/04 R87-R90): one equation for each member, at any width. -/

namespace Sys2Proof.Machine

variable {w : Nat}

theorem signedOf_toNat (hw : 0 < w) (a : BitVec w) : signedOf w a.toNat = a.toInt := by
  have h := a.isLt
  have h2 : 2 ^ w = 2 * 2 ^ (w - 1) := by rw [← Nat.pow_succ']; congr 1; omega
  simp only [signedOf, Nat.mod_eq_of_lt h, BitVec.toInt_eq_toNat_cond]
  split <;> split <;> omega

theorem wrapOf_eq (v : Int) : wrapOf w v = (BitVec.ofInt w v).toNat := by
  simp [wrapOf, BitVec.toNat_ofInt]

theorem iopAt_add (a b : BitVec w) (n : Nat) : iopAt .add w a.toNat b.toNat n = (a + b).toNat := by
  simp [iopAt]
theorem iopAt_sub (a b : BitVec w) (n : Nat) : iopAt .sub w a.toNat b.toNat n = (a - b).toNat := by
  simp only [iopAt, BitVec.toNat_sub]
  congr 1
  have := b.isLt
  omega
theorem iopAt_and (a b : BitVec w) (n : Nat) : iopAt .and w a.toNat b.toNat n = (a &&& b).toNat := rfl
theorem iopAt_or (a b : BitVec w) (n : Nat) : iopAt .or w a.toNat b.toNat n = (a ||| b).toNat := rfl
theorem iopAt_xor (a b : BitVec w) (n : Nat) : iopAt .xor w a.toNat b.toNat n = (a ^^^ b).toNat := rfl
theorem iopAt_andn (a b : BitVec w) (n : Nat) : iopAt .andn w a.toNat b.toNat n = (a &&& ~~~b).toNat := by
  simp only [iopAt, BitVec.toNat_and, BitVec.toNat_not]
  rfl
theorem iopAt_shl (a b : BitVec w) (n : Nat) :
    iopAt .shl w a.toNat b.toNat n = (if w ≤ n then 0#w else a <<< n).toNat := by
  simp only [iopAt, ge_iff_le]
  split <;> simp [Nat.shiftLeft_eq]
theorem iopAt_shr (a b : BitVec w) (n : Nat) :
    iopAt .shr w a.toNat b.toNat n = (if w ≤ n then 0#w else a >>> n).toNat := by
  simp only [iopAt, ge_iff_le]
  split <;> simp [Nat.shiftRight_eq_div_pow]
theorem sshiftRight_ofInt (a : BitVec w) (n : Nat) : BitVec.ofInt w (a.toInt / ((2 ^ n : Nat) : Int)) = a.sshiftRight n := by
  rw [BitVec.sshiftRight_eq, Int.shiftRight_eq_div_pow]
theorem iopAt_sra (hw : 0 < w) (a b : BitVec w) (n : Nat) :
    iopAt .sra w a.toNat b.toNat n = (a.sshiftRight (if w ≤ n then w else n)).toNat := by
  simp only [iopAt, ge_iff_le, signedOf_toNat hw, wrapOf_eq, sshiftRight_ofInt]
theorem iopAt_mul (a b : BitVec w) (n : Nat) : iopAt .mul w a.toNat b.toNat n = (a * b).toNat := by
  simp [iopAt]
theorem iopAt_mulh (hw : 0 < w) (a b : BitVec w) (n : Nat) :
    iopAt .mulh w a.toNat b.toNat n = (BitVec.ofInt w (a.toInt * b.toInt / ((2 ^ w : Nat) : Int))).toNat := by
  simp only [iopAt, signedOf_toNat hw, wrapOf_eq]
theorem iopAt_mulhn (a b : BitVec w) (n : Nat) :
    iopAt .mulhn w a.toNat b.toNat n = (BitVec.ofNat w (a.toNat * b.toNat / 2 ^ w)).toNat := by
  have h : a.toNat * b.toNat / 2 ^ w < 2 ^ w := by
    apply Nat.div_lt_of_lt_mul
    exact Nat.mul_lt_mul'' a.isLt b.isLt
  simp [iopAt, Nat.mod_eq_of_lt h]
theorem iopAt_div (hw : 0 < w) (a b : BitVec w) (n : Nat) :
    iopAt .div w a.toNat b.toNat n = (if b = 0#w then BitVec.allOnes w else BitVec.ofInt w (a.toInt.tdiv b.toInt)).toNat := by
  have e : b.toNat = 0 ↔ b = 0#w := by rw [← BitVec.toNat_inj]; simp
  simp only [iopAt, divOf, signedOf_toNat hw, wrapOf_eq, if_true, e]
  split <;> simp
theorem iopAt_divn (a b : BitVec w) (n : Nat) :
    iopAt .divn w a.toNat b.toNat n = (if b = 0#w then BitVec.allOnes w else a / b).toNat := by
  have e : b.toNat = 0 ↔ b = 0#w := by rw [← BitVec.toNat_inj]; simp
  simp only [iopAt, divOf, e]
  split <;> simp
theorem iopAt_rem (hw : 0 < w) (a b : BitVec w) (n : Nat) :
    iopAt .rem w a.toNat b.toNat n = (if b = 0#w then a else BitVec.ofInt w (a.toInt.tmod b.toInt)).toNat := by
  have e : b.toNat = 0 ↔ b = 0#w := by rw [← BitVec.toNat_inj]; simp
  simp only [iopAt, remOf, signedOf_toNat hw, wrapOf_eq, if_true, e]
  split <;> rfl
theorem iopAt_remn (a b : BitVec w) (n : Nat) :
    iopAt .remn w a.toNat b.toNat n = (if b = 0#w then a else a % b).toNat := by
  have e : b.toNat = 0 ↔ b = 0#w := by rw [← BitVec.toNat_inj]; simp
  simp only [iopAt, remOf, e]
  split <;> simp
theorem iopAt_min (hw : 0 < w) (a b : BitVec w) (n : Nat) :
    iopAt .min w a.toNat b.toNat n = (if a.toInt ≤ b.toInt then a else b).toNat := by
  simp only [iopAt, signedOf_toNat hw]
  split <;> rfl
theorem iopAt_max (hw : 0 < w) (a b : BitVec w) (n : Nat) :
    iopAt .max w a.toNat b.toNat n = (if a.toInt ≤ b.toInt then b else a).toNat := by
  simp only [iopAt, signedOf_toNat hw]
  split <;> rfl
theorem iopAt_minn (a b : BitVec w) (n : Nat) :
    iopAt .minn w a.toNat b.toNat n = (if a.toNat ≤ b.toNat then a else b).toNat := by
  simp only [iopAt, Nat.min_def]
  split <;> rfl
theorem iopAt_maxn (a b : BitVec w) (n : Nat) :
    iopAt .maxn w a.toNat b.toNat n = (if a.toNat ≤ b.toNat then b else a).toNat := by
  simp only [iopAt, Nat.max_def]
  split <;> rfl
theorem iopAt_addsat (hw : 0 < w) (a b : BitVec w) (n : Nat) : iopAt .addsat w a.toNat b.toNat n
    = (BitVec.ofInt w (max (-(2 ^ (w - 1) : Int)) (min (a.toInt + b.toInt) (2 ^ (w - 1) - 1)))).toNat := by
  simp only [iopAt, clampOf, signedOf_toNat hw, wrapOf_eq]
theorem iopAt_subsat (hw : 0 < w) (a b : BitVec w) (n : Nat) : iopAt .subsat w a.toNat b.toNat n
    = (BitVec.ofInt w (max (-(2 ^ (w - 1) : Int)) (min (a.toInt - b.toInt) (2 ^ (w - 1) - 1)))).toNat := by
  simp only [iopAt, clampOf, signedOf_toNat hw, wrapOf_eq]
theorem iopAt_absd (hw : 0 < w) (a b : BitVec w) (n : Nat) :
    iopAt .absd w a.toNat b.toNat n = (BitVec.ofNat w (a.toInt - b.toInt).natAbs).toNat := by
  have ha := BitVec.toInt_lt (x := a)
  have hb := BitVec.toInt_lt (x := b)
  have ha' := BitVec.le_toInt (x := a)
  have hb' := BitVec.le_toInt (x := b)
  have h2 : (2 : Int) ^ w = 2 * 2 ^ (w - 1) := by rw [← Int.pow_succ']; congr 1; omega
  have h2' : ((2 ^ w : Nat) : Int) = 2 ^ w := by simp
  have h : (a.toInt - b.toInt).natAbs < 2 ^ w := by omega
  simp [iopAt, signedOf_toNat hw, Nat.mod_eq_of_lt h]

/-- Bits shifted to the left and bits shifted out of the top do not meet. -/
theorem rot_parts (x : Nat) {k w : Nat} (hk : k ≤ w) (hx : x < 2 ^ w) :
    x * 2 ^ k % 2 ^ w + x / 2 ^ (w - k) = (x * 2 ^ k % 2 ^ w) ||| (x / 2 ^ (w - k)) := by
  have hw : 2 ^ w = 2 ^ (w - k) * 2 ^ k := by rw [← Nat.pow_add]; congr 1; omega
  have hlt : x / 2 ^ (w - k) < 2 ^ k := by
    apply Nat.div_lt_of_lt_mul
    rw [← hw]
    exact hx
  have hm : x * 2 ^ k % 2 ^ w = (x % 2 ^ (w - k)) <<< k := by
    rw [hw, Nat.mul_mod_mul_right, Nat.shiftLeft_eq]
  rw [hm]
  exact Nat.shiftLeft_add_eq_or_of_lt hlt _

theorem iopAt_rol (hw : 0 < w) (a b : BitVec w) (n : Nat) :
    iopAt .rol w a.toNat b.toNat n = (a.rotateLeft (n % w)).toNat := by
  have hn : n % w < w := Nat.mod_lt _ hw
  have hd : a.toNat / 2 ^ (w - n % w) < 2 ^ w := Nat.lt_of_le_of_lt (Nat.div_le_self _ _) a.isLt
  simp only [iopAt, BitVec.rotateLeft_def, Nat.mod_eq_of_lt hd, rot_parts _ (Nat.le_of_lt hn) a.isLt, Nat.mod_mod]
  simp [Nat.shiftLeft_eq, Nat.shiftRight_eq_div_pow]

theorem iopAt_ror (hw : 0 < w) (a b : BitVec w) (n : Nat) :
    iopAt .ror w a.toNat b.toNat n = (a.rotateRight (n % w)).toNat := by
  have hn : n % w < w := Nat.mod_lt _ hw
  have := rot_parts a.toNat (k := w - n % w) (Nat.sub_le _ _) a.isLt
  have hs : w - (w - n % w) = n % w := by omega
  rw [hs] at this
  simp only [iopAt, BitVec.rotateRight_def, Nat.mod_mod]
  rw [Nat.add_comm, this, Nat.or_comm]
  simp [Nat.shiftLeft_eq, Nat.shiftRight_eq_div_pow]

theorem bit_toNat (a : BitVec w) (i : Nat) : bit a.toNat i = a.getLsbD i := by
  simp only [bit, BitVec.getLsbD, Nat.testBit, Nat.shiftRight_eq_div_pow, Nat.one_and_eq_mod_two]
  have := Nat.mod_two_eq_zero_or_one (a.toNat / 2 ^ i)
  rcases this with h | h <;> simp [h]

theorem clzFrom_eq (a : BitVec w) (n : Nat) :
    clzFrom n a.toNat = ((List.range n).reverse.takeWhile fun i => !a.getLsbD i).length := by
  induction n with
  | zero => rfl
  | succ n ih =>
    simp only [clzFrom, bit_toNat, ih, List.range_succ, List.reverse_append, List.reverse_cons, List.reverse_nil, List.nil_append,
      List.singleton_append, List.takeWhile_cons]
    cases a.getLsbD n <;> simp [Nat.add_comm]
theorem ctzFrom_eq (a : BitVec w) (n i : Nat) :
    ctzFrom n i a.toNat = ((List.range' i n).takeWhile fun i => !a.getLsbD i).length := by
  induction n generalizing i with
  | zero => rfl
  | succ n ih =>
    simp only [ctzFrom, bit_toNat, ih, List.range'_succ, List.takeWhile_cons]
    cases a.getLsbD i <;> simp [Nat.add_comm]
theorem popFrom_eq (a : BitVec w) (n : Nat) : popFrom n a.toNat = ((List.range n).filter a.getLsbD).length := by
  induction n with
  | zero => rfl
  | succ n ih =>
    rw [popFrom, ih, List.range_succ, List.filter_append, List.length_append, Nat.add_comm, bit_toNat]
    cases h : a.getLsbD n <;> simp [boolNat, h]

/-- A member at 64 bits. -/
theorem iop_of {o : Iop} {l r x : W64} (h : iopAt o 64 l.toNat r.toNat r.toNat = x.toNat) : iop o l r = x := by
  simp [iop, h, w64]
/-- A member at 32 bits, sign-extended. -/
theorem iopw_of {o : Iop} {l r : W64} {x : BitVec 32}
    (h : iopAt o 32 (l.setWidth 32).toNat (r.setWidth 32).toNat r.toNat = x.toNat) : iopw o l r = x.signExtend 64 := by
  simp only [BitVec.toNat_setWidth] at h
  simp only [iopw, h, signedOf_toNat (by decide : 0 < 32) x]
  rfl

/-- The bit length of a number. -/
theorem bitLen_eq {v n : Nat} (h : v < 2 ^ n) : bitLen n v = if v = 0 then 0 else Nat.log2 v + 1 := by
  unfold bitLen
  induction n with
  | zero =>
    have : v = 0 := by omega
    simp [this]
  | succ n ih =>
    simp only [clzFrom]
    by_cases hb : v < 2 ^ n
    · have : bit v n = false := by simp [bit, Nat.div_eq_of_lt hb]
      simp only [this, Bool.false_eq_true, if_false]
      have := ih hb
      omega
    · have h1 : v / 2 ^ n = 1 := by
        apply Nat.div_eq_of_lt_le
        · omega
        · rw [Nat.pow_succ] at h; omega
      have hv : v ≠ 0 := by
        intro h0
        simp [h0] at hb
      have : bit v n = true := by simp [bit, h1]
      simp only [this, if_true, hv, if_false]
      have : Nat.log2 v = n := by
        rw [Nat.log2_eq_iff hv]
        exact ⟨by omega, h⟩
      omega

/-- The latency of a division: 12 cycles where no quotient is computed, else 12 and 3 for each started byte of the quotient (R77). -/
theorem divLatency_eq (n : Nat) (hn : 0 < n) (hn' : n ≤ 64) (sg : Bool) (l r : W64) :
    divLatency n sg l r = divisionTime n sg l r := by
  have e0 : (r.toNat % 2 ^ n = 0) ↔ r.setWidth n = 0#n := by rw [← BitVec.toNat_inj]; simp
  have e1 : (l.toNat % 2 ^ n = 2 ^ (n - 1)) ↔ l.setWidth n = BitVec.intMin n := by
    rw [← BitVec.toNat_inj, BitVec.toNat_intMin]; simp [hn]
  have e2 : (r.toNat % 2 ^ n = 2 ^ n - 1) ↔ r.setWidth n = BitVec.allOnes n := by rw [← BitVec.toNat_inj]; simp
  simp only [divLatency, divisionTime, e0, e1, e2]
  split
  · rfl
  · have hp : 2 ^ n ≤ 2 ^ 64 := Nat.pow_le_pow_right (by decide) hn'
    have sa : signedOf n (l.toNat % 2 ^ n) = (l.setWidth n).toInt := by rw [← BitVec.toNat_setWidth, signedOf_toNat hn]
    have sb : signedOf n (r.toNat % 2 ^ n) = (r.setWidth n).toInt := by rw [← BitVec.toNat_setWidth, signedOf_toNat hn]
    simp only [sa, sb]
    have ha := (l.setWidth n).isLt
    have hb : (if sg then ((l.setWidth n).toInt.tdiv (r.setWidth n).toInt).natAbs
        else l.toNat % 2 ^ n / (r.toNat % 2 ^ n)) < 2 ^ 65 := by
      split
      · rw [Int.natAbs_tdiv]
        refine Nat.lt_of_le_of_lt (Nat.div_le_self _ _) ?_
        have := BitVec.toInt_lt (x := l.setWidth n)
        have h' := BitVec.le_toInt (x := l.setWidth n)
        have h2 : (2 : Int) ^ (n - 1) ≤ 2 ^ 63 := by
          have : (2 : Nat) ^ (n - 1) ≤ 2 ^ 63 := Nat.pow_le_pow_right (by decide) (by omega)
          exact_mod_cast this
        omega
      · refine Nat.lt_of_le_of_lt (Nat.div_le_self _ _) ?_
        simp only [BitVec.toNat_setWidth] at ha
        omega
    simp only [bitLen_eq hb, ceilDiv, BitVec.toNat_setWidth]
    split <;> rfl
end Sys2Proof.Machine
end

