-- ==== Sys2Proof/Tests/Slice0.lean ====
section
/-! SUPPORT. Tests: words written out from the encodings of spec/02 and spec/10, the checks of WellFormed, single steps worked by hand from the
specification's examples, and for every statement a state and operands that meet the hypotheses of its clauses (`witness_<statement>`). -/

namespace Sys2Proof.Tests
open Sys2Proof Sys2Proof.Machine

/-! ## Decoding: one word of each family, from R44 to R48 and R243 -/

/-- Format A: opcode 0x01, register 3 in [22:18], T1 none, T0 `.l` of slot 5 (0x085). -/
theorem test_decode_read : decodeTableWord 32 (0x01 * 2 ^ 25 + 3 * 2 ^ 18 + 0x085) = some (.read 3#5 .none (.into .l 5#7)) := by decide
/-- Register 30 is no register (R78): the word decodes, and is not well-formed. -/
theorem test_wf_read : (Instr.read 30#5 .none .none).wf = false := by decide
/-- Format G: opcode 0x10, `pr` 10, `xop` 0x1B, T1 `.r` of slot 7 (0x107), T0 `.x` of slot 13 (0x18D). -/
theorem test_decode_iop :
    decodeTableWord 32 (0x10 * 2 ^ 25 + 2 * 2 ^ 23 + 0x1B * 2 ^ 18 + 0x107 * 2 ^ 9 + 0x18D) = some (.absd .onFalse (.into .r 7#7) (.into .x 13#7)) := by decide
/-- IOPW has no member 0x0C (R90). -/
theorem test_decode_iopw_reserved : decodeTableWord 32 (0x11 * 2 ^ 25 + 0x0C * 2 ^ 18) = none := by decide
/-- A nonzero target without an operand, the predicate code 11 and a reserved opcode are illegal (R45 to R47). -/
theorem test_decode_illegal : decodeTableWord 32 (0x10 * 2 ^ 25 + 5) = none ∧ decodeTableWord 32 (0x10 * 2 ^ 25 + 3 * 2 ^ 23) = none ∧
    decodeTableWord 32 (0x1F * 2 ^ 25) = none ∧ decodeTableWord 32 0 = none := by decide
/-- Format I: `imm14` in [22:9]. -/
theorem test_decode_addi : decodeTableWord 32 (0x12 * 2 ^ 25 + 0x3FFF * 2 ^ 9 + 0x08E) = some (.addi .always 0x3FFF#14 (.into .l 14#7)) := by decide
/-- Bits [13:6] of a shift's immediate are reserved (R91). -/
theorem test_decode_shift : decodeTableWord 32 (0x18 * 2 ^ 25 + 63 * 2 ^ 9) = some (.srai .always 63#6 .none) ∧
    decodeTableWord 32 (0x18 * 2 ^ 25 + 64 * 2 ^ 9) = none := by decide
/-- A field that ends at bit 63 is legal, one that reaches bit 64 is not (R94). -/
theorem test_wf_ext : (Instr.ext .always 0#1 8#6 56#6 .none).wf = true ∧ (Instr.ext .always 0#1 9#6 56#6 .none).wf = false ∧
    (Instr.ext .always 0#1 0#6 1#6 .none).wf = false ∧ decodeTableWord 32 (0x1D * 2 ^ 25 + 9 * 2 ^ 15 + 56 * 2 ^ 9) = none := by decide
/-- Format X: exit in [22:20], `off20` in [19:0]. -/
theorem test_decode_exits : decodeTableWord 32 (0x26 * 2 ^ 25 + 1 * 2 ^ 23 + 7 * 2 ^ 20 + 0xFFFFF) = some (.susp .onTrue 7#3 0xFFFFF#20) ∧
    decodeTableWord 32 (0x25 * 2 ^ 25 + 1) = none := by decide
/-- Kind `LB` in [14:13] carries scope 0 in [17:15] (R117). -/
theorem test_wf_fence : (Instr.fence .always 0#5 .ctx .lb .none).wf = true ∧ (Instr.fence .always 0#5 .core .lb .none).wf = false ∧
    decodeTableWord 32 (0x35 * 2 ^ 25 + 1 * 2 ^ 15 + 3 * 2 ^ 13) = none := by decide
/-- The compare-and-swap members have operands of their own on `.x` (R35, R134). -/
theorem test_wf_amo : (Instr.amorl .always .casx .none .none).wf = true ∧ (Instr.amorl .onTrue .casx .none .none).wf = false ∧
    (Instr.amorl .onTrue .decz .none .none).wf = true ∧ decodeTableWord 32 (0x3F * 2 ^ 25 + 1 * 2 ^ 23 + 0x0A * 2 ^ 18) = none := by decide
/-- Opcode 0x44, pair 27; opcode 0x45, function 7 (R161, R162). -/
theorem test_decode_float : decodeTableWord 32 (0x44 * 2 ^ 25 + 27 * 2 ^ 18) = some (.fcvt .always .f32e8m0 .none .none) ∧
    decodeTableWord 32 (0x45 * 2 ^ 25 + 7 * 2 ^ 18 + 0x080) = some (.sfnSigm .always .none (.into .l 0#7)) := by decide
/-- Opcode 0x4B, member 3, predicated; opcode 0x52, condition 5 (R178, R179). -/
theorem test_decode_vector : decodeTableWord 32 (0x4B * 2 ^ 25 + 1 * 2 ^ 23 + 3 * 2 ^ 18) = some (.vredAmax .onTrue) ∧
    decodeTableWord 32 (0x52 * 2 ^ 25 + 5 * 2 ^ 18) = some (.vcmp .ge) := by decide
/-- Opcode 0x6E holds the low nibble of a pair's opcode (R48). -/
theorem test_decode_matrix : decodeTableWord 32 (0x6E * 2 ^ 25 + 0xD * 2 ^ 18) = some (.mrot .nn) ∧ decodeTableWord 32 (0x6E * 2 ^ 25 + 0xE * 2 ^ 18) = none := by decide
/-- Opcode 0x7A, control word 0x0047; opcode 0x7C, exit 1, code 0xABCDE (R229, R231). -/
theorem test_decode_system : decodeTableWord 32 (0x7A * 2 ^ 25 + 0x47 * 2 ^ 9) = some (.cww .always 0x47#14) ∧
    decodeTableWord 32 (0x7C * 2 ^ 25 + 1 * 2 ^ 20 + 0xABCDE) = some (.sysc .always 1#3 0xABCDE#20) := by decide
/-- R-type in custom-0: `funct7` 13, `rs2` 3, `rs1` 4, `funct3` 5, `rd` 6 (R243, R251). -/
theorem test_decode_samo : decodeTableWord 32 (13 * 2 ^ 25 + 4 * 2 ^ 15 + 5 * 2 ^ 12 + 6 * 2 ^ 7 + 0x0B) = some (.samoDecz 0#5 4#5 6#5) := by decide
/-- `addi x1, x0, 1` and `csrrw x0, 0x800, x5` of RV32I; custom-1, and a register field that `SHEND` does not use, are illegal (R240, R243). -/
theorem test_decode_slice : decodeSlice 0x00100093 = .sliceBaseInstruction false (.opImm .add 1#5 0#5 1#32) ∧
    decodeSlice 0x80029073 = .sliceBaseInstruction false (.csr .rw 0#5 0x800#12 5#5) ∧
    decodeSlice 0x0000002B = .sliceBaseInstruction false .illegal ∧ decodeSlice (7 * 2 ^ 12 + 1 * 2 ^ 7 + 0x0B) = .sliceBaseInstruction false .illegal := by decide
/-- `c.li x5, 1` (RV32C) is `addi x5, x0, 1`. -/
theorem test_decode_compressed : decodeSlice 0x4285 = .sliceBaseInstruction true (.opImm .add 5#5 0#5 1#32) := by decide

/-! ## Scenes -/

/-- Context 0 of core 0 of the first polder. -/
abbrev here : Loc := ⟨0, 0, 0, 0⟩
/-- A checked block of which slot 0 holds the word `w` and has its operands. -/
def blk (w l r x : Nat) : Block := { wordBlock 1 w with ops := [(0, .l, .val (w64 l)), (0, .r, .val (w64 r)), (0, .x, .val (w64 x))] }
/-- A user context that runs. -/
def user : Context := { Context.initial 0 with state := 2#3 }
/-- A supervisor context that runs. -/
def super : Context := { user with sup := true }
/-- The machine after reset with a block in flight in a context. -/
def scene (c : Context) (b : Block) : State := { State.reset with ctxs := [(here, { c with block := some b })], focus := ⟨here, 1, 0⟩, epoch := 2 }
/-- The same, with a polder. -/
def withPolder (s : State) (p : PolderState) : State := { s with polders := [(here, p)] }
/-- The same, with memory. -/
def withMem (s : State) (m : Memory) : State := { s with mem := m }

/-- Slot 0 of a block may fire with values `vs` on the operands `os`, and `pre` holds: the hypotheses of `Completes`. -/
def Meets (p : Pred) (os : List Opnd) (vs : List W64) (pre : State → Block → Prop) : Prop :=
  ∃ (s : State) (b : Block), s.firingBlock b ∧ predFall p (b.tok s .x) = .taken ∧ b.gives s os vs ∧ pre s b

/-- A sum of operands that come from a block: 7 and 5 give 12 after one cycle, to `.l` of slot 3 (R34, R77, R87). -/
theorem test_step_add : ∃ t, step { scene user (blk (0x20000083) 7 5 0) with agenda := [⟨3, .fire here 1 0⟩] } = .next t ∧
    ⟨5, .event (.tokenArrival here 1 .l 3 (.val 12#64))⟩ ∈ t.agenda := ⟨_, rfl, by decide⟩

/-! ## Witnesses: instructions of blocks -/

/-- With the values 7, 5 and 1 on the operands, an unpredicated slot and one predicated true may fire. -/
theorem fires (c : Context) (w l r x : Nat) :
    (scene c (blk w l r x)).firingBlock (blk w l r x) ∧ predFall .always ((blk w l r x).tok (scene c (blk w l r x)) .x) = .taken ∧
    (blk w l r x).gives (scene c (blk w l r x)) [] [] ∧ (blk w l r x).gives (scene c (blk w l r x)) [.l] [w64 l] ∧
    (blk w l r x).gives (scene c (blk w l r x)) [.l, .r] [w64 l, w64 r] ∧
    (blk w l r x).gives (scene c (blk w l r x)) [.l, .r, .x] [w64 l, w64 r, w64 x] := ⟨⟨rfl, rfl⟩, rfl, rfl, rfl, rfl, rfl⟩

/-- A scene meets the hypotheses of a statement about an instruction of no, one, two or three operands. -/
theorem meets0 (c : Context) (w l r x : Nat) {pre : State → Block → Prop} (h : pre (scene c (blk w l r x)) (blk w l r x)) : Meets .always [] [] pre :=
  ⟨_, _, (fires c w l r x).1, (fires c w l r x).2.1, (fires c w l r x).2.2.1, h⟩
theorem meets1 (c : Context) (w l r x : Nat) {pre : State → Block → Prop} (h : pre (scene c (blk w l r x)) (blk w l r x)) :
    Meets .always [.l] [w64 l] pre := ⟨_, _, (fires c w l r x).1, (fires c w l r x).2.1, (fires c w l r x).2.2.2.1, h⟩
theorem meets2 (c : Context) (w l r x : Nat) {pre : State → Block → Prop} (h : pre (scene c (blk w l r x)) (blk w l r x)) :
    Meets .always [.l, .r] [w64 l, w64 r] pre := ⟨_, _, (fires c w l r x).1, (fires c w l r x).2.1, (fires c w l r x).2.2.2.2.1, h⟩
theorem meets3 (c : Context) (w l r x : Nat) {pre : State → Block → Prop} (h : pre (scene c (blk w l r x)) (blk w l r x)) :
    Meets .always [.l, .r, .x] [w64 l, w64 r, w64 x] pre := ⟨_, _, (fires c w l r x).1, (fires c w l r x).2.1, (fires c w l r x).2.2.2.2.2, h⟩

/-- IntegerResults, WordResults, SmallResults, FloatResults, the fences: values on the operands, unpredicated or with a predicate that matches. -/
theorem witness_IntegerResults : Meets .always [.l, .r] [7#64, 0#64] (fun _ _ => True) ∧ Meets .onTrue [.l, .r] [7#64, 5#64] (fun _ _ => True) ∧
    Meets .onFalse [.l, .r] [0x8000000000000000#64, 0xFFFFFFFFFFFFFFFF#64] (fun _ _ => True) :=
  ⟨meets2 user 0 7 0 0 trivial, ⟨_, _, (fires user 0 7 5 1).1, rfl, rfl, trivial⟩,
    ⟨_, _, (fires user 0 0x8000000000000000 0xFFFFFFFFFFFFFFFF 0).1, rfl, rfl, trivial⟩⟩
theorem witness_WordResults : Meets .always [.l] [0x100000000#64] (fun _ _ => True) := meets1 user 0 0x100000000 0 0 trivial
theorem witness_SmallResults : Meets .always [] [] (fun _ _ => True) ∧ Meets .always [.l, .r, .x] [7#64, 5#64, 0#64] (fun _ _ => True) ∧
    (∃ (s : State) (b : Block), s.firingBlock b ∧ predFall .onTrue (b.tok s .x) ≠ .off) :=
  ⟨meets0 user 0 7 5 0 trivial, meets3 user 0 7 5 0 trivial, ⟨_, _, (fires user 0 7 5 1).1, by decide⟩⟩
theorem witness_FloatResults : Meets .always [.l, .r, .x] [0x3FF0000000000000#64, 0x7FF0000000000000#64, 1#64] (fun _ _ => True) :=
  meets3 user 0 0x3FF0000000000000 0x7FF0000000000000 1 trivial
/-- A predicate that does not match, one that is a null, and an operand that is a null. -/
theorem witness_PredicatedOff : ∃ (s : State) (b : Block), s.firingBlock b ∧ predFall (predIs (.add .onTrue .none .none)) (b.tok s .x) = .off :=
  ⟨_, _, (fires user 0 7 5 0).1, rfl⟩
theorem witness_NullsPropagate :
    (∃ (s : State) (b : Block), s.firingBlock b ∧ predFall (predIs (.add .onTrue .none .none)) (b.tok s .x) = .nulled ∧
      ∀ o ∈ inputsOf (.add .onTrue .none .none), (b.operand s.focus.slot o).isSome) ∧
    ∃ (s : State) (b : Block), s.firingBlock b ∧ predFall (predIs (.add .always .none .none)) (b.tok s .x) = .taken ∧
      (∀ o ∈ inputsOf (.add .always .none .none), (b.operand s.focus.slot o).isSome) ∧ ∃ o ∈ inputsOf (.add .always .none .none), b.operand s.focus.slot o = some .null :=
  ⟨⟨scene user { blk 0 7 5 0 with ops := [(0, .l, .val 7#64), (0, .r, .val 5#64), (0, .x, .null)] }, _, ⟨rfl, rfl⟩, rfl, by decide⟩,
    ⟨scene user { blk 0 7 5 0 with ops := [(0, .l, .null), (0, .r, .val 5#64)] }, _, ⟨rfl, rfl⟩, rfl, by decide, .l, by decide, rfl⟩⟩
/-- `eq1` with a row descriptor, and a port with a word. -/
theorem witness_ReadResults : Meets .always [] [] (fun _ _ => True) ∧
    Meets .always [] [] (fun s b => s.queueWord s.focus.l b 21 = some ⟨0, 9#64⟩) ∧
    ∃ (s : State) (b : Block), s.firingBlock b ∧ b.gives s [] [] ∧ s.queueWord s.focus.l b 27 = some ⟨3, 4#64⟩ :=
  ⟨meets0 user 0 0 0 0 trivial, meets0 { user with rowQ := [9#64] } 0 0 0 0 rfl,
    ⟨{ scene user (blk 0 0 0 0) with cores := [(here, { CoreState.initial here with ports := [[], [], [], [⟨3, 4#64⟩]] })] }, _, ⟨rfl, rfl⟩, rfl, rfl⟩⟩
theorem witness_WriteRegisters : Meets .always [.l] [7#64] (fun _ b => ¬ b.writes.any fun w => w.1 == 15) ∧
    ∃ (s : State) (b : Block), s.firingBlock b ∧ predFall .always (b.tok s .x) = .taken ∧ b.gives s [.l] [7#64] ∧ b.writes.any fun w => w.1 == 15 :=
  ⟨meets1 user 0 7 0 0 (by decide), ⟨scene user { blk 0 7 0 0 with writes := [(15, none)] }, _, ⟨rfl, rfl⟩, rfl, rfl, rfl⟩⟩
theorem witness_ExitsRecorded : Meets .always [.l] [0xFFFFFFFFFF#64] (fun s b => b.exit = none ∧ (s.ctx s.focus.l).lead = none ∧ 0xFFFFFFFFFF < 2 ^ 40 ∧
      s.migrTarget s.focus.l 0xFFFFFFFFFF = .ok here) ∧
    ∃ (s : State) (b : Block), s.firingBlock b ∧ b.gives s [.l] [0#64] ∧ b.exit.isSome ∧ (s.ctx s.focus.l).lead = none :=
  ⟨meets1 user 0 0xFFFFFFFFFF 0 0 ⟨rfl, rfl, by decide, rfl⟩, ⟨scene user { blk 0 0 0 0 with exit := some .done }, _, ⟨rfl, rfl⟩, rfl, rfl, rfl⟩⟩
/-- A supervisor whose frame names the workspace 0 (memory reads as zero), and a user. -/
theorem witness_PrivilegedInstructions : Meets .always [.l] [0x1FF80#64] (fun s _ => (s.ctx s.focus.l).sup = true ∧ s.wpCause s.focus.l 0x1FF80 = 0) ∧
    Meets .always [] [] (fun s b => (s.ctx s.focus.l).sup = true ∧ b.exit = none ∧
      s.wpCause s.focus.l (bits (s.home64 s.focus.l ((s.ctx s.focus.l).trapframe.toNat + 24)) 16 0) = 0) ∧
    Meets .always [.l, .r, .x] [0#64, 0#64, 0#64] (fun s _ => (s.ctx s.focus.l).sup = false) :=
  ⟨meets1 super 0 0x1FF80 0 0 (by decide), meets0 super 0 0 0 0 (by decide), meets3 user 0 0 0 0 rfl⟩
theorem witness_ControlWordReads : Meets .always [] [] (fun s _ => (s.ctx s.focus.l).sup = true) := meets0 super 0 0 0 0 rfl
/-- The rounding modes 4 and 5, the steal values at the launch's limit and beyond it, 2 and 3, and a second write of the number. -/
theorem witness_ControlWordWrites :
    Meets .always [.l] [0x41F#64] (fun s b => (b.acts.any fun a => isCww 0 a.2) = false ∧ 0x41F / 256 % 8 < 5 ∧ (s.ctx s.focus.l).sup = true) ∧
    Meets .always [.l] [0x500#64] (fun _ _ => 5 ≤ 0x500 / 256 % 8) ∧
    Meets .always [.l] [1#64] (fun s _ => 1 % 4 < 3 ∧ 1 % 4 ≤ (s.ctx s.focus.l).stealMax.toNat) ∧
    Meets .always [.l] [2#64] (fun s _ => (s.ctx s.focus.l).sup = false ∧ 2 % 4 < 3 ∧ (s.ctx s.focus.l).stealMax.toNat < 2 % 4) ∧
    Meets .always [.l] [3#64] (fun _ _ => 3 % 4 = 3) ∧
    ∃ (s : State) (b : Block), s.firingBlock b ∧ b.gives s [.l] [0#64] ∧ (b.acts.any fun a => isCww 0x47 a.2) = true ∧ (s.ctx s.focus.l).sup = true :=
  ⟨meets1 super 0 0x41F 0 0 (by decide), meets1 user 0 0x500 0 0 (by decide), meets1 { user with stealMax := 1#2 } 0 1 0 0 (by decide),
    meets1 { user with stealMax := 1#2 } 0 2 0 0 (by decide), meets1 user 0 3 0 0 rfl,
    ⟨scene super { blk 0 0 0 0 with acts := [(1, .cww 0x47 none)] }, _, ⟨rfl, rfl⟩, rfl, rfl, rfl⟩⟩
theorem witness_SpecialFunctions : Meets .always [.l] [0#64] (fun s _ => (s.core s.focus.l).sfu.length < 16 ∧ (s.core s.focus.l).sfuBusy = false) ∧
    (∃ (s : State) (c : Loc) (r : SfuReq) (q : List SfuReq), sfuLive s (s.core c).sfu = r :: q ∧ 0 < r.epoch) ∧ (∃ (s : State) (c : Loc), sfuLive s (s.core c).sfu = []) ∧
    (∃ (s : State) (l : Loc) (ep n : Nat) (b : Block) (i : Instr), 0 < ep ∧ s.inFlight l ep b ∧ n ∈ b.out ∧ b.instrAt n = some i) ∧ ∃ (s : State) (l : Loc) (ep : Nat), 0 < ep ∧ s.blockAt l ep = none :=
  ⟨meets1 user 0 0 0 0 ⟨by decide, rfl⟩,
    ⟨{ scene user { blk 0 0 0 0 with out := [0] } with cores := [(here, { CoreState.initial here with sfu := [⟨here, 1, 0, .rcp, 0⟩] })] }, here, _, _, rfl, by decide⟩,
    ⟨State.reset, here, rfl⟩, ⟨scene user { blk 0x8A080000 0 0 0 with out := [0] }, here, 1, 0, _, .sfnRcp .always .none .none, by decide, ⟨rfl, rfl⟩, by decide, rfl⟩,
    ⟨State.reset, here, 1, by decide, rfl⟩⟩

/-! ## Witnesses: memory instructions -/

/-- The first and the last address of each home range, and addresses beside them. -/
theorem witness_HomeRanges : homePlace here 0 = some ⟨here, 2, 0⟩ ∧ homePlace here 0x1FFFF = some ⟨here, 2, 0x1FFFF⟩ ∧ homePlace here 0x20000 = none ∧
    homePlace here 0xFFFFF = none ∧ homePlace here 0x100000 = some ⟨here, 2, 0⟩ ∧ homePlace here 0x1FFFFF = some ⟨here, 2, 0xFFFFF⟩ ∧ homePlace here 0x200000 = none ∧
    homePlace here 0x400000 = some ⟨here, 3, 0⟩ ∧ homePlace here 0x47FFFF = some ⟨here, 3, 0x7FFFF⟩ ∧ homePlace here 0x480000 = none ∧
    homePlace here 0x800000 = some ⟨here, 5, 0⟩ ∧ homePlace here 0x81FFFF = some ⟨here, 5, 0x1FFFF⟩ ∧ homePlace here 0x820000 = none ∧
    homePlace here 0x100000000 = some ⟨here, 0, 0⟩ ∧ homePlace here 0x17FFFFFFF = some ⟨here, 0, 0x7FFFFFFF⟩ ∧ homePlace here 0x180000000 = none ∧
    homePlace here 0x4000000000 = some ⟨here, 1, 0⟩ ∧ homePlace here 0x7FFFFFFFFF = some ⟨here, 1, 0x3FFFFFFFFF⟩ ∧ homePlace here 0x8000000000 = none := by decide
/-- A load of its own core memory, of another core's, and of HBM. -/
theorem witness_LoadsRequest :
    Meets .always [.l] [0x1FFF8#64] (fun s _ => 0x1FFF8 % 8 = 0 ∧ homePlace s.focus.l 0x1FFF8 = some ⟨s.focus.l.toPolder, 2, 0x1FFF8⟩ ∧
      s.lockHit s.focus.l (keyIn s.focus.l.toPolder 2 0x1FFF8) 8 true = none ∧ s.eccHit (keyIn s.focus.l.toPolder 2 0x1FFF8) 8 = false) ∧
    Meets .always [.l] [0x120000#64] (fun s _ => homePlace s.focus.l 0x120000 = some ⟨s.focus.l.toPolder, 2, 0x20000⟩) ∧
    Meets .always [.l] [0x100000000#64] (fun s _ => s.readerOf s.focus.l (s.ctx s.focus.l).pasid.toNat 0x100000000 = none ∧
      ∃ q, homePlace s.focus.l 0x100000000 = some q ∧ q.space < 2 ∧ s.missesOf s.focus.l < 48 ∧ s.reaches (s.asked 0x100000000 8 (.load here 1 0 none)) q) :=
  ⟨meets1 user 0 0x1FFF8 0 0 (by decide), meets1 user 0 0x120000 0 0 rfl,
    meets1 user 0 0x100000000 0 0 ⟨rfl, ⟨here, 0, 0⟩, rfl, by decide, by decide, rfl, rfl, .inl ⟨by decide, rfl⟩⟩⟩
/-- A registration of the first line of core memory, owned by context 1. -/
def otherLock : RangeLock := ⟨1, true, 1, 0, 0, false, { here with ctx := 1 }, keyIn here 2 0, 0, 64, 0⟩
/-- A misaligned load, one outside the ranges, one in an unmapped page, a user's of handler memory, one in a destination of another owner, and a null. -/
theorem witness_LoadChecks : Meets .always [.l] [4#64] (fun _ _ => 4 % 8 ≠ 0) ∧ Meets .always [.l] [0x20000#64] (fun s _ => homePlace s.focus.l 0x20000 = none) ∧
    Meets .always [.l] [0x4000000000#64] (fun s _ => homePlace s.focus.l 0x4000000000 = some ⟨s.focus.l.toPolder, 1, 0⟩ ∧ s.tierKey s.focus.l 0 = none) ∧
    Meets .always [.l] [0x800000#64] (fun s _ => (s.ctx s.focus.l).sup = false ∧ homePlace s.focus.l 0x800000 = some ⟨s.focus.l.toPolder, 5, 0⟩) ∧
    (∃ (s : State) (b : Block) (r : RangeLock), s.firingBlock b ∧ b.gives s [.l] [0#64] ∧ s.lockHit s.focus.l (keyIn s.focus.l.toPolder 2 0) 8 true = some r ∧ r.owner ≠ s.focus.l) ∧
    ∃ (s : State) (b : Block), s.firingBlock b ∧ predFall .always (b.tok s .x) = .taken ∧ b.operand s.focus.slot .l = some .null :=
  ⟨meets1 user 0 4 0 0 (by decide), meets1 user 0 0x20000 0 0 rfl, meets1 user 0 0x4000000000 0 0 (by decide), meets1 user 0 0x800000 0 0 ⟨rfl, rfl⟩,
    ⟨withPolder (scene user (blk 0 0 0 0)) { PolderState.initial with locks := [otherLock] }, _, otherLock, ⟨rfl, rfl⟩, rfl, by decide, by decide⟩,
    ⟨scene user { blk 0 0 0 0 with ops := [(0, .l, .null)] }, _, ⟨rfl, rfl⟩, rfl, rfl⟩⟩
theorem witness_StoresHeld : Meets .always [.l, .r] [0#64, 5#64] (fun s b => b.lsidFree 31 ∧ s.storeCause s.focus.l 0 8 = 0) ∧
    Meets .always [.l, .r] [1#64, 5#64] (fun s _ => s.storeCause s.focus.l 1 8 = 3) ∧
    (∃ (s : State) (b : Block), s.firingBlock b ∧ b.gives s [.l, .r] [0#64, 5#64] ∧ ¬ b.lsidFree 31 ∧ s.storeCause s.focus.l 0 8 = 0) ∧
    ∃ (s : State) (b : Block), s.firingBlock b ∧ predFall .always (b.tok s .x) = .taken ∧ b.operand s.focus.slot .r = some .null ∧ b.lsidFree 31 :=
  ⟨meets2 user 0 0 5 0 ⟨fun y h => (List.not_mem_nil h).elim, by decide⟩, meets2 user 0 1 5 0 (by decide),
    ⟨scene user { blk 0 0 5 0 with stores := [⟨31, 1, 0, 8, none, false, none⟩] }, _, ⟨rfl, rfl⟩, rfl, by simp [Block.lsidFree], by decide⟩,
    ⟨scene user { blk 0 0 5 0 with ops := [(0, .l, .val 0#64), (0, .r, .null)] }, _, ⟨rfl, rfl⟩, rfl, rfl, fun y h => (List.not_mem_nil h).elim⟩⟩
/-- Stores at the limits of each check: the HBM limit of 64 KiB, the running context's own workspace at its last word and the word before it. -/
theorem witness_StoreChecks :
    let s := scene { user with home := 1#64 } (blk 0 0 0 0)
    s.storeCause here 0xFFFFFFFFF9 8 = 3 ∧ s.storeCause here 0x10000000000 8 = 7 ∧ s.storeCause here 0xFFFFFFFFF8 8 = 7 ∧ s.storeCause here 0x4000000000 8 = 7 ∧
    s.storeCause here 0x10000FFF8 8 = 0 ∧ s.storeCause here 0x100010000 8 = 7 ∧ s.storeCause here 0x800000 8 = 0x0C ∧ s.storeCause here 0x1FC78 8 = 8 ∧
    s.storeCause here 0x1FBF8 8 = 0 ∧ s.storeCause here 0x1FC80 8 = 0 ∧ s.storeCause here 0x120000 8 = 0 ∧ s.storeCause here 0x47FFF8 8 = 0 ∧
    (scene super (blk 0 0 0 0)).storeCause here 0x81FFF8 8 = 0 := by decide
theorem witness_FencesAndPrefetches : Meets .always [] [] (fun s _ => s.ahead s.focus.l = []) ∧
    (∃ (s : State) (b : Block), s.firingBlock b ∧ predFall .onTrue (b.tok s .x) = .nulled) ∧
    Meets .always [.l] [0x100000001#64] (fun s _ => s.reaches (s.asked 0x100000000 64 (.pref 0 none)) ⟨here, 0, 0⟩) ∧
    Meets .always [.l] [0x40#64] (fun s _ => homePlace s.focus.l 0x40 = some ⟨here, 2, 0x40⟩) ∧
    Meets .always [.l] [0x20001#64] (fun s _ => homePlace s.focus.l 0x20000 = none) :=
  ⟨meets0 user 0 0 0 0 (by decide), ⟨scene user { blk 0 0 0 0 with ops := [(0, .x, .null)] }, _, ⟨rfl, rfl⟩, rfl⟩,
    meets1 user 0 0x100000001 0 0 ⟨rfl, rfl, .inl ⟨by decide, rfl⟩⟩, meets1 user 0 0x40 0 0 rfl, meets1 user 0 0x20001 0 0 rfl⟩
theorem witness_AtomicsSent :
    Meets .always [.l, .r] [0x100000#64, 1#64] (fun s _ => 0x100000 % 8 = 0 ∧ homePlace s.focus.l 0x100000 = some ⟨s.focus.l.toPolder, 2, 0⟩) ∧
    Meets .always [.l, .r, .x] [0x100000000#64, 1#64, 2#64] (fun s _ => (∀ off, homePlace s.focus.l 0x100000000 ≠ some ⟨s.focus.l.toPolder, 2, off⟩) ∧
      s.reaches (s.asked 0x100000000 8 (.atomic (s.amoPacket .cas .relaxed [0x100000000#64, 1#64, 2#64]))) ⟨here, 0, 0⟩) ∧
    Meets .always [.l] [0x20000#64] (fun s _ => homePlace s.focus.l 0x20000 = none) ∧
    Meets .always [.l] [0x400000#64] (fun s _ => ∃ q, homePlace s.focus.l 0x400000 = some q ∧ 3 ≤ q.space) ∧
    Meets .always [.l] [4#64] (fun s _ => (∃ q, homePlace s.focus.l 4 = some q ∧ q.space ≤ 2 ∧ q.space ≠ 1) ∧ 4 % 8 ≠ 0) :=
  ⟨meets2 user 0 0x100000 1 0 ⟨rfl, rfl⟩, meets3 user 0 0x100000000 1 2 ⟨fun off h => by simp [homePlace] at h, rfl, rfl, .inl ⟨by decide, rfl⟩⟩, meets1 user 0 0x20000 0 0 rfl,
    meets1 user 0 0x400000 0 0 ⟨_, rfl, by decide⟩, meets1 user 0 4 0 0 ⟨⟨_, rfl, by decide, by decide⟩, by decide⟩⟩
/-- A listen record of zeros is legal: a pull of one byte to address 0. -/
theorem witness_WatchInstructions :
    Meets .always [.l, .r, .x] [0x100000000#64, 3#64, 0x100000000#64] (fun s _ => s.gaugeCause s.focus.l 0x100000000 = 0 ∧
      s.storeRange s.focus.l (polderView s.focus.l 0x100000000) 64 = 0 ∧ s.storeRange s.focus.l (polderView s.focus.l 0x100000000) 8 = 0 ∧
      s.reaches (s.asked 0x100000000 8 (.watch ⟨here, 1, 0, .task, 3, 0, 0, 0, 0, []⟩)) ⟨here, 0, 0⟩) ∧
    Meets .always [.l, .r] [0x100000000#64, 0x40#64] (fun s _ => s.gaugeCause s.focus.l 0x100000000 = 0 ∧
      s.recordCause s.focus.l (polderView s.focus.l 0x40) 64 = 0 ∧ (s.listenCause s.focus.l (s.listenBytes s.focus.l (polderView s.focus.l 0x40))).1 = 0 ∧
      (s.polder s.focus.l).listens.length < 16) ∧
    (∃ (s : State) (b : Block), s.firingBlock b ∧ b.gives s [.l, .r] [0#64, 0x40#64] ∧ s.gaugeCause s.focus.l 0 = 0 ∧ 16 ≤ (s.polder s.focus.l).listens.length) ∧
    Meets .always [.l, .r, .x] [0#64, 0#64, 0#64] (fun s _ => s.pullCause s.focus.l 0 0 = 0) ∧
    Meets .always [.l, .r, .x] [0#64, 0#64, 0x300000#64] (fun _ _ => bits 0x300000 21 20 = 3) ∧
    Meets .always [.l, .r, .x] [0#64, 0#64, 0x1000000#64] (fun _ _ => bits 0x1000000 21 20 ≠ 3 ∧ bits 0x1000000 23 23 = 0 ∧ bits 0x1000000 63 24 % 8 ≠ 0) ∧
    Meets .always [.l, .r, .x] [0#64, 0x1FFFF#64, 1#64] (fun s _ => bits 1 21 20 ≠ 3 ∧ bits 1 23 23 = 0 ∧ bits 1 63 24 % 8 = 0 ∧ s.pullRange s.focus.l 0x1FFFF (bits 1 19 0 + 1) ≠ 0) :=
  ⟨meets3 user 0 0x100000000 3 0x100000000 ⟨by decide, by decide, by decide, rfl, rfl, .inl ⟨by decide, rfl⟩⟩, meets2 user 0 0x100000000 0x40 0 (by decide),
    ⟨withPolder (scene user (blk 0 0 0x40 0)) { PolderState.initial with listens := List.replicate 16 default }, _, ⟨rfl, rfl⟩, rfl, by decide, by decide⟩,
    meets3 user 0 0 0 0 (by decide), meets3 user 0 0 0 0x300000 (by decide), meets3 user 0 0 0 0x1000000 (by decide), meets3 user 0 0 0x1FFFF 1 (by decide)⟩

/-! ## Witnesses: coprocessor, task and message instructions -/

/-- A context of a narrow polder. -/
abbrev narrowHere : Loc := ⟨0, 24, 0, 0⟩
/-- A vector token of one `i8` element at 0 is 0x0001_0400_0000_0000; one at 0x20000 lies in no core memory. -/
theorem witness_CoprocessorHeld :
    Meets .always [.l, .r, .x] [0x0001040000000000#64, 0x0001040000000000#64, 0x0001040000000000#64]
      (fun s _ => (s.vecCause s.focus.l .add 0x0001040000000000 0x0001040000000000 0x0001040000000000).1 = 0) ∧
    Meets .always [.l, .r, .x] [0x0001040000000000#64, 0x0001040000020000#64, 0x0001040000000000#64]
      (fun s _ => s.vecCause s.focus.l .add 0x0001040000000000 0x0001040000020000 0x0001040000000000 = (4, 0x20000)) ∧
    Meets .always [.l, .r, .x] [0#64, 0x20#64, 127#64] (fun s _ => pairRuns .bb s.focus.l.narrow = true ∧ pairRuns .qq s.focus.l.narrow = false) ∧
    Meets .always [.l, .r, .x] [0#64, 0x20#64, 0x20#64] (fun s _ => (s.mmaCause s.focus.l .bb false 0 0x20 0x20).1 = 0) ∧
    narrowHere.narrow = true ∧ pairRuns .bb narrowHere.narrow = false ∧
    Meets .always [.l, .r] [31#64, 0x10000#64] (fun _ _ => (maccCause .loada 31 0x10000).1 = 0 ∧ (maccCause .zero 127 0).1 ≠ 0 ∧ (maccCause .park 31 0).1 = 0) ∧
    Meets .always [.l] [31#64] (fun _ _ => 31 < 32) ∧ Meets .always [.l] [128#64] (fun _ _ => 128 ≤ 128) :=
  ⟨meets3 user 0 0x0001040000000000 0x0001040000000000 0x0001040000000000 (by decide), meets3 user 0 0x0001040000000000 0x0001040000020000 0x0001040000000000 (by decide),
    meets3 user 0 0 0x20 127 (by decide), meets3 user 0 0 0x20 0x20 (by decide), by decide, by decide, meets2 user 0 31 0x10000 0 (by decide),
    meets1 user 0 31 0 0 (by decide), meets1 user 0 128 0 0 (by decide)⟩
/-- A future in core memory whose top byte holds a state, and a record behind it. -/
def futureIn (b : Byte) : State := withMem (scene user (blk 0 0x100000 0x100040 0)) [(keyIn here 2 7, b)]
/-- A polder with every watch-table entry in use. -/
def fullWatch : PolderState := { PolderState.initial with watches := (List.range 512).map fun i => { (default : WatchEntry) with idx := i } }
theorem full_watch : fullWatch.freeWatch = none := by
  simp [PolderState.freeWatch, fullWatch, List.find?_eq_none]
theorem free_watch : PolderState.initial.freeWatch = some 0 := by
  simp [PolderState.freeWatch, PolderState.initial, List.find?_range_eq_some]
theorem witness_TasksForkAndJoin : Meets .always [.l] [0x40#64] (fun s _ => s.taskAddrCause s.focus.l 0x40 = 0) ∧
    Meets .always [.l] [0x20#64] (fun _ _ => 0x20 % 64 ≠ 0) ∧
    (∀ b : Byte, (futureIn b).firingBlock (blk 0 0x100000 0x100040 0) ∧ (blk 0 0x100000 0x100040 0).gives (futureIn b) [.l, .r] [0x100000#64, 0x100040#64]) ∧
    (futureIn 0#8).futureReady [0x100000#64, 0x100040#64] ∧ (futureIn 0#8).futureState [0x100000#64, 0x100040#64] = 0 ∧
    (futureIn 0x40#8).futureReady [0x100000#64, 0x100040#64] ∧ (futureIn 0x40#8).futureState [0x100000#64, 0x100040#64] = 1 ∧
    (futureIn 0x80#8).futureReady [0x100000#64, 0x100040#64] ∧ (futureIn 0x80#8).futureState [0x100000#64, 0x100040#64] = 2 ∧
    (futureIn 0xC0#8).futureReady [0x100000#64, 0x100040#64] ∧ (futureIn 0xC0#8).futureState [0x100000#64, 0x100040#64] = 3 ∧
    Meets .always [.l, .r] [0x100008#64, 0x40#64] (fun s _ => s.joinReady [0x100008#64, 0x40#64] ∧ (s.polder s.focus.l).freeWatch = some 0) :=
  ⟨meets1 user 0 0x40 0 0 (by decide), meets1 user 0 0x20 0 0 (by decide), fun _ => ⟨⟨rfl, rfl⟩, rfl⟩, ⟨by decide, by decide, by decide⟩, by decide,
    ⟨by decide, by decide, by decide⟩, by decide, ⟨by decide, by decide, by decide⟩, by decide, ⟨by decide, by decide, by decide⟩, by decide,
    meets2 user 0 0x100008 0x40 0 ⟨⟨by decide, by decide⟩, free_watch⟩⟩
theorem witness_TasksForkAndJoin_full (p : PolderState) (h : p.freeWatch = none) : let s := withPolder (scene user (blk 0 0x100008 0x40 0)) p
    s.firingBlock (blk 0 0x100008 0x40 0) ∧ (blk 0 0x100008 0x40 0).gives s [.l, .r] [0x100008#64, 0x40#64] ∧ s.joinReady [0x100008#64, 0x40#64] ∧
    (s.polder s.focus.l).freeWatch = none :=
  ⟨⟨rfl, rfl⟩, rfl, ⟨rfl, by
    have e : homePlace here (polderView here 0x40) = some ⟨here, 2, 0x40⟩ := by decide
    simp [State.taskAddrCause, arg, scene, withPolder, e, State.keyOf]
    decide⟩, h⟩
/-- A token of the last column and of one beyond it; messages at the end of core memory, misaligned, and in the accumulator window; the masks 0, 1, 255 and 256. -/
theorem witness_MessagesHeld : Meets .always [.l, .r] [0x1FF2C00#64, 0x1FFF0#64] (fun s _ => legalToken 0x1FF2C00#64 ∧ s.messageAt 0x1FFF0#64) ∧
    Meets .always [.l, .r] [0x1FF3000#64, 0#64] (fun _ _ => ¬ legalToken 0x1FF3000#64 ∧ ¬ legalToken 0x2000000#64) ∧
    Meets .always [.l, .r] [0#64, 8#64] (fun _ _ => legalToken 0#64 ∧ 8 % 16 ≠ 0) ∧
    Meets .always [.l, .r] [0#64, 0x400000#64] (fun s _ => legalToken 0#64 ∧ 0x400000 % 16 = 0 ∧ ¬ s.messageAt 0x400000#64) ∧
    Meets .always [.l, .r, .x] [0#64, 0#64, 255#64] (fun s _ => legalToken 0#64 ∧ (0#64).getLsbD 24 = false ∧ 0 < (255#64).toNat ∧ (255#64).toNat < 256 ∧ s.messageAt 0#64) ∧
    Meets .always [.l, .r, .x] [0x1000000#64, 0#64, 1#64] (fun _ _ => (0x1000000#64).getLsbD 24 = true) ∧
    Meets .always [.l, .r, .x] [0#64, 0#64, 0#64] (fun _ _ => (0#64) = 0#64) ∧ Meets .always [.l, .r, .x] [0#64, 0#64, 256#64] (fun _ _ => 256 ≤ (256#64).toNat) :=
  ⟨meets2 user 0 0x1FF2C00 0x1FFF0 0 ⟨⟨by decide, by decide⟩, by decide, _, rfl, by decide⟩, meets2 user 0 0x1FF3000 0 0 ⟨by simp [legalToken], by simp [legalToken]⟩,
    meets2 user 0 0 8 0 ⟨⟨by decide, by decide⟩, by decide⟩,
    meets2 user 0 0 0x400000 0 ⟨⟨by decide, by decide⟩, rfl, fun ⟨_, q, h, h'⟩ => by
      have e : homePlace here (0x400000#64).toNat = some ⟨here, 3, 0⟩ := by decide
      have h2 : some q = some (⟨here, 3, 0⟩ : Place) := h.symm.trans e
      cases h2
      revert h'; decide⟩,
    meets3 user 0 0 0 255 ⟨⟨by decide, by decide⟩, by decide, by decide, by decide, rfl, _, rfl, by decide⟩, meets3 user 0 0x1000000 0 1 (by decide),
    meets3 user 0 0 0 0 rfl, meets3 user 0 0 0 256 (by decide)⟩
/-- A launch record in core memory at 0x80: one core of one polder of die 0, four groups; and an indirect one with its gauge at the start of HBM. -/
def launchScene (ind : Bool) : State :=
  let k := keyIn here 2 0x80
  withPolder (withMem (scene user (blk 0 0x80 0 0))
    (if ind then [(k + 7, 0x80#8), (k + 9, 1#8), (k + 10, 0x11#8), (k + 11, 1#8), (k + 28, 1#8)]
     else [(k + 9, 1#8), (k + 10, 0x11#8), (k + 11, 1#8), (k + 16, 4#8)])) { PolderState.initial with part := some 0 }
theorem witness_LaunchesHeld : (∀ i, (launchScene i).firingBlock (blk 0 0x80 0 0) ∧ (blk 0 0x80 0 0).gives (launchScene i) [.l] [0x80#64]) ∧
    (launchScene false).launchReady 0x80 ∧ ((launchScene false).launchAt 0x80).ind = false ∧
    (launchScene true).launchReady 0x80 ∧ ((launchScene true).launchAt 0x80).ind = true ∧ ((launchScene true).launchAt 0x80).gauge % 8 = 0 ∧
    ∀ w, (launchScene true).reaches ((launchScene true).asked ((launchScene true).launchAt 0x80).gauge 8 (.watch w)) ⟨here, 0, 0⟩ :=
  ⟨fun _ => ⟨⟨rfl, rfl⟩, rfl⟩, ⟨by decide, by decide, by decide⟩, by decide, ⟨by decide, by decide, by decide⟩, by decide, by decide,
    fun _ => ⟨rfl, rfl, .inl ⟨show ((launchScene true).launchAt 0x80).gauge < 2 ^ 40 by decide, show (launchScene true).resolve here 0 0 false ((launchScene true).launchAt 0x80).gauge false = .ok ⟨here, 0, 0⟩ from
      (show ((launchScene true).launchAt 0x80).gauge = 0x100000000 by decide) ▸ rfl⟩⟩⟩
/-- A composition of two cores, its other member DORMANT or READY; the words 0 and 4; a composed issuer; a relocation of context 1. -/
theorem witness_CompositionEffects :
    Meets .always [.l] [1#64] (fun s _ => (1#64).toNat = 1 ∧ (s.ctx s.focus.l).lead = none ∧ s.membersFree 1) ∧
    (∃ (s : State) (b : Block), s.firingBlock b ∧ b.gives s [.l] [1#64] ∧ (s.ctx s.focus.l).lead = none ∧ ¬ s.membersFree 1) ∧
    Meets .always [.l] [4#64] (fun _ _ => 4 ≤ (4#64).toNat) ∧ Meets .always [] [] (fun s _ => (s.ctx s.focus.l).lead.isSome = true) ∧
    Meets .always [.l, .r, .x] [7#64, 0x1000001#64, 0x100000#64] (fun s _ => (s.ctx s.focus.l).sup = true ∧ (7#64).toNat < 8 ∧ (7#64).toNat ≠ s.focus.l.ctx ∧
      legalToken 0x1000001#64 ∧ (0x1000001#64).getLsbD 24 = true ∧ (0x1000001#64).toNat / 2 ^ 16 % 2 ^ 8 = (s.device s.focus.l).podpos ∧ s.storeCause s.focus.l 0x100000 8 = 0) ∧
    Meets .always [.l, .r, .x] [8#64, 0x1000000#64, 0#64] (fun s _ => (s.ctx s.focus.l).sup = true ∧ 8 ≤ (8#64).toNat) :=
  ⟨meets1 user 0 1 0 0 ⟨rfl, rfl, by unfold State.membersFree; decide⟩,
    ⟨{ scene user (blk 0 1 0 0) with ctxs := [(here, { user with block := some (blk 0 1 0 0) }), ({ here with core := 1 }, { user with state := 1#3 })] }, _, ⟨rfl, rfl⟩, rfl, rfl,
      by unfold State.membersFree; decide⟩,
    meets1 user 0 4 0 0 (by decide), meets0 { user with lead := some (here, 1) } 0 0 0 0 rfl,
    meets3 super 0 7 0x1000001 0x100000 ⟨rfl, by decide, by decide, ⟨by decide, by decide⟩, by decide, by decide, by decide⟩, meets3 super 0 8 0x1000000 0 ⟨rfl, by decide⟩⟩

/-! ## Witnesses: the slice core -/

/-- A handler of 32 registers, of which `x1` holds `a` and `x2` holds `b`, at 0x600 in a region of 8 KiB at 0x400, with `shi` = `g`. -/
def hnd (a b g : Nat) (wait : Bool) : Handler :=
  { wordHandler 1 0 with regs := [0#32, BitVec.ofNat 32 a, BitVec.ofNat 32 b] ++ List.replicate 29 0#32, shi := BitVec.ofNat 32 g, wait := wait }
/-- The machine after reset with a handler running. -/
def sliceScene (h : Handler) : State := { State.reset with polders := [(here, { PolderState.initial with handler := some h })], focus := ⟨here, 0, 1⟩ }
theorem slice_inv (h : Handler) : (sliceScene h).Inv :=
  ⟨rfl, rfl, rfl, ⟨Nat.le_refl _, trivial⟩, ⟨.nil, fun _ h => (List.not_mem_nil h).elim⟩, ⟨.nil, fun _ h => (List.not_mem_nil h).elim⟩,
    ⟨by simp [sliceScene], fun _ h => by cases (List.mem_singleton.1 h); rfl⟩, ⟨by simp [sliceScene, State.reset], fun _ h => by cases (List.mem_singleton.1 h); rfl⟩⟩
theorem witness_SliceArithmetic : (sliceScene (hnd 7 0 1 false)).running (hnd 7 0 1 false) := ⟨rfl, rfl⟩
theorem witness_SliceControl : (sliceScene (hnd 7 5 1 false)).running (hnd 7 5 1 false) ∧ rvTaken .blt ((hnd 7 5 1 false).word32 2#5) ((hnd 7 5 1 false).word32 1#5) = true ∧
    rvTaken .beq ((hnd 7 5 1 false).word32 2#5) ((hnd 7 5 1 false).word32 1#5) = false := ⟨⟨rfl, rfl⟩, by decide, by decide⟩
/-- The last word of the region, the word behind it, and a misaligned one. -/
theorem witness_SliceMemory : (hnd 0x23FC 0 1 false).inRegion 0x23FC 4 = true ∧ (hnd 0x2400 0 1 false).inRegion 0x2400 4 = false ∧ 0x23FE % 4 ≠ 0 ∧
    (sliceScene (hnd 0x23FC 0 1 false)).eccHit (keyIn here 5 0x23FC) 4 = false ∧ (sliceScene (hnd 0x23FC 0 1 false)).running (hnd 0x23FC 0 1 false) ∧
    (sliceScene (hnd 0x23FC 0 1 false)).Inv := ⟨by decide, by decide, by decide, by decide, ⟨rfl, rfl⟩, slice_inv _⟩
/-- A line of core memory in polder view, in and out of use by a workspace; an address without a place; gauges at 41 and at the largest word (R246). -/
theorem witness_SliceHomeAccess : let s := sliceScene (hnd 0x800 0x100000 0 false)
    s.running (hnd 0x800 0x100000 0 false) ∧ s.Inv ∧ s.ecc = [] ∧ (hnd 0x800 0x100000 0 false).inRegion 0x800 64 = true ∧ 0x810 % 64 ≠ 0 ∧
    s.slicePlace here 0x100000 = some ⟨here, 2, 0⟩ ∧ s.slicePlace here 0x1FFFF = none ∧ s.unsettled ⟨here, 2, 0⟩ = false ∧ s.sliceHeld here ⟨here, 2, 0⟩ = false ∧
    (∃ t : State, t.running (hnd 0x800 0x100000 0 false) ∧ t.sliceHeld here ⟨here, 2, 0x1FC40⟩ = true) ∧ (hnd 0x800 0x100000 0 true).wait = true ∧
    (withMem s [(keyIn here 2 0, 41#8)]).num (keyIn here 2 0) 8 + 1 < 2 ^ 64 ∧
    2 ^ 64 ≤ (withMem s ((List.range 8).map fun i => (keyIn here 2 i, 0xFF#8))).num (keyIn here 2 0) 8 + 1 :=
  ⟨⟨rfl, rfl⟩, slice_inv _, rfl, by decide, by decide, by decide, by decide, by decide, by decide,
    ⟨{ sliceScene (hnd 0x800 0x100000 0 false) with ctxs := [(here, user)] }, ⟨rfl, rfl⟩, by decide⟩, rfl, by decide, by decide⟩
/-- A message of zeros at 0x800 is legal; a misaligned one is not; a `FILL` of one line of HBM; handles of this set and none. -/
theorem witness_SliceServices : let s := sliceScene (hnd 0x800 0x800 1 false)
    s.ssendStatus here (hnd 0x800 0x800 1 false) 0 0x800 = 0 ∧ s.ssendStatus here (hnd 0x800 0x800 1 false) 0 0x808 = 3 ∧
    (withMem s [(keyIn here 5 0x80A, 0x10#8)]).spullStatus here (hnd 0x800 0x800 1 false) 0x800 1 = 0 ∧ s.spullStatus here (hnd 0x800 0x800 1 false) 0x800 5 = 1 ∧
    (s.polder here).freeReg = some 0 ∧ s.slicePlace here ((hnd 0x800 0x800 1 false).home 1#5) = some ⟨here, 0, 0x800⟩ ∧ (hnd 0x800 0x800 1 false).home 1#5 % 8 = 0 ∧
    (s.polder here).regOf (hnd 0x800 0x800 1 false) 0 = none ∧
    ({ PolderState.initial with counterRegs := [⟨0, 0, keyIn here 0 0, 0x100000000, 0, true, false, 0⟩] } : PolderState).regOf (hnd 0x800 0x800 1 false) 0
      = some ⟨0, 0, keyIn here 0 0, 0x100000000, 0, true, false, 0⟩ := by decide
theorem witness_SliceAtomics : let s := sliceScene (hnd 0x800 5 1 false)
    s.running (hnd 0x800 5 1 false) ∧ s.slicePlace here 0x100000800 = some ⟨here, 0, 0x800⟩ ∧ s.sliceHeld here ⟨here, 0, 0x800⟩ = false ∧ s.slicePlace here 0 = none ∧
    ∃ t : State, t.running (hnd 0x800 5 1 false) ∧ t.sliceHeld here ⟨here, 2, 0x1FC40⟩ = true :=
  ⟨⟨rfl, rfl⟩, by decide, by decide, by decide, { sliceScene (hnd 0x800 5 1 false) with ctxs := [(here, user)] }, ⟨rfl, rfl⟩, by decide⟩
/-- A limit of 16 with 15 cycles used, and with 16. -/
theorem witness_SliceEnds : { sliceScene (hnd 16 0 1 false) with now := 15 }.elapsed here (hnd 16 0 1 false) < 16 ∧
    16 ≤ { sliceScene (hnd 16 0 1 false) with now := 16 }.elapsed here (hnd 16 0 1 false) ∧
    min (max ((hnd 16 0 1 false).word32 1#5).toNat 1) (((hnd 16 0 1 false).desc.getD 1 0#64).toNat / 2 ^ 16 % 2 ^ 14) = 16 := by decide

/-! ## Witnesses: the parts without an encoding -/

/-- A device that has power and has been brought up. -/
def awake : DeviceState := { DeviceState.initial with power := true, broughtUp := 8, posWritten := true }
/-- A machine with the first context, core, polder and device as given. -/
def stage (c : Context) (k : CoreState) (p : PolderState) (d : DeviceState) : State :=
  { State.reset with ctxs := [(here, c)], cores := [(here, k)], polders := [(here, p)], devices := [(here, d)], epoch := 2 }
theorem stage_inv (c : Context) (k : CoreState) (p : PolderState) (d : DeviceState) : (stage c k p d).Inv :=
  ⟨rfl, rfl, rfl, ⟨Nat.le_refl _, trivial⟩, ⟨by simp [stage], fun _ h => by cases (List.mem_singleton.1 h); rfl⟩,
    ⟨by simp [stage], fun _ h => by cases (List.mem_singleton.1 h); rfl⟩, ⟨by simp [stage], fun _ h => by cases (List.mem_singleton.1 h); rfl⟩,
    ⟨by simp [stage], fun _ h => by cases (List.mem_singleton.1 h); rfl⟩⟩
/-- The first core and polder as reset leaves them; the polder of partition 0. -/
abbrev core0 : CoreState := CoreState.initial here
def polder0 : PolderState := { PolderState.initial with part := some 0 }
/-- A context that runs a block. -/
def stageB (b : Block) : State := stage { user with block := some b } core0 polder0 awake
/-- A context as given. -/
def stageC (c : Context) : State := stage c core0 polder0 awake
theorem steady_here (c : Context) (k : CoreState) (p : PolderState) (d : DeviceState) (h : c.state = 2#3 ∧ c.stopReq = false ∧ c.window = [] ∧ c.trapWait = none) :
    (stage c k p d).steady here := ⟨rfl, h.1, h.2.1, h.2.2.1, h.2.2.2, fun k hk => by
      simp only [stage, State.ctx, lookupD] at hk ⊢
      split
      · exact Nat.le_refl _
      · rename_i hn
        rw [if_neg hn] at hk
        exact absurd hk (by show ¬ (0#3 = 1#3); decide)⟩
theorem calm_here (c : Context) (k : CoreState) (p : PolderState) (d : DeviceState)
    (h : (c.state = 2#3 ∧ c.stopReq = false ∧ c.window = [] ∧ c.trapWait = none) ∧ c.lead = none) : (stage c k p d).calm here :=
  ⟨steady_here c k p d h.1, h.2⟩

/-- The words of the example of spec/02. -/
def exampleWords : List Nat := [0xB7000000, 2, 7, 0, 0, 0, 0, 0, 0x02010A84, 0x02040086, 0x02080107, 0x020C008D, 0x56000087, 0x24001088, 0x247FFE89, 0x2002228C,
  0x04000000, 0x0A01168A, 0x04040000, 0x3600008E, 0x04080000, 0x24800091, 0x0A01208F, 0x0A03258D, 0x0A032993, 0x66040000, 0x0D000091, 0x41000000, 0x4A900000]
  ++ List.replicate 11 0x0C000000
def exampleBytes : List Byte := exampleWords.flatMap fun w => bytesOf 4 w
/-- A block in flight with the bytes given. -/
def flight (bs : List Byte) : Block := { Block.start 1 0 0#64 (List.replicate 8 0#64) 0 with bytes := bs }
/-- A header word. -/
def headed (w : Nat) : List Byte := bytesOf 4 w ++ List.replicate 156 0#8
/-- A misaligned block address, and the last place of core memory that holds a block; a read that fails; a block of class 1 at the last place where its second part fits; a block
of zeros, which fails the check, and the example of spec/02, which passes. -/
theorem witness_BlockFetches :
    ((stageC { user with pc := 4#64 }).ctx here).state = 2#3 ∧ ((stageC { user with pc := 4#64 }).ctx here).block = none ∧ (4#64).toNat % 32 ≠ 0 ∧
    (let s := stageC { user with pc := 0x1FF60#64 }; (s.ctx here).state = 2#3 ∧ (s.ctx here).block = none ∧ 0x1FF60 % 32 = 0 ∧ 0x1FF60 + 160 ≤ 0x20000 ∧ s.fetchable here) ∧
    (stageB (flight [])).inFlight here 1 (flight []) ∧ (flight []).ready = false ∧
    bits (numAt (headed 0xB7400000) 0 4) 23 22 = 1 ∧ 0x1FEE0 + 160 + 128 * 1 ≤ 0x20000 ∧
    { flight (List.replicate 160 0#8) with addr := 0 }.check false = some (2, 1, 0) ∧ (flight exampleBytes).check here.narrow = none :=
  ⟨rfl, rfl, by decide, ⟨rfl, rfl, by decide, by decide, by decide, rfl, rfl⟩, ⟨rfl, rfl⟩, rfl, by decide, by decide, by decide, by decide⟩
/-- A new operand and one that is there; a starved block, and one that is not yet decoded; the last cycle in which a held push waits, and the next; slot 4 of the example of
spec/02, a load, and an `LDA`, outstanding. -/
theorem witness_BlockEvents : (stageB (blk 0 1 2 3)).inFlight here 1 (blk 0 1 2 3) ∧ (blk 0 1 2 3).operand 1 .l = none ∧ (blk 0 1 2 3).operand 0 .l ≠ none ∧
    (stageB { flight exampleBytes with ready := true }).starved here { flight exampleBytes with ready := true } = true ∧
    (stageB (flight exampleBytes)).starved here (flight exampleBytes) = false ∧
    ({ flight [] with heldSince := some 0 }).heldSince = some 0 ∧ 0 + 4096 < ({ stageB { flight [] with heldSince := some 0 } with now := 4097 } : State).now ∧
    ({ stageB { flight [] with heldSince := some 0 } with now := 4096 } : State).now ≤ 0 + 4096 ∧
    ((flight exampleBytes).instrAt 4).any (fun i => !isLda i) = true ∧ ((wordBlock 1 0x5E128486).instrAt 0).any isLda = true ∧
    (stageB { flight exampleBytes with out := [4] }).inFlight here 1 { flight exampleBytes with out := [4] } ∧
    (stageB { wordBlock 1 0x5E128486 with out := [0] }).inFlight here 1 { wordBlock 1 0x5E128486 with out := [0] } :=
  ⟨⟨rfl, rfl⟩, by decide, by decide, by decide, by decide, rfl, by decide, by decide, by decide, by decide, ⟨rfl, rfl⟩, ⟨rfl, rfl⟩⟩

/-- A block with empty masks that is ready, with an exit, writes and stores. -/
def leaving (x : ExitAct) (ws : List (Nat × Option W64)) (ss : List PendStore) : Block := { flight (headed 0xB7000000) with ready := true, exit := some x, writes := ws, stores := ss }
theorem commits_leaving (c : Context) (x : ExitAct) (ws : List (Nat × Option W64)) (ss : List PendStore)
    (h : let s := stage { c with block := some (leaving x ws ss) } core0 polder0 awake; (leaving x ws ss).committable = true ∧ s.commitWaits here (leaving x ws ss) = false ∧
      s.commitFault here (leaving x ws ss) = none) :
    (stage { c with block := some (leaving x ws ss) } core0 polder0 awake).commits here 1 (leaving x ws ss) :=
  ⟨⟨rfl, rfl⟩, rfl, h.1, h.2.1, h.2.2⟩
/-- A block that is ready to commit: what its own exit, acts and stores ask for must be there. -/
theorem commits_of (c : Context) (k : CoreState) (p : PolderState) (d : DeviceState) (b : Block) (h0 : b.epoch = 1 ∧ b.fault = none ∧ b.ready = true)
    (h : let s := stage { c with block := some b } k p d; b.committable = true ∧ s.commitWaits here b = false ∧ s.commitFault here b = none) :
    (stage { c with block := some b } k p d).commits here 1 b :=
  ⟨⟨by simp [State.blockAt, stage, State.ctx, lookupD, h0.1], h0.2.1⟩, h0.2.2, h.1, h.2.1, h.2.2⟩
/-- A store of 8 bytes. -/
def store8 (a : Nat) : PendStore := ⟨0, 0, a, 8, some 5#64, false, none⟩
/-- A block that has reserved a word of a queue, and one whose `GADV` does not raise its gauge. -/
def popping (r : Nat) : Block := { leaving (.goto 0) [] [] with pops := [⟨r, 0, 1, 9#64⟩] }
def advancing : Block := leaving (.goto 0) [] [{ store8 0 with val := some 0#64, gauge := true }]
/-- A core with a word in each of its ports' FIFOs, beside a core with a word in each output buffer. -/
def ported : CoreState := { core0 with ports := List.replicate 4 [⟨1, 9#64⟩, ⟨2, 8#64⟩] }
def beside (k : CoreState) : State :=
  { stage { user with block := some (popping 24) } k polder0 awake with
    cores := [(here, k), ({ here with core := 7 }, { CoreState.initial { here with core := 7 } with outbuf := [some 4#64, none, none, none] })] }
/-- Blocks that leave by a jump: with nothing else, with `WRITE`s of the last register, of `pol` and of both, with a store to the last word of core memory and two in one word; by a
call, `END`, `SUSP` and `MIGR`; with a word of `eq1` or of a port; one whose store must wait for a source in use, one whose store has no place, and one whose `GADV` does not raise
its gauge. -/
theorem witness_BlockCommits : (∀ ws ss, (ws, ss) ∈ [([], []), ([(15, some 7#64)], []), ([(19, some 7#64)], []), ([(15, some 7#64), (0, none), (19, some 7#64)], []),
      ([], [store8 0x1FFF8]), ([], [store8 0x1FFF8, { store8 0x1FFFC with lsid := 1, size := 4 }])] →
      let b := leaving (.goto 0) ws ss;
      (stageB b).commits here 1 b ∧ b.exit = some (.goto 0) ∧ b.acts = [] ∧ b.pops = [] ∧ b.writes = ws ∧ b.stores = ss) ∧
    (∀ b, (stageB b).Inv ∧ (stageB b).calm here ∧ (stageB b).unowed here) ∧
    (homePlace here 0x1FFF8 = some ⟨here, 2, 0x1FFF8⟩ ∧ (stageB (leaving (.goto 0) [] [])).keyOf ⟨here, 2, 0x1FFF8⟩ = some (keyIn here 2 0x1FFF8) ∧
      (stageB (leaving (.goto 0) [] [])).isFresh ⟨here, 2, 0x1FFF8⟩ = false) ∧
    (let b := leaving (.goto 0) [] [store8 0];
      let s := stage { user with block := some b } core0 { polder0 with locks := [⟨1, true, 0, 0, 0, false, here, keyIn here 2 0, 0, 64, 0⟩] } awake;
      s.inFlight here 1 b ∧ b.ready = true ∧ b.committable = true ∧ s.migrLate here b = false ∧ s.commitWaits here b = true) ∧
    (let b := leaving (.goto 0) [] [store8 0x20000];
      (stageB b).inFlight here 1 b ∧ b.ready = true ∧ b.committable = true ∧ (stageB b).migrLate here b = false ∧ (stageB b).commitWaits here b = false ∧
      (stageB b).commitFault here b = some ⟨0, 0, 7, 0, 0x20000⟩) ∧
    (∀ x ∈ [ExitAct.call 0x40 0xA0, .done, .suspend 0x40, .migrate 0x40 { here with core := 1 }], (stageB (leaving x [] [])).commits here 1 (leaving x [] [])) ∧
    (let s := stage { user with rowQ := [9#64, 8#64], block := some (popping 21) } core0 polder0 awake;
      s.commits here 1 (popping 21) ∧ s.calm here ∧ s.unowed here) ∧
    (∀ k ∈ [ported, { ported with ports := List.replicate 4 (List.replicate 7 ⟨2, 8#64⟩ ++ [⟨1, 9#64⟩]) }],
      (stage { user with block := some (popping 24) } k polder0 awake).commits here 1 (popping 24) ∧ ((beside k).core (portSource here 0)).outbuf.getD 0 none = some 4#64 ∧
      (((beside k).core here).ports.getD 0 []).length ≤ 8 ∧ (beside k).commits here 1 (popping 24)) ∧
    (user.holders = [] ∧ ∀ tag, ({ user with duties := { Duties.none with origin := .host tag } } : Context).duties.origin = .host tag) ∧
    ((stageB advancing).inFlight here 1 advancing ∧ advancing.ready = true ∧ advancing.committable = true ∧ (stageB advancing).migrLate here advancing = false ∧
      (stageB advancing).commitWaits here advancing = false ∧ (stageB advancing).commitFault here advancing = some ⟨0, 0, 0x0B, 0, 0⟩ ∧ (stageB advancing).commitCause here 0 8 = 0 ∧
      (0#64).toNat ≤ (stageB advancing).home64 here 0) := by
  refine ⟨fun ws ss h => ?_, fun b => ⟨stage_inv _ _ _ _, calm_here _ _ _ _ ⟨⟨rfl, rfl, rfl, rfl⟩, rfl⟩, rfl, rfl, rfl⟩, by decide, ⟨⟨rfl, rfl⟩, by decide⟩, ⟨⟨rfl, rfl⟩, by decide⟩, fun x h => ?_,
    ⟨commits_of { user with rowQ := [9#64, 8#64] } _ _ _ (popping 21) (by decide) (by decide), calm_here _ _ _ _ (by decide), rfl, rfl, rfl⟩, fun k h => ?_, ⟨rfl, fun _ => rfl⟩, ⟨⟨rfl, rfl⟩, by decide⟩⟩
  rotate_left
  · simp only [List.mem_cons, List.not_mem_nil, or_false] at h
    rcases h with rfl | rfl | rfl | rfl <;> exact commits_leaving user _ _ _ (by decide)
  · simp only [List.mem_cons, List.not_mem_nil, or_false] at h
    rcases h with rfl | rfl <;> exact ⟨commits_of user _ _ _ (popping 24) (by decide) (by decide), by decide, by decide, ⟨⟨rfl, rfl⟩, by decide, by decide, by decide, by decide⟩⟩
  refine ⟨commits_leaving user _ _ _ ?_, rfl, rfl, rfl, rfl, rfl⟩
  simp only [List.mem_cons, List.not_mem_nil, or_false, Prod.mk.injEq] at h
  rcases h with ⟨rfl, rfl⟩ | ⟨rfl, rfl⟩ | ⟨rfl, rfl⟩ | ⟨rfl, rfl⟩ | ⟨rfl, rfl⟩ | ⟨rfl, rfl⟩ <;> decide

/-- A failed block, and one that has reserved a slot and a watch-table entry. -/
def failed : Block := { flight [] with fault := some ⟨0, 3, 7, 0, 0x20000⟩ }
def failedHolding : Block := { failed with acts := [(0, .compose [{ here with core := 1 }]), (1, .watch ⟨here, 1, 1, .task, 3, 0, 0, 0, 0, []⟩ ⟨here, 4, 1⟩ none)] }
/-- A user context with a vector and a frame at 0x1000. -/
def vectored : Context := { user with trapvec := 0x40#64, trapframe := 0x1000#64 }
/-- A failed block in a user context with a vector, in one without, in a handler, and in one whose frame is misaligned; `SYSC` with a vector; `ERET` in a handler whose frame holds the exit's words. -/
theorem witness_TrapsTaken :
    (∀ c ∈ [vectored, user, { vectored with sup := true }, { vectored with trapframe := 8#64 }], let s := stage { c with block := some failed } core0 polder0 awake;
      s.Inv ∧ s.calm here ∧ s.blockAt here 1 = some failed ∧ failed.awaitsAtomic = false ∧ here ∉ failed.composing ∧ failed.namo < 256 ∧ 0 < 7 ∧ 0xFF < 256 ∧
      s.frameWaits here = false) ∧
    ((stage { vectored with block := some failedHolding } core0 polder0 awake).blockAt here 1 = some failedHolding ∧ here ∉ failedHolding.composing ∧
      { here with core := 1 } ∈ failedHolding.composing) ∧
    (stage { vectored with block := some failed } core0 polder0 awake).trapReady here (keyIn here 2 0x1000) ∧
    (user.sup = false ∧ user.trapvec = 0#64) ∧ ({ vectored with sup := true } : Context).sup = true ∧
    (stage { vectored with trapframe := 8#64, block := some failed } core0 polder0 awake).frameFault here = 3 ∧
    (let b := leaving (.sysc 0x20 5) [] [];
      (stage { vectored with block := some b } core0 polder0 awake).commits here 1 b ∧ (stage { vectored with block := some b } core0 polder0 awake).trapReady here (keyIn here 2 0x1000)) ∧
    (let b := leaving (.eret 0 0) [] [];
      (stage { super with block := some b } core0 polder0 awake).commits here 1 b ∧ (stage { super with block := some b } core0 polder0 awake).unowed here) := by
  refine ⟨fun c h => ⟨stage_inv _ _ _ _, ?_, rfl, rfl, by decide, by decide, by decide, by decide, ?_⟩, ⟨rfl, by decide, by decide⟩,
    ⟨rfl, by decide, by decide, by decide, ⟨here, 2, 0x1000⟩, by decide, by decide⟩, by decide, rfl, by decide,
    ⟨commits_leaving vectored _ _ _ (by decide), rfl, by decide, by decide, by decide, ⟨here, 2, 0x1000⟩, by decide, by decide⟩,
    commits_leaving super _ _ _ (by decide), rfl, rfl, rfl⟩
  all_goals simp only [List.mem_cons, List.not_mem_nil, or_false] at h
  · rcases h with rfl | rfl | rfl | rfl <;> exact calm_here _ _ _ _ ⟨⟨rfl, rfl, rfl, rfl⟩, rfl⟩
  · rcases h with rfl | rfl | rfl | rfl <;> decide

/-- A message of channel 0 with 16 words, to a token. -/
def letter (dest w0 w1 : Nat) (q : Option Place) : Message := ⟨dest, w0, w1, List.replicate 16 0#64, 0, q, none⟩
/-- A deque entry of 18 words, of class 1, under a tag. -/
def task (tag w0 : Nat) : DequeEntry := ⟨w64 w0 :: List.replicate 17 0#64, tag, 0, .task⟩
/-- A core with a deque. -/
def dequed (es : List DequeEntry) : CoreState := { core0 with deque := es }
/-- The first polder, of partition 0, with the first granule of its HBM in use. -/
def used : PolderState := { polder0 with unfresh := [0] }
/-- A context whose spillway region is the first granule of HBM, and the machine with one record in its task ring. -/
def spilling : Context := { user with spill := 0x100000001#64 }
def ringed (es : List DequeEntry) : State := withMem (stage spilling (dequed es) used awake) [(keyIn here 0 8, 1#8)]
theorem waits_here (b : Block) (h1 : b.ready = false) (h2 : b.whole = true) (h3 : b.fault = none) (h4 : ((stageB b).frameNeed here b).head?.any (fun q => q.1 == 0) = true) :
    (stageB b).waitingBlocks false here = [(here, b)] ∧ (stageB b).waitingBlocks true here = [] := by
  have e : (stageB b).ctxs = [(here, { user with block := some b })] := rfl
  simp only [State.waitingBlocks, e, List.filterMap_cons, List.filterMap_nil]
  simp only [h1, h2, h3, h4, Option.isNone]
  exact ⟨rfl, rfl⟩
/-- No free context; a free one with a message, with work in the deque, and with neither; a READY context; a block that waits for its frames; a refill with 48 entries. -/
theorem witness_ContextsFilled :
    (∀ k p, (stage user core0 p awake).Inv ∧ (stage (Context.initial 0) k p awake).Inv) ∧ (stage user core0 PolderState.initial awake).allocatable here = none ∧
    (∀ k ∈ [{ dequed [task 0 0] with mail := [⟨3, letter 0 0 0 none, false⟩] }, dequed [task 0 0], core0], let s := stage (Context.initial 0) k polder0 awake;
      (s.core here).unmailed = [] ∧ (s.polder here).migBuf = [] ∧ s.allocatable here = some here ∧ (s.core here).forwardOf here = none ∧ (s.core here).heldRecs = []) ∧
    ({ dequed [task 0 0] with mail := [⟨3, letter 0 0 0 none, false⟩] } : CoreState).nextMail = some ⟨3, letter 0 0 0 none, false⟩ ∧ (letter 0 0 0 none).payload.length ≤ 16 ∧
    (dequed [task 0 0]).nextMail = none ∧ (task 0 0).words.length ≤ 18 ∧ core0.nextMail = none ∧ core0.deque = [] ∧ core0.asking = none ∧ core0.backoff = false ∧
    (let s := stage { user with state := 1#3 } core0 polder0 awake;
      s.waitingBlocks false here = [] ∧ s.waitingBlocks true here = [] ∧ s.ahead here = [] ∧ s.placeFree here = true ∧ s.nextReady here = some here ∧ (s.ctx here).resumed = false) ∧
    ((stageB (flight exampleBytes)).waitingBlocks false here = [(here, flight exampleBytes)] ∧ (stageB (flight exampleBytes)).waitingBlocks true here = []) ∧ (stageB (flight exampleBytes)).framesFit here (flight exampleBytes) = true ∧
    (stageB (flight exampleBytes)).nextReady here = none ∧ (stageB (flight exampleBytes)).refillFrom here = none ∧
    (let s := ringed (List.replicate 48 (task 0 0));
      s.refillFrom here = some here ∧ (s.core here).deque.length ≤ 48 ∧ s.landsAt here (s.ctx here).spillBase (keyIn here 0 0) ∧ (s.core here).heldRecs = [] ∧ (s.core here).ringed = []) ∧
    (let s := withMem (stage spilling { dequed [] with ringed := [(0, 0x100001000, task 0 0)] } used awake) [(keyIn here 0 8, 1#8)];
      s.refillFrom here = some here ∧ s.landsAt here (s.ctx here).spillBase (keyIn here 0 0) ∧ (s.core here).heldRecs = [] ∧
      (s.core here).ringed = [(here.ctx, s.ringCell here (s.home64 here (s.ctx here).spillBase), task 0 0)]) :=
  ⟨fun _ _ => ⟨stage_inv _ _ _ _, stage_inv _ _ _ _⟩, by decide, by decide, by decide, by decide, by decide, by decide, by decide, rfl, rfl, rfl, by decide,
    waits_here _ rfl (by decide +kernel) rfl (by decide +kernel), by decide, by decide, by decide, ⟨by decide, by decide, ⟨⟨here, 0, 0⟩, by decide, by decide, by decide, by decide⟩, rfl, rfl⟩,
    by decide, ⟨⟨here, 0, 0⟩, by decide, by decide, by decide, by decide⟩, rfl, by decide⟩

/-- A thief with tries left, one that goes to the next level, one that has been through all, and one whose reach has shrunk; a victim with nothing, with a record that it may grant, and with a kept one; an
empty and a granted answer. -/
theorem witness_CoresSteal :
    (∀ k ∈ [{ core0 with tries := 7 }, { core0 with tries := 8, reach := [(1, 1)] }, { core0 with tries := 8 }, { core0 with level := 1 }], let s := stage (Context.initial 0) k polder0 awake;
      s.idleCore here = true ∧ (s.core here).asking = none ∧ (s.core here).backoff = false ∧ s.allocatable here = some here) ∧
    (stage (Context.initial 0) { core0 with tries := 7 } polder0 awake).victims here 0 ≠ [] ∧ 7 < 8 ∧ ({ core0 with tries := 7 } : CoreState).level ≤ ({ core0 with tries := 7 } : CoreState).widest ∧
    ({ core0 with level := 1 } : CoreState).widest < 1 ∧
    ({ core0 with tries := 8, reach := [(1, 1)] } : CoreState).level + 1 ≤ ({ core0 with tries := 8, reach := [(1, 1)] } : CoreState).widest ∧
    ({ core0 with tries := 8 } : CoreState).widest < 0 + 1 ∧
    core0.deque = [] ∧ (∀ e, (dequed [task 0 0, e]).deque = [task 0 0] ++ [e] ∧ (dequed [task 0 0, e]).heldRecs = []) ∧
    entryKind (task 0 0) = 0 ∧ tagAdmits 0 here { here with core := 7 } = true ∧ classBars (bits ((task 0 0).words.getD 0 0#64).toNat 59 58) { here with core := 7 } = false ∧
    polder0.part = some 0 ∧ polder0.swapping = none ∧ entryKind (task 0 (2 ^ 62)) ≠ 0 ∧ tagAdmits 0 here { here with pidx := 1 } = false ∧
    (let s := stage (Context.initial 0) { core0 with asking := some 0 } polder0 awake; s.Inv ∧ (s.core here).asking = some 0 ∧ (s.core here).forwardOf here = none) :=
  ⟨by decide, by decide, by decide, by decide, by decide, by decide, by decide, rfl, fun _ => ⟨rfl, rfl⟩, by decide, by decide, by decide, rfl, rfl, by decide, by decide, stage_inv _ _ _ _, rfl, rfl⟩

/-- A launch of one core of the first polder, of 600 groups, which reports by a completion record or to the host. -/
def small (host : Option HostTag) (crec : Nat) : LaunchRec :=
  { (default : LaunchRec) with id := 5, issuer := here, cmask := 1, dmask := 1, w := 1, h := 1, groups := 600, crec := crec, host := host }
/-- A device with a launch under way, and one with a host queue that has a packet. -/
def serving : DeviceState := { awake with launchQs := [⟨4096, [⟨small none 0, 256⟩], 0⟩] }
def knocking : DeviceState := { awake with queues := [{ (default : HostQueue) with q := 2, cfg := [w64 (2 ^ 63 + 2 ^ 44 + 15)], sqt := 1 }] }
/-- A merge entry that waits for one report. -/
def merging (parent : Option Loc) (root : Option LaunchRec) (got : Nat) : MergeEntry := ⟨0, 5, 2, got, 0, 0, parent, root, true⟩
/-- No queue; a host packet at the head; a launch under way with 344 groups left. A group with room for it and with a full deque. The first report of two, and the last, at a node
with a parent, at a root for the host, and at a root with a completion record. -/
theorem witness_LaunchesRun :
    (stageB (flight [])).nextQueue here = none ∧ (stage user core0 polder0 knocking).nextQueue here = some (2, 0) ∧ knocking.launchQs = [] ∧
    (stage user core0 polder0 serving).nextQueue here = some (4096, 0) ∧ serving.launchQs = [⟨4096, [⟨small none 0, 256⟩], 0⟩] ∧ 256 ≠ 0 ∧ 256 < (small none 0).groups ∧
    launchCores (small none 0) = [here] ∧
    (let g : HeldGroup := ⟨here, 5, task 0 0, 0⟩;
      (∀ k, ((stage user k { polder0 with groups := [g] } awake).polder here).groups = [g]) ∧ g.core.toPolder = here.toPolder ∧
      (stage user (dequed (List.replicate 62 (task 0 0))) { polder0 with groups := [g] } awake).dequeRoom here = true ∧ polder0.part = some g.part ∧
      (stage user (dequed (List.replicate 64 (task 0 0))) { polder0 with groups := [g] } awake).dequeRoom here = false ∧
      (stage user (dequed (List.replicate 64 (task 0 0))) { polder0 with groups := [g] } awake).groupRing here = none ∧
      (let e : DequeEntry := { task 0 0 with words := List.replicate 8 0#64 };
        let s := stage spilling (dequed (List.replicate 64 (task 0 0))) { used with groups := [{ g with entry := e }] } awake;
        s.Inv ∧ s.dequeRoom here = false ∧ used.part = some 0 ∧ s.groupRing here = some here ∧ e.words.length = 8 ∧
        s.landsAt here ((s.ctx here).spillBase + 0x1000 + 64 * (s.home64 here ((s.ctx here).spillBase + 8) % 448)) (keyIn here 0 0x1000) ∧
        s.landsAt here ((s.ctx here).spillBase + 8) (keyIn here 0 8) ∧ keyIn here 0 8 + 8 ≤ keyIn here 0 0x1000)) ∧
    (∀ m : MergeEntry, ((stage user core0 { polder0 with merges := [m] } awake).polder here).merges = [m] ∧ (stage user core0 { polder0 with merges := [m] } awake).Inv) ∧
    (merging none none 0).got + 1 < 2 ∧ 2 ≤ (merging none none 1).got + 1 ∧ (merging (some here) none 1).parent = some here ∧
    (merging none (some (small (some ⟨2, 1, 0⟩) 0)) 1).root = some (small (some ⟨2, 1, 0⟩) 0) ∧ (small (some ⟨2, 1, 0⟩) 0).host = some ⟨2, 1, 0⟩ ∧
    (let r := small none 0x40;
      let s := stage user core0 { polder0 with merges := [merging none (some r) 1] } awake;
      r.host = none ∧ r.sig = 0 ∧ r.crec ≠ 0 ∧ s.landsAt here 0x40 (keyIn here 2 0x40) ∧ s.landsAt here 0x48 (keyIn here 2 0x40 + 8) ∧ s.home64 here 0x40 + 1 < 2 ^ 64) :=
  ⟨by decide, by decide, rfl, by decide, rfl, by decide, by decide, by decide, ⟨fun _ => rfl, rfl, by decide, rfl, by decide, by decide, stage_inv _ _ _ _, by decide, rfl, by decide, rfl,
      ⟨⟨here, 0, 0x1000⟩, by decide, by decide, by decide⟩, ⟨⟨here, 0, 8⟩, by decide, by decide, by decide⟩, by decide⟩, fun _ => ⟨rfl, stage_inv _ _ _ _⟩,
    by decide, by decide, rfl, rfl, rfl, rfl, rfl, by decide, ⟨⟨here, 2, 0x40⟩, by decide, by decide, by decide⟩, ⟨⟨here, 2, 0x48⟩, by decide, by decide, by decide⟩, by decide⟩

/-- A load of 8 bytes. -/
def asking (who : Loc) : Req := ⟨who, 0, 0, 0x1FFF8, 8, false, .load who 1 4 none, false⟩
/-- A full set of the slice. -/
def fullSet : List L2Line := (List.range 16).map fun i => ⟨5 + 2048 * i, 1, i, false, none, []⟩
/-- An owner of another device; one without power; one of another polder that admits no-one; the last word of a core memory, sound and with an error; a granule that is fresh; a set
of the slice with room, and a full one; a walk that finds no entry. -/
theorem witness_RequestsServed :
    (stageB (flight [])).routed here ⟨1, 0, 0, 0⟩ 0 = false ∧
    (scene user (blk 0 0 0 0)).routed here here 0 = true ∧ (scene user (blk 0 0 0 0)).isDry here here = true ∧
    ((stageB (flight [])).isDry here ⟨0, 1, 0, 0⟩ = false ∧ (stageB (flight [])).dikeAdmits here 0 ⟨⟨0, 1, 0, 0⟩, 2, 0x1FFF8⟩ 8 false = false ∧
      (stageB (flight [])).routed here ⟨0, 1, 0, 0⟩ 0 = true) ∧
    (∀ us, { stageB (flight []) with ecc := us }.passes (asking here) ⟨here, 2, 0x1FFF8⟩ (keyIn here 2 0x1FFF8) ∧
      { stageB (flight []) with ecc := us }.passes { asking here with admitted := true } ⟨here, 2, 0x1FFF8⟩ (keyIn here 2 0x1FFF8)) ∧
    { stageB (flight []) with ecc := [keyIn here 2 0x1FFF8] }.eccHit (keyIn here 2 0x1FFF8) 8 = true ∧ (stageB (flight [])).eccHit (keyIn here 2 0x1FFF8) 8 = false ∧
    (0x7FFF < 0x8000 ∧ (used.unfresh.contains 0x7FFF) = false ∧ (stageB (flight [])).Inv) ∧
    (stageB (flight [])).l2Find here 5 none = none ∧ (polder0.l2.filter fun x => x.key % 2048 == 5 % 2048).length < 16 ∧
    (stage user core0 { polder0 with l2 := fullSet } awake).l2Find here (5 + 2048 * 16) none = none ∧
    16 ≤ (fullSet.filter fun x => x.key % 2048 == (5 + 2048 * 16) % 2048).length ∧
    victimOf (fullSet.filter fun x => x.key % 2048 == (5 + 2048 * 16) % 2048) = some ⟨5, 1, 0, false, none, []⟩ ∧
    (stage user core0 { polder0 with l2 := fullSet } awake).l2Find here 5 none = some ⟨5, 1, 0, false, none, []⟩ ∧
    (let s (l : RangeLock) := stage user core0 { polder0 with locks := [l] } awake;
      (s { otherLock with key := keyIn here 2 0x1FFC0 }).lockStops (asking here) ⟨here, 2, 0x1FFF8⟩ (keyIn here 2 0x1FFF8) = some false ∧
      (s { otherLock with key := keyIn here 2 0x1FFC0, owner := here }).lockStops (asking here) ⟨here, 2, 0x1FFF8⟩ (keyIn here 2 0x1FFF8) = some true) ∧
    (let s := stage user core0 { polder0 with fence := true } awake; s.isDry here here = true ∧ s.isGone here here = false ∧
      s.dikeAdmits here 0 ⟨here, 2, 0x1FFF8⟩ 8 false = true ∧ s.lockStops (asking here) ⟨here, 2, 0x1FFF8⟩ (keyIn here 2 0x1FFF8) = none) ∧
    ((scene user (blk 0 0 0 0)).isGone here here = true ∧ (stageB (flight [])).isGone here here = false ∧ isAhead here = false ∧ (asking here).admitted = false) ∧
    ((stageB (flight [])).blockAt here 1 = some (flight []) ∧ (stageC user).blockAt here 1 = none) ∧
    (used.zeroed.contains 0x7FFF = false ∧ ({ used with zeroed := [0x7FFF] } : PolderState).zeroed.contains 0x7FFF = true ∧
      ((used.zeroing.filter fun z => z.1 == 0x7FFF).flatMap fun z => z.2.2) = [] ∧
      (({ used with zeroing := [(0x7FFF, 0, [(asking here, ⟨here, 0, 0x7FFF0000⟩)])] } : PolderState).zeroing.flatMap fun z => z.2.2) = [(asking here, ⟨here, 0, 0x7FFF0000⟩)]) ∧
    (∀ w : Walk, ((stage user core0 { polder0 with walks := [w] } awake).polder here).walks = [w]) ∧ polder0.tlb = [] :=
  ⟨by decide, by decide, by decide, by decide, fun _ => ⟨⟨rfl, rfl, rfl, by decide, rfl, rfl, rfl⟩, ⟨rfl, rfl, rfl, by decide, rfl, rfl, rfl⟩⟩, by decide, by decide,
    ⟨by decide, by decide, stage_inv _ _ _ _⟩, by decide, by decide, by decide, by decide, by decide, by decide, by decide, by decide, by decide, ⟨rfl, rfl⟩, by decide,
    fun _ => rfl, rfl⟩
theorem dev_at {s : State} (h : s.devsAt 0 0 = [0]) : s.devAt 0 0 = 0 := by simp [State.devAt, h, Nat.mod_one]
theorem dev_here (c : Context) (k : CoreState) (p : PolderState) : (stage c k p awake).devAt 0 0 = 0 := dev_at rfl
/-- A word of memory. -/
def wordIn (k v : Nat) : Memory := (List.range 8).map fun i => (k + i, BitVec.ofNat 8 (v / 2 ^ (8 * i)))
/-- A translation with tables: the second stage in core memory at 0 to 0x2000, which maps the first 1 GiB to HBM, the page tables there at 0x3000 to 0x5000, and the table of
PASIDs in core memory at 0x6000. -/
def tables : Memory := wordIn (keyIn here 0 0x3000) 0x4001 ++ wordIn (keyIn here 0 0x4000) 0x5001 ++ wordIn (keyIn here 0 0x5000) 0x17
  ++ wordIn (keyIn here 2 0) (2 ^ 63 + 2 ^ 44 + 0x1001) ++ wordIn (keyIn here 2 0x1000) (2 ^ 63 + 2 ^ 44 + 0x2001) ++ wordIn (keyIn here 2 0x2000) (2 ^ 63 + 0x17)
  ++ wordIn (keyIn here 2 0x6000) (2 ^ 63 + 0x3000)
def walker : State := withMem (stage user core0 { used with areas := [(0, [0#64, 0#64, 0#64, w64 (2 ^ 63 + 2 ^ 44), w64 (2 ^ 63 + 2 ^ 44 + 0x6000)])] } awake) tables
/-- A read of a table word in which the device answers to its own position. -/
def tableWord (l : Loc) (a : Nat) : Except Nat Nat :=
  let p : Place := ⟨Loc.polderOf 0 (polderIndex (bits a 54 53) (bits a 52 49) (bits a 48 46)), bits a 45 43, bits a 42 0⟩
  if walker.isDry l p.owner then .error 9
  else match walker.keyOf p with
    | some k => if walker.isFresh p then .ok 0 else if walker.eccHit k 8 then .error 0x11 else .ok (walker.num k 8)
    | none => .error 5
theorem table_word (a : Nat) (h : bits a 62 55 = 0) : walker.tableRead here a = tableWord here a := by
  have e : walker.devAt 0 0 = 0 := dev_at rfl
  unfold State.tableRead State.meshPlace
  rw [h, e]
  rfl
theorem bind_ok {α β : Type} {x : Except Nat α} {f : α → Except Nat β} {a : α} (h : x = .ok a) : x.bind f = f a := by simp [Except.bind, h]
theorem walk_next {rd : Nat → Except Nat Nat} {c : Nat} {st : Bool} {va t u sh : Nat} {rest : List Nat} {v : Nat} (h : (rd (t + 8 * bits va (sh + 8) sh)) = .ok v)
    (h1 : (!bit v 0 || bits v 11 6 != 0 || bit v 3 || (st && bits v 63 57 != 0)) = false) (h2 : bit v 1 = false)
    (h3 : (if st then bits v 56 12 * 0x1000 else v / 0x1000 * 0x1000) = u) : (walkTable rd c st va t (sh :: rest)) = (walkTable rd c st va u rest) := by
  rw [walkTable, bind_ok h]
  simp only [h1, h2, h3, if_neg, Bool.false_eq_true, not_false_eq_true]
theorem walk_leaf {rd : Nat → Except Nat Nat} {c : Nat} {st : Bool} {va t u : Nat} {rest : List Nat} {v : Nat} (h : (rd (t + 8 * bits va 38 30)) = .ok v)
    (h1 : (!bit v 0 || bits v 11 6 != 0 || bit v 3 || (st && bits v 63 57 != 0)) = false) (h2 : bit v 1 = true) (h3 : bit v 2 = true)
    (h4 : (if st then bits v 56 12 * 0x1000 else v / 0x1000 * 0x1000) = u) (h5 : u % 2 ^ 30 = 0) (h6 : bit v 4 = true) :
    (walkTable rd c st va t (30 :: rest)) = .ok ⟨u, 2 ^ 30, true⟩ := by
  rw [walkTable, bind_ok h]
  have h7 : ¬ ((30 : Nat) = 12) := by decide
  simp only [h1, h2, h3, h4, h5, h6, h7, decide_false, Bool.false_and, if_false, if_true, Bool.false_eq_true]
  rfl
/-- The second stage of an address below 4 KiB of its first page table. -/
theorem stage_two (a : Nat) (h : bits a 56 48 = 0 ∧ bits a 47 39 = 0 ∧ bits a 38 30 = 0) (h' : walker.meshFits here (2 ^ 63 + a % 2 ^ 30) = true) :
    (walker.stage2 here 0 a) = .ok ⟨2 ^ 63, 2 ^ 30, true⟩ := by
  have e : walker.tlbGpa here 0 a = none := rfl
  have r : areaWord (walker.polder here) 0 3 = 2 ^ 63 + 2 ^ 44 := by decide
  have h1 : (walker.tableRead here (2 ^ 63 + 2 ^ 44)) = .ok (2 ^ 63 + 2 ^ 44 + 0x1001) := (table_word _ (by decide)).trans rfl
  have h2 : (walker.tableRead here (2 ^ 63 + 2 ^ 44 + 0x1000)) = .ok (2 ^ 63 + 2 ^ 44 + 0x2001) := (table_word _ (by decide)).trans rfl
  have h3 : (walker.tableRead here (2 ^ 63 + 2 ^ 44 + 0x2000)) = .ok (2 ^ 63 + 0x17) := (table_word _ (by decide)).trans rfl
  have w : (walkTable (walker.tableRead here) 5 false a (2 ^ 63 + 2 ^ 44) walkLevels) = .ok ⟨2 ^ 63, 2 ^ 30, true⟩ := by
    rw [walkLevels, walk_next (v := 2 ^ 63 + 2 ^ 44 + 0x1001) (u := 2 ^ 63 + 2 ^ 44 + 0x1000) (by rw [h.1]; exact h1) (by decide) (by decide) (by decide),
      walk_next (v := 2 ^ 63 + 2 ^ 44 + 0x2001) (u := 2 ^ 63 + 2 ^ 44 + 0x2000) (by rw [h.2.1]; exact h2) (by decide) (by decide) (by decide)]
    exact walk_leaf (v := 2 ^ 63 + 0x17) (by rw [h.2.2]; exact h3) (by decide) (by decide) (by decide) (by decide) (by decide) (by decide)
  simp only [State.stage2, e, r]
  rw [bind_ok w, if_pos h']
theorem walker_read : (walker.tableRead here (2 ^ 63 + 0x3000 % 2 ^ 30)) = .ok 0x4001 := (table_word _ (by decide)).trans rfl
theorem walker_root : areaWord (walker.polder here) 0 4 + 8 * 0 = 2 ^ 63 + 2 ^ 44 + 0x6000 := by decide
theorem walker_pasid : (walker.tableRead here (2 ^ 63 + 2 ^ 44 + 0x6000)) = .ok (2 ^ 63 + 0x3000) := (table_word _ (by decide)).trans rfl
theorem walker_ipa (a v : Nat) (h : bits a 56 48 = 0 ∧ bits a 47 39 = 0 ∧ bits a 38 30 = 0) (h' : walker.meshFits here (2 ^ 63 + a % 2 ^ 30) = true)
      (hv : (walker.tableRead here (2 ^ 63 + a % 2 ^ 30)) = .ok v) : (walker.ipaRead here 0 a) = .ok v := by
    rw [State.ipaRead, bind_ok (stage_two a h h')]
    exact hv
theorem walker_level1 : (walker.ipaRead here 0 0x3000) = .ok 0x4001 := walker_ipa 0x3000 0x4001 (by decide) (by decide) walker_read

theorem walker_level2 : (walker.ipaRead here 0 0x4000) = .ok 0x5001 := walker_ipa 0x4000 0x5001 (by decide) (by decide) ((table_word _ (by decide)).trans rfl)
theorem walker_level3 : (walker.ipaRead here 0 0x5000) = .ok 0x17 := walker_ipa 0x5000 0x17 (by decide) (by decide) ((table_word _ (by decide)).trans rfl)
theorem first_index (a sh : Nat) : a + 8 * bits 0 (sh + 8) sh = a := by simp [bits]
theorem walker_table : (walkTable (walker.ipaRead here 0) 4 true 0 0x3000 walkLevels) = .ok ⟨0, 2 ^ 30, true⟩ := by
    rw [walkLevels, walk_next (v := 0x4001) (u := 0x4000) (by rw [first_index]; exact walker_level1) (by decide) (by decide) (by decide), walk_next (v := 0x5001) (u := 0x5000) (by rw [first_index]; exact walker_level2) (by decide) (by decide) (by decide)]
    exact walk_leaf (v := 0x17) (by rw [first_index _ 30]; exact walker_level3) (by decide) (by decide) (by decide) (by decide) (by decide) (by decide)
theorem walk_ok {s : State} {l : Loc} {part pasid va pe root : Nat} {f1 f2 : Leaf} (h0 : (s.tableRead l (areaWord (s.polder l) part 4 + 8 * pasid)) = .ok pe)
    (h1 : (!bit pe 63 || bit pe 62) = false) (h2 : bits pe 56 12 * 0x1000 = root) (h3 : (walkTable (s.ipaRead l part) 4 true va root walkLevels) = .ok f1)
    (h4 : (s.stage2 l part (f1.base + va % f1.size)) = .ok f2) : (s.walk l part pasid va) = .ok ⟨part, pasid, false, va / min f1.size f2.size * min f1.size f2.size,
      min f1.size f2.size, f2.base + (f1.base + va % f1.size) % f2.size / min f1.size f2.size * min f1.size f2.size, if !f1.amo then 4 else if !f2.amo then 5 else 0, false⟩ := by
  have e : s.stage1 l part pasid va = .ok f1 := by
    rw [State.stage1, bind_ok (show s.pasidEntry l part pasid = _ from h0), h1, h2]
    simp only [Bool.false_eq_true, if_false]
    exact h3
  rw [State.walk, bind_ok e, bind_ok h4]
/-- A translation that maps. -/
theorem walk_maps : (walker.walk here 0 0 0) = .ok ⟨0, 0, false, 0, 2 ^ 30, 2 ^ 63, 0, false⟩ :=
  (walk_ok (pe := 2 ^ 63 + 0x3000) (root := 0x3000) (f1 := ⟨0, 2 ^ 30, true⟩) (f2 := ⟨2 ^ 63, 2 ^ 30, true⟩) (walker_root ▸ walker_pasid) (by decide) (by decide) walker_table
    (stage_two 0 (by decide) (by decide))).trans (congrArg Except.ok (by decide))
/-- A walk that maps, and one that finds no entry; the accesses that wait. -/
theorem witness_RequestsServed_walks : (walker.walk here 0 0 0) = .ok ⟨0, 0, false, 0, 2 ^ 30, 2 ^ 63, 0, false⟩ ∧ (walker.polder here).tlb = [] ∧
    (∀ s : State, (s.tableRead here (areaWord (s.polder here) 0 4 + 8 * 0)) = .ok 0 → (s.walk here 0 0 0) = .error 4) ∧ (asking here).use = .load here 1 4 none :=
  ⟨walk_maps, rfl, fun s h => by rw [State.walk, State.stage1, bind_ok (show (s.pasidEntry here 0 0) = _ from h)]; rfl, rfl⟩
theorem memory_inv (c : Context) (k : CoreState) (p : PolderState) (d : DeviceState) (m : Memory) (h : m.wf = true) : (withMem (stage c k p d) m).Inv :=
  let i := stage_inv c k p d
  ⟨h, i.side, i.hostMem, i.agenda, i.ctxs, i.cores, i.polders, i.devices⟩
theorem device_here (c : Context) (k : CoreState) (p : PolderState) (m : Memory) : (withMem (stage c k p awake) m).devAt 0 0 = 0 := dev_at rfl

/-- A watch of the gauge at 0x40 for the value 5. -/
def watch (k : WatchKind) (arg : Nat) : WatchReg := ⟨here, 1, 0, k, 5, arg, 0, 0, 0x40, [3]⟩
/-- A gauge at 0x40 that has come to a value. -/
def gauged (v : Nat) (c : Context) (k : CoreState) (p : PolderState) : State := withMem (stage c k p awake) [(keyIn here 2 0x40, BitVec.ofNat 8 v)]
/-- An entry of the watch table, and a listen slot. -/
def entry (armed : Bool) : WatchEntry := ⟨3, 9, armed, watch .task 0x80, keyIn here 2 0x40, 0⟩
def listening (running : Bool) : ListenSlot := { (default : ListenSlot) with handle := ⟨here, 9, 3⟩, running := running }
theorem full_here : ({ polder0 with watches := fullWatch.watches } : PolderState).freeWatch = none := by
  simp [PolderState.freeWatch, fullWatch, List.find?_eq_none]
theorem free_here : polder0.freeWatch = some 0 := by
  simp [PolderState.freeWatch, polder0, PolderState.initial, List.find?_range_eq_some]
theorem kind_zero (s : State) (l : Loc) (ws : List Nat) (tag pasid : Nat) (h : ws.getD 0 0 = 0) : entryKind (s.entryOf l ws tag pasid) = 0 := by
  have e : (s.entryOf l ws tag pasid).words.getD 0 0#64 = w64 (s.rewrite l (bits 0 56 0) % 2 ^ 57) := by
    rw [List.getD_eq_getElem?_getD] at h
    simp [State.entryOf, State.rewriteRec, h]
  rw [entryKind, e]
  simp only [w64, BitVec.toNat_ofNat, bits]
  omega
/-- A gauge at its threshold and one short of it, with a free entry and with none; replies to a watch; an entry that arms; a record, a future, a dry owner and a HALTED context at
the satisfaction; and the two states of a listen. -/
theorem witness_WatchesRun :
    (∀ v ws, (gauged v user core0 { polder0 with watches := ws }).watchable (watch .task 0x80) ⟨here, 2, 0x40⟩ (keyIn here 2 0x40)) ∧
    watchMet (watch .task 0x80) ((gauged 5 user core0 polder0).word (keyIn here 2 0x40)) = true ∧
    watchMet (watch .task 0x80) ((gauged 4 user core0 polder0).word (keyIn here 2 0x40)) = false ∧ ({ polder0 with watches := fullWatch.watches } : PolderState).freeWatch = none ∧
    polder0.freeWatch = some 0 ∧
    ((watch .task 0x80).kind = .task ∧ (watch .task 0x80).words.length < 20 ∧ (stageB (wordBlock 1 0x72000094)).inFlight here 1 (wordBlock 1 0x72000094) ∧ 0 < 9 ∧
      (wordBlock 1 0x72000094).instrAt 0 = some (.watchTask .none (.into .l 20#7))) ∧
    (∀ v, ((gauged v user core0 { polder0 with watches := [entry false] }).polder here).watches = [entry false]) ∧ (entry false).reg.kind ≠ .listen ∧
    (∀ a, [entry a].find? (fun x => x.idx == 3 && x.gen == 8 && !x.armed) = none) ∧
    (∀ k v, k ≠ .launch → (stageC user).takes ⟨watch k 0x80, ⟨here, 9, 3⟩, v⟩ ∧ (stageC user).Inv) ∧
    (let s := stageC user;
      s.recordCause here 0x80 64 = 0 ∧ entryKind (s.entryOf here (s.taskWords here 0x80) 3 0) = 0 ∧ (s.core here).heldRecs = [] ∧ s.dequeRoom here = true ∧
      s.landsAt here 0x100000 (keyIn here 2 0) ∧ s.landsAt here 0x100008 (keyIn here 2 0 + 8) ∧ bits (s.word (keyIn here 2 0)) 63 62 = 0 ∧
      bits (s.word (keyIn here 2 0)) 39 0 = 0 ∧ (s.ctx here).faultQ = [] ∧ s.homeBarred here 0x100000 16 = false) ∧
    (∃ s : State, recordBars here (s.taskWords here 0x80) = 0) ∧
    (let s := stageC { user with state := 4#3 };
      (s.polder here).part = some 0 ∧ (s.ctx here).state = 4#3 ∧ s.spillState here (s.ctx here) ≠ .room ∧ (s.polder here).overflow.length < 64) ∧
    (∀ b, ((stage user core0 { polder0 with listens := [listening b] } awake).polder here).listens = [listening b] ∧ (listening b).removed = false) := by
  exact ⟨fun v ws => ⟨rfl, rfl, rfl, rfl, rfl, rfl⟩, by decide, by decide, full_here, free_here, ⟨rfl, by decide, ⟨rfl, rfl⟩, by decide, by decide⟩, fun _ => rfl, by decide, by decide,
    fun k v _ => ⟨⟨rfl, show (2#3 : BitVec 3) ≠ 4#3 by decide, show (2#3 : BitVec 3) ≠ 0#3 by decide⟩, stage_inv _ _ _ _⟩,
    ⟨by decide, kind_zero _ _ _ _ _ (by decide), by decide, by decide, ⟨⟨here, 2, 0⟩, by decide, by decide, by decide, by decide⟩, ⟨⟨here, 2, 8⟩, by decide, by decide, by decide, by decide⟩, by decide, by decide, rfl, by decide⟩,
    ⟨withMem (stageC user) [(keyIn here 2 0x87, 0x04#8)], by decide⟩, ⟨rfl, rfl, by decide, by decide⟩, fun _ => ⟨rfl, rfl⟩⟩

/-- An atomic addition of 1 to a word. -/
def bump (into : AmoTo) (a : Nat) : AmoPkt := ⟨.core 0, .add, .relaxed, false, 1, 0, a, into⟩
/-- The last word of a core memory, which the memory itself serves, and a word of the L2 slice's HBM, which the unit serves; an empty unit and one with one packet; a value, a refusal,
and a handler that waits. -/
theorem witness_AtomicsPerformed :
    (let s := stage user core0 used awake;
      s.Inv ∧ (bump (.slot here 1 0) 0x1FFF8).into = .slot here 1 0 ∧ s.isDry here here = false ∧
      (s.amoBlocked (bump (.slot here 1 0) 0x1FFF8) ⟨here, 2, 0x1FFF8⟩ = false ∧ s.keyOf ⟨here, 2, 0x1FFF8⟩ = some (keyIn here 2 0x1FFF8)) ∧ (s.polder here).amoHeld = [] ∧
      s.amoBegun here = [] ∧
      (bump (.slot here 1 0) 0x1FFF8).src ≠ .slice ∧ amoSize (bump (.slot here 1 0) 0x1FFF8) = 8 ∧
      (s.unsettled ⟨here, 0, 0⟩ = false ∧ s.keyOf ⟨here, 0, 0⟩ = some (keyIn here 0 0) ∧ s.amoBlocked (bump (.slot here 1 0) 0x100000000) ⟨here, 0, 0⟩ = false ∧ 0 ≠ 2) ∧
      s.sliceWrites here = false ∧
      (s.polder here).amoWait = [] ∧ (s.polder here).amoSlots = [] ∧ (s.polder here).amoBusy = false ∧ s.amoCause ⟨here, 0, 0⟩ (keyIn here 0 0) 8 = 0) ∧
    (∃ s : State, s.Inv ∧ s.isDry here here = false ∧ s.unsettled ⟨here, 2, 0x1000⟩ = false ∧ s.amoBlocked (bump (.slot here 1 0) 0x1000) ⟨here, 2, 0x1000⟩ = false ∧
      s.amoCause ⟨here, 2, 0x1000⟩ (keyIn here 2 0x1000) 8 = 0) ∧
    (let h := hnd 0 0 1 true;
      let s := { stage user core0 { used with handler := some h } awake with agenda := [⟨0, .slice here 1⟩] };
      s.Inv ∧ s.sliceWrites here = true ∧ s.unsettled ⟨here, 0, 0⟩ = false ∧ s.amoCause ⟨here, 0, 0⟩ (keyIn here 0 0) 8 = 0) ∧
    (let q := { used with amoSlots := [⟨31, .core 0, 0, [(bump (.slot here 1 0) 0x100000000, ⟨here, 0, 0⟩)]⟩] };
      ((stage user core0 q awake).polder here).amoSlots = [⟨31, .core 0, 0, [(bump (.slot here 1 0) 0x100000000, ⟨here, 0, 0⟩)]⟩] ∧ 31 < 32 ∧ q.amoWait = [] ∧
      (stage user core0 q awake).amoBegun here = [] ∧ q.amoHeld = [] ∧ (stage user core0 q awake).amoCause ⟨here, 0, 0⟩ (keyIn here 0 0) 8 = 0) ∧
    ((stageB (wordBlock 1 0x7A340000)).inFlight here 1 (wordBlock 1 0x7A340000) ∧ (wordBlock 1 0x7A340000).instrAt 0 = some (.amo .always .decz .none .none) ∧
      amoAcquires (bump (.slot here 1 0) 0) 0 = false) ∧
    (let h := hnd 0 0 1 true; ((sliceScene h).polder here).handler = some h ∧ h.gen = 1 ∧ h.wait = true) :=
  ⟨⟨stage_inv _ _ _ _, rfl, by decide, by decide, rfl, rfl, by decide, by decide, by decide, by decide, rfl, rfl, rfl, by decide⟩,
    ⟨stage user core0 used awake, stage_inv _ _ _ _, by decide, by decide, by decide, by decide⟩,
    ⟨let i := stage_inv user core0 { used with handler := some (hnd 0 0 1 true) } awake; ⟨i.mem, i.side, i.hostMem, ⟨Nat.le_refl _, trivial⟩, i.ctxs, i.cores, i.polders, i.devices⟩,
      by decide, by decide, by decide⟩, ⟨rfl, by decide, rfl, rfl, rfl, by decide⟩,
    ⟨⟨rfl, rfl⟩, by decide, by decide⟩, ⟨rfl, rfl, rfl⟩⟩

/-- The descriptor of set 0, of partition 0: 8 KiB from 0x400, budgets 16 and 16; and an event of it, at 0x600 or by the table word 4, of a message or not. -/
def setMem (more : Memory) : Memory := [(keyIn here 5 0, 1#8), (keyIn here 5 1, 8#8), (keyIn here 5 7, 0x80#8), (keyIn here 5 8, 16#8), (keyIn here 5 10, 16#8)] ++ more
def happens (indexed : Bool) (m : Option Message) : SliceEvent := ⟨0, 3, 7, if indexed then 4 else 0x600, indexed, 1, 2, 4, m, 0⟩
def eventful (e : SliceEvent) (more : Memory) : State := withMem (stage user core0 { polder0 with validSets := [0], events := [e] } awake) (setMem more)
/-- An event of a table word of 0 and of another, one without a message and one with; a handler that runs, and its own expiry and another's. -/
theorem witness_HandlersStart :
    (∀ e ∈ [happens true none, happens false none, happens false (some (letter 0 0 0 none))], ∀ more ∈ [[], [(keyIn here 5 0x411, 6#8)]], let s := eventful e more;
      s.mem.wf = true ∧ (s.polder here).handler = none ∧ s.startPending here = false ∧ s.goodSets here = (s.polder here).validSets ∧ (s.polder here).events = [e] ∧
      (s.polder here).counterRegs = [] ∧ (s.polder here).chainRun = none ∧ e.set < 4 ∧ s.nextSet here = some e.set) ∧
    (∀ e more, (setMem more).wf = true → (eventful e more).Inv) ∧
    (eventful (happens true none) []).num (keyIn here.toPolder 5 ((eventful (happens true none) []).setBase here 0 + 4 * 4)) 4 = 0 ∧
    (eventful (happens true none) [(keyIn here 5 0x411, 6#8)]).num (keyIn here.toPolder 5 ((eventful (happens true none) []).setBase here 0 + 4 * 4)) 4 = 0x600 ∧
    ((sliceScene (hnd 0 0 1 false)).polder here).handler = some (hnd 0 0 1 false) ∧ (hnd 0 0 1 false).gen = 1 ∧ (hnd 0 0 1 false).gen ≠ 2 := by
  refine ⟨?_, fun e more h => memory_inv _ _ _ _ _ h, by decide, by decide, rfl, rfl, by decide⟩
  intro e he more hm
  simp only [List.mem_cons, List.not_mem_nil, or_false] at he hm
  rcases he with rfl | rfl | rfl <;> rcases hm with rfl | rfl <;> exact ⟨by decide, rfl, by decide, by decide, rfl, rfl, rfl, by decide, by decide⟩

/-- A mailbox with messages of channel 0. -/
def mailed (n : Nat) : CoreState := { core0 with mail := List.replicate n ⟨0, letter 0 0 0 none, true⟩ }
/-- A forwarding entry of the first context. -/
def moved (place : Loc) (origin : Bool) (o : Origin) : Forward := ⟨here, place, origin, true, false, false, { Duties.none with origin := o }, 0#64, []⟩
/-- A message to the handler memory of the first polder, at 0x400. -/
def sliceLetter : Message := letter 0 (imageBase 0 + 0x800400) 0 (some ⟨here, 2, 0⟩)
theorem base_bits : ∀ n, n < 127 → bits ((n + 1) * 2 ^ 50 + 0x800400) 56 0 = (n + 1) * 2 ^ 50 + 0x800400 ∧ bit ((n + 1) * 2 ^ 50 + 0x800400) 57 = false := by decide
theorem slice_byte (b : Nat) : (if b + here.pidx * 2 ^ 41 + 0x800000 ≤ b + 0x800400 ∧ b + 0x800400 < b + here.pidx * 2 ^ 41 + 0x800000 + 0x20000 then
    some (b + 0x800400 - (b + here.pidx * 2 ^ 41 + 0x800000)) else none) = some 0x400 := by
  have h : here.pidx = 0 := rfl
  rw [h, if_pos (by omega)]
  exact congrArg some (by omega)
theorem base_form : ∃ n, n < 127 ∧ imageBase 0 = (n + 1) * 2 ^ 50 := ⟨Config.partitionBase 0 % 127, Nat.mod_lt _ (by decide), by rw [imageBase]⟩
theorem letter_w0 (dest w0 w1 : Nat) (q : Option Place) : (letter dest w0 w1 q).w0 = w0 := rfl
theorem letter_part (dest w0 : Nat) (q : Option Place) : msgPart (letter dest w0 0 q) = 0 := by rw [msgPart, show (letter dest w0 0 q).w1 = 0 from rfl]; decide
theorem slice_hb : bits sliceLetter.w0 56 0 = imageBase 0 + 0x800400 ∧ bit sliceLetter.w0 57 = false := by
  rw [sliceLetter, letter_w0]
  obtain ⟨n, h, e⟩ := base_form
  rw [e]
  exact base_bits n h
theorem slice_part : msgPart sliceLetter = 0 := letter_part _ _ _
theorem slice_lands : sliceByte here sliceLetter = some 0x400 := by
  have h := slice_hb.1
  unfold sliceByte
  rw [h, slice_part]
  exact slice_byte (imageBase 0)
/-- A message of an unknown partition; the last slot of a channel and one too many; a thread that has gone, with and without an entry; slice messages of no set, for the last place
of the queue, and beyond it; a word at its largest count. -/
theorem witness_MessagesArrive :
    (bit (letter 0 0 0 none).w0 57 = false ∧ (stage user core0 PolderState.initial awake).partDefined here (msgPart (letter 0 0 0 none)) = false) ∧
    (∀ k, ((stage user k polder0 awake).polder here).part = some (msgPart (letter 0 0 0 none))) ∧ bit (letter 0 0 0 none).dest 24 = false ∧
    ((stage user (mailed 15) polder0 awake).core here).unmailed = [] ∧ (stage user (mailed 15) polder0 awake).mailRoom here (msgChan (letter 0 0 0 none)) = true ∧
    (stageB (flight [])).isDry ((stageB (flight [])).senderOf 0 ⟨0, 0, 2 ^ 47, [], 0, none, none⟩) here = false ∧
    (stage user (mailed 16) polder0 awake).mailRoom here (msgChan (letter 0 0 0 none)) = false ∧
    (let c : Context := { user with state := 0#3 };
      bit (letter 0x1000000 0 0 none).dest 24 = true ∧ ((stageC c).ctx here).state = 0#3 ∧ ((stageC c).ctx here).reserved = none ∧ ((stageC c).core here).forwardOf here = none ∧
      ((stage c { core0 with forwards := [moved { here with core := 1 } false .task] } polder0 awake).core here).forwardOf here = some (moved { here with core := 1 } false .task) ∧
      (moved { here with core := 1 } false .task).moved = false ∧ (letter 0x1000000 0 0 none).fwd = none) ∧
    bit sliceLetter.w0 57 = false ∧ (stageC user).setOf here (msgPart sliceLetter) = none ∧ sliceByte here sliceLetter = some 0x400 ∧
    (∀ n ∈ [15, 16], let s := withMem (stage user core0 { polder0 with events := List.replicate n (happens false none) } awake) (setMem []);
      s.setOf here 0 = some 0 ∧ s.setBase here 0 = 0x400 ∧ s.setLen here 0 = 0x2000) ∧
    ((List.replicate 15 (happens false (some sliceLetter))).filter fun e => e.set == 0 && e.msg.isSome).length < 16 ∧
    16 ≤ ((List.replicate 16 (happens false (some sliceLetter))).filter fun e => e.set == 0 && e.msg.isSome).length ∧
    (let s := withMem (stageC user) [(keyIn here 2 0x4F, 0xFF#8)];
      s.mem.wf = true ∧ s.takesAt ⟨here, 2, 0x48⟩ (keyIn here 2 0x48) ∧ s.workspaceHit ⟨here, 2, 0x48⟩ 8 = false ∧ s.workspaceHit ⟨here, 2, 0x1FC78⟩ 8 = true) := by
  refine ⟨by decide, fun _ => rfl, by decide, by decide, by decide, by decide, by decide, ⟨by decide, rfl, rfl, rfl, rfl, rfl, rfl⟩, slice_hb.2, by decide, slice_lands, by decide, ?_, ?_,
    by decide, ⟨by decide, by decide, by decide⟩, by decide, by decide⟩
  · simp [happens]
  · simp [happens]

/-- A packet of a thread that moves from the first context, in partition 0. -/
def packet : MigPkt := ⟨here, 0, 0, 0x20, 0, 0, [here], List.replicate 16 0#64⟩
/-- A polder that takes guests, with packets in its buffer. -/
def hosting (n : Nat) : PolderState := { polder0 with limits := List.replicate 8 0#64 ++ [0x7F#64], migBuf := List.replicate n packet }
/-- A relocation of the first context to the second, whose reply word is at 0x40. -/
def relocation : RelocJob := ⟨here, here, 1, 0x40⟩
/-- A migration into a polder that is absent, that takes no guests, with its last place free and with a full buffer; the answers; a relocation that must wait, that is refused,
and that goes; its arrival; and a holder that learns the new place, its origin or not. -/
theorem witness_ThreadsMove :
    (∀ n, (stage user core0 (hosting n) awake).isDry here here = false) ∧ PolderState.initial.part ≠ some packet.part ∧ (hosting 8).part = some packet.part ∧
    bits (polder0.limits.getD 8 0#64).toNat 6 0 = 0 ∧ bits ((hosting 8).limits.getD 8 0#64).toNat 6 0 ≠ 0 ∧ 8 ≤ (hosting 8).migBuf.length ∧ (hosting 7).migBuf.length < 8 ∧
    (∀ o, let s := stage user { core0 with forwards := [moved { here with pidx := 1 } o (.host ⟨2, 1, 0⟩)] } polder0 awake;
      (s.core packet.source).forwardOf packet.source = some (moved { here with pidx := 1 } o (.host ⟨2, 1, 0⟩)) ∧ s.Inv) ∧
    (∀ o q, (moved here o q).waiting = [] ∧ (moved here o q).origin = o ∧ (moved here o q).duties.origin = q) ∧ packet.holders = [packet.source] ∧ packet.words.length = 16 ∧
    (∀ c, (stageC c).Inv ∧ (stageC c).landsAt here 0x40 (keyIn here 2 0x40) ∧ ((stageC c).polder here).part = some packet.part ∧ (stageC c).tidLoc 0 1 = { here with ctx := 1 }) ∧
    ((stageC user).homeBarred here 0x40 8 = false ∧ (stageC { user with state := 4#3 }).homeBarred here 0x40 8 = false) ∧
    (({ user with dseq := 1#16 } : Context).dseq ≠ ({ user with dseq := 1#16 } : Context).rseq) ∧ user.dseq = user.rseq ∧
    (stageC user).relocCode relocation = 2 ∧ (stageC { user with state := 4#3 }).relocCode relocation = 0 ∧ relocation.source ≠ { here with ctx := 1 } ∧
    ((stageC user).core { here with ctx := 1 }).forwardOf { here with ctx := 1 } = none ∧
    keyIn here 2 0x40 + 8 ≤ coreKey { here with ctx := 1 } ((stageC user).ctx { here with ctx := 1 }).wp.toNat := by
  have d (c : Context) : (stageC c).tidLoc 0 1 = { here with ctx := 1 } := by
    simp only [State.tidLoc, stageC, dev_here, show bits 1 23 16 = 0 from by decide]
    rfl
  refine ⟨fun _ => rfl, by decide, rfl, by decide, by decide, by decide, by decide, fun _ => ⟨rfl, stage_inv _ _ _ _⟩, fun _ _ => ⟨rfl, rfl, rfl⟩, rfl, by decide,
    fun c => ⟨stage_inv _ _ _ _, ⟨⟨here, 2, 0x40⟩, by decide, rfl, rfl, by decide⟩, rfl, d c⟩, by decide, by decide, rfl, ?_, ?_, by decide, rfl, by decide⟩
  · unfold State.relocCode
    rw [show relocation.issuer.dev = 0 from rfl, show relocation.dest = 1 from rfl, d]
    decide
  · unfold State.relocCode
    rw [show relocation.issuer.dev = 0 from rfl, show relocation.dest = 1 from rfl, d]
    decide

/-- An entry of the first core's ring, number 7, and a core with it. -/
def ringed7 (op : RingOp) : RingEntry := { (default : RingEntry) with seq := 7#16, owner := here, op := op }
def holding (op : RingOp) : CoreState := { core0 with ring := [ringed7 op] }
/-- A shape record of `n` packed elements of type `i8` in one row at an address of core memory, and one of type 0 that no pair takes. -/
def rowShape (n a : Nat) : List Byte := bytesOf 8 (2 ^ 58 + a) ++ bytesOf 8 (n + 2 ^ 16) ++ bytesOf 8 (2 ^ 61 + n) ++ bytesOf 8 0
/-- A product of two rows of 4 elements, to slot 0, from zero. -/
def product : RingOp := .mma .ii false (rowShape 4 0x100) (rowShape 4 0x200) 0 0x20
/-- A job for an entry. -/
def job (op : RingOp) (reg : Bool) : MatrixJob := { MatrixJob.fresh here (ringed7 op) 0 with checked := true, reg := reg, started := reg, table := some [] }
/-- A job that has registered and whose operands have not been looked at, after two slots of sources; and a coded `B` with its row table at 0x300. -/
def settling (op : RingOp) : MatrixJob := { job op false with reg := true, pulling := true, first := 2 }
def codedShape : List Byte := bytesOf 8 (2 ^ 58 * 0x16 + 0x100) ++ bytesOf 8 (4 + 2 ^ 16) ++ bytesOf 8 (2 ^ 61 + 0x300) ++ bytesOf 8 0
def working (op : RingOp) (j : MatrixJob) : State := stage user (holding op) { polder0 with jobs := [j] } awake
/-- A pull of 64 bytes within the polder, and its entry. -/
def pulling : State := stage user (holding (.pull 0x100040 0x100080 0x3F)) polder0 awake
/-- The record of an `eq2` command: source, destination, descriptor. -/
def eq2Rec (a b c : Nat) : List Byte := bytesOf 8 a ++ bytesOf 8 b ++ bytesOf 8 c ++ bytesOf 8 0
/-- Records that are taken and refused; commands with a bad pointer, with an unknown code, and of `MACC` and `MMA`; a job that waits, that is refused, and that registers, and one that has registered and waits or goes on; a pull
that is refused and one that is issued; commands of the copy engine that are refused, wait and go. -/
theorem witness_EntriesAccepted :
    (∀ op ∈ [product, .mma .ii false (rowShape 0 0) (rowShape 4 0) 0 0x20], let s := stage user (holding op) polder0 awake;
      (s.polder here).matrixStall = false ∧ (s.polder here).swapping = none ∧ (s.polder here).jobs.length < 4 ∧ s.matrixPick here = some (here, ringed7 op)) ∧
    (stage user (holding product) polder0 awake).mmaRefused here product = false ∧
    (stage user core0 polder0 awake).mmaRefused here (.mma .ii false (rowShape 0 0) (rowShape 4 0) 0 0x20) = true ∧
    (∀ op, (stage user (holding op) polder0 awake).entryAt here 7 = some (ringed7 op)) ∧
    pointerCause (fun op => decide (0x60 ≤ op) && decide (op ≤ 0x6F)) 32 0x5F00000000000000 false ≠ 0 ∧
    pointerCause (fun op => decide (0x60 ≤ op) && decide (op ≤ 0x6F)) 32 0x6F00000000000000 false = 0 ∧
    (working (.macc .zero 0 0) (job (.macc .zero 0 0) false)).regFate here (job (.macc .zero 0 0) false) = .go ∧
    (slotTake (.macc .zero 0 0) here AccSlot.free).isSome = true ∧ slotTake (.macc .zero 0 0) here { AccSlot.free with st := 2 } = none ∧
    (working (.macc .storea 0 0x1C000) (job (.macc .storea 0 0x1C000) false)).regFate here (job (.macc .storea 0 0x1C000) false) = .refuse 0x11C000 ∧
    (job (.macc .zero 0 0) false).reg = false ∧ (job (.macc .zero 0 0) false).op.isRot = false ∧ (job (.macc .zero 0 0) false).started = false ∧
    (maccCause .zero 127 0).1 ≠ 0 ∧ ((stageC user).mmaCause here .bb false 4 0x20 32).1 ≠ 0 ∧
    ((working product (job product false)).codedLanding here (job product false) = false ∧ (working product (job product false)).tableXfer (job product false) = none) ∧
    (let op : RingOp := .mma .ii false (rowShape 4 0x100) codedShape 0 0x20;
      (stage user core0 { polder0 with locks := [⟨1, true, 0, 0, 0, false, here, keyIn here 2 0x300, 0x100300, 64, 0⟩] } awake).codedLanding here (job op false) = true) ∧
    ((stageC user).tableXfer (job (.mma .ii true (rowShape 4 0x100) codedShape 0 (2 ^ 30)) false)).isSome = true ∧
    (RingOp.mma .ii true (rowShape 4 0x100) codedShape 0 (2 ^ 30)).isRot = true ∧
    ((working product (settling product)).passesWait here (settling product) = false ∧ (settling product).reg = true ∧ (settling product).pulling = true ∧
      (settling product).started = false ∧ (settling product).refused = false ∧ (settling product).table = some []) ∧
    (stage user core0 { polder0 with locks := [⟨1, true, 0, 0, 0, false, here, keyIn here 2 0x100, 0x100100, 64, 0⟩] } awake).passesWait here (settling product) = true ∧
    ((pulling.polder here).xfers = [] ∧ pulling.xferPick here = some 0 ∧ (pulling.core here).head .copy = some (ringed7 (.pull 0x100040 0x100080 0x3F)) ∧
      0x100040 % 64 + (0x3F + 1) ≤ 64) ∧
    pulling.xferFate here ((ringed7 (.pull 0x100040 0x100080 0x3F)).xfer .copy 0x100040 0x100080 64 0x3F) = .go ∧
    pulling.xferFate here ((ringed7 (.pull 0 0x1FC00 0x3F)).xfer .copy 0 0x1FC00 64 0x3F) = .refuse 0x11FC00 ∧
    (stageC user).eq2Cause here 0 0 false 3 (eq2Rec 0 0x100 (0x3F + 3 * 2 ^ 20)) = (1, 0) ∧ (stageC user).eq2Cause here 0 0 false 3 (eq2Rec 0 0x100 0x3F) = (0, 0) ∧
    (stage user core0 { polder0 with locks := List.replicate 32 ⟨1, true, 0, 0, 0, false, here, 0, 0, 0, 0⟩ } awake).xferFate here
      ((ringed7 (.eq2 0 (eq2Rec 0 0x100 0x3F))).xfer (.fill 0) 0 0x100 64 0x3F) = .wait ∧
    (stageC user).xferFate here ((ringed7 (.eq2 0 (eq2Rec 0 0x100 0x3F))).xfer (.fill 0) 0 0x100 64 0x3F) = .go :=
  ⟨by decide, by decide, by decide, fun _ => rfl, by decide, by decide, by decide, by decide, by decide, by decide, rfl, rfl, rfl, by decide, by decide, ⟨by decide, rfl⟩, by decide, by decide, rfl,
    ⟨by decide, rfl, rfl, rfl, rfl, rfl⟩, by decide, by decide, by decide, by decide, by decide, by decide, by decide, by decide⟩

/-- A vector token: count, type `i8`, address. -/
def vt (n a : Nat) : Nat := n * 2 ^ 48 + 1 * 2 ^ 42 + a
/-- A vector entry in the ring. -/
def vector (op : Vop) (l r x : Nat) : State := stage user (holding (.vec op l r x)) polder0 awake
/-- A transfer of one line, of 64 bytes to 0x1000, with or without a completion word at 0x40. -/
def landing (cwa : Nat) : Xfer := { (default : Xfer) with id := 3, origin := .ring 0 7, kind := .copy, dst := 0x1000, len := 64, next := 64, flying := [(0, 64)], cwa := cwa, lock := some 5 }
theorem array_at (n a : Nat) (h : vtok (vt n a) = ⟨n, 1, false, false, 0, a⟩) (hn : 0 < n ∧ n ≤ 64) (ha : homePlace here a = some ⟨here, 2, a⟩) :
    (vector .bcast 0 0 0).byteArray here (vtok (vt n a)) 1 n (keyIn here 2 a) := by
  rw [h]
  exact ⟨rfl, rfl, rfl, rfl, hn.1, hn.2, ⟨here, 2, a⟩, ha, rfl, rfl⟩
/-- A unit with nothing to do; arrays of no element, of one and of a whole beat; jobs of each kind, with rows of 4 elements; and a line with and without a completion word. -/
theorem witness_EnginesWork :
    core0.vecHead = none ∧
    (∀ op l r x, (vector op l r x).Inv ∧ ((vector op l r x).core here).vecHead = some (ringed7 (.vec op l r x)) ∧ (ringed7 (.vec op l r x)).owner.toCore = here ∧
      (ringed7 (.vec op l r x)).beat = 0 ∧ ((vector op l r x).polder here).swapping = none) ∧
    vecCount .bcast (vt 0 0x100) 0 0 = 0 ∧
    (∀ n ∈ [1, 64], (vector .bcast 0 0 0).byteArray here (vtok (vt n 0x100)) 1 n (keyIn here 2 0x100) ∧ (vector .bcast 0 0 0).byteArray here (vtok (vt n 0x200)) 1 n (keyIn here 2 0x200)) ∧
    (let s := vector .bcast (vt 64 0x100) 7 0; s.beatCause here .bcast (vt 64 0x100) 7 0 0 64 (s.beatOf (ringed7 (.vec .bcast (vt 64 0x100) 7 0)) .bcast (vt 64 0x100) 7 0 0 64 64) = (0, 0)) ∧
    (let s := vector .add (vt 4 0x100) (vt 4 0x200) (vt 4 0x300);
      s.beatCause here .add (vt 4 0x100) (vt 4 0x200) (vt 4 0x300) 0 4
        (s.beatOf (ringed7 (.vec .add (vt 4 0x100) (vt 4 0x200) (vt 4 0x300))) .add (vt 4 0x100) (vt 4 0x200) (vt 4 0x300) 0 4 4) = (0, 0)) ∧
    (∀ op, (working op (job op true)).Inv ∧ ((working op (job op true)).polder here).jobs = [job op true] ∧ (job op true).owner.toPolder = here ∧ (job op true).kb = 0 ∧
      (job op true).pulls = 0 ∧ (job op true).op = op ∧ (working op (job op true)).ecc = [] ∧ (job op true).started = true ∧ (job op true).passesDone = false ∧
      (job op true).due ≤ (working op (job op true)).now ∧ ((working op (job op true)).polder here).matrixFree ≤ (working op (job op true)).now) ∧
    (working product (job product true)).inCore here 0x1C000 (keyIn here 2 0x1C000) ∧ (working product (job product true)).eccHit (keyIn here 2 0x1C000) 0x4000 = false ∧
    (let op : RingOp := .macc .storea 0 0x4000; let s := working op (job op true);
      s.inCore here 0x4000 (keyIn here 2 0x4000) ∧ s.eccHit (s.slotKey here 0) 0x4000 = false ∧ s.spanInWorkspace here (polderView here 0x4000) 0x4000 = false) ∧
    (working product (job product true)).byteRow here (shapeOf (rowShape 4 0x100)) 4 (keyIn here 2 0x100) ∧
    (working product (job product true)).byteRow here (shapeOf (rowShape 4 0x200)) 4 (keyIn here 2 0x200) ∧
    (∀ w, let s := stage user (holding (.pull 0 0 0)) { polder0 with xfers := [landing w] } awake; s.Inv ∧ (s.polder here).xfers = [landing w] ∧ (landing w).origin = .ring 0 7 ∧
      (landing w).kind = .copy ∧ (landing w).next = (landing w).len ∧ (landing w).flying = [(0, 64)] ∧ (landing w).cause = 0 ∧ (landing w).lock = some 5) ∧
    (∀ w ∈ [0, 0x40], (landPlaces here (landing w) 0 64).any (stageC user).unsettled = false ∧ (stageC user).landBarred here (landing w) 0 64 = false ∧
      (stageC user).landBarred here { landing 0 with dst := 0x1FC00 } 0 64 = true) ∧ (stageC user).wordBarred (engineAgent here) 0x40 = false ∧
    (stageC user).landsAt (engineAgent here) 0x1000 (keyIn here 2 0x1000) ∧ (stageC user).inCore (engineAgent here) 0x40 (keyIn here 2 0x40) ∧
    keyIn here 2 0x40 + 8 ≤ keyIn here 2 0x1000 ∧ 64 ≤ bits ((withMem (stageC user) [(keyIn here 2 0x40, 64#8)]).word (keyIn here 2 0x40)) 55 0 := by
  refine ⟨rfl, fun _ _ _ _ => ⟨stage_inv _ _ _ _, rfl, rfl, rfl, rfl⟩, by decide, fun n h => ?_, by decide +kernel, by decide +kernel, fun _ => ⟨stage_inv _ _ _ _, rfl, rfl, rfl, rfl, rfl, rfl, rfl, rfl, Nat.le_refl _, Nat.le_refl _⟩,
    ⟨⟨here, 2, 0x1C000⟩, by decide, rfl, rfl⟩, by decide, ⟨⟨⟨here, 2, 0x4000⟩, by decide, rfl, rfl⟩, by decide, by decide⟩, ⟨by decide, by decide, by decide, by decide, by decide, ⟨here, 2, 0x100⟩, by decide, rfl, rfl⟩,
    ⟨by decide, by decide, by decide, by decide, by decide, ⟨here, 2, 0x200⟩, by decide, rfl, rfl⟩, fun _ => ⟨stage_inv _ _ _ _, rfl, rfl, rfl, rfl, rfl, rfl, rfl⟩,
    by decide, by decide, ⟨⟨here, 2, 0x1000⟩, by decide, rfl, rfl, by decide⟩, ⟨⟨here, 2, 0x40⟩, by decide, rfl, rfl⟩, by decide, by decide⟩
  simp only [List.mem_cons, List.not_mem_nil, or_false] at h
  rcases h with rfl | rfl <;> exact ⟨array_at _ _ (by decide) (by decide) (by decide), array_at _ _ (by decide) (by decide) (by decide)⟩

/-- An entry that has completed, of a thread. -/
def finished (thread cause : Nat) : RingEntry := { ringed7 (.pull 0 0 0) with phase := .complete, thread := thread, cause := cause }
/-- A job that ended with and without a cause; an entry of the thread that is there, with and without a cause, and one of a thread that has left. -/
theorem witness_EntriesRetire :
    (∀ op, (working op (job op true)).jobAt here 0 7 = some (job op true)) ∧ (job product true).cause = 0 ∧ ({ job product true with cause := 8 } : MatrixJob).cause ≠ 0 ∧
    (working product { job product true with cause := 8 }).jobAt here 0 7 = some { job product true with cause := 8 } ∧
    (∀ n x, ((stage user { core0 with ring := [finished n x] } polder0 awake).core here).ready = [finished n x] ∧ (finished n x).owner.toCore = here) ∧
    (finished 0 0).orphaned (stageC user) = false ∧ (finished 1 8).orphaned (stageC user) = true ∧ (finished 0 8).cause ≠ 0 ∧ ((stageC user).ctx here).late.length < 8 :=
  ⟨fun _ => rfl, rfl, by decide, rfl, fun _ _ => ⟨rfl, rfl⟩, by decide, by decide, by decide, by decide⟩

/-- A communicator of one member and of two, with a command. -/
def command (op last : Nat) : CollCmd := { (default : CollCmd) with core := 0, seq := 7, op := op, ty := 3, count := 4, dst := 0x200, first := 1, last := last, issuer := here }
def comm (ms : List (Nat × Nat)) (x : CollCmd) (k : Option Chunk) : Comm :=
  { (default : Comm) with cid := 1, tix := 1, members := ms, record := 0x100040, staging := [[], []], cmds := [x], ready := true, chunk := k }
def collective (c : Comm) : State := stage user (holding (.eq3 0 [])) { polder0 with comms := [c], collRunning := if c.chunk.isSome then some 1 else none } awake
/-- The record of a communicator of one member at 0x40, with its member table at 0x100; and a barrier on it. -/
def commRecord : Memory := wordIn (keyIn here 2 0x40) (2 ^ 63 + 2 ^ 45 + 2 ^ 16) ++ wordIn (keyIn here 2 0x50) 0x100
def barrierEntry (a : Nat) : RingEntry := ringed7 (.eq3 (5 * 2 ^ 56) (bytesOf 8 a ++ List.replicate 56 0#8))
/-- The record of the communicator of a command that is accepted. -/
def goesAt : CollFate → Option Nat
  | .go m _ => some m.record
  | _ => none
/-- A span of core memory, place by place. -/
theorem span_core (s : State) (l : Loc) (a k n : Nat) (h : ∀ d, d < n → homePlace l (a + d) = some ⟨here, 2, a + d⟩ ∧ s.keyOf ⟨here, 2, a + d⟩ = some (k + d)) : s.spanAt l a k n :=
  fun d q => ⟨_, (h d q).1, rfl, (h d q).2⟩
/-- The record in memory, and a barrier at the head of the ring. -/
def calling (a : Nat) (cs : List Comm) : State :=
  withMem (stage user { core0 with ring := [barrierEntry a] } { polder0 with comms := cs } awake) (commRecord.filter fun c => c.2 != 0#8)
/-- What is accepted disagrees with what a member has shown. -/
def fateDiffers : CollFate → Option Bool
  | .go m x => some (m.differs x)
  | _ => none
/-- Commands that are accepted, with and without a member that has shown another signature for the step, and one without a communicator; a barrier of one member that starts. -/
theorem witness_CollectivesRun :
    (let s := calling 0x40 [];
      s.mem.wf = true ∧ s.entryAt here 7 = some (barrierEntry 0x40) ∧ (barrierEntry 0x40).phase = .dispatched ∧ goesAt (s.collFate here (barrierEntry 0x40)) = some 0x100040 ∧
      s.landsAt here (0x100040 + 24) (keyIn here 2 0x58) ∧ s.homeBarred here (0x100040 + 24) 8 = false ∧ fateDiffers (s.collFate here (barrierEntry 0x40)) = some false) ∧
    fateDiffers ((calling 0x40 [{ comm [(0, 0)] (command 5 1) none with cmds := [], peers := [⟨0, 0, 0, 77, 1, false⟩] }]).collFate here (barrierEntry 0x40)) = some true ∧
    (stageC user).collFate here (barrierEntry 0x40) = .refuse 1 0x40 ∧
    ∀ w, let c := comm [(0, 0)] (command 5 1) none; let p := { polder0 with comms := [c], chainRun := w };
      (∀ i, i < 8 → ((stage user core0 p awake).core { here with core := i }).head .collective = none) ∧
      (stage user core0 p awake).polder here = p ∧ c.ready = true ∧
      c.nextChunk = some (1, command 5 1, (command 5 1).step 1 1) ∧ ((command 5 1).step 1 1).kind = .barrier ∧
      (stage user core0 p awake).peersReady here c 1 (command 5 1) ((command 5 1).step 1 1) ∧
      (w = none → (stage user core0 p awake).chainDue here none = false) ∧ (w = some (none, 0) → (stage user core0 p awake).chainDue here none = true) := by
  refine ⟨⟨by decide, by decide, by decide, by decide, ⟨⟨here, 2, 0x58⟩, by decide, by decide, by decide, by decide⟩, by decide, by decide⟩, by decide, by decide, fun w =>
    ⟨fun i _ => ?_, rfl, rfl, by decide, by decide, ?_, fun h => by subst h; rfl, fun h => by subst h; rfl⟩⟩
  · unfold State.core stage lookupD
    split <;> rfl
  · intro r h
    have e : (comm [(0, 0)] (command 5 1) none).chunkFrom 1 (command 5 1) ((command 5 1).step 1 1) = [] := by decide
    rw [e] at h
    exact (List.not_mem_nil h).elim

/-- A communicator of two members whose chunk of the second step has ended, with the handler of the chain as given. -/
def chunkDone (w : Option (Option Nat × Nat)) (c : Comm) : State :=
  stage user (holding (.eq3 0 [])) { polder0 with comms := [c], collRunning := some 1, chainRun := w } awake
def two (op : Nat) (rank pg : Nat) (parts : List (Option (List Byte))) (fs : List (Nat × Nat)) : Comm :=
  { comm [(0, 0), (0, 1)] (command op 2) (some ⟨2, parts, fs⟩) with rank := rank, pg := pg, dg := 1 }
/-- The other member has the communicator in its saved set. -/
def memberAway (c : Comm) : State :=
  { chunkDone none c with polders := [(here, { polder0 with comms := [c] }), (⟨0, 1, 0, 0⟩, { PolderState.initial with saves := [{ (default : SavedSet) with comms := [c] }] })] }
theorem memberAway_inv (c : Comm) : (memberAway c).Inv :=
  { stage_inv user (holding (.eq3 0 [])) { polder0 with comms := [c], collRunning := some 1, chainRun := none } awake with
    polders := ⟨by simp [memberAway], fun x h => by
      simp only [memberAway, List.mem_cons, List.not_mem_nil, or_false] at h
      rcases h with rfl | rfl <;> rfl⟩ }
theorem away_at (s : State) (r : Option Nat) (h : s.devsAt 0 0 = [0])
    (e : ((((s.polder ⟨0, 1, 0, 0⟩).saves.any fun v => v.comms.any fun y => y.cid == 1) && (s.commAt ⟨0, 1, 0, 0⟩ 1).isNone) = true ↔ r = some 1)) (q : r = some 1 ∨ r = none) :
    ((two 7 0 0 [] [(9, 0)]).chunkFrom 2 (command 7 2) ((command 7 2).step 2 2)).find? (s.memberAbsent here (two 7 0 0 [] [(9, 0)])) = r := by
  have a : s.memberAbsent here (two 7 0 0 [] [(9, 0)]) 1 =
      (((s.polder ⟨0, 1, 0, 0⟩).saves.any fun v => v.comms.any fun y => y.cid == 1) && (s.commAt ⟨0, 1, 0, 0⟩ 1).isNone) := by
    simp only [State.memberAbsent, State.memberAt, show (two 7 0 0 [] [(9, 0)]).members.getD 1 (0, 0) = (0, 1) from rfl, dev_at h]
    rfl
  rw [show (two 7 0 0 [] [(9, 0)]).chunkFrom 2 (command 7 2) ((command 7 2).step 2 2) = [1] from by decide, List.find?_cons, a]
  rcases q with rfl | rfl
  · rw [e.2 rfl]
  · cases z : (((s.polder ⟨0, 1, 0, 0⟩).saves.any fun v => v.comms.any fun y => y.cid == 1) && (s.commAt ⟨0, 1, 0, 0⟩ 1).isNone)
    · rfl
    · exact nomatch e.1 z
def sixteen : List Byte := List.replicate 16 0#8
/-- Chunks that have ended, of each kind, at the root and elsewhere, before and after the handler of the chain; one whose read failed, with the member there and away. -/
theorem witness_CollectivesRun_ends :
    (∀ w op rank pg fs, let c := two op rank pg [] fs; let s := chunkDone w c;
      s.Inv ∧ (s.polder here).comms = [c] ∧ c.chunk = some ⟨2, [], fs⟩ ∧ (∀ b ∈ ([] : List (Option (List Byte))), b.isSome = true) ∧ c.cmdAt 2 = some (command op 2) ∧
      (command op 2).cwa = 0 ∧ s.commAt here 1 = some c ∧ c.cid = 1 ∧
      (w = none → s.chainDue here (some 1) = false) ∧ (w = some (some 1, 0) → s.chainDue here (some 1) = true)) ∧
    (∀ op ∈ [1, 4, 5, 7], ((command op 2).step 2 2).kind ≠ .counts ∧ (chunkPlaces here (two op 0 0 [] []) 2 (command op 2) ((command op 2).step 2 2)).any (chunkDone none (two op 0 0 [] [])).unsettled = false) ∧
    ((two 7 0 0 [] [(9, 0)]).chunkFrom 2 (command 7 2) ((command 7 2).step 2 2)).find? ((chunkDone none (two 7 0 0 [] [(9, 0)])).memberAbsent here (two 7 0 0 [] [(9, 0)])) = none ∧
    ((two 7 0 0 [] [(9, 0)]).chunkFrom 2 (command 7 2) ((command 7 2).step 2 2)).find? ((memberAway (two 7 0 0 [] [(9, 0)])).memberAbsent here (two 7 0 0 [] [(9, 0)])) = some 1 ∧
    (memberAway (two 7 0 0 [] [(9, 0)])).Inv ∧
    (((command 1 2).step 2 2).kind = .bcast ∧ (two 1 0 0 [] []).pos ((command 1 2).step 2 2).root = 0 ∧ ((command 1 2).step 2 2).keep = true ∧ (command 1 2).last = 2) ∧
    (((command 4 2).step 2 2).kind = .bcast ∧ ((command 4 2).step 2 2).keep = false ∧
      (chunkDone none (two 4 1 0 [some sixteen] [])).spanAt (engineAgent here) ((command 4 2).dst + ((command 4 2).step 2 2).dst) (keyIn here 2 0x4200) sixteen.length ∧
      (chunkDone none (two 4 1 0 [some sixteen] [])).homeBarred here ((command 4 2).dst + ((command 4 2).step 2 2).dst) sixteen.length = false) ∧
    (((command 5 2).step 2 2).kind = .barrier ∧ (two 5 0 0 [] []).pgAll < 2 ∧ 2 ≤ (two 5 0 2 [] []).pgAll ∧ (two 5 0 0 [] []).pos ((command 5 2).step 2 2).root = 0 ∧
      (two 5 1 0 [] []).pos ((command 5 2).step 2 2).root ≠ 0) ∧
    (((command 7 2).step 2 2).kind = .reduce ∧ (two 7 0 0 [] []).pos ((command 7 2).step 2 2).root = 0 ∧ (two 7 0 0 [] []).size = 2 ∧ (command 7 2).ty = 3 ∧ (command 7 2).rop = 0) ∧
    (let x : CollCmd := command 7 1; let c : Comm := comm [(0, 0), (0, 1)] x (some ⟨1, [some sixteen, some sixteen], []⟩); let st := x.step c.size 1;
      c.pos st.root = 0 ∧ st.len / 4 * 4 = 16 ∧ (collective c).spanAt (engineAgent here) (x.dst + st.dst) (keyIn here 2 0x200) (st.len / 4 * 4) ∧
      (collective c).homeBarred here (x.dst + st.dst) (st.len / 4 * 4) = false) := by
  refine ⟨fun _ _ _ _ _ => ⟨stage_inv _ _ _ _, rfl, rfl, by simp, rfl, rfl, rfl, rfl, fun h => by subst h; rfl, fun h => by subst h; rfl⟩, by decide,
    away_at _ _ rfl (by decide) (.inr rfl), away_at _ _ rfl (by decide) (.inl rfl), memberAway_inv _,
    by decide, ⟨by decide, by decide, span_core _ _ _ _ _ (by decide), by decide⟩, by decide, by decide,
    ⟨by decide, by decide, span_core _ _ _ _ _ (by decide), by decide⟩⟩

/-- A communicator that a polder does not know, one that it knows, and notices of its members with the signature of its command and with another. -/
theorem witness_CollectivesRun_notices :
    (stageC user).commAt here 1 = none ∧ ((stageC user).polder here).saves = [] ∧
    (let c := comm [(0, 0), (0, 1)] (command 5 1) none;
      (collective c).commAt here 1 = some c ∧ c.cid = 1 ∧ c.noticeWrong ⟨1, 1, 0, 1, 1, (command 5 1).sig, 1⟩ = false ∧ c.noticeWrong ⟨1, 1, 0, 1, 1, (command 4 1).sig, 1⟩ = true) := by
  exact ⟨rfl, rfl, rfl, rfl, by decide, by decide⟩

/-- An unwind on the first polder, with the steps received so far; and a machine that keeps it and a communicator. -/
def unwinding (answers : List (Nat × Nat)) (dones : List Nat) (closed : Bool) (agreed : Option Nat) : Abort :=
  ⟨1, 0, 2, here, [(0, 0), (0, 1)], 0, 0x100040, 0, 0, answers, dones, closed, agreed⟩
def unwound (as : List Abort) (cs : List Comm) (halted : List Nat) (c : Context) : State := stage c core0 { polder0 with aborts := as, comms := cs, halted := halted } awake
/-- An identity that has halted and one that has not; a wait for steps with and without the last; an agreed step of a member that is there, and of one that has gone; the last
`DONE`, and an earlier one. -/
theorem witness_CommunicatorsUnwind :
    1 ∈ ((unwound [] [] [1] user).polder here).halted ∧
    (let s := unwound [] [comm [(0, 0), (0, 1)] (command 5 1) none] [] user;
      1 ∉ (s.polder here).halted ∧ s.abortAt here 1 = none ∧ s.commAt here 1 = some (comm [(0, 0), (0, 1)] (command 5 1) none)) ∧
    (∀ xs : List (Nat × Nat), (unwound [unwinding xs [] false none] [] [] user).abortAt here 1 = some (unwinding xs [] false none) ∧ (unwinding xs [] false none).cid = 1 ∧
      (unwinding xs [] false none).initiator = here.toPolder ∧ (unwinding xs [] false none).closed = false ∧ (unwinding xs [] false none).agreed = none) ∧
    (unwinding [(0, 5)] [] false none).answers ≠ [] ∧ 2 ≤ (([(0, 5)] : List (Nat × Nat)).filter (fun q : Nat × Nat => q.1 != 1) ++ [(1, 4)]).length ∧
    ((unwinding [] [] false none).answers.filter (fun q : Nat × Nat => q.1 != 1) ++ [(1, 4)]).length < 2 ∧
    (∀ c, let s := unwound [unwinding [] [] false none] [comm [(0, 0), (0, 1)] (command 5 1) none] [] c;
      s.Inv ∧ 1 ∉ (s.polder here).halted ∧ s.abortAt here 1 = some (unwinding [] [] false none) ∧ s.tidLoc 0 0 = here ∧ s.ctx here = c) ∧
    (stageC user).recordAt here 0x100040 (keyIn here 2 0x40) ∧ user.state ≠ 0#3 ∧ user.faultQ.length < 8 ∧ ({ user with state := 0#3 } : Context).state = 0#3 ∧
    (∀ ds c, (unwound [unwinding [] ds c none] [] [] user).abortAt here 1 = some (unwinding [] ds c none) ∧ (unwinding [] ds c none).closed = c) ∧
    (unwinding [] [] true none).members.length ≤ ([1] ++ [0]).length ∧ ([] ++ [0]).length < (unwinding [] [] true none).members.length := by
  refine ⟨by decide, ⟨by decide, rfl, rfl⟩, fun _ => ⟨rfl, rfl, rfl, rfl, rfl⟩, by decide, by decide, by decide, fun c => ⟨stage_inv _ _ _ _, List.not_mem_nil, rfl, ?_, rfl⟩,
    fun d h => ⟨⟨here, 2, 0x40 + d⟩, ?_, rfl, ?_⟩, by decide, by decide, rfl, fun _ _ => ⟨rfl, rfl⟩, by decide, by decide⟩
  · simp only [State.tidLoc, unwound, dev_here, show bits 0 23 16 = 0 from by decide]
    rfl
  · simp only [homePlace]
    rw [if_neg (by omega), if_pos (by omega)]
    simp only [show here.toPolder = here from rfl, Place.mk.injEq, true_and, Option.some.injEq]
    omega
  · simp only [State.keyOf, keyIn]
    simp
    omega

/-- A device without power, one on its way up, one whose position is written, and what its links and mailbox hold. -/
theorem witness_PowerAndLinks : DeviceState.initial.power = false ∧ awake.power = true ∧ DeviceState.initial.enumerable = false ∧
    ({ awake with posWritten := false } : DeviceState).enumerable = true ∧ awake.posWritten = true ∧ awake.mst < 2 ∧ 2 ≤ ({ awake with mst := 2 } : DeviceState).mst ∧
    (¬ (199999 : Nat) ≥ 200000 ∧ (200000 : Nat) % 50000 = 0 ∧ (1400000 : Nat) ≤ 1400000 ∧ (1400001 : Nat) > 1400000 ∧ (383 : Nat) < 384 ∧ (1023 : Nat) < 1024) ∧
    (∃ s t : State, s.dryBase here ⟨1, 0, 0, 0⟩ = false ∧ t.dryBase here ⟨1, 0, 0, 0⟩ = true ∧ (⟨1, 0, 0, 0⟩ : Loc).dev ≠ here.dev) ∧
    ((stageC user).device here).readmitted = [] := by
  refine ⟨rfl, rfl, rfl, rfl, rfl, by decide, by decide, by decide, ⟨{ stageC user with devices := [(here, { awake with routes := [⟨1, 1, 0, 0xFFFF⟩], links := [⟨4, true, false⟩] }),
      (⟨1, 0, 0, 0⟩, { awake with podpos := 1 })] }, { stageC user with devices := [(here, { awake with routes := [⟨1, 1, 0, 0xFFFF⟩], links := [⟨4, true, true⟩] }),
      (⟨1, 0, 0, 0⟩, { awake with podpos := 1 })] }, by decide, by decide, by decide⟩, rfl⟩

/-- One packet on its way to the first polder, from another polder of its device. -/
theorem inbound_one (s : State) (w : Pending) (a : Loc) (h : s.agenda = [w]) (f : s.packetFrom w.work = some a) (g : (a.toPolder != here.toPolder) = true)
    (k : ((workHome w.work).any fun b => b.toPolder == here.toPolder) = true) : s.inbound here = [w] := by
  unfold State.inbound
  rw [h]
  simp [f, g, k]
def strange : Message := letter 0 0 (0x80 * 2 ^ 24) none
def afar : Nat := 2 ^ 63 + 2 ^ 46 + 2 ^ 44
/-- A message of another polder in flight, the reply to a load of it, and nothing. -/
theorem witness_PowerAndLinks_packets :
    (stageC user).inbound here = [] ∧
    (let w : Pending := ⟨5, .event (.messageArrival here strange)⟩; { stageC user with agenda := [w] }.inbound here = [w]) ∧
    (let w : Pending := ⟨5, .event (.loadReply here 1 0 none ⟨0, afar, []⟩)⟩; { stageC super with agenda := [w] }.inbound here = [w]) := by
  refine ⟨rfl, inbound_one _ _ ⟨0, polderIndex 0 0 1, 0, 0⟩ rfl ?_ (by decide) (by decide), inbound_one _ _ ⟨0, polderIndex 0 0 1, 0, 0⟩ rfl ?_ (by decide) (by decide)⟩
  · show some _ = some _
    rw [State.senderOf, show bits strange.w1 47 24 = 0x80 from by decide, State.tidLoc, show bits 0x80 23 16 = 0 from by decide, dev_at rfl]
    decide
  · simp only [State.packetFrom, State.ctxOwner, State.ownerOf, State.resolve]
    rw [if_neg (by decide), if_pos (by decide), if_pos (by decide)]
    simp only [State.meshPlace, show bits afar 62 55 = 0 from by decide, show here.dev = 0 from rfl]
    rw [dev_at rfl]
    decide

/-- A packet with its tag and vector, its work, and a device with the work and an interface that has a packet. -/
def hostPacket (opc a b n : Nat) : List W64 := [w64 opc, 0#64, w64 a, w64 b, w64 n, 0#64, 0#64, 0#64, 1#64, 0#64, 0#64]
def hostWork : HostWork := ⟨⟨2, 1, 0⟩, 0, 0, 0, [w64 (2 ^ 63), 0#64, 0#64, 0#64], 0, 0, 0⟩
def hosted : DeviceState := { knocking with works := [hostWork], remap := [(3, 0x1000#64, 0x600000005#64)] }
/-- A page of the first virtual addresses that is mapped to the first core's memory. -/
def mappedTlb : TlbEntry := ⟨0, 0, false, 2 ^ 40, 2 ^ 21, 2 ^ 63 + 2 ^ 44, 0, false⟩
def mapped (m : Memory) : State := withMem (stage user core0 { polder0 with tlb := [mappedTlb] } hosted) m
theorem mapped_dev (m : Memory) : (mapped m).devAt 0 0 = 0 := dev_at rfl
theorem mapped_tlb (m : Memory) (a : Nat) (v : a / mappedTlb.size * mappedTlb.size = mappedTlb.vpage) : (mapped m).tlbFind here 0 0 a = some mappedTlb := by
  have g : ((mapped m).polder here).tlb = [mappedTlb] := rfl
  unfold State.tlbFind
  rw [g, List.find?_cons_of_pos]
  rw [v, beq_self_eq_true]
  rfl
theorem mapped_place (m : Memory) (b : Nat) (p : Place) (c1 : bits b 62 55 = 0)
    (c2 : (⟨Loc.polderOf 0 (polderIndex (bits b 54 53) (bits b 52 49) (bits b 48 46)), bits b 45 43, bits b 42 0⟩ : Place) = p) : (mapped m).meshPlace 0 b = p := by
  rw [State.meshPlace, c1, mapped_dev]
  exact c2
theorem mapped_fits (m : Memory) (b o : Nat) (p : (mapped m).meshPlace 0 b = ⟨here, 2, o⟩) (q : meshOk b = true) : (mapped m).meshFits here b = true := by
  unfold State.meshFits
  rw [show here.dev = 0 from rfl, p, q]
  rfl
theorem mapped_at (m : Memory) (a b o : Nat) (h : ¬ a < 2 ^ 40) (b1 : bit a 63 = false) (b2 : bits a 62 57 = 0) (b3 : mappedTlb.mesh + a % mappedTlb.size = b)
    (v : a / mappedTlb.size * mappedTlb.size = mappedTlb.vpage) (p : (mapped m).meshPlace 0 b = ⟨here, 2, o⟩) (q : meshOk b = true) :
    (mapped m).resolve here 0 0 false a false = .ok ⟨here, 2, o⟩ := by
  unfold State.resolve
  rw [if_neg h, if_neg (by simp [b1]), if_neg (by simp [b2]), mapped_tlb m a v]
  simp only [b3, p, mapped_fits m b o p q, Bool.false_and, if_false, if_true, Bool.false_eq_true]
  rfl
theorem mapped_first (m : Memory) : (mapped m).resolve here 0 0 false (2 ^ 40) false = .ok ⟨here, 2, 0⟩ :=
  mapped_at m (2 ^ 40) (2 ^ 63 + 2 ^ 44) 0 (by decide) (by decide) (by decide) (by decide) (by decide) (mapped_place _ _ _ (by decide) (by decide)) (by decide)
theorem mapped_next (m : Memory) : (mapped m).resolve here 0 0 false (2 ^ 40 + 64) false = .ok ⟨here, 2, 64⟩ :=
  mapped_at m (2 ^ 40 + 64) (2 ^ 63 + 2 ^ 44 + 64) 64 (by decide) (by decide) (by decide) (by decide) (by decide) (mapped_place _ _ _ (by decide) (by decide)) (by decide)
theorem read_mapped (m : Memory) (a o : Nat) (h : (mapped m).resolve here 0 0 false a false = .ok ⟨here, 2, o⟩) (h0 : a % 64 = 0)
    (h1 : (mapped m).keyOf ⟨here, 2, o⟩ = some (keyIn here 2 o)) :
    (mapped m).readNow ⟨here, 0, 0, a, 64, false, .line 0 0, false⟩ = .ok (((mapped m).placeBytes ⟨here, 2, o⟩ 64).getD []) := by
  unfold State.readNow
  rw [if_neg (by simp [h0])]
  simp only [h, h1]
  rfl
/-- Doorbells of the last interface and of none; a packet that is begun and one that is malformed; the work of each packet, a launch of two groups in mapped memory, an address to
wait on that is virtual, misaligned or neither; a copy with a piece left and with none; a completion; a masked entry with a message held. -/
theorem witness_HostPackets :
    hosted.enumerable = true ∧ DeviceState.initial.enumerable = false ∧ hosted.open = true ∧
    (accessOk 0xFFF000 8 (2 ^ 24) = true ∧ accessOk 0x1000 4 (2 ^ 24) = true ∧ accessOk 0x1004 4 (2 ^ 24) = true ∧ accessOk 0x1004 8 (2 ^ 24) = false ∧ accessOk 0x1008 8 (2 ^ 24) = true) ∧
    (hosted.queue 2).q = 2 ∧ hostQueueReady (hosted.queue 2) = true ∧
    (stage user core0 polder0 hosted).packetCode here (hosted.queue 2).cfg (List.replicate 8 0#64) = 0 ∧
    (stage user core0 polder0 hosted).packetCode here (hosted.queue 2).cfg (9#64 :: List.replicate 7 0#64) ≠ 0 ∧
    hosted.works.find? (fun y => y.tag == packetTag 2 (hostPacket 0 0 0 0)) = some hostWork ∧ cfgPolder here hostWork.cfg = here ∧
    isVirtual (2 ^ 40) = true ∧ isVirtual (2 ^ 40 - 1) = false ∧ isVirtual (2 ^ 57) = false ∧ (2 ^ 40) % 8 = 0 ∧ (2 ^ 40 + 4) % 8 ≠ 0 ∧
    (∀ m, (mapped m).resolve here 0 0 false (2 ^ 40) false = .ok ⟨here, 2, 0⟩ ∧ (mapped m).isDry here here = false ∧
      (mapped m).routed here here 0 = true ∧ (mapped m).tlbFind here 0 0 (2 ^ 40) = some mappedTlb ∧ mappedTlb.torn = false ∧
      (∀ w, (mapped m).reaches ⟨here, 0, 0, 2 ^ 40, 8, false, .watch w, false⟩ ⟨here, 2, 0⟩)) ∧
    (let m : Memory := [(keyIn here 2 9, 1#8), (keyIn here 2 10, 0x11#8), (keyIn here 2 11, 1#8), (keyIn here 2 16, 2#8)];
      ∃ b0 b1, (mapped m).readNow ⟨here, 0, 0, 2 ^ 40, 64, false, .line 0 0, false⟩ = .ok b0 ∧ (mapped m).readNow ⟨here, 0, 0, 2 ^ 40 + 64, 64, false, .line 0 0, false⟩ = .ok b1 ∧
        (mapped m).launchCause here (b0 ++ b1) = 0 ∧ ((mapped m).launchRec here (b0 ++ b1)).ind = false ∧ 0 < ((mapped m).launchRec here (b0 ++ b1)).groups) ∧
    (stage user core0 polder0 hosted).hostMem.wf = true ∧ hosted.works.find? (fun y => y.tag == hostWork.tag) = some hostWork ∧ (hosted.queue 2).err = false ∧
    hosted.remap.find? (fun e => e.1 == 3) = some (3, 0x1000#64, 0x600000005#64) := by
  exact ⟨by decide, by decide, by decide, by decide, by decide, by decide, by decide, by decide, by decide, by decide, by decide, by decide, by decide, by decide, by decide,
    fun m => ⟨mapped_first m, rfl, rfl, mapped_tlb m _ (by decide), rfl, fun _ => ⟨rfl, rfl, .inr (.inr ⟨show 2 ^ 40 ≤ 2 ^ 40 by decide, show bit (2 ^ 40) 63 = false by decide, show bits (2 ^ 40) 62 57 = 0 by decide, mappedTlb,
      mapped_tlb m (2 ^ 40) (by decide), rfl, fun _ => rfl, mapped_fits m (2 ^ 63 + 2 ^ 44 + 2 ^ 40 % 2 ^ 21) 0 (mapped_place _ _ _ (by decide) (by decide)) (by decide),
      (mapped_place m (2 ^ 63 + 2 ^ 44 + 2 ^ 40 % 2 ^ 21) ⟨here, 2, 0⟩ (by decide) (by decide)).symm, fun h => nomatch (show false = true from h)⟩)⟩⟩, ⟨_, _, read_mapped _ _ _ (mapped_first _) (by decide) rfl, read_mapped _ _ _ (mapped_next _) (by decide) rfl, by decide, by decide,
      by decide⟩, by decide, by decide, by decide, by decide⟩

/-- Contexts in each state that a command admits or does not, in a polder with a partition and without; a RUNNING block that has sent no atomic and one that has; a polder without a
RUNNING context. -/
theorem witness_ContextCommands :
    (∀ c, let s := stageC c; (s.device here).open = true ∧ (s.polder here).cmdBusy = false ∧ (s.polder here).part = some 0 ∧ s.ctx here = c) ∧
    (stage user core0 PolderState.initial awake).polder here = PolderState.initial ∧ PolderState.initial.part = none ∧ DeviceState.initial.open = false ∧
    ({ polder0 with cmdBusy := true } : PolderState).cmdBusy = true ∧ user.lead = none ∧
    (∀ n, (({ user with state := n } : Context).state = n)) ∧
    ((flight []).namo = 0 ∧ (flight []).awaitsAtomic = false ∧ (flight []).fault = none ∧ (flight []).acts = [] ∧ user.window = [] ∧ ({ flight [] with namo := 1 } : Block).namo ≠ 0) ∧
    (∀ m ∈ (stageC { user with state := 1#3 }).polderCtxs here, ((stageC { user with state := 1#3 }).ctx m).lead = none ∧ ((stageC { user with state := 1#3 }).ctx m).state ≠ 2#3) ∧
    bit 0x80 7 = true ∧ bit 0x7F 7 = false ∧ (stageC user).dryBase here.toDev here = false := by
  refine ⟨fun _ => ⟨rfl, rfl, rfl, rfl⟩, rfl, rfl, rfl, rfl, rfl, fun _ => rfl, ⟨rfl, rfl, rfl, rfl, rfl, by decide⟩, fun m _ => ?_, by decide, by decide, by decide⟩
  unfold State.ctx stageC stage lookupD
  split
  · exact ⟨rfl, by decide⟩
  · exact ⟨rfl, show (0#3 : BitVec 3) ≠ 2#3 by decide⟩

/-- A polder whose tables of PASIDs begin at a place of its HBM. -/
def tabled : PolderState := { used with areas := [(0, [0#64, 0#64, 0#64, 0#64, w64 (2 ^ 63)])] }
/-- A device that does not answer, one that revokes and invalidates, and one that does neither; a table with no entry and with one; a swap that begins, that has drained and that ends;
writes of a register of each kind. -/
theorem witness_TenancyChanges :
    (stageC user).Inv ∧ awake.open = true ∧ awake.revokeBusy = false ∧ awake.invalBusy = false ∧ ({ awake with revokeBusy := true } : DeviceState).revokeBusy = true ∧
    (stageC user).pasidEntries here 0 0 = [] ∧
    (let s := stage user core0 tabled awake;
      s.pasidEntries here 0 0 = [2 ^ 63] ∧ s.keyOf (s.meshPlace 0 (2 ^ 63 + 7)) = some (keyIn here 0 7) ∧ s.isFresh (s.meshPlace 0 (2 ^ 63 + 7)) = false) ∧
    (stageC user).pasidHeld here 0 0 = true ∧ (stageC user).pasidHeld here 0 1 = false ∧
    (polder0.swapping = none ∧ ({ polder0 with swapping := some (some 1) } : PolderState).swapping = some (some 1)) ∧
    (∀ l ∈ (stageC { user with state := 3#3 }).polderCtxs here, ((stageC { user with state := 3#3 }).ctx l).state ≠ 1#3 ∧ ((stageC { user with state := 3#3 }).ctx l).state ≠ 2#3) ∧
    (∀ t, let s := stage { user with state := 4#3, bySwap := true } core0 { polder0 with swapping := some t } awake;
      (s.polder here).swapEnd = false ∧ s.drained here = true ∧ (s.polder here).part = some 0 ∧ (s.polder here).saves.all (fun v => v.part != 1) = true) ∧
    (stage user core0 { polder0 with swapping := some (some 1) } awake).drained here = false ∧
    ({ polder0 with swapEnd := true } : PolderState).swapEnd = true ∧ (some (some 1) : Option (Option Nat)) ≠ some (some 0) ∧
    (3200 % 2 ^ 16 ≤ 3200 ∧ ¬ 3201 % 2 ^ 16 ≤ 3200) ∧ (383 < 384 ∧ 0x300 ≤ 0x3F8 ∧ 0x3F8 < 0x400 ∧ 0x3F8 % 8 = 0) ∧
    (({ awake with posWritten := false } : DeviceState).posWritten = false ∧ ¬ (0x1890000 ≤ 0x188FFF8 ∧ 0x188FFF8 < 0x1890020)) := by
  have mp : (stage user core0 tabled awake).meshPlace 0 (2 ^ 63 + 7) = ⟨here, 0, 7⟩ := by
    rw [State.meshPlace, show bits (2 ^ 63 + 7) 62 55 = 0 from by decide, dev_here]
    decide
  refine ⟨stage_inv _ _ _ _, by decide, rfl, rfl, rfl, by decide, ⟨by decide, by rw [mp]; decide, by rw [mp]; decide⟩, by decide, by decide, ⟨rfl, rfl⟩, fun l _ => ?_,
    fun _ => ⟨rfl, by rfl, rfl, rfl⟩, by decide, rfl, by decide, by decide, by decide, by decide⟩
  unfold State.ctx stageC stage lookupD
  split
  · exact ⟨by decide, by decide⟩
  · exact ⟨show (0#3 : BitVec 3) ≠ 1#3 by decide, show (0#3 : BitVec 3) ≠ 2#3 by decide⟩

/-! ## Witnesses: the whole machine -/

/-- Well-formed instructions with a word: one of a block and one of the slice core. -/
theorem witness_EncodingsAgree : (Instr.add .always (.into .r 7#7) (.into .l 5#7)).wf = true ∧ encode (.add .always (.into .r 7#7) (.into .l 5#7)) = some 0x20020E85 ∧
    (Instr.samoDecz 0#5 4#5 6#5).wf = true ∧ encode (.samoDecz 0#5 4#5 6#5) = some 0x1A02530B ∧ decodeWord 0x20020E85 = .ok (.add .always (.into .r 7#7) (.into .l 5#7)) ∧
    0x1A02530B % 128 = 0x0B ∧ decodeSliceExt 0x1A02530B = some (.samoDecz 0#5 4#5 6#5) :=
  ⟨by decide, by decide, by decide, by decide, rfl, by decide, by decide⟩
/-- A due slot, a slot of an execution that is over, a handler's turn at a whole instruction, at an odd `pc` and behind its region, a turn of a handler that is gone, and an event. -/
theorem witness_StepRunsDecoded :
    (let s : State := { scene user (blk 0x20000083 7 5 0) with agenda := [⟨3, .fire here 1 0⟩] };
      s.agenda = [⟨3, .fire here 1 0⟩] ∧ (s.ctx here).block = some (blk 0x20000083 7 5 0) ∧ (blk 0x20000083 7 5 0).epoch = 1 ∧
      decodeWord (numAt (blk 0x20000083 7 5 0).bytes (32 + 4 * 0) 4) = .ok (.add .always .none (.into .l 3#7))) ∧
    (∀ b, (stageC user).ctx here = user ∧ user.block = some b → b.epoch ≠ 1) ∧
    (∀ h ∈ [hnd 7 0 1 false, { hnd 7 0 1 false with pc := 0x601 }, { hnd 7 0 1 false with pc := 0x2400 }],
      ((sliceScene h).polder here).handler = some h ∧ h.gen = 1 ∧ (sliceScene h).sliceCode here h true = (sliceScene h).sliceCode here h false) ∧
    ((hnd 7 0 1 false).pc % 2 = 0 ∧ (hnd 7 0 1 false).inRegion (hnd 7 0 1 false).pc 2 = true ∧ (sliceScene (hnd 7 0 1 false)).codeError here (hnd 7 0 1 false) 2 = false) ∧
    0x601 % 2 ≠ 0 ∧ ({ hnd 7 0 1 false with pc := 0x2400 } : Handler).inRegion 0x2400 2 = false ∧ (hnd 7 0 1 false).gen ≠ 2 ∧
    (Event.powerOnBringup here).instr = some .powerOnBringup :=
  ⟨⟨rfl, rfl, rfl, rfl⟩, fun _ h => by simp [user, Context.initial] at h, by decide, by decide, by decide, by decide, by decide, rfl⟩
/-- The machine after reset keeps the invariant, and its step is a next state. -/
theorem witness_StepKeepsInv : State.reset.Inv ∧ ∃ t, step State.reset = .next t :=
  ⟨⟨rfl, rfl, rfl, ⟨Nat.le_refl _, trivial⟩, ⟨.nil, fun _ h => (List.not_mem_nil h).elim⟩, ⟨.nil, fun _ h => (List.not_mem_nil h).elim⟩,
    ⟨.nil, fun _ h => (List.not_mem_nil h).elim⟩, ⟨by simp [State.reset], fun _ h => by cases (List.mem_singleton.1 h); rfl⟩⟩, _, rfl⟩

/-! ## Witnesses: further clauses of the statements above -/

/-- A block that runs ahead in the first context, behind one in flight. -/
def running8 (b : Block) (w : Memory) : State :=
  { withMem State.reset w with
    ctxs := [(here, { user with block := some (blk 0 0 0 0) }), ({ here with ctx := 8 }, { user with block := some b })]
    focus := ⟨{ here with ctx := 8 }, 1, 0⟩
    epoch := 2 }
/-- A `READ` in a predicted block, whose workspace word is there. -/
theorem witness_ReadResults_ahead : (running8 (blk 0 0 0 0) []).firingBlock (blk 0 0 0 0) ∧ isAhead (running8 (blk 0 0 0 0) []).focus.l = true ∧
    isAhead here = false ∧ (blk 0 0 0 0).gives (running8 (blk 0 0 0 0) []) [] [] := ⟨⟨rfl, rfl⟩, by decide, by decide, rfl⟩
/-- A record with an uncorrectable error, and one without; a counter in a settled granule. -/
theorem witness_SliceServices_more : let s := sliceScene (hnd 0x800 0x800 1 false)
    { s with ecc := [keyIn here 5 0x800] }.ssendStatus here (hnd 0x800 0x800 1 false) 0 0x800 = 0x11 ∧
    { s with ecc := [keyIn here 5 0x800] }.spullStatus here (hnd 0x800 0x800 1 false) 0x800 1 = 0x11 ∧
    (stage user core0 used awake).freshCounter here ⟨0, 0, keyIn here 0 0, 0x100000000, 0, true, false, 0⟩ = none := by decide
/-- A context with no predicted block, and a block without an error whose core has a load miss to spare. -/
theorem witness_BlockFetches_more : isAhead here = false ∧ (stageC user).ahead here = [] ∧ (flight []).bad = none := by decide
theorem witness_BlockEvents_more : let s := stageB { wordBlock 1 0x5E128486 with out := [0], missed := [0] }
    s.missesOf here < 48 ∧ s.ahead here = [] ∧ 0 ∈ ({ wordBlock 1 0x5E128486 with out := [0], missed := [0] } : Block).out := by decide
/-- A fenced owner, which is dry and not gone, with a lock of another owner and without; a device without power, which is gone. -/
theorem witness_RequestsServed_dry :
    (∀ ks ∈ [([] : List RangeLock), [⟨1, true, 0, 0, 0, false, { here with core := 1 }, keyIn here 2 0x1FFF8, 0, 64, 0⟩]],
      let s := stage user core0 { polder0 with fence := true, locks := ks } awake;
      s.routed here here 0 = true ∧ s.isGone here here = false ∧ s.isDry here here = true ∧ s.dikeAdmits here 0 ⟨here, 2, 0x1FFF8⟩ 8 false = true ∧
      s.keyOf ⟨here, 2, 0x1FFF8⟩ = some (keyIn here 2 0x1FFF8)) ∧
    (stage user core0 { polder0 with fence := true } awake).lockStops (asking here) ⟨here, 2, 0x1FFF8⟩ (keyIn here 2 0x1FFF8) = none ∧
    (stage user core0 { polder0 with fence := true, locks := [⟨1, true, 0, 0, 0, false, { here with core := 1 }, keyIn here 2 0x1FFF8, 0, 64, 0⟩] } awake).lockStops
      (asking here) ⟨here, 2, 0x1FFF8⟩ (keyIn here 2 0x1FFF8) = some false ∧
    (scene user (blk 0 0 0 0)).isGone here here = true := by decide
/-- Atomics that no zeroing and no lock of their own holds back. -/
theorem witness_AtomicsPerformed_more : let s := stage user core0 used awake
    s.amoBlocked (bump (.slot here 1 0) 0x1FFF8) ⟨here, 2, 0x1FFF8⟩ = false ∧ s.amoBlocked (bump (.slot here 1 0) 0x100000000) ⟨here, 0, 0⟩ = false ∧
    (s.polder here).amoHeld = [] ∧ s.unsettled ⟨here, 0, 0⟩ = false := by decide
/-- A unit no turn of which has begun; a line that is absent, and one that is there. -/
theorem witness_AtomicsPerformed_lines :
    (stage user core0 used awake).amoBegun here = [] ∧ (stage user core0 used awake).l2Hit ⟨here, 0, 0⟩ (keyIn here 0 0) = false ∧
    (stage user core0 { used with l2 := [⟨keyIn here 0 0 / 64, 1, 0, false, none, []⟩] } awake).l2Hit ⟨here, 0, 0⟩ (keyIn here 0 0) = true := by decide
/-- An absent line is there 284 cycles after the turn; a pin goes before the commits of its cycle, any other atomic behind every other write (R322, R330, R376). -/
theorem test_amo_turn : let s := stage user core0 used awake; let a := bump (.slot here 1 0) 0x100000000
    s.amoDue a ⟨here, 0, 0⟩ = s.now + 284 ∧ s.amoRank a ⟨here, 0, 0⟩ = 67 := by decide
/-- A sender to whom the polder is dry, and one to whom it is not; a way back; no spilled message that waits; a settled word. -/
theorem witness_MessagesArrive_more :
    (stage user core0 polder0 awake).isDry ((stage user core0 polder0 awake).senderOf 0 (letter 0 0 0 none)) here = false ∧
    (stage user core0 { polder0 with fence := true } awake).isDry ((stage user core0 { polder0 with fence := true } awake).senderOf 0 (letter 0 0 0 none)) here = true ∧
    (stage user core0 polder0 awake).severed here here = false ∧ ((stageC user).core here).unmailed = [] ∧ (stageC user).unsettled ⟨here, 2, 0x48⟩ = false := by
  have e (p : PolderState) : (stage user core0 p awake).senderOf 0 (letter 0 0 0 none) = here := by
    rw [State.senderOf, show bits (letter 0 0 0 none).w1 47 24 = 0 from by decide, State.tidLoc, show bits 0 23 16 = 0 from by decide, dev_here]
    rfl
  exact ⟨by rw [e]; decide, by rw [e]; decide, by decide, by decide, by decide⟩
/-- A job that is judged after four cycles, with records that are legal or not; one that registers after six; the first entry of a ring whose unit may take it. -/
theorem witness_EntriesAccepted_more :
    (∀ op ∈ [product, .mma .ii false (rowShape 0 0) (rowShape 4 0) 0 0x20], let j := MatrixJob.fresh here (ringed7 op) 2;
      let s := { working op j with now := 6 }; (s.polder here).jobs = [j] ∧ j.reg = false ∧ j.refused = false ∧ j.checked = false ∧ j.since + 4 ≤ s.now ∧ s.tableXfer j = none) ∧
    (job product false).since + 6 ≤ ({ working product (job product false) with now := 6 } : State).now ∧ (job product false).refused = false ∧ (job product false).checked = true ∧
    (job product false).table = some [] ∧
    pulling.unitHead here .copy = some (ringed7 (.pull 0x100040 0x100080 0x3F)) := by decide
/-- A line whose places are settled and whose completion word no workspace holds; a product whose first slab is due, with the array free. -/
theorem witness_EnginesWork_more :
    (∀ w ∈ [0, 0x40], (landPlaces here (landing w) 0 64).any (stageC user).unsettled = false ∧ (stageC user).wordBarred (engineAgent here) w = false) ∧
    (job product true).reg = true ∧ (job product true).passesDone = false ∧ (job product true).due ≤ (working product (job product true)).now ∧
    ((working product (job product true)).polder here).matrixFree ≤ (working product (job product true)).now := by decide
/-- Room to retire in a cycle, before and after three have gone; one job of a slot; a context without surplus faults; a thread that has ended in its own context. -/
theorem witness_EntriesRetire_more :
    0 < (stageC user).retireRoom here ∧ 0 < (stage user { core0 with retired := (0, 3) } polder0 awake).retireRoom here ∧
    ((working product { job product true with cause := 8 }).polder here).jobs.countP (fun y => y.slot == (job product true).slot) = 1 ∧ ((stageC user).ctx here).surplus = 0 ∧
    (let c : Context := { user with state := 0#3 }; (finished 0 8).orphaned (stageC c) = true ∧ c.thread = (finished 0 8).thread ∧ c.state = 0#3 ∧ c.faultQ.length < 8) := by decide
/-- Chunks whose places are settled. -/
theorem witness_CollectivesRun_more : ∀ op ∈ [4, 5, 7], let c := comm [(0, 0), (0, 1)] (command op 1) (some ⟨1, [], []⟩)
    (chunkPlaces here c 1 (command op 1) ((command op 1).step c.size 1)).any (collective c).unsettled = false := by decide
/-- A communicator that system software has built, and which no command has named. -/
theorem witness_CommunicatorsUnwind_built :
    let s := withMem (stage user core0 { polder0 with built := [0x40] } awake) (commRecord.filter fun c => c.2 != 0#8);
    (s.polder here).built = [0x40] ∧ (s.readComm here.toPolder 0x40).map (fun c => (c.cid, c.stopped)) = some (1, false) := by
  decide
/-- A polder whose communicator is known, with its partition there; the thread of its member; a member that is there, and one that is dry. -/
theorem witness_CommunicatorsUnwind_more :
    (let s := unwound [] [comm [(0, 0), (0, 1)] (command 5 1) none] [] user;
      (Act.enterBuilt here).run s = s ∧ (s.polder here).part = some (comm [(0, 0), (0, 1)] (command 5 1) none).part ∧
      (s.tidLoc here.dev (comm [(0, 0), (0, 1)] (command 5 1) none).mtid).toPolder = here.toPolder) ∧
    (unwound [unwinding [] [] false none] [] [] user).memberDry here (unwinding [] [] false none) 0 = false ∧
    (stage user core0 { polder0 with aborts := [unwinding [] [] false none], fence := true } awake).memberDry here (unwinding [] [] false none) 0 = true := by
  have d (p : PolderState) : (stage user core0 p awake).tidLoc here.dev 0 = here := by
    rw [State.tidLoc, show bits 0 23 16 = 0 from by decide, dev_here]
    rfl
  have m (p : PolderState) : (stage user core0 p awake).memberAt here ((unwinding [] [] false none).members.getD 0 (0, 0)) = here := by
    rw [show (unwinding [] [] false none).members.getD 0 (0, 0) = (0, 0) from rfl, State.memberAt, dev_here]
    rfl
  exact ⟨⟨rfl, rfl, congrArg Loc.toPolder (d _)⟩, by rw [State.memberDry, unwound, m]; decide, by rw [State.memberDry, m]; decide⟩
/-- A SUSPENDED context at a swap, and the end of a swap that halted none of those. -/
theorem witness_TenancyChanges_more :
    (∀ l ∈ (stageC { user with state := 3#3 }).polderCtxs here, ((stageC { user with state := 3#3 }).ctx l).lead = none) ∧
    ∀ l ∈ (stageC { user with state := 4#3, bySwap := true }).polderCtxs here, ((stageC { user with state := 4#3, bySwap := true }).ctx l).wasSusp = false := by
  constructor <;> intro l _ <;> unfold State.ctx stageC stage lookupD <;> split <;> rfl

/-! ## Witnesses: what a block holds for its commit -/

/-- A block that leaves by a jump and holds one act, in a context, core, polder and memory as given. -/
def acting (op : CommitOp) : Block := { leaving (.goto 0) [] [] with acts := [(0, op)] }
def acted (c : Context) (k : CoreState) (p : PolderState) (d : DeviceState) (m : Memory) (op : CommitOp) : State :=
  withMem (stage { c with block := some (acting op) } k p d) m
/-- A state whose first context is there runs on undisturbed where no context of its core is READY. -/
theorem steady_in (s : State) (h : (s.ctx here).state = 2#3 ∧ (s.ctx here).stopReq = false ∧ (s.ctx here).window = [] ∧ (s.ctx here).trapWait = none)
    (r : ∀ n, (s.ctx { here with ctx := n }).state ≠ 1#3) : s.steady here :=
  ⟨rfl, h.1, h.2.1, h.2.2.1, h.2.2.2, fun n e => absurd e (r n)⟩
theorem acting_here (c : Context) (k : CoreState) (p : PolderState) (d : DeviceState) (m : Memory) (op : CommitOp)
    (h : (c.state = 2#3 ∧ c.stopReq = false ∧ c.window = [] ∧ c.trapWait = none) ∧ c.late = [] ∧ c.surplus = 0 ∧ c.faultQ = [])
    (g : (acting op).committable = true ∧ (acted c k p d m op).commitWaits here (acting op) = false ∧ (acted c k p d m op).commitFault here (acting op) = none) :
    (acted c k p d m op).commitsWith here 1 (acting op) op :=
  ⟨⟨⟨rfl, rfl⟩, rfl, g.1, g.2.1, g.2.2⟩, steady_in _ h.1 (fun n => by
      unfold acted withMem stage State.ctx lookupD
      split
      · rw [h.1.1]; decide
      · exact (by decide : (0#3 : BitVec 3) ≠ 1#3)), h.2, ⟨0, rfl⟩, fun _ w => (List.not_mem_nil w).elim, rfl, rfl, 0, rfl⟩
/-- A watch that is armed at commit, and its handle. -/
def armable : WatchReg := ⟨here, 1, 0, .task, 3, 0, 0, 0, 0x40, []⟩
def handleTo (gen : Nat) : Handle := ⟨here, gen, 1⟩
/-- The acts that need nothing of the machine. -/
def plainActs : List CommitOp := [.port 0 5#64, .cww 0x31 (some 5#64), .cww 3 (some 2#64), .watch armable (handleTo 0) (some 9), .watch armable (handleTo 4) none,
  .cancel (handleTo 4), .unlisten (handleTo 4), .ring (.macc .zero 0 0), .push 0 0x40, .push 2 0x40, .push 3 0x40, .fork 0x40 0, .fork 0x40 2, .fork 0x40 3,
  .join 0x80 0x40 (handleTo 4), .futr 0x80 0x40, .futw 0x80 7#64, .send 0 0x40 none, .launch (small none 0) none, .launch { small none 0 with ind := true } (some (handleTo 4)),
  .compose [{ here with core := 1 }]]
theorem plain_acts (op : CommitOp) (h : op ∈ plainActs) : (acted user core0 polder0 awake [] op).commitsWith here 1 (acting op) op := by
  refine acting_here _ _ _ _ _ _ (by decide) ?_
  revert op h
  decide
/-- No context of the first core is READY, so none has a higher priority. -/
theorem none_ready (c : Context) (k : CoreState) (p : PolderState) (d : DeviceState) (m : Memory) (op : CommitOp) (h : c.state = 2#3) (n : Nat) :
    ((acted c k p d m op).ctx { here with ctx := n }).state ≠ 1#3 := by
  unfold acted withMem stage State.ctx lookupD
  split
  · rw [h]; decide
  · exact (by decide : (0#3 : BitVec 3) ≠ 1#3)
/-- A push to a port whose FIFO has room, and one whose FIFO is full. -/
def fullPort : State :=
  { acted user core0 polder0 awake [] (.port 0 5#64) with
    cores := [(here, core0), (portDest here 0, { CoreState.initial (portDest here 0) with ports := List.replicate 4 (List.replicate 8 ⟨1, 9#64⟩) })] }
theorem witness_WriteRegisters_commits :
    (.port 0 5#64 ∈ plainActs ∧ let s := acted user core0 polder0 awake [] (.port 0 5#64);
      0 < (s.core (portDest here 0)).ports.length ∧ 0 < (s.core here).outbuf.length ∧ ((s.core (portDest here 0)).ports.getD 0 []).length < 8) ∧
    fullPort.commitsWith here 1 (acting (.port 0 5#64)) (.port 0 5#64) ∧ 0 < (fullPort.core (portDest here 0)).ports.length ∧ 0 < (fullPort.core here).outbuf.length ∧
    8 ≤ ((fullPort.core (portDest here 0)).ports.getD 0 []).length :=
  ⟨by decide, ⟨⟨⟨rfl, rfl⟩, rfl, by decide, by decide, by decide⟩, steady_in _ (by decide) (none_ready user core0 polder0 awake [] (.port 0 5#64) rfl), ⟨rfl, rfl, rfl⟩, ⟨0, rfl⟩,
    fun _ w => (List.not_mem_nil w).elim, rfl, rfl, 0, rfl⟩, by decide, by decide, by decide⟩
/-- A new workspace pointer in a handler. -/
theorem witness_PrivilegedInstructions_commits : (acted super core0 polder0 awake [] (.switch 0x100)).commitsWith here 1 (acting (.switch 0x100)) (.switch 0x100) :=
  acting_here _ _ _ _ _ _ (by decide) (by decide)
/-- Control words of a user context and of a handler, a dike window among them; a priority with no READY context beside. -/
theorem witness_ControlWordWrites_commits :
    (∀ op ∈ [CommitOp.cww 0x31 (some 5#64), .cww 3 (some 2#64)], op ∈ plainActs) ∧
    (∀ n ∈ [0x20, 0x40], (acted super core0 polder0 awake [] (.cww n (some 4#64))).commitsWith here 1 (acting (.cww n (some 4#64))) (.cww n (some 4#64))) ∧
    ∀ n, ((acted user core0 polder0 awake [] (.cww 3 (some 2#64))).ctx { here with ctx := n }).state ≠ 1#3 := by
  refine ⟨by decide, fun n h => acting_here _ _ _ _ _ _ (by decide) ?_, none_ready _ _ _ _ _ _ rfl⟩
  revert n h
  decide
/-- Watches that were met and that are to be armed, and cancels of a handle. -/
theorem witness_WatchInstructions_commits :
    (∀ op ∈ [CommitOp.watch armable (handleTo 0) (some 9), .watch armable (handleTo 4) none, .cancel (handleTo 4), .unlisten (handleTo 4)], op ∈ plainActs) ∧
    (handleTo 0).gen = 0 ∧ (handleTo 4).gen ≠ 0 := by decide
/-- Entries of each ring that a block enters. -/
theorem witness_CoprocessorHeld_commits : ∀ op ∈ [CommitOp.ring (.macc .zero 0 0), .push 0 0x40, .push 2 0x40, .push 3 0x40],
    op ∈ plainActs ∧ ((acted user core0 polder0 awake [] op).ringOpOf here op).isSome = true := by decide
/-- A second context that is SUSPENDED, and a record that resumes it. -/
def resuming : State :=
  { acted user core0 polder0 awake [(keyIn here 2 0x47, 0x40#8), (keyIn here 2 0x50, 1#8)] (.fork 0x40 0) with
    ctxs := [(here, { user with block := some (acting (.fork 0x40 0)) }), ({ here with ctx := 1 }, { Context.initial 1 with state := 3#3 })] }
theorem kind_one (s : State) (l : Loc) (ws : List Nat) (tag pasid : Nat) (h : ws.getD 0 0 = 2 ^ 62) : entryKind (s.entryOf l ws tag pasid) = 1 := by
  have e : (s.entryOf l ws tag pasid).words.getD 0 0#64 = w64 (2 ^ 62 + s.rewrite l (bits (2 ^ 62) 56 0) % 2 ^ 57) := by
    rw [List.getD_eq_getElem?_getD] at h
    simp [State.entryOf, State.rewriteRec, h]
  rw [entryKind, e]
  simp only [w64, BitVec.toNat_ofNat, bits]
  omega
theorem task_acts (op : CommitOp) (h : op ∈ [CommitOp.fork 0x40 0, .fork 0x40 2, .fork 0x40 3, .join 0x80 0x40 (handleTo 4), .futr 0x80 0x40, .futw 0x80 7#64]) : op ∈ plainActs ∧
    let s := acted user core0 polder0 awake [] op;
    (s.taskWords here 0x40).getD 0 0 = 0 ∧ s.home64 here 0x80 = 0 ∧ (s.core here).heldRecs = [] ∧ s.dequeRoom here = true ∧ s.word (keyIn here 2 0x80) < 2 ^ 62 ∧
    s.word (keyIn here 2 0x80) % 2 ^ 40 = 0 := by
  revert op h
  decide
/-- Records that enter the deque, the task ring, and nothing, and one that resumes a context; a counter at zero and one that is not; an empty future, with places for its words. -/
theorem witness_TasksForkAndJoin_commits :
    (∀ op ∈ [CommitOp.fork 0x40 0, .fork 0x40 2, .fork 0x40 3, .join 0x80 0x40 (handleTo 4), .futr 0x80 0x40, .futw 0x80 7#64], op ∈ plainActs ∧
      let s := acted user core0 polder0 awake [] op;
      entryKind (s.entryOf here (s.taskWords here 0x40) (s.ctx here).steal.toNat (s.ctx here).pasid.toNat) = 0) ∧
    (let s := acted spilling core0 used awake [] (.fork 0x40 1);
      s.commitsWith here 1 (acting (.fork 0x40 1)) (.fork 0x40 1) ∧ s.landsAt here ((s.ctx here).spillBase + 8) (keyIn here 0 8) ∧
      s.landsAt here (s.ringCell here (s.home64 here ((s.ctx here).spillBase + 8))) (keyIn here 0 0x1000) ∧ keyIn here 0 8 + 8 ≤ keyIn here 0 0x1000) ∧
    (let s := resuming;
      s.commitsWith here 1 (acting (.fork 0x40 0)) (.fork 0x40 0) ∧ entryKind (s.entryOf here (s.taskWords here 0x40) (s.ctx here).steal.toNat (s.ctx here).pasid.toNat) = 1 ∧
      (s.taskWords here 0x40).getD 2 0 % 8 = 1 ∧ (s.ctx { here with ctx := 1 }).state = 3#3) ∧
    (let s := acted user core0 polder0 awake [(keyIn here 2 0x80, 1#8)] (.join 0x80 0x40 (handleTo 4));
      s.commitsWith here 1 (acting (.join 0x80 0x40 (handleTo 4))) (.join 0x80 0x40 (handleTo 4)) ∧ s.home64 here 0x80 ≠ 0) ∧
    ((acted user core0 polder0 awake [] (.futr 0x80 0x40)).landsAt here 0x80 (keyIn here 2 0x80) ∧
      (acted user core0 polder0 awake [] (.futr 0x80 0x40)).landsAt here (0x40 + 56) (keyIn here 2 0x78) ∧
      (acted user core0 polder0 awake [] (.futw 0x80 7#64)).landsAt here (0x80 + 8) (keyIn here 2 0x88)) ∧
    (stageC user).ahead here = [] := by
  refine ⟨fun op h => ⟨(task_acts op h).1, kind_zero _ _ _ _ _ (task_acts op h).2.1⟩, ⟨acting_here _ _ _ _ _ _ (by decide) (by decide), ⟨⟨here, 0, 8⟩, by decide, rfl, by decide, by decide⟩, ⟨⟨here, 0, 0x1000⟩, by decide, rfl, by decide, by decide⟩, by decide⟩,
    ⟨⟨⟨⟨rfl, rfl⟩, rfl, by decide, by decide, by decide⟩, steady_in _ (by decide) (fun n => ?_), ⟨rfl, rfl, rfl⟩, ⟨0, rfl⟩, fun _ w => (List.not_mem_nil w).elim, rfl, rfl, 0, rfl⟩,
      kind_one _ _ _ _ _ (by decide), by decide, rfl⟩, ⟨acting_here _ _ _ _ _ _ (by decide) (by decide), by decide⟩,
    ⟨⟨⟨here, 2, 0x80⟩, by decide, rfl, by decide, by decide⟩, ⟨⟨here, 2, 0x78⟩, by decide, rfl, by decide, by decide⟩, ⟨here, 2, 0x88⟩, by decide, rfl, by decide, by decide⟩, by decide⟩
  unfold State.ctx
  rw [show resuming.ctxs = [(here, { user with block := some (acting (.fork 0x40 0)) }), ({ here with ctx := 1 }, { Context.initial 1 with state := 3#3 })] from rfl]
  unfold lookupD
  split
  · show (2#3 : BitVec 3) ≠ 1#3
    decide
  · unfold lookupD
    split
    · show (3#3 : BitVec 3) ≠ 1#3
      decide
    · show (0#3 : BitVec 3) ≠ 1#3
      decide
theorem dev_none {s : State} {n : Nat} (h : s.devsAt 0 n = []) : s.devAt 0 n = 256 + n := by simp [State.devAt, h]
theorem core_of (s : State) (d p : Nat) (h : s.devAt 0 (bits d 23 16) = p) : s.messageCore 0 (s.messageOf here 0x40 d) =
    (⟨p, polderIndex (bits d 15 14) (bits d 13 10) (bits d 9 7), bits d 6 4, bits d 2 0⟩ : Loc).toCore := by
  rw [← h]
  rfl
/-- Messages for another core of the polder, for a device that nothing answers to, and for a die without power, each with a reply word. -/
def sends (dest : Nat) : CommitOp := .send dest 0x40 none
def replied : Memory := [(keyIn here 2 0x48, 1#8)]
def farDie : DeviceState := { awake with dieDown := [1] }
theorem witness_MessagesHeld_commits :
    (∀ d ∈ [0x10, 0x10000, 0x4000], (acted user core0 polder0 farDie replied (sends d)).commitsWith here 1 (acting (sends d)) (sends d) ∧
      ((acted user core0 polder0 farDie replied (sends d)).messageOf here 0x40 d).reply = some ⟨here, 2, 8⟩ ∧ d ∈ sendCopies d none) ∧
    (let s := acted user core0 polder0 farDie replied (sends 0x10); let m := s.messageOf here 0x40 0x10;
      s.routed here (s.messageCore 0 m) (msgPart m) = true ∧ s.isDry here (s.messageCore 0 m).toPolder = false) ∧
    (let s := acted user core0 polder0 farDie replied (sends 0x10000); let m := s.messageOf here 0x40 0x10000; s.routed here (s.messageCore 0 m) (msgPart m) = false) ∧
    (let s := acted user core0 polder0 farDie replied (sends 0x4000); let m := s.messageOf here 0x40 0x4000;
      s.routed here (s.messageCore 0 m) (msgPart m) = true ∧ s.isDry here (s.messageCore 0 m).toPolder = true) := by
  refine ⟨fun d h => ?_, ?_, ?_, ?_⟩
  · refine ⟨acting_here _ _ _ _ _ _ (by decide) ?_, ?_⟩ <;> revert d h <;> decide
  · show State.routed _ _ (State.messageCore _ _ _) _ = true ∧ State.isDry _ _ (State.messageCore _ _ _).toPolder = false
    rw [core_of _ 0x10 0 (dev_at rfl)]
    decide
  · show State.routed _ _ (State.messageCore _ _ _) _ = false
    rw [core_of _ 0x10000 257 (dev_none rfl)]
    decide
  · show State.routed _ _ (State.messageCore _ _ _) _ = true ∧ State.isDry _ _ (State.messageCore _ _ _).toPolder = true
    rw [core_of _ 0x4000 0 (dev_at rfl)]
    decide
/-- A direct launch with groups and room in its queue, and an indirect one. -/
theorem witness_LaunchesHeld_commits :
    (∀ op ∈ [CommitOp.launch (small none 0) none, .launch { small none 0 with ind := true } (some (handleTo 4))], op ∈ plainActs) ∧ (small none 0).issuer = here ∧
    (small none 0).groups ≠ 0 ∧ (acted user core0 polder0 awake [] (.launch (small none 0) none)).device here = awake ∧ awake.queueFull (4096 + (small none 0).part) = false ∧
    (handleTo 4).gen ≠ 0 := by decide
/-- A composition of two cores, its release, and a relocation. -/
theorem witness_CompositionEffects_commits :
    .compose [{ here with core := 1 }] ∈ plainActs ∧ (∀ m ∈ [({ here with core := 1 } : Loc)], m.toCore ≠ here.toCore) ∧
    (let c : Context := { user with lead := some (here, 1) }; let s := acted c core0 polder0 awake [] .release;
      s.commitsWith here 1 (acting .release) .release ∧ (s.ctx here).lead = some (here, 1) ∧ ∀ m ∈ memberSlots here 1, (s.ctx m).window = []) ∧
    (acted super core0 polder0 awake [] (.reloc 1 0x1000010 0x40)).commitsWith here 1 (acting (.reloc 1 0x1000010 0x40)) (.reloc 1 0x1000010 0x40) :=
  ⟨by decide, by decide, ⟨acting_here _ _ _ _ _ _ (by decide) (by decide), rfl, by decide⟩, acting_here _ _ _ _ _ _ (by decide) (by decide)⟩
/-- A load of core memory that an uncorrectable error meets. -/
theorem witness_LoadChecks_marked : ∃ (s : State) (b : Block), s.firingBlock b ∧ predFall .always (b.tok s .x) = .taken ∧ b.gives s [.l] [0#64] ∧
    homePlace s.focus.l 0 = some ⟨s.focus.l.toPolder, 2, 0⟩ ∧ s.lockHit s.focus.l (keyIn s.focus.l.toPolder 2 0) 8 true = none ∧
    s.eccHit (keyIn s.focus.l.toPolder 2 0) 8 = true :=
  ⟨{ scene user (blk 0 0 0 0) with ecc := [keyIn here 2 0] }, _, ⟨rfl, rfl⟩, rfl, rfl, rfl, rfl, by decide⟩

/-! ## Witnesses: launches -/

/-- A device whose launch has not begun. -/
def offered : DeviceState := { awake with launchQs := [⟨4096, [⟨small none 0, 0⟩], 0⟩] }
/-- What waits in the queue that is served: nothing, so that a packet is fetched; a launch of which 256 groups have gone; one that begins; none that waits for room. -/
theorem witness_LaunchesRun_queues :
    let head (d : DeviceState) (num : Nat) : Option QueuedLaunch := (d.launchQs.find? fun y => y.num == num).bind fun y => y.items.head?
    head knocking 2 = none ∧ head serving 4096 = some ⟨small none 0, 256⟩ ∧ (stage user core0 polder0 offered).nextQueue here = some (4096, 0) ∧
    head offered 4096 = some ⟨small none 0, 0⟩ ∧ serving.launchWait = [] ∧ offered.launchWait = [] ∧ 0 < (launchNodes (small none 0)).length := by decide
/-- A core of a stage reserves no place of a deque where no block is in flight. -/
theorem none_reserved (c : Loc) (k : CoreState) (p : PolderState) (d : DeviceState) : (stage user k p d).dequeReserved c = 0 := by
  have e (n : Nat) : ((stage user k p d).ctx { c with ctx := n }).block = none := by
    unfold stage State.ctx lookupD
    split <;> rfl
  unfold State.dequeReserved
  simp only [e]
  decide
/-- Groups for one core, with places for them; and a report for a launch of which the polder holds no entry, and for one of several that it holds. -/
theorem witness_LaunchesRun_groups :
    (let gs : List HeldGroup := [⟨here, 5, task 0 0, 0⟩, ⟨here, 5, task 0 1, 0⟩]; let s := stage user core0 { polder0 with groups := gs } awake;
      (s.polder here).groups = gs ∧ (∀ g ∈ gs, (s.polder here).part = some g.part) ∧
      ∀ c, (s.core c).deque.length + s.dequeReserved c + (gs.filter fun g => decide (g.core.toCore = c.toCore)).length ≤ 64) ∧
    (∀ m ∈ (polder0.merges : List MergeEntry), m.launch ≠ 5) ∧
    ([{ merging none none 0 with launch := 4, idx := 1 }, merging none none 0].find? fun m => m.launch == 5) = some (merging none none 0) ∧
    (stage user core0 { polder0 with merges := [merging none (some (small none 0x40)) 1] } awake).homeBarred here 0x40 16 = false ∧
    (stage user core0 { polder0 with merges := [merging none (some (small none 0x1FC00)) 1] } awake).homeBarred here 0x1FC00 16 = true := by
  refine ⟨⟨rfl, by decide, fun c => ?_⟩, by decide, by decide, by decide, by decide⟩
  have d : ((stage user core0 { polder0 with groups := [⟨here, 5, task 0 0, 0⟩, ⟨here, 5, task 0 1, 0⟩] } awake).core c).deque = [] := by
    unfold stage State.core lookupD
    split <;> rfl
  rw [d, none_reserved]
  exact Nat.le_trans (Nat.add_le_add_left (List.length_filter_le _ _) _) (by decide)
/-- The record of a communicator that no workspace holds, and a ring of spilled messages with none in it; and one with one. -/
theorem witness_CommunicatorsUnwind_record :
    (unwound [unwinding [] [] false none] [] [] user).homeBarred here 0x100040 48 = false ∧
    (let s := stage spilling core0 used awake; s.spillState here (s.ctx here) = .room ∧ s.ringCount here (s.ctx here).spillBase 0x10 = 0) ∧
    (stageC user).spillState here user ≠ .room := by decide
/-- A record whose granule is settled, and a completion word that leaves the ranges. -/
theorem witness_WatchInstructions_more :
    (scene user (blk 0x100000000 0x40 0 0)).homeSettled here [polderView here 0x40] = true ∧
    Meets .always [.l, .r, .x] [0#64, 0#64, 0x20000000000#64] (fun s _ => bits 0x20000000000 21 20 ≠ 3 ∧ bits 0x20000000000 23 23 = 0 ∧ bits 0x20000000000 63 24 % 8 = 0 ∧
      s.pullRange s.focus.l 0 (bits 0x20000000000 19 0 + 1) = 0 ∧ bits 0x20000000000 63 24 ≠ 0 ∧ s.pullRange s.focus.l (bits 0x20000000000 63 24) 8 ≠ 0) :=
  ⟨by decide, meets3 user 0 0 0 0x20000000000 (by decide)⟩

end Sys2Proof.Tests
end

section
/-! SUPPORT. The integer members (spec/04 R87 to R89, R77): what the shared firing of a member delivers, and the statement about all 28. -/

namespace Sys2Proof.Machine

/-- The model counts the bits of the quotient as R77 does: `divLatency_eq` at the width of these members. -/
theorem divLatency_64 (signed : Bool) (l r : W64) : divLatency 64 signed l r = divisionTime 64 signed l r :=
  divLatency_eq 64 (by decide) (by decide) signed l r

/-- A MEMBER OF TWO OPERANDS delivers what its 64-bit equation says, after the latency of the member. -/
theorem delivers_iop {i : Instr} {p : Pred} {t1 t0 : Target} (o : Iop) {lat : W64 → W64 → Nat} {f : W64 → W64 → W64}
    (he : ∀ s, exec i s = fireIop o p t1 t0 s) (hlat : ∀ l r, iopLatency o 64 l r = lat l r)
    (hf : ∀ l r, iopAt o 64 l.toNat r.toNat r.toNat = (f l r).toNat) : Delivers2 i p [t0, t1] lat f :=
  delivers_binaryTimed he (fun _ => (iop_of (hf _ _)).symm) fun _ => (hlat _ _).symm

/-- A MEMBER OF ONE OPERAND delivers its count of bits one cycle after it fires. -/
theorem delivers_iop1 {i : Instr} {p : Pred} {t1 t0 : Target} (o : Iop) {count : W64 → Nat}
    (he : ∀ s, exec i s = fireIop1 o p t1 t0 s) (hf : ∀ l : W64, iopAt o 64 l.toNat 0 0 = count l) :
    Delivers1 i p [t0, t1] 1 fun l => BitVec.ofNat 64 (count l) :=
  delivers_unary he fun vs => congrArg w64 (hf (arg vs 0)).symm

/-- Settles O1: each member is the shared firing of its operation, whose result and latency the equations of `Laws/Values` give. -/
theorem integerResults : Obligations.IntegerResults := by
  have pos : 0 < 64 := by decide
  have cast : ((2 ^ 64 : Nat) : Int) = 2 ^ 64 := Int.natCast_pow 2 64
  intro p t1 t0
  refine ⟨?add, ?sub, ?and, ?or, ?xor, ?andn, ?shl, ?shr, ?sra, ?rol, ?ror, ?mul, ?mulh, ?mulhn, ?div, ?divn, ?rem, ?remn,
    ?min, ?max, ?minn, ?maxn, ?clz, ?ctz, ?popc, ?addsat, ?subsat, ?absd⟩
  case add => exact delivers_iop .add (fun _ => rfl) (fun _ _ => rfl) fun l r => iopAt_add l r _
  case sub => exact delivers_iop .sub (fun _ => rfl) (fun _ _ => rfl) fun l r => iopAt_sub l r _
  case and => exact delivers_iop .and (fun _ => rfl) (fun _ _ => rfl) fun l r => iopAt_and l r _
  case or => exact delivers_iop .or (fun _ => rfl) (fun _ _ => rfl) fun l r => iopAt_or l r _
  case xor => exact delivers_iop .xor (fun _ => rfl) (fun _ _ => rfl) fun l r => iopAt_xor l r _
  case andn => exact delivers_iop .andn (fun _ => rfl) (fun _ _ => rfl) fun l r => iopAt_andn l r _
  case shl => exact delivers_iop .shl (fun _ => rfl) (fun _ _ => rfl) fun l r => iopAt_shl l r _
  case shr => exact delivers_iop .shr (fun _ => rfl) (fun _ _ => rfl) fun l r => iopAt_shr l r _
  case sra => exact delivers_iop .sra (fun _ => rfl) (fun _ _ => rfl) fun l r => iopAt_sra pos l r _
  case rol => exact delivers_iop .rol (fun _ => rfl) (fun _ _ => rfl) fun l r => iopAt_rol pos l r _
  case ror => exact delivers_iop .ror (fun _ => rfl) (fun _ _ => rfl) fun l r => iopAt_ror pos l r _
  case mul => exact delivers_iop .mul (fun _ => rfl) (fun _ _ => rfl) fun l r => iopAt_mul l r _
  case mulh => exact delivers_iop .mulh (fun _ => rfl) (fun _ _ => rfl) fun l r => cast ▸ iopAt_mulh pos l r _
  case mulhn => exact delivers_iop .mulhn (fun _ => rfl) (fun _ _ => rfl) fun l r => iopAt_mulhn l r _
  case div => exact delivers_iop .div (fun _ => rfl) (divLatency_64 true) fun l r => iopAt_div pos l r _
  case divn => exact delivers_iop .divn (fun _ => rfl) (divLatency_64 false) fun l r => iopAt_divn l r _
  case rem => exact delivers_iop .rem (fun _ => rfl) (divLatency_64 true) fun l r => iopAt_rem pos l r _
  case remn => exact delivers_iop .remn (fun _ => rfl) (divLatency_64 false) fun l r => iopAt_remn l r _
  case min => exact delivers_iop .min (fun _ => rfl) (fun _ _ => rfl) fun l r => iopAt_min pos l r _
  case max => exact delivers_iop .max (fun _ => rfl) (fun _ _ => rfl) fun l r => iopAt_max pos l r _
  case minn => exact delivers_iop .minn (fun _ => rfl) (fun _ _ => rfl) fun l r => iopAt_minn l r _
  case maxn => exact delivers_iop .maxn (fun _ => rfl) (fun _ _ => rfl) fun l r => iopAt_maxn l r _
  case clz => exact delivers_iop1 .clz (fun _ => rfl) fun l => clzFrom_eq l 64
  case ctz => exact delivers_iop1 .ctz (fun _ => rfl) fun l => List.range_eq_range' ▸ ctzFrom_eq l 64 0
  case popc => exact delivers_iop1 .popc (fun _ => rfl) fun l => popFrom_eq l 64
  case addsat => exact delivers_iop .addsat (fun _ => rfl) (fun _ _ => rfl) fun l r => iopAt_addsat pos l r _
  case subsat => exact delivers_iop .subsat (fun _ => rfl) (fun _ _ => rfl) fun l r => iopAt_subsat pos l r _
  case absd => exact delivers_iop .absd (fun _ => rfl) (fun _ _ => rfl) fun l r => iopAt_absd pos l r _

end Sys2Proof.Machine
end

section
/-! SUPPORT. The words that the specification writes out (spec/02 R44 to R48, spec/10 R243): a word has its meaning in one of two instruction sets, told apart by its low seven bits. -/

namespace Sys2Proof.Machine

/-- R44: outside custom-0 the table reads a word as a word of a block. -/
theorem decodeTableWord_of_block {w : Nat} (n : Nat) (hw : w < 2 ^ 32) (hset : w % 128 ≠ 0x0B) :
    decodeTableWord n w = (decodeWord w).toOption := by
  rw [decodeTableWord, Nat.mod_eq_of_lt hw, if_neg hset]
  cases decodeWord w <;> rfl

/-- R243: a word of custom-0 that the slice extension lists has its meaning there. -/
theorem decodeTableWord_of_slice {w : Nat} {i : Instr} (n : Nat) (hw : w < 2 ^ 32) (hset : w % 128 = 0x0B) (h : decodeSliceExt w = some i) :
    decodeTableWord n w = some i := by
  rw [decodeTableWord, Nat.mod_eq_of_lt hw, if_pos hset, h]

/-- A list of 32-bit words decodes as written when the words outside custom-0 do so in a block, and those of custom-0 on the slice core. -/
theorem decodeTableWord_of_sets {ws : List (Nat × Instr)} (range : ∀ x ∈ ws, x.1 < 2 ^ 32)
    (block : ∀ x ∈ ws, x.1 % 128 ≠ 0x0B → (decodeWord x.1).toOption = some x.2)
    (slice : ∀ x ∈ ws, x.1 % 128 = 0x0B → decodeSliceExt x.1 = some x.2) : ∀ x ∈ ws, decodeTableWord 32 x.1 = some x.2 := by
  intro x hx
  by_cases hset : x.1 % 128 = 0x0B
  · exact decodeTableWord_of_slice 32 (range x hx) hset (slice x hx hset)
  · exact (decodeTableWord_of_block 32 (range x hx) hset).trans (block x hx hset)

/-- Settles O56: each word lies in 32 bits, and its own instruction set gives it the instruction written beside it. -/
theorem wordsDecode : Obligations.WordsDecode :=
  decodeTableWord_of_sets (by decide) (by decide) (by decide)

end Sys2Proof.Machine
end

section
/-! SUPPORT. The invariant of the machine (spec/01, spec/14): every instruction is a program of effects, every effect keeps the invariant, so does a step. -/

namespace Sys2Proof.Machine

/-! ## Every instruction is a program of effects -/

/-- The outcome is the state after some program of effects. -/
def RunsAct (s : State) (o : Host.Outcome State Fault Refusal) : Prop := ∃ a : Act, o = .next (a.run s)

theorem runsAct_done (a : Act) (s : State) : RunsAct s (done a s) := ⟨a, rfl⟩
theorem runsAct_next (s : State) : RunsAct s (.next s) := ⟨.skip, rfl⟩
theorem runsAct_onHandler (k : Loc → Handler → State → Act) (s : State) : RunsAct s (onHandler k s) := by
  unfold onHandler
  split
  · exact runsAct_done _ s
  · exact runsAct_next s

/-- EVERY INSTRUCTION IS A PROGRAM OF EFFECTS: those of a handler and of a slot by their frames, a step of the part in each branch of what it is about. -/
theorem exec_runsAct (i : Instr) (s : State) : RunsAct s (exec i s) := by
  cases i
  case slrd | slwr | sgadv | ssend | spull | screg | scarm | scdrp | samoAdd | samoAnd | samoOr | samoXor | samoMin | samoMax | samoMinn | samoMaxn |
      samoSwap | samoCas | samoDecz | sreply | stlim | shend | sliceBaseInstruction =>
    dsimp only [exec,
      execSlrd, execSlwr, execSgadv, execSsend, execSpull, execScreg, execScarm, execScdrp, execSamoAdd, execSamoAnd, execSamoOr, execSamoXor,
      execSamoMin, execSamoMax, execSamoMinn, execSamoMaxn, execSamoSwap, execSamoCas, execSamoDecz, execSreply, execStlim, execShend,
      execSliceBaseInstruction]
    exact runsAct_onHandler _ s
  case blockFetch | blockFetchReadReturn | tokenArrival | blockCommit | blockStarved | portPushTimeout | blockAbandon | contextAllocation |
      contextDispatch | loadReply | sluiceRequest | tlbWalkComplete | l2LineFill | freshZeroingDone | watchRegistration | watchRegistrationReply |
      watchArm | watchSatisfactionArrival | watchCancelArrival | atomicPacketArrival | atomicTurn | atomicReply | handlerStart | handlerBudgetExpiry |
      messageArrival | sliceMessageArrival | replyArrival | moveNoticeArrival | threadReleaseArrival | migrationPacketArrival |
      migrationAdmissionReply | migrationResend | relocTransfer | relocArrival | dequeRefill | stealRequest | stealRequestArrival | stealReplyArrival
      | stealBackoffExpiry | launchDispatch | launchGroupPlacement | mergeReport | sfuAccept | sfuResult | vectorBeat | matrixEntryAccept |
      matrixCommandRecord | matrixSlab | matrixEntryComplete | rangeLockRegister | entryRetire | transferIssue | eq2Pull | pullw | fill | gcopy |
      lineReadReply | listenNotification | allReduce | reduceScatter | allGather | broadcast | barrier | allToAllV | reduce | chunkStart | chunkEnd |
      collectiveGaugeNotice | absentAnswer | returnNotice | collectiveNoticeResend | abortPacket | stepPacket | stepWaitTimeout | agreePacket |
      donePacket | agreeTimeout | linkRetry | linkLost | ethernetResend | tailTimeout | poisonedWormDiscard | diePowerLoss | thermalTrip |
      clockThrottle | powerOnBringup | submissionTailWrite | completionHeadWrite | packetFetch | hostNop | hostRun | hostLaunch | hostWait |
      hostCopyin | hostCopyout | hostWorkComplete | remapUnmask | pasidRevoke | revocationComplete | invalidatePasid | invalidatePage |
      invalidateStage2 | invalidatePartition | invalidationComplete | podposWrite | attestGo | attestReportReady | partitionSwap | partitionRemove |
      swapDrainComplete | polderStopRequest | polderFence | contextReleaseCmd | contextEndCmd | contextHaltCmd | registerWrite | systemAbort |
      readmission | packagePowerLoss =>
    dsimp only [exec,
      execBlockFetch, execBlockFetchReadReturn, execTokenArrival, execBlockCommit, execBlockStarved, execPortPushTimeout, execBlockAbandon,
      execContextAllocation, execContextDispatch, execLoadReply, execSluiceRequest, execTlbWalkComplete, execL2LineFill, execFreshZeroingDone,
      execWatchRegistration, execWatchRegistrationReply, execWatchArm, execWatchSatisfactionArrival, execWatchCancelArrival, execAtomicPacketArrival,
      execAtomicTurn, execAtomicReply, execHandlerStart, execHandlerBudgetExpiry, execMessageArrival, execSliceMessageArrival, execReplyArrival,
      execMoveNoticeArrival, execThreadReleaseArrival, execMigrationPacketArrival, execMigrationAdmissionReply, execMigrationResend,
      execRelocTransfer, execRelocArrival, execDequeRefill, execStealRequest, execStealRequestArrival, execStealReplyArrival, execStealBackoffExpiry,
      execLaunchDispatch, execLaunchGroupPlacement, execMergeReport, execSfuAccept, execSfuResult, execVectorBeat, execMatrixEntryAccept,
      execMatrixCommandRecord, execMatrixSlab, execMatrixEntryComplete, execRangeLockRegister, execEntryRetire, execTransferIssue, execEq2Pull,
      execPullw, execFill, execGcopy, execLineReadReply, execListenNotification, execAllReduce, execReduceScatter, execAllGather, execBroadcast,
      execBarrier, execAllToAllV, execReduce, execChunkStart, execChunkEnd, execCollectiveGaugeNotice, execAbsentAnswer, execReturnNotice,
      execCollectiveNoticeResend, execAbortPacket, execStepPacket, execStepWaitTimeout, execAgreePacket, execDonePacket, execAgreeTimeout,
      execLinkRetry, execLinkLost, execEthernetResend, execTailTimeout, execPoisonedWormDiscard, execDiePowerLoss, execThermalTrip, execClockThrottle,
      execPowerOnBringup, execSubmissionTailWrite, execCompletionHeadWrite, execPacketFetch, execHostNop, execHostRun, execHostLaunch, execHostWait,
      execHostCopyin, execHostCopyout, execHostWorkComplete, execRemapUnmask, execPasidRevoke, execRevocationComplete, execInvalidatePasid,
      execInvalidatePage, execInvalidateStage2, execInvalidatePartition, execInvalidationComplete, execPodposWrite, execAttestGo,
      execAttestReportReady, execPartitionSwap, execPartitionRemove, execSwapDrainComplete, execPolderStopRequest, execPolderFence,
      execContextReleaseCmd, execContextEndCmd, execContextHaltCmd, execRegisterWrite, execSystemAbort, execReadmission, execPackagePowerLoss]
    repeat' split
    all_goals first | exact runsAct_done _ s | exact runsAct_next s
  all_goals exact runsAct_done _ s

/-! ## What each effect keeps -/

theorem agendaFrom_mono {lo hi : Nat} {ps : List Pending} (h : lo ≤ hi) (hp : agendaFrom hi ps) : agendaFrom lo ps := by
  cases ps with
  | nil => trivial
  | cons p ps => exact ⟨Nat.le_trans h hp.1, hp.2⟩

theorem agendaFrom_schedule {p : Pending} {lo : Nat} {ps : List Pending} (hlo : lo ≤ p.due) (h : agendaFrom lo ps) : agendaFrom lo (schedule p ps) := by
  induction ps generalizing lo with
  | nil => exact ⟨hlo, trivial⟩
  | cons q qs ih =>
    obtain ⟨hq, hqs⟩ := h
    unfold schedule
    split
    · next hlt => exact ⟨hlo, by omega, hqs⟩
    · next hge => exact ⟨hq, ih (by omega) hqs⟩

theorem agendaFrom_filter {f : Pending → Bool} {lo : Nat} {ps : List Pending} (h : agendaFrom lo ps) : agendaFrom lo (ps.filter f) := by
  induction ps generalizing lo with
  | nil => trivial
  | cons q qs ih =>
    obtain ⟨hq, hqs⟩ := h
    rw [List.filter_cons]
    split
    · exact ⟨hq, ih hqs⟩
    · exact ih (agendaFrom_mono hq hqs)

theorem mem_keys_assocSet {α : Type} {j k : Loc} {v : α} {ps : List (Loc × α)} (h : j ∈ (assocSet k v ps).map Prod.fst) : j = k ∨ j ∈ ps.map Prod.fst := by
  induction ps with
  | nil => exact .inl (by simpa [assocSet] using h)
  | cons p ps ih =>
    unfold assocSet at h
    split at h
    · simp only [List.map_cons, List.mem_cons] at h ⊢
      exact h.imp_right .inr
    · simp only [List.map_cons, List.mem_cons] at h ⊢
      exact h.elim (.inr ∘ .inl) fun h => (ih h).imp_right .inr

theorem nodup_keys_assocSet {α : Type} {k : Loc} {v : α} {ps : List (Loc × α)} (h : (ps.map Prod.fst).Nodup) : ((assocSet k v ps).map Prod.fst).Nodup := by
  induction ps with
  | nil => exact List.pairwise_singleton _ k
  | cons p ps ih =>
    rw [List.map_cons, List.nodup_cons] at h
    unfold assocSet
    split
    · next e => exact List.nodup_cons.2 (e ▸ h)
    · next e => exact List.nodup_cons.2 ⟨fun hm => (mem_keys_assocSet hm).elim e h.1, ih h.2⟩

/-- Setting a key that has its form. -/
theorem keysOk_assocSet {α : Type} {form : Loc → Loc} {k : Loc} {v : α} {ps : List (Loc × α)} (hk : form k = k) (h : keysOk form ps) :
    keysOk form (assocSet k v ps) := by
  refine ⟨nodup_keys_assocSet h.1, fun p hp => ?_⟩
  rcases mem_keys_assocSet (List.mem_map_of_mem hp) with e | hm
  · rw [e, hk]
  · obtain ⟨q, hq, e⟩ := List.mem_map.1 hm
    exact e ▸ h.2 q hq

theorem keysOk_filter {α : Type} {form : Loc → Loc} {f : Loc × α → Bool} {ps : List (Loc × α)} (h : keysOk form ps) : keysOk form (ps.filter f) :=
  ⟨h.1.sublist (List.filter_sublist.map _), fun p hp => h.2 p (List.mem_filter.1 hp |>.1)⟩

/-- EVERY EFFECT KEEPS THE INVARIANT AND THE TIME. -/
theorem apply_inv (e : Effect) (s : State) (h : s.Inv) : (e.apply s).Inv ∧ (e.apply s).now = s.now := by
  obtain ⟨hm, hs, hh, ha, hc, hk, hp, hd⟩ := h
  cases e with
  | ctx l f => exact ⟨⟨hm, hs, hh, ha, keysOk_assocSet rfl hc, hk, hp, hd⟩, rfl⟩
  | core l f => exact ⟨⟨hm, hs, hh, ha, hc, keysOk_assocSet (toCore_toCore l) hk, hp, hd⟩, rfl⟩
  | polder l f => exact ⟨⟨hm, hs, hh, ha, hc, hk, keysOk_assocSet (toPolder_toPolder l) hp, hd⟩, rfl⟩
  | device l f => exact ⟨⟨hm, hs, hh, ha, hc, hk, hp, keysOk_assocSet (toDev_toDev l) hd⟩, rfl⟩
  | byte k b => exact ⟨⟨wf_put _ k b hm, hs, hh, ha, hc, hk, hp, hd⟩, rfl⟩
  | sideByte k b => exact ⟨⟨hm, wf_put _ k b hs, hh, ha, hc, hk, hp, hd⟩, rfl⟩
  | hostByte k b => exact ⟨⟨hm, hs, wf_put _ k b hh, ha, hc, hk, hp, hd⟩, rfl⟩
  | keep p => exact ⟨⟨wf_keep _ p hm, hs, hh, ha, hc, hk, hp, hd⟩, rfl⟩
  | sideKeep p => exact ⟨⟨hm, wf_keep _ p hs, hh, ha, hc, hk, hp, hd⟩, rfl⟩
  | sched d w => exact ⟨⟨hm, hs, hh, agendaFrom_schedule (Nat.le_add_right _ d) ha, hc, hk, hp, hd⟩, rfl⟩
  | cancel p => exact ⟨⟨hm, hs, hh, agendaFrom_filter ha, hc, hk, hp, hd⟩, rfl⟩
  | tickFree | tickEpoch | focus f | ecc f => exact ⟨⟨hm, hs, hh, ha, hc, hk, hp, hd⟩, rfl⟩
  | forget f g => exact ⟨⟨hm, hs, hh, ha, keysOk_filter hc, keysOk_filter hk, keysOk_filter hp, hd⟩, rfl⟩

/-- The invariant of a state whose time is `n`. -/
def InvAt (n : Nat) (s : State) : Prop := s.Inv ∧ s.now = n

theorem run_invAt {n : Nat} (a : Act) {s : State} (h : InvAt n s) : InvAt n (a.run s) :=
  run_keeps (InvAt n) (fun e t ht => ⟨(apply_inv e t ht.1).1, (apply_inv e t ht.1).2.trans ht.2⟩) a s h

theorem exec_invAt {n : Nat} {i : Instr} {s t : State} (h : InvAt n s) (he : exec i s = .next t) : InvAt n t := by
  obtain ⟨a, ha⟩ := exec_runsAct i s
  obtain rfl : a.run s = t := Host.Outcome.next.inj (ha.symm.trans he)
  exact run_invAt a h

theorem runWork_invAt {n : Nat} {w : Work} {s t : State} (h : InvAt n s) (hw : runWork w s = .next t) : InvAt n t := by
  obtain ⟨⟨hm, hs, hh, ha, hc, hk, hp, hd⟩, hn⟩ := id h
  cases w with
  | fire l epoch slot =>
    simp only [runWork] at hw
    split at hw
    · split at hw
      · exact exec_invAt (s := { s with focus := ⟨l, epoch, slot⟩ }) ⟨⟨hm, hs, hh, ha, hc, hk, hp, hd⟩, hn⟩ hw
      · cases hw
    · cases hw; exact h
  | slice p gen =>
    simp only [runWork] at hw
    split at hw
    · cases hw; exact h
    · cases hw; exact run_invAt _ h
    · exact exec_invAt (run_invAt _ h) hw
  | event e =>
    simp only [runWork] at hw
    split at hw
    · exact exec_invAt (s := { s with cur := e }) ⟨⟨hm, hs, hh, ha, hc, hk, hp, hd⟩, hn⟩ hw
    · cases hw; exact h

/-- Settles O60: time passes to an entry that is not overdue, the rest of the agenda lies behind it, and what runs then is a program of effects, each of
which keeps the invariant and the time. -/
theorem stepKeepsInv : Obligations.StepKeepsInv := by
  intro s t h hs
  unfold step at hs
  split at hs
  · cases hs; exact ⟨h, Nat.le_refl _⟩
  · next p rest he =>
    obtain ⟨hm, hsd, hh, ha, hc, hk, hp, hd⟩ := h
    rw [he] at ha
    have hnow : max s.now p.due = p.due := Nat.max_eq_right ha.1
    have hinv : InvAt p.due { s with agenda := rest, now := max s.now p.due } := ⟨⟨hm, hsd, hh, by rw [hnow]; exact ha.2, hc, hk, hp, hd⟩, hnow⟩
    obtain ⟨hi, hn⟩ := runWork_invAt hinv hs
    exact ⟨hi, hn ▸ ha.1⟩

end Sys2Proof.Machine
end

section
/-! SUPPORT. The encodings (spec/02 R44 to R48, spec/10 R243): a field of a word names an operand exactly when it holds the operand's code,
    a form is read from a word
exactly when the word is the one that the form packs, and so decoding and encoding agree. -/

namespace Sys2Proof.Machine
open Sys2Proof.Laws

/-! ## Fields and their codes -/

theorem bind_ok_iff {ε α β : Type} {x : Except ε α} {f : α → Except ε β} {b : β} : (x >>= f) = .ok b ↔ ∃ a, x = .ok a ∧ f a = .ok b := by
  cases x with
  | error e => exact ⟨(nomatch ·), fun ⟨_, h, _⟩ => (nomatch h)⟩
  | ok a => exact ⟨fun h => ⟨a, rfl, h⟩, fun ⟨_, h, k⟩ => Except.ok.inj h ▸ k⟩

theorem orError_ok_iff {α : Type} {o : Option α} {e : DecodeError} {a : α} : orError o e = .ok a ↔ o = some a := by
  cases o <;> simp [orError]
theorem zeroField_ok_iff {n : Nat} {u : Unit} : zeroField n = .ok u ↔ n = 0 := by
  unfold zeroField
  split <;> simp [*]
theorem predOf_ok_iff {n : Nat} {p : Pred} : predOf n = .ok p ↔ n = p.code := by
  constructor
  · intro h
    unfold predOf at h
    split at h <;> cases h <;> rfl
  · rintro rfl
    cases p <;> rfl
theorem targetOf_ok_iff {n : Nat} {t : Target} : targetOf n = .ok t ↔ n = t.code := by
  constructor
  · intro h
    unfold targetOf at h
    split at h
    case h_1 => split at h <;> cases h; assumption
    case h_2 | h_3 | h_4 => cases h; simp only [Target.code, Opnd.code, BitVec.toNat_ofNat]; omega
    case h_5 => cases h
  · rintro rfl
    cases t with
    | none => rfl
    | into o k =>
      have hk := k.isLt
      have hn : ∀ c, (c * 128 + k.toNat) / 128 = c := by omega
      have hm : ∀ c, BitVec.ofNat 7 (c * 128 + k.toNat) = k := fun c => BitVec.eq_of_toNat_eq (by simp only [BitVec.toNat_ofNat]; omega)
      cases o <;> simp only [targetOf, Target.code, Opnd.code, hn, hm]

theorem scopeOf_eq_iff {n : Nat} {c : Scope} : scopeOf n = some c ↔ n = c.code := by
  constructor
  · intro h; unfold scopeOf at h; split at h <;> cases h <;> rfl
  · rintro rfl; cases c <;> rfl
theorem fenceKindOf_eq_iff {n : Nat} {c : FenceKind} : fenceKindOf n = some c ↔ n = c.code := by
  constructor
  · intro h; unfold fenceKindOf at h; split at h <;> cases h <;> rfl
  · rintro rfl; cases c <;> rfl
theorem condOf_eq_iff {n : Nat} {c : Cond} : condOf n = some c ↔ n = c.code := by
  constructor
  · intro h; unfold condOf at h; split at h <;> cases h <;> rfl
  · rintro rfl; cases c <;> rfl
theorem amoOpOf_eq_iff {n : Nat} {c : AmoOp} : amoOpOf n = some c ↔ n = c.code := by
  constructor
  · intro h; unfold amoOpOf at h; split at h <;> cases h <;> rfl
  · rintro rfl; cases c <;> rfl
theorem cvtPairOf_eq_iff {n : Nat} {c : CvtPair} : cvtPairOf n = some c ↔ n = c.code := by
  constructor
  · intro h; unfold cvtPairOf at h; split at h <;> cases h <;> rfl
  · rintro rfl; cases c <;> rfl
theorem vcondOf_eq_iff {n : Nat} {c : VCond} : vcondOf n = some c ↔ n = c.code := by
  constructor
  · intro h; unfold vcondOf at h; split at h <;> cases h <;> rfl
  · rintro rfl; cases c <;> rfl
theorem codeTableOf_eq_iff {n : Nat} {c : CodeTable} : codeTableOf n = some c ↔ n = c.code := by
  constructor
  · intro h; unfold codeTableOf at h; split at h <;> cases h <;> rfl
  · rintro rfl; cases c <;> rfl
theorem mmaPairOf_eq_iff {n : Nat} {c : MmaPair} : mmaPairOf n = some c ↔ n = c.code := by
  constructor
  · intro h; unfold mmaPairOf at h; split at h <;> cases h <;> rfl
  · rintro rfl; cases c <;> rfl

/-! ## Layouts: the word that a form packs is the one with these fields -/

variable {w op x : Nat} {p : Pred} {b t : Target}

theorem packA_iff (hw : w < 2 ^ 32) (ho : op < 128) {r : BitVec 5} : w = packA op r b t ↔
    bits w 31 25 = op ∧ bits w 24 23 = 0 ∧ bits w 22 18 = r.toNat ∧ bits w 17 9 = b.code ∧ bits w 8 0 = t.code := by
  have := r.isLt; have := Target_code_lt b; have := Target_code_lt t
  simp only [packA, packOp, bits, Nat.reduceAdd, Nat.reduceSub, Nat.reducePow]
  omega
theorem packW_iff (hw : w < 2 ^ 32) (ho : op < 128) {r : BitVec 5} : w = packW op p r ↔
    bits w 31 25 = op ∧ bits w 24 23 = p.code ∧ bits w 22 18 = r.toNat ∧ bits w 17 0 = 0 := by
  have := r.isLt; have := Pred_code_lt p
  simp only [packW, packOp, bits, Nat.reduceAdd, Nat.reduceSub, Nat.reducePow]
  omega
theorem packC_iff (hw : w < 2 ^ 32) (ho : op < 128) {k : BitVec 16} : w = packC op k t ↔
    bits w 31 25 = op ∧ bits w 24 9 = k.toNat ∧ bits w 8 0 = t.code := by
  have := k.isLt; have := Target_code_lt t
  simp only [packC, packOp, bits, Nat.reduceAdd, Nat.reduceSub, Nat.reducePow]
  omega
theorem packG_iff (hw : w < 2 ^ 32) (ho : op < 128) (hx : x < 32) : w = packG op x p b t ↔
    bits w 31 25 = op ∧ bits w 24 23 = p.code ∧ bits w 22 18 = x ∧ bits w 17 9 = b.code ∧ bits w 8 0 = t.code := by
  have := Pred_code_lt p; have := Target_code_lt b; have := Target_code_lt t
  simp only [packG, packOp, bits, Nat.reduceAdd, Nat.reduceSub, Nat.reducePow]
  omega
/-- A word without targets. -/
theorem packP_iff (hw : w < 2 ^ 32) (ho : op < 128) (hx : x < 32) : w = packP op x p ↔
    bits w 31 25 = op ∧ bits w 24 23 = p.code ∧ bits w 22 18 = x ∧ bits w 17 0 = 0 := by
  have := Pred_code_lt p
  simp only [packP, packG, packOp, Target.code, bits, Nat.reduceAdd, Nat.reduceSub, Nat.reducePow]
  omega
/-- A word of three operands without targets. -/
theorem packE_iff (hw : w < 2 ^ 32) (ho : op < 128) (hx : x < 32) : w = packE op x ↔
    bits w 31 25 = op ∧ bits w 24 23 = 0 ∧ bits w 17 0 = 0 ∧ bits w 22 18 = x := by
  simp only [packE, packG, packOp, Target.code, Pred.code, bits, Nat.reduceAdd, Nat.reduceSub, Nat.reducePow]
  omega
theorem packI_iff (hw : w < 2 ^ 32) (ho : op < 128) {i : BitVec 14} : w = packI op p i t ↔
    bits w 31 25 = op ∧ bits w 24 23 = p.code ∧ bits w 22 9 = i.toNat ∧ bits w 8 0 = t.code := by
  have := i.isLt; have := Pred_code_lt p; have := Target_code_lt t
  simp only [packI, packOp, bits, Nat.reduceAdd, Nat.reduceSub, Nat.reducePow]
  omega
theorem packShift_iff (hw : w < 2 ^ 32) (ho : op < 128) {i : BitVec 6} : w = packShift op p i t ↔
    bits w 31 25 = op ∧ bits w 24 23 = p.code ∧ bits w 22 15 = 0 ∧ bits w 14 9 = i.toNat ∧ bits w 8 0 = t.code := by
  have := i.isLt; have := Pred_code_lt p; have := Target_code_lt t
  simp only [packShift, packOp, bits, Nat.reduceAdd, Nat.reduceSub, Nat.reducePow]
  omega
theorem packJ_iff (hw : w < 2 ^ 32) (ho : op < 128) {c : Cond} {i : BitVec 11} : w = packJ op p c i t ↔
    bits w 31 25 = op ∧ bits w 24 23 = p.code ∧ bits w 22 20 = c.code ∧ bits w 19 9 = i.toNat ∧ bits w 8 0 = t.code := by
  have := i.isLt; have := Pred_code_lt p; have := Cond_code_lt c; have := Target_code_lt t
  simp only [packJ, packOp, bits, Nat.reduceAdd, Nat.reduceSub, Nat.reducePow]
  omega
theorem packLea_iff (hw : w < 2 ^ 32) (ho : op < 128) {a : BitVec 3} : w = packLea op p a b t ↔
    bits w 31 25 = op ∧ bits w 24 23 = p.code ∧ bits w 22 21 = 0 ∧ bits w 20 18 = a.toNat ∧ bits w 17 9 = b.code ∧ bits w 8 0 = t.code := by
  have := a.isLt; have := Pred_code_lt p; have := Target_code_lt b; have := Target_code_lt t
  simp only [packLea, packG, packOp, bits, Nat.reduceAdd, Nat.reduceSub, Nat.reducePow]
  omega
theorem packExt_iff (hw : w < 2 ^ 32) (ho : op < 128) {g : BitVec 1} {l a : BitVec 6} : w = packExt op p g l a t ↔
    bits w 31 25 = op ∧ bits w 24 23 = p.code ∧ bits w 22 22 = 0 ∧ bits w 21 21 = g.toNat ∧ bits w 20 15 = l.toNat ∧ bits w 14 9 = a.toNat
      ∧ bits w 8 0 = t.code := by
  have := g.isLt; have := l.isLt; have := a.isLt; have := Pred_code_lt p; have := Target_code_lt t
  simp only [packExt, packOp, bits, Nat.reduceAdd, Nat.reduceSub, Nat.reducePow]
  omega
theorem packX_iff (hw : w < 2 ^ 32) (ho : op < 128) {e : BitVec 3} {o : BitVec 20} : w = packX op p e o ↔
    bits w 31 25 = op ∧ bits w 24 23 = p.code ∧ bits w 22 20 = e.toNat ∧ bits w 19 0 = o.toNat := by
  have := e.isLt; have := o.isLt; have := Pred_code_lt p
  simp only [packX, packOp, bits, Nat.reduceAdd, Nat.reduceSub, Nat.reducePow]
  omega
theorem packL_iff (hw : w < 2 ^ 32) (ho : op < 128) {l : BitVec 5} {i : BitVec 9} : w = packL op p l i t ↔
    bits w 31 25 = op ∧ bits w 24 23 = p.code ∧ bits w 22 18 = l.toNat ∧ bits w 17 9 = i.toNat ∧ bits w 8 0 = t.code := by
  have := l.isLt; have := i.isLt; have := Pred_code_lt p; have := Target_code_lt t
  simp only [packL, packOp, bits, Nat.reduceAdd, Nat.reduceSub, Nat.reducePow]
  omega
theorem packLda_iff (hw : w < 2 ^ 32) (ho : op < 128) {l : BitVec 5} {c : Scope} {o : BitVec 6} : w = packLda op p l c o t ↔
    bits w 31 25 = op ∧ bits w 24 23 = p.code ∧ bits w 22 18 = l.toNat ∧ bits w 17 15 = c.code ∧ bits w 14 9 = o.toNat ∧ bits w 8 0 = t.code := by
  have := l.isLt; have := o.isLt; have := Scope_code_lt c; have := Pred_code_lt p; have := Target_code_lt t
  simp only [packLda, packOp, bits, Nat.reduceAdd, Nat.reduceSub, Nat.reducePow]
  omega
theorem packSs_iff (hw : w < 2 ^ 32) (ho : op < 128) {l : BitVec 5} {c : Scope} {o : BitVec 6} : w = packSs op p l c o ↔
    bits w 31 25 = op ∧ bits w 24 23 = p.code ∧ bits w 22 18 = l.toNat ∧ bits w 8 0 = 0 ∧ bits w 17 15 = c.code ∧ bits w 14 9 = o.toNat := by
  have := l.isLt; have := o.isLt; have := Scope_code_lt c; have := Pred_code_lt p
  simp only [packSs, packLda, packOp, Target.code, bits, Nat.reduceAdd, Nat.reduceSub, Nat.reducePow]
  omega
theorem packFence_iff (hw : w < 2 ^ 32) (ho : op < 128) {l : BitVec 5} {c : Scope} {k : FenceKind} : w = packFence op p l c k t ↔
    bits w 31 25 = op ∧ bits w 24 23 = p.code ∧ bits w 22 18 = l.toNat ∧ bits w 12 9 = 0 ∧ bits w 14 13 = k.code
      ∧ bits w 17 15 = c.code ∧ bits w 8 0 = t.code := by
  have := l.isLt; have := Scope_code_lt c; have := FenceKind_code_lt k; have := Pred_code_lt p; have := Target_code_lt t
  simp only [packFence, packOp, bits, Nat.reduceAdd, Nat.reduceSub, Nat.reducePow]
  omega
theorem packR_iff (hw : w < 2 ^ 32) {f3 f7 : Nat} (h3 : f3 < 8) (h7 : f7 < 128) {rs2 rs1 rd : BitVec 5} :
    w = packR f3 f7 rs2.toNat rs1.toNat rd.toNat ↔
    bits w 31 25 = f7 ∧ bits w 24 20 = rs2.toNat ∧ bits w 19 15 = rs1.toNat ∧ bits w 14 12 = f3 ∧ bits w 11 7 = rd.toNat ∧ w % 128 = 0x0B := by
  have := rs2.isLt; have := rs1.isLt; have := rd.isLt
  simp only [packR, bits, Nat.reduceAdd, Nat.reduceSub, Nat.reducePow]
  omega

/-! ## Forms: what is read from a word is what packs to it -/

/-- A field cut to its width holds a bit vector. -/
theorem ofNat_eq_iff {k v : Nat} (h : v < 2 ^ k) {n : BitVec k} : BitVec.ofNat k v = n ↔ v = n.toNat := by
  rw [← BitVec.toNat_inj, BitVec.toNat_ofNat, Nat.mod_eq_of_lt h]

theorem bits_lt (v h l : Nat) : bits v h l < 2 ^ (h + 1 - l) := Nat.mod_lt _ (Nat.two_pow_pos _)

theorem ite_error_ok_iff {c : Prop} [Decidable c] {e : DecodeError} {i j : Instr} :
    (if c then .error e else .ok i : Except DecodeError Instr) = .ok j ↔ ¬ c ∧ i = j := by
  split <;> simp [*]
theorem ite_ok_error_iff {c : Prop} [Decidable c] {e : DecodeError} {i j : Instr} :
    (if c then .ok i else .error e : Except DecodeError Instr) = .ok j ↔ c ∧ i = j := by
  split <;> simp [*]
theorem ite_throw_iff {c : Prop} [Decidable c] {e : DecodeError} {k : Unit → Except DecodeError Instr} {r : Except DecodeError Instr} {i : Instr} :
    (if c then .error e >>= k else r) = .ok i ↔ ¬ c ∧ r = .ok i := by
  split
  · exact ⟨(nomatch ·), fun h => absurd ‹_› h.1⟩
  · simp [*]
theorem noPred_ok_iff {w : Nat} {u : Unit} : noPred w = .ok u ↔ bits w 24 23 = 0 := by
  unfold noPred
  split <;> simp [*]
theorem onlyMember_ok_iff {w : Nat} {r : Except DecodeError Instr} {i : Instr} : onlyMember w r = .ok i ↔ bits w 22 18 = 0 ∧ r = .ok i := by
  unfold onlyMember
  split <;> simp [*]

theorem formA_iff (hw : w < 2 ^ 32) {g : BitVec 5 → Target → Target → Instr} {i : Instr} : formA w g = .ok i ↔
    ∃ r b t, w = packA (bits w 31 25) r b t ∧ ¬ bits w 22 18 = 30 ∧ g r b t = i := by
  simp only [formA, bind_ok_iff, targetOf_ok_iff, zeroField_ok_iff, packA_iff hw (bits_lt w 31 25), ← ofNat_eq_iff (k := 5) (bits_lt w 22 18), and_assoc,
      exists_and_left, exists_eq_left', exists_const, true_and, ite_error_ok_iff]

theorem formW_iff (hw : w < 2 ^ 32) {g : Pred → BitVec 5 → Instr} {i : Instr} : formW w g = .ok i ↔
    ∃ p r, w = packW (bits w 31 25) p r ∧ g p r = i := by
  simp only [formW, predIn, bind_ok_iff, predOf_ok_iff, zeroField_ok_iff, packW_iff hw (bits_lt w 31 25), ← ofNat_eq_iff (k := 5) (bits_lt w 22 18), and_assoc,
      exists_and_left, exists_eq_left', exists_const, true_and, Except.ok.injEq]

theorem formC_iff (hw : w < 2 ^ 32) {g : BitVec 16 → Target → Instr} {i : Instr} : formC w g = .ok i ↔
    ∃ k t, w = packC (bits w 31 25) k t ∧ g k t = i := by
  simp only [formC, bind_ok_iff, targetOf_ok_iff, packC_iff hw (bits_lt w 31 25), ← ofNat_eq_iff (k := 16) (bits_lt w 24 9), and_assoc, exists_and_left,
      exists_eq_left', true_and, Except.ok.injEq]

theorem formG_iff (hw : w < 2 ^ 32) {g : Pred → Target → Target → Instr} {i : Instr} : formG w g = .ok i ↔
    ∃ p b t, w = packG (bits w 31 25) (bits w 22 18) p b t ∧ g p b t = i := by
  simp only [formG, predIn, bind_ok_iff, predOf_ok_iff, targetOf_ok_iff, packG_iff hw (bits_lt w 31 25) (bits_lt w 22 18), and_assoc, exists_and_left,
      true_and, Except.ok.injEq]

theorem formG3_iff (hw : w < 2 ^ 32) {g : Target → Target → Instr} {i : Instr} : formG3 w g = .ok i ↔
    ∃ b t, w = packG3 (bits w 31 25) (bits w 22 18) b t ∧ g b t = i := by
  simp only [formG3, noPred_ok_iff, bind_ok_iff, targetOf_ok_iff, packG3, packG_iff hw (bits_lt w 31 25) (bits_lt w 22 18), Pred.code, and_assoc,
      exists_and_left, exists_const, true_and, Except.ok.injEq]

theorem formP_iff (hw : w < 2 ^ 32) {g : Pred → Instr} {i : Instr} : formP w g = .ok i ↔
    ∃ p, w = packP (bits w 31 25) (bits w 22 18) p ∧ g p = i := by
  simp only [formP, predIn, bind_ok_iff, predOf_ok_iff, zeroField_ok_iff, packP_iff hw (bits_lt w 31 25) (bits_lt w 22 18), and_assoc, exists_and_left,
      exists_const, true_and, Except.ok.injEq]

theorem formE_iff (hw : w < 2 ^ 32) {g : Instr} {i : Instr} : formE w g = .ok i ↔
    w = packE (bits w 31 25) (bits w 22 18) ∧ g = i := by
  simp only [formE, noPred_ok_iff, bind_ok_iff, zeroField_ok_iff, packE_iff hw (bits_lt w 31 25) (bits_lt w 22 18), and_assoc, exists_and_left, exists_const,
      true_and, Except.ok.injEq]

theorem formI_iff (hw : w < 2 ^ 32) {g : Pred → BitVec 14 → Target → Instr} {i : Instr} : formI w g = .ok i ↔
    ∃ p n t, w = packI (bits w 31 25) p n t ∧ g p n t = i := by
  simp only [formI, predIn, bind_ok_iff, predOf_ok_iff, targetOf_ok_iff, packI_iff hw (bits_lt w 31 25), ← ofNat_eq_iff (k := 14) (bits_lt w 22 9), and_assoc,
      exists_and_left, exists_eq_left', true_and, Except.ok.injEq]

theorem formShift_iff (hw : w < 2 ^ 32) {g : Pred → BitVec 6 → Target → Instr} {i : Instr} : formShift w g = .ok i ↔
    ∃ p n t, w = packShift (bits w 31 25) p n t ∧ g p n t = i := by
  simp only [formShift, predIn, bind_ok_iff, predOf_ok_iff, targetOf_ok_iff, zeroField_ok_iff, packShift_iff hw (bits_lt w 31 25), ← ofNat_eq_iff (k :=
      6) (bits_lt w 14 9), and_assoc, exists_and_left, exists_eq_left', exists_const, true_and, Except.ok.injEq]

theorem formCmp_iff (hw : w < 2 ^ 32) {g : Pred → Cond → Target → Target → Instr} {i : Instr} : formCmp w g = .ok i ↔
    ∃ p c b t, w = packCmp (bits w 31 25) p c b t ∧ g p c b t = i := by
  simp only [formCmp, predIn, bind_ok_iff, predOf_ok_iff, targetOf_ok_iff, orError_ok_iff, packCmp,
      packG_iff hw (bits_lt w 31 25) (Nat.lt_succ_of_le (Nat.le_trans (Cond_code_lt _) (by decide))), condOf_eq_iff, and_assoc,
      exists_and_left, true_and, Except.ok.injEq]

theorem formJ_iff (hw : w < 2 ^ 32) {g : Pred → Cond → BitVec 11 → Target → Instr} {i : Instr} : formJ w g = .ok i ↔
    ∃ p c n t, w = packJ (bits w 31 25) p c n t ∧ g p c n t = i := by
  simp only [formJ, predIn, bind_ok_iff, predOf_ok_iff, targetOf_ok_iff, orError_ok_iff, packJ_iff hw (bits_lt w 31 25), condOf_eq_iff, ← ofNat_eq_iff (k :=
      11) (bits_lt w 19 9), and_assoc, exists_and_left, exists_eq_left', true_and, Except.ok.injEq]

theorem formLea_iff (hw : w < 2 ^ 32) {g : Pred → BitVec 3 → Target → Target → Instr} {i : Instr} : formLea w g = .ok i ↔
    ∃ p a b t, w = packLea (bits w 31 25) p a b t ∧ g p a b t = i := by
  simp only [formLea, predIn, bind_ok_iff, predOf_ok_iff, targetOf_ok_iff, ite_throw_iff, ne_eq, Classical.not_not, packLea_iff hw (bits_lt w 31 25),
      ← ofNat_eq_iff (k := 3) (bits_lt w 20 18), and_assoc, exists_and_left, exists_eq_left', true_and, Except.ok.injEq]

theorem formExt_iff (hw : w < 2 ^ 32) {g : Pred → BitVec 1 → BitVec 6 → BitVec 6 → Target → Instr} {i : Instr} : formExt w g = .ok i ↔
    ∃ p s l a t, w = packExt (bits w 31 25) p s l a t ∧ bits w 14 9 + extLen (bits w 20 15) ≤ 64 ∧ g p s l a t = i := by
  simp only [formExt, predIn, bind_ok_iff, predOf_ok_iff, targetOf_ok_iff, zeroField_ok_iff, packExt_iff hw (bits_lt w 31 25), ← ofNat_eq_iff (k :=
      1) (bits_lt w 21 21), ← ofNat_eq_iff (k := 6) (bits_lt w 20 15), ← ofNat_eq_iff (k := 6) (bits_lt w 14 9), and_assoc, exists_and_left, exists_eq_left',
      exists_const, true_and, ite_ok_error_iff]

theorem formX_iff (hw : w < 2 ^ 32) {g : Pred → BitVec 3 → BitVec 20 → Instr} {i : Instr} : formX w g = .ok i ↔
    ∃ p e o, w = packX (bits w 31 25) p e o ∧ g p e o = i := by
  simp only [formX, predIn, bind_ok_iff, predOf_ok_iff, packX_iff hw (bits_lt w 31 25), ← ofNat_eq_iff (k := 3) (bits_lt w 22 20), ← ofNat_eq_iff (k :=
      20) (bits_lt w 19 0), and_assoc, exists_and_left, exists_eq_left', true_and, Except.ok.injEq]

theorem formXl_iff (hw : w < 2 ^ 32) {g : Pred → BitVec 3 → Instr} {i : Instr} : formXl w g = .ok i ↔
    ∃ p e, w = packXl (bits w 31 25) p e ∧ g p e = i := by
  simp only [formXl, predIn, bind_ok_iff, predOf_ok_iff, zeroField_ok_iff, packXl, packX_iff hw (bits_lt w 31 25), BitVec.toNat_ofNat, Nat.zero_mod,
      ← ofNat_eq_iff (k := 3) (bits_lt w 22 20), and_assoc, exists_and_left, exists_eq_left', exists_const, true_and, Except.ok.injEq]

theorem formL_iff (hw : w < 2 ^ 32) {g : Pred → BitVec 5 → BitVec 9 → Target → Instr} {i : Instr} : formL w g = .ok i ↔
    ∃ p l n t, w = packL (bits w 31 25) p l n t ∧ g p l n t = i := by
  simp only [formL, predIn, bind_ok_iff, predOf_ok_iff, targetOf_ok_iff, packL_iff hw (bits_lt w 31 25), ← ofNat_eq_iff (k := 5) (bits_lt w 22 18),
      ← ofNat_eq_iff (k := 9) (bits_lt w 17 9), and_assoc, exists_and_left, exists_eq_left', true_and, Except.ok.injEq]

theorem formLda_iff (hw : w < 2 ^ 32) {g : Pred → BitVec 5 → Scope → BitVec 6 → Target → Instr} {i : Instr} : formLda w g = .ok i ↔
    ∃ p l c o t, w = packLda (bits w 31 25) p l c o t ∧ g p l c o t = i := by
  simp only [formLda, predIn, bind_ok_iff, predOf_ok_iff, targetOf_ok_iff, orError_ok_iff, packLda_iff hw (bits_lt w 31 25), scopeOf_eq_iff,
      ← ofNat_eq_iff (k := 5) (bits_lt w 22 18), ← ofNat_eq_iff (k := 6) (bits_lt w 14 9), and_assoc, exists_and_left, exists_eq_left', true_and, Except.ok.injEq]

theorem formS_iff (hw : w < 2 ^ 32) {g : Pred → BitVec 5 → BitVec 9 → Instr} {i : Instr} : formS w g = .ok i ↔
    ∃ p l n, w = packS (bits w 31 25) p l n ∧ g p l n = i := by
  simp only [formS, predIn, bind_ok_iff, predOf_ok_iff, zeroField_ok_iff, packS, packL_iff hw (bits_lt w 31 25), Target.code, ← ofNat_eq_iff (k :=
      5) (bits_lt w 22 18), ← ofNat_eq_iff (k := 9) (bits_lt w 17 9), and_assoc, exists_and_left, exists_eq_left', exists_const, true_and, Except.ok.injEq]

theorem formSs_iff (hw : w < 2 ^ 32) {g : Pred → BitVec 5 → Scope → BitVec 6 → Instr} {i : Instr} : formSs w g = .ok i ↔
    ∃ p l c o, w = packSs (bits w 31 25) p l c o ∧ g p l c o = i := by
  simp only [formSs, predIn, bind_ok_iff, predOf_ok_iff, zeroField_ok_iff, orError_ok_iff, packSs_iff hw (bits_lt w 31 25), scopeOf_eq_iff,
      ← ofNat_eq_iff (k := 5) (bits_lt w 22 18), ← ofNat_eq_iff (k := 6) (bits_lt w 14 9), and_assoc, exists_and_left, exists_eq_left', exists_const, true_and,
      Except.ok.injEq]

theorem formFence_iff (hw : w < 2 ^ 32) {g : Pred → BitVec 5 → Scope → FenceKind → Target → Instr} {i : Instr} : formFence w g = .ok i ↔
    ∃ p l k c t, w = packFence (bits w 31 25) p l c k t ∧ fenceWf c k = true ∧ g p l c k t = i := by
  simp only [formFence, predIn, bind_ok_iff, predOf_ok_iff, targetOf_ok_iff, zeroField_ok_iff, orError_ok_iff, packFence_iff hw (bits_lt w 31 25),
      scopeOf_eq_iff, fenceKindOf_eq_iff, ← ofNat_eq_iff (k := 5) (bits_lt w 22 18), and_assoc, exists_and_left, exists_eq_left', exists_const, true_and,
      ite_ok_error_iff]

theorem formAmo_iff (hw : w < 2 ^ 32) {g : Pred → AmoOp → Target → Target → Instr} {i : Instr} : formAmo w g = .ok i ↔
    ∃ p c b t, w = packAmo (bits w 31 25) p c b t ∧ amoWf p c = true ∧ g p c b t = i := by
  simp only [formAmo, predIn, bind_ok_iff, predOf_ok_iff, targetOf_ok_iff, orError_ok_iff, packAmo,
      packG_iff hw (bits_lt w 31 25) (Nat.lt_succ_of_le (AmoOp_code_lt _)), amoOpOf_eq_iff, and_assoc, exists_and_left, true_and, ite_ok_error_iff]

theorem formCvt_iff (hw : w < 2 ^ 32) {g : Pred → CvtPair → Target → Target → Instr} {i : Instr} : formCvt w g = .ok i ↔
    ∃ p c b t, w = packCvt (bits w 31 25) p c b t ∧ g p c b t = i := by
  simp only [formCvt, predIn, bind_ok_iff, predOf_ok_iff, targetOf_ok_iff, orError_ok_iff, packCvt,
      packG_iff hw (bits_lt w 31 25) (Nat.lt_succ_of_le (CvtPair_code_lt _)), cvtPairOf_eq_iff, and_assoc, exists_and_left, true_and, Except.ok.injEq]

theorem formVcmp_iff (hw : w < 2 ^ 32) {g : VCond → Instr} {i : Instr} : formVcmp w g = .ok i ↔
    ∃ c, w = packVcmp (bits w 31 25) c ∧ g c = i := by
  simp only [formVcmp, noPred_ok_iff, bind_ok_iff, zeroField_ok_iff, orError_ok_iff, packVcmp,
      packE_iff hw (bits_lt w 31 25) (Nat.lt_succ_of_le (VCond_code_lt _)), vcondOf_eq_iff, and_assoc, exists_and_left, exists_const, true_and, Except.ok.injEq]

theorem formVenc_iff (hw : w < 2 ^ 32) {g : CodeTable → Instr} {i : Instr} : formVenc w g = .ok i ↔
    ∃ c, w = packVenc (bits w 31 25) c ∧ g c = i := by
  simp only [formVenc, noPred_ok_iff, bind_ok_iff, zeroField_ok_iff, orError_ok_iff, packVenc,
      packE_iff hw (bits_lt w 31 25) (Nat.lt_succ_of_le (CodeTable_code_lt _)), codeTableOf_eq_iff, and_assoc, exists_and_left, exists_const, true_and,
      Except.ok.injEq]

theorem formMrot_iff (hw : w < 2 ^ 32) {g : MmaPair → Instr} {i : Instr} : formMrot w g = .ok i ↔
    ∃ c, w = packMrot (bits w 31 25) c ∧ g c = i := by
  simp only [formMrot, noPred_ok_iff, bind_ok_iff, zeroField_ok_iff, orError_ok_iff, packMrot,
      packE_iff hw (bits_lt w 31 25) (Nat.lt_succ_of_le (MmaPair_code_lt _)), mmaPairOf_eq_iff, and_assoc, exists_and_left, exists_const, true_and, Except.ok.injEq]

theorem formNw_iff (hw : w < 2 ^ 32) {g : Pred → BitVec 14 → Instr} {i : Instr} : formNw w g = .ok i ↔
    ∃ p n, w = packNw (bits w 31 25) p n ∧ g p n = i := by
  simp only [formNw, predIn, bind_ok_iff, predOf_ok_iff, zeroField_ok_iff, packNw, packI_iff hw (bits_lt w 31 25), Target.code, ← ofNat_eq_iff (k :=
      14) (bits_lt w 22 9), and_assoc, exists_and_left, exists_eq_left', exists_const, true_and, Except.ok.injEq]

/-! ## The fields of a packed word -/

theorem packG3_lt (ho : op < 128) (hx : x < 32) : packG3 op x b t < 2 ^ 32 := packG_lt ho (by omega)
theorem packP_lt (ho : op < 128) (hx : x < 32) : packP op x p < 2 ^ 32 := packG_lt ho (by omega)
theorem packE_lt (ho : op < 128) (hx : x < 32) : packE op x < 2 ^ 32 := packG_lt ho (by omega)
theorem packXl_lt (ho : op < 128) {e : BitVec 3} : packXl op p e < 2 ^ 32 := packX_lt ho
theorem packS_lt (ho : op < 128) {l : BitVec 5} {n : BitVec 9} : packS op p l n < 2 ^ 32 := packL_lt ho
theorem packSs_lt (ho : op < 128) {l : BitVec 5} {c : Scope} {o : BitVec 6} : packSs op p l c o < 2 ^ 32 := packLda_lt ho
theorem packNw_lt (ho : op < 128) {n : BitVec 14} : packNw op p n < 2 ^ 32 := packI_lt ho
theorem op_packA (ho : op < 128) {r : BitVec 5} : bits (packA op r b t) 31 25 = op := ((packA_iff (packA_lt ho) ho).1 rfl).1
theorem op_packW (ho : op < 128) {r : BitVec 5} : bits (packW op p r) 31 25 = op := ((packW_iff (packW_lt ho) ho).1 rfl).1
theorem op_packC (ho : op < 128) {k : BitVec 16} : bits (packC op k t) 31 25 = op := ((packC_iff (packC_lt ho) ho).1 rfl).1
theorem op_packI (ho : op < 128) {n : BitVec 14} : bits (packI op p n t) 31 25 = op := ((packI_iff (packI_lt ho) ho).1 rfl).1
theorem op_packShift (ho : op < 128) {n : BitVec 6} : bits (packShift op p n t) 31 25 = op := ((packShift_iff (packShift_lt ho) ho).1 rfl).1
theorem op_packJ (ho : op < 128) {c : Cond} {n : BitVec 11} : bits (packJ op p c n t) 31 25 = op := ((packJ_iff (packJ_lt ho) ho).1 rfl).1
theorem op_packExt (ho : op < 128) {s : BitVec 1} {l a : BitVec 6} : bits (packExt op p s l a t) 31 25 = op := ((packExt_iff (packExt_lt ho) ho).1 rfl).1
theorem op_packX (ho : op < 128) {e : BitVec 3} {o : BitVec 20} : bits (packX op p e o) 31 25 = op := ((packX_iff (packX_lt ho) ho).1 rfl).1
theorem op_packL (ho : op < 128) {l : BitVec 5} {n : BitVec 9} : bits (packL op p l n t) 31 25 = op := ((packL_iff (packL_lt ho) ho).1 rfl).1
theorem op_packLda (ho : op < 128) {l : BitVec 5} {c : Scope} {o : BitVec 6} : bits (packLda op p l c o t) 31 25 = op := ((packLda_iff (packLda_lt ho) ho).1 rfl).1
theorem op_packFence (ho : op < 128) {l : BitVec 5} {c : Scope} {k : FenceKind} : bits (packFence op p l c k t) 31 25 = op :=
    ((packFence_iff (packFence_lt ho) ho).1 rfl).1
theorem op_packG (ho : op < 128) (hx : x < 32) : bits (packG op x p b t) 31 25 = op := ((packG_iff (packG_lt ho (by omega)) ho hx).1 rfl).1
theorem xop_packG (ho : op < 128) (hx : x < 32) : bits (packG op x p b t) 22 18 = x := ((packG_iff (packG_lt ho (by omega)) ho hx).1 rfl).2.2.1
theorem op_packG3 (ho : op < 128) (hx : x < 32) : bits (packG3 op x b t) 31 25 = op := op_packG ho hx
theorem xop_packG3 (ho : op < 128) (hx : x < 32) : bits (packG3 op x b t) 22 18 = x := xop_packG ho hx
theorem op_packP (ho : op < 128) (hx : x < 32) : bits (packP op x p) 31 25 = op := op_packG ho hx
theorem xop_packP (ho : op < 128) (hx : x < 32) : bits (packP op x p) 22 18 = x := xop_packG ho hx
theorem op_packE (ho : op < 128) (hx : x < 32) : bits (packE op x) 31 25 = op := op_packG ho hx
theorem xop_packE (ho : op < 128) (hx : x < 32) : bits (packE op x) 22 18 = x := xop_packG ho hx
theorem op_packCmp (ho : op < 128) {c : Cond} : bits (packCmp op p c b t) 31 25 = op :=
  op_packG ho (Nat.lt_succ_of_le (Nat.le_trans (Cond_code_lt c) (by decide)))
theorem op_packLea (ho : op < 128) {a : BitVec 3} : bits (packLea op p a b t) 31 25 = op := op_packG ho (Nat.lt_trans a.isLt (by decide))
theorem op_packXl (ho : op < 128) {e : BitVec 3} : bits (packXl op p e) 31 25 = op := op_packX ho
theorem op_packS (ho : op < 128) {l : BitVec 5} {n : BitVec 9} : bits (packS op p l n) 31 25 = op := op_packL ho
theorem op_packSs (ho : op < 128) {l : BitVec 5} {c : Scope} {o : BitVec 6} : bits (packSs op p l c o) 31 25 = op := op_packLda ho
theorem op_packNw (ho : op < 128) {n : BitVec 14} : bits (packNw op p n) 31 25 = op := op_packI ho
theorem op_packAmo (ho : op < 128) {c : AmoOp} : bits (packAmo op p c b t) 31 25 = op := op_packG ho (Nat.lt_succ_of_le (AmoOp_code_lt c))
theorem op_packCvt (ho : op < 128) {c : CvtPair} : bits (packCvt op p c b t) 31 25 = op := op_packG ho (Nat.lt_succ_of_le (CvtPair_code_lt c))
theorem op_packVcmp (ho : op < 128) {c : VCond} : bits (packVcmp op c) 31 25 = op := op_packG ho (Nat.lt_succ_of_le (VCond_code_lt c))
theorem op_packVenc (ho : op < 128) {c : CodeTable} : bits (packVenc op c) 31 25 = op := op_packG ho (Nat.lt_succ_of_le (CodeTable_code_lt c))
theorem op_packMrot (ho : op < 128) {c : MmaPair} : bits (packMrot op c) 31 25 = op := op_packG ho (Nat.lt_succ_of_le (MmaPair_code_lt c))

theorem formA_pack (ho : op < 128) {g : BitVec 5 → Target → Target → Instr} {r : BitVec 5} (h : r ≠ 30#5) : formA (packA op r b t) g = .ok (g r b t) :=
  (formA_iff (packA_lt ho)).2 ⟨r, b, t, by rw [op_packA ho], by rw [((packA_iff (packA_lt ho) ho).1 rfl).2.2.1]; exact fun e => h (BitVec.eq_of_toNat_eq e), rfl⟩
theorem formW_pack (ho : op < 128) {g : Pred → BitVec 5 → Instr} {r : BitVec 5} : formW (packW op p r) g = .ok (g p r) :=
  (formW_iff (packW_lt ho)).2 ⟨p, r, by rw [op_packW ho], rfl⟩
theorem formC_pack (ho : op < 128) {g : BitVec 16 → Target → Instr} {k : BitVec 16} : formC (packC op k t) g = .ok (g k t) :=
  (formC_iff (packC_lt ho)).2 ⟨k, t, by rw [op_packC ho], rfl⟩
theorem formG_pack (ho : op < 128) (hx : x < 32) {g : Pred → Target → Target → Instr} : formG (packG op x p b t) g = .ok (g p b t) :=
  (formG_iff (packG_lt ho (by omega))).2 ⟨p, b, t, by rw [op_packG ho hx, xop_packG ho hx], rfl⟩
theorem formG3_pack (ho : op < 128) (hx : x < 32) {g : Target → Target → Instr} : formG3 (packG3 op x b t) g = .ok (g b t) :=
  (formG3_iff (packG3_lt ho hx)).2 ⟨b, t, by rw [op_packG3 ho hx, xop_packG3 ho hx], rfl⟩
theorem formP_pack (ho : op < 128) (hx : x < 32) {g : Pred → Instr} : formP (packP op x p) g = .ok (g p) :=
  (formP_iff (packP_lt ho hx)).2 ⟨p, by rw [op_packP ho hx, xop_packP ho hx], rfl⟩
theorem formE_pack (ho : op < 128) (hx : x < 32) {g : Instr} : formE (packE op x) g = .ok (g) :=
  (formE_iff (packE_lt ho hx)).2 ⟨by rw [op_packE ho hx, xop_packE ho hx], rfl⟩
theorem formI_pack (ho : op < 128) {g : Pred → BitVec 14 → Target → Instr} {n : BitVec 14} : formI (packI op p n t) g = .ok (g p n t) :=
  (formI_iff (packI_lt ho)).2 ⟨p, n, t, by rw [op_packI ho], rfl⟩
theorem formShift_pack (ho : op < 128) {g : Pred → BitVec 6 → Target → Instr} {n : BitVec 6} : formShift (packShift op p n t) g = .ok (g p n t) :=
  (formShift_iff (packShift_lt ho)).2 ⟨p, n, t, by rw [op_packShift ho], rfl⟩
theorem formCmp_pack (ho : op < 128) {g : Pred → Cond → Target → Target → Instr} {c : Cond} : formCmp (packCmp op p c b t) g = .ok (g p c b t) :=
  (formCmp_iff (packCmp_lt ho)).2 ⟨p, c, b, t, by rw [op_packCmp ho], rfl⟩
theorem formJ_pack (ho : op < 128) {g : Pred → Cond → BitVec 11 → Target → Instr} {c : Cond} {n : BitVec 11} : formJ (packJ op p c n t) g = .ok (g p c n t) :=
  (formJ_iff (packJ_lt ho)).2 ⟨p, c, n, t, by rw [op_packJ ho], rfl⟩
theorem formLea_pack (ho : op < 128) {g : Pred → BitVec 3 → Target → Target → Instr} {a : BitVec 3} : formLea (packLea op p a b t) g = .ok (g p a b t) :=
  (formLea_iff (packLea_lt ho)).2 ⟨p, a, b, t, by rw [op_packLea ho], rfl⟩
theorem formExt_pack (ho : op < 128) {g : Pred → BitVec 1 → BitVec 6 → BitVec 6 → Target → Instr} {s : BitVec 1} {l a : BitVec 6}
    (h : a.toNat + extLen l.toNat ≤ 64) : formExt (packExt op p s l a t) g = .ok (g p s l a t) := by
  have hlt := packExt_lt (p := p) (g := s) (l := l) (s := a) (t := t) ho
  obtain ⟨-, -, -, -, hl, ha, -⟩ := (packExt_iff hlt ho).1 rfl
  exact (formExt_iff hlt).2 ⟨p, s, l, a, t, by rw [op_packExt ho], by rw [hl, ha]; exact h, rfl⟩
theorem formX_pack (ho : op < 128) {g : Pred → BitVec 3 → BitVec 20 → Instr} {e : BitVec 3} {o : BitVec 20} : formX (packX op p e o) g = .ok (g p e o) :=
  (formX_iff (packX_lt ho)).2 ⟨p, e, o, by rw [op_packX ho], rfl⟩
theorem formXl_pack (ho : op < 128) {g : Pred → BitVec 3 → Instr} {e : BitVec 3} : formXl (packXl op p e) g = .ok (g p e) :=
  (formXl_iff (packXl_lt ho)).2 ⟨p, e, by rw [op_packXl ho], rfl⟩
theorem formL_pack (ho : op < 128) {g : Pred → BitVec 5 → BitVec 9 → Target → Instr} {l : BitVec 5} {n : BitVec 9} : formL (packL op p l n t) g = .ok (g p l n t) :=
  (formL_iff (packL_lt ho)).2 ⟨p, l, n, t, by rw [op_packL ho], rfl⟩
theorem formLda_pack (ho : op < 128) {g : Pred → BitVec 5 → Scope → BitVec 6 → Target →
    Instr} {l : BitVec 5} {c : Scope} {o : BitVec 6} : formLda (packLda op p l c o t) g = .ok (g p l c o t) :=
  (formLda_iff (packLda_lt ho)).2 ⟨p, l, c, o, t, by rw [op_packLda ho], rfl⟩
theorem formS_pack (ho : op < 128) {g : Pred → BitVec 5 → BitVec 9 → Instr} {l : BitVec 5} {n : BitVec 9} : formS (packS op p l n) g = .ok (g p l n) :=
  (formS_iff (packS_lt ho)).2 ⟨p, l, n, by rw [op_packS ho], rfl⟩
theorem formSs_pack (ho : op < 128) {g : Pred → BitVec 5 → Scope → BitVec 6 →
    Instr} {l : BitVec 5} {c : Scope} {o : BitVec 6} : formSs (packSs op p l c o) g = .ok (g p l c o) :=
  (formSs_iff (packSs_lt ho)).2 ⟨p, l, c, o, by rw [op_packSs ho], rfl⟩
theorem formFence_pack (ho : op < 128) {g : Pred → BitVec 5 → Scope → FenceKind → Target →
    Instr} {l : BitVec 5} {c : Scope} {k : FenceKind} (h : fenceWf c k = true) : formFence (packFence op p l c k t) g = .ok (g p l c k t) :=
  (formFence_iff (packFence_lt ho)).2 ⟨p, l, k, c, t, by rw [op_packFence ho], h, rfl⟩
theorem formAmo_pack (ho : op < 128) {g : Pred → AmoOp → Target → Target →
    Instr} {c : AmoOp} (h : amoWf p c = true) : formAmo (packAmo op p c b t) g = .ok (g p c b t) :=
  (formAmo_iff (packAmo_lt ho)).2 ⟨p, c, b, t, by rw [op_packAmo ho], h, rfl⟩
theorem formCvt_pack (ho : op < 128) {g : Pred → CvtPair → Target → Target → Instr} {c : CvtPair} : formCvt (packCvt op p c b t) g = .ok (g p c b t) :=
  (formCvt_iff (packCvt_lt ho)).2 ⟨p, c, b, t, by rw [op_packCvt ho], rfl⟩
theorem formVcmp_pack (ho : op < 128) {g : VCond → Instr} {c : VCond} : formVcmp (packVcmp op c) g = .ok (g c) :=
  (formVcmp_iff (packVcmp_lt ho)).2 ⟨c, by rw [op_packVcmp ho], rfl⟩
theorem formVenc_pack (ho : op < 128) {g : CodeTable → Instr} {c : CodeTable} : formVenc (packVenc op c) g = .ok (g c) :=
  (formVenc_iff (packVenc_lt ho)).2 ⟨c, by rw [op_packVenc ho], rfl⟩
theorem formMrot_pack (ho : op < 128) {g : MmaPair → Instr} {c : MmaPair} : formMrot (packMrot op c) g = .ok (g c) :=
  (formMrot_iff (packMrot_lt ho)).2 ⟨c, by rw [op_packMrot ho], rfl⟩
theorem formNw_pack (ho : op < 128) {g : Pred → BitVec 14 → Instr} {n : BitVec 14} : formNw (packNw op p n) g = .ok (g p n) :=
  (formNw_iff (packNw_lt ho)).2 ⟨p, n, by rw [op_packNw ho], rfl⟩

/-! ## Decoding an encoded instruction -/

/-- The word is one of 32 bits that a block reads as the instruction. -/
def Reads (w : Nat) (i : Instr) : Prop := w < 2 ^ 32 ∧ decodeWord w = .ok i

theorem readsA {g : BitVec 5 → Target → Target → Instr} {r : BitVec 5} (ho : op < 128) (hs : r ≠ 30#5) (h : some (packA op r b t) = some w) (hd : ∀ {w},
    bits w 31 25 = op → decodeWord w = formA w g) :
    Reads w (g r b t) := by
  obtain rfl := Option.some.inj h
  exact ⟨packA_lt ho, (hd (op_packA ho)).trans (formA_pack ho hs)⟩
theorem readsW {g : Pred → BitVec 5 → Instr} {r : BitVec 5} (ho : op < 128) (h : some (packW op p r) = some w) (hd : ∀ {w}, bits w 31 25 = op →
    decodeWord w = formW w g) :
    Reads w (g p r) := by
  obtain rfl := Option.some.inj h
  exact ⟨packW_lt ho, (hd (op_packW ho)).trans (formW_pack ho)⟩
theorem readsC {g : BitVec 16 → Target → Instr} {k : BitVec 16} (ho : op < 128) (h : some (packC op k t) = some w) (hd : ∀ {w}, bits w 31 25 = op →
    decodeWord w = formC w g) :
    Reads w (g k t) := by
  obtain rfl := Option.some.inj h
  exact ⟨packC_lt ho, (hd (op_packC ho)).trans (formC_pack ho)⟩
theorem readsG {g : Pred → Target → Target → Instr} (ho : op < 128) (hx : x < 32) (h : some (packG op x p b t) = some w) (hd : ∀ {w}, bits w 31 25 = op →
    bits w 22 18 = x → decodeWord w = formG w g) :
    Reads w (g p b t) := by
  obtain rfl := Option.some.inj h
  exact ⟨packG_lt ho (by omega), (hd (op_packG ho hx) (xop_packG ho hx)).trans (formG_pack ho hx)⟩
theorem readsG3 {g : Target → Target → Instr} (ho : op < 128) (hx : x < 32) (h : some (packG3 op x b t) = some w) (hd : ∀ {w}, bits w 31 25 = op →
    bits w 22 18 = x → decodeWord w = formG3 w g) :
    Reads w (g b t) := by
  obtain rfl := Option.some.inj h
  exact ⟨packG3_lt ho hx, (hd (op_packG3 ho hx) (xop_packG3 ho hx)).trans (formG3_pack ho hx)⟩
theorem readsP {g : Pred → Instr} (ho : op < 128) (hx : x < 32) (h : some (packP op x p) = some w) (hd : ∀ {w}, bits w 31 25 = op → bits w 22 18 = x →
    decodeWord w = formP w g) :
    Reads w (g p) := by
  obtain rfl := Option.some.inj h
  exact ⟨packP_lt ho hx, (hd (op_packP ho hx) (xop_packP ho hx)).trans (formP_pack ho hx)⟩
theorem readsE {g : Instr} (ho : op < 128) (hx : x < 32) (h : some (packE op x) = some w) (hd : ∀ {w}, bits w 31 25 = op → bits w 22 18 = x →
    decodeWord w = formE w g) :
    Reads w (g) := by
  obtain rfl := Option.some.inj h
  exact ⟨packE_lt ho hx, (hd (op_packE ho hx) (xop_packE ho hx)).trans (formE_pack ho hx)⟩
theorem readsI {g : Pred → BitVec 14 → Target → Instr} {n : BitVec 14} (ho : op < 128) (h : some (packI op p n t) = some w) (hd : ∀ {w}, bits w 31 25 = op →
    decodeWord w = formI w g) :
    Reads w (g p n t) := by
  obtain rfl := Option.some.inj h
  exact ⟨packI_lt ho, (hd (op_packI ho)).trans (formI_pack ho)⟩
theorem readsShift {g : Pred → BitVec 6 → Target → Instr} {n : BitVec 6} (ho : op < 128) (h : some (packShift op p n t) = some w) (hd : ∀ {w},
    bits w 31 25 = op → decodeWord w = formShift w g) :
    Reads w (g p n t) := by
  obtain rfl := Option.some.inj h
  exact ⟨packShift_lt ho, (hd (op_packShift ho)).trans (formShift_pack ho)⟩
theorem readsCmp {g : Pred → Cond → Target → Target → Instr} {c : Cond} (ho : op < 128) (h : some (packCmp op p c b t) = some w) (hd : ∀ {w},
    bits w 31 25 = op → decodeWord w = formCmp w g) :
    Reads w (g p c b t) := by
  obtain rfl := Option.some.inj h
  exact ⟨packCmp_lt ho, (hd (op_packCmp ho)).trans (formCmp_pack ho)⟩
theorem readsJ {g : Pred → Cond → BitVec 11 → Target → Instr} {c : Cond} {n : BitVec 11} (ho : op < 128) (h : some (packJ op p c n t) = some w) (hd : ∀ {w},
    bits w 31 25 = op → decodeWord w = formJ w g) :
    Reads w (g p c n t) := by
  obtain rfl := Option.some.inj h
  exact ⟨packJ_lt ho, (hd (op_packJ ho)).trans (formJ_pack ho)⟩
theorem readsLea {g : Pred → BitVec 3 → Target → Target → Instr} {a : BitVec 3} (ho : op < 128) (h : some (packLea op p a b t) = some w) (hd : ∀ {w},
    bits w 31 25 = op → decodeWord w = formLea w g) :
    Reads w (g p a b t) := by
  obtain rfl := Option.some.inj h
  exact ⟨packLea_lt ho, (hd (op_packLea ho)).trans (formLea_pack ho)⟩
theorem readsExt {g : Pred → BitVec 1 → BitVec 6 → BitVec 6 → Target →
    Instr} {s : BitVec 1} {l a : BitVec 6} (ho : op < 128) (hs : a.toNat + extLen l.toNat ≤ 64) (h : some (packExt op p s l a t) = some w) (hd : ∀ {w},
    bits w 31 25 = op → decodeWord w = formExt w g) :
    Reads w (g p s l a t) := by
  obtain rfl := Option.some.inj h
  exact ⟨packExt_lt ho, (hd (op_packExt ho)).trans (formExt_pack ho hs)⟩
theorem readsX {g : Pred → BitVec 3 → BitVec 20 → Instr} {e : BitVec 3} {o : BitVec 20} (ho : op < 128) (h : some (packX op p e o) = some w) (hd : ∀ {w},
    bits w 31 25 = op → decodeWord w = formX w g) :
    Reads w (g p e o) := by
  obtain rfl := Option.some.inj h
  exact ⟨packX_lt ho, (hd (op_packX ho)).trans (formX_pack ho)⟩
theorem readsXl {g : Pred → BitVec 3 → Instr} {e : BitVec 3} (ho : op < 128) (h : some (packXl op p e) = some w) (hd : ∀ {w}, bits w 31 25 = op →
    decodeWord w = formXl w g) :
    Reads w (g p e) := by
  obtain rfl := Option.some.inj h
  exact ⟨packXl_lt ho, (hd (op_packXl ho)).trans (formXl_pack ho)⟩
theorem readsL {g : Pred → BitVec 5 → BitVec 9 → Target →
    Instr} {l : BitVec 5} {n : BitVec 9} (ho : op < 128) (h : some (packL op p l n t) = some w) (hd : ∀ {w}, bits w 31 25 = op → decodeWord w = formL w g) :
    Reads w (g p l n t) := by
  obtain rfl := Option.some.inj h
  exact ⟨packL_lt ho, (hd (op_packL ho)).trans (formL_pack ho)⟩
theorem readsLda {g : Pred → BitVec 5 → Scope → BitVec 6 → Target →
    Instr} {l : BitVec 5} {c : Scope} {o : BitVec 6} (ho : op < 128) (h : some (packLda op p l c o t) = some w) (hd : ∀ {w}, bits w 31 25 = op →
    decodeWord w = formLda w g) :
    Reads w (g p l c o t) := by
  obtain rfl := Option.some.inj h
  exact ⟨packLda_lt ho, (hd (op_packLda ho)).trans (formLda_pack ho)⟩
theorem readsS {g : Pred → BitVec 5 → BitVec 9 → Instr} {l : BitVec 5} {n : BitVec 9} (ho : op < 128) (h : some (packS op p l n) = some w) (hd : ∀ {w},
    bits w 31 25 = op → decodeWord w = formS w g) :
    Reads w (g p l n) := by
  obtain rfl := Option.some.inj h
  exact ⟨packS_lt ho, (hd (op_packS ho)).trans (formS_pack ho)⟩
theorem readsSs {g : Pred → BitVec 5 → Scope → BitVec 6 →
    Instr} {l : BitVec 5} {c : Scope} {o : BitVec 6} (ho : op < 128) (h : some (packSs op p l c o) = some w) (hd : ∀ {w}, bits w 31 25 = op →
    decodeWord w = formSs w g) :
    Reads w (g p l c o) := by
  obtain rfl := Option.some.inj h
  exact ⟨packSs_lt ho, (hd (op_packSs ho)).trans (formSs_pack ho)⟩
theorem readsFence {g : Pred → BitVec 5 → Scope → FenceKind → Target →
    Instr} {l : BitVec 5} {c : Scope} {k : FenceKind} (ho : op < 128) (hs : fenceWf c k = true) (h : some (packFence op p l c k t) = some w) (hd : ∀ {w},
    bits w 31 25 = op → decodeWord w = formFence w g) :
    Reads w (g p l c k t) := by
  obtain rfl := Option.some.inj h
  exact ⟨packFence_lt ho, (hd (op_packFence ho)).trans (formFence_pack ho hs)⟩
theorem readsAmo {g : Pred → AmoOp → Target → Target →
    Instr} {c : AmoOp} (ho : op < 128) (hs : amoWf p c = true) (h : some (packAmo op p c b t) = some w) (hd : ∀ {w}, bits w 31 25 = op →
    decodeWord w = formAmo w g) :
    Reads w (g p c b t) := by
  obtain rfl := Option.some.inj h
  exact ⟨packAmo_lt ho, (hd (op_packAmo ho)).trans (formAmo_pack ho hs)⟩
theorem readsCvt {g : Pred → CvtPair → Target → Target → Instr} {c : CvtPair} (ho : op < 128) (h : some (packCvt op p c b t) = some w) (hd : ∀ {w},
    bits w 31 25 = op → decodeWord w = formCvt w g) :
    Reads w (g p c b t) := by
  obtain rfl := Option.some.inj h
  exact ⟨packCvt_lt ho, (hd (op_packCvt ho)).trans (formCvt_pack ho)⟩
theorem readsVcmp {g : VCond → Instr} {c : VCond} (ho : op < 128) (h : some (packVcmp op c) = some w) (hd : ∀ {w}, bits w 31 25 = op → decodeWord w = formVcmp w g) :
    Reads w (g c) := by
  obtain rfl := Option.some.inj h
  exact ⟨packVcmp_lt ho, (hd (op_packVcmp ho)).trans (formVcmp_pack ho)⟩
theorem readsVenc {g : CodeTable → Instr} {c : CodeTable} (ho : op < 128) (h : some (packVenc op c) = some w) (hd : ∀ {w}, bits w 31 25 = op →
    decodeWord w = formVenc w g) :
    Reads w (g c) := by
  obtain rfl := Option.some.inj h
  exact ⟨packVenc_lt ho, (hd (op_packVenc ho)).trans (formVenc_pack ho)⟩
theorem readsMrot {g : MmaPair → Instr} {c : MmaPair} (ho : op < 128) (h : some (packMrot op c) = some w) (hd : ∀ {w}, bits w 31 25 = op →
    decodeWord w = formMrot w g) :
    Reads w (g c) := by
  obtain rfl := Option.some.inj h
  exact ⟨packMrot_lt ho, (hd (op_packMrot ho)).trans (formMrot_pack ho)⟩
theorem readsNw {g : Pred → BitVec 14 → Instr} {n : BitVec 14} (ho : op < 128) (h : some (packNw op p n) = some w) (hd : ∀ {w}, bits w 31 25 = op →
    decodeWord w = formNw w g) :
    Reads w (g p n) := by
  obtain rfl := Option.some.inj h
  exact ⟨packNw_lt ho, (hd (op_packNw ho)).trans (formNw_pack ho)⟩

theorem onlyMember_pack {r : Except DecodeError Instr} (h : bits w 22 18 = 0) : onlyMember w r = r := if_pos h

/-- An instruction of the slice extension, whose words are of custom-0 (R243). -/
def ofSlice : Instr → Bool
  | .slrd .. | .slwr .. | .sgadv .. | .ssend .. | .spull .. | .screg .. | .scarm .. | .scdrp .. | .samoAdd .. | .samoAnd .. | .samoOr .. | .samoXor ..
  | .samoMin .. | .samoMax .. | .samoMinn .. | .samoMaxn .. | .samoSwap .. | .samoCas .. | .samoDecz .. | .sreply .. | .stlim .. | .shend => true
  | _ => false

/-- AN ENCODED INSTRUCTION OF A BLOCK reads back: its opcode and member select the form that packed its operands. -/
theorem reads_encode {i : Instr} (hwf : i.wf = true) (hs : ofSlice i = false) (h : encode i = some w) : Reads w i := by
  cases i
  case read => exact readsA (by decide) (by simpa [Instr.wf] using hwf) h fun ho => by unfold decodeWord; rw [ho]; rfl
  case write => exact readsW (by decide) h fun ho => by unfold decodeWord; rw [ho]; rfl
  case const | consth => exact readsC (by decide) h fun ho => by unfold decodeWord; rw [ho]; rfl
  case mov2 | null | listen | fork | join | futr | launch | compose =>
    exact readsG (by decide) (by decide) h fun ho hx => by unfold decodeWord; rw [ho]; exact onlyMember_pack hx
  case sel | ins | fmaD | fmaS =>
    exact readsG3 (by decide) (by decide) h fun ho hx => by unfold decodeWord; rw [ho]; exact onlyMember_pack hx
  case add | sub | and | or | xor | andn | shl | shr | sra | rol | ror | mul | mulh | mulhn | div | divn | rem | remn | min | max | minn | maxn | clz |
    ctz | popc | addsat | subsat | absd | addw | subw | andw | orw | xorw | andnw | shlw | shrw | sraw | rolw | rorw | mulw | divw | divnw | remw |
    remnw | clzw | ctzw | popcw | faddD | fsubD | fmulD | fdivD | fsqrtD | fminD | fmaxD | fnegD | fabsD | feqD | fltD | fleD | fclassD | fsgnjD |
    faddS | fsubS | fmulS | fdivS | fsqrtS | fminS | fmaxS | fnegS | fabsS | feqS | fltS | fleS | fclassS | fsgnjS | sfnExp2 | sfnLog2 | sfnRcp |
    sfnRsq | sfnSin | sfnCos | sfnTanh | sfnSigm | maccQuery =>
    exact readsG (by decide) (by decide) h fun ho hx => by unfold decodeWord; rw [ho, hx]; rfl
  case addi | andi | ori | xori | muli => exact readsI (by decide) h fun ho => by unfold decodeWord; rw [ho]; rfl
  case shli | shri | srai => exact readsShift (by decide) h fun ho => by unfold decodeWord; rw [ho]; rfl
  case cmp => exact readsCmp (by decide) h fun ho => by unfold decodeWord; rw [ho]; rfl
  case cmpi => exact readsJ (by decide) h fun ho => by unfold decodeWord; rw [ho]; rfl
  case lea => exact readsLea (by decide) h fun ho => by unfold decodeWord; rw [ho]; rfl
  case ext => exact readsExt (by decide) (of_decide_eq_true hwf) h fun ho => by unfold decodeWord; rw [ho]; rfl
  case br | call | susp | migr | sysc => exact readsX (by decide) h fun ho => by unfold decodeWord; rw [ho]; rfl
  case brl | calll | ret | endExit | eret => exact readsXl (by decide) h fun ho => by unfold decodeWord; rw [ho]; rfl
  case ld8 | ld16 | ld32 | ld64 | lds8 | lds16 | lds32 => exact readsL (by decide) h fun ho => by unfold decodeWord; rw [ho]; rfl
  case lda => exact readsLda (by decide) h fun ho => by unfold decodeWord; rw [ho]; rfl
  case st8 | st16 | st32 | st64 | pref => exact readsS (by decide) h fun ho => by unfold decodeWord; rw [ho]; rfl
  case stl | gadv => exact readsSs (by decide) h fun ho => by unfold decodeWord; rw [ho]; rfl
  case fence => exact readsFence (by decide) (by exact hwf) h fun ho => by unfold decodeWord; rw [ho]; rfl
  case amoar | amo | amoaq | amorl => exact readsAmo (by decide) (by exact hwf) h fun ho => by unfold decodeWord; rw [ho]; rfl
  case watchTask | watchFut =>
    exact readsG3 (by decide) (by decide) h fun ho hx => by unfold decodeWord; rw [ho, hx]; rfl
  case watchCancel | vneg | vabs | vcpy | vexp2 | vlog2 | vrcp | vrsq | vtanh | vsigm | vsin | vcos | vredSum | vredMax | vredMin | vredAmax | vscanInc |
    vscanExc | vpermRev | vpermIntl | vpermDintl | maccZero | maccReclaim | maccPark | maccLoada | maccStorea =>
    exact readsP (by decide) (by decide) h fun ho hx => by unfold decodeWord; rw [ho, hx]; rfl
  case pull | vfma | vgath | vscat | vmsk | vsel | mmaDd | mmaSs | mmaBb | mmaHh | mmaEe | mmaEv | mmaVv | mmaBk | mmaEk | mmaQq | mmaXx | mmaYy | mmaIi
    | mmaNn | sendb | reloc =>
    exact readsE (by decide) (by decide) h fun ho hx => by unfold decodeWord; rw [ho]; exact onlyMember_pack hx
  case unlisten | vbcast | vqnt | vdec | send | futw | release | switch =>
    exact readsP (by decide) (by decide) h fun ho hx => by unfold decodeWord; rw [ho]; exact onlyMember_pack hx
  case fcvt => exact readsCvt (by decide) h fun ho => by unfold decodeWord; rw [ho]; rfl
  case vadd | vsub | vmul | vdiv | vmin | vmax | vand | vor | vxor | vshl | vshr | vpopaNone | vpopaRelu | vpopaClamp | vpermRot =>
    exact readsE (by decide) (by decide) h fun ho hx => by unfold decodeWord; rw [ho, hx]; rfl
  case vcmp => exact readsVcmp (by decide) h fun ho => by unfold decodeWord; rw [ho]; rfl
  case venc => exact readsVenc (by decide) h fun ho => by unfold decodeWord; rw [ho]; rfl
  case mrot => exact readsMrot (by decide) h fun ho => by unfold decodeWord; rw [ho]; rfl
  case cwr => exact readsI (by decide) h fun ho => by unfold decodeWord; rw [ho]; rfl
  case cww => exact readsNw (by decide) h fun ho => by unfold decodeWord; rw [ho]; rfl
  case slrd | slwr | sgadv | ssend | spull | screg | scarm | scdrp | samoAdd | samoAnd | samoOr | samoXor | samoMin | samoMax | samoMinn | samoMaxn |
    samoSwap | samoCas | samoDecz | sreply | stlim | shend => cases hs
  all_goals cases h

/-! ## A word has one meaning -/

/-- A WORD DROPS NO BIT: each branch of the decoder reads a form, and the word is the one that the form packs. -/
theorem encode_decodeWord {w : Nat} {i : Instr} (hw : w < 2 ^ 32) (h : decodeWord w = .ok i) : encode i = some w := by
  unfold decodeWord at h
  split at h
  all_goals
    revert h
    try simp only [member10, member11, member39, member40, member41, member45, member48, member4A, member4B, member4C, member51, member54, member6F, onlyMember]
    try split
  all_goals
    simp only [*, formA_iff hw, formW_iff hw, formC_iff hw, formG_iff hw, formG3_iff hw, formP_iff hw, formE_iff hw, formI_iff hw,
      formShift_iff hw, formCmp_iff hw, formJ_iff hw, formLea_iff hw, formExt_iff hw, formX_iff hw, formXl_iff hw, formL_iff hw, formLda_iff hw,
      formS_iff hw, formSs_iff hw, formFence_iff hw, formAmo_iff hw, formCvt_iff hw, formVcmp_iff hw, formVenc_iff hw, formMrot_iff hw, formN,
      formNw_iff hw, reduceCtorEq, forall_exists_index, and_imp, false_implies]
  all_goals
    intros
    subst_vars
    rfl

/-! ## Words of the slice core -/

/-- The word is one of custom-0 that the slice core reads as the instruction. -/
def ReadsSlice (w : Nat) (i : Instr) : Prop := w < 2 ^ 32 ∧ w % 128 = 0x0B ∧ decodeSlice w = i

theorem regOf_eq {lo : Nat} {r : BitVec 5} (h : bits w (lo + 4) lo = r.toNat) : regOf w lo = r := by
  refine BitVec.eq_of_toNat_eq ?_
  have e : lo + 4 + 1 - lo = 5 := by omega
  rw [← h, regOf, BitVec.toNat_ofNat, bits, e]

/-- A custom-0 word that the slice extension lists is read by the slice core as that instruction. -/
theorem decodeSlice_of_ext {i : Instr} (hset : w % 128 = 0x0B) (h : decodeSliceExt w = some i) : decodeSlice w = i := by
  have h1 : bits w 1 0 = 3 := by simp only [bits, Nat.reduceAdd, Nat.reduceSub, Nat.reducePow]; omega
  have h6 : bits w 6 0 = 0x0B := by simp only [bits, Nat.reduceAdd, Nat.reduceSub, Nat.reducePow]; omega
  simp only [decodeSlice, h1, h6, h, if_true]

theorem readsR {f3 f7 : Nat} {rs2 rs1 rd : BitVec 5} {i : Instr} (h3 : f3 < 8) (h7 : f7 < 128)
    (h : some (packR f3 f7 rs2.toNat rs1.toNat rd.toNat) = some w)
    (hd : ∀ {w}, bits w 14 12 = f3 → bits w 31 25 = f7 → bits w 24 20 = rs2.toNat → bits w 19 15 = rs1.toNat → bits w 11 7 = rd.toNat →
      decodeSliceExt w = some i) : ReadsSlice w i := by
  obtain rfl := Option.some.inj h
  have hw := packR_lt h3 h7 rs2.isLt rs1.isLt rd.isLt
  obtain ⟨e7, e2, e1, e3, ed, hset⟩ := (packR_iff hw h3 h7).1 rfl
  exact ⟨hw, hset, decodeSlice_of_ext hset (hd e3 e7 e2 e1 ed)⟩

/-- AN ENCODED INSTRUCTION OF THE SLICE EXTENSION reads back. -/
theorem readsSlice_encode {i : Instr} (hwf : i.wf = true) (hs : ofSlice i = true) (h : encode i = some w) : ReadsSlice w i := by
  cases i
  case slrd | slwr | ssend | spull | screg | samoAdd | samoAnd | samoOr | samoXor | samoMin | samoMax | samoMinn | samoMaxn | samoSwap | samoCas =>
    exact readsR (by decide) (by decide) h fun e3 e7 e2 e1 ed => by
      simp only [decodeSliceExt, e3, e7, regOf_eq e2, regOf_eq e1, regOf_eq ed]
  case sgadv g rs2 rs1 rd =>
    exact readsR (by decide) (Nat.lt_of_le_of_lt (Scope_code_lt g) (by decide)) h fun e3 e7 e2 e1 ed => by
      simp only [decodeSliceExt, e3, e7, scopeOf_eq_iff.2 rfl, regOf_eq e2, regOf_eq e1, regOf_eq ed]
  case samoDecz rs2 rs1 rd =>
    obtain rfl : rs2 = 0#5 := eq_of_beq hwf
    exact readsR (by decide) (by decide) h fun e3 e7 e2 e1 ed => by
      simp only [decodeSliceExt, e3, e7, e2, regOf_eq e2, regOf_eq e1, regOf_eq ed]; rfl
  case scarm | scdrp | stlim =>
    exact readsR (rs2 := 0#5) (by decide) (by decide) h fun e3 e7 e2 e1 ed => by
      simp only [decodeSliceExt, e3, e7, e2, regOf_eq e1, regOf_eq ed]; rfl
  case sreply rs1 =>
    exact readsR (rs2 := 0#5) (rd := 0#5) (by decide) (by decide) h fun e3 e7 e2 e1 ed => by
      simp only [decodeSliceExt, e3, e7, e2, ed, regOf_eq e1]; rfl
  case shend =>
    exact readsR (rs2 := 0#5) (rs1 := 0#5) (rd := 0#5) (by decide) (by decide) h fun e3 e7 e2 e1 ed => by
      simp only [decodeSliceExt, e3, e7, e2, e1, ed]; rfl
  all_goals cases hs

/-- A custom-0 word is put together from its fields. -/
theorem packR_fields (hw : w < 2 ^ 32) (hset : w % 128 = 0x0B) :
    packR (bits w 14 12) (bits w 31 25) (bits w 24 20) (bits w 19 15) (bits w 11 7) = w := by
  simp only [packR, bits, Nat.reduceAdd, Nat.reduceSub, Nat.reducePow]
  omega

/-- A LISTED WORD DROPS NO BIT. -/
theorem encode_decodeSliceExt {i : Instr} (hw : w < 2 ^ 32) (hset : w % 128 = 0x0B) (h : decodeSliceExt w = some i) : encode i = some w := by
  have hp := packR_fields hw hset
  have h20 : (regOf w 20).toNat = bits w 24 20 := BitVec.toNat_ofNat _ _
  have h15 : (regOf w 15).toNat = bits w 19 15 := BitVec.toNat_ofNat _ _
  have h7 : (regOf w 7).toNat = bits w 11 7 := BitVec.toNat_ofNat _ _
  unfold decodeSliceExt at h
  repeat' split at h
  all_goals cases h
  all_goals simp_all [encode, scopeOf_eq_iff]

/-- The bytes of a number, lowest first, hold it (R3). -/
theorem natOfBytes_bytesOf (n v : Nat) : natOfBytes (bytesOf n v) = v % 256 ^ n := by
  induction n generalizing v with
  | zero => rw [Nat.pow_zero, Nat.mod_one]; rfl
  | succ n ih =>
    have h8 : (BitVec.ofNat 8 (v % 256)).toNat = v % 256 := (BitVec.toNat_ofNat _ _).trans (Nat.mod_mod v 256)
    rw [bytesOf, natOfBytes, ih, h8, Nat.pow_succ', Nat.mod_mul]

theorem decodeBytes_bytesOf {i : Instr} (hw : w < 2 ^ 32) (h : decodeWord w = .ok i) (rest : List Byte) :
    decodeBytes (bytesOf 4 w ++ rest) = .ok (i, rest) := by
  have hb : natOfBytes (bytesOf 4 w) = w := (natOfBytes_bytesOf 4 w).trans (Nat.mod_eq_of_lt hw)
  show (decodeWord (natOfBytes (bytesOf 4 w)) >>= fun i => .ok (i, rest)) = _
  rw [hb, h]
  rfl

/-- Settles O57: what the encoder packs is read back, in a block or by the slice core, and a word is the one that packs its meaning. -/
theorem encodingsAgree : Obligations.EncodingsAgree := by
  refine ⟨fun i w hwf h => ?_, fun w i hw => ⟨encode_decodeWord hw, encode_decodeSliceExt hw⟩⟩
  cases hs : ofSlice i with
  | false =>
    obtain ⟨hw, hd⟩ := reads_encode hwf hs h
    exact ⟨hw, .inl fun rest => decodeBytes_bytesOf hw hd rest⟩
  | true =>
    obtain ⟨hw, hset, hd⟩ := readsSlice_encode hwf hs h
    exact ⟨hw, .inr ⟨hset, hd⟩⟩

end Sys2Proof.Machine
end

section
/-! SUPPORT. The word members, constants, copies, immediates, comparisons and bit fields (spec/04), and what a predicate or a null does to an instruction (spec/02 R35, R36). -/

namespace Sys2Proof.Machine

/-! ## The word members (R90) -/

variable {i : Instr} {p : Pred} {t1 t0 : Target}

/-- A WORD MEMBER OF TWO OPERANDS delivers what its 32-bit equation says, sign-extended, after the latency of the member. -/
theorem delivers_iopw (o : Iop) {lat : W64 → W64 → Nat} {f : BitVec 32 → BitVec 32 → W64 → BitVec 32}
    (he : ∀ s, exec i s = fireIopw o p t1 t0 s) (hlat : ∀ l r, iopLatency o 32 l r = lat l r)
    (hf : ∀ (l r : BitVec 32) (n : W64), iopAt o 32 l.toNat r.toNat n.toNat = (f l r n).toNat) : Delivers2 i p [t0, t1] lat (word2 f) :=
  delivers_binaryTimed he (fun _ => (iopw_of (hf _ _ _)).symm) fun _ => (hlat _ _).symm

/-- A WORD MEMBER OF ONE OPERAND. -/
theorem delivers_iopw1 (o : Iop) {count : BitVec 32 → Nat} (he : ∀ s, exec i s = fireIopw1 o p t1 t0 s)
    (hf : ∀ l : BitVec 32, iopAt o 32 l.toNat 0 0 = count l) (hlt : ∀ l, count l < 2 ^ 32) :
    Delivers1 i p [t0, t1] 1 fun v => word2 (fun l _ _ => BitVec.ofNat 32 (count l)) v 0#64 :=
  delivers_unary he fun vs =>
    (iopw_of ((hf ((arg vs 0).setWidth 32)).trans ((BitVec.toNat_ofNat _ _).trans (Nat.mod_eq_of_lt (hlt _))).symm)).symm

theorem divLatency_32 (signed : Bool) (l r : W64) : divLatency 32 signed l r = divisionTime 32 signed l r :=
  divLatency_eq 32 (by decide) (by decide) signed l r

/-- A count among the bits of a word. -/
theorem length_lt_two_pow {xs : List Nat} (h : xs.length ≤ 32) : xs.length < 2 ^ 32 := Nat.lt_of_le_of_lt h (by decide)

/-- Settles O2: each word member is the shared firing of its operation at 32 bits. -/
theorem wordResults : Obligations.WordResults := by
  have pos : 0 < 32 := by decide
  intro p t1 t0
  refine ⟨?addw, ?subw, ?andw, ?orw, ?xorw, ?andnw, ?shlw, ?shrw, ?sraw, ?rolw, ?rorw, ?mulw, ?divw, ?divnw, ?remw, ?remnw, ?clzw, ?ctzw, ?popcw⟩
  case addw => exact delivers_iopw .add (fun _ => rfl) (fun _ _ => rfl) fun l r n => iopAt_add l r n.toNat
  case subw => exact delivers_iopw .sub (fun _ => rfl) (fun _ _ => rfl) fun l r n => iopAt_sub l r n.toNat
  case andw => exact delivers_iopw .and (fun _ => rfl) (fun _ _ => rfl) fun l r n => iopAt_and l r n.toNat
  case orw => exact delivers_iopw .or (fun _ => rfl) (fun _ _ => rfl) fun l r n => iopAt_or l r n.toNat
  case xorw => exact delivers_iopw .xor (fun _ => rfl) (fun _ _ => rfl) fun l r n => iopAt_xor l r n.toNat
  case andnw => exact delivers_iopw .andn (fun _ => rfl) (fun _ _ => rfl) fun l r n => iopAt_andn l r n.toNat
  case shlw => exact delivers_iopw .shl (fun _ => rfl) (fun _ _ => rfl) fun l r n => iopAt_shl l r n.toNat
  case shrw => exact delivers_iopw .shr (fun _ => rfl) (fun _ _ => rfl) fun l r n => iopAt_shr l r n.toNat
  case sraw => exact delivers_iopw .sra (fun _ => rfl) (fun _ _ => rfl) fun l r n => iopAt_sra pos l r n.toNat
  case rolw => exact delivers_iopw .rol (fun _ => rfl) (fun _ _ => rfl) fun l r n => iopAt_rol pos l r n.toNat
  case rorw => exact delivers_iopw .ror (fun _ => rfl) (fun _ _ => rfl) fun l r n => iopAt_ror pos l r n.toNat
  case mulw => exact delivers_iopw .mul (fun _ => rfl) (fun _ _ => rfl) fun l r n => iopAt_mul l r n.toNat
  case divw => exact delivers_iopw .div (fun _ => rfl) (divLatency_32 true) fun l r n => iopAt_div pos l r n.toNat
  case divnw => exact delivers_iopw .divn (fun _ => rfl) (divLatency_32 false) fun l r n => iopAt_divn l r n.toNat
  case remw => exact delivers_iopw .rem (fun _ => rfl) (divLatency_32 true) fun l r n => iopAt_rem pos l r n.toNat
  case remnw => exact delivers_iopw .remn (fun _ => rfl) (divLatency_32 false) fun l r n => iopAt_remn l r n.toNat
  case clzw =>
    exact delivers_iopw1 .clz (fun _ => rfl) (fun l => clzFrom_eq l 32) fun l => length_lt_two_pow <| by
      simpa using (List.takeWhile_sublist (fun i => !l.getLsbD i) (l := (List.range 32).reverse)).length_le
  case ctzw =>
    exact delivers_iopw1 .ctz (fun _ => rfl) (fun l => List.range_eq_range' ▸ ctzFrom_eq l 32 0) fun l => length_lt_two_pow <| by
      simpa using (List.takeWhile_sublist (fun i => !l.getLsbD i) (l := List.range 32)).length_le
  case popcw =>
    exact delivers_iopw1 .popc (fun _ => rfl) (fun l => popFrom_eq l 32) fun l => length_lt_two_pow <| by
      simpa using List.length_filter_le l.getLsbD (List.range 32)

/-! ## Constants, immediates, comparisons and bit fields (R81 to R85, R91 to R95) -/

/-- The shift of a 6-bit amount is a shift of the operand. -/
theorem toNat_shiftAmount (a : BitVec 6) : (a.setWidth 64 : W64).toNat = a.toNat := by
  have := a.isLt
  simp only [BitVec.toNat_setWidth]
  omega
theorem shiftAmount_lt (a : BitVec 6) : ¬ 64 ≤ a.toNat := by have := a.isLt; omega

theorem iop_shl (l : W64) (a : BitVec 6) : iop .shl l (a.setWidth 64) = l <<< a.toNat :=
  iop_of (by rw [iopAt_shl, toNat_shiftAmount, if_neg (shiftAmount_lt a)])
theorem iop_shr (l : W64) (a : BitVec 6) : iop .shr l (a.setWidth 64) = l >>> a.toNat :=
  iop_of (by rw [iopAt_shr, toNat_shiftAmount, if_neg (shiftAmount_lt a)])
theorem iop_sra (l : W64) (a : BitVec 6) : iop .sra l (a.setWidth 64) = l.sshiftRight a.toNat :=
  iop_of (by rw [iopAt_sra (by decide), toNat_shiftAmount, if_neg (shiftAmount_lt a)])

/-- The conditions in terms of the readings of the operands (R92). -/
theorem boolWord_eq (l b : W64) : boolWord (condHolds .eq l b) = if l = b then 1#64 else 0#64 := by simp [boolWord, condHolds]
theorem boolWord_ne (l b : W64) : boolWord (condHolds .ne l b) = if l = b then 0#64 else 1#64 := by
  simp only [boolWord, condHolds, bne_iff_ne, ne_eq, ite_not]
theorem boolWord_lt (l b : W64) : boolWord (condHolds .lt l b) = if l.toInt < b.toInt then 1#64 else 0#64 := by
  simp only [boolWord, condHolds, BitVec.slt_iff_toInt_lt]
theorem boolWord_ge (l b : W64) : boolWord (condHolds .ge l b) = if b.toInt ≤ l.toInt then 1#64 else 0#64 := by
  simp only [boolWord, condHolds, Bool.not_eq_true', Bool.eq_false_iff, ne_eq, BitVec.slt_iff_toInt_lt, Int.not_lt]
theorem boolWord_ltn (l b : W64) : boolWord (condHolds .ltn l b) = if l.toNat < b.toNat then 1#64 else 0#64 := by
  simp only [boolWord, condHolds, BitVec.ult_iff_lt, BitVec.lt_def]
theorem boolWord_gen (l b : W64) : boolWord (condHolds .gen l b) = if b.toNat ≤ l.toNat then 1#64 else 0#64 := by
  simp only [boolWord, condHolds, Bool.not_eq_true', Bool.eq_false_iff, ne_eq, BitVec.ult_iff_lt, BitVec.lt_def, Nat.not_lt]
theorem boolWord_tst (l b : W64) : boolWord (condHolds .tst l b) = if l &&& b = 0#64 then 0#64 else 1#64 := by
  simp only [boolWord, condHolds, bne_iff_ne, ne_eq, ite_not]

theorem extLen_eq (len : BitVec 6) : extLen len.toNat = if len = 0#6 then 64 else len.toNat := by
  have e : len.toNat = 0 ↔ len = 0#6 := by rw [← BitVec.toNat_inj]; rfl
  simp only [extLen, e]
theorem extLen_pos (len : Nat) : 0 < extLen len := by
  unfold extLen
  split <;> omega

/-- The field of an unsigned `EXT` (R94). -/
theorem extract_false (len pos : BitVec 6) (l : W64) :
    extract false len.toNat pos.toNat l = BitVec.ofNat 64 (l.toNat / 2 ^ pos.toNat % 2 ^ (if len = 0#6 then 64 else len.toNat)) := by
  rw [← extLen_eq]; rfl
/-- The field of a signed `EXT` (R94). -/
theorem extract_true (len pos : BitVec 6) (l : W64) : extract true len.toNat pos.toNat l
    = (BitVec.ofNat (if len = 0#6 then 64 else len.toNat) (l.toNat / 2 ^ pos.toNat)).signExtend 64 := by
  rw [← extLen_eq]
  have h := signedOf_toNat (extLen_pos len.toNat) (BitVec.ofNat (extLen len.toNat) (l.toNat / 2 ^ pos.toNat))
  rw [BitVec.toNat_ofNat] at h
  simp only [extract, if_true, h]
  rfl

/-- The insertion of `INS` (R95). -/
theorem insertBits_eq (l r x : W64) : insertBits l r x =
    (let pos := x.toNat % 64
     let len := x.toNat / 64 % 64
     let mask := BitVec.ofNat 64 ((2 ^ (if len = 0 then 64 else len) - 1) * 2 ^ pos)
     (l &&& ~~~mask) ||| ((r <<< pos) &&& mask)) := by
  have hs : ∀ n, w64 (r.toNat * 2 ^ n) = r <<< n := fun n => BitVec.eq_of_toNat_eq (by simp [w64, Nat.shiftLeft_eq])
  simp only [insertBits, hs]
  rfl

/-- Settles O3: each is a firing on its operands, with the value that the equations above give. -/
theorem smallResults : Obligations.SmallResults := by
  intro p t1 t0
  refine ⟨?const, ?consth, ?mov2, ?addi, ?andi, ?ori, ?xori, ?shli, ?shri, ?srai, ?muli, ?eq, ?ne, ?lt, ?ge, ?ltn, ?gen, ?tst,
    ?eqi, ?nei, ?lti, ?gei, ?ltni, ?geni, ?tsti, ?lea, ?ext0, ?ext1, ?ins, ?null, ?sel⟩
  case const =>
    exact fun k => completes_inBlock (fun _ => rfl) fun s b hb _ => ⟨alike_refl b, Fired_send (xs := []) hb (alike_refl b) (fired_refl hb)⟩
  case consth => exact fun k => delivers_unary (fun _ => rfl) fun _ => rfl
  case mov2 => exact delivers_unary (fun _ => rfl) fun _ => rfl
  case addi => exact fun n => delivers_unary (fun _ => rfl) fun _ => (iop_of (iopAt_add _ _ _)).symm
  case andi => exact fun n => delivers_unary (fun _ => rfl) fun _ => (iop_of (iopAt_and _ _ _)).symm
  case ori => exact fun n => delivers_unary (fun _ => rfl) fun _ => (iop_of (iopAt_or _ _ _)).symm
  case xori => exact fun n => delivers_unary (fun _ => rfl) fun _ => (iop_of (iopAt_xor _ _ _)).symm
  case shli => exact fun a => delivers_unary (fun _ => rfl) fun _ => (iop_shl _ a).symm
  case shri => exact fun a => delivers_unary (fun _ => rfl) fun _ => (iop_shr _ a).symm
  case srai => exact fun a => delivers_unary (fun _ => rfl) fun _ => (iop_sra _ a).symm
  case muli => exact fun n => delivers_unary (fun _ => rfl) fun _ => (iop_of (iopAt_mul _ _ _)).symm
  case eq => exact delivers_binary (fun _ => rfl) fun _ => (boolWord_eq _ _).symm
  case ne => exact delivers_binary (fun _ => rfl) fun _ => (boolWord_ne _ _).symm
  case lt => exact delivers_binary (fun _ => rfl) fun _ => (boolWord_lt _ _).symm
  case ge => exact delivers_binary (fun _ => rfl) fun _ => (boolWord_ge _ _).symm
  case ltn => exact delivers_binary (fun _ => rfl) fun _ => (boolWord_ltn _ _).symm
  case gen => exact delivers_binary (fun _ => rfl) fun _ => (boolWord_gen _ _).symm
  case tst => exact delivers_binary (fun _ => rfl) fun _ => (boolWord_tst _ _).symm
  case eqi => exact fun n => delivers_unary (fun _ => rfl) fun _ => (boolWord_eq _ _).symm
  case nei => exact fun n => delivers_unary (fun _ => rfl) fun _ => (boolWord_ne _ _).symm
  case lti => exact fun n => delivers_unary (fun _ => rfl) fun _ => (boolWord_lt _ _).symm
  case gei => exact fun n => delivers_unary (fun _ => rfl) fun _ => (boolWord_ge _ _).symm
  case ltni => exact fun n => delivers_unary (fun _ => rfl) fun _ => (boolWord_ltn _ _).symm
  case geni => exact fun n => delivers_unary (fun _ => rfl) fun _ => (boolWord_gen _ _).symm
  case tsti => exact fun n => delivers_unary (fun _ => rfl) fun _ => (boolWord_tst _ _).symm
  case lea => exact fun a => delivers_binary (fun _ => rfl) fun _ => rfl
  case ext0 => exact fun len pos => delivers_unary (fun _ => rfl) fun _ => (extract_false len pos _).symm
  case ext1 => exact fun len pos => delivers_unary (fun _ => rfl) fun _ => (extract_true len pos _).symm
  case ins =>
    refine completes_of (fun _ => rfl) fun s b vs hb _ _ => ⟨alike_refl b, ?_⟩
    have h := Fired_send (xs := []) (lat := 1) (tok := .val (insertBits (arg vs 0) (arg vs 1) (arg vs 2))) (ts := [t0, t1]) hb (alike_refl b) (fired_refl hb)
    simp only [insertBits_eq] at h ⊢
    exact h
  case null =>
    intro s b hb hp
    refine ⟨_, ?_, Fired_settle hb (alike_refl b) (Fired_send (xs := []) (lat := 0) (tok := .null) (ts := [t0, t1]) hb (alike_refl b) (fired_refl hb))⟩
    show slotStep (.firing p [] _ _) s = _
    rw [slotStep, done, run_seq, Act.firing, run_inBlock hb]
    cases h : predFall p (b.tok s .x)
    case off => exact absurd h hp
    all_goals rfl
  case sel =>
    intro s b hb
    refine ⟨_, ?_, Fired_settle hb (alike_refl b) (Fired_send (xs := []) (lat := 0) (tok := selTok (b.tok s .l) (b.tok s .r) (b.tok s .x)) (ts := [t0, t1]) hb
      (alike_refl b) (fired_refl hb))⟩
    show slotStep (.inBlock _) s = _
    rw [slotStep, done, run_seq, run_inBlock hb]

/-! ## Predicates and nulls (R35, R36) -/

/-- Settles O4: an instruction has no predicate that could fail to match, or fires under it. -/
theorem predicatedOff : Obligations.PredicatedOff := by
  intro i
  cases i
  all_goals first | exact skips_always rfl | exact skips_of fun _ => rfl

/-- Settles O5: each member of these families fires on its operands and sends nulls where it has one. -/
theorem nullsPropagate : Obligations.NullsPropagate := by
  intro p c x t1 t0
  refine ⟨?_, ?_, fun n => nulls_of fun _ => rfl, fun n => ?_, fun n => ?_, fun n => nulls_of fun _ => rfl, fun n => nulls_of fun _ => rfl,
    fun g n m => nulls_of fun _ => rfl⟩
  all_goals
    simp only [List.forall_mem_cons, List.not_mem_nil, false_imp_iff, implies_true, and_true]
    repeat' apply And.intro
  all_goals exact nulls_of fun _ => rfl

end Sys2Proof.Machine
end

section
/-! SUPPORT. Home places, scalar floating point, `READ`, control-word reads and the exits (spec/01 R22, spec/03, spec/04, spec/07). -/

namespace Sys2Proof.Machine

/-! ## Home addresses (R22) -/

/-- Settles O14: the six ranges of the definition exclude each other. -/
theorem homeRanges : Obligations.HomeRanges := by
  intro l a
  refine ⟨fun h => ?_, fun h h' => ?_, fun h h' => ?_, fun h h' => ?_, fun h h' => ?_, fun h h' => ?_, fun h => ?_⟩ <;> unfold homePlace
  · rw [if_pos h]
  · rw [if_neg (by omega), if_pos ⟨h, h'⟩]
  · rw [if_neg (by omega), if_neg (by omega), if_pos ⟨h, h'⟩]
  · rw [if_neg (by omega), if_neg (by omega), if_neg (by omega), if_pos ⟨h, h'⟩]
  · rw [if_neg (by omega), if_neg (by omega), if_neg (by omega), if_neg (by omega), if_pos ⟨h, h'⟩]
  · rw [if_neg (by omega), if_neg (by omega), if_neg (by omega), if_neg (by omega), if_neg (by omega), if_pos ⟨h, h'⟩]
  · rw [if_neg (by omega), if_neg (by omega), if_neg (by omega), if_neg (by omega), if_neg (by omega), if_neg (by omega)]

/-! ## Scalar floating point (R158 to R161) -/

variable {i : Instr} {p : Pred} {t1 t0 : Target} {os : List Opnd} {F : Fmt}

/-- A RESULT WITH FLAGS: the flags join those of the block and the result is sent. -/
theorem Fired_fpSend {s : State} {b : Block} (hb : s.firingBlock b) (lat : Nat) (r : Nat × Nat) (ts : List Target) :
    s.Fired ((Act.fpSend lat r ts).run s) b { b with flags := Nat.lor b.flags r.2 } (s.tokensOf b [(lat, .val (w64 r.1), ts)]) :=
  Fired_send (xs := []) hb ⟨rfl, rfl, rfl⟩ (Fired_block (fired_refl hb) fun f w => ⟨f, w, rfl⟩)

/-- AN INSTRUCTION WHOSE CONTINUATION SENDS A RESULT WITH FLAGS computed from the rounding mode and its operands. -/
theorem floatDelivers_of {lat : Nat × Nat × Nat × Nat → Nat} {f : Nat × Nat × Nat × Nat → Nat × Nat} {k : List W64 → Act} {a : Act}
    {ts : List Target} (he : ∀ s, exec i s = slotStep (.firing p os a k) s)
    (hk : ∀ s vs, (k vs).run s = (Act.fpSend (lat (floatArgs F s vs)) (f (floatArgs F s vs)) ts).run s) : FloatDelivers i F p os ts lat f :=
  completes_of he fun s b vs hb _ _ => ⟨⟨rfl, rfl, rfl⟩, hk s vs ▸ Fired_fpSend hb _ _ ts⟩

/-- A member of the FD and FS families. -/
theorem floatDelivers_fop (F : Fmt) (o : Fop) (he : ∀ s, exec i s = fireFop F o os p t1 t0 s) :
    FloatDelivers i F p os [t0, t1] (fun (rm, l, r, _) => fopLatency F rm o l r) fun (rm, l, r, _) => fop F rm o l r :=
  floatDelivers_of he fun _ _ => rfl

/-- A fused multiply-add. -/
theorem floatDelivers_fma (F : Fmt) (he : ∀ s, exec i s = fireFma F t1 t0 s) :
    FloatDelivers i F .always [.l, .r, .x] [t0, t1] (fun _ => 5) fun (rm, l, r, x) => fma F rm l r x :=
  floatDelivers_of he fun _ _ => rfl

/-- A conversion reads the whole of `.l`. -/
theorem floatDelivers_fcvt (p : Pred) (c : CvtPair) (t1 t0 : Target) :
    FloatDelivers (.fcvt p c t1 t0) .f64 p [.l] [t0, t1] (fun _ => 4) fun (rm, l, _, _) => fcvt c rm l := by
  refine floatDelivers_of (fun _ => rfl) fun s vs => ?_
  rw [run_read, ← Nat.mod_eq_of_lt (arg vs 0).isLt]
  rfl

/-- Settles O12: each member is the shared firing of its operation in its format. -/
theorem floatResults : Obligations.FloatResults :=
  ⟨fun p t1 t0 => ⟨floatDelivers_fop .f64 .add fun _ => rfl,
    floatDelivers_fop .f64 .sub fun _ => rfl,
    floatDelivers_fop .f64 .mul fun _ => rfl,
    floatDelivers_fop .f64 .div fun _ => rfl,
    floatDelivers_fop .f64 .sqrt fun _ => rfl,
    floatDelivers_fop .f64 .min fun _ => rfl,
    floatDelivers_fop .f64 .max fun _ => rfl,
    floatDelivers_fop .f64 .neg fun _ => rfl,
    floatDelivers_fop .f64 .abs fun _ => rfl,
    floatDelivers_fop .f64 .eq fun _ => rfl,
    floatDelivers_fop .f64 .lt fun _ => rfl,
    floatDelivers_fop .f64 .le fun _ => rfl,
    floatDelivers_fop .f64 .cls fun _ => rfl,
    floatDelivers_fop .f64 .sgnj fun _ => rfl,
    floatDelivers_fma .f64 fun _ => rfl,
    floatDelivers_fop .f32 .add fun _ => rfl,
    floatDelivers_fop .f32 .sub fun _ => rfl,
    floatDelivers_fop .f32 .mul fun _ => rfl,
    floatDelivers_fop .f32 .div fun _ => rfl,
    floatDelivers_fop .f32 .sqrt fun _ => rfl,
    floatDelivers_fop .f32 .min fun _ => rfl,
    floatDelivers_fop .f32 .max fun _ => rfl,
    floatDelivers_fop .f32 .neg fun _ => rfl,
    floatDelivers_fop .f32 .abs fun _ => rfl,
    floatDelivers_fop .f32 .eq fun _ => rfl,
    floatDelivers_fop .f32 .lt fun _ => rfl,
    floatDelivers_fop .f32 .le fun _ => rfl,
    floatDelivers_fop .f32 .cls fun _ => rfl,
    floatDelivers_fop .f32 .sgnj fun _ => rfl,
    floatDelivers_fma .f32 fun _ => rfl⟩,
    floatDelivers_fcvt⟩

theorem w64_toNat (v : W64) : w64 v.toNat = v := by simp [w64]
theorem w64_setWidth {n : Nat} (v : BitVec n) : w64 v.toNat = v.setWidth 64 := BitVec.ofNat_toNat 64 v

/-! ## Control words (R229) -/

/-- A `CWR` THAT MAY READ its word delivers it. -/
theorem delivers_cwr {n : BitVec 14} {pre : State → Prop} {f : State → Block → W64} (hn : cwKnown n.toNat = true)
    (hp : ∀ s, pre s → cwPrivileged n.toNat = true → (s.ctx s.focus.l).sup = true)
    (hf : ∀ s b, w64 (s.controlRead s.focus.l b n.toNat) = f s b) :
    Completes (.cwr p n t0) p [] (fun s _ _ => pre s) (fun _ b _ => b) fun s b _ => s.tokensOf b [(0, .val (f s b), [t0])] := by
  refine completes_of (fun _ => rfl) fun s b _ hb _ hpre => ⟨alike_refl b, ?_⟩
  have hs : (cwPrivileged n.toNat && !(s.ctx s.focus.l).sup) = false := by
    cases h : cwPrivileged n.toNat
    · rfl
    · rw [hp s hpre h]; rfl
  rw [run_inBlock hb]
  simp only [hn, hs, hf, Bool.not_true, Bool.false_eq_true, if_false]
  exact Fired_send (xs := []) hb (alike_refl b) (fired_refl hb)

/-- Settles O10: each known word is delivered as it stands. -/
theorem controlWordReads : Obligations.ControlWordReads := by
  intro p t0
  refine ⟨?fm, ?step, ?steal, ?prio, ?ctxstate, ?trapvec, ?trapframe, ?pasid, ?home, ?spill, ?tree, fun k hk => ?dike⟩
  case fm => exact delivers_cwr rfl (fun _ _ h => by cases h) fun _ b => w64_toNat b.fm0
  case step => exact delivers_cwr rfl (fun _ _ h => by cases h) fun _ _ => w64_toNat _
  case steal => exact delivers_cwr rfl (fun _ _ h => by cases h) fun _ _ => w64_setWidth _
  case prio => exact delivers_cwr rfl (fun _ _ h => by cases h) fun _ _ => w64_toNat _
  case ctxstate => exact delivers_cwr rfl (fun _ _ h => by cases h) fun _ _ => rfl
  case trapvec => exact delivers_cwr rfl (fun _ h _ => h) fun _ _ => w64_toNat _
  case trapframe => exact delivers_cwr rfl (fun _ h _ => h) fun _ _ => w64_toNat _
  case pasid => exact delivers_cwr rfl (fun _ _ h => by cases h) fun _ _ => w64_setWidth _
  case home => exact delivers_cwr rfl (fun _ _ h => by cases h) fun _ _ => w64_toNat _
  case spill => exact delivers_cwr rfl (fun _ _ h => by cases h) fun _ _ => w64_toNat _
  case tree => exact delivers_cwr rfl (fun _ _ h => by cases h) fun _ _ => w64_toNat _
  case dike =>
    have hn : (BitVec.ofNat 14 (0x40 + k)).toNat = 0x40 + k := by simp; omega
    refine delivers_cwr ?_ (fun _ h _ => h) fun s b => ?_
    · simp [hn, cwKnown]; omega
    · have : s.controlRead s.focus.l b (0x40 + k) = (b.dikes0.getD (0x40 + k - 0x40) 0#64).toNat := if_pos (Nat.le_add_right _ _)
      rw [hn, this, Nat.add_sub_cancel_left, w64_toNat]

/-! ## READ (R65, R67, R78) -/

/-- A `READ` OF A REGISTER WITHOUT A QUEUE delivers its value. -/
theorem delivers_read {r : BitVec 5} {pre : State → Prop} {f : State → Block → W64} (hr : (r.toNat = 21 || (portOf r.toNat).isSome) = false)
    (hf : ∀ s b, s.firingBlock b → pre s → w64 (s.regValue s.focus.l r.toNat) = f s b) :
    Completes (.read r t1 t0) .always [] (fun s _ _ => pre s) (fun _ b _ => b) fun s b _ => s.tokensOf b [(0, .val (f s b), [t0, t1])] := by
  refine completes_inBlock (fun _ => rfl) fun s b hb hp => ⟨alike_refl b, ?_⟩
  simp only [hr, Bool.false_eq_true, if_false, run_seq, hf s b hb hp]
  exact Fired_send (xs := []) hb (alike_refl b) (Fired_block (fired_refl hb) fun f w => ⟨f, _, rfl⟩)

/-- A `READ` OF A QUEUE WITH A WORD FOR IT delivers the word and reserves it. -/
theorem reserves_read {r : BitVec 5} {w : PortWord} (hr : (r.toNat = 21 || (portOf r.toNat).isSome) = true) :
    Completes (.read r t1 t0) .always [] (fun s b _ => s.queueWord s.focus.l b r.toNat = some w)
      (fun s b _ => { b with pops := b.pops ++ [⟨r.toNat, s.focus.slot, w.tag, w.word⟩] })
      fun s b _ => s.tokensOf b [(0, .val w.word, [t0, t1])] := by
  refine completes_inBlock (fun _ => rfl) fun s b hb hp => ⟨⟨rfl, rfl, rfl⟩, ?_⟩
  simp only [hr, if_true, hp, run_seq]
  exact Fired_send (xs := []) hb ⟨rfl, rfl, rfl⟩ (Fired_block (fired_refl hb) fun f w => ⟨f, _, rfl⟩)

theorem word_has_no_queue {r : BitVec 5} (h : r.toNat < 16) : (r.toNat = 21 || (portOf r.toNat).isSome) = false := by
  have h1 : ¬ r.toNat = 21 := by omega
  have h2 : ¬ (24 ≤ r.toNat ∧ r.toNat ≤ 27) := by omega
  simp [portOf, h1, h2]

/-- A workspace word as a block finds it. -/
theorem regValue_word {s : State} {l : Loc} {r : Nat} (h : r < 16) (ha : isAhead l = false) : s.regValue l r = s.wword l r := by
  simp [State.regValue, h, ha]
theorem regValue_ahead {s : State} {l : Loc} {b : Block} {r : Nat} (h : r < 16) (ha : isAhead l = true) (hb : (s.ctx l).block = some b) :
    s.regValue l r = (s.aheadWord l b r).getD 0 := by
  simp [State.regValue, h, ha, hb]

/-- Settles O6: the registers without a queue by their numbers, the others by the word that `queueWord` finds. -/
theorem readResults : Obligations.ReadResults := by
  refine ⟨fun t1 t0 => ⟨fun r hr => ⟨?word, ?aheadWord⟩, ?wp, ?tid, ?stat, ?pol, fun r hr => ?rings, ?fq, ?cyc, ?zero⟩, fun t1 t0 w r hr => ?queues⟩
  case word => exact delivers_read (word_has_no_queue hr) fun s b _ ha => congrArg w64 (regValue_word hr ha)
  case aheadWord => exact delivers_read (word_has_no_queue hr) fun s b hb ha => congrArg w64 (regValue_ahead hr ha (blockAt_some hb.1).1)
  case wp => exact delivers_read rfl fun s b _ _ => w64_setWidth _
  case tid => exact delivers_read rfl fun s b _ _ => rfl
  case stat => exact delivers_read rfl fun s b _ _ => rfl
  case pol => exact delivers_read rfl fun s b _ _ => w64_toNat _
  case rings =>
    simp only [List.mem_cons, List.not_mem_nil, or_false] at hr
    rcases hr with rfl | rfl | rfl
    all_goals exact delivers_read rfl fun s b _ _ => rfl
  case fq => exact delivers_read rfl fun s b _ _ => rfl
  case cyc => exact delivers_read rfl fun s b _ _ => rfl
  case zero => exact delivers_read rfl fun s b _ _ => rfl
  case queues =>
    refine reserves_read ?_
    simp only [List.mem_cons, List.not_mem_nil, or_false] at hr
    rcases hr with rfl | rfl | rfl | rfl | rfl <;> rfl

/-! ## What an act leaves -/

/-- The act, run in any state, leaves what `f` shows of it. -/
def Act.Leaves {α : Type} (f : State → α) (a : Act) : Prop := ∀ s, f (a.run s) = f s

section leaves
variable {α : Type} {f : State → α}

theorem leaves_skip : Act.skip.Leaves f := fun _ => rfl
theorem leaves_seq {a b : Act} (ha : a.Leaves f) (hb : b.Leaves f) : (Act.seq a b).Leaves f :=
  fun s => (hb _).trans (ha s)
theorem leaves_read {k : State → Act} (h : ∀ s, (k s).Leaves f) : (Act.read k).Leaves f := fun s => h s s
theorem leaves_all {as : List Act} (h : ∀ a ∈ as, a.Leaves f) : (Act.all as).Leaves f := by
  induction as with
  | nil => exact leaves_skip
  | cons a as ih => exact leaves_seq (h a (.head _)) (ih fun b hb => h b (.tail _ hb))
theorem leaves_each {β : Type} {xs : List β} {g : β → Act} (h : ∀ x, (g x).Leaves f) : (Act.each xs g).Leaves f :=
  leaves_all fun _ ha => by obtain ⟨x, _, rfl⟩ := List.mem_map.1 ha; exact h x
theorem leaves_when {c : Bool} {a : Act} (h : a.Leaves f) : (Act.when c a).Leaves f := by
  cases c
  · exact leaves_skip
  · exact h

end leaves

/-! ## A walk that a unit takes at once (R327) -/

/-- What a walk leaves: every context, the step's focus and the time. -/
def State.stage (s : State) : List (Loc × Context) × Focus × Nat := (s.ctxs, s.focus, s.now)

theorem leaves_startZeroing (q : Place) : (Act.startZeroing q).Leaves State.stage :=
  leaves_read fun _ => leaves_when (leaves_seq (fun _ => rfl) fun _ => rfl)
theorem leaves_countTorn (l : Loc) (part pasid a : Nat) : (Act.countTorn l part pasid a).Leaves State.stage := by
  refine leaves_read fun s => ?_
  split
  · exact fun _ => rfl
  · exact leaves_skip
theorem leaves_walkNow (l : Loc) (part pasid a : Nat) : (Act.walkNow l part pasid a).Leaves State.stage := by
  refine leaves_read fun s => leaves_when ?_
  split
  · exact leaves_when fun _ => rfl
  · exact leaves_seq (leaves_each leaves_startZeroing) <| leaves_seq (fun _ => rfl) <| leaves_seq (fun _ => rfl) <|
      leaves_seq (leaves_countTorn _ _ _ _) <| leaves_seq (fun _ => rfl) leaves_skip

theorem walked_stage (s : State) (a : Nat) : (s.walked a).stage = s.stage := leaves_walkNow _ _ _ _ s
theorem walked_ctxs (s : State) (a : Nat) : (s.walked a).ctxs = s.ctxs := congrArg (·.1) (walked_stage s a)
theorem walked_focus (s : State) (a : Nat) : (s.walked a).focus = s.focus := congrArg (·.2.1) (walked_stage s a)
theorem walked_now (s : State) (a : Nat) : (s.walked a).now = s.now := congrArg (·.2.2) (walked_stage s a)

/-- The block that fires is the same behind the walk. -/
theorem walked_firingBlock {s : State} {b : Block} (hb : s.firingBlock b) (a : Nat) : (s.walked a).firingBlock b := by
  unfold State.firingBlock State.blockAt State.ctx
  rw [walked_ctxs, walked_focus]
  exact hb

/-- A home address needs no walk. -/
theorem walked_home {s : State} {a : Nat} (h : a < 2 ^ 40) : s.walked a = s := by
  have : virtualForm a = false := by rw [virtualForm, decide_eq_false (by omega : ¬ 2 ^ 40 ≤ a)]; rfl
  rw [State.walked, Act.walkNow, run_read, run_when, this]
  rfl

/-! ## Exits (R96, R97, R101, R231) -/

/-- THE FIRST EXIT is recorded. -/
theorem Fired_exitWith {s : State} {b : Block} {k : State → Block → ExitAct} (hb : s.firingBlock b) (he : b.exit = none) :
    s.Fired ((Act.exitWith k).run s) b { b with exit := some (k s b), exits := b.exits + 1 } [] := by
  rw [Act.exitWith, run_inBlock hb, he]
  exact Fired_block (fired_refl hb) fun f w => ⟨f, w, rfl⟩

/-- A SECOND EXIT fails the block. -/
theorem Fired_exitTwice {s : State} {b : Block} {k : State → Block → ExitAct} (hb : s.firingBlock b) (he : b.exit.isSome) :
    s.Fired ((Act.exitWith k).run s) b { b with fault := some ⟨s.now, s.focus.slot, 2, 7, 0⟩ }
      [⟨s.now, .event (.blockAbandon s.focus.l s.focus.epoch)⟩] := by
  rw [Act.exitWith, run_inBlock hb, if_pos he]
  exact Fired_fault hb (by decide)

/-- AN EXIT is recorded, or fails the block as the second one. -/
theorem exits_of {a : Act} {k : List W64 → Act} {pre : State → Block → List W64 → Prop} {f : State → Block → List W64 → ExitAct}
    (he : ∀ s, exec i s = slotStep (.firing p os a k) s)
    (hk : ∀ s b vs, s.firingBlock b → pre s b vs → ∃ g, (k vs).run s = (Act.exitWith g).run s ∧ g s b = f s b vs) :
    Completes i p os (fun s b vs => b.exit = none ∧ pre s b vs)
      (fun s b vs => { b with exit := some (f s b vs), exits := b.exits + 1 }) (fun _ _ _ => []) ∧
    Faults i p os (fun s b vs => b.exit.isSome ∧ pre s b vs) 2 7 (fun _ => 0) := by
  refine ⟨completes_of he fun s b vs hb _ hp => ⟨⟨rfl, rfl, rfl⟩, ?_⟩, completes_of he fun s b vs hb _ hp => ⟨⟨rfl, rfl, rfl⟩, ?_⟩⟩ <;>
    obtain ⟨g, hg, hf⟩ := hk s b vs hb hp.2
  · rw [hg, ← hf]
    exact Fired_exitWith hb hp.1
  · rw [hg]
    exact Fired_exitTwice hb hp.1

/-- `MIGR` in a context that is not composed walks its target and records the exit there. -/
theorem exec_migr {s : State} {b : Block} {vs : List W64} {d : Loc} {e : BitVec 3} {o : BitVec 20} (hb : s.firingBlock b)
    (hp : predFall p (b.tok s .x) = .taken) (hv : b.gives s [.l] vs) (hl : (s.ctx s.focus.l).lead = none)
    (hd : s.migrTarget s.focus.l (arg vs 0).toNat = .ok d) : exec (.migr p e o) s =
      .next (Act.settleFocus.run ((Act.exitWith fun _ _ => .migrate (exitTarget b.addr o) d).run (s.walked (arg vs 0).toNat))) := by
  change execMigr p e o s = _
  rw [execMigr, slotStep, done, run_seq, run_firing hb hp hv, run_inBlock hb, hl, hd]
  rfl

/-- Settles O8: every exit is the shared record of an exit; that of `MIGR` is made behind its walk, which a home address does without. -/
theorem exitsRecorded : Obligations.ExitsRecorded := by
  intro p e o
  refine ⟨?br, ?brl, ?call, ?calll, ?ret, ?endExit, ?susp, ?sysc, ⟨?home, ?homeTwice⟩, fun s b v d hb hp hv hl hd => ?migr⟩
  case br => exact exits_of (fun _ => rfl) fun _ _ _ _ _ => ⟨_, rfl, rfl⟩
  case brl => exact exits_of (fun _ => rfl) fun _ _ _ _ _ => ⟨_, rfl, rfl⟩
  case call => exact exits_of (fun _ => rfl) fun _ _ _ _ _ => ⟨_, rfl, rfl⟩
  case calll => exact exits_of (fun _ => rfl) fun _ _ _ _ _ => ⟨_, rfl, rfl⟩
  case ret => exact exits_of (fun _ => rfl) fun _ _ _ _ _ => ⟨_, rfl, rfl⟩
  case endExit => exact exits_of (fun _ => rfl) fun _ _ _ _ _ => ⟨_, rfl, rfl⟩
  case susp => exact exits_of (fun _ => rfl) fun _ _ _ _ _ => ⟨_, rfl, rfl⟩
  case sysc => exact exits_of (fun _ => rfl) fun _ _ _ _ _ => ⟨_, rfl, rfl⟩
  case home =>
    intro s b vs hb hp hv ⟨hx, hl, ha⟩
    refine ⟨_, exec_migr hb hp hv hl (if_pos ha), ?_⟩
    rw [walked_home ha]
    exact Fired_settle hb ⟨rfl, rfl, rfl⟩ (Fired_exitWith hb hx)
  case homeTwice =>
    intro s b vs hb hp hv ⟨hx, hl, ha⟩
    refine ⟨_, exec_migr hb hp hv hl (if_pos ha), ?_⟩
    rw [walked_home ha]
    exact Fired_settle hb ⟨rfl, rfl, rfl⟩ (Fired_exitTwice hb hx)
  case migr =>
    have h0 := walked_firingBlock hb v.toNat
    refine ⟨_, exec_migr hb hp hv hl hd, fun hx => Fired_settle h0 ⟨rfl, rfl, rfl⟩ (Fired_exitWith h0 hx), fun hx => ?_⟩
    rw [← walked_now s v.toNat, ← walked_focus s v.toNat]
    exact Fired_settle h0 ⟨rfl, rfl, rfl⟩ (Fired_exitTwice h0 hx)

end Sys2Proof.Machine
end

section
/-! SUPPORT. The firing of loads, stores, fences, prefetches and atomics (spec/05). -/

namespace Sys2Proof.Machine

/-! ## Firings that send the same entries -/

/-- The order in which entries are sent does not matter. -/
theorem Fired_mem {s t : State} {b b' : Block} {xs ys : List Pending} (h : s.Fired t b b' xs) (hm : ∀ q, q ∈ ys ↔ q ∈ xs) : s.Fired t b b' ys :=
  ⟨h.rest, h.others, h.own, h.kept, fun q hq => h.sent q ((hm q).1 hq), fun q hq => by rw [hm q]; exact h.only q hq⟩

/-! ## The checks of a load (R107) -/

section loads
variable {s : State} {a n : Nat}

theorem run_loadFire_misaligned (h : a % n ≠ 0) : (Act.loadFire a n).run s = (Act.fault 3 0 a).run s := by
  simp [Act.loadFire, h]

theorem run_loadFire_outside (h : a % n = 0) (ha : a < 2 ^ 40) (hp : homePlace s.focus.l a = none) :
    (Act.loadFire a n).run s = (Act.fault 4 0 a).run s := by
  simp only [Act.loadFire, run_read, h, ha, hp, ne_eq, not_true_eq_false, if_false, if_true]

theorem run_loadFire_unowned {off : Nat} (h : a % n = 0) (hp : homePlace s.focus.l a = some ⟨s.focus.l.toPolder, 1, off⟩)
    (ht : s.tierKey s.focus.l off = none) : (Act.loadFire a n).run s = (Act.fault 4 0 a).run s := by
  simp [-Nat.reducePow, Act.loadFire, h, homePlace_lt hp, hp, ht]

theorem run_loadFire_handlers {off : Nat} (h : a % n = 0) (hp : homePlace s.focus.l a = some ⟨s.focus.l.toPolder, 5, off⟩)
    (hs : (s.ctx s.focus.l).sup = false) : (Act.loadFire a n).run s = (Act.fault 0x0C 0 a).run s := by
  simp [-Nat.reducePow, Act.loadFire, h, homePlace_lt hp, hp, hs]

/-- Cycles of the direct path to the core memory at an offset (R330). -/
def State.directTime (s : State) (off : Nat) : Nat := if off / 0x20000 = s.focus.l.core then 4 else 16

section core
variable {off : Nat} (h : a % n = 0) (hp : homePlace s.focus.l a = some ⟨s.focus.l.toPolder, 2, off⟩)
include h hp

/-- A LOAD OF A CORE MEMORY of its polder: a lock of another stops it, an error is answered, and else it is performed. -/
theorem run_loadFire_locked {r : RangeLock} (hl : s.lockHit s.focus.l (keyIn s.focus.l.toPolder 2 off) n true = some r) (ho : r.owner ≠ s.focus.l) :
    (Act.loadFire a n).run s = (Act.direct (s.directTime off) 8 a []).run s := by
  have hk : s.keyOf ⟨s.focus.l.toPolder, 2, off⟩ = some (keyIn s.focus.l.toPolder 2 off) := rfl
  simp [-Nat.reducePow, Act.loadFire, h, homePlace_lt hp, hp, hk, State.directTime, hl, ho]
theorem run_loadFire_torn (hl : s.lockHit s.focus.l (keyIn s.focus.l.toPolder 2 off) n true = none)
    (he : s.eccHit (keyIn s.focus.l.toPolder 2 off) n = true) :
    (Act.loadFire a n).run s = (Act.direct (s.directTime off) 0x11 a []).run ((Act.count s.focus.l 0x358).run s) := by
  have hk : s.keyOf ⟨s.focus.l.toPolder, 2, off⟩ = some (keyIn s.focus.l.toPolder 2 off) := rfl
  simp [-Nat.reducePow, Act.loadFire, h, homePlace_lt hp, hp, hk, State.directTime, hl, he]
theorem run_loadFire_performs (hl : s.lockHit s.focus.l (keyIn s.focus.l.toPolder 2 off) n true = none)
    (he : s.eccHit (keyIn s.focus.l.toPolder 2 off) n = false) :
    (Act.loadFire a n).run s = (Act.performLoad s.focus.l s.focus.epoch s.focus.slot a n (keyIn s.focus.l.toPolder 2 off)
      (.direct (s.directTime off) 0 a)).run s := by
  have hk : s.keyOf ⟨s.focus.l.toPolder, 2, off⟩ = some (keyIn s.focus.l.toPolder 2 off) := rfl
  simp [-Nat.reducePow, Act.loadFire, h, homePlace_lt hp, hp, hk, State.directTime, hl, he]

end core

end loads

/-- The answer of a direct load: the slot waits for it. -/
theorem Fired_direct {s t : State} {b b' : Block} {xs : List Pending} {d c a : Nat} {data : List Byte} (h : s.Fired t b b' xs) :
    s.Fired ((Act.direct d c a data).run t) b { b' with out := s.focus.slot :: b'.out }
      (xs ++ [⟨s.now + d, .event (.loadReply s.focus.l s.focus.epoch s.focus.slot none ⟨c, a, data⟩)⟩]) := by
  have := Fired_event (d := d) (e := .loadReply s.focus.l s.focus.epoch s.focus.slot none ⟨c, a, data⟩) (Fired_pend h)
  rwa [← Fired_focus h] at this ⊢

/-- A LOAD IS PERFORMED in a core memory of its polder: what it sees is answered and kept, and a write that it would miss has the block executed again. -/
theorem Fired_performLoad {s : State} {b : Block} {a n off d : Nat} (hb : s.firingBlock b)
    (hp : homePlace s.focus.l a = some ⟨s.focus.l.toPolder, 2, off⟩) :
    s.Fired ((Act.performLoad s.focus.l s.focus.epoch s.focus.slot a n (keyIn s.focus.l.toPolder 2 off) (.direct d 0 a)).run s) b (b.reads s n off)
      (⟨s.now + d, .event (.loadReply s.focus.l s.focus.epoch s.focus.slot none ⟨0, a, (s.coreSees b n off).1⟩)⟩ ::
        if (s.coreSees b n off).2.2 then [⟨s.now, .event (.blockAbandon s.focus.l s.focus.epoch)⟩] else []) := by
  have hk : s.homeKey s.focus.l a = some (keyIn s.focus.l.toPolder 2 off) := by rw [State.homeKey, hp]; rfl
  have hpl : s.loadPlace s.focus.l a = keyIn s.focus.l.toPolder 2 off := by rw [State.loadPlace, if_pos (homePlace_lt hp), hk]; rfl
  have hx : s.loadSees b s.focus.slot (keyIn s.focus.l.toPolder 2 off) n (keyIn s.focus.l.toPolder 2 off) = s.coreSees b n off := rfl
  have hseen : ∀ {t : State} {b' : Block} {xs : List Pending}, s.Fired t b b' xs → s.Fired ((Act.block s.focus.l fun y =>
      { y with got := y.got ++ [⟨((b.instrAt s.focus.slot).bind loadLsid).getD 0, s.focus.slot, keyIn s.focus.l.toPolder 2 off, n,
        (s.coreSees b n off).2.1⟩] }).run t) b { b' with got := b'.got ++ [⟨((b.instrAt s.focus.slot).bind loadLsid).getD 0, s.focus.slot,
          keyIn s.focus.l.toPolder 2 off, n, (s.coreSees b n off).2.1⟩] } xs := fun h => Fired_block h fun f w => ⟨f, w, rfl⟩
  simp only [Act.performLoad, run_read, hb.1, hpl, hx, run_all_cons, run_all_nil, run_when, run_seq]
  cases hagain : (s.coreSees b n off).2.2
  · have h := Fired_direct (d := d) (c := 0) (a := a) (data := (s.coreSees b n off).1) (hseen (fired_refl hb))
    have hr : b.reads s n off = { b.awaits s with
        got := b.got ++ [⟨((b.instrAt s.focus.slot).bind loadLsid).getD 0, s.focus.slot, keyIn s.focus.l.toPolder 2 off, n, (s.coreSees b n off).2.1⟩] } := by
      rw [Block.reads, hagain]; rfl
    rw [hr]
    exact h
  · have h1 : s.Fired ((Act.event 0 (.blockAbandon s.focus.l s.focus.epoch)).run ((Act.block s.focus.l fun y => { y with again := true }).run s)) b
        { b with again := true } [⟨s.now, .event (.blockAbandon s.focus.l s.focus.epoch)⟩] :=
      Fired_event (d := 0) (xs := []) (Fired_block (fired_refl hb) fun f w => ⟨f, w, rfl⟩)
    have h := Fired_direct (d := d) (c := 0) (a := a) (data := (s.coreSees b n off).1) (hseen h1)
    have hr : b.reads s n off = { b.awaits s with again := true
                                                  got := b.got ++ [⟨((b.instrAt s.focus.slot).bind loadLsid).getD 0, s.focus.slot, keyIn s.focus.l.toPolder 2 off, n, (s.coreSees b n off).2.1⟩] } := by
      rw [Block.reads, hagain]; rfl
    rw [hr]
    exact Fired_mem h fun q => by simp [or_comm]

/-- A LOAD ELSEWHERE goes to the owner of its place. -/
theorem run_loadFire_asks {s : State} {a n : Nat} {q : Place} (h : a % n = 0)
    (hrd : s.readerOf s.focus.l (s.ctx s.focus.l).pasid.toNat a = none)
    (hsp : a < 2 ^ 40 → ∃ q, homePlace s.focus.l a = some q ∧ q.space < 2) (hm : s.missesOf s.focus.l < 48)
    (hr : s.reaches (s.asked a n (.load s.focus.l s.focus.epoch s.focus.slot none)) q) :
    (Act.loadFire a n).run s = (Act.submit (s.asked a n (.load s.focus.l s.focus.epoch s.focus.slot none))).run (Act.pendMiss.run s) := by
  have hm : ¬ missLimit ≤ s.missesOf s.focus.l := Nat.not_le.2 hm
  by_cases ha : a < 2 ^ 40
  · obtain ⟨p, hp, h2⟩ := hsp ha
    have ht : (p.space = 1 && (s.tierKey s.focus.l p.off).isNone) = false := by
      rcases hr.2.2 with hr | hr | hr
      · have hres := hr.2
        simp only [State.asked, State.resolve, ha, if_true, hp, homePlace_owner hp, tierKey_owner] at hres
        cases hc : (p.space = 1 && (s.tierKey s.focus.l p.off).isNone)
        · rfl
        · simp only [hc, if_true] at hres
          cases hres
      · exact absurd ha (Nat.not_lt.2 hr.1)
      · exact absurd ha (Nat.not_lt.2 hr.1)
    simp only [Act.loadFire, run_read, h, ha, hp, ht, h2, hm, hrd, ne_eq, not_true_eq_false, if_false, if_true, Bool.false_eq_true]
    rfl
  · simp only [Act.loadFire, run_read, h, ha, hm, hrd, ne_eq, not_true_eq_false, if_false]
    rfl

/-- Settles O15: a core memory of the polder by the direct path, every other place by a request. -/
theorem loadsRequest : Obligations.LoadsRequest := by
  intro p n i sc o t0 x hx
  refine ⟨fun off => completes_of (load_form x hx) fun s b vs hb _ ⟨ha, hp, hl, he⟩ => ⟨⟨rfl, rfl, rfl⟩, ?_⟩, ?_⟩
  · rw [run_loadFire_performs ha hp hl he]
    exact Fired_performLoad hb hp
  · intro s b vs q hb hp hv ⟨ha, hrd, hsp, hm⟩ hr
    refine completes_over (load_form x hx s) hb hp hv hb rfl (b' := b.misses s) ⟨rfl, rfl, rfl⟩ ?_
    rw [run_loadFire_asks ha hrd hsp hm hr]
    exact Fired_ask hb hr rfl fun f w => ⟨f, w, rfl⟩

/-- A null address delivers a null. -/
theorem run_firing_null {s : State} {b : Block} {p : Pred} {os : List Opnd} {a : Act} {k : List W64 → Act} (hb : s.firingBlock b)
    (hp : predFall p (b.tok s .x) = .taken) (hn : tokVals (os.map (b.tok s)) = none) : (Act.firing p os a k).run s = a.run s := by
  rw [Act.firing, run_inBlock hb, hp, hn]

/-- Settles O16: the checks of a load in their order. -/
theorem loadChecks : Obligations.LoadChecks := by
  intro p n i sc o t0 x hx
  have he := load_form x hx
  refine ⟨?misaligned, ?outside, ?unowned, ?handlers, fun off r => ?locked, fun off s b vs hb hp hv ha hh hl he2 => ?torn, fun s b hb hp hn => ?null⟩
  case misaligned => exact faults_of (by decide) he fun s b vs _ _ h => run_loadFire_misaligned h
  case outside => exact faults_of (by decide) he fun s b vs _ _ ⟨h, ha, hp⟩ => run_loadFire_outside h ha hp
  case unowned => exact faults_of (by decide) he fun s b vs _ _ ⟨h, off, hp, ht⟩ => run_loadFire_unowned h hp ht
  case handlers => exact faults_of (by decide) he fun s b vs _ _ ⟨h, hs, off, hp⟩ => run_loadFire_handlers h hp hs
  case locked =>
    refine completes_of he fun s b vs hb _ ⟨h, hp, hl, ho⟩ => ⟨⟨rfl, rfl, rfl⟩, ?_⟩
    rw [run_loadFire_locked h hp hl ho]
    exact Fired_direct (xs := []) (fired_refl hb)
  case torn =>
    refine completes_over (he s) hb hp hv (s0 := s.counted 0x358) hb rfl (b' := b.awaits s) ⟨rfl, rfl, rfl⟩ ?_
    rw [run_loadFire_torn ha hh hl he2]
    exact Fired_direct (s := s.counted 0x358) (xs := []) (fired_refl hb)
  case null =>
    have ht : tokVals ([Opnd.l].map (b.tok s)) = none := by simp [Block.tok, hn, tokVals]
    refine ⟨_, ?_, Fired_settle hb ⟨rfl, rfl, rfl⟩ (Fired_send (xs := []) hb ⟨rfl, rfl, rfl⟩
      (Fired_block (g := fun b => { b with done := s.focus.slot :: b.done }) (fired_refl hb) fun f w => ⟨f, w, rfl⟩))⟩
    rw [he, fireLoad, slotStep, done, run_seq, run_firing_null hb hp ht]
    rfl

/-! ## Stores (R108, R115, R466) -/

/-- A store that passes its checks is held. -/
theorem Fired_markStore {s : State} {b : Block} {st : Nat → PendStore} (hb : s.firingBlock b) (hf : b.lsidFree (st s.focus.slot).lsid) :
    s.Fired ((Act.markStore st).run s) b { b with stores := b.stores ++ [st s.focus.slot] } [] := by
  simp only [Act.markStore, run_inBlock hb, lsid_free.1 hf, Bool.false_eq_true, if_false]
  exact Fired_block (fired_refl hb) fun f w => ⟨f, w, rfl⟩

/-- THE CHECKS OF AN ALIGNED STORE to a home place, in order (R108). -/
theorem storeCause_home {s : State} {l : Loc} {a n : Nat} {q : Place} (h : a % n = 0) (hq : homePlace l a = some q) :
    s.storeCause l a n =
      if q.space = 1 ∧ s.tierKey l q.off = none then 7
      else if q.space = 0 ∧ (s.ctx l).home.toNat % 2 ^ 24 ≠ 0 ∧ (s.ctx l).home.toNat % 2 ^ 24 * 0x10000 ≤ q.off then 7
      else if q.space = 5 ∧ (s.ctx l).sup = false then 0x0C
      else if s.workspaceHit q n then 8 else 0 := by
  have ha : ¬ 2 ^ 40 ≤ a := Nat.not_le.2 (homePlace_lt hq)
  have hlim : bits (s.ctx l).home.toNat 23 0 = (s.ctx l).home.toNat % 2 ^ 24 := by simp [bits]
  simp only [State.storeCause, State.storeRange, h, ha, hq, hlim, ne_eq, not_true_eq_false, if_false, Bool.and_eq_true, decide_eq_true_eq,
    Option.isNone_iff_eq_none, Bool.not_eq_true', and_assoc]
  by_cases h1 : q.space = 1 ∧ s.tierKey l q.off = none
  · simp [h1]
  · by_cases h2 : q.space = 0 ∧ ¬ (s.ctx l).home.toNat % 2 ^ 24 = 0 ∧ (s.ctx l).home.toNat % 2 ^ 24 * 0x10000 ≤ q.off
    · simp [-Nat.reducePow, h2]
    · simp [-Nat.reducePow, h1, h2]

/-- A store that fails a check fails it with one of four causes. -/
theorem storeCause_cases (s : State) (l : Loc) (a n : Nat) : s.storeCause l a n ∈ [0, 3, 7, 8, 0x0C] := by
  by_cases h : a % n = 0
  · cases hq : homePlace l a with
    | none => simp [State.storeCause, State.storeRange, h, hq]
    | some q => rw [storeCause_home h hq]; (repeat' split) <;> simp
  · simp [State.storeCause, State.storeRange, h]

/-- The bytes meet the workspace of no live context where every context of the core is DORMANT, and that of a live one where they overlap it (R63). -/
theorem workspaceHit_of {s : State} {q : Place} {n k : Nat} {x : Loc} (h2 : q.space = 2) (ho : q.owner.toPolder = q.owner) (hk : k < 8)
    (hx : x = { q.owner with core := q.off / 0x20000, ctx := k }) (hs : (s.ctx x).state ≠ 0#3)
    (hlo : x.core * 0x20000 + (s.ctx x).wp.toNat < q.off + n) (hhi : q.off < x.core * 0x20000 + (s.ctx x).wp.toNat + 128) :
    s.workspaceHit q n = true := by
  subst hx
  simp only [State.workspaceHit, h2, beq_self_eq_true, Bool.true_and, List.any_eq_true, List.mem_range, Bool.and_eq_true, decide_eq_true_eq, overlap, ho]
  exact ⟨k, hk, hs, hlo, hhi⟩
theorem workspaceHit_dormant {s : State} {q : Place} {n : Nat} (ho : q.owner.toPolder = q.owner)
    (hs : ∀ k, k < 8 → (s.ctx { q.owner with core := q.off / 0x20000, ctx := k }).state = 0#3) : s.workspaceHit q n = false := by
  simp only [State.workspaceHit, ho, Bool.and_eq_false_iff, List.any_eq_false, List.mem_range]
  exact .inr fun k hk => by simp [hs k hk]

/-- Settles O18: each clause takes one branch of the ordered checks. -/
theorem storeChecks : Obligations.StoreChecks := by
  intro s l a n _ limit
  refine ⟨fun h => ?_, fun h ha => ?_, fun h ha hp => ?_, fun q h hq => ?_⟩
  · simp [State.storeCause, State.storeRange, h]
  · simp [State.storeCause, State.storeRange, h, show (1099511627776 : Nat) ≤ a from ha]
  · simp [State.storeCause, State.storeRange, h, hp]
  · have ho : q.owner.toPolder = q.owner := by rw [homePlace_owner hq]; rfl
    rw [storeCause_home h hq]
    refine ⟨fun h1 ht => ?_, fun h0 hl hlo => ?_, fun h5 hs => ?_, fun h2 k x hk hx hs hlo hhi => ?_, fun h2 hs => ?_, fun h3 => ?_, fun h0 hl => ?_,
      fun h1 ht => ?_, fun h5 hs => ?_⟩
    · simp [h1, ht]
    · simp only [h0]
      rw [if_neg (by simp), if_pos ⟨trivial, hl, hlo⟩]
    · simp [h5, hs]
    · simp [h2, workspaceHit_of h2 ho hk hx hs hlo hhi]
    · simp [h2, workspaceHit_dormant ho hs]
    · simp [h3, State.workspaceHit]
    · have : ¬ (limit ≠ 0 ∧ limit * 0x10000 ≤ q.off) := by omega
      simp only [h0]
      rw [if_neg (by simp), if_neg (fun h => this h.2)]
      simp [State.workspaceHit, h0]
    · simp [h1, Option.isSome_iff_ne_none.1 ht, State.workspaceHit]
    · simp [h5, hs, State.workspaceHit]

/-- Settles O17: the checks of `storeCause`, then the LSID. -/
theorem storesHeld : Obligations.StoresHeld := by
  intro p n i sc o x hx
  have he := store_form x hx
  refine ⟨?held, fun c hc => ?fails, ?twice, fun s b hb hp hn hf => ?null⟩
  case held =>
    refine completes_of he fun s b vs hb _ ⟨hf, hc⟩ => ⟨⟨rfl, rfl, rfl⟩, ?_⟩
    simp only [run_read, hc, ne_eq, not_true_eq_false, if_false]
    exact Fired_markStore hb hf
  case fails =>
    by_cases hc' : c = 0x11
    · intro s b vs _ _ _ h
      have := h ▸ storeCause_cases s s.focus.l (x.2.2.1 (arg vs 0)) x.2.1
      simp [hc'] at this
    · refine faults_of hc' he fun s b vs _ _ h => ?_
      simp only [run_read, h, ne_eq, hc, not_false_eq_true, if_true]
  case twice =>
    refine faults_of (by decide) he fun s b vs hb _ ⟨hf, hc⟩ => ?_
    have hf : (b.stores.any fun y => y.lsid == n.toNat) = true := by simpa [lsid_free] using hf
    simp only [run_read, hc, ne_eq, not_true_eq_false, if_false, Act.markStore, run_inBlock hb, hf, if_true]
  case null =>
    have ht : tokVals ([Opnd.l, .r].map (b.tok s)) = none := by
      rcases hn with hn | hn
      · simp [Block.tok, hn, tokVals]
      · simp only [List.map_cons, List.map_nil]
        cases b.tok s .l <;> simp [Block.tok, hn, tokVals]
    refine ⟨_, ?_, Fired_settle hb ⟨rfl, rfl, rfl⟩ (Fired_markStore (st := fun slot => ⟨n.toNat, slot, 0, x.2.1, none, false, none⟩) hb hf)⟩
    rw [he, fireStore, slotStep, done, run_seq, run_firing_null hb hp ht]

/-! ## A change of the step's context beside a firing -/

/-- A firing behind a change of the context that does not concern its block is a firing of the changed machine. -/
theorem Fired_ctx {s t : State} {b b' : Block} {xs : List Pending} {g : Context → Context} (h : s.Fired t b b' xs)
    (hg : ∀ c x, g { c with block := x } = { g c with block := x }) :
    ((Act.ctx s.focus.l g).run s).Fired ((Act.ctx s.focus.l g).run t) b b' xs := by
  refine ⟨?_, fun l hl => ?_, ?_, h.kept, h.sent, h.only⟩
  · conv => lhs; rw [h.rest]
    rfl
  · have hl : l ≠ s.focus.l := hl
    rw [run_ctx, run_ctx, ctx_apply_ctx_other _ _ _ _ hl, ctx_apply_ctx_other _ _ _ _ hl, h.others l hl]
  · obtain ⟨f, w, e⟩ := h.own
    exact ⟨f, w, by simp only [run_ctx, apply_ctx_focus, ctx_apply_ctx, e]; exact hg _ _⟩

/-- The predicted blocks are sorted, not selected. -/
theorem ahead_nil {s : State} {l : Loc} : s.ahead l = [] ↔ ∀ m ∈ aheadPlaces l, (s.ctx m).block = none := by
  rw [List.eq_nil_iff_forall_not_mem]
  simp only [State.ahead, mem_sortBy, List.mem_filterMap, Option.map_eq_some_iff, not_exists, not_and]
  constructor
  · intro h m hm
    cases hb : (s.ctx m).block with
    | none => rfl
    | some b => exact absurd rfl (h (m, b) m hm b hb)
  · intro h x m hm b hb
    rw [h m hm] at hb
    cases hb

/-- A firing leaves the predicted blocks absent that were. -/
theorem Fired_ahead {s t : State} {b b' : Block} {xs : List Pending} (hb : s.firingBlock b) (h : s.Fired t b b' xs) (ha : s.ahead s.focus.l = []) :
    t.ahead s.focus.l = [] := by
  rw [ahead_nil] at ha ⊢
  intro m hm
  have hne : m ≠ s.focus.l := by
    rintro rfl
    have := ha _ hm
    rw [(blockAt_some hb.1).1] at this
    cases this
  rw [h.others m hne, ha m hm]

/-- The block that fires is that of the context and of the focus. -/
theorem firingBlock_congr {s t : State} {b : Block} (hf : t.focus = s.focus) (hc : (t.ctx s.focus.l).block = (s.ctx s.focus.l).block)
    (hb : s.firingBlock b) : t.firingBlock b := by
  refine ⟨?_, hb.2⟩
  rw [← hb.1, hf]
  simp only [State.blockAt, hc]

/-! ## FENCE (R118) -/

/-- The release of what others have written lets the fetch see it; with no block fetched ahead it does nothing else. -/
theorem run_acquireCode {s : State} {l : Loc} (ha : s.ahead l = []) :
    (Act.acquireCode l).run s = (Act.ctx l fun c => { c with unacquired := [] }).run s := by
  have : ((Act.ctx l fun c => { c with unacquired := [] }).run s).ahead l = [] := by
    rw [ahead_nil] at ha ⊢
    intro m hm
    have h := ha m hm
    by_cases hml : m = l
    · subst hml
      rw [run_ctx, ctx_apply_ctx]
      exact h
    · rw [run_ctx, ctx_apply_ctx_other _ _ _ _ hml]
      exact h
  rw [Act.acquireCode, run_seq, Act.dropAhead, run_read, this]
  rfl

theorem run_firing_nulled {s : State} {b : Block} {p : Pred} {os : List Opnd} {a : Act} {k : List W64 → Act} (hb : s.firingBlock b)
    (hp : predFall p (b.tok s .x) = .nulled) : (Act.firing p os a k).run s = a.run s := by
  rw [Act.firing, run_inBlock hb, hp]

/-- A load, `LDA`, `PREF` or fence has delivered. -/
theorem Fired_loadDone {s t : State} {b b' : Block} {xs : List Pending} (h : s.Fired t b b' xs) :
    s.Fired (Act.loadDone.run t) b { b' with done := s.focus.slot :: b'.done } xs := by
  rw [Act.loadDone, run_read, Fired_focus h]
  exact Fired_block h fun f w => ⟨f, w, rfl⟩

/-- What a slot sends is not about the changes of its context. -/
theorem tokensOf_ctx {s : State} {b : Block} {xs : List Sending} {g : Context → Context} (hg : ∀ c, (g c).lead = c.lead) :
    ((Act.ctx s.focus.l g).run s).tokensOf b xs = s.tokensOf b xs := by
  have ht : ∀ m n, ((Act.ctx s.focus.l g).run s).transit s.focus.l b m n = s.transit s.focus.l b m n :=
    transit_alike (by rw [run_ctx, ctx_apply_ctx, hg]) (alike_refl b)
  have : ∀ lat tok, ((Act.ctx s.focus.l g).run s).tokenTo b lat tok = s.tokenTo b lat tok := fun lat tok => by
    funext x
    cases x with
    | none => rfl
    | into o n => simp only [State.tokenTo, run_ctx, apply_ctx_focus, apply_ctx_now]; rw [← ht]; rfl
  simp only [State.tokensOf, this]

/-- A fence of kind full or acquire acquires, another does not. -/
theorem Fired_acquire {s t : State} {b b' : Block} {xs : List Pending} {k : FenceKind} (hb : s.firingBlock b) (h : s.Fired t b b' xs)
    (ha : k = .full ∨ k = .acq → s.ahead s.focus.l = []) :
    (s.acquired k).Fired ((Act.when (decide (k = .full ∨ k = .acq)) (.read fun s => .acquireCode s.focus.l)).run t) b b' xs := by
  rw [State.acquired, run_when, run_read, Fired_focus h]
  by_cases hk : k = .full ∨ k = .acq
  · rw [if_pos hk, if_pos (decide_eq_true hk), run_acquireCode (Fired_ahead hb h (ha hk))]
    exact Fired_ctx h fun _ _ => rfl
  · rw [if_neg hk, if_neg (by simpa using hk)]
    exact h

theorem acquired_focus {s : State} {k : FenceKind} : (s.acquired k).focus = s.focus := by
  unfold State.acquired
  split <;> rfl

theorem acquired_firingBlock {s : State} {b : Block} {k : FenceKind} (hb : s.firingBlock b) : (s.acquired k).firingBlock b := by
  refine firingBlock_congr acquired_focus ?_ hb
  unfold State.acquired
  split
  · rw [run_ctx, ctx_apply_ctx]
  · rfl

theorem acquired_tokensOf {s : State} {b : Block} {k : FenceKind} {xs : List Sending} : (s.acquired k).tokensOf b xs = s.tokensOf b xs := by
  unfold State.acquired
  split
  · exact tokensOf_ctx fun _ => rfl
  · rfl

/-- A FENCE delivers zero, keeps its LSID and acquires. -/
theorem exec_fence {s : State} {b : Block} {p : Pred} {n : BitVec 5} {sc : Scope} {k : FenceKind} {t0 : Target} (hb : s.firingBlock b)
    (hp : predFall p (b.tok s .x) = .taken) (ha : k = .full ∨ k = .acq → s.ahead s.focus.l = []) :
    ∃ t, exec (.fence p n sc k t0) s = .next t ∧ (s.acquired k).Fired t b
      { b with done := s.focus.slot :: b.done, fenced := if k = .full then some (max n.toNat (b.fenced.getD 0)) else b.fenced }
      (s.tokensOf b [(0, .val 0#64, [t0])]) := by
  have hf : s.Fired ((Act.when (decide (k = .full)) (.read fun s => .block s.focus.l fun b =>
        { b with fenced := some (max n.toNat (b.fenced.getD 0)) })).run (Act.loadDone.run s)) b
      { b with done := s.focus.slot :: b.done, fenced := if k = .full then some (max n.toNat (b.fenced.getD 0)) else b.fenced } [] := by
    have h := Fired_loadDone (fired_refl hb)
    rw [run_when, run_read, Fired_focus h]
    by_cases hk : k = .full
    · simp only [hk, decide_true, if_true]
      exact Fired_block h fun f w => ⟨f, w, rfl⟩
    · simp only [hk, decide_false, if_false, Bool.false_eq_true]
      exact h
  have h0 := acquired_firingBlock (k := k) hb
  have hsend := Fired_send (lat := 0) (tok := .val 0#64) (ts := [t0]) h0 (b' := { b with
    done := s.focus.slot :: b.done, fenced := if k = .full then some (max n.toNat (b.fenced.getD 0)) else b.fenced }) ⟨rfl, rfl, rfl⟩ (Fired_acquire hb hf ha)
  rw [acquired_tokensOf] at hsend
  exact completes_over (i := .fence p n sc k t0) (k := fun _ => _) rfl hb hp (vs := []) rfl h0 acquired_focus ⟨rfl, rfl, rfl⟩ hsend

/-! ## PREF (R119) -/

/-- The request of a `PREF`. -/
def State.prefetches (s : State) (a : Nat) : Req :=
  s.asked a 64 (.pref (s.ctx s.focus.l).pol.toNat (s.readerOf s.focus.l (s.ctx s.focus.l).pasid.toNat a))

/-- A `PREF` counts itself and asks. -/
theorem exec_pref {s : State} {b : Block} {p : Pred} {n : BitVec 5} {i : BitVec 9} {vs : List W64} {a : Nat} (hb : s.firingBlock b)
    (hp : predFall p (b.tok s .x) = .taken) (hv : b.gives s [.l] vs) (ha : a = (arg vs 0 + i.signExtend 64).toNat / 64 * 64) :
    exec (.pref p n i) s = .next (Act.settleFocus.run ((Act.submit (s.prefetches a)).run ((Act.count s.focus.l 0x308).run (Act.loadDone.run s)))) := by
  have h := Fired_loadDone (fired_refl hb)
  have hc : ((Act.loadDone.run s).ctx s.focus.l).pol = (s.ctx s.focus.l).pol ∧ ((Act.loadDone.run s).ctx s.focus.l).pasid = (s.ctx s.focus.l).pasid
      ∧ ((Act.loadDone.run s).ctx s.focus.l).sup = (s.ctx s.focus.l).sup := by
    obtain ⟨f, w, e⟩ := h.own
    rw [e]
    exact ⟨rfl, rfl, rfl⟩
  have hr : (Act.loadDone.run s).readerOf s.focus.l (s.ctx s.focus.l).pasid.toNat = s.readerOf s.focus.l (s.ctx s.focus.l).pasid.toNat := rfl
  have hpart : (Act.loadDone.run s).partOf s.focus.l = (s.polder s.focus.l).part.getD 0 := rfl
  change execPref p n i s = _
  rw [execPref, slotStep, done, run_seq, run_firing hb hp hv, run_seq, run_read, Fired_focus h]
  simp only [State.reqOf, hc.1, hc.2.1, hc.2.2, hr, hpart, ha]
  rfl

/-- A `PREF` whose line its slice may not hold stops there, and one without a place is counted. -/
theorem run_submit_stops {s : State} {r : Req} {q : Place} (hq : homePlace r.who r.addr = some q) (hs : q.space ≠ 1) (hc : spaceCause r q = 0)
    (hst : reqStops r q = true) : (Act.submit r).run s = s := by
  simp [-Nat.reducePow, Act.submit, homePlace_lt hq, State.resolve, hq, hs, hc, hst]
theorem run_submit_nowhere {s : State} {r : Req} {pol rd} (hr : r.use = .pref pol rd) (ha : r.addr < 2 ^ 40) (hq : homePlace r.who r.addr = none) :
    (Act.submit r).run s = (Act.count r.who 0x310).run s := by
  simp [-Nat.reducePow, Act.submit, ha, State.resolve, hq, hr, Act.answer, useIsAmo]

/-- Settles O19: `exec_fence` and `exec_pref`, each followed by what it asks for. -/
theorem fencesAndPrefetches : Obligations.FencesAndPrefetches := by
  refine ⟨fun p n sc k t0 => ⟨fun s b hb hp ha => exec_fence hb hp ha, fun s b hb hp => ?null⟩,
    fun p n i s b vs a hb hp hv ha => ⟨fun q => ?asks, fun q hq hs => ?held, fun hlt hq => ?nowhere⟩⟩
  case null =>
    refine ⟨_, ?_, Fired_settle hb ⟨rfl, rfl, rfl⟩ (Fired_send (xs := []) (lat := 0) (tok := .null) (ts := [t0]) hb ⟨rfl, rfl, rfl⟩ (Fired_loadDone (fired_refl hb)))⟩
    change execFence p n sc k t0 s = _
    rw [execFence, slotStep, done, run_seq, run_firing_nulled hb hp]
    rfl
  case asks =>
    intro r hr
    refine ⟨_, exec_pref hb hp hv ha, Fired_settle (s := { s.counted 0x308 with free := s.free + 1 }) hb ⟨rfl, rfl, rfl⟩ ?_⟩
    have hr : ((Act.count s.focus.l 0x308).run (Act.loadDone.run s)).reaches (s.prefetches a) q :=
      counted_reaches (reaches_pend (f := fun b => { b with done := s.focus.slot :: b.done }) hr)
    rw [run_submit hr rfl]
    exact Fired_request (xs := []) (Fired_counted (Fired_loadDone (fired_refl hb))) rfl
  case held =>
    refine ⟨_, exec_pref hb hp hv ha, Fired_settle (s := s.counted 0x308) hb ⟨rfl, rfl, rfl⟩ ?_⟩
    have ho := homePlace_owner hq
    have hc : spaceCause (s.prefetches a) q = 0 := by
      rcases hs with hs | hs <;> simp [spaceCause, State.prefetches, State.asked, hs]
    have hst : reqStops (s.prefetches a) q = true := by
      rcases hs with hs | hs <;> simp [reqStops, State.prefetches, State.asked, hs, ho]
    rw [run_submit_stops hq (by omega) hc hst]
    exact Fired_counted (Fired_loadDone (fired_refl hb))
  case nowhere =>
    refine ⟨_, exec_pref hb hp hv ha, Fired_settle (s := (s.counted 0x308).counted 0x310) hb ⟨rfl, rfl, rfl⟩ ?_⟩
    rw [run_submit_nowhere rfl hlt hq]
    exact Fired_counted (s := s.counted 0x308) (Fired_counted (Fired_loadDone (fired_refl hb)))

/-! ## Atomics (R135 to R137) -/

/-- What a release leaves: everything but the contexts, and of each context its block and what its transit depends on. -/
theorem leaves_releaseCode_rest (l : Loc) : (Act.releaseCode l).Leaves fun s => { s with ctxs := [] } :=
  leaves_read fun _ => leaves_when (leaves_seq (leaves_each fun _ _ => rfl) fun _ => rfl)
theorem leaves_ctx_of {α : Type} {f : Context → α} {l m : Loc} {g : Context → Context} (hg : ∀ c, f (g c) = f c) :
    (Act.ctx l g).Leaves fun s => f (s.ctx m) := fun s => by
  by_cases h : m = l
  · subst h
    exact (congrArg f (ctx_apply_ctx _ _ _)).trans (hg _)
  · exact congrArg f (ctx_apply_ctx_other _ _ _ _ h)
theorem leaves_releaseCode_block (l m : Loc) : (Act.releaseCode l).Leaves fun s => (s.ctx m).block :=
  leaves_read fun _ => leaves_when (leaves_seq (leaves_each fun _ => leaves_ctx_of fun _ => rfl) (leaves_ctx_of fun _ => rfl))

theorem released_rest (s : State) (o : AmoOrder) : s.released o = { s with ctxs := (s.released o).ctxs } := by
  unfold State.released
  split
  · have h := leaves_releaseCode_rest s.focus.l s
    generalize (Act.releaseCode s.focus.l).run s = t at h ⊢
    cases t
    cases s
    simp_all
  · rfl
theorem released_firingBlock {s : State} {b : Block} (o : AmoOrder) (hb : s.firingBlock b) : (s.released o).firingBlock b := by
  refine firingBlock_congr (by rw [released_rest]) ?_ hb
  unfold State.released
  split
  · exact leaves_releaseCode_block s.focus.l s.focus.l s
  · rfl

/-- What contexts hold does not change where a request goes. -/
theorem reaches_ctxs {s : State} {r : Req} {q : Place} (cs : List (Loc × Context)) (h : s.reaches r q) : ({ s with ctxs := cs } : State).reaches r q := by
  refine ⟨h.1, h.2.1, ?_⟩
  rcases h.2.2 with h | h | h
  · refine .inl ⟨h.1, ?_⟩
    have := h.2
    simp only [State.resolve, h.1, if_true] at this ⊢
    exact this
  · exact .inr (.inl h)
  · exact .inr (.inr h)

/-- The space that an atomic names, or the cause it meets. -/
def State.amoTarget (s : State) (a : Nat) : Nat :=
  match s.resolve s.focus.l (s.partOf s.focus.l) (s.ctx s.focus.l).pasid.toNat (s.ctx s.focus.l).sup a false with
  | .ok q => if q.space ≤ 2 then 0 else 7
  | .error _ => if a < 2 ^ 40 && (homePlace s.focus.l a).isNone then 7 else 0

theorem amoTarget_outside {s : State} {a : Nat} (ha : a < 2 ^ 40) (hp : homePlace s.focus.l a = none) : s.amoTarget a = 7 := by
  simp [-Nat.reducePow, State.amoTarget, State.resolve, ha, hp]
theorem amoTarget_home {s : State} {a : Nat} {q : Place} (hp : homePlace s.focus.l a = some q) (h1 : q.space ≠ 1) :
    s.amoTarget a = if q.space ≤ 2 then 0 else 7 := by
  simp [-Nat.reducePow, State.amoTarget, State.resolve, homePlace_lt hp, hp, h1]
theorem amoTarget_reaches {s : State} {a n : Nat} {x : AmoPkt} {q : Place} (h : s.reaches (s.asked a n (.atomic x)) q) : s.amoTarget a = 0 := by
  have hq : q.space ≤ 2 := by
    have := h.1
    simp only [spaceCause, State.asked] at this
    refine Classical.byContradiction fun hc => ?_
    simp [hc] at this
  have : s.resolve s.focus.l (s.partOf s.focus.l) (s.ctx s.focus.l).pasid.toNat (s.ctx s.focus.l).sup a false = .ok q := by
    rcases h.2.2 with ⟨ha, hr⟩ | ⟨ha, hb, hs, hm, rfl⟩ | ⟨ha, hb, hz, t, ht, htorn, _, hm, rfl, _⟩
    · simp only [State.asked] at ha hr
      simp only [State.resolve, ha, if_true] at hr ⊢
      exact hr
    · simp only [State.asked] at ha hb hs hm
      simp [-Nat.reducePow, State.resolve, Nat.not_lt.2 ha, hb, hs, hm, State.asked]
    · simp only [State.asked] at ha hb hz ht hm
      simp [-Nat.reducePow, State.resolve, Nat.not_lt.2 ha, hb, hz, State.partOf, ht, htorn, hm, State.asked]
  simp [State.amoTarget, this, hq]

/-- The act of an atomic that passes its checks, behind its release. -/
def Act.amoSend (s : State) (x : AmoOp) (o : AmoOrder) (vs : List W64) : Act :=
  match homePlace s.focus.l (arg vs 0).toNat with
  | some q => .all [
      .block s.focus.l (fun b => { b with atoms := ((s.homeKey s.focus.l (arg vs 0).toNat).getD 0, amoSize (s.amoPacket x o vs)) :: b.atoms }),
      .pend,
      (if q.space = 2 then .event 0 (.atomicPacketArrival (s.amoPacket x o vs) q)
        else .submit (s.asked (arg vs 0).toNat (amoSize (s.amoPacket x o vs)) (.atomic (s.amoPacket x o vs))))]
  | none => .seq .pend (.submit (s.asked (arg vs 0).toNat (amoSize (s.amoPacket x o vs)) (.atomic (s.amoPacket x o vs))))

section amo
variable {s : State} {b : Block} {p : Pred} {x : AmoOp} {o : AmoOrder} {t1 t0 : Target} {vs : List W64}

/-- AN ATOMIC fires: the check of its target, of its alignment, the release, then its packet. -/
theorem fireAmo_eq (hb : s.firingBlock b) (hp : predFall p (b.tok s .x) = .taken) (hv : b.gives s (amoInputs x) vs) :
    fireAmo o p x t1 t0 s = .next (Act.settleFocus.run (
      (if s.amoTarget (arg vs 0).toNat ≠ 0 then .fault 7 0 (arg vs 0).toNat
      else if (arg vs 0).toNat % amoSize (s.amoPacket x o vs) ≠ 0 then .fault 3 0 (arg vs 0).toNat
      else .seq (.when (o == .release || o == .both) (.releaseCode s.focus.l)) (Act.amoSend s x o vs) : Act).run s)) := by
  rw [fireAmo, slotStep, done, run_seq, run_firing hb hp hv, run_read]
  rfl

theorem run_release (s : State) (o : AmoOrder) :
    (Act.when (o == .release || o == .both) (.releaseCode s.focus.l)).run s = s.released o := by
  cases o <;> rfl

/-- One that passes its checks releases and sends. -/
theorem fireAmo_sends (hb : s.firingBlock b) (hp : predFall p (b.tok s .x) = .taken) (hv : b.gives s (amoInputs x) vs)
    (ht : s.amoTarget (arg vs 0).toNat = 0) (ha : (arg vs 0).toNat % amoSize (s.amoPacket x o vs) = 0) :
    fireAmo o p x t1 t0 s = .next (Act.settleFocus.run ((Act.amoSend s x o vs).run (s.released o))) := by
  rw [fireAmo_eq hb hp hv, if_neg (Classical.not_not.2 ht), if_neg (Classical.not_not.2 ha), run_seq, run_release]

end amo

/-- A RELEASE CHANGES THE CONTEXTS ALONE, and the block that fires is the same. -/
theorem released_eq {s : State} {b : Block} (o : AmoOrder) (hb : s.firingBlock b) :
    ∃ cs, s.released o = { s with ctxs := cs } ∧ ({ s with ctxs := cs } : State).firingBlock b :=
  ⟨_, released_rest s o, released_rest s o ▸ released_firingBlock o hb⟩

/-- A request behind a change of contexts alone. -/
theorem Fired_submit {s t : State} {b b' : Block} {r : Req} {q : Place} (h : s.Fired t b b' []) (ht : t = { s with ctxs := t.ctxs })
    (hr : s.reaches r q) (hu : issueCycles r.use = 0) :
    ({ s with free := s.free + 1 } : State).Fired ((Act.submit r).run t) b b' [s.requestTo r q] := by
  rw [ht] at h ⊢
  rw [run_submit (reaches_ctxs _ hr) hu]
  exact Fired_request (xs := []) h rfl

section amo
variable {s : State} {b : Block} {x : AmoOp} {o : AmoOrder} {vs : List W64}

/-- The block keeps the place of an atomic on a home address, and the slot waits. -/
theorem Fired_amoMark {k n : Nat} (hb : s.firingBlock b) :
    s.Fired (Act.pend.run ((Act.block s.focus.l fun b => { b with atoms := (k, n) :: b.atoms }).run s)) b
      { b.awaits s with atoms := (k, n) :: b.atoms } [] := by
  have h : s.Fired ((Act.block s.focus.l fun b => { b with atoms := (k, n) :: b.atoms }).run s) b { b with atoms := (k, n) :: b.atoms } [] :=
    Fired_block (fired_refl hb) fun f w => ⟨f, w, rfl⟩
  exact Fired_pend h

/-- The packet of an atomic is on its way to a port. -/
theorem Fired_amoPort {off : Nat} (hb : s.firingBlock b) (hh : homePlace s.focus.l (arg vs 0).toNat = some ⟨s.focus.l.toPolder, 2, off⟩) :
    (s.released o).Fired ((Act.amoSend s x o vs).run (s.released o)) b
      { b.awaits s with atoms := ((s.homeKey s.focus.l (arg vs 0).toNat).getD 0, amoSize (s.amoPacket x o vs)) :: b.atoms }
      [⟨s.now, .event (.atomicPacketArrival (s.amoPacket x o vs) ⟨s.focus.l.toPolder, 2, off⟩)⟩] := by
  obtain ⟨cs, hcs, h0⟩ := released_eq o hb
  rw [hcs, Act.amoSend, hh]
  exact Fired_event (d := 0) (xs := []) (Fired_amoMark h0)

/-- The packet of an atomic is on its way to the owner of its place. -/
theorem Fired_amoPacket {q : Place} (hb : s.firingBlock b)
    (hh : ∀ off, homePlace s.focus.l (arg vs 0).toNat ≠ some ⟨s.focus.l.toPolder, 2, off⟩)
    (hr : s.reaches (s.asked (arg vs 0).toNat (amoSize (s.amoPacket x o vs)) (.atomic (s.amoPacket x o vs))) q) :
    { s.released o with free := s.free + 1 }.Fired ((Act.amoSend s x o vs).run (s.released o)) b
      { b.awaits s with atoms := if (homePlace s.focus.l (arg vs 0).toNat).isSome then
        ((s.homeKey s.focus.l (arg vs 0).toNat).getD 0, amoSize (s.amoPacket x o vs)) :: b.atoms else b.atoms }
      [s.requestTo (s.asked (arg vs 0).toNat (amoSize (s.amoPacket x o vs)) (.atomic (s.amoPacket x o vs))) q] := by
  obtain ⟨cs, hcs, h0⟩ := released_eq o hb
  rw [hcs, Act.amoSend]
  cases hp : homePlace s.focus.l (arg vs 0).toNat with
  | none => exact Fired_submit (s := { s with ctxs := cs }) (Fired_pend (fired_refl h0)) rfl (reaches_ctxs cs hr) rfl
  | some p =>
    have hne : p.space ≠ 2 := by
      intro h2
      refine hh p.off ?_
      rw [hp, ← homePlace_owner hp, ← h2]
    simp only [run_all_cons, run_all_nil, if_neg hne]
    exact Fired_submit (s := { s with ctxs := cs }) (Fired_amoMark h0) rfl (reaches_ctxs cs hr) rfl

end amo

/-- Settles O20: the checks by `amoTarget` and the size of the packet, the packet by `amoSend`. -/
theorem atomicsSent : Obligations.AtomicsSent := by
  intro p x t1 t0 i hi size marked
  obtain ⟨he, hin⟩ := amo_form i hi
  have hsize : ∀ (s : State) vs, amoSize (s.amoPacket x i.2 vs) = size := fun s vs => amo_size _ rfl
  rw [hin]
  refine ⟨fun s b vs hb hp hv ha => ⟨fun off hh => ?port, fun q hh => ?packet⟩, ?outside, ?space, ?misaligned⟩
  case port =>
    have ht : s.amoTarget (arg vs 0).toNat = 0 := by rw [amoTarget_home hh (by simp)]; rfl
    refine ⟨_, (he s).trans (fireAmo_sends hb hp hv ht (by rwa [hsize])), Fired_settle (released_firingBlock _ hb) ⟨rfl, rfl, rfl⟩ ?_⟩
    simp only [marked, hh, Option.isSome_some, if_true, ← hsize s vs]
    exact Fired_amoPort hb hh
  case packet =>
    intro r hr
    refine ⟨_, (he s).trans (fireAmo_sends hb hp hv (amoTarget_reaches hr) (by rwa [hsize])),
      Fired_settle (s := { s.released i.2 with free := s.free + 1 }) (released_firingBlock i.2 hb) ⟨rfl, rfl, rfl⟩ ?_⟩
    simp only [marked, r, ← hsize s vs] at hr ⊢
    exact Fired_amoPacket hb hh hr
  case outside =>
    intro s b vs hb hp hv ⟨ha, hh⟩
    have h7 := amoTarget_outside ha hh
    refine ⟨_, (he s).trans (fireAmo_eq hb hp hv), Fired_settle hb ⟨rfl, rfl, rfl⟩ ?_⟩
    rw [if_pos (by rw [h7]; decide)]
    exact Fired_fault hb (by decide)
  case space =>
    intro s b vs hb hp hv ⟨q, hh, hs⟩
    have h7 : s.amoTarget (arg vs 0).toNat = 7 := by rw [amoTarget_home hh (by omega), if_neg (by omega)]
    refine ⟨_, (he s).trans (fireAmo_eq hb hp hv), Fired_settle hb ⟨rfl, rfl, rfl⟩ ?_⟩
    rw [if_pos (by rw [h7]; decide)]
    exact Fired_fault hb (by decide)
  case misaligned =>
    intro s b vs hb hp hv ⟨⟨q, hh, h2, h1⟩, ha⟩
    have h0 : s.amoTarget (arg vs 0).toNat = 0 := by rw [amoTarget_home hh h1, if_pos h2]
    refine ⟨_, (he s).trans (fireAmo_eq hb hp hv), Fired_settle hb ⟨rfl, rfl, rfl⟩ ?_⟩
    rw [if_neg (Classical.not_not.2 h0), if_pos (by rwa [hsize])]
    exact Fired_fault hb (by decide)

end Sys2Proof.Machine
end

section
/-! SUPPORT. The step and the state after reset (spec/02, spec/10), what an act adds to the agenda, and the special-function unit (spec/07 R162 to R164). -/

namespace Sys2Proof.Machine

/-! ## The step (R34, R240, R353) -/

theorem step_cons {s : State} {p : Pending} {rest : List Pending} (h : s.agenda = p :: rest) :
    step s = runWork p.work { s with agenda := rest, now := max s.now p.due } := by
  rw [step, h]

/-- The low two bits of an instruction's first byte are those of its word. -/
theorem codeLen_eq {bs : List Byte} : codeLen bs = if natOfBytes bs % 4 = 3 then 4 else 2 := by
  have : (bs.getD 0 0#8).toNat % 4 = natOfBytes bs % 4 := by
    cases bs with
    | nil => rfl
    | cons b bs => simp only [natOfBytes, List.getD_cons_zero]; omega
  rw [codeLen, this]

/-- A TURN OF A HANDLER whose bytes stand as they were fetched: the instruction at its `pc`, or a kill. -/
theorem sliceTurn_eq {s : State} {q : Loc} {gen : Nat} {h : Handler} (hh : (s.polder q).handler = some h) (hg : h.gen = gen)
    (hc : s.sliceCode q h true = s.sliceCode q h false) :
    s.sliceTurn q gen =
      if h.pc % 2 ≠ 0 || !h.inRegion h.pc (codeLen (s.sliceCode q h false)) then .act (.killHandler q h 7)
      else if s.codeError q h (codeLen (s.sliceCode q h false)) then .act (.killPoisoned q h)
      else .run (.all [.when false (.fx .tickFree), .noteFetch q h.pc (s.sliceCode q h false), .fx (.focus ⟨q.toPolder, 0, gen⟩)])
        (decodeSlice (natOfBytes (s.sliceCode q h false))) := by
  have hd : (!h.wait && s.sliceCode q h false != s.sliceCode q h false) = false := by simp
  simp only [State.sliceTurn, hh, hg, ne_eq, not_true_eq_false, if_false, hc, hd, Bool.false_and, Bool.false_eq_true, ite_self]

/-- Settles O58: the three kinds of work, by what is found at their place. -/
theorem stepRunsDecoded : Obligations.StepRunsDecoded := by
  intro s p rest hs u
  have hstep := step_cons hs
  refine ⟨fun l epoch slot b i hw hb he hi => ?fire, fun l epoch slot hw hb => ?ended, fun q gen h hw hh hg hc => ?turn, fun q gen hw hh => ?beyond,
    fun e i hw hi => ?event⟩
  case fire =>
    have hat : u.blockAt l epoch = some b := by
      have : (u.ctx l).block = some b := hb
      simp [State.blockAt, this, he]
    have hin : b.instrAt slot = some i := by
      have hi : decodeWord (b.word slot) = .ok i := hi
      simp [Block.instrAt, hi]
    rw [hstep, hw, runWork, hat]
    simp only [hin]
    rfl
  case ended =>
    have hat : u.blockAt l epoch = none := by
      cases hc : (u.ctx l).block with
      | none => simp [State.blockAt, hc]
      | some b => simp [State.blockAt, hc, hb b hc]
    rw [hstep, hw, runWork, hat]
  case turn =>
    intro code n
    have ht : u.sliceTurn q gen = if h.pc % 2 ≠ 0 || !h.inRegion h.pc n then .act (.killHandler q h 7)
        else if s.codeError q h n then .act (.killPoisoned q h)
        else .run (.all [.when false (.fx .tickFree), .noteFetch q h.pc code, .fx (.focus ⟨q.toPolder, 0, gen⟩)]) (decodeSlice (natOfBytes code)) := by
      have hn : n = codeLen code := codeLen_eq.symm
      rw [hn]
      exact sliceTurn_eq (s := u) hh hg hc
    rw [hstep, hw, runWork, ht]
    refine ⟨fun hpc hr he => ?_, fun h => ?_, fun hpc hr he => ?_⟩
    · rw [if_neg (by simp [hpc, hr]), if_neg (by simp [he])]
      rfl
    · rw [if_pos (by simpa using h)]
    · rw [if_neg (by simp [hpc, hr]), if_pos he]
  case beyond =>
    have ht : u.sliceTurn q gen = .idle := by
      cases hc : (u.polder q).handler with
      | none => simp [State.sliceTurn, hc]
      | some h => simp [State.sliceTurn, hc, hh h hc]
    rw [hstep, hw, runWork, ht]
  case event =>
    rw [hstep, hw, runWork, hi]

/-! ## Reset (R459) -/

theorem reset_device (l : Loc) : State.reset.device l = DeviceState.initial := by
  simp only [State.device, State.reset, lookupD, ite_self]

/-- Settles O59: the lists of the reset state are empty or hold one device, and what is looked up in them is initial. -/
theorem resetHolds : Obligations.ResetHolds := by
  refine ⟨⟨rfl, rfl, rfl, ⟨Nat.le_refl 0, trivial⟩, ⟨.nil, fun _ h => by cases h⟩, ⟨.nil, fun _ h => by cases h⟩, ⟨.nil, fun _ h => by cases h⟩, ?_⟩,
    rfl, rfl, fun _ => ⟨rfl, rfl, rfl⟩, fun l => ?_, fun l => ⟨rfl, rfl, rfl, rfl⟩, fun l => ⟨rfl, rfl, rfl, rfl, rfl, rfl, rfl⟩, fun l => ?_⟩
  · refine ⟨List.pairwise_singleton _ _, fun p hp => ?_⟩
    rw [List.mem_singleton.1 hp]
    rfl
  · refine ⟨rfl, ?_, rfl, rfl, rfl, rfl, rfl, rfl, rfl, rfl, rfl, rfl, rfl, rfl⟩
    rw [Nat.mul_comm]
    rfl
  · rw [reset_device]
    exact ⟨rfl, rfl, rfl⟩

/-! ## What an act adds to the agenda -/

/-- The act, run in any state, keeps the agenda and adds entries of `P` only. -/
def Act.Adds (P : Pending → Prop) (a : Act) : Prop :=
  ∀ s, (∀ q ∈ s.agenda, q ∈ (a.run s).agenda) ∧ ∀ q ∈ (a.run s).agenda, q ∈ s.agenda ∨ P q

section adds
variable {P : Pending → Prop}

theorem adds_of_eq {a : Act} (h : a.Leaves State.agenda) : a.Adds P := fun s => by
  rw [h s]
  exact ⟨fun _ h => h, fun _ h => .inl h⟩
theorem adds_skip : Act.skip.Adds P := adds_of_eq leaves_skip
theorem adds_seq {a b : Act} (ha : a.Adds P) (hb : b.Adds P) : (Act.seq a b).Adds P := fun s =>
  ⟨fun q hq => (hb _).1 q ((ha s).1 q hq), fun q hq => ((hb _).2 q hq).elim ((ha s).2 q) .inr⟩
theorem adds_read {k : State → Act} (h : ∀ s, (k s).Adds P) : (Act.read k).Adds P := fun s => h s s
theorem adds_all {as : List Act} (h : ∀ a ∈ as, a.Adds P) : (Act.all as).Adds P := by
  induction as with
  | nil => exact adds_skip
  | cons a as ih => exact adds_seq (h a (.head _)) (ih fun b hb => h b (.tail _ hb))
theorem adds_each {β : Type} {xs : List β} {g : β → Act} (h : ∀ x, (g x).Adds P) : (Act.each xs g).Adds P :=
  adds_all fun _ ha => by obtain ⟨x, _, rfl⟩ := List.mem_map.1 ha; exact h x
theorem adds_when {c : Bool} {a : Act} (h : a.Adds P) : (Act.when c a).Adds P := by
  cases c
  · exact adds_skip
  · exact h
theorem adds_sched {d : Nat} {w : Work} (h : ∀ n, P ⟨n, w⟩) : (Act.fx (.sched d w)).Adds P := fun s => by
  simp only [run_fx, apply_sched_agenda, mem_schedule]
  exact ⟨fun q hq => .inr hq, fun q hq => hq.elim (fun e => .inr (e ▸ h _)) .inl⟩

end adds

/-! ## Offering slots (R34, R67) -/

/-- An entry of a slot that may fire. -/
def Pending.fires (q : Pending) : Prop := ∃ l ep n, q.work = .fire l ep n

theorem adds_offer {l : Loc} {ep n : Nat} : (Act.offer l ep n).Adds Pending.fires := by
  refine adds_read fun s => ?_
  split
  · split
    · split
      · exact adds_skip
      · split
        · exact adds_seq (adds_of_eq fun _ => rfl) (adds_sched fun _ => ⟨l, ep, n, rfl⟩)
        · exact adds_of_eq fun _ => rfl
    · exact adds_skip
  · exact adds_skip
theorem adds_wakeCore {c : Loc} : (Act.wakeCore c).Adds Pending.fires := adds_read fun _ => adds_each fun _ => adds_offer

/-- The state without its contexts and its agenda. -/
def State.frame (s : State) : State := { s with ctxs := [], agenda := [] }
/-- A context without its block. -/
def Context.unblocked (c : Context) : Context := { c with block := none }

theorem leaves_offer {α : Type} {f : State → α} (hb : ∀ l g, (Act.block l g).Leaves f) (hs : ∀ w, (Act.fx (.sched 0 w)).Leaves f) {l : Loc} {ep n : Nat} :
    (Act.offer l ep n).Leaves f := by
  refine leaves_read fun s => ?_
  split
  · split
    · split
      · exact leaves_skip
      · split
        · exact leaves_seq (hb _ _) (hs _)
        · exact hb _ _
    · exact leaves_skip
  · exact leaves_skip
theorem leaves_wakeCore {α : Type} {f : State → α} (hb : ∀ l g, (Act.block l g).Leaves f) (hs : ∀ w, (Act.fx (.sched 0 w)).Leaves f) {c : Loc} :
    (Act.wakeCore c).Leaves f := leaves_read fun _ => leaves_each fun _ => leaves_offer hb hs
theorem leaves_wakeCore_frame (c : Loc) : (Act.wakeCore c).Leaves State.frame := leaves_wakeCore (fun _ _ _ => rfl) fun _ _ => rfl
theorem leaves_wakeCore_ctx (c m : Loc) : (Act.wakeCore c).Leaves fun s => (s.ctx m).unblocked :=
  leaves_wakeCore (fun _ _ => leaves_ctx_of fun _ => rfl) fun _ _ => rfl

/-- A state with the frame of another differs from it in contexts and agenda alone. -/
theorem frame_eq {s t : State} (h : t.frame = s.frame) : t = { s with ctxs := t.ctxs, agenda := t.agenda } := by
  cases t
  cases s
  simp_all [State.frame]
theorem unblocked_eq {c d : Context} (h : d.unblocked = c.unblocked) : d = { c with block := d.block } := by
  cases d
  cases c
  simp_all [Context.unblocked]

/-! ## The special-function unit (R163, R164) -/

/-- A change of the step's core beside a firing. -/
theorem Fired_core {s t : State} {b b' : Block} {xs : List Pending} {l : Loc} {g : CoreState → CoreState} (h : s.Fired t b b' xs) :
    ((Act.core l g).run s).Fired ((Act.core l g).run t) b b' xs := by
  refine ⟨?_, h.others, h.own, h.kept, h.sent, h.only⟩
  conv => lhs; rw [h.rest]
  rfl

variable {p : Pred} {t1 t0 : Target}

/-- The core with a request behind the others. -/
def CoreState.asks (k : CoreState) (r : SfuReq) : CoreState := { k with sfu := k.sfu ++ [r], sfuBusy := true }

/-- A REQUEST WITH ROOM enters the queue, and an idle unit takes its turn. -/
theorem sfn_queues {i : Instr} {fn : SfnFn} (he : ∀ s, exec i s = fireSfn fn p t1 t0 s) {s : State} {b : Block} {v : W64} (hb : s.firingBlock b)
    (hp : predFall p (b.tok s .x) = .taken) (hv : b.gives s [.l] [v]) (hq : (s.core s.focus.l).sfu.length < 16) :
    ∃ t, exec i s = .next t ∧
      ((Act.core s.focus.l fun k => k.asks ⟨s.focus.l, s.focus.epoch, s.focus.slot, fn, v.toNat % 2 ^ 32⟩).run s).Fired t b (b.awaits s)
        (if (s.core s.focus.l).sfuBusy then [] else [⟨s.now, .event (.sfuAccept s.focus.l.toCore)⟩]) := by
  have hx : exec i s = .next (Act.settleFocus.run ((Act.queueSfu s.focus.l ⟨s.focus.l, s.focus.epoch, s.focus.slot, fn, v.toNat % 2 ^ 32⟩).run
      ((Act.block s.focus.l fun b => { b with out := s.focus.slot :: b.out }).run s))) := by
    rw [he, fireSfn, slotStep, done, run_seq, run_firing hb hp hv, run_read, if_pos hq]
    rfl
  refine ⟨_, hx, Fired_settle (s := (Act.core s.focus.l fun k => k.asks ⟨s.focus.l, s.focus.epoch, s.focus.slot, fn, v.toNat % 2 ^ 32⟩).run s)
    hb ⟨rfl, rfl, rfl⟩ ?_⟩
  have h : s.Fired ((Act.block s.focus.l fun b => { b with out := s.focus.slot :: b.out }).run s) b (b.awaits s) [] :=
    Fired_block (fired_refl hb) fun f w => ⟨f, w, rfl⟩
  have h := Fired_core (l := s.focus.l) (g := fun k => k.asks ⟨s.focus.l, s.focus.epoch, s.focus.slot, fn, v.toNat % 2 ^ 32⟩) h
  have hbusy : (((Act.block s.focus.l fun b => { b with out := s.focus.slot :: b.out }).run s).core s.focus.l).sfuBusy = (s.core s.focus.l).sfuBusy := rfl
  rw [Act.queueSfu, run_read, run_seq, run_when, hbusy]
  cases (s.core s.focus.l).sfuBusy
  · exact Fired_event (d := 0) (xs := []) h
  · exact h

/-- What such a firing changes, in the terms of its statement. -/
theorem sfn_frame {s t : State} {b b' : Block} {xs : List Pending} {g : CoreState → CoreState}
    (h : ((Act.core s.focus.l g).run s).Fired t b b' xs) :
    s.memKept t ∧ s.ctxsKeptBut t s.focus.l ∧ s.poldersKept t ∧ s.devicesKept t ∧ s.coresKeptBut t s.focus.l ∧ t.core s.focus.l = g (s.core s.focus.l)
      ∧ ∃ f w, t.ctx s.focus.l = { s.ctx s.focus.l with block := some { b' with fired := f, waiting := w } } := by
  refine ⟨?_, h.others, ?_, ?_, fun m hm => ?_, ?_, h.own⟩
  · rw [h.rest]; exact ⟨fun _ => rfl, fun _ => rfl, fun _ => rfl⟩
  · rw [h.rest]; exact fun _ => rfl
  · rw [h.rest]; exact fun _ => rfl
  · rw [h.rest]; exact core_apply_core_other s.focus.l m g s hm
  · rw [h.rest]; exact core_apply_core s.focus.l g s

/-- WAKING A CORE changes blocks and adds slots that fire; the rest of the machine stays. -/
theorem wakeCore_rest (c : Loc) (u : State) :
    (Act.wakeCore c).run u = { u with ctxs := ((Act.wakeCore c).run u).ctxs, agenda := ((Act.wakeCore c).run u).agenda } :=
  frame_eq (leaves_wakeCore_frame c u)
theorem wakeCore_ctx (c l : Loc) (u : State) :
    ((Act.wakeCore c).run u).ctx l = { u.ctx l with block := (((Act.wakeCore c).run u).ctx l).block } :=
  unblocked_eq (leaves_wakeCore_ctx c l u)

/-- What a step about a core keeps that changes it and then wakes its slots. -/
theorem sfu_keeps {s u : State} {c : Loc} {g : CoreState → CoreState} {ag : List Pending} (hu : u = { (Act.core c g).run s with agenda := ag }) :
    s.memKept ((Act.wakeCore c).run u) ∧ s.coresKeptBut ((Act.wakeCore c).run u) c ∧ s.poldersKept ((Act.wakeCore c).run u) ∧
      s.devicesKept ((Act.wakeCore c).run u) ∧ ((Act.wakeCore c).run u).core c = g (s.core c) ∧
      ∀ l, ((Act.wakeCore c).run u).ctx l = { s.ctx l with block := (((Act.wakeCore c).run u).ctx l).block } := by
  have hr := wakeCore_rest c u
  have hc := fun l => wakeCore_ctx c l u
  generalize (Act.wakeCore c).run u = t at hr hc ⊢
  subst hu
  refine ⟨?_, fun m hm => ?_, ?_, ?_, ?_, hc⟩
  · rw [hr]; exact ⟨fun _ => rfl, fun _ => rfl, fun _ => rfl⟩
  · rw [hr]; exact core_apply_core_other c m g s hm
  · rw [hr]; exact fun _ => rfl
  · rw [hr]; exact fun _ => rfl
  · rw [hr]; exact core_apply_core c g s

/-- Sending tokens for a slot that is not the step's own. -/
theorem Fired_deliver {s t : State} {b b' : Block} {xs : List Pending} {l : Loc} {ep n lat : Nat} {tok : Token} {ts : List Target}
    (hb : ({ s with focus := ⟨l, ep, n⟩ } : State).firingBlock b) (ha : b.alike b') (h : ({ s with focus := ⟨l, ep, n⟩ } : State).Fired t b b' xs) :
    ({ s with focus := ⟨l, ep, n⟩ } : State).Fired ((Act.deliver l ep n lat tok ts).run t) b b'
      (xs ++ ({ s with focus := ⟨l, ep, n⟩ } : State).tokensOf b [(lat, tok, ts)]) := by
  have hs := Fired_send (lat := lat) (tok := tok) (ts := ts) hb ha h
  rwa [Act.send, run_read, Fired_focus h] at hs

/-- The state in which the unit has taken a request and the core wakes: its result and the next turn are on the agenda (R163). -/
def State.sfuTaken (s : State) (c : Loc) (r : SfuReq) (q : List SfuReq) : State :=
  (Act.event 4 (.sfuAccept c)).run ((Act.event 12 (.sfuResult c r.l r.epoch r.slot (.val (w64 (sfn r.fn r.arg).1)) (sfn r.fn r.arg).2)).run
    ((Act.core c fun k => { k with sfu := q, sfuBusy := true }).run s))

/-- Settles O13: requests by `sfn_queues`, the turn of the unit by what is live of its queue, a result by the firing of its slot. -/
theorem specialFunctions : Obligations.SpecialFunctions := by
  refine ⟨fun p t1 t0 => ?_, fun s c r q hl he hcur => ?accepts, fun s c hl hcur => ?idle, fun s c l ep n b i tok fl hep hb ho hi hcur => ?result,
    fun s c l ep n tok fl hep hb hcur => ?stale⟩
  · intro queues
    have hq : ∀ i fn, (∀ s, exec i s = fireSfn fn p t1 t0 s) → queues i fn := by
      intro i fn he s b v hb hp hv hroom
      obtain ⟨t, ht, hf⟩ := sfn_queues he hb hp hv hroom
      obtain ⟨hm, hc, hpk, hd, hk, hcore, hown⟩ := sfn_frame hf
      exact ⟨t, ht, hm, hc, hpk, hd, hk, hcore, fun hbusy => hf.sent _ (by rw [hbusy]; exact .head _), hown⟩
    exact ⟨hq _ _ fun _ => rfl, hq _ _ fun _ => rfl, hq _ _ fun _ => rfl, hq _ _ fun _ => rfl, hq _ _ fun _ => rfl, hq _ _ fun _ => rfl,
      hq _ _ fun _ => rfl, hq _ _ fun _ => rfl⟩
  case accepts =>
    have hx : exec .sfuAccept s = .next ((Act.sfuTurn c).run s) := by change execSfuAccept s = _; rw [execSfuAccept, hcur]; rfl
    have hne : ¬ r.epoch = 0 := by omega
    refine ⟨_, hx, ?_⟩
    simp only [Act.sfuTurn, run_read, hl, hne, if_false, run_all_cons, run_all_nil]
    obtain ⟨hm, hk, hp, hd, hcore, hctx⟩ := sfu_keeps (s := s) (u := s.sfuTaken c r q) (c := c)
      (g := fun k => { k with sfu := q, sfuBusy := true }) (ag := (s.sfuTaken c r q).agenda) rfl
    refine ⟨hm, hk, hp, hd, hcore, hctx, (adds_wakeCore (s.sfuTaken c r q)).1 _ ?_, (adds_wakeCore (s.sfuTaken c r q)).1 _ ?_⟩
    · exact (mem_schedule _ _ _).2 (.inr ((mem_schedule _ _ _).2 (.inl rfl)))
    · exact (mem_schedule _ _ _).2 (.inl rfl)
  case idle =>
    have hx : exec .sfuAccept s = .next ((Act.sfuTurn c).run s) := by change execSfuAccept s = _; rw [execSfuAccept, hcur]; rfl
    refine ⟨_, hx, ?_⟩
    simp only [Act.sfuTurn, run_read, hl, run_seq]
    obtain ⟨hm, hk, hp, hd, hcore, hctx⟩ := sfu_keeps (s := s) (u := (Act.core c fun k => { k with sfu := [], sfuBusy := false }).run s)
      (c := c) (g := fun k => { k with sfu := [], sfuBusy := false }) (ag := s.agenda) rfl
    exact ⟨hm, hk, hp, hd, hcore, hctx, (adds_wakeCore _).2⟩
  case result =>
    have hx : exec .sfuResult s = .next ((Act.sfuDone c l ep n tok fl).run s) := by change execSfuResult s = _; rw [execSfuResult, hcur]; rfl
    refine ⟨_, hx, ?_⟩
    have hne : ¬ ep = 0 := by omega
    have hgo : (b.fault.isSome || !b.out.contains n) = false := by simp [hb.2, ho]
    have h0 : ({ s with focus := ⟨l, ep, n⟩ } : State).firingBlock b := hb
    have ha : b.alike { b with out := b.out.filter (fun k => k != n), flags := Nat.lor b.flags fl } := ⟨rfl, rfl, rfl⟩
    have h : ({ s with focus := ⟨l, ep, n⟩ } : State).Fired ((Act.block l fun x => { x with
        out := x.out.filter (fun k => k != n), flags := Nat.lor x.flags fl }).run { s with focus := ⟨l, ep, n⟩ }) b
        { b with out := b.out.filter (fun k => k != n), flags := Nat.lor b.flags fl } [] := Fired_block (fired_refl h0) fun f w => ⟨f, w, rfl⟩
    have hf := firedAt_settled hb.1 hb.2 (blind_seq blind_block blind_deliver) ha
      (Fired_deliver (lat := 0) (tok := tok) (ts := targetsOf i) h0 ha h)
    simp only [run_seq, run_skip] at hf
    simp only [Act.sfuDone, run_read, hne, if_false, hb.1, hgo, Bool.false_eq_true, hi, Option.elim, run_all_cons, run_all_nil]
    exact hf
  case stale =>
    have hx : exec .sfuResult s = .next ((Act.sfuDone c l ep n tok fl).run s) := by change execSfuResult s = _; rw [execSfuResult, hcur]; rfl
    have hne : ¬ ep = 0 := by omega
    refine ⟨_, hx, ?_⟩
    simp only [Act.sfuDone, run_read, hne, if_false, hb, run_skip]

end Sys2Proof.Machine
end

section
/-! SUPPORT. The slice core: what a handler's instructions change, and what they report (spec/10 R240 to R252). -/

namespace Sys2Proof.Machine

/-! ## Parts of one owner -/

theorem core_apply_core_of {l m : Loc} (h : m.toCore = l.toCore) (f : CoreState → CoreState) (s : State) :
    ((Effect.core l f).apply s).core m = f (s.core m) := by
  have hm : ∀ t : State, t.core m = t.core l := fun t => by simp only [State.core, h]
  rw [hm, hm, core_apply_core]
theorem polder_apply_polder_of {l m : Loc} (h : m.toPolder = l.toPolder) (f : PolderState → PolderState) (s : State) :
    ((Effect.polder l f).apply s).polder m = f (s.polder m) := by
  have hm : ∀ t : State, t.polder m = t.polder l := fun t => by simp only [State.polder, h]
  rw [hm, hm, polder_apply_polder]
theorem device_apply_device_of {l m : Loc} (h : m.toDev = l.toDev) (f : DeviceState → DeviceState) (s : State) :
    ((Effect.device l f).apply s).device m = f (s.device m) := by
  have hm : ∀ t : State, t.device m = t.device l := fun t => by simp only [State.device, h]
  rw [hm, hm, device_apply_device]

/-- The polder of an agent, changed at its own place. -/
theorem polder_apply_own (l : Loc) (f : PolderState → PolderState) (s : State) : ((Effect.polder l.toPolder f).apply s).polder l = f (s.polder l) :=
  polder_apply_polder_of rfl f s

/-! ## Records (R341, R342) -/

/-- What a record leaves: memory, the agenda, the time and the polders. -/
def State.beyondRecords (s : State) : Memory × Memory × Memory × List Pending × Nat × List (Loc × PolderState) :=
  (s.mem, s.side, s.hostMem, s.agenda, s.now, s.polders)

theorem leaves_post (l : Loc) (r : FaultRec) : (Act.post l r).Leaves State.beyondRecords := by
  refine leaves_read fun s => ?_
  dsimp only
  split
  · exact fun _ => rfl
  · exact fun _ => rfl

/-- A record that the host queue holds stays there. -/
theorem mem_hostRecs_hostRec {s : State} {l m : Loc} {part : Nat} {r : FaultRec} {x : Nat × FaultRec} (hx : x ∈ (s.device m).hostRecs) :
    x ∈ (((Act.hostRec l part r).run s).device m).hostRecs := by
  rw [Act.hostRec, run_device]
  by_cases h : m.toDev = l.toDev
  · rw [device_apply_device_of h]
    exact List.mem_append_left _ hx
  · rw [device_apply_device_other _ _ _ _ h]
    exact hx
theorem mem_hostRecs_post {s : State} {l m : Loc} {r : FaultRec} {x : Nat × FaultRec} (hx : x ∈ (s.device m).hostRecs) :
    x ∈ (((Act.post l r).run s).device m).hostRecs := by
  simp only [Act.post, run_read]
  split
  · exact hx
  · exact mem_hostRecs_hostRec (s := (Act.ctx l fun x => { x with faultLost := true }).run s) hx

/-- A RECORD OF A SET goes to the host queue of its partition, and may go to a context. -/
theorem leaves_recordFor (p : Loc) (desc : List W64) (c inner a : Nat) : (Act.recordFor p desc c inner a).Leaves State.beyondRecords :=
  leaves_read fun _ => leaves_seq (fun _ => rfl) (leaves_when (leaves_post _ _))
theorem mem_hostRecs_recordFor {s : State} {p m : Loc} {desc : List W64} {c inner a : Nat} (hm : m.toDev = p.toDev) :
    (bits (desc.getD 0 0#64).toNat 59 56, ⟨c, inner, 1, 0, a, 0, s.sliceTid p, false⟩) ∈ (((Act.recordFor p desc c inner a).run s).device m).hostRecs := by
  have h : (bits (desc.getD 0 0#64).toNat 59 56, (⟨c, inner, 1, 0, a, 0, s.sliceTid p, false⟩ : FaultRec)) ∈
      (((Act.hostRec p (bits (desc.getD 0 0#64).toNat 59 56) ⟨c, inner, 1, 0, a, 0, s.sliceTid p, false⟩).run s).device m).hostRecs := by
    rw [Act.hostRec, run_device, device_apply_device_of hm]
    exact List.mem_append_right _ (List.mem_singleton_self _)
  simp only [Act.recordFor, run_read, run_seq, run_when]
  split
  · exact mem_hostRecs_post h
  · exact h

/-! ## Handlers (R240, R370, R371) -/

variable {s : State} {h : Handler}

/-- A slice instruction runs on the handler of the step's polder. -/
theorem onHandler_eq {k : Loc → Handler → State → Act} (hr : s.running h) :
    onHandler k s = .next ((k s.focus.l.toPolder h s).run s) := by
  rw [onHandler, hr.1]
  rfl

/-- The polder whose handler is changed. -/
def PolderState.withHandler (q : PolderState) (f : Handler → Handler) : PolderState := { q with handler := q.handler.map f }

theorem run_handler_polder (hr : s.running h) (f : Handler → Handler) :
    ((Act.handler s.focus.l.toPolder f).run s).polder s.focus.l = { s.polder s.focus.l with handler := some (f h) } := by
  refine (polder_apply_polder s.focus.l.toPolder (fun q => q.withHandler f) s).trans ?_
  change (s.polder s.focus.l).withHandler f = _
  rw [PolderState.withHandler, hr.1]
  rfl
theorem run_handler_other {m : Loc} (hm : m.toPolder ≠ s.focus.l.toPolder) (f : Handler → Handler) :
    ((Act.handler s.focus.l.toPolder f).run s).polder m = s.polder m :=
  polder_apply_polder_other s.focus.l.toPolder m (fun q => q.withHandler f) s hm

/-- AN INSTRUCTION RETIRES: the handler is changed, and goes on in one slice cycle. -/
theorem run_retire (hr : s.running h) (pc : Nat) (f : Handler → Handler) :
    s.Retires ((Act.retire s.focus.l.toPolder h pc f).run s) h { f h with pc := pc % 2 ^ 32, wait := false } :=
  ⟨rfl, fun _ hm => run_handler_other hm _, run_handler_polder hr fun x => { f x with pc := pc % 2 ^ 32, wait := false },
    fun _ => (mem_schedule _ _ _).trans or_comm⟩

/-- Writing a register; `x0` keeps its zero. -/
theorem setX_eq (h : Handler) (rd : BitVec 5) (v : BitVec 32) : setX h.regs rd.toNat v.toNat = h.after rd v := by
  have : rd.toNat = 0 ↔ rd = 0#5 := by rw [← BitVec.toNat_inj]; rfl
  simp only [setX, Handler.after, this, BitVec.ofNat_toNat, BitVec.setWidth_eq]
theorem setX_ofNat (h : Handler) (rd : BitVec 5) (v : Nat) : setX h.regs rd.toNat v = h.after rd (BitVec.ofNat 32 v) := by
  have : rd.toNat = 0 ↔ rd = 0#5 := by rw [← BitVec.toNat_inj]; rfl
  simp only [setX, Handler.after, this]
theorem ofNat_x (h : Handler) (r : BitVec 5) : BitVec.ofNat 32 (h.x r) = h.word32 r := by
  simp [Handler.x, Handler.word32]
theorem x_eq (h : Handler) (r : BitVec 5) : h.x r = (h.word32 r).toNat := rfl

/-- The instruction writes `rd` and goes on behind itself. -/
theorem run_retireRd (hr : s.running h) (n : Nat) (rd : BitVec 5) (v : Nat) :
    s.RetiresTo ((Act.retireRd s.focus.l.toPolder h n rd v).run s) h n rd (BitVec.ofNat 32 v) := by
  have := run_retire hr (h.pc + n) fun x => { x with regs := setX x.regs rd.toNat v }
  rwa [setX_ofNat] at this

/-- A HANDLER IS KILLED. -/
theorem run_killHandler (c : Nat) : s.Kills ((Act.killHandler s.focus.l.toPolder h c).run s) h c := by
  have hrec := leaves_recordFor s.focus.l.toPolder h.desc c 0 h.pc s
  have hhost := mem_hostRecs_recordFor (s := s) (p := s.focus.l.toPolder) (m := s.focus.l) (desc := h.desc) (c := c) (inner := 0) (a := h.pc) rfl
  simp only [Act.killHandler, Act.endHandler, run_all_cons, run_all_nil, run_read]
  generalize (Act.recordFor s.focus.l.toPolder h.desc c 0 h.pc).run s = u at hrec hhost ⊢
  obtain ⟨hmem, hside, hhm, hag, hnow, hpol⟩ : u.mem = s.mem ∧ u.side = s.side ∧ u.hostMem = s.hostMem ∧ u.agenda = s.agenda ∧ u.now = s.now
      ∧ u.polders = s.polders := by simpa [State.beyondRecords] using hrec
  have hp : u.polder s.focus.l = s.polder s.focus.l := by simp only [State.polder, hpol]
  have hcount : ((Act.count s.focus.l.toPolder 0x370).run u).polder s.focus.l
      = { s.polder s.focus.l with counters := bumpIn 0x370 1 (s.polder s.focus.l).counters } := by
    rw [Act.count, run_polder, polder_apply_own, hp]
  have hticks : ((Act.count s.focus.l.toPolder 0x370).run u).sliceTicks s.focus.l.toPolder 8 = s.sliceTicks s.focus.l 8 := by
    change ceilDiv _ (max 1 (((Act.count s.focus.l.toPolder 0x370).run u).polder s.focus.l).khz) = _
    rw [hcount]
    rfl
  have hend := polder_apply_own s.focus.l (fun q => { q with handler := none, handlerDue := true })
    ((Act.count s.focus.l.toPolder 0x370).run u)
  rw [hcount] at hend
  refine ⟨⟨fun k => ?_, fun k => ?_, fun k => ?_⟩, congrArg (·.handler) hend, ?_, fun q hq => ?_, congrArg (·.counters) hend, hhost⟩
  · exact congrArg (·.get k) hmem
  · exact congrArg (·.get k) hside
  · exact congrArg (·.get k) hhm
  · refine (mem_schedule _ _ _).2 (.inl ?_)
    rw [hticks, ← hnow]
    rfl
  · rcases (mem_schedule _ _ _).1 hq with rfl | hq
    · exact fun h => by cases h
    · intro hw
      have := (List.mem_filter.1 hq).2
      simp [hw, isHandlerWork] at this

/-! ## The arithmetic of RV32IM (R240) -/

theorem rvAlu_eq (o : RvOp) (a b : BitVec 32) : rvAlu o a b = rvResult o a b := by
  have hsh : b.toNat % 32 = (b.setWidth 5).toNat := by simp
  have hhigh (x y : BitVec 64) (z : Int) (hz : x * y = BitVec.ofInt 64 z) : BitVec.ofInt 32 (z / 2 ^ 32) = ((x * y) >>> 32).setWidth 32 := by
    rw [hz]
    apply BitVec.eq_of_toNat_eq
    simp only [BitVec.toNat_ofInt, BitVec.toNat_setWidth, BitVec.toNat_ushiftRight, Nat.shiftRight_eq_div_pow]
    omega
  cases o
  case sll => exact congrArg (a <<< ·) hsh
  case srl => exact congrArg (a >>> ·) hsh
  case sra => exact congrArg a.sshiftRight hsh
  case slt => simp [rvAlu, rvResult, BitVec.slt]
  case sltu => simp [rvAlu, rvResult, BitVec.ult]
  case mulh => exact hhigh _ _ (a.toInt * b.toInt) (by rw [BitVec.ofInt_mul]; rfl)
  case mulhsu => exact hhigh _ _ (a.toInt * b.toNat) (by rw [BitVec.ofInt_mul, BitVec.ofInt_natCast, BitVec.ofNat_toNat]; rfl)
  case mulhu =>
    refine Eq.trans ?_ (hhigh (a.setWidth 64) (b.setWidth 64) (a.toNat * b.toNat) ?_)
    · exact (BitVec.ofInt_natCast 32 (a.toNat * b.toNat / 2 ^ 32)).symm
    · rw [BitVec.ofInt_mul, BitVec.ofInt_natCast, BitVec.ofInt_natCast, BitVec.ofNat_toNat, BitVec.ofNat_toNat]
  case div =>
    refine ite_congr rfl (fun _ => rfl) fun _ => (BitVec.eq_of_toInt_eq ?_)
    rw [BitVec.toInt_sdiv, BitVec.toInt_ofInt]
  case divu =>
    refine ite_congr rfl (fun _ => rfl) fun _ => (BitVec.eq_of_toNat_eq ?_)
    have := Nat.div_le_self a.toNat b.toNat
    have := a.isLt
    rw [BitVec.udiv_eq, BitVec.toNat_udiv, BitVec.toNat_ofNat, Nat.mod_eq_of_lt (by omega)]
  case rem =>
    refine ite_congr rfl (fun _ => rfl) fun _ => ?_
    rw [← BitVec.toInt_srem, BitVec.ofInt_toInt]
  case remu =>
    refine ite_congr rfl (fun _ => rfl) fun _ => (BitVec.eq_of_toNat_eq ?_)
    have := Nat.mod_le a.toNat b.toNat
    have := a.isLt
    rw [BitVec.umod_eq, BitVec.toNat_umod, BitVec.toNat_ofNat, Nat.mod_eq_of_lt (by omega)]
  all_goals rfl

/-- Settles O27: each arithmetic instruction retires with the result of `rvAlu`. -/
theorem sliceArithmetic : Obligations.SliceArithmetic := by
  intro s h short hr n
  have rd (i : RvInstr) (rd : BitVec 5) (v : BitVec 32) (he : Act.base n i s.focus.l.toPolder h s = .retireRd s.focus.l.toPolder h n rd v.toNat) :
      ∃ t, exec (.sliceBaseInstruction short i) s = .next t ∧ s.RetiresTo t h n rd v := by
    refine ⟨_, onHandler_eq hr, ?_⟩
    rw [he]
    have := run_retireRd hr n rd v.toNat
    rwa [BitVec.ofNat_toNat, BitVec.setWidth_eq] at this
  have himm (imm : BitVec 20) : BitVec.ofNat 32 (imm.toNat * 2 ^ 12) = imm ++ 0#12 := by
    apply BitVec.eq_of_toNat_eq
    have := imm.isLt
    simp only [BitVec.toNat_ofNat, BitVec.toNat_append, Nat.shiftLeft_eq, Nat.zero_mod, Nat.or_zero]
    omega
  refine ⟨fun r imm => rd _ r _ ?_, fun r imm => rd _ r _ ?_, fun o r rs1 rs2 => rd _ r _ ?_, fun o r rs1 imm => rd _ r _ ?_⟩
  · rw [← himm]; rfl
  · rw [← himm]; rfl
  · rw [← rvAlu_eq, ← ofNat_x, ← ofNat_x]; rfl
  · rw [← rvAlu_eq, ← ofNat_x]; rfl

/-! ## Jumps, branches, CSRs (R240, R241) -/

/-- A write of an existing CSR, and a read that writes nothing. -/
theorem run_csrWrite {n v : Nat} {rd : BitVec 5} :
    (Act.csrOp s.focus.l.toPolder h n .rw rd 0x800 v true).run s = (Act.retire s.focus.l.toPolder h (h.pc + n) fun x => { x with
      regs := setX x.regs rd.toNat h.shi.toNat
      shi := BitVec.ofNat 32 (v % 256) }).run s := rfl
theorem run_csrRead {n num v old : Nat} {o : RvCsr} {rd : BitVec 5} (hc : s.sliceCsr s.focus.l.toPolder h num = some old) :
    (Act.csrOp s.focus.l.toPolder h n o rd num v false).run s = (Act.retire s.focus.l.toPolder h (h.pc + n) fun x => { x with
      regs := setX x.regs rd.toNat old }).run s := by
  simp only [Act.csrOp, run_read, hc, Bool.false_and, Bool.false_eq_true, if_false]

/-- Settles O28: each instruction retires at its next `pc`, or kills. -/
theorem sliceControl : Obligations.SliceControl := by
  intro s h short hr n runs kills link
  have run (i : RvInstr) (pc : Nat) (f : Handler → Handler) {h' : Handler}
      (he : (Act.base n i s.focus.l.toPolder h s).run s = (Act.retire s.focus.l.toPolder h pc f).run s)
      (hh : ({ f h with pc := pc % 2 ^ 32, wait := false } : Handler) = h') : runs i h' := by
    refine ⟨_, onHandler_eq hr, ?_⟩
    rw [he, ← hh]
    exact run_retire hr pc f
  have kill (i : RvInstr) (he : (Act.base n i s.focus.l.toPolder h s).run s = (Act.killHandler s.focus.l.toPolder h 1).run s) : kills i := by
    refine ⟨_, onHandler_eq hr, ?_⟩
    rw [he]
    exact run_killHandler 1
  have hlink (rd : BitVec 5) : setX h.regs rd.toNat (h.pc + n) = link rd := setX_ofNat h rd _
  have hlt (v : BitVec 32) : v.toNat % 2 ^ 32 = v.toNat := Nat.mod_eq_of_lt v.isLt
  refine ⟨fun rd off => ?jal, fun rd rs1 off => ?jalr, fun c rs1 rs2 off ht => ?taken, fun c rs1 rs2 off ht => ?untaken, ?fence, ?fenceI,
    fun rd rs1 => ?csr, fun rd imm => ?csrImm, fun rd => ?sbud, fun rd rs1 => ?sbudWrite, fun o rd num rs1 h0 h1 => ?noCsr, ?illegal⟩
  case jal =>
    refine run _ _ _ rfl ?_
    rw [hlt, hlink]
  case jalr =>
    refine run _ _ _ rfl ?_
    have : (BitVec.ofNat 32 (h.x rs1) + off).toNat / 2 * 2 % 2 ^ 32 = (h.word32 rs1 + off).toNat / 2 * 2 := by
      rw [ofNat_x]
      exact Nat.mod_eq_of_lt (Nat.lt_of_le_of_lt (Nat.div_mul_le_self _ _) (h.word32 rs1 + off).isLt)
    rw [this, hlink]
  case taken =>
    refine run _ _ id rfl ?_
    simp only [ofNat_x, ht, if_true, hlt, id]
  case untaken =>
    refine run _ _ id rfl ?_
    simp only [ofNat_x, ht, Bool.false_eq_true, if_false, id]
  case fence => exact run _ _ id rfl rfl
  case fenceI => exact run _ _ (fun y => { y with fetched := [] }) rfl rfl
  case csr =>
    refine run _ _ _ run_csrWrite ?_
    rw [setX_eq]
    rfl
  case csrImm =>
    refine run _ _ _ run_csrWrite ?_
    have : imm.toNat % 256 = imm.toNat := Nat.mod_eq_of_lt (Nat.lt_trans imm.isLt (by decide))
    rw [setX_eq]
    simp only [this]
  case sbud =>
    refine run _ _ _ (run_csrRead (num := 0x801) (v := h.x 0#5) (o := .rs) (old := (h.limit - s.elapsed s.focus.l h) % 2 ^ 14) rfl) ?_
    rw [setX_ofNat]
  case sbudWrite => exact kill _ rfl
  case noCsr =>
    have hn : s.sliceCsr s.focus.l.toPolder h num.toNat = none := by
      have h0 : num.toNat ≠ 0x800 := fun e => h0 (BitVec.eq_of_toNat_eq e)
      have h1 : num.toNat ≠ 0x801 := fun e => h1 (BitVec.eq_of_toNat_eq e)
      rw [State.sliceCsr, if_neg h0, if_neg h1]
    refine kill _ ?_
    simp only [Act.base, Act.csrOp, run_read, hn]
  case illegal => exact kill _ rfl

/-! ## SAMO (R251) -/

theorem home_eq (h : Handler) (r : BitVec 5) : h.home r = h.shi.toNat % 256 * 2 ^ 32 + (h.word32 r).toNat := rfl

/-- The handler writes all ones to `rd` and goes on. -/
theorem run_retireRd_ones (hr : s.running h) (rd : BitVec 5) :
    s.RetiresTo ((Act.retireRd s.focus.l.toPolder h 4 rd (2 ^ 32 - 1)).run s) h 4 rd (BitVec.allOnes 32) := by
  have := run_retireRd hr 4 rd (2 ^ 32 - 1)
  rwa [show BitVec.ofNat 32 (2 ^ 32 - 1) = BitVec.allOnes 32 from rfl] at this

/-- An atomic of the slice core, by the place of its address. (The definition is unfolded as a function: its equation lemma would have the kernel
evaluate the address.) -/
theorem sliceAtomic_none {o : AmoOp} {rs2 rs1 rd : BitVec 5} {p : Loc} (hq : s.slicePlace p (h.home rs1) = none) :
    Act.sliceAtomic o rs2 rs1 rd p h s = .retireRd p h 4 rd (2 ^ 32 - 1) := by
  generalize hf : @Act.sliceAtomic = f
  delta Act.sliceAtomic at hf
  subst hf
  dsimp only
  rw [hq]
theorem sliceAtomic_some {o : AmoOp} {rs2 rs1 rd : BitVec 5} {p : Loc} {q : Place} (hq : s.slicePlace p (h.home rs1) = some q) :
    Act.sliceAtomic o rs2 rs1 rd p h s =
      if h.home rs1 % (if o = .decz then 8 else 4) ≠ 0 || s.sliceHeld p q then .retireRd p h 4 rd (2 ^ 32 - 1)
      else .seq (.handler p fun x => { x with wait := true })
        (.event 0 (.atomicPacketArrival ⟨.slice, o, .relaxed, o != .decz, (samoOperands o (h.x rs2) (h.x rd)).1,
          (samoOperands o (h.x rs2) (h.x rd)).2, h.home rs1, .handler p h.gen rd.toNat⟩ q)) := by
  generalize hf : @Act.sliceAtomic = f
  delta Act.sliceAtomic at hf
  subst hf
  dsimp only
  rw [hq]

/-- An atomic of the slice core is refused. -/
theorem sliceAtomic_refused {o : AmoOp} {rs2 rs1 rd : BitVec 5} {p : Loc} (hf : ∀ q, s.slicePlace p (h.home rs1) = some q →
      (h.home rs1 % (if o = .decz then 8 else 4) ≠ 0 ∨ s.sliceHeld p q = true)) :
    Act.sliceAtomic o rs2 rs1 rd p h s = .retireRd p h 4 rd (2 ^ 32 - 1) := by
  cases hq : s.slicePlace p (h.home rs1) with
  | none => exact sliceAtomic_none hq
  | some q => exact (sliceAtomic_some hq).trans (if_pos (by simpa using hf q hq))

/-- THE PACKET OF AN ATOMIC of the slice core. -/
theorem run_sliceAtomic_sent {o : AmoOp} {rs2 rs1 rd : BitVec 5} {q : Place} (hr : s.running h)
    (hq : s.slicePlace s.focus.l.toPolder (h.home rs1) = some q) (ha : h.home rs1 % (if o = .decz then 8 else 4) = 0)
    (hh : s.sliceHeld s.focus.l.toPolder q = false) {t : State} (ht : (Act.sliceAtomic o rs2 rs1 rd s.focus.l.toPolder h s).run s = t) :
    t = { s with agenda := t.agenda, polders := t.polders } ∧
      t.polder s.focus.l = { s.polder s.focus.l with handler := some { h with wait := true } } ∧
      s.planned t 0 (.atomicPacketArrival ⟨.slice, o, .relaxed, o != .decz, (samoOperands o (h.x rs2) (h.x rd)).1,
        (samoOperands o (h.x rs2) (h.x rd)).2, h.home rs1, .handler s.focus.l.toPolder h.gen rd.toNat⟩ q) := by
  rw [sliceAtomic_some hq, if_neg (by simp only [ha, hh]; decide)] at ht
  subst ht
  exact ⟨rfl, run_handler_polder hr fun x => { x with wait := true }, (mem_schedule _ _ _).2 (.inl rfl)⟩

/-- Settles O32: the eleven members differ in their operation alone, and `CAS` swaps its operands. -/
theorem sliceAtomics : Obligations.SliceAtomics := by
  intro s h rs2 rs1 rd hr x hx p a n
  have hexec : exec x.1 s = .next ((Act.sliceAtomic x.2 rs2 rs1 rd s.focus.l.toPolder h s).run s) := by
    simp only [List.mem_cons, List.not_mem_nil, or_false] at hx
    rcases hx with rfl | rfl | rfl | rfl | rfl | rfl | rfl | rfl | rfl | rfl | rfl <;> exact onHandler_eq hr
  have refused (hf : ∀ q, s.slicePlace p a = some q → (a % n ≠ 0 ∨ s.sliceHeld p q = true)) :
      ∃ t, exec x.1 s = .next t ∧ s.RetiresTo t h 4 rd (BitVec.allOnes 32) := by
    refine ⟨_, hexec, ?_⟩
    rw [sliceAtomic_refused hf]
    exact run_retireRd_ones hr rd
  refine ⟨fun hf => refused fun q hq => ?_, fun q hq => ⟨fun hh => refused fun q' hq' => ?_, fun ha hh => ⟨_, hexec, ?_⟩⟩⟩
  · rcases hf with hn | ha
    · rw [hn] at hq
      cases hq
    · exact .inl ha
  · rw [hq] at hq'
    cases hq'
    exact .inr hh
  · have hsent := run_sliceAtomic_sent (rs2 := rs2) (rd := rd) hr hq ha hh rfl
    simp only [samoOperands] at hsent
    by_cases hcas : x.2 = .cas
    · rw [if_pos hcas, if_pos hcas]
      rw [if_pos hcas] at hsent
      exact hsent
    · rw [if_neg hcas, if_neg hcas]
      rw [if_neg hcas] at hsent
      exact hsent

/-! ## STLIM and SHEND (R252) -/

theorem ceilingOf_word (h : Handler) : ceilingOf (h.word 1) = min ((h.desc.getD 1 0#64).toNat / 2 ^ 16 % 2 ^ 14) 8192 := rfl

/-- A handler ends: its work is off the agenda, and the next start is due. -/
theorem run_endHandler (s : State) (gen : Nat) :
    let t := (Act.endHandler s.focus.l.toPolder gen).run s
    s.memKept t ∧ (t.polder s.focus.l).handler = none ∧ s.planned t (s.sliceTicks s.focus.l 8) (.handlerStart s.focus.l.toPolder)
      ∧ ∀ q ∈ t.agenda, q.work ≠ .slice s.focus.l.toPolder gen := by
  refine ⟨⟨fun _ => rfl, fun _ => rfl, fun _ => rfl⟩, ?_, (mem_schedule _ _ _).2 (.inl rfl), fun q hq hw => ?_⟩
  · exact congrArg (·.handler) (polder_apply_own s.focus.l (fun q => { q with handler := none, handlerDue := true }) s)
  · rcases (mem_schedule _ _ _).1 hq with rfl | hq
    · cases hw
    · have := (List.mem_filter.1 hq).2
      simp [hw, isHandlerWork] at this

/-- Settles O33: the limit moves, or has been used up; the handler ends. -/
theorem sliceEnds : Obligations.SliceEnds := by
  intro s h rs1 rd limit hr hl
  have hlim : min (max (h.x rs1) 1) (ceilingOf (h.word 1)) = limit := hl.symm
  have stlim : exec (.stlim rs1 rd) s = .next _ := Eq.trans (b := execStlim rs1 rd s) rfl (onHandler_eq hr)
  rw [hlim] at stlim
  dsimp only at stlim
  refine ⟨fun hlt => ⟨_, stlim, ?moved⟩, fun hle => ⟨_, stlim, ?killed⟩, _, Eq.trans (b := execShend s) rfl (onHandler_eq hr), run_endHandler s h.gen⟩
  case moved =>
    rw [if_neg (show ¬ limit ≤ s.elapsed s.focus.l.toPolder h from Nat.not_le.2 hlt)]
    refine ⟨⟨fun _ => rfl, fun _ => rfl, fun _ => rfl⟩, ?_, (mem_schedule _ _ _).2 (.inr ((mem_schedule _ _ _).2 (.inl rfl)))⟩
    have := run_handler_polder hr fun x => { x with limit := limit, regs := setX x.regs rd.toNat h.limit, pc := (h.pc + 4) % 2 ^ 32, wait := false }
    rw [setX_ofNat] at this
    exact congrArg (·.handler) this
  case killed =>
    rw [if_pos (show limit ≤ s.elapsed s.focus.l.toPolder h from hle)]
    exact run_killHandler 0x10

/-! ## Messages, pulls and registrations (R247-R250) -/

theorem leaves_reply {α : Type} {f : State → α} (hs : ∀ d e, (Act.event d e).Leaves f) (src : Loc) (m : Message) (code : Nat) :
    (Act.reply src m code).Leaves f := by
  refine leaves_read fun s => ?_
  split
  · exact leaves_when (hs _ _)
  · exact leaves_skip
theorem leaves_transmit {α : Type} {f : State → α} (hs : ∀ d e, (Act.event d e).Leaves f) (src : Loc) (m : Message) :
    (Act.transmit src m).Leaves f := by
  refine leaves_read fun s => ?_
  dsimp only
  cases m.reply with
  | none =>
    split
    · exact leaves_skip
    · split
      · exact leaves_skip
      · exact hs _ _
  | some p =>
    split
    · exact hs _ _
    · split <;> exact hs _ _

/-- Everything but the agenda. -/
def State.unplanned (s : State) : State := { s with agenda := [] }
theorem leaves_event_unplanned (d : Nat) (e : Event) : (Act.event d e).Leaves State.unplanned := fun _ => rfl

/-- A state that differs in its agenda alone keeps memory, the focus, the time and every polder. -/
theorem unplanned_eq {u : State} (hu : u.unplanned = s.unplanned) : s.memKept u ∧ u.focus = s.focus ∧ u.now = s.now ∧ ∀ l, u.polder l = s.polder l := by
  have hmem : u.mem = s.mem := show u.unplanned.mem = s.unplanned.mem from congrArg State.mem hu
  have hside : u.side = s.side := show u.unplanned.side = s.unplanned.side from congrArg State.side hu
  have hhost : u.hostMem = s.hostMem := show u.unplanned.hostMem = s.unplanned.hostMem from congrArg State.hostMem hu
  have hpol : u.polders = s.polders := show u.unplanned.polders = s.unplanned.polders from congrArg State.polders hu
  refine ⟨⟨fun _ => ?_, fun _ => ?_, fun _ => ?_⟩, show u.unplanned.focus = s.unplanned.focus from congrArg State.focus hu,
    show u.unplanned.now = s.unplanned.now from congrArg State.now hu, fun l => ?_⟩
  · rw [hmem]
  · rw [hside]
  · rw [hhost]
  · rw [State.polder, State.polder, hpol]

/-- The instruction goes on after what has kept the handler and memory. -/
theorem run_retire_after {u : State} (hr : s.running h) (hk : s.memKept u) (hf : u.focus = s.focus)
    (hh : (u.polder s.focus.l).handler = (s.polder s.focus.l).handler) (pc : Nat) (f : Handler → Handler) :
    let t := (Act.retire s.focus.l.toPolder h pc f).run u
    s.memKept t ∧ t.polder s.focus.l = { u.polder s.focus.l with handler := some { f h with pc := pc % 2 ^ 32, wait := false } } := by
  have hru : u.running h := ⟨by rw [hf, hh, hr.1], hr.2⟩
  rw [← hf]
  have ht := run_retire hru pc f
  refine ⟨memKept_trans hk ?_, ht.own⟩
  rw [ht.rest]
  exact memKept_refl u
theorem run_retireRd_after {u : State} (hr : s.running h) (hk : s.memKept u) (hf : u.focus = s.focus)
    (hh : (u.polder s.focus.l).handler = (s.polder s.focus.l).handler) (rd : BitVec 5) (v : Nat) :
    let t := (Act.retireRd s.focus.l.toPolder h 4 rd v).run u
    s.memKept t ∧ t.polder s.focus.l = { u.polder s.focus.l with
      handler := some { h with regs := h.after rd (BitVec.ofNat 32 v), pc := (h.pc + 4) % 2 ^ 32, wait := false } } := by
  have := run_retire_after hr hk hf hh (h.pc + 4) fun x => { x with regs := setX x.regs rd.toNat v }
  rwa [setX_ofNat] at this

/-- The instruction goes on after a change of the polder that keeps the handler. -/
theorem run_retireRd_polder (hr : s.running h) {g : PolderState → PolderState} (hg : ∀ q, (g q).handler = q.handler) (rd : BitVec 5) (v : Nat) :
    let t := (Act.retireRd s.focus.l.toPolder h 4 rd v).run ((Act.polder s.focus.l.toPolder g).run s)
    s.memKept t ∧ t.polder s.focus.l = { g (s.polder s.focus.l) with
      handler := some { h with regs := h.after rd (BitVec.ofNat 32 v), pc := (h.pc + 4) % 2 ^ 32, wait := false } } := by
  have hp : ((Act.polder s.focus.l.toPolder g).run s).polder s.focus.l = g (s.polder s.focus.l) := polder_apply_own s.focus.l g s
  have := run_retireRd_after hr (u := (Act.polder s.focus.l.toPolder g).run s) (memKept_refl s) rfl (by rw [hp, hg]) rd v
  rwa [hp] at this

/-- AN INSTRUCTION THAT REPORTS A STATUS and does `a` where it is 0; one that met an uncorrectable error is counted (R247, R249, R331). -/
def Act.reports (p : Loc) (h : Handler) (rd : BitVec 5) (c : Nat) (a : Act) : Act :=
  .all [.when (c == 0x11) (.count p 0x358), .when (c == 0) a, .retireRd p h 4 rd c]

theorem run_reports_refused (hr : s.running h) {c : Nat} (h0 : c ≠ 0) (h1 : c ≠ 0x11) (rd : BitVec 5) (a : Act) :
    s.RetiresTo ((Act.reports s.focus.l.toPolder h rd c a).run s) h 4 rd (BitVec.ofNat 32 c) := by
  simp only [Act.reports, run_all_cons, run_all_nil, run_when, beq_iff_eq, h0, h1, if_false]
  exact run_retireRd hr 4 rd c
theorem run_reports_poisoned (hr : s.running h) (rd : BitVec 5) (a : Act) :
    let t := (Act.reports s.focus.l.toPolder h rd 0x11 a).run s
    s.memKept t ∧ t.polder s.focus.l = { s.polder s.focus.l with
      counters := bumpIn 0x358 1 (s.polder s.focus.l).counters
      handler := some { h with regs := h.after rd 0x11#32, pc := (h.pc + 4) % 2 ^ 32, wait := false } } :=
  run_retireRd_polder hr (g := fun q => { q with counters := bumpIn 0x358 1 q.counters }) (fun _ => rfl) rd 0x11
theorem run_reports_done {u : State} {a : Act} (hr : s.running h) (hu : a.run s = u) (hk : s.memKept u) (hf : u.focus = s.focus)
    (hh : (u.polder s.focus.l).handler = (s.polder s.focus.l).handler) (rd : BitVec 5) :
    let t := (Act.reports s.focus.l.toPolder h rd 0 a).run s
    s.memKept t ∧ t.polder s.focus.l = { u.polder s.focus.l with
      handler := some { h with regs := h.after rd 0#32, pc := (h.pc + 4) % 2 ^ 32, wait := false } } := by
  have := run_retireRd_after hr hk hf hh rd 0
  rwa [← hu] at this ⊢

/-- A message takes a place in the slice's interface until `due`. -/
def PolderState.sends (due now : Nat) (q : PolderState) : PolderState := { q with sliceNet := due :: q.sliceNet.filter fun t => decide (now < t) }

theorem sliceNetCount_sends {t : State} {p : Loc} (ht : (t.polder p).sliceNet = ((s.polder p).sends (s.now + 8 + s.sliceNetCount p) s.now).sliceNet)
    (hn : t.now = s.now) : t.sliceNetCount p = s.sliceNetCount p + 1 := by
  rw [State.sliceNetCount, ht, hn, PolderState.sends, State.sliceNetCount, List.filter_cons_of_pos (by simp; omega), List.filter_filter]
  simp

/-- `SSEND` and `SPULL` report a status. -/
theorem exec_ssend (hr : s.running h) (rs2 rs1 rd : BitVec 5) :
    exec (.ssend rs2 rs1 rd) s = .next ((Act.reports s.focus.l.toPolder h rd (s.ssendStatus s.focus.l.toPolder h (h.x rs1) (h.x rs2)) (.seq
      (.polder s.focus.l.toPolder (PolderState.sends (s.now + 8 + s.sliceNetCount s.focus.l.toPolder) s.now))
      (.transmit s.focus.l.toPolder (s.sliceMessageOf s.focus.l.toPolder h (h.x rs2) (h.x rs1))))).run s) :=
  Eq.trans (b := execSsend rs2 rs1 rd s) rfl (onHandler_eq hr)
theorem exec_spull (hr : s.running h) (rs2 rs1 rd : BitVec 5) :
    exec (.spull rs2 rs1 rd) s = .next ((Act.reports s.focus.l.toPolder h rd (s.spullStatus s.focus.l.toPolder h (h.x rs1) (h.x rs2)) (.seq
      (.polder s.focus.l.toPolder fun q => { q with sliceQ := q.sliceQ ++ [s.spullXfer s.focus.l.toPolder h (h.x rs1) (h.x rs2)] })
      (.event 0 (.transferIssue s.focus.l.toPolder)))).run s) :=
  Eq.trans (b := execSpull rs2 rs1 rd s) rfl (onHandler_eq hr)

/-- `SREPLY` may plan a reply, and marks the event. -/
theorem exec_sreply (hr : s.running h) (rs1 : BitVec 5) : ∃ a : Act, a.Leaves State.unplanned ∧
    exec (.sreply rs1) s = .next ((Act.seq a (.retire s.focus.l.toPolder h (h.pc + 4) fun x => { x with replied := true })).run s) := by
  have hexec := Eq.trans (a := exec (.sreply rs1) s) (b := execSreply rs1 s) rfl (onHandler_eq hr)
  cases hm : h.ev.msg with
  | none =>
    rw [hm] at hexec
    exact ⟨.skip, leaves_skip, hexec⟩
  | some m =>
    rw [hm] at hexec
    exact ⟨.when (!h.replied) (.reply s.focus.l.toPolder m (h.x rs1 % 256)), leaves_when (leaves_reply leaves_event_unplanned _ _ _), hexec⟩

/-- `SCREG` with a free handle and a counter, and without one. -/
theorem exec_screg (hr : s.running h) {rs1 : BitVec 5} {id k : Nat} (hid : (s.polder s.focus.l.toPolder).freeReg = some id)
    (hk : (s.slicePlace s.focus.l.toPolder (h.home rs1)).bind s.keyOf = some k) (rs2 rd : BitVec 5) :
    exec (.screg rs2 rs1 rd) s = .next ((if h.home rs1 % 8 ≠ 0 ∨ 63 < h.x rs2 then .retireRd s.focus.l.toPolder h 4 rd (2 ^ 32 - 1)
      else .seq (.polder s.focus.l.toPolder fun q => { q with
          counterRegs := q.counterRegs ++ [⟨id, h.set, k, h.home rs1, h.x rs2, true, false, 0⟩] })
        (.retireRd s.focus.l.toPolder h 4 rd id) : Act).run s) := by
  refine Eq.trans (b := execScreg rs2 rs1 rd s) rfl ((onHandler_eq hr).trans ?_)
  rw [hid]
  dsimp only
  rw [hk]
theorem exec_screg_none (hr : s.running h) {rs1 : BitVec 5} (hn : (s.polder s.focus.l.toPolder).freeReg = none ∨
      (s.slicePlace s.focus.l.toPolder (h.home rs1)).bind s.keyOf = none) (rs2 rd : BitVec 5) :
    exec (.screg rs2 rs1 rd) s = .next ((Act.retireRd s.focus.l.toPolder h 4 rd (2 ^ 32 - 1)).run s) := by
  refine Eq.trans (b := execScreg rs2 rs1 rd s) rfl ((onHandler_eq hr).trans ?_)
  rcases hn with hn | hn
  · rw [hn]
  · dsimp only
    rw [hn]
    cases (s.polder s.focus.l.toPolder).freeReg <;> rfl

/-- What `SCARM` makes of a registration. -/
def CounterReg.rearmed (zero : Bool) (order : Nat) (x : CounterReg) : CounterReg :=
  if zero then { x with armed := false, pending := true, order := if x.pending then x.order else order } else { x with armed := true }

theorem exec_scarm_none (hr : s.running h) {rs1 : BitVec 5} (hn : (s.polder s.focus.l.toPolder).regOf h (h.x rs1) = none) (rd : BitVec 5) :
    exec (.scarm rs1 rd) s = .next ((Act.retireRd s.focus.l.toPolder h 4 rd 1).run s) := by
  refine Eq.trans (b := execScarm rs1 rd s) rfl ((onHandler_eq hr).trans ?_)
  dsimp only
  rw [hn]
theorem exec_scarm (hr : s.running h) {rs1 : BitVec 5} {r : CounterReg} (hg : (s.polder s.focus.l.toPolder).regOf h (h.x rs1) = some r)
    (hf : s.freshCounter s.focus.l.toPolder r = none) (rd : BitVec 5) :
    exec (.scarm rs1 rd) s = .next ((Act.seq (.polder s.focus.l.toPolder fun q => { q with
        eventOrder := q.eventOrder + 1
        counterRegs := q.counterRegs.map fun x => if x.id = r.id then x.rearmed (s.num r.key 8 == 0) q.eventOrder else x })
      (.retireRd s.focus.l.toPolder h 4 rd 0)).run s) := by
  refine Eq.trans (b := execScarm rs1 rd s) rfl ((onHandler_eq hr).trans ?_)
  dsimp only
  rw [hg]
  dsimp only
  rw [hf]
  rfl
theorem exec_scdrp_none (hr : s.running h) {rs1 : BitVec 5} (hn : (s.polder s.focus.l.toPolder).regOf h (h.x rs1) = none) (rd : BitVec 5) :
    exec (.scdrp rs1 rd) s = .next ((Act.retireRd s.focus.l.toPolder h 4 rd 1).run s) := by
  refine Eq.trans (b := execScdrp rs1 rd s) rfl ((onHandler_eq hr).trans ?_)
  rw [hn]
theorem exec_scdrp (hr : s.running h) {rs1 : BitVec 5} {r : CounterReg} (hg : (s.polder s.focus.l.toPolder).regOf h (h.x rs1) = some r) (rd : BitVec 5) :
    exec (.scdrp rs1 rd) s = .next ((Act.seq (.polder s.focus.l.toPolder fun q => { q with
        counterRegs := q.counterRegs.filter fun x => x.id != r.id }) (.retireRd s.focus.l.toPolder h 4 rd 0)).run s) := by
  refine Eq.trans (b := execScdrp rs1 rd s) rfl ((onHandler_eq hr).trans ?_)
  rw [hg]

theorem rearmed_flags {v n : Nat} {x : CounterReg} : (v = 0 → (x.rearmed (v == 0) n).armed = false ∧ (x.rearmed (v == 0) n).pending = true) ∧
    (v ≠ 0 → (x.rearmed (v == 0) n).armed = true) := by
  refine ⟨fun hv => ?_, fun hv => ?_⟩
  · subst hv
    exact ⟨rfl, rfl⟩
  · rw [CounterReg.rearmed, if_neg (by simpa using hv)]

/-- Settles O31: a status is reported, and what stands behind it done where it is 0. -/
theorem sliceServices : Obligations.SliceServices := by
  intro s h rs2 rs1 rd hr p x goesOn refused
  have refuse {i : Instr} {c : Nat} {a : Act} (hi : exec i s = .next ((Act.reports p h rd c a).run s)) : refused i c := by
    refine ⟨fun h0 h1 => ⟨_, hi, run_reports_refused hr h0 h1 rd a⟩, fun hc => ⟨_, hi, ?_⟩⟩
    subst hc
    obtain ⟨hmem, hp⟩ := run_reports_poisoned hr rd a
    exact ⟨congrArg (·.handler) hp, hmem, congrArg (·.counters) hp⟩
  refine ⟨refuse (exec_ssend hr rs2 rs1 rd), fun hc => ⟨_, exec_ssend hr rs2 rs1 rd, ?sent⟩, ?replied, refuse (exec_spull hr rs2 rs1 rd),
    fun hc => ⟨_, exec_spull hr rs2 rs1 rd, ?pulled⟩, fun id q k hid hq hk ha hx => ⟨_, exec_screg hr hid (by rw [hq]; exact hk) rs2 rd, ?registered⟩,
    fun hn => ?unregistered, fun i hi hn => ?unknown,
    fun r hg => ⟨fun hf => ⟨_, exec_scarm hr hg hf rd, ?armed⟩, _, exec_scdrp hr hg rd, ?dropped⟩⟩
  case sent =>
    have ht := leaves_transmit leaves_event_unplanned p (s.sliceMessageOf p h (h.x rs2) (h.x rs1))
      ((Act.polder p (PolderState.sends (s.now + 8 + s.sliceNetCount p) s.now)).run s)
    obtain ⟨hmem, hfocus, hnow, hpol⟩ := unplanned_eq ht
    have hown := (hpol s.focus.l).trans (polder_apply_own s.focus.l (PolderState.sends (s.now + 8 + s.sliceNetCount p) s.now) s)
    rw [show s.ssendStatus p h (h.x rs1) (h.x rs2) = 0 from hc]
    obtain ⟨hk, hp⟩ := run_reports_done (a := .seq (.polder p (PolderState.sends (s.now + 8 + s.sliceNetCount p) s.now))
      (.transmit p (s.sliceMessageOf p h (h.x rs2) (h.x rs1)))) hr rfl hmem hfocus (congrArg (·.handler) hown) rd
    refine ⟨congrArg (·.handler) hp, hk, ?_⟩
    have hnet := (congrArg (·.sliceNet) hp).trans (congrArg (·.sliceNet) hown)
    exact sliceNetCount_sends (t := (Act.reports p h rd 0 _).run s) hnet hnow
  case replied =>
    obtain ⟨a, ha, hexec⟩ := exec_sreply hr rs1
    obtain ⟨hmem, hfocus, -, hpol⟩ := unplanned_eq (ha s)
    obtain ⟨hk, hp⟩ := run_retire_after hr hmem hfocus (congrArg (·.handler) (hpol s.focus.l)) (h.pc + 4) fun x => { x with replied := true }
    exact ⟨_, hexec, congrArg (·.handler) hp, hk⟩
  case pulled =>
    have hown := polder_apply_own s.focus.l (fun q => { q with sliceQ := q.sliceQ ++ [s.spullXfer p h (h.x rs1) (h.x rs2)] }) s
    rw [show s.spullStatus p h (h.x rs1) (h.x rs2) = 0 from hc]
    obtain ⟨hk, hp⟩ := run_reports_done (s := s) (a := .seq (.polder p fun q => { q with sliceQ := q.sliceQ ++ [s.spullXfer p h (h.x rs1) (h.x rs2)] })
      (.event 0 (.transferIssue p))) hr rfl (memKept_refl s) rfl (congrArg (·.handler) hown) rd
    refine ⟨congrArg (·.handler) hp, hk, (congrArg (·.sliceQ) hp).trans (congrArg (·.sliceQ) hown), ?_⟩
    exact (mem_schedule _ _ _).2 (.inr ((mem_schedule _ _ _).2 (.inl rfl)))
  case registered =>
    rw [if_neg (show ¬ (h.home rs1 % 8 ≠ 0 ∨ 63 < h.x rs2) from not_or.2 ⟨Classical.not_not.2 ha, Nat.not_lt.2 hx⟩)]
    obtain ⟨hmem, hp⟩ := run_retireRd_polder hr (g := fun q => { q with
      counterRegs := q.counterRegs ++ [⟨id, h.set, k, h.home rs1, h.x rs2, true, false, 0⟩] }) (fun _ => rfl) rd id
    exact ⟨congrArg (·.handler) hp, hmem, congrArg (·.counterRegs) hp⟩
  case unregistered =>
    by_cases hsome : (s.polder p).freeReg = none ∨ (s.slicePlace p (h.home rs1)).bind s.keyOf = none
    · exact ⟨_, exec_screg_none hr hsome rs2 rd, run_retireRd_ones hr rd⟩
    · obtain ⟨hid, hk⟩ := not_or.1 hsome
      obtain ⟨id, hid⟩ := Option.ne_none_iff_exists'.1 hid
      obtain ⟨k, hk⟩ := Option.ne_none_iff_exists'.1 hk
      refine ⟨_, exec_screg hr hid hk rs2 rd, ?_⟩
      have hbad : h.home rs1 % 8 ≠ 0 ∨ 63 < h.x rs2 := by
        rcases hn with hn | hn | hn
        · exact absurd (hn.symm.trans hid) nofun
        · rw [hn] at hk
          cases hk
        · exact hn
      rw [if_pos hbad]
      exact run_retireRd_ones hr rd
  case unknown =>
    simp only [List.mem_cons, List.not_mem_nil, or_false] at hi
    rcases hi with rfl | rfl
    · exact ⟨_, exec_scarm_none hr hn rd, run_retireRd hr 4 rd 1⟩
    · exact ⟨_, exec_scdrp_none hr hn rd, run_retireRd hr 4 rd 1⟩
  case armed =>
    obtain ⟨hmem, hp⟩ := run_retireRd_polder hr (g := fun q => { q with
        eventOrder := q.eventOrder + 1
        counterRegs := q.counterRegs.map fun x => if x.id = r.id then x.rearmed (s.num r.key 8 == 0) q.eventOrder else x }) (fun _ => rfl) rd 0
    refine ⟨congrArg (·.handler) hp, hmem, fun y hy hid => ?_⟩
    obtain ⟨z, -, rfl⟩ := List.mem_map.1 ((congrArg (y ∈ ·.counterRegs) hp).mp hy)
    by_cases hz : z.id = r.id
    · rw [if_pos hz]
      exact rearmed_flags
    · rw [if_neg hz] at hid
      exact absurd hid hz
  case dropped =>
    obtain ⟨hmem, hp⟩ := run_retireRd_polder hr (g := fun q => { q with
      counterRegs := q.counterRegs.filter fun x => x.id != r.id }) (fun _ => rfl) rd 0
    exact ⟨congrArg (·.handler) hp, hmem, congrArg (·.counterRegs) hp⟩

/-! ## The reserved part of the control block

A handler's region may begin at byte 0 of handler memory: the statements take any descriptor. The bytes 0x100 to 0x3FF then lie in the region, but keep
their zero whatever is written there (`slicePart`, R6, R362). -/

/-- A handler whose region is the first KiB of handler memory: `x1` points into the reserved part, `x2` to core memory. -/
def lowHandler : Handler :=
  { gen := 0, set := 0, ev := default, desc := [0x100#64], pc := 0x40, regs := [0#32, 0x100#32, 0x100001#32] ++ List.replicate 29 0#32, shi := 0#32,
    limit := 100, start := 0, replied := false, fetched := [], wait := true }
/-- The machine after reset, where that handler runs and the first byte of core memory holds 1. -/
def State.low : State :=
  { State.reset with
    mem := [(keyIn ⟨0, 0, 0, 0⟩ 2 0, 1#8)]
    polders := [(⟨0, 0, 0, 0⟩, { PolderState.initial with handler := some lowHandler })] }

theorem low_running : State.low.running lowHandler := ⟨rfl, rfl⟩
theorem low_inv : State.low.Inv := by
  obtain ⟨hinv, -⟩ := resetHolds
  exact { hinv with mem := rfl, polders := ⟨List.pairwise_singleton _ _, by simp [State.low, Loc.toPolder]⟩ }

theorem low_place : State.low.slicePlace ⟨0, 0, 0, 0⟩ 0x100000 = some ⟨⟨0, 0, 0, 0⟩, 2, 0⟩ := by
  simp [State.slicePlace, homePlace, Loc.toPolder]

/-- What the two accesses leave in the reserved part: zero. -/
theorem low_store : ∃ t, exec (.sliceBaseInstruction false (.store .sb 1#5 2#5 0#32)) State.low = .next t ∧ t.num (keyIn ⟨0, 0, 0, 0⟩ 5 0x100) 1 = 0 :=
  ⟨_, rfl, by decide⟩

/-- Refutes O29: a byte store to 0x100 of handler memory, in the region, leaves the zero that the byte holds. -/
theorem not_sliceMemory : ¬ Obligations.SliceMemory := by
  intro h
  obtain ⟨-, hstore⟩ := h State.low lowHandler false low_running low_inv
  obtain ⟨t, ht, -, hnum, -⟩ := (hstore .sb 1#5 2#5 0#32 0x100 rfl).1 rfl rfl
  obtain ⟨u, hu, hzero⟩ := low_store
  cases ht.symm.trans hu
  exact absurd (hnum.symm.trans hzero) (by decide)

theorem low_copy : ∃ t, exec (.slrd 2#5 1#5 0#5) State.low = .next t ∧ (t.mem.bytes (keyIn ⟨0, 0, 0, 0⟩ 5 0x100) 64).getD 0 0#8 = 0#8 :=
  ⟨_, rfl, by decide⟩

/-- Refutes O30: `SLRD` of the line at 0x100000 of core memory to 0x100 of handler memory, in the region, brings no byte. -/
theorem not_sliceHomeAccess : ¬ Obligations.SliceHomeAccess := by
  intro h
  obtain ⟨-, hcopy, -⟩ := h State.low lowHandler .polder 2#5 1#5 0#5 low_running low_inv rfl
  obtain ⟨-, -, -, hslrd, -⟩ := hcopy ⟨⟨0, 0, 0, 0⟩, 2, 0⟩ rfl rfl low_place
  obtain ⟨t, ht, -, hbytes, -⟩ := hslrd rfl rfl
  obtain ⟨u, hu, hzero⟩ := low_copy
  cases ht.symm.trans hu
  exact absurd ((congrArg (·.getD 0 0#8) hbytes).symm.trans hzero) (by decide)

end Sys2Proof.Machine
end

section
/-! SUPPORT. States in which a statement about tasks, launches, watches, moves, collectives, tenancy or the commit of a block fails. -/

namespace Sys2Proof.Machine

-- The evaluations below are checked one after another: each of those that wait for the kernel at one time holds the stack of a thread.
set_option Elab.async false

/-! ## A block at its commit -/

/-- A ready block that leaves by a jump to 0. -/
def Block.jumping : Block :=
  { epoch := 1, addr := 0, bytes := [], ready := true, ops := [], fired := [], waiting := [], off := [], done := [], out := [], exit := some (.goto 0), exits := 1,
    writes := [], stores := [], acts := [], pops := [], flags := 0, namo := 0, atoms := [], fault := none, heldSince := none, fenced := none,
    missed := [], got := [], again := false, bad := none, fm0 := 0#64, dikes0 := [], hset0 := 0 }
/-- Likewise, with one act that waits for its commit. -/
def Block.acting (op : CommitOp) : Block := { Block.jumping with acts := [(0, op)] }
/-- Its context, of a core after reset. -/
def firstCtx : Loc := ⟨0, 0, 0, 0⟩
/-- The machine after reset, where context 0 runs such a block. -/
def State.committing (b : Block) (c : Context → Context) (k : CoreState → CoreState) (m : Memory) : State :=
  { State.reset with
    cur := .blockCommit firstCtx 1
    mem := m
    ctxs := [(firstCtx, { c (Context.initial 0) with state := 2#3, block := some b })]
    cores := [(firstCtx, k (CoreState.initial firstCtx))] }

theorem committing_other {b : Block} {c : Context → Context} {k : CoreState → CoreState} {m : Memory} {n : Nat} (hn : n ≠ 0) :
    (State.committing b c k m).ctx { firstCtx with ctx := n } = Context.initial n := by
  simp [State.ctx, State.committing, lookupD, firstCtx, Ne.symm hn]

/-- No other context of that core is READY. -/
theorem committing_best {b : Block} {c : Context → Context} {k : CoreState → CoreState} {m : Memory} {s : State} (hs : s = State.committing b c k m) {n : Nat}
    (hn : (s.ctx { firstCtx with ctx := n }).state = 1#3) : (s.ctx { firstCtx with ctx := n }).prio.toNat ≤ (s.ctx firstCtx).prio.toNat := by
  subst hs
  by_cases h0 : n = 0
  · subst h0
    exact Nat.le_refl _
  · rw [committing_other h0] at hn
    cases hn

/-! ## A full deque -/

/-- A `JOIN` whose counter lies at 0, and whose record, at 0x40, has the virtual entry 2^40. -/
def lastJoin : CommitOp := .join 0 0x40 ⟨firstCtx, 1, 0⟩
/-- A context with a spillway, on a core whose deque is full, commits it; the counter is zero. -/
def State.joining : State :=
  .committing (.acting lastJoin) (fun c => { c with spill := 0x100000001#64 })
    (fun k => { k with deque := List.replicate 64 default }) [(keyIn firstCtx 2 0x45, 1#8)]

theorem joining_commits : State.joining.commitsWith firstCtx 1 (.acting lastJoin) lastJoin where
  able := ⟨⟨rfl, rfl⟩, rfl, by decide, by decide, by decide⟩
  steady := ⟨rfl, rfl, rfl, rfl, rfl, fun _ => committing_best rfl⟩
  owed := ⟨rfl, rfl, rfl⟩
  jumps := ⟨0, rfl⟩
  writes := nofun
  stores := rfl
  pops := rfl
  alone := ⟨0, rfl⟩

theorem joining_writes : ∃ t, exec .blockCommit State.joining = .next t ∧ t.mem.get (keyIn firstCtx 0 8) = 1#8 := ⟨_, rfl, by decide +kernel⟩

/-- Refutes O23: the record of the `JOIN` goes to the task ring, and memory changes. -/
theorem not_tasksForkAndJoin : ¬ Obligations.TasksForkAndJoin := by
  intro h
  obtain ⟨-, -, hcommit⟩ := h
  obtain ⟨-, -, -, -, -, hjoin, -⟩ := hcommit State.joining firstCtx 1 0x40
  obtain ⟨t, ht, ⟨hmem, -⟩, -⟩ := hjoin 0 ⟨firstCtx, 1, 0⟩ _ joining_commits rfl
  obtain ⟨u, hu, hone⟩ := joining_writes
  cases ht.symm.trans hu
  exact absurd ((hmem _).symm.trans hone) (by decide)

/-! ## A store to the reserved part of the control block (R6, R362) -/

/-- A supervisor's block that stores to 0x100 of handler memory. -/
def Block.storing : Block := { Block.jumping with stores := [⟨0, 0, 0x800100, 8, some 1#64, false, none⟩] }
def State.storing : State := .committing .storing (fun c => { c with sup := true }) id []

theorem storing_inv : State.storing.Inv := by
  obtain ⟨hinv, -⟩ := resetHolds
  exact { hinv with ctxs := ⟨List.pairwise_singleton _ _, by simp [State.storing, State.committing]⟩
                    cores := ⟨List.pairwise_singleton _ _, by simp [State.storing, State.committing, Loc.toCore, firstCtx]⟩ }
theorem storing_commits : State.storing.commits firstCtx 1 .storing := ⟨⟨rfl, rfl⟩, rfl, by decide, by decide, by decide⟩
theorem storing_calm : State.storing.calm firstCtx :=
  { own := rfl, runs := rfl, stop := rfl, window := rfl, trap := rfl, best := fun _ => committing_best rfl, lead := rfl }
theorem storing_zero : ∃ t, exec .blockCommit State.storing = .next t ∧ t.num (keyIn firstCtx 5 0x100) 8 = 0 := ⟨_, rfl, by decide +kernel⟩

/-- Refutes O36: the word keeps its zero. -/
theorem not_blockCommits : ¬ Obligations.BlockCommits := by
  intro h
  obtain ⟨hcommit, -⟩ := h State.storing firstCtx 1 .storing storing_inv
  obtain ⟨hgoto, -⟩ := hcommit storing_commits storing_calm ⟨rfl, rfl, rfl⟩
  obtain ⟨t, ht, -, -, -, -, -, -, -, hstores⟩ := hgoto 0 rfl rfl rfl rfl
  have hone := (hstores rfl).2 _ (List.mem_singleton_self _) 1#64 ⟨firstCtx, 5, 0x100⟩ (keyIn firstCtx 5 0x100) rfl
    (by simp [homePlace, firstCtx, Loc.toPolder]) rfl
    (fun y hy _ _ => .inl (List.mem_singleton.1 hy))
  obtain ⟨u, hu, hzero⟩ := storing_zero
  cases ht.symm.trans hu
  exact absurd (hone.symm.trans hzero) (by decide)

/-! ## A home map within the page that it maps

Nothing in the statements keeps the home map (R323) out of the second-tier page that its entry maps: a write to the page may then unmap it. -/

/-- Key of the page. -/
def pageKey : Nat := keyIn ⟨0, 511, 0, 0⟩ 1 0
/-- A polder whose home map begins at key `mapKey`. -/
def PolderState.mapped (mapKey : Nat) : PolderState :=
  { PolderState.initial with
    part := some 0
    areas := [(0, [0#64, 0#64, BitVec.ofNat 64 (mapKey + 0x100000000)])]
    unfresh := [mapKey / 0x10000] }
/-- The machine after reset, where the first page of the second tier of polder 0 is mapped by the word at `mapKey`. -/
def State.mapped (mapKey : Nat) (e : Event) (f : PolderState → PolderState) (cs : List (Loc × Context)) : State :=
  { State.reset with
    cur := e
    ctxs := cs
    mem := [(mapKey + 7, 0x80#8)]
    polders := [(⟨0, 0, 0, 0⟩, f (.mapped mapKey))]
    devices := [(Loc.device 0, { DeviceState.initial with l2map := [(0, 0)] })] }

theorem mapped_inv {m : Nat} {e : Event} {f : PolderState → PolderState} {cs : List (Loc × Context)} (hcs : keysOk id cs) : (State.mapped m e f cs).Inv := by
  obtain ⟨hinv, -⟩ := resetHolds
  exact { hinv with mem := rfl
                    ctxs := hcs
                    polders := ⟨List.pairwise_singleton _ _, by simp [State.mapped, Loc.toPolder]⟩
                    devices := ⟨List.pairwise_singleton _ _, by simp [State.mapped, Loc.device, Loc.toDev]⟩ }

/-- A launch whose completion record is in that page, and a merge entry whose last report comes. -/
def mappedLaunch : LaunchRec := { (default : LaunchRec) with issuer := ⟨0, 0, 0, 0⟩, crec := 0x4000000000 }
def mappedMerge : MergeEntry := ⟨0, 1, 1, 0, 0, 0, none, some mappedLaunch, true⟩
def State.merging : State := .mapped (pageKey + 8) (.mergeReport ⟨0, 0, 0, 0⟩ ⟨0, 0, 0, 0⟩ 1 0 0) (fun q => { q with merges := [mappedMerge] }) []

theorem merging_inv : State.merging.Inv := mapped_inv (by simp [keysOk])
theorem merging_zero : ∃ t, exec .mergeReport State.merging = .next t ∧ t.word pageKey = 0 := ⟨_, rfl, by decide +kernel⟩

/-- Refutes O40: the second word of the completion record unmaps the page, and the gauge of the record stays. -/
theorem not_launchesRun : ¬ Obligations.LaunchesRun := by
  intro h
  obtain ⟨-, -, -, -, hmerge⟩ := h
  obtain ⟨t, ht, -, -, -, -, hroot⟩ := hmerge State.merging ⟨0, 0, 0, 0⟩ ⟨0, 0, 0, 0⟩ mappedMerge 1 0 0 rfl rfl
  have hlands : State.merging.landsAt ⟨0, 0, 0, 0⟩ 0x4000000000 pageKey :=
    ⟨⟨⟨0, 0, 0, 0⟩, 1, 0⟩, by simp [homePlace, Loc.toPolder], by decide +kernel, by decide +kernel, nofun⟩
  have hlands8 : State.merging.landsAt ⟨0, 0, 0, 0⟩ 0x4000000008 (pageKey + 8) :=
    ⟨⟨⟨0, 0, 0, 0⟩, 1, 8⟩, by simp [homePlace, Loc.toPolder], by decide +kernel, by decide +kernel, nofun⟩
  obtain ⟨hone, -⟩ := (hroot mappedLaunch pageKey merging_inv (by decide) rfl rfl rfl rfl (by decide) hlands hlands8 (by decide +kernel)).1 (by decide +kernel)
  obtain ⟨u, hu, hzero⟩ := merging_zero
  cases ht.symm.trans hu
  exact absurd (hzero.symm.trans hone) (by decide +kernel)

/-- A satisfaction that fills an empty future in that page with 0. -/
def mappedSat : Sat := ⟨{ (default : WatchReg) with issuer := ⟨0, 0, 0, 0⟩, kind := .fut, arg := 0x4000000000 }, default, some 0⟩
def State.satisfying : State := .mapped (pageKey + 8) (.watchSatisfactionArrival mappedSat) id [(⟨0, 0, 0, 0⟩, { Context.initial 0 with state := 2#3 })]

theorem satisfying_inv : State.satisfying.Inv := mapped_inv (by simp [keysOk])
theorem satisfying_zero : ∃ t, exec .watchSatisfactionArrival State.satisfying = .next t ∧ t.word pageKey = 0 := ⟨_, rfl, by decide +kernel⟩

/-- Refutes O42: the value unmaps the page, and the future stays empty. -/
theorem not_watchesRun : ¬ Obligations.WatchesRun := by
  intro h
  obtain ⟨-, -, -, -, hsatisfied, -⟩ := h
  obtain ⟨t, ht, -, hfut, -⟩ := hsatisfied State.satisfying mappedSat satisfying_inv (by decide) rfl
  have hlands : State.satisfying.landsAt ⟨0, 0, 0, 0⟩ 0x4000000000 pageKey :=
    ⟨⟨⟨0, 0, 0, 0⟩, 1, 0⟩, by simp [homePlace, Loc.toPolder], by decide +kernel, by decide +kernel, nofun⟩
  have hlands8 : State.satisfying.landsAt ⟨0, 0, 0, 0⟩ 0x4000000008 (pageKey + 8) :=
    ⟨⟨⟨0, 0, 0, 0⟩, 1, 8⟩, by simp [homePlace, Loc.toPolder], by decide +kernel, by decide +kernel, nofun⟩
  obtain ⟨-, hfull, -⟩ := hfut 0 pageKey ⟨rfl, by decide, by decide⟩ rfl rfl hlands hlands8 (by decide +kernel) (by decide +kernel) (by decide +kernel)
  obtain ⟨u, hu, hzero⟩ := satisfying_zero
  cases ht.symm.trans hu
  exact absurd (hzero.symm.trans hfull) (by decide +kernel)

/-- A thread arrives in a context whose workspace holds that home map; the reply word of the relocation is in the page. -/
def mappedJob : RelocJob := ⟨⟨0, 0, 0, 0⟩, ⟨0, 0, 0, 2⟩, 0x10001, 0x4000000000⟩
def mappedState : RelocState := { (default : RelocState) with pkt := { (default : MigPkt) with words := List.replicate 16 0#64 } }
/-- The first byte of that workspace. -/
def mappedSpace : Nat := coreKey ⟨257, 0, 0, 1⟩ 0x1FC80
def State.relocating : State := .mapped mappedSpace (.relocArrival mappedJob mappedState) id []

theorem relocating_inv : State.relocating.Inv := mapped_inv (by simp [keysOk])
theorem relocating_zero : ∃ t, exec .relocArrival State.relocating = .next t ∧ t.word pageKey = 0 := ⟨_, rfl, by decide +kernel⟩

/-- Refutes O46: the first word of the thread unmaps the page, and the reply word takes no reply. -/
theorem not_threadsMove : ¬ Obligations.ThreadsMove := by
  intro h
  obtain ⟨-, -, -, -, harrives, -⟩ := h
  have hlands : State.relocating.landsAt ⟨0, 0, 0, 0⟩ 0x4000000000 pageKey :=
    ⟨⟨⟨0, 0, 0, 0⟩, 1, 0⟩, by simp [homePlace, Loc.toPolder], by decide +kernel, by decide +kernel, nofun⟩
  obtain ⟨t, ht, -, -, hreply, -⟩ := harrives State.relocating mappedJob mappedState pageKey relocating_inv hlands (by decide +kernel) rfl
    (by decide +kernel) rfl rfl (by decide +kernel) rfl
  obtain ⟨u, hu, hzero⟩ := relocating_zero
  cases ht.symm.trans hu
  exact absurd (hzero.symm.trans hreply) (by decide +kernel)

/-! ## An answer for a communicator, at a location inside its polder -/

/-- The communicator with identity 0 of polder 0, and the answer of a member that is absent, which names core 1 of that polder. -/
def State.answering : State :=
  { State.reset with
    cur := .absentAnswer ⟨0, 0, 1, 0⟩ 0 0
    polders := [(⟨0, 0, 0, 0⟩, { PolderState.initial with comms := [default] })] }

theorem answering_plans : ∃ t, exec .absentAnswer State.answering = .next t ∧ (⟨0, .event (.chunkStart ⟨0, 0, 1, 0⟩)⟩ : Pending) ∈ t.agenda :=
  ⟨_, rfl, by decide +kernel⟩

/-- Refutes O50: the start of a chunk is planned for that location, not for the polder. -/
theorem not_collectivesRun : ¬ Obligations.CollectivesRun := by
  intro h
  obtain ⟨-, -, -, hnotices⟩ := h
  obtain ⟨-, habsent⟩ := hnotices State.answering ⟨0, 0, 1, 0⟩ default 0 0
  obtain ⟨-, hanswer, -⟩ := habsent rfl rfl
  obtain ⟨t, ht, -, hplans, -⟩ := hanswer rfl
  obtain ⟨u, hu, hmem⟩ := answering_plans
  cases ht.symm.trans hu
  exact absurd ((hplans _).1 hmem) (by decide +kernel)

/-! ## An initiator that is named by a location inside its polder -/

/-- An unwind of the communicator with identity 0, whose initiator is named by core 1 of polder 0; its two members are readmitted. -/
def oddAbort : Abort :=
  { cid := 0, part := 0, reason := 0, initiator := ⟨0, 0, 1, 0⟩, members := [(1, 0), (1, 0)], rank := 0, record := 0, chan := 0, mtid := 0, answers := [],
      dones := [],
    closed := false, agreed := none }
def State.unwinding : State :=
  { State.reset with
    cur := .stepPacket ⟨0, 0, 1, 0⟩ 0 0 0
    polders := [(⟨0, 0, 0, 0⟩, { PolderState.initial with aborts := [oddAbort] })]
    devices := [(Loc.device 0, { DeviceState.initial with readmitted := [⟨257, 0, 0, 0⟩] })] }

theorem unwinding_wet : State.unwinding.memberDry ⟨0, 0, 1, 0⟩ oddAbort 0 = false := by decide +kernel
theorem unwinding_skips : ∃ t, exec .stepPacket State.unwinding = .next t ∧ t.abortAt ⟨0, 0, 1, 0⟩ 0 = some oddAbort := ⟨_, rfl, by decide +kernel⟩

/-- Refutes O51: the engine of the polder does not take itself for that initiator, and the answer of a member is lost. -/
theorem not_communicatorsUnwind : ¬ Obligations.CommunicatorsUnwind := by
  intro h
  obtain ⟨-, hsteps, -⟩ := h
  obtain ⟨-, hstep⟩ := hsteps State.unwinding ⟨0, 0, 1, 0⟩ 0 oddAbort (by decide +kernel) rfl rfl rfl rfl nofun
  obtain ⟨t, ht, -, -, hwaits⟩ := hstep 0 0 rfl
  obtain ⟨-, -, hanswered⟩ := hwaits unwinding_wet (by decide)
  obtain ⟨u, hu, hsame⟩ := unwinding_skips
  cases ht.symm.trans hu
  exact absurd (hsame.symm.trans hanswered) (by decide)

/-! ## A PASID table in the control block of a slice core (R362) -/

/-- Byte 7 of the entry of PASID 0 lies at 0x107 of the slice handler memory of a device that is not there. -/
def revokedEntry : Nat := 2 ^ 55 + 5 * 2 ^ 43 + 0x100
def revokedKey : Nat := keyIn ⟨257, 0, 0, 0⟩ 5 0x107
def State.revoking : State :=
  { State.reset with
    cur := .pasidRevoke (Loc.device 0) 0
    polders := [(⟨0, 0, 0, 0⟩, { PolderState.initial with areas := [(0, [0#64, 0#64, 0#64, 0#64, w64 revokedEntry])] })]
    devices := [(Loc.device 0, { DeviceState.initial with power := true, broughtUp := 5, posWritten := true })] }

theorem revoking_inv : State.revoking.Inv := by
  obtain ⟨hinv, -⟩ := resetHolds
  exact { hinv with polders := ⟨List.pairwise_singleton _ _, by simp [State.revoking, Loc.toPolder]⟩
                    devices := ⟨List.pairwise_singleton _ _, by simp [State.revoking, Loc.device, Loc.toDev]⟩ }
theorem revoking_zero : ∃ t, exec .pasidRevoke State.revoking = .next t ∧ t.mem.get revokedKey = 0#8 := ⟨_, rfl, by decide +kernel⟩

/-- Refutes O55: the reserved part of the control block keeps its zeros, and the entry of the PASID is not marked. -/
theorem not_tenancyChanges : ¬ Obligations.TenancyChanges := by
  intro h
  obtain ⟨hrevoke, -⟩ := h State.revoking (Loc.device 0)
  obtain ⟨t, ht, -, hopen⟩ := hrevoke 0 revoking_inv rfl
  obtain ⟨-, -, -, -, -, -, -, -, hentry⟩ := hopen (by decide) rfl
  obtain ⟨hmark, -⟩ := hentry revokedEntry revokedKey (by decide +kernel) (by decide +kernel) (by decide +kernel)
  obtain ⟨u, hu, hzero⟩ := revoking_zero
  cases ht.symm.trans hu
  exact absurd (hzero.symm.trans hmark) (by decide)

/-! ## A context command -/

/-- A SUSPENDED context of a polder in use, and the command that releases it. -/
def State.releasing : State :=
  { State.reset with
    cur := .contextReleaseCmd ⟨0, 0, 0, 0⟩
    ctxs := [(⟨0, 0, 0, 0⟩, { Context.initial 0 with state := 3#3 })]
    polders := [(⟨0, 0, 0, 0⟩, { PolderState.initial with part := some 0 })]
    devices := [(Loc.device 0, { DeviceState.initial with power := true, broughtUp := 5, posWritten := true })] }

theorem releasing_allocates : ∃ t, exec .contextReleaseCmd State.releasing = .next t ∧ (⟨0, .event (.contextAllocation ⟨0, 0, 0, 0⟩)⟩ : Pending) ∈ t.agenda :=
  ⟨_, rfl, by decide +kernel⟩

/-- Refutes O54: besides its dispatch, an allocation of the core is planned. -/
theorem not_contextCommands : ¬ Obligations.ContextCommands := by
  intro h
  obtain ⟨hcommand, -⟩ := h State.releasing ⟨0, 0, 0, 0⟩
  obtain ⟨t, ht, -, -, hopen⟩ := hcommand .contextReleaseCmd _ 1 (List.mem_cons_self ..) rfl
  obtain ⟨-, hrelease, -⟩ := hopen 0 (by decide) rfl rfl rfl
  obtain ⟨-, -, -, -, -, hplans⟩ := hrelease rfl (.inl rfl)
  obtain ⟨u, hu, hmem⟩ := releasing_allocates
  cases ht.symm.trans hu
  exact absurd ((hplans _).1 hmem) (by decide +kernel)

end Sys2Proof.Machine
end

section
/-! SUPPORT. The commit of a block that leaves by a jump (spec/02 R38, R39, spec/04 R97, spec/16 R335), and what `WRITE`,
    `SWITCH` and `CWW` hold for it (spec/03 R66, R68, R73, spec/09 R229, R230). -/

namespace Sys2Proof.Machine

/-! ## What a commit may stir beside its acts (R42, R43, R67) -/

/-- The contexts of the core of `l` change in their blocks, every context in what it has not acquired, `l` in what it has not released or fenced; of its
core the exits noted and the special-function requests; and the agenda grows. -/
structure State.Stirs (s t : State) (l : Loc) : Prop where
  rest : t = { s with ctxs := t.ctxs, cores := t.cores, agenda := t.agenda }
  own : ∃ st r b, t.ctx l = { s.ctx l with stale := st, unreleased := r, block := b } ∧ ((s.ctx l).block = none → b = none)
  near : ∀ m, m ≠ l → ∃ u b, t.ctx m = { s.ctx m with unacquired := u, block := b }
  far : ∀ m, m ∉ coreMates l → ∃ u, t.ctx m = { s.ctx m with unacquired := u }
  core : ∃ es rs, t.core l = { s.core l with exits := es, sfu := rs }
  cores : s.coresKeptBut t l
  kept : ∀ q ∈ s.agenda, q ∈ t.agenda

theorem stirs_refl (s : State) (l : Loc) : s.Stirs s l :=
  ⟨rfl, ⟨_, _, _, rfl, id⟩, fun _ _ => ⟨_, _, rfl⟩, fun _ _ => ⟨_, rfl⟩, ⟨_, _, rfl⟩, fun _ _ => rfl, fun _ h => h⟩
theorem stirs_trans {s t u : State} {l : Loc} (h : s.Stirs t l) (k : t.Stirs u l) : s.Stirs u l := by
  refine ⟨?_, ?_, fun m hm => ?_, fun m hm => ?_, ?_, fun m hm => (k.cores m hm).trans (h.cores m hm), fun q hq => k.kept q (h.kept q hq)⟩
  · rw [k.rest, h.rest]
  · obtain ⟨st, r, b, e, hn⟩ := h.own
    obtain ⟨st', r', b', e', hn'⟩ := k.own
    exact ⟨st', r', b', by rw [e', e], fun hb => hn' (by rw [e]; exact hn hb)⟩
  · obtain ⟨x, b, e⟩ := h.near m hm
    obtain ⟨x', b', e'⟩ := k.near m hm
    exact ⟨x', b', by rw [e', e]⟩
  · obtain ⟨x, e⟩ := h.far m hm
    obtain ⟨x', e'⟩ := k.far m hm
    exact ⟨x', by rw [e', e]⟩
  · obtain ⟨es, rs, e⟩ := h.core
    obtain ⟨es', rs', e'⟩ := k.core
    exact ⟨es', rs', by rw [e', e]⟩

/-- The act, run in any state, stirs no more. -/
def Act.Stirring (a : Act) (l : Loc) : Prop := ∀ s : State, s.Stirs (a.run s) l

section stirring
variable {l : Loc}

theorem stirring_skip : Act.skip.Stirring l := fun s => stirs_refl s l
theorem stirring_seq {a b : Act} (ha : a.Stirring l) (hb : b.Stirring l) : (Act.seq a b).Stirring l := fun s => stirs_trans (ha s) (hb _)
theorem stirring_read {k : State → Act} (h : ∀ s, (k s).Stirring l) : (Act.read k).Stirring l := fun s => h s s
theorem stirring_all {as : List Act} (h : ∀ a ∈ as, a.Stirring l) : (Act.all as).Stirring l := by
  induction as with
  | nil => exact stirring_skip
  | cons a as ih => exact stirring_seq (h a (.head _)) (ih fun b hb => h b (.tail _ hb))
theorem stirring_each {α : Type} {xs : List α} {f : α → Act} (h : ∀ x ∈ xs, (f x).Stirring l) : (Act.each xs f).Stirring l :=
  stirring_all fun a ha => by obtain ⟨x, hx, rfl⟩ := List.mem_map.1 ha; exact h x hx
theorem stirring_when {c : Bool} {a : Act} (h : a.Stirring l) : (Act.when c a).Stirring l := by
  cases c
  · exact stirring_skip
  · exact h
theorem stirring_sched {d : Nat} {w : Work} : (Act.fx (.sched d w)).Stirring l := fun s =>
  { stirs_refl s l with rest := rfl, kept := fun _ hq => (mem_schedule _ _ _).2 (.inr hq) }
theorem stirring_event {d : Nat} {e : Event} : (Act.event d e).Stirring l := stirring_sched

/-- A change of the context itself. -/
theorem stirring_own {g : Context → Context}
    (hg : ∀ c, ∃ st r b, g c = { c with stale := st, unreleased := r, block := b } ∧ (c.block = none → b = none)) : (Act.ctx l g).Stirring l := fun s =>
  { stirs_refl s l with
    rest := rfl
    own := by rw [run_ctx, ctx_apply_ctx]; exact hg _
    near := fun m hm => ⟨_, _, ctx_apply_ctx_other _ _ _ _ hm⟩
    far := fun m hm => ⟨_, ctx_apply_ctx_other _ _ _ _ fun e => hm (e ▸ .head _)⟩
    cores := fun _ _ => rfl }
/-- A change of what another context has not acquired. -/
theorem stirring_unacquired {m : Loc} {g : Context → Context} (hm : m ≠ l) (hg : ∀ c, ∃ u, g c = { c with unacquired := u }) :
    (Act.ctx m g).Stirring l := fun s => by
  have h : ∀ n, ∃ u, ((Act.ctx m g).run s).ctx n = { s.ctx n with unacquired := u } := fun n => by
    by_cases e : n = m
    · subst e
      rw [run_ctx, ctx_apply_ctx]
      exact hg _
    · exact ⟨_, by rw [run_ctx, ctx_apply_ctx_other _ _ _ _ e]⟩
  exact { stirs_refl s l with
    rest := rfl
    own := ⟨_, _, _, ctx_apply_ctx_other _ _ _ _ (Ne.symm hm), id⟩
    near := fun n _ => let ⟨u, e⟩ := h n; ⟨u, _, e⟩
    far := fun n _ => h n
    cores := fun _ _ => rfl }
/-- A change of the block of a context of the core. -/
theorem stirring_block {m : Loc} {g : Option Block → Option Block} (hm : m ∈ coreMates l) (hg : g none = none) :
    (Act.ctx m fun c => { c with block := g c.block }).Stirring l := by
  by_cases h : m = l
  · subst h
    exact stirring_own fun c => ⟨_, _, _, rfl, fun e => by rw [e, hg]⟩
  · intro s
    exact { stirs_refl s l with
      rest := rfl
      own := ⟨_, _, _, ctx_apply_ctx_other _ _ _ _ (Ne.symm h), id⟩
      near := fun n _ => by
        by_cases e : n = m
        · exact ⟨_, _, by rw [e, run_ctx, ctx_apply_ctx]⟩
        · exact ⟨_, _, ctx_apply_ctx_other _ _ _ _ e⟩
      far := fun n hn => ⟨_, ctx_apply_ctx_other _ _ _ _ fun e => hn (e ▸ hm)⟩
      cores := fun _ _ => rfl }
theorem stirring_core {m : Loc} {g : CoreState → CoreState} (hm : m.toCore = l.toCore) (hg : ∀ k, ∃ es rs, g k = { k with exits := es, sfu := rs }) :
    (Act.core m g).Stirring l := fun s =>
  { stirs_refl s l with
    rest := rfl
    own := ⟨_, _, _, rfl, id⟩
    near := fun _ _ => ⟨_, _, rfl⟩
    far := fun _ _ => ⟨_, rfl⟩
    core := by rw [run_core, core_apply_core_of hm.symm]; exact hg _
    cores := fun n hn => core_apply_core_other _ _ _ _ fun e => hn (e.trans hm) }

theorem stirring_offer {m : Loc} {ep n : Nat} (hm : m ∈ coreMates l) : (Act.offer m ep n).Stirring l := by
  have hb : ∀ g : Block → Block, (Act.block m g).Stirring l := fun g => stirring_block hm rfl
  refine stirring_read fun s => ?_
  split
  · split
    · split
      · exact stirring_skip
      · split
        · exact stirring_seq (hb _) stirring_sched
        · exact hb _
    · exact stirring_skip
  · exact stirring_skip
/-- The waiting slots of a core are of its contexts and their predicted blocks. -/
theorem waitingSlots_mates {s : State} {x} (h : x ∈ s.waitingSlots l) : x.1 ∈ coreMates l := by
  obtain ⟨k, hk, h⟩ := List.mem_flatMap.1 (mem_sortBy.1 h)
  refine List.mem_cons_of_mem _ (List.mem_map.2 ⟨k, hk, ?_⟩)
  split at h
  · obtain ⟨_, _, rfl⟩ := List.mem_map.1 h
    rfl
  · cases h
theorem stirring_wakeCore : (Act.wakeCore l).Stirring l := stirring_read fun _ => stirring_each fun _ hx => stirring_offer (waitingSlots_mates hx)

theorem ahead_place {s : State} {x : Loc × Block} (h : x ∈ s.ahead l) : x.1 ∈ aheadPlaces l := by
  obtain ⟨m, hm, h⟩ := List.mem_filterMap.1 (mem_sortBy.1 h)
  cases hb : (s.ctx m).block with
  | none => simp [hb] at h
  | some b =>
    simp only [hb, Option.map_some, Option.some.injEq] at h
    rw [← h]
    exact hm
/-- The places of predicted blocks are others of the same core. -/
theorem aheadPlaces_mates {m : Loc} (hl : isAhead l = false) (h : m ∈ aheadPlaces l) : m ≠ l ∧ m.toCore = l.toCore ∧ m ∈ coreMates l := by
  have hl : l.ctx < 8 := by simpa [isAhead] using hl
  obtain ⟨k, hk, rfl⟩ := List.mem_map.1 h
  have hk : 8 ≤ k ∧ k ≤ 24 := by
    simp only [List.mem_cons, List.not_mem_nil, or_false] at hk
    omega
  refine ⟨fun e => ?_, rfl, List.mem_cons_of_mem _ (List.mem_map.2 ⟨_, List.mem_range.2 (by omega), rfl⟩)⟩
  have := congrArg Loc.ctx e
  simp only at this
  omega
theorem stirring_dropAhead (hl : isAhead l = false) : (Act.dropAhead l).Stirring l :=
  stirring_read fun s => stirring_each fun x hx =>
    have h := aheadPlaces_mates hl (ahead_place hx)
    stirring_seq (stirring_core h.2.1 fun _ => ⟨_, _, rfl⟩) (stirring_block (g := fun _ => none) h.2.2 rfl)
theorem stirring_stirMembers : (Act.stirMembers l).Stirring l := by
  refine stirring_read fun s => ?_
  split
  · exact stirring_each fun _ _ => stirring_event
  · exact stirring_skip
theorem stirring_releaseCode : (Act.releaseCode l).Stirring l := by
  refine stirring_read fun s => stirring_when (stirring_seq (stirring_each fun x hx => ?_) (stirring_own fun c => ⟨_, _, _, rfl, id⟩))
  have hx : x.1 ≠ l := by
    have := (List.mem_filter.1 hx).2
    simp only [Bool.and_eq_true, bne_iff_ne] at this
    exact this.1.1
  exact stirring_unacquired hx fun _ => ⟨_, rfl⟩
theorem stirring_learn {b : Block} : (Act.learn l b).Stirring l := by
  unfold Act.learn
  split
  · exact stirring_core rfl fun _ => ⟨_, _, rfl⟩
  · exact stirring_skip

/-- `WRITE`s of no word and not of `pol` change nothing. -/
theorem stirring_commitWrites {b : Block} (hw : ∀ w ∈ b.writes, 16 ≤ w.1 ∧ w.1 ≠ 19) : (Act.commitWrites l b).Stirring l := by
  refine stirring_each fun w hm => ?_
  have h := hw w hm
  split
  · exact stirring_skip
  · rw [if_neg (by omega), if_neg h.2]
    exact stirring_skip
/-- Without stores only the fences of the block are left. -/
theorem stirring_homeStores {b : Block} (hs : b.stores = []) : (Act.homeStores l b).Stirring l := by
  refine stirring_seq (stirring_when (stirring_own fun c => ⟨_, _, _, rfl, id⟩)) (stirring_each fun x hx => ?_)
  have hx : x.2 = none := by
    simp only [Block.storeSteps, mem_sortBy, Block.valued, hs, List.filter_nil, List.mem_append, List.mem_map] at hx
    rcases hx with ⟨st, hst, _⟩ | ⟨n, _, rfl⟩
    · cases hst
    · rfl
  rw [hx]
  exact stirring_releaseCode

end stirring


theorem Stirs_now {s t : State} {l : Loc} (h : s.Stirs t l) : t.now = s.now := by rw [h.rest]
theorem Stirs_mem {s t : State} {l : Loc} (h : s.Stirs t l) : t.mem = s.mem := by rw [h.rest]

/-- The control state of a context: all of it but what a commit stirs. -/
def Context.same (c d : Context) : Prop := ∃ st u r b, d = { c with stale := st, unacquired := u, unreleased := r, block := b }

theorem same_refl (c : Context) : c.same c := ⟨_, _, _, _, rfl⟩
theorem same_trans {c d e : Context} (h : c.same d) (k : d.same e) : c.same e := by
  obtain ⟨_, _, _, _, rfl⟩ := h
  obtain ⟨st, u, r, b, rfl⟩ := k
  exact ⟨st, u, r, b, rfl⟩
/-- What the stirred parts do not decide. -/
theorem same_apply {α : Type} {c d : Context} (h : c.same d) {f : Context → α}
    (hf : ∀ c st u r b, f { c with stale := st, unacquired := u, unreleased := r, block := b } = f c) : f d = f c := by
  obtain ⟨st, u, r, b, rfl⟩ := h
  exact hf c st u r b
theorem Stirs_same {s t : State} {l : Loc} (h : s.Stirs t l) (m : Loc) : (s.ctx m).same (t.ctx m) := by
  by_cases hm : m = l
  · obtain ⟨st, r, b, e, _⟩ := h.own
    rw [hm, e]
    exact ⟨st, (s.ctx l).unacquired, r, b, rfl⟩
  · obtain ⟨u, b, e⟩ := h.near m hm
    rw [e]
    exact ⟨(s.ctx m).stale, u, (s.ctx m).unreleased, b, rfl⟩

/-- What may be stirred decides nothing at a boundary. -/
theorem steady_same {s t : State} {l : Loc} (hs : s.steady l) (h : ∀ m, (s.ctx m).same (t.ctx m)) : t.steady l := by
  have hst := fun m => same_apply (h m) (f := Context.state) fun _ _ _ _ _ => rfl
  have hpr := fun m => same_apply (h m) (f := Context.prio) fun _ _ _ _ _ => rfl
  refine ⟨hs.own, (hst l).trans hs.runs, (same_apply (h l) (f := Context.stopReq) fun _ _ _ _ _ => rfl).trans hs.stop,
    (same_apply (h l) (f := Context.window) fun _ _ _ _ _ => rfl).trans hs.window,
    (same_apply (h l) (f := Context.trapWait) fun _ _ _ _ _ => rfl).trans hs.trap, fun k hk => ?_⟩
  rw [hpr, hpr]
  exact hs.best k (by rwa [hst] at hk)
theorem unowed_same {s t : State} {l : Loc} (hs : s.unowed l) (h : (s.ctx l).same (t.ctx l)) : t.unowed l :=
  ⟨(same_apply h (f := Context.late) fun _ _ _ _ _ => rfl).trans hs.1, (same_apply h (f := Context.surplus) fun _ _ _ _ _ => rfl).trans hs.2.1,
    (same_apply h (f := Context.faultQ) fun _ _ _ _ _ => rfl).trans hs.2.2⟩
theorem Stirs_steady {s t : State} {l : Loc} (h : s.Stirs t l) (hs : s.steady l) : t.steady l := steady_same hs (Stirs_same h)
theorem Stirs_unowed {s t : State} {l : Loc} (h : s.Stirs t l) (hs : s.unowed l) : t.unowed l := unowed_same hs (Stirs_same h l)

/-! ## The commit of a block that leaves by a jump (R38, R39, R97, R335) -/

/-- The state in which the flags have joined, the block is over and the next address stands (R39, R75, R97). -/
def State.left (s : State) (l : Loc) (b : Block) (n : Nat) : State :=
  (Act.seq (.ctx l fun c => { c with fm := w64 (Nat.lor c.fm.toNat b.flags), block := none }) (.ctx l fun c => { c with pc := w64 n })).run s

theorem left_ctx (s : State) (l : Loc) (b : Block) (n : Nat) :
    (s.left l b n).ctx l = { s.ctx l with fm := w64 (Nat.lor (s.ctx l).fm.toNat b.flags), block := none, pc := w64 n } := by
  simp [State.left]
theorem left_ctx_other {s : State} {l m : Loc} {b : Block} {n : Nat} (h : m ≠ l) : (s.left l b n).ctx m = s.ctx m := by
  simp [State.left, ctx_apply_ctx_other _ _ _ _ h]
theorem left_rest (s : State) (l : Loc) (b : Block) (n : Nat) : s.left l b n = { s with ctxs := (s.left l b n).ctxs } := rfl

theorem left_steady {s : State} {l : Loc} {b : Block} {n : Nat} (h : s.steady l) : (s.left l b n).steady l := by
  have hc : ∀ m, ((s.left l b n).ctx m).state = (s.ctx m).state ∧ ((s.left l b n).ctx m).prio = (s.ctx m).prio := fun m => by
    by_cases hm : m = l
    · rw [hm, left_ctx]
      exact ⟨rfl, rfl⟩
    · rw [left_ctx_other hm]
      exact ⟨rfl, rfl⟩
  refine ⟨h.own, ?_, ?_, ?_, ?_, fun k hk => ?_⟩
  · rw [left_ctx]; exact h.runs
  · rw [left_ctx]; exact h.stop
  · rw [left_ctx]; exact h.window
  · rw [left_ctx]; exact h.trap
  · rw [(hc _).2, (hc _).2]
    exact h.best k (by rwa [(hc _).1] at hk)
theorem left_unowed {s : State} {l : Loc} {b : Block} {n : Nat} (h : s.unowed l) : (s.left l b n).unowed l := by
  unfold State.unowed
  rw [left_ctx]
  exact h

/-- What is left of a commit behind its acts: the context leaves for its next block, which is to be fetched. -/
structure State.Departs (s t : State) (l : Loc) (b : Block) : Prop where
  stirs : ∃ u n, s.Stirs u l ∧ (u.left l b n).Stirs t l
  fetch : s.planned t 0 (.blockFetch l)

/-- The first effects of a commit: all that comes before its acts. -/
def Act.prepare (l : Loc) (b : Block) : Act :=
  .all [.stirMembers l, .when b.upsetsAhead (.dropAhead l), .learn l b, .commitWrites l b, .homeStores l b, .when b.releases (.releaseCode l)]

theorem stirring_prepare {l : Loc} {b : Block} (hl : isAhead l = false) (hw : ∀ w ∈ b.writes, 16 ≤ w.1 ∧ w.1 ≠ 19) (hs : b.stores = []) :
    (Act.prepare l b).Stirring l :=
  stirring_seq stirring_stirMembers <| stirring_seq (stirring_when (stirring_dropAhead hl)) <| stirring_seq stirring_learn <|
    stirring_seq (stirring_commitWrites hw) <| stirring_seq (stirring_homeStores hs) <| stirring_seq (stirring_when stirring_releaseCode) stirring_skip

/-- The acts of a block in slot order. -/
def Act.acts (l : Loc) (b : Block) : Act := .each b.actsInOrder fun a => .commitOp l b a.1 a.2

/-- What a commit does behind its acts. -/
def Act.departure (l : Loc) (b : Block) (n : Nat) : Act :=
  .all [.commitPops l b, .ctx l (fun c => { c with fm := w64 (Nat.lor c.fm.toNat b.flags), block := none }), .leave l (.goto n), .wakeCore l]

theorem run_commit {l : Loc} {b : Block} {n : Nat} (he : b.exit = some (.goto n)) (s : State) :
    (Act.commit l b).run s = (Act.departure l b n).run ((Act.acts l b).run ((Act.prepare l b).run s)) := by
  simp only [Act.commit, Act.prepare, Act.acts, Act.departure, he, Act.suspends, run_all_cons, run_all_nil, run_skip, Option.getD_some]

/-- A BLOCK THAT CAN COMMIT commits. -/
theorem exec_blockCommit {s : State} {l : Loc} {ep : Nat} {b : Block} (h : s.commits l ep b) (hm : b.migrates = false)
    (hc : s.cur = .blockCommit l ep) : exec .blockCommit s = .next ((Act.commit l b).run s) := by
  change execBlockCommit s = _
  rw [execBlockCommit, hc]
  have hl : s.migrLate l b = false := by rw [State.migrLate, hm]; rfl
  simp only [done, Act.tryCommit, run_read, h.flying.1, h.ready, h.flying.2, h.able, hl, h.free, h.legal]
  rfl

theorem stirring_commitPops {l : Loc} {b : Block} (hp : b.pops = []) : (Act.commitPops l b).Stirring l := by
  unfold Act.commitPops
  rw [hp]
  exact stirring_seq (stirring_own fun c => ⟨_, _, _, rfl, id⟩) stirring_skip

/-- Without held window writes there is nothing to apply (R64). -/
theorem stirs_applyWindow {s : State} {l : Loc} (hw : (s.ctx l).window = []) : s.Stirs ((Act.applyWindow l).run s) l := by
  have h : (Act.applyWindow l).run s = (Act.ctx l fun c => { c with window := [] }).run s := by
    simp [Act.applyWindow, hw]
  rw [h]
  exact { stirs_refl s l with
    rest := rfl
    own := ⟨_, _, _, by rw [run_ctx, ctx_apply_ctx, ← hw], id⟩
    near := fun m hm => ⟨_, _, ctx_apply_ctx_other _ _ _ _ hm⟩
    far := fun m hm => ⟨_, ctx_apply_ctx_other _ _ _ _ fun e => hm (e ▸ .head _)⟩
    cores := fun _ _ => rfl }

/-- At the boundary of a steady context that is owed nothing, or behind the entry of a trap, the next block is fetched (R335, R390). -/
theorem run_boundary {s : State} {l : Loc} {trapped : Bool} (hs : s.steady l) (hu : trapped = false → s.unowed l) :
    (Act.boundary l trapped).run s = (Act.seq (.applyWindow l) (.seq (.event 0 (.blockFetch l)) (.event 0 (.contextDispatch l.toCore)))).run s := by
  have h := stirs_applyWindow hs.window
  generalize ht : (Act.applyWindow l).run s = t at h
  have hs := Stirs_steady h hs
  have hlater : (Act.when (!trapped) (Act.lateOrRecord l)).run t = t := by
    cases trapped
    · obtain ⟨hlate, hsur, hq⟩ := Stirs_unowed h (hu rfl)
      simp [Act.lateOrRecord, hlate, hsur, hq]
    · rfl
  have hbest : ((List.range 8).any fun k => decide ((t.ctx { l with ctx := k }).state = 1#3)
      && decide ((t.ctx l).prio.toNat < (t.ctx { l with ctx := k }).prio.toNat)) = false := by
    refine List.any_eq_false.2 fun k _ => ?_
    simpa using hs.best k
  rw [Act.boundary, run_seq, run_seq, ht, run_read]
  simp only [hs.trap, hs.runs, hs.stop, run_seq, hlater, run_read, run_when, Act.nextBlock, hbest, Option.isSome_none, if_true, ne_eq,
    not_true_eq_false, if_false, Bool.false_eq_true, Option.isNone_none]

/-- A STEADY CONTEXT LEAVES for its next block. -/
theorem departs_of {s : State} {l : Loc} {b : Block} {n : Nat} (hs : s.steady l) (hu : s.unowed l) (hp : b.pops = []) :
    s.Departs ((Act.departure l b n).run s) l b := by
  have hpop : s.Stirs ((Act.commitPops l b).run s) l := stirring_commitPops hp s
  have hrun : (Act.departure l b n).run s =
      (Act.wakeCore l).run ((Act.boundary l false).run (((Act.commitPops l b).run s).left l b n)) := by
    simp only [Act.departure, Act.leave, State.left, run_all_cons, run_all_nil, run_read, run_seq]
  generalize (Act.commitPops l b).run s = u at hpop hrun
  have hs := left_steady (b := b) (n := n) (Stirs_steady hpop hs)
  have hw := stirs_applyWindow hs.window
  rw [run_boundary hs fun _ => left_unowed (Stirs_unowed hpop hu), run_seq] at hrun
  generalize (Act.applyWindow l).run (u.left l b n) = v at hw hrun
  have hn : v.now = s.now := by rw [Stirs_now hw, ← Stirs_now hpop]; rfl
  have hev := stirring_seq (l := l) (stirring_event (d := 0) (e := .blockFetch l)) (stirring_event (d := 0) (e := .contextDispatch l.toCore)) v
  have hwake : ∀ v : State, v.Stirs ((Act.wakeCore l).run v) l := stirring_wakeCore
  rw [hrun]
  refine ⟨⟨u, n, hpop, stirs_trans (stirs_trans hw hev) (hwake _)⟩, (hwake _).kept _ ?_⟩
  simp [mem_schedule, hn]

/-- THE COMMIT OF A BLOCK WHOSE ACTS ALONE HAVE WAITED: what comes before them stirs, and if they leave the context steady it departs behind them. -/
theorem commit_of {s : State} {l : Loc} {ep n : Nat} {b : Block} (h : s.commits l ep b) (he : b.exit = some (.goto n)) (hs : s.steady l)
    (hw : ∀ w ∈ b.writes, 16 ≤ w.1 ∧ w.1 ≠ 19) (hst : b.stores = []) (hp : b.pops = []) (hc : s.cur = .blockCommit l ep) :
    ∃ u, s.Stirs u l ∧ (((Act.acts l b).run u).steady l → ((Act.acts l b).run u).unowed l →
      ∃ t, exec .blockCommit s = .next t ∧ ((Act.acts l b).run u).Departs t l b) := by
  refine ⟨(Act.prepare l b).run s, stirring_prepare hs.own hw hst s, fun hv ho => ⟨_, ?_, departs_of (n := n) hv ho hp⟩⟩
  rw [exec_blockCommit h (by rw [Block.migrates, he]) hc, run_commit he]

/-- The same where one act alone has waited: it is enough that it leaves the context steady, and that the claim follows. -/
theorem actCommits_of {s : State} {l : Loc} {ep : Nat} {op : CommitOp} {Q : Block → State → Prop}
    (h : ∀ b slot u v, s.steady l → s.unowed l → s.Stirs u l → u.steady l → u.unowed l → v = (Act.commitOp l b slot op).run u →
      v.steady l ∧ v.unowed l ∧ ∀ t, v.Departs t l b → Q b t) : s.actCommits l ep op Q := by
  intro b hb hc
  obtain ⟨n, he⟩ := hb.jumps
  obtain ⟨slot, ha⟩ := hb.alone
  obtain ⟨u, hu, hrun⟩ := commit_of hb.able he hb.steady hb.writes hb.stores hb.pops hc
  have hacts : (Act.acts l b).run u = (Act.commitOp l b slot op).run u := by
    simp only [Act.acts, Block.actsInOrder, ha, sortBy, List.foldr_cons, List.foldr_nil, insertBy, run_each_cons, run_each_nil]
  obtain ⟨hs, ho, hQ⟩ := h b slot u _ hb.steady hb.owed hu (Stirs_steady hu hb.steady) (Stirs_unowed hu hb.owed) hacts
  obtain ⟨t, ht, hd⟩ := hrun hs ho
  exact ⟨t, ht, hQ t hd⟩

/-! ## What a departure leaves -/

section departs
variable {s t : State} {l : Loc} {b : Block}

theorem Stirs_within (h : s.Stirs t l) : s.CommitWithin t l :=
  ⟨h.far, h.cores, fun _ _ => by rw [h.rest]; rfl, fun _ => by rw [h.rest]; rfl⟩
theorem Stirs_touches (h : s.Stirs t l) : s.CommitTouches t l := ⟨Stirs_within h, h.core⟩
theorem within_trans {u : State} (h : s.CommitWithin t l) (k : t.CommitWithin u l) : s.CommitWithin u l :=
  ⟨fun m hm => by
      obtain ⟨x, e⟩ := h.ctxs m hm
      obtain ⟨y, e'⟩ := k.ctxs m hm
      exact ⟨y, by rw [e', e]⟩,
    fun m hm => (k.cores m hm).trans (h.cores m hm), fun m hm => (k.polders m hm).trans (h.polders m hm), fun m => (k.devices m).trans (h.devices m)⟩

theorem Departs_rest (h : s.Departs t l b) : t = { s with ctxs := t.ctxs, cores := t.cores, agenda := t.agenda } := by
  obtain ⟨u, n, h1, h2⟩ := h.stirs
  rw [h2.rest, left_rest, h1.rest]
theorem Departs_memKept (h : s.Departs t l b) : s.memKept t := by
  rw [Departs_rest h]
  exact memKept_refl s
theorem Departs_kept (h : s.Departs t l b) : ∀ q ∈ s.agenda, q ∈ t.agenda := by
  obtain ⟨u, n, h1, h2⟩ := h.stirs
  exact fun q hq => h2.kept q (h1.kept q hq)
/-- The context of a departure: its control state stays, the flags have joined. -/
theorem Departs_own (h : s.Departs t l b) : ∃ n st r, t.ctx l = { s.ctx l with
    block := none, pc := w64 n, fm := w64 (Nat.lor (s.ctx l).fm.toNat b.flags), stale := st, unreleased := r } := by
  obtain ⟨u, n, h1, h2⟩ := h.stirs
  obtain ⟨st, r, b1, e1, _⟩ := h1.own
  obtain ⟨st', r', b2, e2, hb⟩ := h2.own
  rw [left_ctx, e1] at e2 hb
  exact ⟨n, st', r', by rw [e2, hb rfl]⟩
theorem Departs_near (h : s.Departs t l b) {m : Loc} (hm : m ≠ l) : ∃ u b', t.ctx m = { s.ctx m with unacquired := u, block := b' } := by
  obtain ⟨u, n, h1, h2⟩ := h.stirs
  obtain ⟨x, b1, e1⟩ := h1.near m hm
  obtain ⟨y, b2, e2⟩ := h2.near m hm
  rw [left_ctx_other hm, e1] at e2
  exact ⟨y, b2, e2⟩
theorem Departs_touches (h : s.Departs t l b) : s.CommitTouches t l := by
  obtain ⟨u, n, h1, h2⟩ := h.stirs
  have hl : u.CommitWithin (u.left l b n) l :=
    ⟨fun m hm => ⟨_, left_ctx_other fun e => hm (e ▸ .head _)⟩, fun _ _ => rfl, fun _ _ => rfl, fun _ => rfl⟩
  obtain ⟨es, rs, e1⟩ := h1.core
  obtain ⟨es', rs', e2⟩ := h2.core
  exact ⟨within_trans (Stirs_within h1) (within_trans hl (Stirs_within h2)), es', rs', by
    rw [e2, show (u.left l b n).core l = u.core l from rfl, e1]⟩

/-- WHAT A COMMIT LEAVES of its context, from the control state behind the acts. -/
theorem leavesAs_of {v : State} {c : Context} (hd : v.Departs t l b) (hn : v.now = s.now) (hc : c.same (v.ctx l)) : s.leavesAs t l b c := by
  obtain ⟨n, st, r, e⟩ := Departs_own hd
  obtain ⟨st', u, r', b', e'⟩ := hc
  refine ⟨?_, n, st, u, r, by rw [e, e']⟩
  have := hd.fetch
  unfold State.planned at this ⊢
  rwa [hn] at this

end departs

/-! ## What fires and is held: WRITE, SWITCH, ERET, CWW (R66, R79, R229, R230, R232) -/

section held
variable {p : Pred} {i : Instr} {os : List Opnd}

/-- An instruction that holds its act where a check allows it. -/
theorem holds_where {pre : State → Block → List W64 → Prop} {op : State → List W64 → CommitOp} {n : Act} {k : List W64 → Act}
    (he : ∀ s, exec i s = slotStep (.firing p os n k) s)
    (hk : ∀ s b vs, s.firingBlock b → pre s b vs → (k vs).run s = (Act.atCommit (op s vs)).run s) :
    Completes i p os pre (fun s b vs => b.withAct s (op s vs)) fun _ _ _ => [] :=
  completes_block (fun s _ vs b => { b with acts := b.acts ++ [(s.focus.slot, op s vs)] }) he (fun _ _ _ => ⟨⟨rfl, rfl, rfl⟩, fun f w => ⟨f, w, rfl⟩⟩)
    fun s b vs hb _ hp => hk s b vs hb hp

/-- The acts that a `WRITE` of a value has wait. -/
theorem writeActs_some {slot : Nat} {r : BitVec 5} {v : W64} : writeActs slot r.toNat (some v) =
    if 24 ≤ r.toNat ∧ r.toNat ≤ 27 then [(slot, .port (r.toNat - 24) v)]
    else if r = 20#5 ∨ r = 22#5 ∨ r = 23#5 then [(slot, .push (r.toNat - 20) v.toNat)] else [] := by
  have hr : (r = 20#5 ∨ r = 22#5 ∨ r = 23#5) ↔ (r.toNat = 20 ∨ r.toNat = 22 ∨ r.toNat = 23) := by
    simp [← BitVec.toNat_inj]
  by_cases hp : 24 ≤ r.toNat ∧ r.toNat ≤ 27
  · simp [writeActs, portOf, hp]
  · simp [writeActs, portOf, hp, hr, or_assoc]

/-- A `CWW` whose value is admitted. -/
theorem run_cww {s : State} {b : Block} {n v : Nat} {w : W64} (hb : s.firingBlock b) (hc : s.controlCause s.focus.l n v = 0) (hw : w64 (cwMask n v) = w) :
    (Act.inBlock fun s _ => let c := s.controlCause s.focus.l n v; if c ≠ 0 then .fault c 0 0 else .markControl n (some (w64 (cwMask n v)))).run s =
      (if b.acts.any fun a => isCww n a.2 then Act.fault 2 10 0 else .atCommit (.cww n (some w))).run s := by
  rw [run_inBlock hb]
  simp only [hc, ne_eq, not_true_eq_false, if_false, hw]
  rw [Act.markControl, run_inBlock hb]

theorem holdsControl_of {n : BitVec 14} {pre : State → W64 → Prop} {f : W64 → W64}
    (h : ∀ s v, pre s v → s.controlCause s.focus.l n.toNat v.toNat = 0 ∧ w64 (cwMask n.toNat v.toNat) = f v) : HoldsControl p n pre f := by
  refine ⟨holds_where (fun _ => rfl) fun s b vs hb hp => ?_, faults_of (by decide) (fun _ => rfl) fun s b vs hb _ hp => ?_⟩ <;>
    obtain ⟨hc, hw⟩ := h s (arg vs 0) hp.2
  · rw [run_cww hb hc hw, hp.1, if_neg Bool.false_ne_true]
  · rw [run_cww hb hc hw, hp.1, if_pos rfl]
/-- A `CWW` that is refused. -/
theorem faults_cww {n : BitVec 14} {pre : State → Block → List W64 → Prop} {c : Nat} (hc : c ≠ 0x11) (h0 : c ≠ 0)
    (h : ∀ s b vs, pre s b vs → s.controlCause s.focus.l n.toNat (arg vs 0).toNat = c) : Faults (.cww p n) p [.l] pre c 0 fun _ => 0 := by
  refine faults_of hc (fun _ => rfl) fun s b vs hb _ hp => ?_
  rw [run_inBlock hb]
  simp only [h s b vs hp, ne_eq, h0, not_false_iff, if_true]

/-- The numbers of the dike windows. -/
theorem dike_number {k : Nat} (hk : k < 8) : (BitVec.ofNat 14 (0x40 + k)).toNat = 0x40 + k := by
  rw [BitVec.toNat_ofNat]
  omega

theorem controlCause_sup {s : State} {l : Loc} {n v : Nat} (hn : n = 0x20 ∨ n = 0x21 ∨ (0x40 ≤ n ∧ n ≤ 0x47)) :
    s.controlCause l n v = if (s.ctx l).sup = true then 0 else 0x0C := by
  have hk : cwKnown n = true := by
    simp only [cwKnown, Bool.or_eq_true, decide_eq_true_eq, beq_iff_eq, Bool.and_eq_true]
    omega
  have hp : cwPrivileged n = true := by
    simp only [cwPrivileged, Bool.or_eq_true, decide_eq_true_eq, beq_iff_eq]
    omega
  have hm : n ≠ 0 ∧ n ≠ 2 ∧ n ≠ 0x32 := by omega
  cases hs : (s.ctx l).sup <;> simp [State.controlCause, hk, hp, hs, hm]

theorem controlCause_fm (s : State) (l : Loc) (v : Nat) : s.controlCause l 0 v = if 5 ≤ v / 256 % 8 then 1 else 0 := by
  simp only [State.controlCause, cwKnown, cwPrivileged, cwUserWrites, bits, Nat.zero_le, decide_true, Bool.true_or, Bool.not_true, Bool.and_false,
    Bool.false_eq_true, if_false]
  rfl
theorem controlCause_steal (s : State) (l : Loc) (v : Nat) : s.controlCause l 2 v =
    if v % 4 = 3 then 1 else if (s.ctx l).sup = false ∧ (s.ctx l).stealMax.toNat < v % 4 then 0x0C else 0 := by
  simp [State.controlCause, cwKnown, cwPrivileged, cwUserWrites]
/-- The words that any value may be written to, by a user without effect. -/
theorem controlCause_free {n : Nat} (hn : n = 1 ∨ n = 3 ∨ n = 0x30 ∨ n = 0x31) (s : State) (l : Loc) (v : Nat) : s.controlCause l n v = 0 := by
  rcases hn with rfl | rfl | rfl | rfl <;> cases hs : (s.ctx l).sup <;> simp [State.controlCause, cwKnown, cwPrivileged, cwUserWrites, hs]

/-- The firing of a `CWW`, word by word. -/
theorem controlWordWrites_fire (p : Pred) :
  let sup (s : State) (_ : W64) : Prop := (s.ctx s.focus.l).sup = true
  HoldsControl p 0#14 (fun _ v => v.toNat / 256 % 8 < 5) (fun v => BitVec.ofNat 64 (v.toNat / 256 % 8 * 256 + v.toNat % 32)) ∧
  Faults (.cww p 0#14) p [.l] (fun _ _ vs => 5 ≤ (arg vs 0).toNat / 256 % 8) 1 0 (fun _ => 0) ∧
  HoldsControl p 1#14 (fun _ _ => True) id ∧
  HoldsControl p 2#14 (fun s v => v.toNat % 4 < 3 ∧ ((s.ctx s.focus.l).sup = true ∨ v.toNat % 4 ≤ (s.ctx s.focus.l).stealMax.toNat))
    (fun v => BitVec.ofNat 64 (v.toNat % 4)) ∧
  Faults (.cww p 2#14) p [.l] (fun _ _ vs => (arg vs 0).toNat % 4 = 3) 1 0 (fun _ => 0) ∧
  Faults (.cww p 2#14) p [.l] (fun s _ vs => (s.ctx s.focus.l).sup = false ∧ (arg vs 0).toNat % 4 < 3
    ∧ (s.ctx s.focus.l).stealMax.toNat < (arg vs 0).toNat % 4) 0x0C 0 (fun _ => 0) ∧
  HoldsControl p 3#14 (fun _ _ => True) (fun v => BitVec.ofNat 64 (v.toNat % 4)) ∧
  HoldsControl p 0x20#14 sup id ∧ HoldsControl p 0x21#14 sup id ∧
  HoldsControl p 0x30#14 (fun _ _ => True) (fun v => BitVec.ofNat 64 (v.toNat % 2 ^ 20)) ∧
  HoldsControl p 0x31#14 (fun _ _ => True) (fun v => BitVec.ofNat 64 (v.toNat % 2 ^ 24)) ∧
  ∀ k, k < 8 → HoldsControl p (BitVec.ofNat 14 (0x40 + k)) sup fun v => BitVec.ofNat 64 (v.toNat / 4 * 4) := by
  intro sup
  refine ⟨?fm, ?fmFault, ?step, ?steal, ?stealFault, ?stealBarred, ?prio, ?vec, ?frame, ?pasid, ?home, fun k hk => ?dike⟩
  case fm =>
    refine holdsControl_of fun s v h => ⟨(controlCause_fm _ _ _).trans (if_neg (by omega)), ?_⟩
    simp [cwMask, field, bits, w64]
  case fmFault => exact faults_cww (by decide) (by decide) fun s b vs h => (controlCause_fm _ _ _).trans (if_pos h)
  case step => exact holdsControl_of fun s v h => ⟨controlCause_free (.inl rfl) _ _ _, w64_toNat v⟩
  case steal =>
    refine holdsControl_of fun s v h => ⟨(controlCause_steal _ _ _).trans ?_, rfl⟩
    rw [if_neg (by omega), if_neg (fun hc => ?_)]
    rcases h.2 with h2 | h2
    · rw [h2] at hc
      exact absurd hc.1 (by decide)
    · exact absurd hc.2 (Nat.not_lt.2 h2)
  case stealFault => exact faults_cww (by decide) (by decide) fun s b vs h => (controlCause_steal _ _ _).trans (if_pos h)
  case stealBarred =>
    refine faults_cww (by decide) (by decide) fun s b vs h => (controlCause_steal _ _ _).trans ?_
    rw [if_neg (by omega), if_pos ⟨h.1, h.2.2⟩]
  case prio => exact holdsControl_of fun s v h => ⟨controlCause_free (.inr (.inl rfl)) _ _ _, rfl⟩
  case vec => exact holdsControl_of fun s v h => ⟨(controlCause_sup (.inl rfl)).trans (if_pos h), w64_toNat v⟩
  case frame => exact holdsControl_of fun s v h => ⟨(controlCause_sup (.inr (.inl rfl))).trans (if_pos h), w64_toNat v⟩
  case pasid => exact holdsControl_of fun s v h => ⟨controlCause_free (.inr (.inr (.inl rfl))) _ _ _, rfl⟩
  case home => exact holdsControl_of fun s v h => ⟨controlCause_free (.inr (.inr (.inr rfl))) _ _ _, rfl⟩
  case dike =>
    refine holdsControl_of fun s v h => ?_
    rw [dike_number hk, controlCause_sup (by omega), if_pos h]
    exact ⟨rfl, by simp [cwMask, w64]⟩

end held

/-! ## The commits of control words, workspace pointers and ports (R68, R73, R230) -/

section commits
variable {s t u v : State} {l : Loc} {b : Block}

theorem Stirs_memKept (h : s.Stirs t l) : s.memKept t := by
  rw [h.rest]
  exact memKept_refl s

/-- A change of the context itself that leaves it as steady as it was. -/
theorem steady_own {g : Context → Context} (h : u.steady l)
    (hg : ∀ c, (g c).state = c.state ∧ (g c).stopReq = c.stopReq ∧ (g c).window = c.window ∧ (g c).trapWait = c.trapWait)
    (hp : ∀ k, { l with ctx := k } ≠ l → (u.ctx { l with ctx := k }).state = 1#3 → (u.ctx { l with ctx := k }).prio.toNat ≤ (g (u.ctx l)).prio.toNat) :
    ((Act.ctx l g).run u).steady l := by
  obtain ⟨hstate, hstop, hwin, htrap⟩ := hg (u.ctx l)
  refine ⟨h.own, ?_, ?_, ?_, ?_, fun k hk => ?_⟩ <;> simp only [run_ctx, ctx_apply_ctx]
  · exact hstate.trans h.runs
  · exact hstop.trans h.stop
  · exact hwin.trans h.window
  · exact htrap.trans h.trap
  · rw [run_ctx] at hk
    by_cases e : { l with ctx := k } = l
    · rw [e, ctx_apply_ctx, hstate, h.runs] at hk
      exact absurd hk (by decide)
    · rw [ctx_apply_ctx_other _ _ _ _ e] at hk ⊢
      exact hp k e hk
theorem unowed_own {g : Context → Context} (h : u.unowed l)
    (hg : ∀ c, (g c).late = c.late ∧ (g c).surplus = c.surplus ∧ (g c).faultQ = c.faultQ) : ((Act.ctx l g).run u).unowed l := by
  obtain ⟨h1, h2, h3⟩ := hg (u.ctx l)
  unfold State.unowed
  rw [run_ctx, ctx_apply_ctx, h1, h2, h3]
  exact h
theorem within_own {g : Context → Context} : u.CommitWithin ((Act.ctx l g).run u) l :=
  ⟨fun m hm => ⟨_, ctx_apply_ctx_other _ _ _ _ fun e => hm (e ▸ .head _)⟩, fun _ _ => rfl, fun _ _ => rfl, fun _ => rfl⟩

theorem Departs_within (h : s.Departs t l b) : s.CommitWithin t l := (Departs_touches h).toCommitWithin

theorem same_of_eq {c d : Context} (h : d = c) : c.same d := h ▸ same_refl c

/-- What an act that keeps memory leaves of it. -/
theorem memKept_commit (hu : s.Stirs u l) (hv : u.memKept v) (hd : v.Departs t l b) : s.memKept t :=
  memKept_trans (Stirs_memKept hu) (memKept_trans hv (Departs_memKept hd))

/-- `SWITCH` at commit. -/
theorem switch_commits (s : State) (l : Loc) (ep wp : Nat) : s.actCommits l ep (.switch wp) fun b t =>
    s.memKept t ∧ s.CommitWithin t l ∧ s.leavesAs t l b { s.ctx l with wp := BitVec.ofNat 17 wp } := by
  refine actCommits_of fun b slot u v _ _ hu hs ho hv => ?_
  have hv : v = (Act.ctx l fun x => { x with wp := BitVec.ofNat 17 wp }).run u := hv
  subst hv
  refine ⟨steady_own hs (fun _ => ⟨rfl, rfl, rfl, rfl⟩) fun k _ => hs.best k, unowed_own ho fun _ => ⟨rfl, rfl, rfl⟩, fun t hd => ⟨?_, ?_, ?_⟩⟩
  · exact memKept_commit hu (by exact memKept_refl u) hd
  · exact within_trans (Stirs_within hu) (within_trans within_own (Departs_within hd))
  · refine leavesAs_of hd (show u.now = s.now from Stirs_now hu) ?_
    obtain ⟨st, x, r, b', e⟩ := Stirs_same hu l
    exact ⟨st, x, r, b', by rw [run_ctx, ctx_apply_ctx, e]⟩


/-- No act lets time pass. -/
theorem run_now (a : Act) (s : State) : (a.run s).now = s.now :=
  run_keeps (fun t => t.now = s.now) (fun e t h => (by cases e <;> rfl : (e.apply t).now = t.now).trans h) a s rfl

theorem Stirs_polder (h : s.Stirs t l) (m : Loc) : t.polder m = s.polder m := by rw [h.rest]; rfl
theorem Stirs_device (h : s.Stirs t l) (m : Loc) : t.device m = s.device m := by rw [h.rest]; rfl
theorem Departs_polder (h : s.Departs t l b) (m : Loc) : t.polder m = s.polder m := by rw [Departs_rest h]; rfl
theorem Departs_device (h : s.Departs t l b) (m : Loc) : t.device m = s.device m := by rw [Departs_rest h]; rfl

/-- What a step that keeps the contexts and changes the core and the polder of `l` alone leaves. -/
theorem within_keeps (h : u.Keeps v [] [l.toCore] [l.toPolder] []) : u.CommitWithin v l :=
  ⟨fun m _ => ⟨_, h.2.ctxs m List.not_mem_nil⟩, fun m hm => h.2.cores m fun e => hm (List.mem_singleton.1 e),
    fun m hm => h.2.polders m fun e => hm (List.mem_singleton.1 e), fun m => h.2.devices m List.not_mem_nil⟩

/-! ### Control words -/

/-- A property of each single write is one of the write of a control word. -/
theorem withWord_ind {P : (Context → Context) → Prop} {n : Nat} {w : W64} (hfm : P fun c => { c with fm := w }) (hstep : P fun c => { c with step := w })
    (hsteal : P fun c => { c with steal := w.setWidth 2 }) (hprio : n = 3 → P fun c => { c with prio := w }) (hvec : P fun c => { c with trapvec := w })
    (hframe : P fun c => { c with trapframe := w }) (hpasid : P fun c => { c with pasid := w.setWidth 20 }) (hhome : P fun c => { c with home := w })
    (hspill : P fun c => { c with spill := w }) (htree : P fun c => { c with tree := w }) (hid : P fun c => c) : P fun c => c.withWord n w := by
  by_cases h0 : n = 0
  · subst h0; exact hfm
  by_cases h1 : n = 1
  · subst h1; exact hstep
  by_cases h2 : n = 2
  · subst h2; exact hsteal
  by_cases h3 : n = 3
  · subst h3; exact hprio rfl
  by_cases h4 : n = 0x20
  · subst h4; exact hvec
  by_cases h5 : n = 0x21
  · subst h5; exact hframe
  by_cases h6 : n = 0x30
  · subst h6; exact hpasid
  by_cases h7 : n = 0x31
  · subst h7; exact hhome
  by_cases h8 : n = 0x32
  · subst h8; exact hspill
  by_cases h9 : n = 0x33
  · subst h9; exact htree
  have h : (fun c : Context => c.withWord n w) = fun c => c := funext fun c => by
    rw [Context.withWord, if_neg h0, if_neg h1, if_neg h2, if_neg h3, if_neg h4, if_neg h5, if_neg h6, if_neg h7, if_neg h8, if_neg h9]
  rw [h]
  exact hid

/-- What a boundary looks at is no control word, and a context that a commit stirs takes a word as it would have. -/
theorem withWord_keeps (n : Nat) (w : W64) (c : Context) :
    (c.withWord n w).state = c.state ∧ (c.withWord n w).stopReq = c.stopReq ∧ (c.withWord n w).window = c.window ∧ (c.withWord n w).trapWait = c.trapWait :=
  withWord_ind (P := fun g => ∀ c, (g c).state = c.state ∧ (g c).stopReq = c.stopReq ∧ (g c).window = c.window ∧ (g c).trapWait = c.trapWait)
    (fun _ => ⟨rfl, rfl, rfl, rfl⟩) (fun _ => ⟨rfl, rfl, rfl, rfl⟩) (fun _ => ⟨rfl, rfl, rfl, rfl⟩)
    (fun _ _ => ⟨rfl, rfl, rfl, rfl⟩) (fun _ => ⟨rfl, rfl, rfl, rfl⟩) (fun _ => ⟨rfl, rfl, rfl, rfl⟩)
    (fun _ => ⟨rfl, rfl, rfl, rfl⟩) (fun _ => ⟨rfl, rfl, rfl, rfl⟩) (fun _ => ⟨rfl, rfl, rfl, rfl⟩)
    (fun _ => ⟨rfl, rfl, rfl, rfl⟩) (fun _ => ⟨rfl, rfl, rfl, rfl⟩) c
theorem withWord_owes (n : Nat) (w : W64) (c : Context) :
    (c.withWord n w).late = c.late ∧ (c.withWord n w).surplus = c.surplus ∧ (c.withWord n w).faultQ = c.faultQ :=
  withWord_ind (P := fun g => ∀ c, (g c).late = c.late ∧ (g c).surplus = c.surplus ∧ (g c).faultQ = c.faultQ)
    (fun _ => ⟨rfl, rfl, rfl⟩) (fun _ => ⟨rfl, rfl, rfl⟩) (fun _ => ⟨rfl, rfl, rfl⟩) (fun _ _ => ⟨rfl, rfl, rfl⟩) (fun _ => ⟨rfl, rfl, rfl⟩)
    (fun _ => ⟨rfl, rfl, rfl⟩) (fun _ => ⟨rfl, rfl, rfl⟩) (fun _ => ⟨rfl, rfl, rfl⟩) (fun _ => ⟨rfl, rfl, rfl⟩) (fun _ => ⟨rfl, rfl, rfl⟩)
    (fun _ => ⟨rfl, rfl, rfl⟩) c
theorem withWord_prio {n : Nat} (h : n ≠ 3) (w : W64) (c : Context) : (c.withWord n w).prio = c.prio :=
  withWord_ind (P := fun g => ∀ c, (g c).prio = c.prio) (fun _ => rfl) (fun _ => rfl) (fun _ => rfl) (fun e => absurd e h) (fun _ => rfl) (fun _ => rfl)
    (fun _ => rfl) (fun _ => rfl) (fun _ => rfl) (fun _ => rfl) (fun _ => rfl) c
theorem withWord_same {c d : Context} (h : c.same d) (n : Nat) (w : W64) : (c.withWord n w).same (d.withWord n w) := by
  obtain ⟨st, x, r, b', rfl⟩ := h
  refine withWord_ind (P := fun g => ∀ c, (g c).same (g { c with stale := st, unacquired := x, unreleased := r, block := b' })) ?_ ?_ ?_ ?_ ?_ ?_ ?_ ?_ ?_ ?_ ?_ c
  case refine_4 => exact fun _ _ => ⟨st, x, r, b', rfl⟩
  all_goals exact fun _ => ⟨st, x, r, b', rfl⟩
theorem withWord_dike {n : Nat} (h : 0x40 ≤ n) (c : Context) (w : W64) : c.withWord n w = c := by
  rw [Context.withWord, if_neg, if_neg, if_neg, if_neg, if_neg, if_neg, if_neg, if_neg, if_neg, if_neg] <;> omega

/-- A control word at commit: nothing for a user where it is read-only, a window of the polder's dike, or a word of the context. -/
theorem run_controlWrite (n : Nat) (w : W64) (u : State) : (Act.controlWrite l n w).run u =
    if (u.ctx l).sup = true ∨ n < 4 then
      (if 0x40 ≤ n then (Act.polder l fun p => { p with dikes := p.dikes.set (n - 0x40) w }).run u
      else (Act.ctx l fun c => c.withWord n w).run ((Act.when (n == 0x32) (.kickRefill l)).run u))
    else u := by
  have hu : (!(u.ctx l).sup && !cwUserWrites n) = !decide ((u.ctx l).sup = true ∨ n < 4) := by
    cases (u.ctx l).sup <;> simp [cwUserWrites]
    omega
  rw [Act.controlWrite, run_read]
  simp only [hu]
  by_cases h : (u.ctx l).sup = true ∨ n < 4
  · simp only [h, decide_true, Bool.not_true, Bool.false_eq_true, if_false, if_true]
    split
    · rfl
    · rw [run_seq]
      congr 2
      funext c
      unfold Context.withWord
      split <;> simp_all
  · simp only [h, decide_false, Bool.not_false, if_true, if_false, run_skip]


theorem only_kickRefill (c : Loc) {ps : List Loc} : (Act.kickRefill c).Only [] [c.toCore] ps [] :=
  only_read fun _ => only_when fun _ => only_seq (only_core (.head _)) only_event

/-- `CWW` at commit. -/
theorem cww_commits (s : State) (l : Loc) (ep n : Nat) (w : W64)
    (hp : n = 3 → ∀ k, (s.ctx { l with ctx := k }).state = 1#3 → (s.ctx { l with ctx := k }).prio.toNat ≤ w.toNat) :
    s.actCommits l ep (.cww n (some w)) fun b t => s.memKept t ∧ s.CommitWithin t l ∧
      s.leavesAs t l b (if (s.ctx l).sup = true ∨ n < 4 then (s.ctx l).withWord n w else s.ctx l) ∧
      (t.polder l).dikes = if (s.ctx l).sup = true ∧ 0x40 ≤ n then (s.polder l).dikes.set (n - 0x40) w else (s.polder l).dikes := by
  refine actCommits_of fun b slot u v _ _ hu hs ho hv => ?_
  have hv : v = (Act.controlWrite l n w).run u := hv
  have hsup : (u.ctx l).sup = (s.ctx l).sup := same_apply (Stirs_same hu l) (f := Context.sup) fun _ _ _ _ _ => rfl
  have hn : v.now = s.now := by rw [hv, run_now, Stirs_now hu]
  have hsame := Stirs_same hu l
  have hpol : (u.polder l).dikes = (s.polder l).dikes := by rw [Stirs_polder hu]
  rw [run_controlWrite, hsup] at hv
  have hset : ((s.ctx l).sup = true ∧ 0x40 ≤ n) ↔ ((s.ctx l).sup = true ∨ n < 4) ∧ 0x40 ≤ n := by
    constructor <;> rintro ⟨h1, h2⟩
    · exact ⟨.inl h1, h2⟩
    · exact ⟨h1.resolve_right (by omega), h2⟩
  simp only [hset]
  by_cases hw : (s.ctx l).sup = true ∨ n < 4
  · simp only [hw, if_true, true_and] at hv ⊢
    by_cases hd : 0x40 ≤ n
    · rw [if_pos hd] at hv
      subst hv
      refine ⟨steady_same hs fun _ => same_refl _, unowed_same ho (same_refl _), fun t ht =>
        ⟨memKept_commit hu (by exact memKept_refl u) ht, within_trans (Stirs_within hu) (within_trans (within_keeps ?_) (Departs_within ht)), ?_, ?_⟩⟩
      · exact only_polder (.head _) u
      · rw [withWord_dike hd]
        exact leavesAs_of ht hn hsame
      · rw [if_pos hd, Departs_polder ht, run_polder, polder_apply_polder, hpol]
    · rw [if_neg hd] at hv
      have hk := only_when (c := n == 0x32) (fun _ => only_kickRefill l (ps := [l.toPolder])) u
      have hd2 := (only_when (c := n == 0x32) (fun _ => only_kickRefill l (ps := [])) u).2.polders l List.not_mem_nil
      generalize (Act.when (n == 0x32) (.kickRefill l)).run u = y at hv hk hd2
      have hy : ∀ m, y.ctx m = u.ctx m := fun m => hk.2.ctxs m List.not_mem_nil
      have hprio : ∀ m, (y.ctx m).prio = (s.ctx m).prio := fun m => by rw [hy]; exact same_apply (Stirs_same hu m) (f := Context.prio) fun _ _ _ _ _ => rfl
      have hstate : ∀ m, (y.ctx m).state = (s.ctx m).state := fun m => by rw [hy]; exact same_apply (Stirs_same hu m) (f := Context.state) fun _ _ _ _ _ => rfl
      subst hv
      refine ⟨steady_own (steady_same hs fun m => same_of_eq (hy m)) (withWord_keeps n w) fun k hne hk => ?_,
          unowed_own (unowed_same ho (same_of_eq (hy l))) (withWord_owes n w), fun t ht =>
        ⟨memKept_commit hu (by exact hk.1) ht, within_trans (Stirs_within hu) (within_trans (within_keeps hk) (within_trans within_own (Departs_within ht))),
            ?_, ?_⟩⟩
      · by_cases h3 : n = 3
        · subst h3
          rw [hstate] at hk
          rw [hprio]
          exact hp rfl k hk
        · rw [withWord_prio h3]
          exact (steady_same hs fun m => same_of_eq (hy m)).best k hk
      · refine leavesAs_of ht hn ?_
        rw [run_ctx, ctx_apply_ctx, hy]
        exact withWord_same hsame n w
      · rw [if_neg hd, Departs_polder ht, ← hpol]
        exact congrArg PolderState.dikes hd2
  · simp only [hw, if_false, false_and] at hv ⊢
    subst hv
    exact ⟨hs, ho, fun t ht => ⟨memKept_commit hu (memKept_refl v) ht, within_trans (Stirs_within hu) (Departs_within ht), leavesAs_of ht hn hsame, by
      rw [Departs_polder ht, hpol]⟩⟩


/-! ### Ports -/

theorem core_of_toCore {s : State} {m l : Loc} (h : m.toCore = l.toCore) : s.core m = s.core l := by rw [State.core, State.core, h]
/-- Of a core a commit stirs the exits noted and the special-function requests alone. -/
theorem Stirs_core {α : Type} (h : s.Stirs t l) {f : CoreState → α} (hf : ∀ k es rs, f { k with exits := es, sfu := rs } = f k) (m : Loc) :
    f (t.core m) = f (s.core m) := by
  by_cases hm : m.toCore = l.toCore
  · obtain ⟨es, rs, e⟩ := h.core
    rw [core_of_toCore hm, core_of_toCore hm, e]
    exact hf _ es rs
  · rw [h.cores m hm]
theorem Departs_core {α : Type} (h : s.Departs t l b) {f : CoreState → α} (hf : ∀ k es rs, f { k with exits := es, sfu := rs } = f k) (m : Loc) :
    f (t.core m) = f (s.core m) := by
  by_cases hm : m.toCore = l.toCore
  · obtain ⟨es, rs, e⟩ := (Departs_touches h).core
    rw [core_of_toCore hm, core_of_toCore hm, e]
    exact hf _ es rs
  · rw [(Departs_within h).cores m hm]

/-- The words in the FIFO at the other end of port `k`. -/
def State.portWords (s : State) (l : Loc) (k : Nat) : List W64 := ((s.core (portDest l k)).ports.getD k []).map fun w => w.word

theorem fifoPush_words (fifo : List PortWord) (w : W64) : (fifoPush fifo w).map (fun x => x.word) = fifo.map (fun x => x.word) ++ [w] := by
  simp [fifoPush]

/-- A `WRITE` of a port at commit. -/
theorem port_commits (s : State) (l : Loc) (ep k : Nat) (w : W64) (hk : k < (s.core (portDest l k)).ports.length) (ho : k < (s.core l).outbuf.length) :
    s.actCommits l ep (.port k w) fun b t => s.memKept t ∧ s.leavesAs t l b (s.ctx l) ∧
      ((s.portWords l k).length < 8 → t.portWords l k = s.portWords l k ++ [w]) ∧
      (8 ≤ (s.portWords l k).length → t.portWords l k = s.portWords l k ∧ (t.core l).outbuf.getD k none = some w) := by
  refine actCommits_of fun b slot u v _ _ hu hs hown hv => ?_
  have hv : v = (Act.portPush l k w).run u := hv
  have hn : v.now = s.now := by rw [hv, run_now, Stirs_now hu]
  have hsame := Stirs_same hu
  have hports : (u.core (portDest l k)).ports = (s.core (portDest l k)).ports := Stirs_core hu (fun _ _ _ => rfl) _
  have hout : (u.core l).outbuf = (s.core l).outbuf := Stirs_core hu (fun _ _ _ => rfl) l
  have hwords : u.portWords l k = s.portWords l k := by rw [State.portWords, hports, State.portWords]
  have hlen : ((u.core (portDest l k)).ports.getD k []).length = (s.portWords l k).length := by rw [← hwords, State.portWords, List.length_map]
  rw [Act.portPush, run_read] at hv
  simp only [hlen] at hv
  by_cases h8 : (s.portWords l k).length < 8
  · rw [if_pos h8, run_seq] at hv
    have hwake := stirring_wakeCore (l := portDest l k) ((Act.core (portDest l k) fun x =>
      { x with ports := x.ports.set k (fifoPush ((u.core (portDest l k)).ports.getD k []) w) }).run u)
    rw [← hv] at hwake
    have hsm := Stirs_same hwake
    have hsm : ∀ m, (u.ctx m).same (v.ctx m) := hsm
    have hmem := Stirs_memKept hwake
    refine ⟨steady_same hs hsm, unowed_same hown (hsm l), fun t ht => ⟨memKept_commit hu (by exact hmem) ht, leavesAs_of ht hn (same_trans (hsame l) (hsm l)),
        fun _ => ?_, fun h => absurd h8 (Nat.not_lt.2 h)⟩⟩
    have hp : (t.core (portDest l k)).ports = (u.core (portDest l k)).ports.set k (fifoPush ((u.core (portDest l k)).ports.getD k []) w) := by
      rw [Departs_core ht (f := CoreState.ports) (fun _ _ _ => rfl), Stirs_core hwake (f := CoreState.ports) (fun _ _ _ => rfl), run_core, core_apply_core]
    rw [← hwords, State.portWords, hp, List.getD_eq_getElem?_getD, List.getElem?_set_self (hports ▸ hk), Option.getD_some, fifoPush_words, State.portWords]
  · rw [if_neg h8] at hv
    subst hv
    refine ⟨steady_same hs fun _ => same_refl _, unowed_same hown (same_refl _), fun t ht => ⟨memKept_commit hu (by exact memKept_refl u) ht,
      leavesAs_of ht hn (hsame l), fun h => absurd h h8, fun _ => ⟨?_, ?_⟩⟩⟩
    · have hp : (t.core (portDest l k)).ports = (u.core (portDest l k)).ports := by
        rw [Departs_core ht (f := CoreState.ports) (fun _ _ _ => rfl)]
        by_cases hd : (portDest l k).toCore = l.toCore
        · rw [core_of_toCore hd, core_of_toCore hd, run_core, core_apply_core]
        · rw [run_core, core_apply_core_other _ _ _ _ hd]
      rw [State.portWords, hp, ← State.portWords, hwords]
    · rw [Departs_core ht (f := CoreState.outbuf) (fun _ _ _ => rfl), run_core, core_apply_core, List.getD_eq_getElem?_getD,
        List.getElem?_set_self (hout ▸ ho), Option.getD_some]

end commits

/-- Settles O7: a `WRITE` marks its register, and `port_commits`. -/
theorem writeRegisters : Obligations.WriteRegisters := by
  refine ⟨fun p r => ⟨?held, ?twice⟩, fun s l ep k v hk ho => port_commits s l ep k v hk ho⟩
  case held =>
    refine completes_block (fun s _ vs b =>
        { b with writes := b.writes ++ [(r.toNat, some (arg vs 0))], acts := b.acts ++ writeActs s.focus.slot r.toNat (some (arg vs 0)) })
      (fun _ => rfl) (fun s b vs => ⟨⟨rfl, rfl, rfl⟩, fun f w => ⟨f, w, ?_⟩⟩) fun s b vs hb _ hp => ?_
    · rw [writeActs_some]
    · rw [Act.markWrite, run_inBlock hb, if_neg hp]
  case twice =>
    refine faults_of (by decide) (fun _ => rfl) fun s b vs hb _ hp => ?_
    rw [Act.markWrite, run_inBlock hb, if_pos hp]

/-- Settles O11: `holdsControl_of` for each word, and `cww_commits`. -/
theorem controlWordWrites : Obligations.ControlWordWrites :=
  ⟨controlWordWrites_fire, fun s l ep n v hp => cww_commits s l ep n v hp⟩

/-- What a user may not name. -/
theorem faults_cwr {p : Pred} {n : BitVec 14} {t0 : Target} (hk : cwKnown n.toNat = true) (hp : cwPrivileged n.toNat = true) :
    Faults (.cwr p n t0) p [] (fun s _ _ => (s.ctx s.focus.l).sup = false) 0x0C 0 fun _ => 0 := by
  refine faults_of (by decide) (fun _ => rfl) fun s b vs hb _ hs => ?_
  rw [run_inBlock hb]
  simp [hk, hp, hs]

/-- Settles O9: each instruction checks `sup` first, and `switch_commits`. -/
theorem privilegedInstructions : Obligations.PrivilegedInstructions := by
  refine ⟨fun p e => ⟨?switch, ?eret⟩, fun p e t0 => ⟨?userSwitch, ?userEret, ?userReloc, fun n hn => ?userWords⟩, switch_commits⟩
  case switch =>
    refine holds_where (fun _ => rfl) fun s b vs hb ⟨hs, hw⟩ => ?_
    rw [run_inBlock hb]
    simp only [hs, if_true, hw, ne_eq, not_true_eq_false, if_false]
    rfl
  case eret =>
    refine completes_of (fun _ => rfl) fun s b vs hb _ ⟨hs, hx, hw⟩ => ⟨⟨rfl, rfl, rfl⟩, ?_⟩
    have hw : s.wpCause s.focus.l (bits (s.frameWord s.focus.l 3) 16 0) = 0 := hw
    rw [run_inBlock hb]
    simp only [hs, Bool.not_true, Bool.false_eq_true, if_false, hw, ne_eq, not_true_eq_false]
    exact Fired_exitWith hb hx
  case userSwitch =>
    refine faults_of (by decide) (fun _ => rfl) fun s b vs hb _ hs => ?_
    rw [run_inBlock hb]
    simp [hs]
  case userEret =>
    refine faults_of (by decide) (fun _ => rfl) fun s b vs hb _ hs => ?_
    rw [run_inBlock hb]
    simp [hs]
  case userReloc =>
    refine faults_of (by decide) (fun _ => rfl) fun s b vs _ _ hs => ?_
    simp [hs]
  case userWords =>
    have hn : n.toNat = 0x20 ∨ n.toNat = 0x21 ∨ (0x40 ≤ n.toNat ∧ n.toNat ≤ 0x47) := by
      simp only [List.mem_cons, List.not_mem_nil, or_false] at hn
      rcases hn with rfl | rfl | rfl | rfl | rfl | rfl | rfl | rfl | rfl | rfl <;> decide
    refine ⟨faults_cwr ?_ ?_, faults_cww (by decide) (by decide) fun s b vs hs => (controlCause_sup hn).trans (if_neg (by rw [hs]; decide))⟩
    · simp only [cwKnown, Bool.or_eq_true, decide_eq_true_eq, beq_iff_eq, Bool.and_eq_true]
      omega
    · simp only [cwPrivileged, Bool.or_eq_true, decide_eq_true_eq, beq_iff_eq]
      omega

end Sys2Proof.Machine
end

section
/-! SUPPORT. What the acts that wait for a commit do (spec/05, 07 to 09): watches, messages,
launches, compositions and ring entries, held when they fire and done at commit. -/

namespace Sys2Proof.Machine

/-! ## Registrations (R107, R123, R132) -/

theorem aligned_of_gaugeCause {s : State} {l : Loc} {g : Nat} (h : s.gaugeCause l g = 0) : g % 8 = 0 := by
  refine Classical.byContradiction fun hg => ?_
  simp [State.gaugeCause, hg] at h
theorem gaugeCause_misaligned {s : State} {l : Loc} {g : Nat} (h : g % 8 ≠ 0) : s.gaugeCause l g ≠ 0 := by
  simp [State.gaugeCause, h]

theorem run_register_misaligned {s : State} {w : WatchReg} (h : w.gauge % 8 ≠ 0) : (Act.register w).run s = (Act.fault 3 0 w.gauge).run s := by
  rw [Act.register, if_pos h]

/-- A REGISTRATION OF AN ALIGNED GAUGE goes to its owner, and the slot waits for the reply. -/
theorem Fired_registerOn {s t : State} {b b' : Block} {w : WatchReg} {q : Place} (h : s.Fired t b b' []) (ht : t = { s with ctxs := t.ctxs }) (ha : w.gauge % 8 = 0)
    (hr : s.reaches (s.asked w.gauge 8 (.watch w)) q) :
    ({ s with free := s.free + 1 } : State).Fired ((Act.register w).run t) b (b'.awaits s) [s.requestTo (s.asked w.gauge 8 (.watch w)) q] := by
  have hreq : t.reqOf t.focus.l w.gauge 8 (.watch w) = s.asked w.gauge 8 (.watch w) := by
    obtain ⟨f, x, e⟩ := h.own
    have hpart : t.partOf s.focus.l = s.partOf s.focus.l := by rw [ht]; rfl
    simp only [State.reqOf, Fired_focus h, e, hpart]
    rfl
  rw [Act.register, if_neg (Classical.not_not.2 ha), run_read, run_seq, hreq]
  have ht2 : Act.pend.run t = { s with ctxs := (Act.pend.run t).ctxs } := by
    conv => lhs; rw [ht]
    conv => rhs; rw [ht]
    rfl
  exact Fired_submit (Fired_pend h) ht2 hr rfl
theorem Fired_register {s : State} {b : Block} {w : WatchReg} {q : Place} (hb : s.firingBlock b) (ha : w.gauge % 8 = 0)
    (hr : s.reaches (s.asked w.gauge 8 (.watch w)) q) :
    ({ s with free := s.free + 1 } : State).Fired ((Act.register w).run s) b (b.awaits s) [s.requestTo (s.asked w.gauge 8 (.watch w)) q] :=
  Fired_registerOn (fired_refl hb) rfl ha hr

section watch
variable {i : Instr} {kind : WatchKind} {size : Nat} {t1 t0 : Target} {p : Pred}

/-- A one-shot watch whose checks pass asks; one of a misaligned gauge, or whose record may not be written, fails its block. -/
theorem asks_watch (he : ∀ s, exec i s = fireWatch kind size t1 t0 s) : Asks i .always [.l, .r, .x]
    (fun s vs => s.gaugeCause s.focus.l (arg vs 0).toNat = 0 ∧ s.storeRange s.focus.l (polderView s.focus.l (arg vs 2).toNat) size = 0)
    (fun s b _ => b.awaits s) fun s vs => s.asked (arg vs 0).toNat 8
      (.watch (s.watchOf kind (arg vs 0).toNat (arg vs 1).toNat (polderView s.focus.l (arg vs 2).toNat) [(s.ctx s.focus.l).steal.toNat])) := by
  intro s b vs q hb hp hv ⟨hg, hx⟩ hr
  refine completes_over (he s) hb hp hv hb rfl (b' := b.awaits s) ⟨rfl, rfl, rfl⟩ ?_
  simp only [run_read, hg, hx, ne_eq, not_true_eq_false, if_false]
  exact Fired_register hb (aligned_of_gaugeCause hg) hr
theorem faults_watch_gauge (he : ∀ s, exec i s = fireWatch kind size t1 t0 s) :
    Faults i .always [.l, .r, .x] (fun _ _ vs => (arg vs 0).toNat % 8 ≠ 0) 3 0 fun vs => (arg vs 0).toNat := by
  refine faults_of (by decide) he fun s b vs _ _ h => ?_
  simp only [run_read, gaugeCause_misaligned h, ne_eq, not_false_iff, if_true]
  exact run_register_misaligned h
/-- The causes of a store's range are not an uncorrectable error. -/
theorem storeRange_ne (s : State) (l : Loc) (a n : Nat) : s.storeRange l a n ≠ 0x11 := by
  unfold State.storeRange
  simp only
  repeat' split
  all_goals decide
theorem faults_watch_record (he : ∀ s, exec i s = fireWatch kind size t1 t0 s) (c : Nat) (l : Loc) (hc : c ≠ 0) :
    Faults i .always [.l, .r, .x] (fun s _ vs => s.focus.l = l ∧ s.gaugeCause s.focus.l (arg vs 0).toNat = 0
      ∧ s.storeRange l (polderView l (arg vs 2).toNat) size = c) c 0 fun vs => polderView l (arg vs 2).toNat := by
  by_cases h11 : c = 0x11
  · intro s b vs _ _ _ ⟨_, _, h⟩
    exact absurd (h.trans h11) (storeRange_ne s l _ size)
  · refine faults_of h11 he fun s b vs _ _ ⟨hl, hg, hx⟩ => ?_
    subst hl
    simp only [run_read, hg, hx, hc, ne_eq, not_true_eq_false, not_false_iff, if_false, if_true]

theorem run_whenSettled {s : State} {as : List Nat} (hs : s.homeSettled s.focus.l as = true) (k : Act) : (Act.whenSettled as k).run s = k.run s := by
  rw [Act.whenSettled, run_read, if_pos hs]

/-- A `LISTEN` whose record is legal and finds a slot asks; the checks come in the order gauge, record, slot. -/
theorem asks_listen : Asks (.listen p t1 t0) p [.l, .r]
    (fun s vs => s.homeSettled s.focus.l [polderView s.focus.l (arg vs 1).toNat] = true ∧ s.gaugeCause s.focus.l (arg vs 0).toNat = 0
      ∧ s.recordCause s.focus.l (polderView s.focus.l (arg vs 1).toNat) 64 = 0
      ∧ (s.listenCause s.focus.l (s.listenBytes s.focus.l (polderView s.focus.l (arg vs 1).toNat))).1 = 0 ∧ (s.polder s.focus.l).listens.length < 16)
    (fun s b _ => b.awaits s) fun s vs => s.asked (arg vs 0).toNat 8 (.watch (s.watchOf .listen (arg vs 0).toNat 0 (polderView s.focus.l (arg vs 1).toNat)
      ((List.range 4).map fun i => numAt (s.listenBytes s.focus.l (polderView s.focus.l (arg vs 1).toNat)) (8 * i) 8))) := by
  intro s b vs q hb hp hv ⟨hs, hg, hr, hl, hroom⟩ hreach
  refine completes_over (i := .listen p t1 t0) rfl hb hp hv hb rfl (b' := b.awaits s) ⟨rfl, rfl, rfl⟩ ?_
  simp only [run_read, run_whenSettled hs, hg, hr, hl, PolderState.listenRoom, hroom, decide_true, Bool.not_true, ne_eq, not_true_eq_false, if_false,
    Bool.false_eq_true]
  exact Fired_register hb (aligned_of_gaugeCause hg) hreach
theorem faults_listen_gauge : Faults (.listen p t1 t0) p [.l, .r]
    (fun s _ vs => s.homeSettled s.focus.l [polderView s.focus.l (arg vs 1).toNat] = true ∧ (arg vs 0).toNat % 8 ≠ 0) 3 0 fun vs => (arg vs 0).toNat := by
  refine faults_of (by decide) (fun _ => rfl) fun s b vs _ _ ⟨hs, h⟩ => ?_
  simp only [run_read, run_whenSettled hs, gaugeCause_misaligned h, ne_eq, not_false_iff, if_true]
  exact run_register_misaligned h
/-- The causes of a listen record. -/
theorem listenCause_ne {s : State} {l : Loc} {bs : List Byte} {c d : Nat} (h : s.listenCause l bs = (c, d)) : c ≠ 0x11 := by
  have h : (s.listenCause l bs).1 = c := by rw [h]
  rw [← h]
  unfold State.listenCause
  simp only
  repeat' split
  all_goals simp
theorem faults_listen_record (c d : Nat) (hc : c ≠ 0) : Faults (.listen p t1 t0) p [.l, .r]
    (fun s _ vs => s.homeSettled s.focus.l [polderView s.focus.l (arg vs 1).toNat] = true ∧ s.gaugeCause s.focus.l (arg vs 0).toNat = 0
      ∧ s.recordCause s.focus.l (polderView s.focus.l (arg vs 1).toNat) 64 = 0
      ∧ s.listenCause s.focus.l (s.listenBytes s.focus.l (polderView s.focus.l (arg vs 1).toNat)) = (c, d)) c 0 fun _ => d := by
  by_cases h11 : c = 0x11
  · intro s b vs _ _ _ ⟨_, _, _, h⟩
    exact absurd h11 (listenCause_ne h)
  · refine faults_of h11 (fun _ => rfl) fun s b vs _ _ ⟨hs, hg, hr, hl⟩ => ?_
    simp only [run_read, run_whenSettled hs, hg, hr, hl, hc, ne_eq, not_true_eq_false, not_false_iff, if_false, if_true]
theorem faults_listen_full : Faults (.listen p t1 t0) p [.l, .r]
    (fun s _ vs => s.homeSettled s.focus.l [polderView s.focus.l (arg vs 1).toNat] = true ∧ s.gaugeCause s.focus.l (arg vs 0).toNat = 0
      ∧ s.recordCause s.focus.l (polderView s.focus.l (arg vs 1).toNat) 64 = 0
      ∧ (s.listenCause s.focus.l (s.listenBytes s.focus.l (polderView s.focus.l (arg vs 1).toNat))).1 = 0
      ∧ 16 ≤ (s.polder s.focus.l).listens.length) 0x13 0 fun vs => (arg vs 0).toNat := by
  refine faults_of (by decide) (fun _ => rfl) fun s b vs _ _ ⟨hs, hg, hr, hl, hf⟩ => ?_
  simp only [run_read, run_whenSettled hs, hg, hr, hl, PolderState.listenRoom, Nat.not_lt.2 hf, decide_false, Bool.not_false, ne_eq, not_true_eq_false,
    if_false, if_true]

/-! ## Pulls (R129) -/

/-- A `PULL` that a check refuses: an illegal descriptor, or a cause with the address that it concerns. -/
theorem faults_pull {pre : State → Block → List W64 → Prop} {c : Nat} {f : List W64 → Nat} (hc : c ≠ 0x11) (h0 : c ≠ 0)
    (h : ∀ s b vs, pre s b vs → s.pullCause s.focus.l (arg vs 1).toNat (arg vs 2).toNat = c ∧ f vs = if c = 1 then 0
      else if c = 3 ∨ s.pullRange s.focus.l (arg vs 1).toNat (bits (arg vs 2).toNat 19 0 + 1) = 0 then bits (arg vs 2).toNat 63 24 else (arg vs 1).toNat) :
    Faults .pull .always [.l, .r, .x] pre c 0 f := by
  refine faults_of hc (fun _ => rfl) fun s b vs _ _ hp => ?_
  obtain ⟨hcause, haddr⟩ := h s b vs hp
  rw [haddr]
  simp only [run_read, hcause, h0, ne_eq, not_false_iff, if_true]
  split
  · next h1 => rw [h1]; rfl
  · rfl
theorem pullRange_cases (s : State) (l : Loc) (a n : Nat) : s.pullRange l a n = 0 ∨ s.pullRange l a n = 7 := by
  unfold State.pullRange
  simp only
  repeat' split
  all_goals simp

section pull
variable {s : State} {l : Loc} {dst desc : Nat}

/-- The checks of a pull in their order (R129). -/
theorem pullCause_illegal (h : bits desc 21 20 = 3 ∨ bits desc 23 23 = 1) : s.pullCause l dst desc = 1 := by
  have : (bits desc 21 20 = 3 || bit desc 23) = true := by
    rw [Bool.or_eq_true, decide_eq_true_eq, bit, beq_iff_eq]
    simpa [bits] using h
  rw [State.pullCause, if_pos this]
theorem pullCause_legal (h : bits desc 21 20 ≠ 3 ∧ bits desc 23 23 = 0) : s.pullCause l dst desc =
    if bits desc 63 24 % 8 ≠ 0 then 3 else if s.pullRange l dst (bits desc 19 0 + 1) ≠ 0 then 7
    else if bits desc 63 24 ≠ 0 then s.pullRange l (bits desc 63 24) 8 else 0 := by
  have : ¬ (bits desc 21 20 = 3 || bit desc 23) = true := by
    have := h.2
    simp [bits] at this
    simp [h.1, bit, this]
  rw [State.pullCause, if_neg this]

end pull

end watch


/-! ## The commits of watches, cancellations and listens (R125, R126, R133) -/

section commits
variable {s t u v : State} {l : Loc} {b : Block} {ep : Nat}

/-- THE COMMIT OF AN ACT THAT KEEPS MEMORY AND THE CONTEXTS: what it claims of the core, the polder, the device and the agenda is left. -/
theorem actCommits_kept {op : CommitOp} {Q : Block → State → Prop}
    (h : ∀ b slot u v, s.Stirs u l → v = (Act.commitOp l b slot op).run u → u.memKept v ∧ (∀ m, v.ctx m = u.ctx m) ∧ ∀ t, v.Departs t l b → Q b t) :
    s.actCommits l ep op fun b t => s.memKept t ∧ s.leavesAs t l b (s.ctx l) ∧ Q b t :=
  actCommits_of fun b slot u v _ _ hu hs ho hv =>
    have ⟨hmem, hctx, hQ⟩ := h b slot u v hu hv
    ⟨steady_same hs fun m => same_of_eq (hctx m), unowed_same ho (same_of_eq (hctx l)), fun t ht =>
      ⟨memKept_commit hu hmem ht, leavesAs_of ht (by rw [hv, run_now, Stirs_now hu]) (by rw [hctx]; exact Stirs_same hu l), hQ t ht⟩⟩

/-- What stands on the agenda behind the acts stands there behind the commit. -/
theorem planned_commit {d : Nat} {e : Event} (hu : s.Stirs u l) (h : u.planned v d e) (ht : v.Departs t l b) : s.planned t d e := by
  have := Departs_kept ht _ h
  rwa [Stirs_now hu] at this
theorem planned_event (s : State) (d : Nat) (e : Event) : s.planned ((Act.event d e).run s) d e := (mem_schedule _ _ _).2 (.inl rfl)
theorem way_congr (h : s.Stirs u l) (a c : Loc) : u.way a c = s.way a c := by rw [h.rest]; rfl

theorem watch_commits (s : State) (l : Loc) (ep : Nat) (w : WatchReg) (h : Handle) (x : Option Nat) :
    s.actCommits l ep (.watch w h x) fun b t => s.memKept t ∧ s.leavesAs t l b (s.ctx l) ∧
      (h.gen = 0 → s.planned t 0 (.watchSatisfactionArrival ⟨w, h, x⟩)) ∧
      (h.gen ≠ 0 → s.planned t (8 + s.way l h.owner) (.watchArm w h) ∧ ∀ y ∈ (t.polder l).listens, y.handle = h → y.armed = true) := by
  refine actCommits_kept fun b slot u v hu hv => ?_
  by_cases hg : h.gen = 0
  · have hv : v = (Act.event 0 (.watchSatisfactionArrival ⟨w, h, x⟩)).run u := by
      rw [hv, Act.commitOp, run_read]
      simp only [hg, if_true]
    subst hv
    exact ⟨memKept_refl u, fun _ => rfl, fun t ht => ⟨fun _ => planned_commit hu (planned_event u 0 _) ht, fun hn => absurd hg hn⟩⟩
  · have hv : v = (Act.event (8 + u.way l h.owner) (.watchArm w h)).run ((Act.polder l fun p => { p with
        listens := p.listens.map fun t => if t.handle = h then { t with armed := true } else t }).run u) := by
      rw [hv, Act.commitOp, run_read]
      simp only [hg, if_false]
      rfl
    subst hv
    refine ⟨memKept_refl u, fun _ => rfl, fun t ht => ⟨fun h0 => absurd h0 hg, fun _ => ⟨?_, fun y hy hh => ?_⟩⟩⟩
    · rw [← way_congr hu]
      exact planned_commit hu (planned_event ((Act.polder l _).run u) _ _) ht
    · rw [Departs_polder ht, run_event, polder_apply_sched, run_polder, polder_apply_polder] at hy
      obtain ⟨z, _, rfl⟩ := List.mem_map.1 hy
      split at hh
      · next e => rw [if_pos e]
      · next e => exact absurd hh e

/-- A cancellation is on its way to the owner of a live handle. -/
theorem run_cancelWatch {u : State} {h : Handle} (hg : h.gen ≠ 0) (unarmed isListen : Bool) :
    (Act.cancelWatch l h unarmed isListen).run u = (Act.event (8 + u.way l h.owner) (.watchCancelArrival h unarmed isListen)).run u := by
  rw [Act.cancelWatch, run_read, decide_eq_true hg]
  rfl
theorem only_cancelWatch {h : Handle} {x y : Bool} {cs ks ps ds : List Loc} : (Act.cancelWatch l h x y).Only cs ks ps ds :=
  only_read fun _ => only_when fun _ => only_event

theorem cancel_commits (s : State) (l : Loc) (ep : Nat) (h : Handle) :
    s.actCommits l ep (.cancel h) fun b t => s.memKept t ∧ s.leavesAs t l b (s.ctx l) ∧
      (h.gen ≠ 0 → s.planned t (8 + s.way l h.owner) (.watchCancelArrival h false false)) := by
  refine actCommits_kept fun b slot u v hu hv => ?_
  have hv : v = (Act.cancelWatch l h false false).run u := hv
  have hk := only_cancelWatch (l := l) (h := h) (x := false) (y := false) (cs := []) (ks := []) (ps := []) (ds := []) u
  rw [← hv] at hk
  refine ⟨hk.1, fun m => hk.2.ctxs m List.not_mem_nil, fun t ht hg => ?_⟩
  rw [run_cancelWatch hg] at hv
  subst hv
  rw [← way_congr hu]
  exact planned_commit hu (planned_event u _ _) ht

theorem unlisten_commits (s : State) (l : Loc) (ep : Nat) (h : Handle) :
    s.actCommits l ep (.unlisten h) fun b t => s.memKept t ∧ s.leavesAs t l b (s.ctx l) ∧
      (h.gen ≠ 0 → s.planned t (8 + s.way l h.owner) (.watchCancelArrival h false true)) ∧
      ∀ y ∈ (t.polder l).listens, y.handle = h → y.running = true ∧ y.removed = true := by
  refine actCommits_kept fun b slot u v hu hv => ?_
  have hv : v = (Act.freeListen l h).run ((Act.cancelWatch l h false true).run u) := hv
  have hk := only_cancelWatch (l := l) (h := h) (x := false) (y := true) (cs := []) (ks := []) (ps := []) (ds := []) u
  refine ⟨?_, fun m => ?_, fun t ht => ⟨fun hg => ?_, fun y hy hh => ?_⟩⟩
  · rw [hv]
    exact hk.1
  · rw [hv]
    exact hk.2.ctxs m List.not_mem_nil
  · rw [run_cancelWatch hg] at hv
    subst hv
    rw [← way_congr hu]
    refine planned_commit hu ?_ ht
    exact planned_event u _ _
  · rw [Departs_polder ht, hv, Act.freeListen, run_polder, polder_apply_polder] at hy
    obtain ⟨z, _, hz⟩ := List.mem_filterMap.1 hy
    split at hz
    · next e =>
      split at hz
      · next hr =>
        cases hz
        exact ⟨hr, rfl⟩
      · cases hz
    · next e =>
      cases hz
      exact absurd hh e

end commits

/-- A null among the operands. -/
theorem tokVals_null {s : State} {b : Block} {os : List Opnd} (h : ∃ o ∈ os, b.operand s.focus.slot o = some .null) :
    tokVals (os.map (b.tok s)) = none := by
  induction os with
  | nil => simp at h
  | cons o os ih =>
    rw [List.map_cons]
    cases ht : b.tok s o with
    | null => rfl
    | val v =>
      obtain ⟨x, hx, hn⟩ := h
      rcases List.mem_cons.1 hx with rfl | hx
      · simp [Block.tok, hn] at ht
      · simp [tokVals, ih ⟨x, hx, hn⟩]

/-- Settles O21: the checks of each instruction in their order, and the commits of watches, cancellations and listens. -/
theorem watchInstructions : Obligations.WatchInstructions := by
  refine ⟨fun p t1 t0 => ⟨fun x hx => ?watch, asks_listen, faults_listen_gauge, fun c d hc => faults_listen_record c d hc, faults_listen_full⟩,
    fun p => ⟨?cancel, ?unlisten, ?pull, fun s b hb ha hn => ?pullNull, ?illegal, ?misaligned, ?range, ?cwaRange⟩,
    fun s l ep h => ⟨fun w x => watch_commits s l ep w h x, cancel_commits s l ep h, unlisten_commits s l ep h⟩⟩
  case watch =>
    simp only [List.mem_cons, List.not_mem_nil, or_false] at hx
    rcases hx with rfl | rfl
    · exact ⟨asks_watch fun _ => rfl, faults_watch_gauge fun _ => rfl, faults_watch_record fun _ => rfl⟩
    · exact ⟨asks_watch fun _ => rfl, faults_watch_gauge fun _ => rfl, faults_watch_record fun _ => rfl⟩
  case cancel => exact holds_of (fun _ => rfl) fun _ _ _ _ _ => rfl
  case unlisten => exact holds_of (fun _ => rfl) fun _ _ _ _ _ => rfl
  case pull =>
    refine holds_of (fun _ => rfl) fun s b vs _ hp => ?_
    simp only [run_read, hp, ne_eq, not_true_eq_false, if_false]
    rfl
  case pullNull =>
    refine ⟨_, ?_, Fired_settle hb (alike_refl b) (fired_refl hb)⟩
    change execPull s = _
    rw [execPull, slotStep, done, run_seq, run_firing_null hb rfl (tokVals_null hn)]
    rfl
  case illegal => exact faults_pull (by decide) (by decide) fun s b vs h => ⟨pullCause_illegal h, rfl⟩
  case misaligned =>
    refine faults_pull (by decide) (by decide) fun s b vs h => ⟨(pullCause_legal h.1).trans (if_pos h.2), ?_⟩
    simp
  case range =>
    refine faults_pull (by decide) (by decide) fun s b vs ⟨h, ha, hr⟩ => ⟨?_, ?_⟩
    · rw [pullCause_legal h, if_neg (Classical.not_not.2 ha), if_pos hr]
    · simp [hr]
  case cwaRange =>
    refine faults_pull (by decide) (by decide) fun s b vs ⟨h, ha, hr, h0, hc⟩ => ⟨?_, ?_⟩
    · rw [pullCause_legal h, if_neg (Classical.not_not.2 ha), if_neg (Classical.not_not.2 hr), if_pos h0]
      exact (pullRange_cases _ _ _ _).resolve_left hc
    · simp [hr]

/-! ## Messages (R209, R219, R221, R222) -/

theorem tokenBad_iff (v : W64) : tokenBad v.toNat = true ↔ ¬ legalToken v := by
  have : v.toNat / 2 ^ 10 % 2 ^ (13 + 1 - 10) = v.toNat / 2 ^ 10 % 16 := rfl
  simp only [tokenBad, legalToken, bits, Bool.or_eq_true, decide_eq_true_eq, this]
  omega
theorem tokenBad_legal {v : W64} (h : legalToken v) : tokenBad v.toNat = false := by
  rw [Bool.eq_false_iff]
  exact fun e => (tokenBad_iff v).1 e h

theorem messageCause_at {s : State} {v : W64} (h : s.messageAt v) : messageCause s.focus.l v.toNat = 0 := by
  obtain ⟨ha, q, hq, hs⟩ := h
  rw [messageCause, if_neg (Classical.not_not.2 ha), if_neg (Nat.not_le.2 (homePlace_lt hq)), hq]
  exact if_pos hs
theorem messageCause_misaligned {l : Loc} {a : Nat} (h : a % 16 ≠ 0) : messageCause l a = 3 := if_pos h
theorem messageCause_elsewhere {s : State} {v : W64} (ha : v.toNat % 16 = 0) (h : ¬ s.messageAt v) : messageCause s.focus.l v.toNat = 4 := by
  rw [messageCause, if_neg (Classical.not_not.2 ha)]
  split
  · rfl
  · cases hq : homePlace s.focus.l v.toNat with
    | none => rfl
    | some q => exact if_neg fun hs => h ⟨ha, q, hq, hs⟩

/-- What messages of a core change: its interface, and the agenda, which grows. -/
structure State.Sends (s t : State) (l : Loc) : Prop where
  rest : t = { s with cores := t.cores, agenda := t.agenda }
  core : ∃ ns, t.core l = { s.core l with net := ns }
  kept : ∀ q ∈ s.agenda, q ∈ t.agenda

theorem Sends_refl (s : State) (l : Loc) : s.Sends s l := ⟨rfl, ⟨_, rfl⟩, fun _ h => h⟩
theorem Sends_trans {s t u : State} {l : Loc} (h : s.Sends t l) (k : t.Sends u l) : s.Sends u l := by
  refine ⟨by rw [k.rest, h.rest], ?_, fun q hq => k.kept q (h.kept q hq)⟩
  obtain ⟨ns, e⟩ := h.core
  obtain ⟨ns', e'⟩ := k.core
  exact ⟨ns', by rw [e', e]⟩

/-- A home address names neither a workspace nor control space. -/
theorem homePlace_space {l : Loc} {a : Nat} {q : Place} (h : homePlace l a = some q) : q.space ≠ 4 ∧ q.space ≠ 6 := by
  unfold homePlace at h
  repeat' split at h
  all_goals first | (cases h; simp) | cases h
/-- Where a place outside the workspaces lies depends on neither contexts nor cores. -/
theorem keyOf_congr {s t : State} {q : Place} (hr : t = { s with ctxs := t.ctxs, cores := t.cores, agenda := t.agenda }) (h : q.space ≠ 4) :
    t.keyOf q = s.keyOf q := by
  rw [hr]
  unfold State.keyOf
  split
  case h_5 h4 => exact absurd h4 h
  all_goals rfl
/-- Nor what memory shows at a home address. -/
theorem homeBytes_congr {s t : State} (hr : t = { s with ctxs := t.ctxs, cores := t.cores, agenda := t.agenda }) (l : Loc) (a n : Nat) :
    t.homeBytes l a n = s.homeBytes l a n := by
  rw [State.homeBytes, State.homeBytes]
  cases hp : homePlace l a with
  | none => rfl
  | some q =>
    obtain ⟨h4, h6⟩ := homePlace_space hp
    have hf : t.isFresh q = s.isFresh q := by rw [hr]; rfl
    have hm : t.mem = s.mem := by rw [hr]
    simp only [State.placeBytes, h6, if_false, keyOf_congr hr h4, hf, hm]

/-- A message as it is sent does not depend on what a commit stirs, nor on the interface. -/
theorem messageOf_congr {s t : State} {l : Loc} (hr : t = { s with ctxs := t.ctxs, cores := t.cores, agenda := t.agenda })
    (hp : (t.ctx l).pasid = (s.ctx l).pasid) (hg : (t.ctx l).guest = (s.ctx l).guest) (a d : Nat) : t.messageOf l a d = s.messageOf l a d := by
  have hb : t.homeBytes l a 80 = s.homeBytes l a 80 := homeBytes_congr hr l a 80
  have hw : ∀ x, t.rewrite l x = s.rewrite l x := fun x => by rw [hr]; rfl
  have ht : t.tid l = s.tid l := by
    rw [State.tid, State.tid, hg, show t.device l = s.device l by rw [hr]; rfl]
  have hq : t.partOf l = s.partOf l := by rw [hr]; rfl
  simp only [State.messageOf, hb, hw, ht, hq, hp]

/-- What comes of a message that `l` puts on the fabric. -/
def State.conveys (s t : State) (l c : Loc) (m : Message) : Prop :=
  (s.routed l c (msgPart m) = true → s.isDry l c.toPolder = false →
    s.planned t (8 + s.way l c) (if (sliceByte c m).isSome then .sliceMessageArrival c.toPolder m else .messageArrival c m)) ∧
  ∀ x, m.reply = some x → (s.routed l c (msgPart m) = false → s.planned t 8 (.replyArrival l x 3)) ∧
    (s.routed l c (msgPart m) = true → s.isDry l c.toPolder = true → s.planned t 8 (.replyArrival l x 4))

/-- What is conveyed does not depend on contexts, cores and agenda. -/
theorem conveys_congr {s s' t t' : State} {l c : Loc} {m : Message} (hr : s' = { s with ctxs := s'.ctxs, cores := s'.cores, agenda := s'.agenda })
    (hk : ∀ q ∈ t.agenda, q ∈ t'.agenda) (h : s'.conveys t l c m) : s.conveys t' l c m := by
  rw [hr] at h
  exact ⟨fun h1 h2 => hk _ (h.1 h1 h2), fun x hx => ⟨fun h1 => hk _ ((h.2 x hx).1 h1), fun h1 h2 => hk _ ((h.2 x hx).2 h1 h2)⟩⟩

theorem run_transmit (s : State) (l : Loc) (m : Message) :
    s.conveys ((Act.transmit l m).run s) l (s.messageCore l.dev m) m ∧ s.Sends ((Act.transmit l m).run s) l := by
  have hev : ∀ d e, s.Sends ((Act.event d e).run s) l := fun d e => ⟨rfl, ⟨_, rfl⟩, fun q hq => (mem_schedule _ _ _).2 (.inr hq)⟩
  rw [Act.transmit, run_read]
  by_cases hr : s.routed l (s.messageCore l.dev m) (msgPart m) = true
  · by_cases hd : s.isDry l (s.messageCore l.dev m).toPolder = true
    · simp only [hr, hd, Bool.not_true, Bool.false_eq_true, if_false, if_true]
      have hdry : ∀ t : State, (∀ x, m.reply = some x → s.planned t 8 (.replyArrival l x 4)) → s.conveys t l (s.messageCore l.dev m) m := fun t h =>
        ⟨fun _ h0 => absurd (h0.symm.trans hd) (by decide), fun x hx => ⟨fun h0 => absurd (h0.symm.trans hr) (by decide), fun _ _ => h x hx⟩⟩
      cases hm : m.reply with
      | none => exact ⟨hdry s fun x hx => (by rw [hm] at hx; cases hx), Sends_refl s l⟩
      | some p => exact ⟨hdry _ fun x hx => (by rw [hm] at hx; cases hx; exact planned_event s 8 _), hev _ _⟩
    · simp only [hr, hd, Bool.not_true, Bool.false_eq_true, if_false]
      exact ⟨⟨fun _ _ => planned_event s _ _, fun x _ => ⟨fun h0 => absurd (h0.symm.trans hr) (by decide), fun _ h0 => absurd h0 hd⟩⟩, hev _ _⟩
  · have hf := Bool.eq_false_iff.2 hr
    simp only [hf, Bool.not_false, if_true]
    have hfor : ∀ t : State, (∀ x, m.reply = some x → s.planned t 8 (.replyArrival l x 3)) → s.conveys t l (s.messageCore l.dev m) m := fun t h =>
      ⟨fun h0 => absurd h0 hr, fun x hx => ⟨fun _ => h x hx, fun h0 => absurd h0 hr⟩⟩
    cases hm : m.reply with
    | none => exact ⟨hfor s fun x hx => (by rw [hm] at hx; cases hx), Sends_refl s l⟩
    | some p => exact ⟨hfor _ fun x hx => (by rw [hm] at hx; cases hx; exact planned_event s 8 _), hev _ _⟩

/-- A MESSAGE takes a place in the interface, and is conveyed. -/
theorem run_sendMessage (s : State) (l : Loc) (m : Message) :
    s.conveys ((Act.sendMessage l m).run s) l (s.messageCore l.dev m) m ∧ s.Sends ((Act.sendMessage l m).run s) l
      ∧ ((Act.sendMessage l m).run s).netCount l = s.netCount l + 1 := by
  have h0 : s.Sends ((Act.core l fun k => { k with net := (s.now + 8 + s.netCount l) :: k.net.filter fun x => decide (s.now < x) }).run s) l :=
    ⟨rfl, ⟨_, core_apply_core _ _ _⟩, fun _ h => h⟩
  have hnet : (((Act.core l fun k => { k with net := (s.now + 8 + s.netCount l) :: k.net.filter fun x => decide (s.now < x) }).run s).core l).net =
      (s.now + 8 + s.netCount l) :: (s.core l).net.filter fun x => decide (s.now < x) := by rw [run_core, core_apply_core]
  rw [Act.sendMessage, run_read, run_seq]
  generalize (Act.core l fun k => { k with net := (s.now + 8 + s.netCount l) :: k.net.filter fun x => decide (s.now < x) }).run s = u at h0 hnet
  obtain ⟨hc, hk⟩ := run_transmit u l m
  have hrest : u = { s with ctxs := u.ctxs, cores := u.cores, agenda := u.agenda } := by
    conv => lhs; rw [h0.rest]
    rw [h0.rest]
  have hcore : u.messageCore l.dev m = s.messageCore l.dev m := by rw [hrest]; rfl
  refine ⟨conveys_congr hrest (fun _ h => h) (hcore ▸ hc), Sends_trans h0 hk, ?_⟩
  have hkeep : ((Act.transmit l m).run u).netCount l = u.netCount l :=
    leaves_transmit (f := fun t => t.netCount l) (fun _ _ _ => rfl) l m u
  have hnow : u.now = s.now := by rw [hrest]
  have hle : s.now < s.now + 8 + s.netCount l := by omega
  rw [hkeep, State.netCount, hnet, hnow, List.filter_cons_of_pos (by simpa using hle), List.length_cons, List.filter_filter]
  simp only [Bool.and_self, State.netCount]

/-- The copies of a message, one behind the other. -/
theorem run_copies (l : Loc) (a : Nat) (ds : List Nat) (s : State) :
    s.Sends ((Act.each ds fun d => .read fun s => .sendMessage l (s.messageOf l a d)).run s) l
      ∧ ((Act.each ds fun d => .read fun s => .sendMessage l (s.messageOf l a d)).run s).netCount l = s.netCount l + ds.length
      ∧ ∀ d ∈ ds, s.conveys ((Act.each ds fun d => .read fun s => .sendMessage l (s.messageOf l a d)).run s) l
          (s.messageCore l.dev (s.messageOf l a d)) (s.messageOf l a d) := by
  induction ds generalizing s with
  | nil => exact ⟨Sends_refl s l, rfl, fun d hd => by cases hd⟩
  | cons d ds ih =>
    obtain ⟨hc, hs, hn⟩ := run_sendMessage s l (s.messageOf l a d)
    rw [run_each_cons, run_read]
    generalize (Act.sendMessage l (s.messageOf l a d)).run s = u at hc hs hn
    obtain ⟨hs2, hn2, hc2⟩ := ih u
    have hrest : u = { s with ctxs := u.ctxs, cores := u.cores, agenda := u.agenda } := by
      conv => lhs; rw [hs.rest]
      rw [hs.rest]
    have hctx : u.ctx l = s.ctx l := by rw [hs.rest]; rfl
    have hm : ∀ x, u.messageOf l a x = s.messageOf l a x := fun x => messageOf_congr hrest (by rw [hctx]) (by rw [hctx]) a x
    have hcore : ∀ m, u.messageCore l.dev m = s.messageCore l.dev m := fun m => by rw [hrest]; rfl
    refine ⟨Sends_trans hs hs2, by rw [hn2, hn, List.length_cons]; omega, fun x hx => ?_⟩
    rcases List.mem_cons.1 hx with rfl | hx
    · exact ⟨fun h1 h2 => hs2.kept _ (hc.1 h1 h2), fun y hy => ⟨fun h1 => hs2.kept _ ((hc.2 y hy).1 h1), fun h1 h2 => hs2.kept _ ((hc.2 y hy).2 h1 h2)⟩⟩
    · have := hc2 x hx
      rw [hm, hcore] at this
      exact conveys_congr hrest (fun _ h => h) this

/-- `SEND` and `SENDB` at commit. -/
theorem send_commits (s : State) (l : Loc) (ep dest a : Nat) (mask : Option Nat) :
    s.actCommits l ep (.send dest a mask) fun b t => s.memKept t ∧ s.leavesAs t l b (s.ctx l) ∧
      t.netCount l = s.netCount l + (sendCopies dest mask).length ∧
      ∀ d ∈ sendCopies dest mask, s.conveys t l (s.messageCore l.dev (s.messageOf l a d)) (s.messageOf l a d) := by
  refine actCommits_kept fun b slot u v hu hv => ?_
  have hv : v = (Act.each (sendCopies dest mask) fun d => .read fun s => .sendMessage l (s.messageOf l a d)).run u := hv
  obtain ⟨hs, hn, hc⟩ := run_copies l a (sendCopies dest mask) u
  rw [← hv] at hs hn hc
  refine ⟨by rw [hs.rest]; exact memKept_refl u, fun m => by rw [hs.rest]; rfl, fun t ht => ⟨?_, fun d hd => ?_⟩⟩
  · have hnet : ∀ {x y : State}, x.now = y.now → (x.core l).net = (y.core l).net → x.netCount l = y.netCount l := fun h1 h2 => by
      rw [State.netCount, State.netCount, h1, h2]
    have hnow : v.now = u.now := by rw [hs.rest]
    have ht1 : t.netCount l = v.netCount l := hnet (by rw [Departs_rest ht]) (Departs_core ht (f := CoreState.net) (fun _ _ _ => rfl) l)
    have hu1 : u.netCount l = s.netCount l := hnet (Stirs_now hu) (Stirs_core hu (f := CoreState.net) (fun _ _ _ => rfl) l)
    rw [ht1, hn, hu1]
  · have hm := messageOf_congr hu.rest (same_apply (Stirs_same hu l) (f := Context.pasid) fun _ _ _ _ _ => rfl)
      (same_apply (Stirs_same hu l) (f := Context.guest) fun _ _ _ _ _ => rfl) a d
    have hcore : ∀ m, u.messageCore l.dev m = s.messageCore l.dev m := fun m => by rw [hu.rest]; rfl
    have := hc d hd
    rw [hm, hcore] at this
    exact conveys_congr hu.rest (Departs_kept ht) this

/-- Settles O24: the checks in their order, and `send_commits`. -/
theorem messagesHeld : Obligations.MessagesHeld := by
  intro p
  refine ⟨?send, ?token, ?misaligned, ?elsewhere, ?sendb, ?mask, fun s l ep dest a mask => ?commit⟩
  case send =>
    refine holds_of (fun _ => rfl) fun s b vs _ ⟨ht, hm⟩ => ?_
    simp only [run_read, tokenBad_legal ht, messageCause_at hm, ne_eq, not_true_eq_false, if_false, Bool.false_eq_true]
    rfl
  case token =>
    refine faults_of (by decide) (fun _ => rfl) fun s b vs _ _ ht => ?_
    simp only [run_read, (tokenBad_iff _).2 ht, if_true]
  case misaligned =>
    refine faults_of (by decide) (fun _ => rfl) fun s b vs _ _ ⟨ht, ha⟩ => ?_
    rw [run_read]
    simp only [tokenBad_legal ht, messageCause_misaligned ha, Bool.false_eq_true, if_false]
    rfl
  case elsewhere =>
    refine faults_of (by decide) (fun _ => rfl) fun s b vs _ _ ⟨ht, ha, hm⟩ => ?_
    rw [run_read]
    simp only [tokenBad_legal ht, messageCause_elsewhere ha hm, Bool.false_eq_true, if_false]
    rfl
  case sendb =>
    refine holds_of (fun _ => rfl) fun s b vs _ ⟨ht, hd, h0, h1, hm⟩ => ?_
    have hbit : bit (arg vs 0).toNat 24 = false := (bit_toNat _ _).trans hd
    have hbad : (tokenBad (arg vs 0).toNat || bit (arg vs 0).toNat 24 || decide (256 ≤ (arg vs 2).toNat) || (arg vs 2).toNat == 0) = false := by
      rw [tokenBad_legal ht, hbit]
      simp
      omega
    simp only [run_read, hbad, messageCause_at hm, ne_eq, not_true_eq_false, if_false, Bool.false_eq_true]
    rfl
  case mask =>
    refine faults_of (by decide) (fun _ => rfl) fun s b vs _ _ h => ?_
    have hbad : (tokenBad (arg vs 0).toNat || bit (arg vs 0).toNat 24 || decide (256 ≤ (arg vs 2).toNat) || (arg vs 2).toNat == 0) = true := by
      rw [bit_toNat]
      rcases h with h | h | h
      · simp [h]
      · simp [h]
      · simp [h]
    simp only [run_read, hbad, if_true]
  case commit =>
    intro b hb hc
    obtain ⟨t, ht, hm, hl, hn, hd⟩ := send_commits s l ep dest a mask b hb hc
    exact ⟨t, ht, hm, hl, hn, fun d hdm m c hme hce => by subst hce; subst hme; exact hd d hdm⟩


/-! ## Launches (R223, R224, R412) -/

section launch
variable {s : State} {l : Loc}

/-- A launch record without fault. -/
theorem launchReady_causes {a : Nat} (h : s.launchReady a) :
    (if s.recordCause s.focus.l a 64 ≠ 0 then s.recordCause s.focus.l a 64 else s.recordCause s.focus.l (a + 64) 64) = 0 := by
  rw [if_neg (Classical.not_not.2 h.1), h.2.1]

/-- The dispatcher runs behind a kick, and the queues are as they were. -/
theorem run_kickDispatch (s : State) (l : Loc) :
    (((Act.kickDispatch l).run s).device l).launchQs = (s.device l).launchQs ∧ (((Act.kickDispatch l).run s).device l).dispatching = true := by
  rw [Act.kickDispatch, run_read, run_when]
  cases hd : (s.device l).dispatching
  · simp only [Bool.not_false, if_true, run_seq, run_event, device_apply_sched, run_device, device_apply_device, and_self]
  · simp only [Bool.not_true, Bool.false_eq_true, if_false, hd, and_self]
theorem only_kickDispatch : (Act.kickDispatch l).Only [] [] [] [l.toDev] :=
  only_read fun _ => only_when fun _ => only_seq (only_device (.head _)) only_event

/-- A direct launch at commit. -/
theorem launch_commits (s : State) (l : Loc) (ep : Nat) (r : LaunchRec) (hr : r.issuer = l) (hg : r.groups ≠ 0)
    (hq : (s.device l).queueFull (4096 + r.part) = false) :
    s.actCommits l ep (.launch r none) fun b t => s.memKept t ∧ s.leavesAs t l b (s.ctx l) ∧
      (t.device l).launchQs = ((s.device l).enqueue (4096 + r.part) r).launchQs ∧ (t.device l).dispatching = true := by
  refine actCommits_kept fun b slot u v hu hv => ?_
  have hv : v = (Act.startLaunch (4096 + r.part) r).run u := hv
  rw [Act.startLaunch, if_neg hg, hr, Act.queueLaunch, run_seq] at hv
  have hdev := device_apply_device l (fun x => if x.queueFull (4096 + r.part) then { x with launchWait := x.launchWait ++ [(4096 + r.part, r)] }
    else x.enqueue (4096 + r.part) r) u
  have hk1 := only_device (cs := []) (ks := []) (ps := []) (List.mem_singleton.2 rfl) (f := fun x : DeviceState =>
    if x.queueFull (4096 + r.part) then { x with launchWait := x.launchWait ++ [(4096 + r.part, r)] } else x.enqueue (4096 + r.part) r) (l := l) u
  rw [run_device] at hv hk1
  rw [Stirs_device hu, if_neg (by rw [hq]; decide)] at hdev
  generalize Effect.apply _ u = y at hv hdev hk1
  have hk := keeps_trans hk1 (only_kickDispatch (l := l) y)
  obtain ⟨hqs, hdis⟩ := run_kickDispatch y l
  rw [← hv] at hk hqs hdis
  exact ⟨hk.1, fun m => hk.2.ctxs m List.not_mem_nil, fun t ht =>
    ⟨(congrArg DeviceState.launchQs (Departs_device ht l)).trans (hqs.trans (congrArg DeviceState.launchQs hdev)),
      (congrArg DeviceState.dispatching (Departs_device ht l)).trans hdis⟩⟩

/-- An indirect launch at commit. -/
theorem launch_arms (s : State) (l : Loc) (ep : Nat) (r : LaunchRec) (h : Handle) (hg : h.gen ≠ 0) :
    s.actCommits l ep (.launch r (some h)) fun b t => s.memKept t ∧ s.leavesAs t l b (s.ctx l) ∧
      ∃ slot, s.planned t (8 + s.way l h.owner) (.watchArm (launchWatch l b slot r) h) := by
  refine actCommits_kept fun b slot u v hu hv => ?_
  have hv : v = (Act.event (8 + u.way l h.owner) (.watchArm (launchWatch l b slot r) h)).run u := by
    rw [hv, Act.commitOp, run_read]
    simp only [hg, if_false]
  subst hv
  refine ⟨memKept_refl u, fun _ => rfl, fun t ht => ⟨slot, ?_⟩⟩
  rw [← way_congr hu]
  exact planned_commit hu (planned_event u _ _) ht

end launch

/-- What a `LAUNCH` of a legal record does. -/
theorem run_launch {s : State} {a : Nat} {t1 t0 : Target} (hr : s.launchReady a) {c : Nat} (hc : c = 0) :
    (Act.whenSettled [a, a + 64] <|
      if c ≠ 0 then .fault c 0 a
      else if s.launchCause s.focus.l (s.homeBytes s.focus.l a 128) ≠ 0 then .fault (s.launchCause s.focus.l (s.homeBytes s.focus.l a 128)) 0 0
      else if (s.launchAt a).ind then .seq (.atCommit (.launch (s.launchAt a) none))
        (.register (s.watchOf .launch (s.launchAt a).gauge (s.launchAt a).thr (s.launchAt a).place (launchWords (s.launchAt a))))
      else .seq (.atCommit (.launch (s.launchAt a) none)) (.send 0 (.val 0#64) [t0, t1])).run s =
    (if (s.launchAt a).ind then .seq (.atCommit (.launch (s.launchAt a) none))
        (.register (s.watchOf .launch (s.launchAt a).gauge (s.launchAt a).thr (s.launchAt a).place (launchWords (s.launchAt a))))
      else .seq (.atCommit (.launch (s.launchAt a) none)) (.send 0 (.val 0#64) [t0, t1]) : Act).run s := by
  obtain ⟨_, _, hl, hs⟩ := hr
  rw [run_whenSettled hs, if_neg (Classical.not_not.2 hc), if_neg (Classical.not_not.2 hl)]

theorem Fired_atCommit {s : State} {b : Block} (hb : s.firingBlock b) (op : CommitOp) : s.Fired ((Act.atCommit op).run s) b (b.withAct s op) [] :=
  Fired_block (g := fun b => { b with acts := b.acts ++ [(s.focus.slot, op)] }) (fired_refl hb) fun f w => ⟨f, w, rfl⟩

/-- Settles O25: the checks of the record, `launch_commits` and `launch_arms`. -/
theorem launchesHeld : Obligations.LaunchesHeld := by
  refine ⟨fun p t1 t0 => ⟨?direct, ?indirect⟩, fun s l ep r hr => ⟨fun hg hq => launch_commits s l ep r hr hg hq, fun h hg => launch_arms s l ep r h hg⟩⟩
  case direct =>
    refine completes_of (fun _ => rfl) fun s b vs hb _ ⟨hr, hi⟩ => ⟨⟨rfl, rfl, rfl⟩, ?_⟩
    have hind : ¬ (s.launchAt (arg vs 0).toNat).ind = true := by
      rw [hi]
      decide
    have hrun := (run_launch (t1 := t1) (t0 := t0) hr (launchReady_causes hr)).trans (congrArg (fun a : Act => a.run s) (if_neg hind))
    refine cast (congrArg (fun t => s.Fired t b _ _) hrun.symm) ?_
    exact Fired_send (xs := []) hb ⟨rfl, rfl, rfl⟩ (Fired_atCommit hb _)
  case indirect =>
    intro s b vs q hb hp hv ⟨hr, hi, hg⟩ hreach
    refine completes_over (i := .launch p t1 t0) rfl hb hp hv hb rfl
      (b' := (b.withAct s (.launch (s.launchAt (arg vs 0).toNat) none)).awaits s) ⟨rfl, rfl, rfl⟩ ?_
    have hrun := (run_launch (t1 := t1) (t0 := t0) hr (launchReady_causes hr)).trans (congrArg (fun a : Act => a.run s) (if_pos hi))
    refine cast (congrArg (fun t => ({ s with free := s.free + 1 } : State).Fired t b _ _) hrun.symm) ?_
    have hplace : (s.launchAt (arg vs 0).toNat).place = polderView s.focus.l (arg vs 0).toNat := rfl
    have h0 := Fired_atCommit hb (.launch (s.launchAt (arg vs 0).toNat) none)
    have hw : s.watchOf .launch (s.launchAt (arg vs 0).toNat).gauge (s.launchAt (arg vs 0).toNat).thr (s.launchAt (arg vs 0).toNat).place
      (launchWords (s.launchAt (arg vs 0).toNat)) = ⟨s.focus.l, s.focus.epoch, s.focus.slot, .launch, (s.launchAt (arg vs 0).toNat).thr,
      polderView s.focus.l (arg vs 0).toNat, (s.ctx s.focus.l).pasid.toNat, (s.polder s.focus.l).part.getD 0, (s.launchAt (arg vs 0).toNat).gauge,
      launchWords (s.launchAt (arg vs 0).toNat)⟩ := by rw [State.watchOf, hplace]; rfl
    dsimp -proj -iota -zeta only at hreach ⊢
    rw [run_seq, hw]
    generalize s.launchAt (arg vs 0).toNat = r at *
    exact Fired_registerOn (w := ⟨s.focus.l, s.focus.epoch, s.focus.slot, .launch, r.thr, polderView s.focus.l (arg vs 0).toNat,
      (s.ctx s.focus.l).pasid.toNat, (s.polder s.focus.l).part.getD 0, r.gauge, launchWords r⟩) h0 rfl hg hreach


/-! ## Composition (R227, R228, R233) -/

/-- `t` is `s` with `g` applied to the contexts of `ms`; the agenda may have grown. -/
structure State.Sets (s t : State) (ms : List Loc) (g : Context → Context) : Prop where
  rest : t = { s with ctxs := t.ctxs, agenda := t.agenda }
  these : ∀ m ∈ ms, t.ctx m = g (s.ctx m)
  others : ∀ m, m ∉ ms → t.ctx m = s.ctx m
  kept : ∀ q ∈ s.agenda, q ∈ t.agenda

/-- An act on each of several contexts, of which one on the same context again changes nothing more. -/
theorem run_eachSets {A : Loc → Act} {g : Context → Context} {P : Context → Prop} (hg : ∀ c, g (g c) = g c) (hP : ∀ c, P c → P (g c))
    (h : ∀ m (s : State), P (s.ctx m) → s.Sets ((A m).run s) [m] g) (ms : List Loc) (s : State) (hs : ∀ m ∈ ms, P (s.ctx m)) :
    s.Sets ((Act.each ms A).run s) ms g := by
  induction ms generalizing s with
  | nil => exact ⟨rfl, fun m hm => (by cases hm), fun _ _ => rfl, fun _ h => h⟩
  | cons m ms ih =>
    have h1 := h m s (hs m (.head _))
    rw [run_each_cons]
    generalize (A m).run s = u at h1
    have hu : ∀ x, u.ctx x = g (s.ctx x) ∧ x = m ∨ u.ctx x = s.ctx x ∧ x ≠ m := fun x => by
      by_cases hx : x = m
      · exact .inl ⟨h1.these x (hx ▸ .head _), hx⟩
      · exact .inr ⟨h1.others x fun e => hx (List.mem_singleton.1 e), hx⟩
    have h2 := ih u fun x hx => by
      rcases hu x with ⟨e, _⟩ | ⟨e, _⟩ <;> rw [e]
      · exact hP _ (hs x (.tail _ hx))
      · exact hs x (.tail _ hx)
    refine ⟨by rw [h2.rest, h1.rest], fun x hx => ?_, fun x hx => ?_, fun q hq => h2.kept q (h1.kept q hq)⟩
    · by_cases hm : x ∈ ms
      · rw [h2.these x hm]
        rcases hu x with ⟨e, _⟩ | ⟨e, _⟩ <;> rw [e]
        exact hg _
      · rw [h2.others x hm]
        exact h1.these x (((List.mem_cons.1 hx).resolve_right hm) ▸ .head _)
    · rw [h2.others x fun e => hx (.tail _ e)]
      exact h1.others x fun e => hx (List.mem_singleton.1 e ▸ .head _)
theorem sets_ctx (m : Loc) (g : Context → Context) (s : State) : s.Sets ((Act.ctx m g).run s) [m] g :=
  ⟨rfl, fun x hx => by rw [List.mem_singleton.1 hx, run_ctx, ctx_apply_ctx],
    fun x hx => ctx_apply_ctx_other _ _ _ _ fun e => hx (List.mem_singleton.2 e), fun _ h => h⟩

theorem mem_memberSlots {l m : Loc} {n : Nat} :
    m ∈ memberSlots l n ↔ ∃ c, c < 8 ∧ c / 2 ^ n = l.core / 2 ^ n ∧ c ≠ l.core ∧ m = { l with core := c } := by
  simp only [memberSlots, List.mem_map, List.mem_filter, List.mem_range, Bool.and_eq_true, beq_iff_eq, bne_iff_ne, ne_eq, and_assoc]
  constructor
  · rintro ⟨c, h1, h2, h3, rfl⟩
    exact ⟨c, h1, h2, h3, rfl⟩
  · rintro ⟨c, h1, h2, h3, rfl⟩
    exact ⟨c, h1, h2, h3, rfl⟩
/-- The member slots are on other cores. -/
theorem memberSlots_toCore {l m : Loc} {n : Nat} (h : m ∈ memberSlots l n) : m.toCore ≠ l.toCore := by
  obtain ⟨c, _, _, hc, rfl⟩ := mem_memberSlots.1 h
  exact fun e => hc (congrArg Loc.core e)

/-- The member slots that `COMPOSE` reserves. -/
def Act.reserveSlots (ms : List Loc) : Act := .each ms fun m => .ctx m fun x => { x with reserved := some .member }

theorem reserveSlots_sets (ms : List Loc) (s : State) : s.Sets ((Act.reserveSlots ms).run s) ms fun x => { x with reserved := some .member } :=
  run_eachSets (P := fun _ => True) (g := fun x => { x with reserved := some .member }) (fun _ => rfl) (fun _ _ => trivial) (fun m s _ => sets_ctx m _ s)
    ms s fun _ _ => trivial
theorem reserveSlots_rest (ms : List Loc) (s : State) : (Act.reserveSlots ms).run s = { s with ctxs := ((Act.reserveSlots ms).run s).ctxs } := by
  have h := (reserveSlots_sets ms s).rest
  have ha : ((Act.reserveSlots ms).run s).agenda = s.agenda := leaves_each (f := State.agenda) (fun _ _ => rfl) s
  rwa [ha] at h
theorem reserveSlots_reserving (s : State) (n : Nat) : s.reserving n ((Act.reserveSlots (memberSlots s.focus.l n)).run s) := by
  have h := reserveSlots_sets (memberSlots s.focus.l n) s
  refine ⟨reserveSlots_rest _ s, fun c h1 h2 h3 => h.these _ (mem_memberSlots.2 ⟨c, h1, h2, h3, rfl⟩), fun l hl => h.others l fun hm => ?_⟩
  obtain ⟨c, h1, h2, h3, e⟩ := mem_memberSlots.1 hm
  exact hl c h1 h2 h3 e

theorem membersFree_iff {s : State} {n : Nat} : s.membersFree n ↔
    ((memberSlots s.focus.l n).all fun m => decide ((s.ctx m).state = 0#3) && (s.ctx m).reserved.isNone && (s.ctx m).lead.isNone) = true := by
  simp only [State.membersFree, List.all_eq_true, Bool.and_eq_true, decide_eq_true_eq, Option.isNone_iff_eq_none, and_assoc]
  constructor
  · intro h m hm
    obtain ⟨c, h1, h2, h3, rfl⟩ := mem_memberSlots.1 hm
    exact h c h1 h2 h3
  · exact fun h c h1 h2 h3 => h _ (mem_memberSlots.2 ⟨c, h1, h2, h3, rfl⟩)

/-- Transit does not change with other contexts. -/
theorem tokensOf_others {s t : State} {b : Block} {xs : List Sending} (hr : t = { s with ctxs := t.ctxs }) (hc : t.ctx s.focus.l = s.ctx s.focus.l) :
    t.tokensOf b xs = s.tokensOf b xs := by
  have hf : t.focus = s.focus := by rw [hr]
  have hn : t.now = s.now := by rw [hr]
  have ht : ∀ m n, t.transit s.focus.l b m n = s.transit s.focus.l b m n := transit_alike (by rw [hc]) (alike_refl b)
  have : ∀ lat tok, t.tokenTo b lat tok = s.tokenTo b lat tok := fun lat tok => by
    funext x
    cases x with
    | none => rfl
    | into o n => simp only [State.tokenTo, hf, hn, ht]
  simp only [State.tokensOf, this]

section compose
variable {s : State} {b : Block} {p : Pred} {t1 t0 : Target} {v : W64} {n : Nat}

/-- `COMPOSE` of free slots reserves them and delivers 0, of others it delivers 1. -/
theorem compose_reserves (h1 : 1 ≤ n) (h3 : n ≤ 3) (hb : s.firingBlock b) (hp : predFall p (b.tok s .x) = .taken) (hv : b.gives s [.l] [v])
    (hn : v.toNat = n) (hl : (s.ctx s.focus.l).lead = none) (hf : s.membersFree n) :
    ∃ s0 t, s.reserving n s0 ∧ exec (.compose p t1 t0) s = .next t ∧
      s0.Fired t b (b.withAct s (.compose (memberSlots s.focus.l n))) (s.tokensOf b [(0, .val 0#64, [t0, t1])]) := by
  have hres := reserveSlots_reserving s n
  have hown : ((Act.reserveSlots (memberSlots s.focus.l n)).run s).ctx s.focus.l = s.ctx s.focus.l :=
    (reserveSlots_sets _ s).others _ fun hm => memberSlots_toCore hm rfl
  have hrun : exec (.compose p t1 t0) s = .next (Act.settleFocus.run ((Act.send 0 (.val 0#64) [t0, t1]).run
      ((Act.atCommit (.compose (memberSlots s.focus.l n))).run ((Act.reserveSlots (memberSlots s.focus.l n)).run s)))) := by
    have hno : ¬ (n = 0 ∨ 4 ≤ n ∨ (s.ctx s.focus.l).lead.isSome = true) := by
      rw [hl]
      rintro (h | h | h)
      · omega
      · omega
      · cases h
    change execCompose p t1 t0 s = _
    rw [execCompose, slotStep, done, run_seq, run_firing hb hp hv, run_read]
    have harg : (arg [v] 0).toNat = n := hn
    simp only [harg, hno, if_false, membersFree_iff.1 hf, if_true]
    rfl
  refine ⟨_, _, hres, hrun, ?_⟩
  generalize (Act.reserveSlots (memberSlots s.focus.l n)).run s = s0 at hres hown
  have hr := hres.1
  have hf : s0.focus = s.focus := by rw [hr]
  have h0 : s0.firingBlock b := firingBlock_congr hf (congrArg Context.block hown) hb
  have h1 := Fired_atCommit h0 (.compose (memberSlots s.focus.l n))
  have h2 := Fired_send (lat := 0) (tok := .val 0#64) (ts := [t0, t1]) h0 (b' := b.withAct s0 (.compose (memberSlots s.focus.l n))) ⟨rfl, rfl, rfl⟩ h1
  rw [tokensOf_others hr hown] at h2
  have hw : b.withAct s0 (.compose (memberSlots s.focus.l n)) = b.withAct s (.compose (memberSlots s.focus.l n)) := by
    rw [Block.withAct, Block.withAct, hf]
  exact Fired_settle h0 ⟨rfl, rfl, rfl⟩ (hw ▸ h2)
theorem compose_refuses (h1 : 1 ≤ n) (h3 : n ≤ 3) (hb : s.firingBlock b) (hp : predFall p (b.tok s .x) = .taken) (hv : b.gives s [.l] [v])
    (hn : v.toNat = n) (hl : (s.ctx s.focus.l).lead = none) (hf : ¬ s.membersFree n) :
    ∃ t, exec (.compose p t1 t0) s = .next t ∧ s.Fired t b b (s.tokensOf b [(0, .val 1#64, [t0, t1])]) := by
  refine ⟨_, ?_, Fired_settle hb (alike_refl b) (Fired_send (lat := 0) (tok := .val 1#64) (ts := [t0, t1]) (xs := []) hb (alike_refl b) (fired_refl hb))⟩
  have hno : ¬ (n = 0 ∨ 4 ≤ n ∨ (s.ctx s.focus.l).lead.isSome = true) := by
    rw [hl]
    rintro (h | h | h)
    · omega
    · omega
    · cases h
  change execCompose p t1 t0 s = _
  rw [execCompose, slotStep, done, run_seq, run_firing hb hp hv, run_read]
  have harg : (arg [v] 0).toNat = n := hn
  simp only [harg, hno, if_false, mt membersFree_iff.2 hf, Bool.false_eq_true]

end compose

section commits

/-- The contexts of a core and the places of their predicted blocks have its place. -/
theorem coreMates_toCore {l m : Loc} (h : m ∈ coreMates l) : m.toCore = l.toCore := by
  rcases List.mem_cons.1 h with rfl | h
  · rfl
  · obtain ⟨k, _, rfl⟩ := List.mem_map.1 h
    rfl

/-- THE COMMIT OF AN ACT ON THE CONTEXT AND ON CONTEXTS OF OTHER CORES: their control state is as the act leaves it. -/
theorem actCommits_sets {s : State} {l : Loc} {ep : Nat} {op : CommitOp} {ms : List Loc} {g h : Context → Context} (hm : ∀ m ∈ ms, m.toCore ≠ l.toCore)
    (hg : ∀ c d, c.same d → (g c).same (g d)) (hh : ∀ c u, h { c with unacquired := u } = { h c with unacquired := u })
    (hk : ∀ c, ((g c).state = c.state ∧ (g c).stopReq = c.stopReq ∧ (g c).window = c.window ∧ (g c).trapWait = c.trapWait ∧ (g c).prio = c.prio)
      ∧ (g c).late = c.late ∧ (g c).surplus = c.surplus ∧ (g c).faultQ = c.faultQ)
    (hrun : ∀ b slot u v, s.Stirs u l → v = (Act.commitOp l b slot op).run u → ∃ w, u.Sets w ms h ∧ v = (Act.ctx l g).run w) :
    s.actCommits l ep op fun b t => s.memKept t ∧ s.leavesAs t l b (g (s.ctx l)) ∧ ∀ m ∈ ms, ∃ u, t.ctx m = { h (s.ctx m) with unacquired := u } := by
  refine actCommits_of fun b slot u v _ _ hu hs ho hv => ?_
  obtain ⟨w, hw, rfl⟩ := hrun b slot u v hu hv
  have hmates : ∀ m, m.toCore = l.toCore → w.ctx m = u.ctx m := fun m e => hw.others m fun hx => hm m hx e
  have hsw : w.steady l := by
    have hl := hmates l rfl
    refine ⟨hs.own, ?_, ?_, ?_, ?_, fun k => ?_⟩
    · rw [hl]; exact hs.runs
    · rw [hl]; exact hs.stop
    · rw [hl]; exact hs.window
    · rw [hl]; exact hs.trap
    · rw [hl, hmates { l with ctx := k } rfl]; exact hs.best k
  have how : w.unowed l := by
    unfold State.unowed
    rw [hmates l rfl]
    exact ho
  refine ⟨steady_own hsw (fun c => ⟨(hk c).1.1, (hk c).1.2.1, (hk c).1.2.2.1, (hk c).1.2.2.2.1⟩) fun k _ hk1 => ?_,
    unowed_own how fun c => (hk c).2, fun t ht =>
    ⟨memKept_commit hu (by rw [hw.rest]; exact memKept_refl u) ht, ?_, fun m hmem => ?_⟩⟩
  · rw [(hk _).1.2.2.2.2]
    exact hsw.best k hk1
  · refine leavesAs_of ht (by rw [run_now, show w.now = u.now by rw [hw.rest], Stirs_now hu]) ?_
    rw [run_ctx, ctx_apply_ctx, hmates l rfl]
    exact hg _ _ (Stirs_same hu l)
  · have hne : m ≠ l := fun e => hm m hmem (congrArg Loc.toCore e)
    have hfar : m ∉ coreMates l := fun e => hm m hmem (coreMates_toCore e)
    obtain ⟨x, e1⟩ := hu.far m hfar
    obtain ⟨y, e2⟩ := (Departs_within ht).ctxs m hfar
    refine ⟨y, ?_⟩
    rw [e2, run_ctx, ctx_apply_ctx_other _ _ _ _ hne, hw.these m hmem, e1]
    rw [hh]

/-- `COMPOSE` at commit. -/
theorem compose_commits (s : State) (l : Loc) (ep : Nat) (ms : List Loc) (hm : ∀ m ∈ ms, m.toCore ≠ l.toCore) :
    s.actCommits l ep (.compose ms) fun b t => s.memKept t ∧
      let n := Nat.log2 (ms.length + 1)
      s.leavesAs t l b { s.ctx l with lead := some (l, n) } ∧
      ∀ m ∈ ms, ∃ u, t.ctx m = { s.ctx m with state := 2#3, reserved := none, lead := some (l, n), unacquired := u } := by
  refine actCommits_sets (g := fun x => { x with lead := some (l, Nat.log2 (ms.length + 1)) })
    (h := fun x => { x with state := 2#3, reserved := none, lead := some (l, Nat.log2 (ms.length + 1)) }) hm ?_ (fun _ _ => rfl)
    (fun _ => ⟨⟨rfl, rfl, rfl, rfl, rfl⟩, rfl, rfl, rfl⟩) fun b slot u v _ hv => ?_
  · rintro c _ ⟨st, u, r, b, rfl⟩
    exact ⟨st, u, r, b, rfl⟩
  · exact ⟨_, run_eachSets (P := fun _ => True) (g := fun x => { x with state := 2#3, reserved := none, lead := some (l, Nat.log2 (ms.length + 1)) })
      (fun _ => rfl) (fun _ _ => trivial) (fun m s _ => sets_ctx m _ s) ms u fun _ _ => trivial, hv⟩

/-- A member slot is left: its window is empty, and it is DORMANT and of no composition. -/
theorem sets_leaveSlot (m : Loc) (s : State) (hw : (s.ctx m).window = []) :
    s.Sets ((Act.all [.applyWindow m, .ctx m fun x => { x with state := 0#3, lead := none }, .event 0 (.contextAllocation m.toCore)]).run s) [m]
      fun x => { x with state := 0#3, lead := none, window := [] } := by
  have h : (Act.applyWindow m).run s = (Act.ctx m fun c => { c with window := [] }).run s := by simp [Act.applyWindow, hw]
  simp only [run_all_cons, run_all_nil, h]
  refine ⟨rfl, fun x hx => ?_, fun x hx => ?_, fun q hq => (mem_schedule _ _ _).2 (.inr hq)⟩
  · rw [List.mem_singleton.1 hx]
    simp only [run_event, ctx_apply_sched, run_ctx, ctx_apply_ctx]
  · have hx : x ≠ m := fun e => hx (List.mem_singleton.2 e)
    simp only [run_event, ctx_apply_sched, run_ctx, ctx_apply_ctx_other _ _ _ _ hx]

/-- `RELEASE` at commit. -/
theorem release_commits (s : State) (l : Loc) (ep : Nat) (x : Loc) (n : Nat) (hl : (s.ctx l).lead = some (x, n))
    (hw : ∀ m ∈ memberSlots l n, (s.ctx m).window = []) :
    s.actCommits l ep .release fun b t => s.memKept t ∧ s.leavesAs t l b { s.ctx l with lead := none } ∧
      ∀ m ∈ memberSlots l n, ∃ u, t.ctx m = { s.ctx m with state := 0#3, lead := none, unacquired := u } := by
  have hset : ∀ {t : State}, (∀ m ∈ memberSlots l n, ∃ u, t.ctx m = { s.ctx m with state := 0#3, lead := none, window := [], unacquired := u }) →
      ∀ m ∈ memberSlots l n, ∃ u, t.ctx m = { s.ctx m with state := 0#3, lead := none, unacquired := u } := fun h m hm => by
    obtain ⟨u, e⟩ := h m hm
    exact ⟨u, by rw [e, ← hw m hm]⟩
  have hc : s.actCommits l ep .release fun b t => s.memKept t ∧ s.leavesAs t l b { s.ctx l with lead := none } ∧
      ∀ m ∈ memberSlots l n, ∃ u, t.ctx m = { s.ctx m with state := 0#3, lead := none, window := [], unacquired := u } := by
    refine actCommits_sets (g := fun x => { x with lead := none }) (h := fun x => { x with state := 0#3, lead := none, window := [] })
      (fun m hm => memberSlots_toCore hm) ?_ (fun _ _ => rfl) (fun _ => ⟨⟨rfl, rfl, rfl, rfl, rfl⟩, rfl, rfl, rfl⟩) fun b slot u v hu hv => ?_
    · rintro c _ ⟨st, u, r, b, rfl⟩
      exact ⟨st, u, r, b, rfl⟩
    · have hlead : (u.ctx l).lead = some (x, n) := (same_apply (Stirs_same hu l) (f := Context.lead) fun _ _ _ _ _ => rfl).trans hl
      have hwin : ∀ m ∈ memberSlots l n, (u.ctx m).window = [] := fun m hm =>
        (same_apply (Stirs_same hu m) (f := Context.window) fun _ _ _ _ _ => rfl).trans (hw m hm)
      refine ⟨_, run_eachSets (P := fun c => c.window = []) (g := fun x => { x with state := 0#3, lead := none, window := [] }) (fun _ => rfl) (fun _ _ => rfl)
        (fun m s h => sets_leaveSlot m s h) (memberSlots l n) u hwin, ?_⟩
      rw [hv, Act.commitOp, run_read, Act.decompose, run_read, hlead]
      rfl
  intro b hb hcur
  obtain ⟨t, ht, hm, hle, hs⟩ := hc b hb hcur
  exact ⟨t, ht, hm, hle, hset hs⟩

/-- `RELOC` at commit. -/
theorem reloc_commits (s : State) (l : Loc) (ep src dest reply : Nat) :
    s.actCommits l ep (.reloc src dest reply) fun b t => s.memKept t ∧ s.leavesAs t l b (s.ctx l) ∧
      s.planned t 0 (.relocTransfer ⟨l, { l with ctx := src }, dest, reply⟩) := by
  refine actCommits_kept fun b slot u v hu hv => ?_
  have hv : v = (Act.event 0 (.relocTransfer ⟨l, { l with ctx := src }, dest, reply⟩)).run u := hv
  subst hv
  exact ⟨memKept_refl u, fun _ => rfl, fun t ht => planned_commit hu (planned_event u _ _) ht⟩

end commits

/-- Settles O26: `compose_reserves`, the checks in their order, and the commits. -/
theorem compositionEffects : Obligations.CompositionEffects := by
  intro p t1 t0
  refine ⟨fun n h1 h3 s b v hb hp hv hn hl => ⟨compose_reserves h1 h3 hb hp hv hn hl, compose_refuses h1 h3 hb hp hv hn hl⟩, ?bad, ?release, ?alone, ?reloc,
    ?relocBad, fun s l ep => ⟨compose_commits s l ep, release_commits s l ep, reloc_commits s l ep⟩⟩
  case bad =>
    refine faults_of (by decide) (fun _ => rfl) fun s b vs _ _ h => ?_
    have h : (arg vs 0).toNat = 0 ∨ 4 ≤ (arg vs 0).toNat ∨ (s.ctx s.focus.l).lead.isSome = true := h.imp (fun e => by rw [e]; rfl) id
    simp only [run_read, h, if_true]
  case release =>
    refine holds_of (fun _ => rfl) fun s b vs _ h => ?_
    rw [run_read, if_neg (by simp [Option.isSome_iff_ne_none.1 h])]
    rfl
  case alone =>
    refine faults_of (by decide) (fun _ => rfl) fun s b vs _ _ h => ?_
    simp only [run_read, h, Option.isNone_none, if_true]
  case reloc =>
    refine holds_of (fun _ => rfl) fun s b vs _ ⟨hs, h8, hne, ht, hd, hdev, hc⟩ => ?_
    have hbit : bit (arg vs 1).toNat 24 = true := (bit_toNat _ _).trans hd
    have hdev : bits (arg vs 1).toNat 23 16 = (s.device s.focus.l).podpos := hdev
    have hbad : (decide (8 ≤ (arg vs 0).toNat) || tokenBad (arg vs 1).toNat || !bit (arg vs 1).toNat 24
        || bits (arg vs 1).toNat 23 16 != (s.device s.focus.l).podpos
        || (arg vs 0).toNat == s.focus.l.ctx) = false := by
      simp [tokenBad_legal ht, hbit, hdev, hne, Nat.not_le.2 h8]
    simp only [run_read, hs, hbad, hc, Bool.not_true, ne_eq, not_true_eq_false, if_false, Bool.false_eq_true]
    rfl
  case relocBad =>
    refine faults_of (by decide) (fun _ => rfl) fun s b vs _ _ ⟨hs, h⟩ => ?_
    have hbad : (decide (8 ≤ (arg vs 0).toNat) || tokenBad (arg vs 1).toNat || !bit (arg vs 1).toNat 24
        || bits (arg vs 1).toNat 23 16 != (s.device s.focus.l).podpos
        || (arg vs 0).toNat == s.focus.l.ctx) = true := by
      rw [bit_toNat]
      rcases h with h | h | h | h | h
      · simp [h]
      · simp [h]
      · simp [(tokenBad_iff _).2 h]
      · rw [h, Bool.not_false, Bool.or_true, Bool.true_or, Bool.true_or]
      · have h : bits (arg vs 1).toNat 23 16 ≠ (s.device s.focus.l).podpos := h
        simp [h]
    simp only [run_read, hs, hbad, Bool.not_true, if_false, if_true, Bool.false_eq_true]


/-! ## Vector and matrix entries (R169, R192, R203 to R205) -/

/-- What the vector instructions are instances of. -/
theorem vector_form {p : Pred} {c : VCond} {n : CodeTable} : ∀ x ∈ vectorForms p c n, ∀ s, exec x.1 s = fireVec x.2.1 x.2.2.1 x.2.2.2 s := by
  simp only [vectorForms, List.forall_mem_append, List.forall_mem_cons]
  refine ⟨⟨?_, ?_, ?_, ?_, ?_, ?_, ?_, ?_, ?_, ?_, ?_, ?_, ?_, ?_, ?_, ?_, ?_, ?_, ?_, ?_, ?_, ?_, by simp⟩,
    ?_, ?_, ?_, ?_, ?_, ?_, ?_, ?_, ?_, ?_, ?_, ?_, ?_, ?_, ?_, ?_, ?_, ?_, ?_, ?_, ?_, ?_, ?_, by simp⟩
  all_goals intro s; rfl
/-- What the matrix instructions are instances of. -/
theorem matrix_form {f : MmaPair} : ∀ x ∈ matrixForms f, ∀ s, exec x.1 s = fireMma x.2.1 x.2.2 s := by
  simp only [matrixForms, List.forall_mem_cons]
  refine ⟨?_, ?_, ?_, ?_, ?_, ?_, ?_, ?_, ?_, ?_, ?_, ?_, ?_, ?_, ?_, by simp⟩
  all_goals intro s; rfl

/-- The first of some causes, none of which is an uncorrectable error. -/
theorem find_cause_ne {cs : List Nat} {d : Nat} {f : Nat → Bool} (h : ∀ c ∈ cs, c ≠ 0x11) (hd : d ≠ 0x11) : (cs.find? f).getD d ≠ 0x11 := by
  cases hc : cs.find? f with
  | none => exact hd
  | some c => exact h c (List.mem_of_find?_eq_some hc)
theorem storeCause_ne (s : State) (l : Loc) (a n : Nat) : s.storeCause l a n ≠ 0x11 := by
  have := storeCause_cases s l a n
  intro h
  rw [h] at this
  revert this
  decide
theorem storeSpan_ne (s : State) (l : Loc) (a n al : Nat) : s.storeSpan l a n al ≠ 0x11 := by
  unfold State.storeSpan
  split
  · decide
  split
  · decide
  simp only
  split
  · split
    · decide
    · refine find_cause_ne (fun c hc => ?_) (find_cause_ne (fun c hc => ?_) (by decide))
      · obtain ⟨i, _, rfl⟩ := List.mem_map.1 hc
        exact storeCause_ne s l _ 1
      · simp only [List.mem_cons, List.not_mem_nil, or_false] at hc
        rcases hc with rfl | rfl <;> exact storeRange_ne s l _ 1
  · decide
/-- No check of a vector instruction answers an uncorrectable error. -/
theorem vecCause_ne (s : State) (l : Loc) (op : Vop) (x y z : Nat) : (s.vecCause l op x y z).1 ≠ 0x11 := by
  unfold State.vecCause
  simp only
  repeat' split
  all_goals first | exact storeSpan_ne _ _ _ _ _ | simp

section ring
variable {p : Pred} {i : Instr} {os : List Opnd}

theorem holds_vector {op : Vop} (he : ∀ s, exec i s = fireVec op p os s) :
    Holds i p os (fun s vs => (s.vecCause s.focus.l op (arg vs 0).toNat (arg vs 1).toNat (arg vs 2).toNat).1 = 0)
      fun _ vs => .ring (.vec op (arg vs 0).toNat (arg vs 1).toNat (arg vs 2).toNat) :=
  holds_of he fun s b vs _ h => by simp only [run_read, h, ne_eq, not_true_eq_false, if_false]
theorem faults_vector {op : Vop} (he : ∀ s, exec i s = fireVec op p os s) {k : Nat} (hk : k ≠ 0) (d : Nat) :
    Faults i p os (fun s _ vs => s.vecCause s.focus.l op (arg vs 0).toNat (arg vs 1).toNat (arg vs 2).toNat = (k, d)) k 0 fun _ => d := by
  by_cases h11 : k = 0x11
  · intro s b vs _ _ _ h
    exact absurd (congrArg Prod.fst h |>.trans h11) (vecCause_ne s _ op _ _ _)
  · exact faults_of h11 he fun s b vs _ _ h => by simp only [run_read, h, hk, ne_eq, not_false_iff, if_true]
theorem holds_matrix {pr : MmaPair} {rot : Bool} (he : ∀ s, exec i s = fireMma pr rot s) :
    Holds i .always [.l, .r, .x] (fun s vs => (s.mmaCause s.focus.l pr rot (arg vs 0).toNat (arg vs 1).toNat (arg vs 2).toNat).1 = 0)
      fun s vs => .ring (.mma pr rot (s.homeBytes s.focus.l (arg vs 0).toNat 32) (s.homeBytes s.focus.l (arg vs 1).toNat 32) (arg vs 0).toNat (arg vs 2).toNat) :=
  holds_of he fun s b vs _ h => by simp only [run_read, h, ne_eq, not_true_eq_false, if_false]
theorem faults_matrix {pr : MmaPair} {rot : Bool} (he : ∀ s, exec i s = fireMma pr rot s) :
    Faults i .always [.l, .r, .x] (fun s _ _ => pairRuns pr s.focus.l.narrow = false) 0x0A 0 fun _ => 0 :=
  faults_of (by decide) he fun s b vs _ _ h => by
    have hc : s.mmaCause s.focus.l pr rot (arg vs 0).toNat (arg vs 1).toNat (arg vs 2).toNat = (0x0A, 0, 0) := by rw [State.mmaCause, h]; rfl
    simp only [run_read, hc]
    rfl
theorem holds_macc {m : MaccOp} (he : ∀ s, exec i s = fireMacc m p os s) :
    Holds i p os (fun _ vs => (maccCause m (arg vs 0).toNat (arg vs 1).toNat).1 = 0) fun _ vs => .ring (.macc m (arg vs 0).toNat (arg vs 1).toNat) :=
  holds_of he fun s b vs _ h => by simp only [run_read, h, ne_eq, not_true_eq_false, if_false]
theorem faults_macc {m : MaccOp} (he : ∀ s, exec i s = fireMacc m p os s) :
    Faults i p os (fun _ _ vs => 128 ≤ (arg vs 0).toNat) 1 0 fun _ => 0 :=
  faults_of (by decide) he fun s b vs _ _ h => by
    have hc : maccCause m (arg vs 0).toNat (arg vs 1).toNat = (1, 0) := if_pos (.inl (by omega))
    simp only [run_read, hc]
    rfl

/-- The slot state word is that of `MACC.QUERY`. -/
theorem word_slotStateWord (k : AccSlot) : k.word k.seq = slotStateWord k := by
  have h1 : min k.npend 255 % 2 ^ 8 = min k.npend 255 := Nat.mod_eq_of_lt (by omega)
  have h2 : field (boolNat k.poison) 1 4 = if k.poison then 16 else 0 := by cases k.poison <;> rfl
  have h3 : field k.st 2 0 = k.st % 4 := by simp [field]
  rw [AccSlot.word, h2, h3]
  simp only [field, h1]
  rfl
theorem query_delivers (t1 t0 : Target) :
    Completes (.maccQuery p t1 t0) p [.l] (fun _ _ vs => (arg vs 0).toNat < 32) (fun _ b _ => b) fun s b vs =>
      s.tokensOf b [(0, .val (BitVec.ofNat 64 (slotStateWord ((s.polder s.focus.l).slotAt (arg vs 0).toNat))), [t0, t1])] := by
  refine completes_of (fun _ => rfl) fun s b vs hb _ h => ⟨alike_refl b, ?_⟩
  have h0 : ¬ (arg vs 0).toNat / 32 ≠ 0 := by omega
  have hb5 : bits (arg vs 0).toNat 4 0 = (arg vs 0).toNat := by simp [bits]; omega
  rw [run_read]
  simp only [h0, if_false, hb5, word_slotStateWord]
  exact Fired_send (xs := []) hb (alike_refl b) (fired_refl hb)
theorem query_faults (t1 t0 : Target) : Faults (.maccQuery p t1 t0) p [.l] (fun _ _ vs => 32 ≤ (arg vs 0).toNat) 1 0 fun _ => 0 := by
  refine faults_of (by decide) (fun _ => rfl) fun s b vs _ _ h => ?_
  have h0 : (arg vs 0).toNat / 32 ≠ 0 := by omega
  rw [run_read]
  simp only [h0, ne_eq, not_false_iff, if_true]
  rfl

end ring

/-! ## The commit of what a block holds for the ring (R66, R207, R264) -/

/-- The entry is dispatched for the context as it stands. -/
def State.enters (s : State) (l : Loc) (e : RingEntry) : Prop :=
  e.owner = l ∧ e.thread = (s.ctx l).thread ∧ e.phase = .dispatched ∧ e.cause = 0 ∧ e.pasid = (s.ctx l).pasid.toNat ∧ e.part = s.partOf l ∧
    e.sup = (s.ctx l).sup ∧ e.rm = (s.ctx l).fm.toNat / 2 ^ 8 % 8 ∧ e.pol = (s.ctx l).pol

/-- The machine with entries `es` behind those of the ring, under the core's next sequence numbers. -/
structure State.Rings (s t : State) (l : Loc) (es : List RingEntry) : Prop where
  mem : s.memKept t
  now : t.now = s.now
  part : t.partOf l = s.partOf l
  bytes : ∀ a n, t.homeBytes l a n = s.homeBytes l a n
  own : t.ctx l = { s.ctx l with dseq := if es = [] then (s.ctx l).dseq else (s.core l).seq + BitVec.ofNat 16 (es.length - 1) }
  others : ∀ m, m ≠ l → t.ctx m = s.ctx m
  ring : (t.core l).ring = (s.core l).ring ++ es
  seq : (t.core l).seq = (s.core l).seq + BitVec.ofNat 16 es.length
  seqs : es.map (fun e => e.seq) = (List.range es.length).map fun i => (s.core l).seq + BitVec.ofNat 16 i
  made : ∀ e ∈ es, s.enters l e

theorem rings_refl (s : State) (l : Loc) : s.Rings s l [] :=
  ⟨memKept_refl s, rfl, rfl, fun _ _ => rfl, rfl, fun _ _ => rfl, by simp, by simp, rfl, fun e he => (by cases he)⟩
theorem succ_seq (x : BitVec 16) (n : Nat) : x + 1#16 + BitVec.ofNat 16 n = x + BitVec.ofNat 16 (n + 1) := by
  rw [BitVec.add_assoc, ← BitVec.ofNat_add, Nat.add_comm]
theorem rings_cons {s t u : State} {l : Loc} {e : RingEntry} {es : List RingEntry} (h : s.Rings t l [e]) (k : t.Rings u l es) : s.Rings u l (e :: es) := by
  have hseq : (t.core l).seq = (s.core l).seq + 1#16 := h.seq
  have he : e.seq = (s.core l).seq := by simpa using h.seqs
  refine ⟨memKept_trans h.mem k.mem, k.now.trans h.now, k.part.trans h.part, fun a n => (k.bytes a n).trans (h.bytes a n), ?_,
    fun m hm => (k.others m hm).trans (h.others m hm), ?_, ?_, ?_, fun x hx => ?_⟩
  · rw [k.own, h.own, hseq]
    by_cases hes : es = []
    · simp [hes]
    · have hlen : es.length - 1 + 1 = es.length := Nat.sub_add_cancel (List.length_pos_iff.2 hes)
      simp only [hes, if_false, succ_seq, hlen, reduceCtorEq, List.length_cons, Nat.add_sub_cancel]
  · rw [k.ring, h.ring]
    simp
  · rw [k.seq, hseq, succ_seq, List.length_cons]
  · rw [List.map_cons, k.seqs, List.length_cons, List.range_succ_eq_map, List.map_cons, List.map_map, he, hseq]
    simp only [succ_seq]
    simp [Function.comp_def]
  · rcases List.mem_cons.1 hx with rfl | hx
    · exact h.made _ (.head _)
    · have := k.made x hx
      simp only [State.enters, h.own, h.part] at this
      exact this

/-- What an operation enters is a `dispatch` of it. -/
theorem rings_dispatch (s : State) (l : Loc) (op : RingOp) (bad : Bool) : ∃ e, s.Rings ((Act.dispatch l op bad).run s) l [e] ∧ e.op = op := by
  have key : ∀ a : Act, (∀ v : State, a.run v = { v with cores := (a.run v).cores, agenda := (a.run v).agenda } ∧
      ∀ m, ∃ y, (a.run v).core m = { v.core m with vecBusy := y }) → ∀ e : RingEntry, e.seq = (s.core l).seq → s.enters l e →
      s.Rings (a.run ((Act.seq (.core l fun x => { x with ring := x.ring ++ [e], seq := x.seq + 1#16 })
        (.ctx l fun x => { x with dseq := (s.core l).seq })).run s)) l [e] := by
    intro a ha e hseq he
    rw [run_seq]
    generalize hv : (Act.ctx l fun x => { x with dseq := (s.core l).seq }).run
      ((Act.core l fun x => { x with ring := x.ring ++ [e], seq := x.seq + 1#16 }).run s) = v
    have hrest : v = { s with ctxs := v.ctxs, cores := v.cores } := by rw [← hv]; rfl
    have hown : v.ctx l = { s.ctx l with dseq := (s.core l).seq } := by rw [← hv, run_ctx, ctx_apply_ctx]; rfl
    have hoth : ∀ m, m ≠ l → v.ctx m = s.ctx m := fun m hm => by rw [← hv, run_ctx, ctx_apply_ctx_other _ _ _ _ hm]; rfl
    have hcore : v.core l = { s.core l with ring := (s.core l).ring ++ [e], seq := (s.core l).seq + 1#16 } := by
      rw [← hv]
      exact core_apply_core l (fun x => { x with ring := x.ring ++ [e], seq := x.seq + 1#16 }) s
    obtain ⟨hr, hc⟩ := ha v
    generalize a.run v = t at hr hc
    obtain ⟨y, hy⟩ := hc l
    have hctx : ∀ m, t.ctx m = v.ctx m := fun m => by rw [hr]; rfl
    have hall : t = { s with ctxs := t.ctxs, cores := t.cores, agenda := t.agenda } := by rw [hr, hrest]
    refine ⟨?_, by rw [hr, hrest], by rw [hr, hrest]; rfl, homeBytes_congr hall l, ?_, fun m hm => (hctx m).trans (hoth m hm), ?_, ?_, ?_, ?_⟩
    · rw [hall]
      exact ⟨fun _ => rfl, fun _ => rfl, fun _ => rfl⟩
    · rw [hctx, hown]
      simp
    · rw [hy, hcore]
    · rw [hy, hcore]
      rfl
    · simp [hseq]
    · intro x hx
      rwa [List.mem_singleton.1 hx]
  have hev : ∀ d e, ∀ v : State, ((Act.event d e).run v = { v with cores := ((Act.event d e).run v).cores, agenda := ((Act.event d e).run v).agenda } ∧
      ∀ m, ∃ y, ((Act.event d e).run v).core m = { v.core m with vecBusy := y }) := fun d e v => ⟨rfl, fun m => ⟨_, rfl⟩⟩
  rw [Act.dispatch, run_read]
  simp only [run_all_cons, run_all_nil]
  refine ⟨_, key _ ?_ _ rfl ⟨rfl, rfl, rfl, rfl, rfl, rfl, rfl, ?_, rfl⟩, rfl⟩
  · cases op.unit with
    | vector =>
      intro v
      cases hb : (s.core l).vecBusy with
      | true => exact ⟨rfl, fun m => ⟨_, rfl⟩⟩
      | false =>
        refine ⟨rfl, fun m => ?_⟩
        by_cases hm : m.toCore = l.toCore
        · exact ⟨true, core_apply_core_of hm (fun x => { x with vecBusy := true }) v⟩
        · exact ⟨_, core_apply_core_other l m (fun x => { x with vecBusy := true }) v hm⟩
    | matrix => exact hev _ _
    | copy => exact hev _ _
    | collective => exact hev _ _
  · simp [bits]

/-- Counting changes one polder, in its counters alone. -/
theorem counted_polder (l : Loc) (off : Nat) (s : State) (m : Loc) :
    ∃ c, ((Act.count l off).run s).polder m = { s.polder m with counters := c } := by
  by_cases h : m.toPolder = l.toPolder
  · have hm : ∀ t : State, t.polder m = t.polder l := fun t => by simp only [State.polder, h]
    refine ⟨bumpIn off 1 (s.polder l).counters, ?_⟩
    rw [hm, hm]
    exact polder_apply_polder l (fun p => { p with counters := bumpIn off 1 p.counters }) s
  · exact ⟨_, polder_apply_polder_other l m (fun p => { p with counters := bumpIn off 1 p.counters }) s h⟩
/-- Memory shows the same where polders differ in their counters only. -/
theorem homeBytes_counters {s t : State} (hr : t = { s with polders := t.polders }) (hp : ∀ m, ∃ c, t.polder m = { s.polder m with counters := c })
    (l : Loc) (a n : Nat) : t.homeBytes l a n = s.homeBytes l a n := by
  rw [State.homeBytes, State.homeBytes]
  cases hh : homePlace l a with
  | none => rfl
  | some q =>
    obtain ⟨h4, h6⟩ := homePlace_space hh
    have hm : t.mem = s.mem := by rw [hr]
    have hd : ∀ m, t.device m = s.device m := fun m => by rw [hr]; rfl
    have hentry : ∀ l o, t.homeMapEntry l o = s.homeMapEntry l o := fun l o => by
      obtain ⟨c, hc⟩ := hp l
      simp only [State.homeMapEntry, State.num, hc, hm]
      rfl
    have htier : ∀ l o, t.tierKey l o = s.tierKey l o := fun l o => by simp only [State.tierKey, hentry, hd]
    have hf : t.isFresh q = s.isFresh q := by
      obtain ⟨c, hc⟩ := hp q.owner
      simp only [State.isFresh, State.freshBit, hc, hentry]
    have hk : t.keyOf q = s.keyOf q := by
      obtain ⟨c, hc⟩ := hp q.owner
      unfold State.keyOf
      split
      case h_5 e => exact absurd e h4
      all_goals simp only [htier, hc]
    simp only [State.placeBytes, h6, if_false, hf, hk, hm]

/-- What was counted before does not show in the ring. -/
theorem rings_counted {s t : State} {l m : Loc} {off : Nat} {es : List RingEntry} (h : ((Act.count m off).run s).Rings t l es) : s.Rings t l es := by
  have hp := counted_polder m off s
  have hb := homeBytes_counters (s := s) (t := (Act.count m off).run s) rfl hp
  have hc : ((Act.count m off).run s).ctx l = s.ctx l := rfl
  have hpart : ((Act.count m off).run s).partOf l = s.partOf l := by
    obtain ⟨c, hc⟩ := hp l
    simp only [State.partOf, hc]
  refine ⟨h.mem, h.now, h.part.trans hpart, fun a n => (h.bytes a n).trans (hb l a n), h.own, h.others, h.ring, h.seq, h.seqs, fun e he => ?_⟩
  have := h.made e he
  rwa [State.enters, hc, hpart] at this

theorem rings_op {s : State} {l : Loc} {b : Block} {slot : Nat} {op : CommitOp} {o : RingOp} (h : s.ringOpOf l op = some o) :
    ∃ e, s.Rings ((Act.commitOp l b slot op).run s) l [e] ∧ e.op = o := by
  have hpush : ∀ (bad : Bool) (o : RingOp), ∃ e, s.Rings ((Act.seq (.when bad (.count l 0x358)) (.dispatch l o bad)).run s) l [e] ∧ e.op = o := by
    intro bad o
    cases bad with
    | false => exact rings_dispatch s l o false
    | true =>
      obtain ⟨e, he, ho⟩ := rings_dispatch ((Act.count l 0x358).run s) l o true
      exact ⟨e, rings_counted he, ho⟩
  have hbits : ∀ x, bits x 39 0 = x % 2 ^ 40 := fun x => by simp [bits]
  unfold State.ringOpOf at h
  split at h
  · cases h
    exact rings_dispatch s l o false
  case h_5 => cases h
  all_goals
    cases h
    rw [← hbits, Act.commitOp, run_read]
    exact hpush _ _

/-- Which operation an act enters does not change as the acts before it enter theirs. -/
theorem ringOpOf_congr {s t : State} {l : Loc} (h : ∀ a n, t.homeBytes l a n = s.homeBytes l a n) (op : CommitOp) : t.ringOpOf l op = s.ringOpOf l op := by
  unfold State.ringOpOf
  split <;> simp only [h]

/-- ACTS THAT ALL ENTER AN OPERATION enter them in their order. -/
theorem rings_acts {l : Loc} {b : Block} (as : List (Nat × CommitOp)) (s : State) (h : ∀ a ∈ as, (s.ringOpOf l a.2).isSome = true) :
    ∃ es, s.Rings ((Act.each as fun a => .commitOp l b a.1 a.2).run s) l es ∧ es.map (fun e => e.op) = as.filterMap fun a => s.ringOpOf l a.2 := by
  induction as generalizing s with
  | nil => exact ⟨[], rings_refl s l, rfl⟩
  | cons a as ih =>
    obtain ⟨o, ho⟩ := Option.isSome_iff_exists.1 (h a (.head _))
    obtain ⟨e, he, hop⟩ := rings_op (b := b) (slot := a.1) ho
    rw [run_each_cons]
    generalize (Act.commitOp l b a.1 a.2).run s = t at he
    have hsame : ∀ op, t.ringOpOf l op = s.ringOpOf l op := ringOpOf_congr he.bytes
    obtain ⟨es, hes, hops⟩ := ih t fun x hx => by rw [hsame]; exact h x (.tail _ hx)
    refine ⟨e :: es, rings_cons he hes, ?_⟩
    simp only [List.map_cons, hop, hops, List.filterMap_cons, ho, hsame]

/-- A context whose last ring entry alone has changed stays steady and owed nothing. -/
theorem rings_steady {s t : State} {l : Loc} {es : List RingEntry} (h : s.Rings t l es) (hs : s.steady l) : t.steady l := by
  have hc : ∀ m, ∃ d, t.ctx m = { s.ctx m with dseq := d } := fun m => by
    by_cases hm : m = l
    · exact ⟨_, hm ▸ h.own⟩
    · exact ⟨_, h.others m hm⟩
  obtain ⟨d, e⟩ := hc l
  refine ⟨hs.own, by rw [e]; exact hs.runs, by rw [e]; exact hs.stop, by rw [e]; exact hs.window, by rw [e]; exact hs.trap, fun k hk => ?_⟩
  obtain ⟨d', e'⟩ := hc { l with ctx := k }
  rw [e'] at hk ⊢
  rw [e]
  exact hs.best k hk
theorem rings_unowed {s t : State} {l : Loc} {es : List RingEntry} (h : s.Rings t l es) (hs : s.unowed l) : t.unowed l := by
  rw [State.unowed, h.own]
  exact hs

/-- What a block holds for the ring enters it at its commit (R66, R264). -/
theorem ring_commits {s : State} {l : Loc} {ep n : Nat} {b : Block} (h : s.commits l ep b) (hs : s.steady l) (ho : s.unowed l) (he : b.exit = some (.goto n))
    (hw : ∀ w ∈ b.writes, 16 ≤ w.1 ∧ w.1 ≠ 19) (hst : b.stores = []) (hp : b.pops = []) (ha : ∀ a ∈ b.acts, (s.ringOpOf l a.2).isSome = true) :
    s.Runs .blockCommit (.blockCommit l ep) fun t => s.memKept t ∧
      ∃ es : List RingEntry, (t.core l).ring = (s.core l).ring ++ es ∧
        es.map (fun e => e.op) = b.actsInOrder.filterMap (fun a => s.ringOpOf l a.2) ∧
        es.map (fun e => e.seq) = (List.range es.length).map (fun i => (s.core l).seq + BitVec.ofNat 16 i) ∧ (∀ e ∈ es, s.enters l e) ∧
        s.leavesAs t l b { s.ctx l with dseq := if es = [] then (s.ctx l).dseq else (s.core l).seq + BitVec.ofNat 16 (es.length - 1) } := by
  intro hcur
  obtain ⟨u, hu, hrun⟩ := commit_of h he hs hw hst hp hcur
  have hb := homeBytes_congr (s := s) (t := u) hu.rest l
  obtain ⟨es, hes, hops⟩ := rings_acts (l := l) (b := b) b.actsInOrder u fun a hm => by
    rw [ringOpOf_congr hb]
    exact ha a (mem_sortBy.1 hm)
  obtain ⟨t, ht, hd⟩ := hrun (rings_steady hes (Stirs_steady hu hs)) (rings_unowed hes (Stirs_unowed hu ho))
  obtain ⟨st, x, r, b', e⟩ := Stirs_same hu l
  have hseq : (u.core l).seq = (s.core l).seq := Stirs_core hu (fun _ _ _ => rfl) l
  have hring : (u.core l).ring = (s.core l).ring := Stirs_core hu (fun _ _ _ => rfl) l
  have hpart : u.partOf l = s.partOf l := by rw [hu.rest]; rfl
  refine ⟨t, ht, memKept_commit hu hes.mem hd, es, ?_, ?_, ?_, fun q hq => ?_, leavesAs_of hd (hes.now.trans (Stirs_now hu)) ?_⟩
  · rw [Departs_core hd (f := CoreState.ring) (fun _ _ _ => rfl), ← hring]
    exact hes.ring
  · rw [hops]
    simp only [ringOpOf_congr hb]
  · rw [hes.seqs, hseq]
  · have := hes.made q hq
    rw [State.enters, hpart, e] at this
    exact this
  · exact ⟨st, x, r, b', by rw [Act.acts, hes.own, e, hseq]⟩

/-- Settles O22: a firing holds one entry or faults, and a commit enters the entries one by one, each leaving what the next one's record reads. -/
theorem coprocessorHeld : Obligations.CoprocessorHeld := by
  refine ⟨fun p c n x hx => ⟨holds_vector fun s => vector_form x hx s, fun k hk d => faults_vector (fun s => vector_form x hx s) hk d⟩,
    ⟨fun p f => ⟨fun x hx => ⟨holds_matrix fun s => matrix_form x hx s, faults_matrix fun s => matrix_form x hx s⟩, ?_⟩,
      fun p t1 t0 => ⟨query_delivers t1 t0, query_faults t1 t0⟩⟩, fun s l ep b h hs ho he hw hst hp ha => ?_⟩
  · have hf : ∀ x ∈ [(Instr.maccZero p, MaccOp.zero, [Opnd.l]), (.maccReclaim p, .reclaim, [.l]), (.maccPark p, .park, [.l]),
        (.maccLoada p, .loada, [.l, .r]), (.maccStorea p, .storea, [.l, .r])], ∀ s, exec x.1 s = fireMacc x.2.1 p x.2.2 s := by
      simp only [List.forall_mem_cons]
      exact ⟨fun _ => rfl, fun _ => rfl, fun _ => rfl, fun _ => rfl, fun _ => rfl, by simp⟩
    exact fun x hx => ⟨holds_macc (hf x hx), faults_macc (hf x hx)⟩
  · obtain ⟨n, he⟩ := he
    exact ring_commits h hs ho he hw hst hp ha

end Sys2Proof.Machine
end

section
/-! SUPPORT. What a write of memory stirs and leaves (spec/05 R121, spec/15 R331), allocation, dispatch and refill of contexts, and stealing
(spec/03 R61, R62, spec/20 R389 to R397). -/

namespace Sys2Proof.Machine

/-! ## What a write of memory stirs (R121, R331, R365) -/

/-- A polder but for what a write of its memory stirs: its watches, its lines, its counters and the events of its slice core, with whether a
handler is due. -/
def PolderState.aside (p : PolderState) : PolderState := { p with watches := [], l2 := [], counters := [], events := [], eventOrder := 0, handlerDue := false }

/-- `t` differs from `s` in what a write stirs at the polder `p` and in a longer agenda. -/
structure State.Ripples (s t : State) (p : Loc) : Prop where
  rest : t = { s with polders := t.polders, agenda := t.agenda }
  near : ∀ m, (t.polder m).aside = (s.polder m).aside
  far : ∀ m, m.toPolder ≠ p.toPolder → t.polder m = s.polder m
  kept : ∀ x ∈ s.agenda, x ∈ t.agenda

theorem ripples_refl (s : State) (p : Loc) : s.Ripples s p := ⟨rfl, fun _ => rfl, fun _ _ => rfl, fun _ h => h⟩
theorem ripples_trans {s t u : State} {p : Loc} (h : s.Ripples t p) (k : t.Ripples u p) : s.Ripples u p :=
  ⟨by rw [k.rest, h.rest], fun m => (k.near m).trans (h.near m), fun m hm => (k.far m hm).trans (h.far m hm), fun x hx => k.kept x (h.kept x hx)⟩

/-- The act, run in any state, stirs no more at the polder. -/
def Act.Rippling (a : Act) (p : Loc) : Prop := ∀ s : State, s.Ripples (a.run s) p

section rippling
variable {p : Loc}

theorem rippling_skip : Act.skip.Rippling p := fun s => ripples_refl s p
theorem rippling_seq {a b : Act} (ha : a.Rippling p) (hb : b.Rippling p) : (Act.seq a b).Rippling p := fun s => ripples_trans (ha s) (hb _)
theorem rippling_read {k : State → Act} (h : ∀ s, (k s).Rippling p) : (Act.read k).Rippling p := fun s => h s s
theorem rippling_all {as : List Act} (h : ∀ a ∈ as, a.Rippling p) : (Act.all as).Rippling p := by
  induction as with
  | nil => exact rippling_skip
  | cons a as ih => exact rippling_seq (h a (.head _)) (ih fun b hb => h b (.tail _ hb))
theorem rippling_each {α : Type} {xs : List α} {f : α → Act} (h : ∀ x ∈ xs, (f x).Rippling p) : (Act.each xs f).Rippling p :=
  rippling_all fun a ha => by obtain ⟨x, hx, rfl⟩ := List.mem_map.1 ha; exact h x hx
theorem rippling_when {c : Bool} {a : Act} (h : a.Rippling p) : (Act.when c a).Rippling p := by
  cases c
  · exact rippling_skip
  · exact h
theorem rippling_event {d : Nat} {e : Event} : (Act.event d e).Rippling p := fun s =>
  { ripples_refl s p with rest := rfl, kept := fun _ hq => (mem_schedule _ _ _).2 (.inr hq) }
theorem rippling_polder {m : Loc} {g : PolderState → PolderState} (hm : m.toPolder = p.toPolder) (hg : ∀ x, (g x).aside = x.aside) :
    (Act.polder m g).Rippling p := fun s => by
  refine ⟨rfl, fun n => ?_, fun n hn => polder_apply_polder_other _ _ _ _ fun e => hn (e.trans hm), fun _ h => h⟩
  by_cases e : n.toPolder = m.toPolder
  · rw [run_polder, polder_apply_polder_of e, hg]
  · rw [run_polder, polder_apply_polder_other _ _ _ _ e]
theorem rippling_count {m : Loc} {off : Nat} (hm : m.toPolder = p.toPolder) : (Act.count m off).Rippling p := rippling_polder hm fun _ => rfl
theorem rippling_evalWatches {m : Loc} {k n : Nat} (hm : m.toPolder = p.toPolder) : (Act.evalWatches m k n).Rippling p := by
  refine rippling_read fun s => rippling_each fun w _ => ?_
  simp only
  split
  · exact rippling_when (rippling_seq (rippling_polder hm fun _ => rfl) rippling_event)
  · exact rippling_when (rippling_seq (rippling_polder hm fun _ => rfl) rippling_event)
theorem rippling_pokeSlice {m : Loc} (hm : m.toPolder = p.toPolder) : (Act.pokeSlice m).Rippling p :=
  rippling_read fun s => rippling_when (rippling_seq (rippling_polder hm fun _ => rfl) rippling_event)
theorem rippling_lineEvent {m : Loc} {line kind : Nat} (hm : m.toPolder = p.toPolder) : (Act.lineEvent m line kind).Rippling p := by
  refine rippling_read fun s => ?_
  simp only
  split
  · exact rippling_skip
  split
  · exact rippling_skip
  refine rippling_each fun set _ => rippling_read fun s => ?_
  split
  · exact rippling_skip
  split
  · exact rippling_count hm
  · exact rippling_seq (rippling_polder hm fun _ => rfl) (rippling_pokeSlice hm)
theorem rippling_hitLine {m : Loc} {line : Nat} {pasid : Option Nat} {d : Bool} (hm : m.toPolder = p.toPolder) : (Act.hitLine m line pasid d).Rippling p :=
  rippling_read fun s => rippling_seq (rippling_when (rippling_count hm)) (rippling_polder hm fun _ => rfl)
theorem rippling_fillLine {m : Loc} {line cls : Nat} {pref raises : Bool} {reader : Option (Nat × Nat × Nat)} {data : List Byte} (hm : m.toPolder = p.toPolder) :
    (Act.fillLine m line cls pref reader data raises).Rippling p := by
  refine rippling_read fun s => ?_
  simp only
  split
  · exact rippling_seq (rippling_when (rippling_count hm)) (rippling_polder hm fun _ => rfl)
  · refine rippling_seq (rippling_when (rippling_count hm)) <| rippling_seq (rippling_polder hm fun _ => rfl) <|
      rippling_seq (rippling_when (rippling_lineEvent hm)) <| rippling_seq ?_ rippling_skip
    split
    · exact rippling_when (rippling_lineEvent hm)
    · exact rippling_skip
theorem rippling_demandLine {m : Loc} {line cls : Nat} (hm : m.toPolder = p.toPolder) : (Act.demandLine m line cls).Rippling p := by
  refine rippling_read fun s => ?_
  split
  · exact rippling_hitLine hm
  · exact rippling_fillLine hm
theorem rippling_storeLine {m : Loc} {line cls : Nat} (hm : m.toPolder = p.toPolder) : (Act.storeLine m line cls).Rippling p :=
  rippling_read fun s => rippling_seq (rippling_when (rippling_count hm))
    (rippling_seq (rippling_when (rippling_lineEvent hm)) (rippling_demandLine hm))
theorem rippling_passLines {q : Place} {n : Nat} (hq : q.owner.toPolder = p.toPolder) : (Act.passLines q n).Rippling p := by
  refine rippling_read fun s => ?_
  split
  · exact rippling_when (rippling_each fun x _ => rippling_storeLine hq)
  · exact rippling_skip

end rippling

/-! ## The bytes of a write -/

/-- Memory with the bytes of a list written from a key on. -/
def Memory.putAll (m : Memory) (k : Nat) : List Byte → Memory
  | [] => m
  | b :: bs => (m.put k b).putAll (k + 1) bs

theorem wf_putAll {bs : List Byte} : ∀ {m : Memory} {k : Nat}, m.wf = true → (m.putAll k bs).wf = true := by
  induction bs with
  | nil => exact fun h => h
  | cons b bs ih => exact fun h => ih (wf_put _ _ _ h)
theorem get_putAll_other {bs : List Byte} : ∀ {m : Memory} {k j : Nat}, j < k ∨ k + bs.length ≤ j → (m.putAll k bs).get j = m.get j := by
  induction bs with
  | nil => exact fun _ => rfl
  | cons b bs ih =>
    intro m k j h
    simp only [List.length_cons] at h
    rw [Memory.putAll, ih (by omega), get_put_other _ _ _ _ (by omega)]
theorem get_putAll {bs : List Byte} : ∀ {m : Memory} {k i : Nat}, m.wf = true → i < bs.length → (m.putAll k bs).get (k + i) = bs.getD i 0#8 := by
  induction bs with
  | nil => exact fun _ h => absurd h (Nat.not_lt_zero _)
  | cons b bs ih =>
    intro m k i hm hi
    cases i with
    | zero => rw [Memory.putAll, get_putAll_other (.inl (by omega)), Nat.add_zero, get_put_same _ _ _ hm]; rfl
    | succ i =>
      have := ih (k := k + 1) (wf_put m k b hm) (Nat.lt_of_succ_lt_succ hi)
      rw [Memory.putAll, ← Nat.add_right_comm, Nat.add_assoc] at *
      simpa [Nat.add_comm, Nat.add_left_comm, Nat.add_assoc] using this
theorem bytes_putAll {m : Memory} {k : Nat} {bs : List Byte} (h : m.wf = true) : (m.putAll k bs).bytes k bs.length = bs := by
  refine List.ext_getElem (by simp [Memory.bytes]) fun i hi hi' => ?_
  simp only [Memory.bytes, List.getElem_map, List.getElem_range]
  rw [get_putAll h hi', List.getD_eq_getElem?_getD, List.getElem?_eq_getElem hi', Option.getD_some]
theorem bytes_putAll_other {m : Memory} {k a n : Nat} {bs : List Byte} (h : a + n ≤ k ∨ k + bs.length ≤ a) : (m.putAll k bs).bytes a n = m.bytes a n :=
  List.map_congr_left fun i hi => get_putAll_other (by have := List.mem_range.1 hi; omega)
theorem run_putBytes {bs : List Byte} : ∀ {k : Nat} (s : State), (Act.putBytes k bs).run s = { s with mem := s.mem.putAll k bs } := by
  induction bs with
  | nil => exact fun _ => rfl
  | cons b bs ih => exact fun s => ih _

/-- The bytes of a list stand in memory from a key on, marks aside and but for what their write stirs at a polder. -/
def State.Writes (s t : State) (p : Loc) (k : Nat) (bs : List Byte) : Prop :=
  ∃ e, ({ s with mem := s.mem.putAll k bs, ecc := e } : State).Ripples t p

section writes
variable {s t : State} {p : Loc} {k : Nat} {bs : List Byte}

theorem Writes_mem (h : s.Writes t p k bs) : t.mem = s.mem.putAll k bs := by
  obtain ⟨e, h⟩ := h
  rw [h.rest]
theorem Writes_rest (h : s.Writes t p k bs) : t = { s with mem := t.mem, ecc := t.ecc, polders := t.polders, agenda := t.agenda } := by
  obtain ⟨e, h⟩ := h
  rw [h.rest]
theorem Writes_near (h : s.Writes t p k bs) (m : Loc) : (t.polder m).aside = (s.polder m).aside := by
  obtain ⟨e, h⟩ := h
  exact h.near m
theorem Writes_far (h : s.Writes t p k bs) (m : Loc) (hm : m.toPolder ≠ p.toPolder) : t.polder m = s.polder m := by
  obtain ⟨e, h⟩ := h
  exact h.far m hm
theorem Writes_kept (h : s.Writes t p k bs) : ∀ x ∈ s.agenda, x ∈ t.agenda := by
  obtain ⟨e, h⟩ := h
  exact h.kept
theorem Writes_now (h : s.Writes t p k bs) : t.now = s.now := by rw [Writes_rest h]
theorem Writes_ctx (h : s.Writes t p k bs) (l : Loc) : t.ctx l = s.ctx l := by rw [Writes_rest h]; rfl
theorem Writes_core (h : s.Writes t p k bs) (l : Loc) : t.core l = s.core l := by rw [Writes_rest h]; rfl
theorem Writes_device (h : s.Writes t p k bs) (l : Loc) : t.device l = s.device l := by rw [Writes_rest h]; rfl
theorem Writes_touches (h : s.Writes t p k bs) : s.Touches t [] [] [p.toPolder] [] :=
  ⟨fun l _ => Writes_ctx h l, fun l _ => Writes_core h l, fun l hl => Writes_far h l fun e => hl (e ▸ .head _), fun l _ => Writes_device h l⟩
theorem Writes_memKeptBut (h : s.Writes t p k bs) : s.memKeptBut t k bs.length :=
  ⟨fun j hj => by rw [Writes_mem h, get_putAll_other hj], fun j => by rw [Writes_rest h], fun j => by rw [Writes_rest h]⟩
theorem Writes_wf (h : s.Writes t p k bs) (hm : s.mem.wf = true) : t.mem.wf = true := by rw [Writes_mem h]; exact wf_putAll hm
theorem Writes_bytes (h : s.Writes t p k bs) (hm : s.mem.wf = true) : t.mem.bytes k bs.length = bs := by rw [Writes_mem h, bytes_putAll hm]
theorem Writes_num (h : s.Writes t p k bs) (hm : s.mem.wf = true) : t.num k bs.length = natOfBytes bs := by rw [State.num, Writes_bytes h hm]
theorem Writes_num_other {a n : Nat} (h : s.Writes t p k bs) (ha : a + n ≤ k ∨ k + bs.length ≤ a) : t.num a n = s.num a n := by
  rw [State.num, Writes_mem h, bytes_putAll_other ha, State.num]
theorem Writes_ripples {u : State} (h : s.Writes t p k bs) (hu : t.Ripples u p) : s.Writes u p k bs := by
  obtain ⟨e, h⟩ := h
  exact ⟨e, ripples_trans h hu⟩

end writes

/-- In no fresh granule nothing is zeroed first. -/
theorem run_zeroGranule {s : State} {q : Place} (h : s.isFresh q = false) : (Act.zeroGranule q).run s = s := by simp [Act.zeroGranule, h]
theorem run_startZeroing {s : State} {q : Place} (h : s.isFresh q = false) : (Act.startZeroing q).run s = s := by simp [Act.startZeroing, h]
theorem settled_isFresh {s : State} {q : Place} (h : s.unsettled q = false) : s.isFresh q = false := by
  rw [State.unsettled, Bool.or_eq_false_iff] at h
  exact h.1

/-- A WRITE WHERE BYTES LAND writes them (R121, R331). -/
theorem writes_place {s : State} {q : Place} {k : Nat} (h : s.takesAt q k) (bs : List Byte) : s.Writes ((Act.writePlace q bs).run s) q.owner k bs := by
  obtain ⟨hk, hu, h5⟩ := h
  have hf := settled_isFresh hu
  have hpart : slicePart q bs = bs := by
    unfold slicePart
    rw [if_neg]
    simp only [Bool.and_eq_true, decide_eq_true_eq]
    rintro ⟨⟨h1, h2⟩, _⟩
    have := h5 h1
    omega
  rw [Act.writePlace, run_seq, run_seq, run_startZeroing hf, run_zeroGranule hf, run_read, hk]
  simp only [run_all_cons, run_all_nil, hpart, run_putBytes]
  exact ⟨_, ripples_trans (rippling_evalWatches rfl _) (rippling_when rippling_event _)⟩
theorem writes_lines {s : State} {q : Place} {k : Nat} (h : s.takesAt q k) (bs : List Byte) : s.Writes ((Act.writeLines q bs).run s) q.owner k bs := by
  rw [Act.writeLines, run_seq]
  exact Writes_ripples (writes_place h bs) (rippling_passLines rfl _)
/-- A write at a home address of `l` is in its polder. -/
theorem writes_home {s : State} {l : Loc} {a k : Nat} (h : s.landsAt l a k) (bs : List Byte) :
    s.Writes ((Act.writeHome l a bs).run s) l.toPolder k bs := by
  obtain ⟨q, hq, hk⟩ := h
  have := writes_lines hk bs
  rw [homePlace_owner hq] at this
  rwa [Act.writeHome, hq]
/-- Core memory takes every write. -/
theorem takesAt_core (s : State) (l : Loc) (off : Nat) : s.takesAt ⟨l.toPolder, 2, off⟩ (keyIn l.toPolder 2 off) :=
  ⟨rfl, by simp [State.unsettled, State.isFresh, State.freshBit], fun h => (by cases h)⟩

/-! ## Allocation (R61, R389) -/

theorem bytesOf_length (n v : Nat) : (bytesOf n v).length = n := by
  induction n generalizing v with
  | zero => rfl
  | succ n ih => simp [bytesOf, ih]

/-- The key of word `n` of a workspace. -/
theorem coreKey_word (l : Loc) (w n : Nat) : coreKey l (w + 8 * n) = coreKey l w + 8 * n := by
  simp only [coreKey, keyIn]
  omega
theorem writes_word (s : State) (l : Loc) (n v : Nat) :
    s.Writes ((Act.writeWord l n v).run s) l.toPolder (coreKey l (s.ctx l).wp.toNat + 8 * n) (bytesOf 8 v) := by
  have h := writes_place (takesAt_core s l (l.core * 0x20000 + (s.ctx l).wp.toNat + 8 * n)) (bytesOf 8 v)
  rw [Nat.add_assoc, show keyIn l.toPolder 2 (l.core * 0x20000 + ((s.ctx l).wp.toNat + 8 * n)) = coreKey l ((s.ctx l).wp.toNat + 8 * n) from rfl,
    coreKey_word] at h
  rwa [Act.writeWord, run_read, Nat.add_assoc]

/-- Workspace words as they are written one after another from word `i` on, none past the 16 of the workspace. -/
structure State.Words (s t : State) (l : Loc) (i : Nat) (ws : List W64) : Prop where
  rest : t = { s with mem := t.mem, ecc := t.ecc, polders := t.polders, agenda := t.agenda }
  kept : ∀ x ∈ s.agenda, x ∈ t.agenda
  wf : t.mem.wf = true
  memory : s.memKeptBut t (coreKey l (s.ctx l).wp.toNat) 128
  words : ∀ n, t.num (coreKey l (s.ctx l).wp.toNat + 8 * n) 8 =
    if i ≤ n ∧ n < i + ws.length then (ws.getD (n - i) 0#64).toNat else s.num (coreKey l (s.ctx l).wp.toNat + 8 * n) 8

theorem words_written {l : Loc} (ws : List W64) (i : Nat) (s : State) (hw : i + ws.length ≤ 16) (hs : s.mem.wf = true) :
    s.Words ((Act.each ((List.range' i ws.length).zip ws) fun w => .writeWord l w.1 w.2.toNat).run s) l i ws := by
  induction ws generalizing i s with
  | nil => exact ⟨rfl, fun _ h => h, hs, ⟨fun _ _ => rfl, fun _ => rfl, fun _ => rfl⟩, fun n => by rw [if_neg (by simp)]; rfl⟩
  | cons w ws ih =>
    have h := writes_word s l i w.toNat
    rw [List.length_cons, List.range'_succ, List.zip_cons_cons, run_each_cons]
    generalize (Act.writeWord l i w.toNat).run s = u at h
    simp only [List.length_cons] at hw
    have k := ih (i + 1) u (by omega) (Writes_wf h hs)
    have hc := Writes_ctx h l
    generalize (Act.each ((List.range' (i + 1) ws.length).zip ws) fun w => .writeWord l w.1 w.2.toNat).run u = t at k
    have hm := k.memory
    have hn := k.words
    rw [hc] at hm hn
    have hu := Writes_memKeptBut h
    rw [bytesOf_length] at hu
    refine ⟨by rw [k.rest, Writes_rest h], fun x hx => k.kept x (Writes_kept h x hx), k.wf,
      ⟨fun j hj => (hm.1 j hj).trans (hu.1 j (by omega)), fun j => (hm.2.1 j).trans (hu.2.1 j), fun j => (hm.2.2 j).trans (hu.2.2 j)⟩, fun n => ?_⟩
    rw [hn]
    rcases Nat.lt_trichotomy n i with hlt | rfl | hgt
    · rw [if_neg (by omega), if_neg (by simp; omega), Writes_num_other h (.inl (by omega))]
    · have := Writes_num h hs
      rw [bytesOf_length, natOfBytes_bytesOf, Nat.mod_eq_of_lt (show w.toNat < 256 ^ 8 from w.isLt)] at this
      rw [if_neg (by omega), if_pos (by simp), this, Nat.sub_self]
      rfl
    · obtain ⟨d, rfl⟩ : ∃ d, n = i + 1 + d := ⟨n - i - 1, by omega⟩
      have hd : i + 1 + d - i = d + 1 := by omega
      have hc' : (i ≤ i + 1 + d ∧ i + 1 + d < i + (w :: ws).length) ↔ (i + 1 ≤ i + 1 + d ∧ i + 1 + d < i + 1 + ws.length) := by
        simp only [List.length_cons]
        omega
      simp only [hc', Nat.add_sub_cancel_left, hd, List.getD_cons_succ]
      rw [Writes_num_other h (.inr (by rw [bytesOf_length]; omega))]

/-- What the allocation unit makes of a context but for its workspace. -/
def Context.arrived (c : Context) (a : Arrival) (now thr : Nat) : Context :=
  { c with
    state := 1#3, pol := 0#64, fm := 0#64, step := 0#64, guest := a.guest, pasid := BitVec.ofNat 20 a.pasid, prio := w64 (a.prio % 4),
    steal := BitVec.ofNat 2 a.steal, stealMax := BitVec.ofNat 2 a.steal, tree := w64 a.tree, pc := w64 a.pc, sup := false,
    duties := a.duties, holders := a.holders, stale := [], unacquired := [], unreleased := [], faultQ := [], faultLost := false, rowQ := [],
    late := [], surplus := 0, block := none, window := [], stopReq := false, haltCause := 0, readyAt := now, reserved := none,
    resumed := false, thread := thr, rseq := c.dseq }

/-- The bytes of a workspace that has been zeroed. -/
theorem num_zeros {m : Memory} {k n : Nat} (h : m.wf = true) (hn : n < 16) : natOfBytes ((m.putAll k (List.replicate 128 0#8)).bytes (k + 8 * n) 8) = 0 := by
  have hb : (m.putAll k (List.replicate 128 0#8)).bytes (k + 8 * n) 8 = List.replicate 8 0#8 := by
    refine List.ext_getElem (by simp [Memory.bytes]) fun i hi hi' => ?_
    simp only [List.length_replicate] at hi'
    simp only [Memory.bytes, List.getElem_map, List.getElem_range, List.getElem_replicate]
    rw [Nat.add_assoc, get_putAll h (by simp; omega), List.getD_eq_getElem?_getD, List.getElem?_replicate]
    split <;> rfl
  rw [hb]
  decide

/-- ALLOCATION fills a context that has no forwarding entry, and no core changes (R61). -/
theorem filled_allocate {s : State} {l : Loc} {a : Arrival} (hs : s.mem.wf = true) (hf : (s.core l).forwardOf l = none) (hw : a.words.length ≤ 16) :
    s.Filled ((Act.allocate l a).run s) l a ∧ (∀ m, ((Act.allocate l a).run s).core m = s.core m) ∧
      ∀ x ∈ s.agenda, x ∈ ((Act.allocate l a).run s).agenda := by
  have h := writes_place (takesAt_core (Effect.tickEpoch.apply s) l (l.core * 0x20000 + (s.ctx l).wp.toNat)) (List.replicate 128 0#8)
  have hrun : (Act.allocate l a).run s = (Act.event 0 (.contextDispatch l.toCore)).run
      ((Act.each ((List.range' 0 a.words.length).zip a.words) fun w => .writeWord l w.1 w.2.toNat).run
      ((Act.ctx l fun c => c.arrived a s.now s.epoch).run
      ((Act.writePlace ⟨l.toPolder, 2, l.core * 0x20000 + (s.ctx l).wp.toNat⟩ (List.replicate 128 0#8)).run (Effect.tickEpoch.apply s)))) := by
    have hf' : ((Effect.tickEpoch.apply s).core l).forwardOf l = none := hf
    rw [Act.allocate, run_withEpoch, run_read, ← List.range_eq_range']
    simp only [hf', run_all_cons, run_all_nil, run_skip]
    rfl
  rw [hrun]
  generalize (Act.writePlace ⟨l.toPolder, 2, l.core * 0x20000 + (s.ctx l).wp.toNat⟩ (List.replicate 128 0#8)).run (Effect.tickEpoch.apply s) = u at h
  have hc : u.ctx l = s.ctx l := Writes_ctx h l
  have hun : u.now = s.now := (Writes_now h :)
  have hv : ((Act.ctx l fun c => c.arrived a s.now s.epoch).run u).ctx l = (s.ctx l).arrived a s.now s.epoch := by rw [run_ctx, ctx_apply_ctx, hc]
  have hvm : ((Act.ctx l fun c => c.arrived a s.now s.epoch).run u).mem = u.mem := rfl
  have hvr : (Act.ctx l fun c => c.arrived a s.now s.epoch).run u = { u with ctxs := ((Act.ctx l fun c => c.arrived a s.now s.epoch).run u).ctxs } := rfl
  have k := words_written (l := l) a.words 0 ((Act.ctx l fun c => c.arrived a s.now s.epoch).run u) (by omega) (by rw [hvm]; exact Writes_wf h hs)
  generalize (Act.ctx l fun c => c.arrived a s.now s.epoch).run u = v at hv hvm hvr k
  generalize (Act.each ((List.range' 0 a.words.length).zip a.words) fun w => .writeWord l w.1 w.2.toNat).run v = w at k
  have hwc : w.ctx l = (s.ctx l).arrived a s.now s.epoch := by rw [k.rest]; exact hv
  have hwp : (v.ctx l).wp = (s.ctx l).wp := by rw [hv]; rfl
  have hm := k.memory
  have hn := k.words
  rw [hwp] at hm hn
  have hu := Writes_memKeptBut h
  have hcore : ∀ m, w.core m = s.core m := fun m => by
    rw [k.rest, hvr]
    exact Writes_core h m
  have hnow : w.now = s.now := by
    rw [k.rest, hvr]
    exact hun
  have hkept : ∀ x ∈ s.agenda, x ∈ w.agenda := fun x hx => k.kept x (by rw [hvr]; exact Writes_kept h x hx)
  have hctx : ((Act.event 0 (.contextDispatch l.toCore)).run w).ctx l = (s.ctx l).arrived a s.now s.epoch := hwc
  refine ⟨⟨?_, ?_, ?_, ?_, fun n h16 => ?_, ?_, ?_⟩, hcore, fun x hx => (mem_schedule _ _ _).2 (.inr (hkept x hx))⟩
  · rw [hctx]
    exact ⟨rfl, rfl, rfl, rfl⟩
  · rw [hctx]
    exact ⟨rfl, rfl, rfl, rfl, rfl, rfl, rfl⟩
  · rw [hctx]
    exact ⟨rfl, rfl, rfl, rfl, rfl, rfl, rfl⟩
  · rw [hctx]
    exact ⟨rfl, rfl, rfl, rfl, rfl⟩
  · have h0 : v.num (coreKey l (s.ctx l).wp.toNat + 8 * n) 8 = 0 := by
      rw [State.num, hvm, Writes_mem h]
      exact num_zeros hs h16
    have hwd : ((Act.event 0 (.contextDispatch l.toCore)).run w).wword l n = w.num (coreKey l (s.ctx l).wp.toNat + 8 * n) 8 := by
      rw [State.wword, hctx, show ((s.ctx l).arrived a s.now s.epoch).wp = (s.ctx l).wp from rfl, coreKey_word]
      rfl
    rw [hwd, hn n, h0]
    split
    · rfl
    · next hlen =>
      rw [List.getD_eq_getElem?_getD, List.getElem?_eq_none (by omega)]
      rfl
  · refine ⟨fun j hj => ?_, fun j => ?_, fun j => ?_⟩
    · exact (hm.1 j hj).trans ((congrArg (Memory.get j) hvm).trans (hu.1 j hj))
    · exact (hm.2.1 j).trans (by rw [hvr]; exact hu.2.1 j)
    · exact (hm.2.2 j).trans (by rw [hvr]; exact hu.2.2 j)
  · simp [State.planned, mem_schedule, hnow]

/-- A context stays filled while other things change. -/
theorem filled_keeps {s t u : State} {l : Loc} {a : Arrival} {ks ps ds : List Loc} (h : s.Filled t l a) (k : t.Keeps u [] ks ps ds)
    (hk : ∀ x ∈ t.agenda, x ∈ u.agenda) : s.Filled u l a := by
  have hc : u.ctx l = t.ctx l := k.2.ctxs l (by simp)
  have hw : ∀ n, u.wword l n = t.wword l n := fun n => by
    rw [State.wword, State.wword, hc, State.num, State.num, Memory.bytes, Memory.bytes]
    simp only [k.1.1]
  refine ⟨by rw [hc]; exact h.ready, by rw [hc]; exact h.named, by rw [hc]; exact h.clear, by rw [hc]; exact h.stays, fun n hn => (hw n).trans (h.words n hn),
    ⟨fun j hj => (k.1.1 j).trans (h.memory.1 j hj), fun j => (k.1.2.1 j).trans (h.memory.2.1 j), fun j => (k.1.2.2 j).trans (h.memory.2.2 j)⟩, hk _ h.dispatch⟩
/-- What a core has taken from its queues before does not show in the context. -/
theorem filled_core {s t : State} {l c : Loc} {a : Arrival} {f : CoreState → CoreState} (h : ((Act.core c f).run s).Filled t l a) : s.Filled t l a :=
  ⟨h.ready, h.named, h.clear, h.stays, h.words, h.memory, h.dispatch⟩

/-! ## Stealing (R395 to R397) -/

theorem keeps_of_only {a : Act} {cs ks ps ds : List Loc} (h : a.Only cs ks ps ds) (s : State) : s.Keeps (a.run s) cs ks ps ds := h s
/-- With no record held there is none to enter. -/
theorem run_enterHeld {s : State} {c : Loc} (h : (s.core c).heldRecs = []) : (Act.enterHeld c).run s = s := by rw [Act.enterHeld, run_read, h]; rfl
/-- A change of a core behind which a step is planned. -/
theorem core_seq_event {c : Loc} {f : CoreState → CoreState} {d : Nat} {e : Event} {s : State} :
    ((Act.seq (.core c f) (.event d e)).run s).core c = f (s.core c) :=
  core_apply_core c f s
/-- A refill that is kicked changes its core in one flag. -/
theorem kickRefill_core (c : Loc) (s : State) : ∃ r, ((Act.kickRefill c).run s).core c = { s.core c with refilling := r } := by
  rw [Act.kickRefill, run_read]
  cases h : (s.core c).refilling with
  | true => exact ⟨_, rfl⟩
  | false => exact ⟨true, core_seq_event⟩
theorem kickRefill_kept (c : Loc) (s : State) : ∀ x ∈ s.agenda, x ∈ ((Act.kickRefill c).run s).agenda :=
  (adds_read (P := fun _ => True) fun _ => adds_when (adds_seq (adds_of_eq fun _ => rfl) (adds_sched fun _ => trivial)) :
    (Act.kickRefill c).Adds fun _ => True) s |>.1

/-- The next level, or the wait behind the widest. -/
theorem nextLevel_goes {s : State} {c : Loc} {n : Nat} (h : n ≤ (s.core c).widest) : s.Keeps ((Act.nextLevel c n).run s) [] [c.toCore] [] [] ∧
    ((Act.nextLevel c n).run s).core c = { s.core c with level := n, tries := 0 } ∧ s.Plans ((Act.nextLevel c n).run s) [(0, .stealRequest c)] := by
  rw [Act.nextLevel, run_read, if_neg (by omega)]
  exact ⟨only_seq (only_core (.head _)) only_event s, core_seq_event, plans_event (xs := []) (plans_refl s) rfl⟩
theorem nextLevel_waits {s : State} {c : Loc} {n : Nat} (h : (s.core c).widest < n) : s.Keeps ((Act.nextLevel c n).run s) [] [c.toCore] [] [] ∧
    ((Act.nextLevel c n).run s).core c = { s.core c with level := 0, tries := 0, backoff := true } ∧
    s.Plans ((Act.nextLevel c n).run s) [(256, .stealBackoffExpiry c)] := by
  rw [Act.nextLevel, run_read, if_pos h]
  exact ⟨only_seq (only_core (.head _)) only_event s, core_seq_event, plans_event (xs := []) (plans_refl s) rfl⟩

section ask
variable {s : State} {c l : Loc} (hi : s.idleCore c = true) (ha : (s.core c).asking = none) (hb : (s.core c).backoff = false) (hl : s.allocatable c = some l)
include hi ha hb hl

theorem run_askVictim : (Act.askVictim c).run s =
    (if (s.core c).widest < (s.core c).level then .nextLevel c (s.core c).level
      else if (s.victims c (s.core c).level).isEmpty ∨ 8 ≤ (s.core c).tries then .nextLevel c ((s.core c).level + 1)
      else .all [
        .core c fun x => { x with lfsr := BitVec.ofNat 16 (lfsrNext (s.core c).lfsr.toNat), tries := x.tries + 1, asking := some l.ctx },
        .ctx l fun x => { x with reserved := some .steal },
        .event (8 + s.way c ((s.victims c (s.core c).level).getD (lfsrNext (s.core c).lfsr.toNat * (s.victims c (s.core c).level).length / 2 ^ 16) c) + 10)
          (.stealRequestArrival ((s.victims c (s.core c).level).getD (lfsrNext (s.core c).lfsr.toNat * (s.victims c (s.core c).level).length / 2 ^ 16) c) c
            (s.core c).level (s.partOf c))] : Act).run s := by
  rw [Act.askVictim, run_read]
  simp only [hi, ha, hb, hl, Bool.not_true, Option.isSome_none, Bool.or_self, Bool.false_eq_true, if_false]
end ask

/-- What a victim that grants its top entry does. -/
theorem run_answerThief {s : State} {v c : Loc} {part : Nat} {es : List DequeEntry} {e : DequeEntry} (h : (s.core v).deque = es ++ [e]) :
    (Act.answerThief v c part).run s =
      (if entryKind e = 0 && tagAdmits e.tag v c && !classBars (bits (e.words.getD 0 0#64).toNat 59 58) c
          && (s.polder v).part == some part && (s.polder v).swapping.isNone then
        .all [
          .core v fun k => { k with deque := k.deque.dropLast },
          .count v 0x390, .enterHeld v, .kickRefill v,
          .event 0 (.launchGroupPlacement v.toPolder),
          .event (8 + s.way v c + 6) (.stealReplyArrival v c (some e))]
      else .seq (.count v 0x398) (.event (8 + s.way v c + 6) (.stealReplyArrival v c none)) : Act).run s := by
  rw [Act.answerThief, run_read, h, List.getLast?_concat]

theorem count_counters (l : Loc) (off : Nat) (s : State) : (((Act.count l off).run s).polder l).counters = bumpIn off 1 (s.polder l).counters :=
  congrArg PolderState.counters (polder_apply_polder l (fun p => { p with counters := bumpIn off 1 p.counters }) s)
/-- A refusal counts itself and answers. -/
theorem refuses {s : State} {v c : Loc} {d : Nat} : s.Keeps ((Act.seq (.count v 0x398) (.event d (.stealReplyArrival v c none))).run s) [] [] [v.toPolder] [] ∧
    (((Act.seq (.count v 0x398) (.event d (.stealReplyArrival v c none))).run s).polder v).counters = bumpIn 0x398 1 (s.polder v).counters ∧
    s.Plans ((Act.seq (.count v 0x398) (.event d (.stealReplyArrival v c none))).run s) [(d, .stealReplyArrival v c none)] :=
  ⟨only_seq (only_polder (.head _)) only_event s, count_counters v 0x398 s, plans_event (xs := []) (plans_refl s) rfl⟩

theorem taskArrivalOf_words (e : DequeEntry) : (taskArrivalOf e).words = e.words.drop 2 := rfl

/-- A grant takes the top entry and goes on its way. -/
theorem grants {s : State} {v c : Loc} {d : Nat} {es : List DequeEntry} {e : DequeEntry} (h : (s.core v).deque = es ++ [e]) (hh : (s.core v).heldRecs = []) :
    let t := (Act.all [
      .core v fun k => { k with deque := k.deque.dropLast }, .count v 0x390, .enterHeld v, .kickRefill v, .event 0 (.launchGroupPlacement v.toPolder),
      .event d (.stealReplyArrival v c (some e))]).run s
    s.Keeps t [] [v.toCore] [v.toPolder] [] ∧ (t.core v).deque = es ∧ (t.polder v).counters = bumpIn 0x390 1 (s.polder v).counters ∧
      s.planned t d (.stealReplyArrival v c (some e)) := by
  simp only [run_all_cons, run_all_nil]
  have h1 : s.Keeps ((Act.seq (.core v fun k => { k with deque := k.deque.dropLast }) (.count v 0x390)).run s) [] [v.toCore] [v.toPolder] [] :=
    only_seq (only_core (.head _)) (only_polder (.head _)) s
  have hd : (((Act.seq (.core v fun k => { k with deque := k.deque.dropLast }) (.count v 0x390)).run s).core v) = { s.core v with deque := es } := by
    refine (core_apply_core v (fun k => { k with deque := k.deque.dropLast }) s).trans ?_
    rw [h, List.dropLast_concat]
  have hc := count_counters v 0x390 ((Act.core v fun k => { k with deque := k.deque.dropLast }).run s)
  have hnow : ((Act.count v 0x390).run ((Act.core v fun k => { k with deque := k.deque.dropLast }).run s)).now = s.now := rfl
  rw [run_seq] at h1 hd
  generalize (Act.count v 0x390).run ((Act.core v fun k => { k with deque := k.deque.dropLast }).run s) = u at h1 hd hc hnow
  have hu : (u.core v).heldRecs = [] := by rw [hd]; exact hh
  rw [run_enterHeld hu]
  have hk := only_kickRefill (ps := [v.toPolder]) v u
  have hn := run_now (Act.kickRefill v) u
  obtain ⟨r, hr⟩ := kickRefill_core v u
  have hp : ((Act.kickRefill v).run u).polder v = u.polder v := (only_kickRefill (ps := []) v u).2.polders v (by simp)
  generalize (Act.kickRefill v).run u = w at hk hr hp hn
  refine ⟨keeps_trans (keeps_trans h1 hk) (only_seq only_event only_event w), ?_, ?_, ?_⟩
  · exact (congrArg CoreState.deque (hr.trans (by rw [hd])) :)
  · exact (congrArg PolderState.counters hp).trans hc
  · simp [State.planned, mem_schedule, hn, hnow]

/-- A granted record fills the context that waited for it. -/
theorem stolen_fills {s : State} {c : Loc} {n : Nat} {x : DequeEntry} (hs : s.Inv) (ha : (s.core c).asking = some n)
    (hf : (s.core c).forwardOf { c with ctx := n } = none) (hx : x.words.length ≤ 18) :
    s.Filled ((Act.stolen c (some x)).run s) { c with ctx := n } (taskArrivalOf x) ∧
      ((Act.stolen c (some x)).run s).core c = { s.core c with asking := none, level := 0, tries := 0 } := by
  rw [Act.stolen, run_read, ha]
  simp only [run_seq, run_all_cons, run_all_nil]
  have hcore : ((Act.core c fun k => { k with level := 0, tries := 0 }).run ((Act.core c fun k => { k with asking := none }).run s)).core c =
      { s.core c with asking := none, level := 0, tries := 0 } :=
    (core_apply_core c (fun k => { k with level := 0, tries := 0 }) _).trans
      (congrArg (fun k : CoreState => { k with level := 0, tries := 0 }) (core_apply_core c (fun k => { k with asking := none }) s))
  have hmem : ((Act.core c fun k => { k with level := 0, tries := 0 }).run ((Act.core c fun k => { k with asking := none }).run s)).mem = s.mem := rfl
  have hback : ∀ t, ((Act.core c fun k => { k with level := 0, tries := 0 }).run ((Act.core c fun k => { k with asking := none }).run s)).Filled t
      { c with ctx := n } (taskArrivalOf x) → s.Filled t { c with ctx := n } (taskArrivalOf x) := fun t h => filled_core (filled_core h)
  generalize (Act.core c fun k => { k with level := 0, tries := 0 }).run ((Act.core c fun k => { k with asking := none }).run s) = u at hcore hmem hback
  have hfu : (u.core { c with ctx := n }).forwardOf { c with ctx := n } = none := by
    have : u.core { c with ctx := n } = { s.core c with asking := none, level := 0, tries := 0 } := hcore
    rw [this]
    exact hf
  obtain ⟨h1, h2, h3⟩ := filled_allocate (a := taskArrivalOf x) (by rw [hmem]; exact hs.mem) hfu
    (by rw [taskArrivalOf_words, List.length_drop]; omega)
  exact ⟨filled_keeps (ks := []) (ps := []) (ds := []) (hback _ h1) (only_event _) fun q hq => (mem_schedule _ _ _).2 (.inr hq), (h2 c).trans hcore⟩

/-- Settles O39: the ask and the next level by what the core has tried, the answer by the victim's top entry, and a grant fills a context as an allocation does. -/
theorem coresSteal : Obligations.CoresSteal := by
  refine ⟨?ask, ?answer, ?reply, ?expiry⟩
  case ask =>
    intro s c l hi ha hb hl k vs r v hcur
    refine ⟨(Act.askVictim c).run s, by change execStealRequest s = _; rw [execStealRequest, hcur]; rfl, fun h1 h2 h3 => ?_, fun h1 h2 => ?_, fun h => ?_⟩
    · have hv : ¬ ((s.victims c (s.core c).level).isEmpty = true ∨ 8 ≤ (s.core c).tries) := by
        rintro (h | h)
        · exact h2 (List.isEmpty_iff.1 h)
        · exact absurd h (Nat.not_le.2 h3)
      rw [run_askVictim hi ha hb hl, if_neg (Nat.not_lt.2 h1), if_neg hv]
      refine ⟨only_seq (only_core (.head _)) (only_seq (only_ctx (.head _)) (only_seq only_event only_skip)) s, ?_, ?_,
        plans_event (xs := []) (plans_refl s) rfl⟩
      · exact ctx_apply_ctx l (fun x => { x with reserved := some .steal }) _
      · exact core_apply_core c (fun x => { x with
          lfsr := BitVec.ofNat 16 (lfsrNext (s.core c).lfsr.toNat), tries := x.tries + 1, asking := some l.ctx }) s
    · have hv : (s.victims c (s.core c).level).isEmpty = true ∨ 8 ≤ (s.core c).tries := h1.imp_left List.isEmpty_iff.2
      have h2 : (s.core c).level + 1 ≤ (s.core c).widest := h2
      rw [run_askVictim hi ha hb hl, if_neg (by omega), if_pos hv]
      exact nextLevel_goes h2
    · rw [run_askVictim hi ha hb hl]
      by_cases hw : (s.core c).widest < (s.core c).level
      · rw [if_pos hw]
        exact nextLevel_waits hw
      · obtain ⟨hv, h2⟩ := h.resolve_left hw
        rw [if_neg hw, if_pos (hv.imp_left List.isEmpty_iff.2)]
        exact nextLevel_waits h2
  case answer =>
    intro s v c level part back hcur
    refine ⟨(Act.answerThief v c part).run s, by change execStealRequestArrival s = _; rw [execStealRequestArrival, hcur]; rfl, fun h => ?_, fun es e h hh =>
      ⟨fun h1 h2 h3 h4 h5 => ?_, fun hno => ?_⟩⟩
    · rw [Act.answerThief, run_read, h]
      exact refuses
    · rw [run_answerThief h, if_pos (by rw [h1, h2, h3, h4, h5]; simp)]
      exact grants h hh
    · rw [run_answerThief h, if_neg]
      · exact refuses
      · simp only [Bool.and_eq_true, decide_eq_true_eq, beq_iff_eq]
        rintro ⟨⟨⟨⟨h1, h2⟩, _⟩, h4⟩, _⟩
        rcases hno with h | h | h
        · exact h h1
        · rw [h] at h2; cases h2
        · exact h h4
  case reply =>
    intro s v c n e hs ha hf hcur
    refine ⟨(Act.stolen c e).run s, by change execStealReplyArrival s = _; rw [execStealReplyArrival, hcur]; rfl, fun he => ?_, fun x he hx => ?_⟩
    · subst he
      rw [Act.stolen, run_read, ha]
      refine ⟨only_seq (only_core (.head _)) (only_seq (only_ctx (.head _)) (only_seq only_event (only_seq only_event only_skip))) s, ?_, ?_,
        plans_event (xs := [_]) (plans_event (xs := []) (plans_refl s) rfl) rfl⟩
      · exact congrArg Context.reserved (ctx_apply_ctx { c with ctx := n } (fun x => { x with reserved := none }) _)
      · exact congrArg CoreState.asking (core_apply_core c (fun k => { k with asking := none }) s)
    · subst he
      exact stolen_fills hs ha hf hx
  case expiry =>
    intro s c hcur
    exact ⟨_, by change execStealBackoffExpiry s = _; rw [execStealBackoffExpiry, hcur]; rfl, only_seq (only_core (.head _)) only_event s,
      core_seq_event, plans_event (xs := []) (plans_refl s) rfl⟩

/-! ## Dispatch (R390, R391) -/

/-- The contexts but that at one place. -/
def State.elsewhere (s : State) (l : Loc) : List (Loc × Context) := s.ctxs.filter fun x => x.1 != l

theorem filter_assocSet {α : Type} {l : Loc} {v : α} {ps : List (Loc × α)} : (assocSet l v ps).filter (fun x => x.1 != l) = ps.filter fun x => x.1 != l := by
  induction ps with
  | nil => simp [assocSet]
  | cons p ps ih =>
    unfold assocSet
    split
    · next h => simp [h]
    · simp only [List.filter_cons, ih]
/-- A change of one context leaves the others. -/
theorem elsewhere_ctx (l : Loc) (f : Context → Context) : (Act.ctx l f).Leaves fun s => s.elsewhere l := fun _ => filter_assocSet

/-- What a map drops can be left out before. -/
theorem filterMap_of_filter {α β : Type} {f : α → Option β} {p : α → Bool} {xs ys : List α} (h : ∀ x, p x = false → f x = none)
    (he : xs.filter p = ys.filter p) : xs.filterMap f = ys.filterMap f := by
  have key : ∀ zs : List α, zs.filterMap f = (zs.filter p).filterMap f := fun zs => by
    rw [List.filterMap_filter]
    refine congrArg (fun g => zs.filterMap g) (funext fun x => ?_)
    cases hx : p x with
    | true => simp
    | false => simp [h x hx]
  rw [key xs, he, ← key ys]

/-- Which predicted blocks wait does not depend on a place that is not that of one. -/
theorem waitingBlocks_ahead {s t : State} {l c : Loc} (hl : isAhead l = false) (h : t.elsewhere l = s.elsewhere l) :
    t.waitingBlocks true c = s.waitingBlocks true c := by
  unfold State.waitingBlocks
  refine congrArg (sortBy _) (filterMap_of_filter (p := fun x : Loc × Context => x.1 != l) (fun x hx => ?_) h)
  have hx : x.1 = l := by simpa using hx
  split
  · rw [if_neg]
    rintro ⟨ha, _⟩
    rw [hx, hl] at ha
    cases ha
  · rfl

/-- The READY context that is chosen is one of the core. -/
theorem nextReady_at {s : State} {c l : Loc} (h : s.nextReady c = some l) : ∃ k, k < 8 ∧ l = { c.toCore with ctx := k } := by
  have key : ∀ (f : Option Loc → Loc → Option Loc), (∀ b x, f b x = b ∨ f b x = some x) → ∀ (ls : List Loc) (b : Option Loc),
      ls.foldl f b = some l → b = some l ∨ l ∈ ls := by
    intro f hf ls
    induction ls with
    | nil => exact fun b h => .inl h
    | cons x xs ih =>
      intro b h
      rcases ih _ h with h | h
      · rcases hf b x with e | e
        · exact .inl (e ▸ h)
        · rw [e] at h
          exact .inr (Option.some.inj h ▸ .head _)
      · exact .inr (.tail _ h)
  have hmem : none = some l ∨ l ∈ (List.range 8).map fun k => ({ c.toCore with ctx := k } : Loc) := by
    refine key _ (fun b x => ?_) _ _ h
    simp only
    split
    · exact .inl rfl
    split
    · exact .inr rfl
    split
    · exact .inr rfl
    · exact .inl rfl
  obtain ⟨k, hk, rfl⟩ := List.mem_map.1 (hmem.resolve_left nofun)
  exact ⟨k, List.mem_range.1 hk, rfl⟩

theorem nextReady_congr {s t : State} (c : Loc) (h : ∀ m, (t.ctx m).unblocked = (s.ctx m).unblocked) : t.nextReady c = s.nextReady c := by
  have h1 : ∀ m, (t.ctx m).state = (s.ctx m).state := fun m => (congrArg Context.state (h m) :)
  have h2 : ∀ m, (t.ctx m).prio = (s.ctx m).prio := fun m => (congrArg Context.prio (h m) :)
  have h3 : ∀ m, (t.ctx m).readyAt = (s.ctx m).readyAt := fun m => (congrArg Context.readyAt (h m) :)
  simp only [State.nextReady, h1, h2, h3]

/-- A READY context that is to run becomes RUNNING (R390). -/
theorem dispatches {s : State} {c l : Loc} (h1 : s.waitingBlocks false c = []) (h2 : s.waitingBlocks true c = []) (hp : s.placeFree c = true)
    (hn : s.nextReady c = some l) (hr : (s.ctx l).resumed = false) (ha : s.ahead l = []) : s.Runs .contextDispatch (.contextDispatch c) fun t =>
      s.Keeps t [l] [] [] [] ∧ t.ctx l = { s.ctx l with state := 2#3 } ∧ s.Plans t [(0, .blockFetch l), (0, .contextDispatch l.toCore)] := by
  intro hcur
  obtain ⟨k, hk, hl⟩ := nextReady_at hn
  have hahead : isAhead l = false := by
    subst hl
    simpa [isAhead] using hk
  have hrun : (Act.runCtx l).run s = (Act.event 0 (.contextDispatch l.toCore)).run ((Act.event 0 (.blockFetch l)).run
      ((Act.ctx l fun x => { x with state := 2#3, resumed := false }).run s)) := by
    rw [Act.runCtx, run_read, hr]
    simp only [run_all_cons, run_all_nil, Act.dropAhead, run_read, ha, run_when, Bool.false_eq_true, if_false]
    rfl
  refine ⟨(Act.runCtx l).run s, ?_, ?_⟩
  · have hw : ((Act.runCtx l).run s).waitingBlocks true c = [] := by
      rw [hrun, ← h2]
      exact waitingBlocks_ahead hahead (elsewhere_ctx l (fun x => { x with state := 2#3, resumed := false }) s)
    change execContextDispatch s = _
    rw [execContextDispatch, hcur]
    simp only [done, run_all_cons, run_all_nil, h1, Act.startWaiting, run_skip, run_read, hp, hn, Bool.not_true, Bool.false_eq_true, if_false, hw]
  · rw [hrun]
    refine ⟨only_seq (only_ctx (.head _)) (only_seq only_event only_event) s, ?_, plans_event (xs := [_]) (plans_event (xs := []) (plans_refl s) rfl) rfl⟩
    refine (ctx_apply_ctx l (fun x => { x with state := 2#3, resumed := false }) s).trans ?_
    rw [← hr]

/-- A context but for which slots of its block have fired or wait. -/
def Context.idle (c : Context) : Context := { c with block := c.block.map fun b => { b with fired := [], waiting := [] } }

theorem idle_eq {c d : Context} {b : Block} (h : c.idle = d.idle) (hd : d.block = some b) :
    ∃ f w, c = { d with block := some { b with fired := f, waiting := w } } := by
  have hc : c = { d with block := c.block } := by
    have : c.idle.unblocked = d.idle.unblocked := by rw [h]
    exact unblocked_eq this
  cases hb : c.block with
  | none =>
    have := congrArg Context.block h
    simp [Context.idle, hb, hd] at this
  | some x =>
    have hx : some { x with fired := [], waiting := [] } = some { b with fired := [], waiting := [] } := by
      have := congrArg Context.block h
      simpa only [Context.idle, hb, hd, Option.map_some] using this
    refine ⟨x.fired, x.waiting, ?_⟩
    rw [hc, hb]
    have hx : x = { b with fired := x.fired, waiting := x.waiting } := by
      have := congrArg (fun y : Block => { y with fired := x.fired, waiting := x.waiting }) (Option.some.inj hx)
      exact this
    rw [← hx]

/-- An offer changes which slots have fired or wait. -/
theorem leaves_offer_idle {l m : Loc} {ep n : Nat} : (Act.offer l ep n).Leaves fun s => (s.ctx m).idle := by
  have hb : ∀ g : Block → Block, (∀ x, ({ g x with fired := [], waiting := [] } : Block) = { x with fired := [], waiting := [] }) →
      (Act.block l g).Leaves fun s => (s.ctx m).idle := fun g hg => leaves_ctx_of fun c => by
    cases h : c.block with
    | none => simp [Context.idle, h]
    | some x => simp only [Context.idle, h, Option.map_some, hg]
  refine leaves_read fun s => ?_
  split
  · split
    · split
      · exact leaves_skip
      · split
        · exact leaves_seq (hb _ fun _ => rfl) fun _ => rfl
        · exact hb _ fun _ => rfl
    · exact leaves_skip
  · exact leaves_skip
theorem leaves_offer_elsewhere {l : Loc} {ep n : Nat} : (Act.offer l ep n).Leaves fun s => s.elsewhere l := by
  refine leaves_read fun s => ?_
  split
  · split
    · split
      · exact leaves_skip
      · split
        · exact leaves_seq (elsewhere_ctx l _) fun _ => rfl
        · exact elsewhere_ctx l _
    · exact leaves_skip
  · exact leaves_skip
theorem leaves_lookAhead {α : Type} {f : State → α} (hs : ∀ d e, (Act.event d e).Leaves f) {l : Loc} : (Act.lookAhead l).Leaves f :=
  leaves_read fun _ => leaves_when (hs _ _)
theorem leaves_settle {α : Type} {f : State → α} (hs : ∀ d e, (Act.event d e).Leaves f) {l : Loc} {ep : Nat} : (Act.settle l ep).Leaves f := by
  refine leaves_read fun s => ?_
  split
  · split
    · exact leaves_skip
    split
    · exact hs _ _
    · exact leaves_when (hs _ _)
  · exact leaves_skip

section startBlock
variable {s : State} {l : Loc} {ep : Nat} {b : Block} (h : s.blockAt l ep = some b)
include h

/-- A block that begins to execute is marked, and slots of it may fire. -/
theorem run_startBlock : (Act.startBlock l ep).run s =
    (Act.seq (.each (b.exitsLast ((b.instrs.filter fun x => (operandsOf x.2).isEmpty).map fun x => x.1)) fun n => .offer l ep n)
      (.seq (.when (!isAhead l) (.lookAhead l)) (.settle l ep))).run ((Act.block l fun x => { x with ready := true }).run s) := by
  rw [Act.startBlock, run_read, h]
  simp only [run_all_cons, run_all_nil, run_seq]
theorem startBlock_idle (m : Loc) : (((Act.startBlock l ep).run s).ctx m).idle = (((Act.block l fun x => { x with ready := true }).run s).ctx m).idle := by
  rw [run_startBlock h]
  exact leaves_seq (leaves_each fun _ => leaves_offer_idle)
    (leaves_seq (leaves_when (leaves_lookAhead fun _ _ _ => rfl)) (leaves_settle fun _ _ _ => rfl)) _
theorem startBlock_elsewhere : ((Act.startBlock l ep).run s).elsewhere l = s.elsewhere l := by
  rw [run_startBlock h]
  refine (leaves_seq (f := fun s => s.elsewhere l) (leaves_each fun _ => leaves_offer_elsewhere)
    (leaves_seq (leaves_when (leaves_lookAhead fun _ _ _ => rfl)) (leaves_settle fun _ _ _ => rfl)) _).trans (elsewhere_ctx l _ s)
theorem startBlock_keeps : s.Keeps ((Act.startBlock l ep).run s) [l] [] [] [] := by
  rw [run_startBlock h]
  exact keeps_trans (only_block (.head _) s) (only_seq (only_each fun _ _ => only_offer (.head _))
    (only_seq (only_when fun _ => only_read fun _ => only_when fun _ => only_event) only_settle) _)

end startBlock

/-- A checked block whose frames are free begins to execute (R391). -/
theorem starts {s : State} {c l : Loc} {ep : Nat} {b : Block} (hb : s.inFlight l ep b) (h1 : s.waitingBlocks false c = [(l, b)])
    (h2 : s.waitingBlocks true c = []) (hf : s.framesFit l b = true) (hn : s.nextReady c = none) : s.Runs .contextDispatch (.contextDispatch c) fun t =>
      s.Keeps t [l] [] [] [] ∧ ∃ f w, t.ctx l = { s.ctx l with block := some { b with ready := true, fired := f, waiting := w } } := by
  intro hcur
  have hahead : isAhead l = false := by
    have hm : (l, b) ∈ s.waitingBlocks false c := by rw [h1]; exact .head _
    obtain ⟨x, _, hx⟩ := List.mem_filterMap.1 (mem_sortBy.1 hm)
    split at hx
    · split at hx
      · next hif =>
        cases hx
        exact hif.1
      · cases hx
    · cases hx
  have hstart : (Act.startWaiting (s.waitingBlocks false c) []).run s = (Act.startBlock l b.epoch).run s := by
    have hroom : (Act.makeRoom (l, b) (s.framedAhead l b)).run s = s := by
      cases s.framedAhead l b with
      | nil => rfl
      | cons y ys => rw [Act.makeRoom, run_read, hf]; rfl
    have hheld : (s.frameCores l b).any ([] : List Nat).contains = false := by simp
    rw [h1, Act.startWaiting, run_read]
    simp only [hheld, hahead, Bool.not_false, Bool.false_eq_true, if_false, run_seq, run_when, if_true, hroom, run_read, hf, Act.startWaiting, run_skip]
  have hat : s.blockAt l b.epoch = some b := by rw [inFlight_epoch hb]; exact hb.1
  have hblock : (s.ctx l).block = some b := (blockAt_some hb.1).1
  have hidle := startBlock_idle hat
  have helse := startBlock_elsewhere hat
  have hkeeps := startBlock_keeps hat
  generalize (Act.startBlock l b.epoch).run s = t at hstart hidle helse hkeeps
  have hb0 : ((Act.block l fun x => { x with ready := true }).run s).ctx l = { s.ctx l with block := some { b with ready := true } } := by
    refine (ctx_apply_ctx l (fun c => { c with block := c.block.map fun x => { x with ready := true } }) s).trans ?_
    rw [hblock]
    rfl
  have hun : ∀ m, (t.ctx m).unblocked = (s.ctx m).unblocked := fun m => by
    by_cases hm : m = l
    · have h := hidle l
      rw [hb0] at h
      rw [hm]
      exact (congrArg Context.unblocked h :)
    · rw [hkeeps.2.ctxs m (by simpa using hm)]
  have hnone : t.nextReady c = none := (nextReady_congr c hun).trans hn
  have hw : t.waitingBlocks true c = [] := (waitingBlocks_ahead hahead helse).trans h2
  refine ⟨t, ?_, hkeeps, ?_⟩
  · change execContextDispatch s = _
    rw [execContextDispatch, hcur]
    simp only [done, run_all_cons, run_all_nil, hstart, run_read, hnone]
    split <;> simp only [run_skip, hw, Act.startWaiting]
  · have h := hidle l
    rw [hb0] at h
    exact idle_eq h rfl

/-! ## Allocation by a core (R389) -/

section allocation
variable {s : State} {c : Loc} (hu : (s.core c).unmailed = []) (hg : (s.polder c).migBuf = [])
include hu hg

/-- Where no message and no guest waits, one context is filled or none. -/
theorem exec_contextAllocation (hcur : s.cur = .contextAllocation c) : exec .contextAllocation s = .next ((Act.allocateNext c).run s) := by
  have hadmit : (Act.when ((s.core c).nextMail.isNone || (s.allocatable c).isNone) (.admitGuests c.toPolder [])).run s = s := by
    cases (s.core c).nextMail.isNone || (s.allocatable c).isNone <;> rfl
  change execContextAllocation s = _
  rw [execContextAllocation, hcur]
  simp only [done, run_all_cons, run_all_nil, run_read, hu, Act.mailWaiting, run_skip, hg, hadmit]

end allocation

/-- A context that a core may allocate is one of its own. -/
theorem allocatable_toCore {s : State} {c l : Loc} (hl : s.allocatable c = some l) : l.toCore = c.toCore := by
  have key : ∀ p : Loc → Bool, ((((List.range 8).map fun k => ({ c.toCore with ctx := k } : Loc)).filter s.freeCtx).find? p) = some l →
      l.toCore = c.toCore := by
    intro p h
    obtain ⟨k, _, rfl⟩ := List.mem_map.1 (List.mem_filter.1 (List.mem_of_find?_eq_some h)).1
    rfl
  rw [State.allocatable] at hl
  simp only at hl
  split at hl
  · next h => exact key _ (Option.some.inj hl ▸ h)
  · exact key _ hl

/-- An arrival that has left its queue fills the context, and nothing else of the core changes. -/
theorem fills {s : State} {c l : Loc} {g : CoreState → CoreState} {a : Arrival} (hs : s.Inv) (hl : s.allocatable c = some l)
    (hf : (s.core c).forwardOf l = none) (hg : ∀ x, (g x).forwards = x.forwards) (hw : a.words.length ≤ 16) :
    s.Filled ((Act.allocate l a).run ((Act.core c g).run s)) l a ∧ ((Act.allocate l a).run ((Act.core c g).run s)).core c = g (s.core c) := by
  have hcore : ((Act.core c g).run s).core c = g (s.core c) := core_apply_core c g s
  have hfu : (((Act.core c g).run s).core l).forwardOf l = none := by
    rw [core_of_toCore (allocatable_toCore hl), hcore, CoreState.forwardOf, hg]
    exact hf
  obtain ⟨h1, h2, _⟩ := filled_allocate (s := (Act.core c g).run s) (a := a) hs.mem hfu hw
  exact ⟨filled_core h1, (h2 c).trans hcore⟩

section kinds
variable {s : State} {c l : Loc} (hs : s.Inv) (hl : s.allocatable c = some l) (hf : (s.core c).forwardOf l = none)
include hs hl hf

/-- A waiting message's handler starts (R62, R219). -/
theorem mail_fills {m : MailSlot} (hm : (s.core c).nextMail = some m) (hw : m.msg.payload.length ≤ 16) :
    s.Filled ((Act.allocateNext c).run s) l (messageArrivalOf m.msg) ∧ (((Act.allocateNext c).run s).core c).mail = startSlot m (s.core c).mail ∧
      (((Act.allocateNext c).run s).core c).deque = (s.core c).deque := by
  obtain ⟨h1, h2⟩ := fills (g := fun x => { x with mail := startSlot m x.mail }) (a := messageArrivalOf m.msg) hs hl hf (fun _ => rfl) hw
  rw [Act.allocateNext, run_read]
  simp only [hl, hm, run_all_cons, run_all_nil]
  generalize (Act.allocate l (messageArrivalOf m.msg)).run ((Act.core c fun x => { x with mail := startSlot m x.mail }).run s) = u at h1 h2
  exact ⟨filled_keeps (ks := []) (ps := []) (ds := []) h1 (only_event _) fun q hq => (mem_schedule _ _ _).2 (.inr hq),
    (congrArg CoreState.mail h2 :), (congrArg CoreState.deque h2 :)⟩

/-- The record at the bottom of the deque starts (R62, R211, R225). -/
theorem deque_fills {e : DequeEntry} {rest : List DequeEntry} (hm : (s.core c).nextMail = none) (hd : (s.core c).deque = e :: rest)
    (hh : (s.core c).heldRecs = []) (hw : e.words.length ≤ 18) :
    s.Filled ((Act.allocateNext c).run s) l (taskArrivalOf e) ∧ (((Act.allocateNext c).run s).core c).deque = rest ∧
      (((Act.allocateNext c).run s).core c).mail = (s.core c).mail := by
  obtain ⟨h1, h2⟩ := fills (g := fun x => { x with deque := rest }) (a := taskArrivalOf e) hs hl hf (fun _ => rfl)
    (by rw [taskArrivalOf_words, List.length_drop]; omega)
  rw [Act.allocateNext, run_read]
  simp only [hl, hm, hd, run_all_cons, run_all_nil]
  generalize (Act.allocate l (taskArrivalOf e)).run ((Act.core c fun x => { x with deque := rest }).run s) = u at h1 h2
  rw [run_enterHeld (by rw [h2]; exact hh)]
  have hk := only_kickRefill (ps := []) c u
  have hq := kickRefill_kept c u
  obtain ⟨r, hr⟩ := kickRefill_core c u
  generalize (Act.kickRefill c).run u = v at hk hq hr
  refine ⟨filled_keeps (ks := [c.toCore]) (ps := []) (ds := []) (filled_keeps h1 hk hq) (only_seq only_event only_event v) fun q hq =>
    (mem_schedule _ _ _).2 (.inr ((mem_schedule _ _ _).2 (.inr hq))), ?_, ?_⟩
  · exact (congrArg CoreState.deque (hr.trans (by rw [h2])) :)
  · exact (congrArg CoreState.mail (hr.trans (by rw [h2])) :)

end kinds

/-- With nothing to run the core sets out to steal (R389, R395). -/
theorem sets_out {s : State} {c l : Loc} (hl : s.allocatable c = some l) (hm : (s.core c).nextMail = none) (hd : (s.core c).deque = [])
    (ha : (s.core c).asking = none) (hb : (s.core c).backoff = false) :
    s.Keeps ((Act.allocateNext c).run s) [] [] [] [] ∧ s.Plans ((Act.allocateNext c).run s) [(0, .stealRequest c.toCore)] := by
  rw [Act.allocateNext, run_read]
  simp only [hl, hm, hd, ha, hb]
  exact ⟨only_event s, plans_event (xs := []) (plans_refl s) rfl⟩

/-! ## Refills (R392) -/

/-- A change of cores does not show in memory. -/
theorem landsAt_cores {s t : State} (hr : t = { s with ctxs := t.ctxs, cores := t.cores, agenda := t.agenda }) {l : Loc} {a k : Nat} (h : s.landsAt l a k) :
    t.landsAt l a k := by
  obtain ⟨q, hq, hk, hu, h5⟩ := h
  obtain ⟨h4, _⟩ := homePlace_space hq
  exact ⟨q, hq, (keyOf_congr hr h4).trans hk, by rw [hr]; exact hu, h5⟩

/-- A ring read moves its index on by one. -/
theorem ringPop_writes {s : State} {l : Loc} {a k : Nat} (h : s.landsAt l a k) :
    s.Writes ((Act.ringPop l a 0).run s) l.toPolder k (bytesOf 8 (s.home64 l a + 1)) := by
  have := writes_home h (bytesOf 8 (s.home64 l a + 1))
  rwa [Act.ringPop, run_read, Nat.add_zero]

/-- A kick of a refill that is not under way plans it. -/
theorem kickRefill_plans {c : Loc} {s : State} (h : (s.core c).refilling = false) :
    ((Act.kickRefill c).run s).core c = { s.core c with refilling := true } ∧ s.planned ((Act.kickRefill c).run s) 4 (.dequeRefill c.toCore) := by
  rw [Act.kickRefill, run_read, h]
  exact ⟨core_seq_event, (mem_schedule _ _ _).2 (.inl rfl)⟩

/-- The context whose ring a core reads is one of its own. -/
theorem refillFrom_toCore {s : State} {c l : Loc} (h : s.refillFrom c = some l) : l.toCore = c.toCore := by
  obtain ⟨k, _, rfl⟩ := List.mem_map.1 (List.mem_of_find?_eq_some h)
  rfl

/-- What is kept of memory reads the same. -/
theorem num_kept {s t : State} {k n : Nat} (h : s.memKept t) : t.num k n = s.num k n := by
  rw [State.num, State.num, Memory.bytes, Memory.bytes]
  simp only [h.1]
/-- A change of a core that holds no record and refills nothing, and the refill that is planned behind it. -/
theorem refill_tail {v : State} {c : Loc} {g : CoreState → CoreState} (hh : (g (v.core c)).heldRecs = []) (hr : (g (v.core c)).refilling = false) :
    let t := (Act.all [.core c g, .enterHeld c, .kickRefill c, .offerWork c]).run v
    t.core c = { g (v.core c) with refilling := true } ∧ v.memKept t ∧ v.planned t 4 (.dequeRefill c.toCore) := by
  have hc : ((Act.core c g).run v).core c = g (v.core c) := core_apply_core c g v
  obtain ⟨h1, h2⟩ := kickRefill_plans (c := c) (s := (Act.core c g).run v) (by rw [hc]; exact hr)
  have h3 := (only_kickRefill (ps := []) c ((Act.core c g).run v)).1
  rw [hc] at h1
  simp only [run_all_cons, run_all_nil, run_enterHeld (s := (Act.core c g).run v) (c := c) (by rw [hc]; exact hh)]
  exact ⟨h1, memKept_trans (memKept_refl v) h3, (mem_schedule _ _ _).2 (.inr h2)⟩

section refill
variable {s : State} {c : Loc}

theorem refill_none (hh : (s.core c).heldRecs = []) (h : s.refillFrom c = none) :
    s.Keeps ((Act.refill c).run s) [] [c.toCore] [] [] ∧ ((Act.refill c).run s).core c = { s.core c with refilling := false } ∧
      s.Plans ((Act.refill c).run s) [] := by
  have hc : ((Act.core c fun k => { k with refilling := false }).run s).core c = { s.core c with refilling := false } := core_apply_core c _ s
  have hu : ((Act.core c fun k => { k with refilling := false }).run s).refillFrom c = none := h
  have hrun : (Act.refill c).run s = (Act.core c fun k => { k with refilling := false }).run s := by
    rw [Act.refill, run_seq, run_read, hu, run_enterHeld (by rw [hc]; exact hh)]
  rw [hrun]
  exact ⟨only_core (.head _) s, hc, plans_refl s⟩

/-- A refill takes the oldest record of the ring to the top of the deque, and plans the next. -/
theorem refill_some {l : Loc} {k : Nat} (hs : s.Inv) (hh : (s.core c).heldRecs = []) (h : s.refillFrom c = some l) (hd : (s.core c).deque.length ≤ 48)
    (hk : s.landsAt l (s.ctx l).spillBase k) :
    let t := (Act.refill c).run s
    t.core c = { s.core c with
      deque := (s.core c).deque ++ [s.ringEntry l]
      ringed := (s.core c).ringed.filter fun g => !(g.1 == l.ctx && g.2.1 == s.ringCell l (s.home64 l (s.ctx l).spillBase))
      refilling := true } ∧
    t.word k = (s.home64 l (s.ctx l).spillBase + 1) % 2 ^ 64 ∧ s.memKeptBut t k 8 ∧ s.planned t 4 (.dequeRefill c.toCore) := by
  have hcl := refillFrom_toCore h
  have hc : ((Act.core c fun k => { k with refilling := false }).run s).core c = { s.core c with refilling := false } := core_apply_core c _ s
  have hu : ((Act.core c fun k => { k with refilling := false }).run s).refillFrom c = some l := h
  have he : ((Act.core c fun k => { k with refilling := false }).run s).ringEntry l = s.ringEntry l := by
    have hr : (((Act.core c fun k => { k with refilling := false }).run s).core l).ringed = (s.core l).ringed := by
      rw [core_of_toCore hcl, hc, core_of_toCore (s := s) hcl]
    rw [State.ringEntry, hr]
    rfl
  have hlen : ¬ 48 < (((Act.core c fun k => { k with refilling := false }).run s).core c).deque.length := by
    rw [hc]
    exact Nat.not_lt.2 hd
  have hw := ringPop_writes (landsAt_cores (t := (Act.core c fun k => { k with refilling := false }).run s) rfl hk)
  have hm : s.memKept ((Act.core c fun k => { k with refilling := false }).run s) := memKept_refl s
  have hwf : ((Act.core c fun k => { k with refilling := false }).run s).mem.wf = true := hs.mem
  have hb : ((Act.core c fun k => { k with refilling := false }).run s).home64 l (s.ctx l).spillBase = s.home64 l (s.ctx l).spillBase := rfl
  rw [Act.refill, run_seq, run_read]
  simp only [hu, hlen, if_false, he]
  rw [run_all_cons]
  rw [hb] at hw
  have hvn := Writes_now hw
  have hvc := (Writes_core hw c).trans hc
  have hmem := Writes_memKeptBut hw
  have hnum := Writes_num hw hwf
  rw [bytesOf_length] at hmem hnum
  obtain ⟨htc, htm, htp⟩ := refill_tail (v := (Act.ringPop l (s.ctx l).spillBase 0).run ((Act.core c fun k => { k with refilling := false }).run s))
    (g := fun k => { k with
      deque := k.deque ++ [s.ringEntry l]
      ringed := k.ringed.filter fun g => !(g.1 == l.ctx && g.2.1 == s.ringCell l (s.home64 l (s.ctx l).spillBase)) })
    (by rw [hvc]; exact hh) (by rw [hvc])
  refine ⟨htc.trans (by rw [hvc]), ?_, ?_, ?_⟩
  · refine Eq.trans ?_ (hnum.trans (natOfBytes_bytesOf 8 _))
    exact num_kept htm
  · exact ⟨fun j hj => (htm.1 j).trans ((hmem.1 j hj).trans (hm.1 j)), fun j => (htm.2.1 j).trans ((hmem.2.1 j).trans (hm.2.1 j)),
      fun j => (htm.2.2 j).trans ((hmem.2.2 j).trans (hm.2.2 j))⟩
  · rw [State.planned, hvn] at htp
    exact htp

end refill

/-- A cell that the core keeps nothing of gives a record with the tag and PASID of its context, another what is kept beside it. -/
theorem ringEntry_plain {s : State} {l : Loc} (h : ∀ g ∈ (s.core l).ringed, g.1 = l.ctx → g.2.1 ≠ s.ringCell l (s.home64 l (s.ctx l).spillBase)) :
    s.ringEntry l = ⟨(List.range 8).map fun i => w64 (numAt (s.ringHead l (s.ctx l).spillBase 0 0x1000 64 448) (8 * i) 8),
      (s.ctx l).steal.toNat, (s.ctx l).pasid.toNat, .task⟩ := by
  have hn : ((s.core l).ringed.find? fun g => g.1 == l.ctx && g.2.1 == s.ringCell l (s.home64 l (s.ctx l).spillBase)) = none :=
    List.find?_eq_none.2 fun g hg => by
      simp only [Bool.and_eq_true, beq_iff_eq]
      exact fun ⟨h1, h2⟩ => h g hg h1 h2
  rw [State.ringEntry]
  simp only [hn]
theorem ringEntry_kept {s : State} {l : Loc} {e : DequeEntry} (h : (s.core l).ringed = [(l.ctx, s.ringCell l (s.home64 l (s.ctx l).spillBase), e)]) :
    s.ringEntry l = { e with words := (List.range 8).map fun i => w64 (numAt (s.ringHead l (s.ctx l).spillBase 0 0x1000 64 448) (8 * i) 8) } := by
  have hn : ((s.core l).ringed.find? fun g => g.1 == l.ctx && g.2.1 == s.ringCell l (s.home64 l (s.ctx l).spillBase)) =
      some (l.ctx, s.ringCell l (s.home64 l (s.ctx l).spillBase), e) := by
    rw [h, List.find?_cons_of_pos (by simp)]
  rw [State.ringEntry]
  simp only [hn]

/-- Settles O38: the allocation by what waits, the dispatch by who is READY or checked, the refill by the record at the head of the ring. -/
theorem contextsFilled : Obligations.ContextsFilled := by
  refine ⟨fun s c hs hu hg hcur => ⟨_, exec_contextAllocation hu hg hcur, fun h => ?_, fun l hl hf hh =>
    ⟨fun m hm hw => mail_fills hs hl hf hm hw, fun e rest hm hd hw => deque_fills hs hl hf hm hd hh hw, fun hm hd ha hb => sets_out hl hm hd ha hb⟩⟩,
    fun s c l h1 h2 hp hn hr ha => dispatches h1 h2 hp hn hr ha, fun s c l ep b hb h1 h2 hf hn => starts hb h1 h2 hf hn, fun s c hs hh hcur =>
    ⟨(Act.refill c).run s, by change execDequeRefill s = _; rw [execDequeRefill, hcur]; rfl, fun h => refill_none hh h, ?_⟩⟩
  · rw [Act.allocateNext, run_read]
    simp only [h]
    rfl
  · intro l k h hd hk bs words cell
    obtain ⟨hc, hw, hm, hp⟩ := refill_some hs hh h hd hk
    have hr : (s.core l).ringed = (s.core c).ringed := by rw [core_of_toCore (s := s) (refillFrom_toCore h)]
    refine ⟨fun hg => ?_, fun e he => ⟨?_, ?_⟩, by rw [hc], hw, hm, hp⟩
    · rw [hc, ringEntry_plain hg]
    · rw [hc, ringEntry_kept he]
    · rw [hc, ← hr, he]
      simp [cell]

end Sys2Proof.Machine
end

section
/-! SUPPORT. Atomics at their owner (spec/05 R134 to R136, spec/18 R372 to R376), and the start of a handler (R362 to R371). -/

namespace Sys2Proof.Machine

/-! ## An atomic is performed (R134, R135) -/

theorem keeps_of_ripples {s t : State} {p : Loc} (h : s.Ripples t p) : s.Keeps t [] [] [p.toPolder] [] := by
  have hm : s.memKept t := by rw [h.rest]; exact memKept_refl s
  exact ⟨hm, fun l _ => by rw [h.rest]; rfl, fun l _ => by rw [h.rest]; rfl, fun l hl => h.far l fun e => hl (e ▸ .head _), fun l _ => by rw [h.rest]; rfl⟩
theorem only_of_rippling {a : Act} {p : Loc} (h : a.Rippling p) : a.Only [] [] [p.toPolder] [] := fun s => keeps_of_ripples (h s)
theorem rippling_quietLine {p m : Loc} {line cls : Nat} (hm : m.toPolder = p.toPolder) : (Act.quietLine m line cls).Rippling p := by
  refine rippling_read fun s => ?_
  split
  · exact rippling_hitLine hm
  · exact rippling_fillLine hm
theorem only_counterZero {p : Loc} {k : Nat} : (Act.counterZero p k).Only [] [] [p.toPolder] [] :=
  only_seq (only_polder (.head _)) (only_of_rippling (rippling_pokeSlice rfl))

section perform
variable {s : State} {a : AmoPkt} {p : Place} {k back : Nat} (hs : s.mem.wf = true) (hk : s.keyOf p = some k) (h2 : p.space ≤ 2)
  (hu : s.unsettled p = false) (hc : s.amoCause p k (amoSize a) = 0)
include hs hk h2 hu hc

/-- AN ATOMIC IS PERFORMED: its word takes the member's new value, no other byte changes, and the old value is on its way back. -/
theorem performs : s.memKeptBut ((Act.performAmo a p back).run s) k (amoSize a) ∧
    ((Act.performAmo a p back).run s).num k (amoSize a) = amoNew a.op (8 * amoSize a) (s.num k (amoSize a)) a.r a.x % 2 ^ (8 * amoSize a) ∧
    s.planned ((Act.performAmo a p back).run s) back (.atomicReply a 0 (s.num k (amoSize a))) := by
  have ht : s.takesAt p k := ⟨hk, hu, fun h => by omega⟩
  have hw := writes_place ht (bytesOf (amoSize a) (amoNew a.op (8 * amoSize a) (s.num k (amoSize a)) a.r a.x))
  rw [Act.performAmo, run_read, hk]
  simp only [hc, ne_eq, not_true_eq_false, if_false]
  rw [run_all_cons]
  have hmem := Writes_memKeptBut hw
  have hnum := Writes_num hw hs
  have hnow := Writes_now hw
  rw [bytesOf_length] at hmem hnum
  generalize (Act.writePlace p (bytesOf (amoSize a) (amoNew a.op (8 * amoSize a) (s.num k (amoSize a)) a.r a.x))).run s = u at hmem hnum hnow
  rw [run_all_cons, run_all_cons, run_all_cons, run_all_nil]
  generalize hA : Act.when (decide (p.space < 2)) _ = A
  generalize hB : Act.when (a.op == .decz && _) (.counterZero p.owner k) = B
  have hkeep : u.Keeps (B.run (A.run u)) [] [] [p.owner.toPolder] [] := by
    subst hA hB
    refine only_seq (only_when fun _ => ?_) (only_when fun _ => only_counterZero) u
    split
    · exact only_of_rippling (rippling_quietLine rfl)
    · exact only_of_rippling (rippling_demandLine rfl)
  have hn : (B.run (A.run u)).now = s.now := by rw [run_now, run_now, hnow]
  generalize B.run (A.run u) = v at hkeep hn
  refine ⟨⟨fun j hj => (hkeep.1.1 j).trans (hmem.1 j hj), fun j => (hkeep.1.2.1 j).trans (hmem.2.1 j), fun j => (hkeep.1.2.2 j).trans (hmem.2.2 j)⟩, ?_, ?_⟩
  · refine (num_kept hkeep.1 : v.num k (amoSize a) = u.num k (amoSize a)).trans (hnum.trans ?_)
    rw [natOfBytes_bytesOf, show 256 = 2 ^ 8 from rfl, ← Nat.pow_mul]
  · exact (mem_schedule _ _ _).2 (.inl (by rw [hn]))
end perform

/-! ## The atomic unit (R372, R373) -/

/-- The first packet of a source takes the first slot. -/
theorem amoAdmit_first (x : AmoPkt × Place) : amoAdmit [x] [] [] = ([], [⟨0, amoSource x.1 x.2.owner, 0, [x]⟩]) := by
  have h0 : ((List.range 32).find? fun i => !([] : List AmoSlot).any fun t => t.idx == i) = some 0 := by decide
  have hj : amoJoin x [] = some [⟨0, amoSource x.1 x.2.owner, 0, [x]⟩] := by
    simp only [amoJoin, List.find?_nil, h0, Option.map_some, List.nil_append]
  have hn : ([] : List AmoSrc).contains (amoSource x.1 x.2.owner) = false := rfl
  simp only [amoAdmit, hn, Bool.false_eq_true, if_false, hj]

theorem enters_unit {s : State} {a : AmoPkt} {p : Place} (hw : (s.polder p.owner).amoWait = []) (hq : (s.polder p.owner).amoSlots = [])
    (hb : (s.polder p.owner).amoBusy = false) : s.Keeps ((Act.amoEnter a p).run s) [] [] [p.owner.toPolder] [] ∧
      (((Act.amoEnter a p).run s).polder p.owner).amoSlots = [⟨0, amoSource a p.owner, 0, [(a, p)]⟩] ∧
      s.Plans ((Act.amoEnter a p).run s) [(1, .atomicTurn p.owner.toPolder none)] := by
  rw [Act.amoEnter, run_read]
  simp only [hw, hq, hb, List.nil_append, amoAdmit_first, List.length_nil, Nat.lt_irrefl, decide_false, Bool.not_false]
  refine ⟨only_seq (only_polder (.head _)) (only_seq only_skip (only_seq only_event only_skip)) s, ?_, plans_event (xs := []) (plans_refl s) rfl⟩
  exact congrArg PolderState.amoSlots
    (polder_apply_polder p.owner (fun x => { x with amoWait := [], amoSlots := [⟨0, amoSource a p.owner, 0, [(a, p)]⟩], amoBusy := true }) s)

section arrive
variable {s : State} {a : AmoPkt} {p : Place} {l : Loc} {ep n : Nat} (hi : a.into = .slot l ep n) (ho : p.owner = l.toPolder)
  (hd : s.isDry l p.owner = false) (hb : s.amoBlocked a p = false) (h2 : p.space ≤ 2) (hh : (s.polder p.owner).amoHeld = [])
include hi ho

theorem amoWho_slot : amoWho a p.owner = l := by rw [amoWho, hi]
include hd hb h2 hh

/-- An atomic of the owner's own polder passes at once where nothing holds it. -/
theorem run_amoArrive : (Act.amoArrive a p).run s = (Act.amoPass a p).run s := by
  have hr : s.routed l p.owner (s.partOf l) = true := by rw [ho]; simp [State.routed, Loc.toPolder]
  have hg : s.isGone l p.owner = false := by rw [State.isGone, hd]; rfl
  have hk : s.dikeAdmits l (s.partOf l) p (amoSize a) true = true := by
    have h3 : (p.space == 3) = false := by simp; omega
    have ho' : l.toPolder = p.owner.toPolder := by rw [ho]; rfl
    simp only [State.dikeAdmits, h3, Bool.false_and, Bool.not_false, Bool.true_and, ho', decide_true, Bool.true_or]
  rw [Act.amoArrive, run_read]
  simp only [amoWho_slot hi ho, hr, hg, hk, hd, hh, hb, List.any_nil, Bool.not_true, Bool.false_eq_true, if_false, Bool.or_self]
end arrive

/-- With no slot occupied there is none to serve; of one alone that is it. -/
theorem nextSlot_nil (last : Nat) : nextSlot [] last = none := by
  have : ((List.range 32).filterMap fun i => ([] : List AmoSlot).find? fun t => t.idx == (last + 1 + i) % 32) = [] :=
    List.filterMap_eq_nil_iff.2 fun _ _ => rfl
  rw [nextSlot, this]
  rfl
theorem nextSlot_one {t : AmoSlot} (h : t.idx < 32) (last : Nat) : nextSlot [t] last = some t := by
  have hmem : ∀ x ∈ (List.range 32).filterMap fun i => [t].find? fun u => u.idx == (last + 1 + i) % 32, x = t := by
    intro x hx
    obtain ⟨i, _, hi⟩ := List.mem_filterMap.1 hx
    exact List.mem_singleton.1 (List.mem_of_find?_eq_some hi)
  have hne : ((List.range 32).filterMap fun i => [t].find? fun u => u.idx == (last + 1 + i) % 32) ≠ [] := by
    intro h0
    have := List.filterMap_eq_nil_iff.1 h0 ((t.idx + 32 - (last + 1) % 32) % 32) (List.mem_range.2 (Nat.mod_lt _ (by omega)))
    have he : t.idx = (last + 1 + (t.idx + 32 - (last + 1) % 32) % 32) % 32 := by omega
    simp [← he] at this
  rw [nextSlot]
  cases hl : (List.range 32).filterMap fun i => [t].find? fun u => u.idx == (last + 1 + i) % 32 with
  | nil => exact absurd hl hne
  | cons x xs =>
    rw [hl] at hmem
    rw [List.head?_cons, hmem x (.head _)]

/-- The turn of the only packet of a unit that nothing holds. -/
def Act.turnOf (o : Loc) (i : Nat) (a : AmoPkt) (p : Place) : Act :=
  .seq (.polder o fun x => { x with amoTurn := i, amoWait := [], amoSlots := [] }) (.seq (.amoBegin o a p) (.count o 0x380))

/-- What the unit keeps of its packets does not show in what a packet meets. -/
structure State.Units (s t : State) : Prop where
  rest : t = { s with polders := t.polders }
  near : ∀ m, ∃ a b c, t.polder m = { s.polder m with amoTurn := a, amoWait := b, amoSlots := c }

section units
variable {s t : State} (h : s.Units t)
include h

theorem units_num (k n : Nat) : t.num k n = s.num k n := by rw [h.rest]; rfl
theorem units_tierKey (l : Loc) (o : Nat) : t.tierKey l o = s.tierKey l o := by
  obtain ⟨a, b, c, hp⟩ := h.near l
  have hd : t.device l = s.device l := by rw [h.rest]; rfl
  simp only [State.tierKey, State.homeMapEntry, hp, hd, units_num h]
  rfl
theorem units_keyOf (q : Place) : t.keyOf q = s.keyOf q := by
  obtain ⟨a, b, c, hp⟩ := h.near q.owner
  have hc : ∀ l, t.ctx l = s.ctx l := fun l => by rw [h.rest]; rfl
  simp only [State.keyOf, units_tierKey h, hp, hc]
theorem units_amoCause (q : Place) (k n : Nat) : t.amoCause q k n = s.amoCause q k n := by
  obtain ⟨a, b, c, hp⟩ := h.near q.owner
  have hc : ∀ l, t.ctx l = s.ctx l := fun l => by rw [h.rest]; rfl
  have hw : t.workspaceHit q n = s.workspaceHit q n := by simp only [State.workspaceHit, hc]
  have hl : t.lockHit q.owner k n false = s.lockHit q.owner k n false := by simp only [State.lockHit, hp]
  have hpin : t.pinHit q n = s.pinHit q n := by
    simp only [State.pinHit, units_keyOf h, units_num h, hp]
  have he : t.eccHit k n = s.eccHit k n := by rw [h.rest]; rfl
  simp only [State.amoCause, hw, hl, hpin, he]
theorem units_amoMiss (a : AmoPkt) (q : Place) : t.amoMiss a q = s.amoMiss a q := by
  obtain ⟨a, b, c, hp⟩ := h.near q.owner
  simp only [State.amoMiss, State.l2Hit, State.l2Find, units_keyOf h, units_amoCause h, hp]
theorem units_amoRank (a : AmoPkt) (q : Place) : t.amoRank a q = s.amoRank a q := by
  obtain ⟨a, b, c, hp⟩ := h.near q.owner
  have hpin : t.isPin q = s.isPin q := by simp only [State.isPin, hp]
  rw [State.amoRank, hpin, State.amoRank]
theorem units_amoBack (a : AmoPkt) (q : Place) : t.amoBack a q = s.amoBack a q := by
  have hw : ∀ x y, t.way x y = s.way x y := fun x y => by rw [h.rest]; rfl
  simp only [State.amoBack, units_amoMiss h, hw]
theorem units_amoBegun (o : Loc) : t.amoBegun o = s.amoBegun o := by rw [h.rest]; rfl
theorem units_sliceTicks (o : Loc) (n : Nat) : t.sliceTicks o n = s.sliceTicks o n := by
  obtain ⟨a, b, c, hp⟩ := h.near o
  simp only [State.sliceTicks, hp]
end units

theorem units_turn (s : State) (o : Loc) (i : Nat) :
    s.Units ((Act.polder o fun x => { x with amoTurn := i, amoWait := [], amoSlots := [] }).run s) := by
  refine ⟨rfl, fun m => ?_⟩
  by_cases hm : m.toPolder = o.toPolder
  · exact ⟨_, _, _, polder_apply_polder_of hm (fun x => { x with amoTurn := i, amoWait := [], amoSlots := [] }) s⟩
  · exact ⟨_, _, _, polder_apply_polder_other _ _ (fun x => { x with amoTurn := i, amoWait := [], amoSlots := [] }) s hm⟩

section turn
variable {s : State} {o : Loc}

theorem run_amoRetry_none (hh : (s.polder o).amoHeld = []) : (Act.read fun s => .amoRetry (s.polder o).amoHeld []).run s = s := by
  rw [run_read, hh]
  rfl
theorem run_amoTurn_none (hh : (s.polder o).amoHeld = []) (hq : (s.polder o).amoSlots = []) :
    (Act.amoTurn o).run s = (Act.polder o fun x => { x with amoBusy := false }).run s := by
  rw [Act.amoTurn, run_seq, run_amoRetry_none hh, run_read]
  simp only [hq, nextSlot_nil, hh, List.isEmpty_nil, if_true]

variable {a : AmoPkt} {p : Place} {k i n : Nat} {src : AmoSrc} (hh : (s.polder o).amoHeld = []) (hq : (s.polder o).amoSlots = [⟨i, src, n, [(a, p)]⟩])
  (hi : i < 32) (hw : (s.polder o).amoWait = []) (hb : s.amoBegun o = [])
include hh hq hi hw hb

theorem run_amoTurn_one : (Act.amoTurn o).run s = (Act.seq (.turnOf o i a p) (.event (s.sliceTicks o 1) (.atomicTurn o.toPolder none))).run s := by
  have hs : amoServed ⟨i, src, n, [(a, p)]⟩ (s.polder o) = ([], []) := by simp [amoServed, hq, hw]
  have hno : (decide (s.now < s.amoDue a p) && decide (16 ≤ (((s.amoBegun o).filter fun x => s.now < x.1).length))) = false := by simp [hb]
  rw [Act.amoTurn, run_seq, run_amoRetry_none hh, run_read]
  simp only [hq, nextSlot_one (t := ⟨i, src, n, [(a, p)]⟩) hi]
  rw [if_neg (by rw [hno]; exact Bool.false_ne_true)]
  simp only [hs, amoAdmit, List.drop_succ_cons, List.drop_nil, List.filter_nil, run_all_cons, run_all_nil, run_each_nil]
  rfl
end turn

section turns
variable {s : State} {o : Loc} {a : AmoPkt} {p : Place} {i : Nat} (ho : p.owner = o)
include ho

theorem rippling_amoBegin : (Act.amoBegin o a p).Rippling o :=
  rippling_read fun s => rippling_seq (rippling_when (rippling_seq (rippling_when (rippling_count (by rw [ho]))) (rippling_lineEvent (by rw [ho]))))
    (rippling_seq rippling_event rippling_skip)
/-- The packet whose turn begins is performed when it is due. -/
theorem amoBegin_plans (s : State) :
    s.planned ((Act.amoBegin o a p).run s) (s.amoDue a p - s.now) (.atomicTurn o.toPolder (some (a, p, s.amoRank a p, s.amoBack a p))) := by
  rw [Act.amoBegin, run_read]
  simp only [run_all_cons, run_all_nil]
  refine (mem_schedule _ _ _).2 (.inl ?_)
  rw [run_now]

/-- THE TURN OF A PACKET leaves the slots empty and plans its performance. -/
theorem turnOf_does (hb : s.amoBegun o = []) :
    let t := (Act.turnOf o i a p).run s
    s.memKept t ∧ (t.polder o).amoSlots = [] ∧ t.now = s.now ∧ s.planned t (if s.amoMiss a p then memTerm p.space false else 0)
      (.atomicTurn o.toPolder (some (a, p, s.amoRank a p, s.amoBack a p))) := by
  have hu := units_turn s o i
  have hup : (((Act.polder o fun x => { x with amoTurn := i, amoWait := [], amoSlots := [] }).run s).polder o).amoSlots = [] :=
    congrArg PolderState.amoSlots (polder_apply_polder o (fun x => { x with amoTurn := i, amoWait := [], amoSlots := [] }) s)
  have hum : s.memKept ((Act.polder o fun x => { x with amoTurn := i, amoWait := [], amoSlots := [] }).run s) := memKept_refl s
  have hun : ((Act.polder o fun x => { x with amoTurn := i, amoWait := [], amoSlots := [] }).run s).now = s.now := rfl
  simp only [Act.turnOf, run_seq]
  generalize (Act.polder o fun x => { x with amoTurn := i, amoWait := [], amoSlots := [] }).run s = u at hu hup hum hun
  have hp := amoBegin_plans (a := a) (p := p) (o := o) ho u
  have hr := rippling_seq (rippling_amoBegin (a := a) ho) (rippling_count (p := o) (off := 0x380) rfl) u
  have hdue : u.amoDue a p - u.now = if s.amoMiss a p then memTerm p.space false else 0 := by
    have h0 : u.amoBegun p.owner = [] := by rw [ho, units_amoBegun hu, hb]
    rw [State.amoDue, h0, units_amoMiss hu]
    simp
  rw [run_seq] at hr
  refine ⟨memKept_trans hum (keeps_of_ripples hr).1, ?_, ?_, ?_⟩
  · exact (congrArg PolderState.amoSlots (hr.near o) :).trans hup
  · rw [run_now, run_now, hun]
  · rw [State.planned, hdue, hun, units_amoRank hu, units_amoBack hu] at hp
    exact hp
end turns

/-- A packet's cause, its line and its place say when it is performed and answered. -/
theorem amoMiss_hit {s : State} {a : AmoPkt} {p : Place} {k : Nat} (hk : s.keyOf p = some k) (h : p.space = 2 ∨ s.l2Hit p k = true) : s.amoMiss a p = false := by
  rcases h with h | h
  · simp [State.amoMiss, h]
  · simp [State.amoMiss, hk, h]
theorem amoMiss_miss {s : State} {a : AmoPkt} {p : Place} {k : Nat} (hk : s.keyOf p = some k) (hc : s.amoCause p k (amoSize a) = 0) (h2 : p.space < 2)
    (h : s.l2Hit p k = false) : s.amoMiss a p = true := by simp [State.amoMiss, hk, hc, h2, h]

/-! ## The answer to an atomic (R136, R251) -/

section reply
variable {s : State} {a : AmoPkt} {c old : Nat} {l : Loc} {ep n : Nat} {b : Block} {i : Instr} (hb : s.inFlight l ep b)
include hb

/-- The old value goes to the targets and is counted. -/
theorem answers (hi : b.instrAt n = some i) (ha : amoAcquires a old = false) :
    s.FiredAt ((Act.atomicAnswer a l ep n 0 old).run s) l ep n b { b with out := b.out.filter (fun k => k != n), namo := b.namo + 1 }
      (({ s with focus := ⟨l, ep, n⟩ } : State).tokensOf b [(0, .val (w64 old), targetsOf i)]) := by
  have h0 : ({ s with focus := ⟨l, ep, n⟩ } : State).firingBlock b := hb
  have hal : b.alike { b with out := b.out.filter (fun k => k != n), namo := b.namo + 1 } := ⟨rfl, rfl, rfl⟩
  have h : ({ s with focus := ⟨l, ep, n⟩ } : State).Fired ((Act.block l fun x => { x with
      out := x.out.filter (fun k => k != n), namo := x.namo + 1 }).run { s with focus := ⟨l, ep, n⟩ }) b
      { b with out := b.out.filter (fun k => k != n), namo := b.namo + 1 } [] := Fired_block (fired_refl h0) fun f w => ⟨f, w, rfl⟩
  have hf := firedAt_settled hb.1 hb.2 (blind_seq blind_block blind_deliver) hal (Fired_deliver (lat := 0) (tok := .val (w64 old)) (ts := targetsOf i) h0 hal h)
  simp only [run_seq, run_skip] at hf
  have hnone : b.fault.isSome = false := by rw [hb.2]; rfl
  simp only [Act.atomicAnswer, run_read, hb.1, hnone, ha, hi, ne_eq, not_true_eq_false, if_false, if_true, Bool.false_eq_true, run_all_cons,
    run_all_nil, run_seq, run_when, Option.elim]
  exact hf

/-- A refused atomic is the block's fault. -/
theorem answers_fault (hc : 1 < c) :
    s.FiredAt ((Act.atomicAnswer a l ep n c old).run s) l ep n b { b with out := b.out.filter (fun k => k != n), fault := some ⟨s.now, n, c, 0, a.addr⟩ }
      [⟨s.now, .event (.blockAbandon l ep)⟩] := by
  have h0 : ({ s with focus := ⟨l, ep, n⟩ } : State).firingBlock b := hb
  have hal : b.alike { b with out := b.out.filter (fun k => k != n), fault := some ⟨s.now, n, c, 0, a.addr⟩ } := ⟨rfl, rfl, rfl⟩
  have h : ({ s with focus := ⟨l, ep, n⟩ } : State).Fired ((Act.block l fun x => { x with fault := some ⟨s.now, n, c, 0, a.addr⟩ }).run
      ((Act.block l fun x => { x with out := x.out.filter fun k => k != n }).run { s with focus := ⟨l, ep, n⟩ })) b
      { b with out := b.out.filter (fun k => k != n), fault := some ⟨s.now, n, c, 0, a.addr⟩ } [] :=
    Fired_block (b' := { b with out := b.out.filter fun k => k != n }) (Fired_block (fired_refl h0) fun f w => ⟨f, w, rfl⟩) fun f w => ⟨f, w, rfl⟩
  have hf := firedAt_settled hb.1 hb.2 (blind_seq blind_block (blind_seq blind_block blind_event)) hal (Fired_event (d := 0) (e := .blockAbandon l ep) h)
  have hu : ((Act.block l fun x => { x with out := x.out.filter fun k => k != n }).run s).blockAt l ep =
      some { b with out := b.out.filter fun k => k != n } := by
    obtain ⟨h1, h2⟩ := blockAt_some hb.1
    have hc : ((Act.block l fun x => { x with out := x.out.filter fun k => k != n }).run s).ctx l =
        { s.ctx l with block := some { b with out := b.out.filter fun k => k != n } } := by
      refine (ctx_apply_ctx l (fun c => { c with block := c.block.map fun x => { x with out := x.out.filter fun k => k != n } }) s).trans ?_
      rw [h1]
      rfl
    simp [State.blockAt, hc, h2]
  have hc0 : c ≠ 0 := by omega
  have hc1 : c ≠ 1 := by omega
  have hn : ((Act.block l fun x => { x with out := x.out.filter fun k => k != n }).run s).now = s.now := rfl
  simp only [run_seq, run_skip] at hf
  simp only [Act.atomicAnswer, run_read, hb.1, hc0, ne_eq, not_false_iff, if_false, if_true, run_all_cons, run_all_nil, run_seq, Act.raise, hu, hb.2,
    hc1, hn, Bool.not_false, run_when]
  exact hf
end reply

/-- The answer to a waiting `SAMO`. -/
theorem answers_handler {s : State} {a : AmoPkt} {p : Loc} {gen rd old : Nat} {h : Handler} (hi : a.into = .handler p gen rd)
    (hh : (s.polder p).handler = some h) (hg : h.gen = gen) (hw : h.wait = true) : s.Keeps ((Act.amoReply a 0 old).run s) [] [] [p.toPolder] [] ∧
      (((Act.amoReply a 0 old).run s).polder p).handler = some { h with pc := (h.pc + 4) % 2 ^ 32, regs := setX h.regs rd old, wait := false } ∧
      ⟨s.now, .slice p.toPolder gen⟩ ∈ ((Act.amoReply a 0 old).run s).agenda := by
  have hgo : (decide (h.gen = gen) && h.wait) = true := by simp [hg, hw]
  have hrun : (Act.amoReply a 0 old).run s = (Act.seq
      (.polder p fun q => { q with handler := q.handler.map fun x => { x with pc := (x.pc + 4) % 2 ^ 32, regs := setX x.regs rd old, wait := false } })
      (.fx (.sched 0 (.slice p.toPolder gen)))).run s := by
    rw [Act.amoReply, hi]
    simp only [Act.sliceAnswer, run_read, hh, hgo, run_when, if_true]
  rw [hrun]
  refine ⟨only_seq (only_polder (.head _)) only_sched s, ?_, (mem_schedule _ _ _).2 (.inl rfl)⟩
  refine (congrArg PolderState.handler (polder_apply_polder p (fun q => { q with
    handler := q.handler.map fun x => { x with pc := (x.pc + 4) % 2 ^ 32, regs := setX x.regs rd old, wait := false } }) s)).trans ?_
  rw [hh]
  rfl

/-- Settles O43: what performs an atomic, the turn that comes to it, and its answer, each once. -/
theorem atomicsPerformed : Obligations.AtomicsPerformed := by
  refine ⟨?arrival, ?turn, ?moment, ?reply, ?handler⟩
  case arrival =>
    intro s a p k l ep n hs hi ho hd hb hk h2 hh hcur
    have hx : exec .atomicPacketArrival s = .next ((Act.amoPass a p).run s) := by
      change execAtomicPacketArrival s = _
      rw [execAtomicPacketArrival, hcur]
      exact congrArg _ (run_amoArrive hi ho hd hb h2 hh)
    refine ⟨_, hx, fun h hsrc hc => ?_, fun h hw hq hbusy => ?_⟩
    · have hu : s.unsettled p = false := (Bool.or_eq_false_iff.1 hb).1
      have hpass : Act.amoPass a p = .performAmo a p (if a.addr < 2 ^ 40 then (if p.off / 0x20000 = l.core then 4 else 16) else 24) := by
        have hl : l.toPolder = p.owner.toPolder := by rw [ho]; rfl
        have hsrc : (a.src != .slice) = true := by simpa using hsrc
        simp only [Act.amoPass, amoWho_slot hi ho, h, hsrc, hl, decide_true, Bool.and_self, if_true]
      rw [hpass]
      exact performs hs.mem hk h2 hu hc
    · have hpass : Act.amoPass a p = .amoEnter a p := by
        simp only [Act.amoPass, h, decide_false, Bool.false_and, Bool.false_eq_true, if_false]
      rw [hpass]
      exact enters_unit hw hq hbusy
  case turn =>
    intro s o hs hcur
    refine ⟨(Act.amoTurn o).run s, by change execAtomicTurn s = _; rw [execAtomicTurn, hcur]; rfl, fun hh => ⟨fun hq => ?_,
        fun a p k i src n hq hi hw ho hk hc hb => ?_⟩⟩
    · rw [run_amoTurn_none hh hq]
      exact ⟨only_polder (.head _) s, plans_refl s, congrArg PolderState.amoBusy (polder_apply_polder o (fun x => { x with amoBusy := false }) s)⟩
    · obtain ⟨hm, hslots, hn, hp⟩ := turnOf_does (i := i) (a := a) ho hb
      rw [run_amoTurn_one hh hq hi hw hb, run_seq]
      have hkept : ∀ q ∈ ((Act.turnOf o i a p).run s).agenda,
          q ∈ ((Act.event (s.sliceTicks o 1) (.atomicTurn o.toPolder none)).run ((Act.turnOf o i a p).run s)).agenda :=
        fun q hq => (mem_schedule _ _ _).2 (.inr hq)
      refine ⟨hm, hslots, (mem_schedule _ _ _).2 (.inl (by rw [hn])), fun h => ?_, fun h1 h2 => ?_⟩
      · have := hkept _ hp
        rwa [State.amoBack, amoMiss_hit hk h] at this
      · have := hkept _ hp
        rwa [State.amoBack, amoMiss_miss hk hc h1 h2] at this
  case moment =>
    intro s o a p k r back hs hk h2 hu hc hcur
    refine ⟨(Act.amoPerform o (a, p, r, back)).run s, by change execAtomicTurn s = _; rw [execAtomicTurn, hcur]; rfl, fun hr hw => ?_, fun h => ?_⟩
    · have hgo : (r == 65 && s.sliceWrites o) = true := by simp [hr, hw]
      rw [Act.amoPerform, run_read, if_pos hgo]
      exact ⟨only_event s, plans_event (xs := []) (plans_refl s) rfl⟩
    · have hgo : (r == 65 && s.sliceWrites o) = false := by
        rcases h with h | h <;> simp [h]
      rw [Act.amoPerform, run_read, if_neg (by rw [hgo]; exact Bool.false_ne_true)]
      exact performs hs.mem hk h2 hu hc
  case reply =>
    intro s a c old l ep n b i hinto hb hi ha hcur
    refine ⟨(Act.amoReply a c old).run s, by change execAtomicReply s = _; rw [execAtomicReply, hcur]; rfl, fun hc => ?_, fun hc => ?_⟩
    · rw [Act.amoReply, hinto, hc]
      exact answers hb hi ha
    · rw [Act.amoReply, hinto]
      exact answers_fault hb hc
  case handler =>
    intro s a p gen rd h old hinto hh hg hw hcur
    exact ⟨(Act.amoReply a 0 old).run s, by change execAtomicReply s = _; rw [execAtomicReply, hcur]; rfl, answers_handler hinto hh hg hw⟩

/-! ## A handler out of budget (R370, R371) -/

theorem blind_polder {p : Loc} {g : PolderState → PolderState} : (Act.polder p g).Blind := fun _ _ => rfl
theorem blind_hostRec {l : Loc} {part : Nat} {r : FaultRec} : (Act.hostRec l part r).Blind := fun _ _ => rfl
theorem blind_post {l : Loc} {r : FaultRec} : (Act.post l r).Blind := by
  refine blind_read (fun s f => rfl) fun s => ?_
  simp only
  split
  · exact blind_ctx
  · exact blind_seq blind_ctx blind_hostRec
theorem blind_recordFor {p : Loc} {desc : List W64} {c inner a : Nat} : (Act.recordFor p desc c inner a).Blind :=
  blind_read (fun _ _ => rfl) fun _ => blind_seq blind_hostRec (blind_when blind_post)
theorem blind_endHandler {p : Loc} {gen : Nat} : (Act.endHandler p gen).Blind :=
  blind_read (fun _ _ => rfl) fun _ => blind_seq (fun _ _ => rfl) (blind_seq blind_polder (blind_seq blind_event blind_skip))
theorem blind_killHandler {p : Loc} {h : Handler} {c : Nat} : (Act.killHandler p h c).Blind :=
  blind_seq blind_recordFor (blind_seq blind_polder (blind_seq blind_endHandler blind_skip))

/-- A KILL is one whatever the step's focus is. -/
theorem kills_at (s : State) (p : Loc) (h : Handler) (c : Nat) : ({ s with focus := ⟨p, 0, 0⟩ } : State).Kills ((Act.killHandler p h c).run s) h c := by
  have hk := run_killHandler (s := { s with focus := ⟨p, 0, 0⟩ }) (h := h) c
  have hb := blind_killHandler (p := p.toPolder) (h := h) (c := c) s ⟨p, 0, 0⟩
  have hrun : (Act.killHandler p h c).run s = (Act.killHandler p.toPolder h c).run s := rfl
  rw [hrun]
  change ({ s with focus := ⟨p, 0, 0⟩ } : State).Kills ((Act.killHandler p.toPolder h c).run { s with focus := ⟨p, 0, 0⟩ }) h c at hk
  rw [hb] at hk
  exact ⟨hk.mem, hk.beyond, hk.next, hk.gone, hk.counted, hk.record⟩

/-! ## Starting handlers (R364, R365, R369) -/

theorem leaves_polder_of {α : Type} {f : PolderState → α} {l m : Loc} {g : PolderState → PolderState} (hg : ∀ c, f (g c) = f c) :
    (Act.polder l g).Leaves fun s => f (s.polder m) := fun s => by
  change f (((Effect.polder l g).apply s).polder m) = f (s.polder m)
  by_cases h : m.toPolder = l.toPolder
  · rw [polder_apply_polder_of h, hg]
  · rw [polder_apply_polder_other _ _ _ _ h]
theorem leaves_evalWatches {α : Type} {f : PolderState → α} {m o : Loc} {k n : Nat} (hf : ∀ (x : PolderState) w, f { x with watches := w } = f x) :
    (Act.evalWatches o k n).Leaves fun s => f (s.polder m) := by
  refine leaves_read fun s => leaves_each fun w => ?_
  simp only
  split
  · exact leaves_when (leaves_seq (leaves_polder_of fun _ => hf _ _) fun _ => rfl)
  · exact leaves_when (leaves_seq (leaves_polder_of fun _ => hf _ _) fun _ => rfl)

theorem slicePart_length (q : Place) (bs : List Byte) : (slicePart q bs).length = bs.length := by
  unfold slicePart
  split <;> simp

/-- A WRITE OF SLICE HANDLER MEMORY behind its set descriptors: its bytes, less the reserved ones, and the watches on them (R6, R362). -/
theorem run_writeSlice {s : State} {p : Loc} {off : Nat} (h : 0x100 ≤ off) (bs : List Byte) : ∃ e,
    (Act.writePlace ⟨p.toPolder, 5, off⟩ bs).run s =
      (Act.evalWatches p.toPolder (keyIn p.toPolder 5 off) bs.length).run
        { s with mem := s.mem.putAll (keyIn p.toPolder 5 off) (slicePart ⟨p.toPolder, 5, off⟩ bs), ecc := e } := by
  have hf : s.isFresh ⟨p.toPolder, 5, off⟩ = false := by simp [State.isFresh, State.freshBit]
  have hk : s.keyOf ⟨p.toPolder, 5, off⟩ = some (keyIn p.toPolder 5 off) := rfl
  have h5 : (decide (off < 0x100)) = false := by simpa using h
  rw [Act.writePlace, run_seq, run_seq, run_startZeroing hf, run_zeroGranule hf, run_read, hk]
  simp only [run_all_cons, run_all_nil, run_putBytes, h5, Bool.and_false, run_when, Bool.false_eq_true, if_false]
  exact ⟨_, rfl⟩

section choice
variable {s : State} {p : Loc} {e : SliceEvent}

/-- The only event of a set is the one that it starts with. -/
theorem setEvent_of (he : (s.polder p).events = [e]) (hc : (s.polder p).counterRegs = []) (hn : s.nextSet p = some e.set) (h4 : e.set < 4) :
    s.setEvent p e.set = some e := by
  have hsome : (s.setEvent p e.set).isSome = true := by
    have := List.find?_some hn
    simpa only [Nat.ne_of_lt h4, if_false] using this
  have hp : (s.polder p).pendingOf e.set = [e] := by simp [PolderState.pendingOf, he, hc]
  rw [State.setEvent] at hsome ⊢
  simp only [hp] at hsome ⊢
  split at hsome
  · cases hsome
  · next h => rw [if_neg h]; rfl
/-- Without events no set starts a handler. -/
theorem setEvent_none (he : (s.polder p).events = []) (hc : (s.polder p).counterRegs = []) (i : Nat) : s.setEvent p i = none := by
  have hp : (s.polder p).pendingOf i = [] := by simp [PolderState.pendingOf, he, hc]
  rw [State.setEvent]
  simp only [hp]
  split <;> rfl

/-- An event that its set starts with leaves its queue, and enters its handler or is dropped. -/
theorem run_chooseEvent (he : s.setEvent p e.set = some e) (hn : s.nextSet p = some e.set) (h4 : e.set < 4) (n : Nat) :
    (Act.chooseEvent p (n + 1)).run s = (Act.seq (.takeEvent p e)
      (if e.indexed && (if e.indexed then s.num (keyIn p.toPolder 5 (s.setBase p e.set + 4 * e.entry)) 4 else e.entry) == 0 then
        .seq (.count p 0x378) (.chooseEvent p n)
      else .enterHandler p e (if e.indexed then s.num (keyIn p.toPolder 5 (s.setBase p e.set + 4 * e.entry)) 4 else e.entry))).run s := by
  have h0 : (e.set == 4) = false := by simp; omega
  rw [Act.chooseEvent, run_read, hn]
  simp only [Option.map_some, h0, he]

theorem only_runChain : (Act.runChain p).Only [] [] [p.toPolder] [] :=
  only_withFree fun n => only_read fun s => by
    split
    · exact only_skip
    · exact only_seq (only_polder (.head _)) only_event
theorem leaves_runChain {α : Type} {f : PolderState → α} (hf : ∀ (x : PolderState) a b c, f { x with chain := a, chainRun := b, setTurn := c } = f x) :
    (Act.runChain p).Leaves fun s => f (s.polder p) :=
  leaves_read fun s => leaves_seq (fun _ => rfl) <| leaves_read fun s => by
    split
    · exact leaves_skip
    · exact leaves_seq (leaves_polder_of fun _ => hf _ _ _ _) fun _ => rfl

/-- Where nothing is pending the slice core is done, or begins with its chain. -/
theorem chooseEvent_idle (he : (s.polder p).events = []) (hc : (s.polder p).counterRegs = []) (n : Nat) :
    s.Keeps ((Act.chooseEvent p n).run s) [] [] [p.toPolder] [] ∧
      ∀ {α : Type} (f : PolderState → α), (∀ (x : PolderState) a b c d, f { x with chain := a, chainRun := b, setTurn := c, handlerDue := d } = f x) →
        f (((Act.chooseEvent p n).run s).polder p) = f (s.polder p) := by
  have hidle : s.Keeps ((Act.polder p fun q => { q with handlerDue := false }).run s) [] [] [p.toPolder] [] ∧
      ∀ {α : Type} (f : PolderState → α), (∀ (x : PolderState) a b c d, f { x with chain := a, chainRun := b, setTurn := c, handlerDue := d } = f x) →
        f (((Act.polder p fun q => { q with handlerDue := false }).run s).polder p) = f (s.polder p) :=
    ⟨only_polder (.head _) s, fun f hf => leaves_polder_of (f := f) (fun x => hf x x.chain x.chainRun x.setTurn false) s⟩
  cases n with
  | zero => exact hidle
  | succ n =>
    rw [Act.chooseEvent, run_read]
    simp only [setEvent_none he hc]
    split
    · exact hidle
    · exact ⟨only_runChain s, fun f hf => leaves_runChain (f := f) (fun x a b c => hf x a b c x.handlerDue) s⟩
    · exact hidle
    · next h =>
      cases hn : s.nextSet p with
      | none => rw [hn] at h; cases h
      | some i => simp [hn] at h
end choice

/-- Descriptors that are as they were change nothing. -/
theorem refreshed {s : State} {p : Loc} (hg : s.goodSets p = (s.polder p).validSets) (hc : (s.polder p).counterRegs = []) :
    (Act.refreshSets p).run s = { s with polders := ((Act.refreshSets p).run s).polders } ∧
      ∀ m, ((Act.refreshSets p).run s).polder m = s.polder m := by
  have hlost : ((s.polder p).validSets.filter fun i => !(s.polder p).validSets.contains i) = [] :=
    List.filter_eq_nil_iff.2 fun i hi => by simp [hi]
  rw [Act.refreshSets, run_read]
  have hno : ((s.polder p).events.filter fun e => ([] : List Nat).contains e.set) = [] := List.filter_eq_nil_iff.2 fun e _ => by simp
  simp only [hg, hlost, hc, hno, List.filter_nil, List.length_nil, Nat.add_zero, List.replicate_zero, run_seq, run_all_nil]
  refine ⟨rfl, fun m => ?_⟩
  by_cases h : m.toPolder = p.toPolder
  · have hm : ∀ t : State, t.polder m = t.polder p := fun t => by simp only [State.polder, h]
    rw [hm, hm]
    refine (polder_apply_polder p _ s).trans ?_
    have hev : ((s.polder p).events.filter fun e => !([] : List Nat).contains e.set) = (s.polder p).events :=
      List.filter_eq_self.2 fun e _ => by simp
    simp only [hev, hc, List.map_nil]
    rw [← hc]
  · exact polder_apply_polder_other _ _ _ _ h

section enter
variable {s : State} {p : Loc} {e : SliceEvent} {pc : Nat}

/-- The handler that an event enters. -/
def State.entered (s : State) (p : Loc) (e : SliceEvent) (pc : Nat) (regs : List (BitVec 32)) : Handler :=
  { gen := (s.polder p).handlerGen + 1, set := e.set, ev := e, desc := s.setDesc p e.set, pc := pc, regs := regs, shi := 1#32,
    limit := bits (s.setWord p e.set 1) 13 0, start := s.now, replied := false, fetched := [], wait := false }

/-- What an entry leaves of the machine once a message stands in the arrival area: the handler, its budget and its first turn. -/
def Act.begin (p : Loc) (h : Handler) (ticks : Nat) : Act :=
  .all [.polder p fun q => { q with handler := some h, handlerGen := h.gen }, .event ticks (.handlerBudgetExpiry p.toPolder h.gen),
    .fx (.sched 0 (.slice p.toPolder h.gen))]

theorem run_enterHandler_plain (hm : e.msg = none) : (Act.enterHandler p e pc).run s =
    (Act.begin p (s.entered p e pc (entryRegs (s.setBase p e.set + s.setLen p e.set) e.a0 e.a1 e.kind e.a3))
      (s.sliceTicks p (bits (s.setWord p e.set 1) 13 0))).run s := by
  rw [Act.enterHandler, run_read]
  simp only [hm]
  rfl
theorem run_enterHandler_message {m : Message} (hm : e.msg = some m) : (Act.enterHandler p e pc).run s =
    (Act.begin p (s.entered p e pc (entryRegs (s.setBase p e.set + s.setLen p e.set) (0x100 + s.setBase p e.set) (bits m.w0 61 58) 0 (bits m.w1 47 24)))
      (s.sliceTicks p (bits (s.setWord p e.set 1) 13 0))).run
        ((Act.writePlace ⟨p.toPolder, 5, s.setBase p e.set + 0x100⟩ (arrivalBytes m)).run s) := by
  rw [Act.enterHandler, run_read]
  simp only [hm]
  rfl

theorem begin_does (s : State) (p : Loc) (h : Handler) (n : Nat) : s.Keeps ((Act.begin p h n).run s) [] [] [p.toPolder] [] ∧
    ((Act.begin p h n).run s).polder p = { s.polder p with handler := some h, handlerGen := h.gen } ∧
    s.planned ((Act.begin p h n).run s) n (.handlerBudgetExpiry p.toPolder h.gen) ∧ (⟨s.now,
        .slice p.toPolder h.gen⟩ : Pending) ∈ ((Act.begin p h n).run s).agenda := by
  refine ⟨only_seq (only_polder (.head _)) (only_seq only_event (only_seq only_sched only_skip)) s, ?_, ?_, ?_⟩
  · exact polder_apply_polder p (fun q => { q with handler := some h, handlerGen := h.gen }) s
  · exact (mem_schedule _ _ _).2 (.inr ((mem_schedule _ _ _).2 (.inl rfl)))
  · exact (mem_schedule _ _ _).2 (.inl rfl)

theorem takeEvent_polder : ((Act.takeEvent p e).run s).polder p = { s.polder p with
    setTurn := e.set
    events := (s.polder p).events.filter fun x => x.order != e.order || x.set != e.set
    counterRegs := (s.polder p).counterRegs.map fun r => if e.kind = 1 ∧ r.id = e.a3 then { r with pending := false } else r } :=
  polder_apply_polder p (fun q => { q with
    setTurn := e.set
    events := q.events.filter fun x => x.order != e.order || x.set != e.set
    counterRegs := q.counterRegs.map fun r => if e.kind = 1 ∧ r.id = e.a3 then { r with pending := false } else r }) s
end enter

/-- The word at which an event's handler starts. -/
def State.entryPc (s : State) (p : Loc) (e : SliceEvent) : Nat :=
  if e.indexed then s.num (keyIn p.toPolder 5 (s.setBase p e.set + 4 * e.entry)) 4 else e.entry

/-- The choice of a set depends on the polder and on memory alone. -/
theorem nextSet_alike {s t : State} {p : Loc} (ht : t = { s with polders := t.polders }) (hp : t.polder p = s.polder p) : t.nextSet p = s.nextSet p := by
  have hpart : ∀ i, t.setPart p i = s.setPart p i := fun i => by rw [ht]; rfl
  have hev : ∀ i, t.setEvent p i = s.setEvent p i := fun i => by simp only [State.setEvent, hp, hpart]
  simp only [State.nextSet, hp, hev]

section start
variable {s : State} {p : Loc} {e : SliceEvent} (hh : (s.polder p).handler = none) (hst : s.startPending p = false)
  (hg : s.goodSets p = (s.polder p).validSets) (hr : (s.polder p).chainRun = none) (he : (s.polder p).events = [e])
  (hc : (s.polder p).counterRegs = []) (h4 : e.set < 4) (hn : s.nextSet p = some e.set)
include hh hst hg hr he hc h4 hn

/-- THE START of the only event that waits: it has left its queue, and is dropped or enters. -/
theorem start_takes (hcur : s.cur = .handlerStart p) : ∃ u : State, s.Keeps u [] [] [p.toPolder] [] ∧ u = { s with polders := u.polders } ∧
    (u.polder p).events = [] ∧ (u.polder p).counterRegs = [] ∧ (u.polder p).handler = none ∧ (u.polder p).counters = (s.polder p).counters ∧
    (u.polder p).handlerGen = (s.polder p).handlerGen ∧ (u.polder p).khz = (s.polder p).khz ∧
    exec .handlerStart s = .next ((if e.indexed && s.entryPc p e == 0 then Act.seq (.count p 0x378) (.chooseEvent p 1)
      else .enterHandler p e (s.entryPc p e) : Act).run u) := by
  obtain ⟨ht, hp⟩ := refreshed hg hc
  have hx : exec .handlerStart s = .next ((Act.read fun t =>
      .when ((t.polder p).handler.isNone && (t.polder p).chainRun.isNone && !t.startPending p)
        (.chooseEvent p ((t.polder p).events.length + (t.polder p).counterRegs.length + 1))).run ((Act.refreshSets p).run s)) := by
    change execHandlerStart s = _
    rw [execHandlerStart, hcur]
    rfl
  generalize (Act.refreshSets p).run s = t at ht hp hx
  have hnt : t.nextSet p = some e.set := (nextSet_alike ht (hp p)).trans hn
  have hset : t.setEvent p e.set = some e := setEvent_of (by rw [hp, he]) (by rw [hp, hc]) hnt h4
  have hgo : ((t.polder p).handler.isNone && (t.polder p).chainRun.isNone && !t.startPending p) = true := by
    have : t.startPending p = s.startPending p := by rw [ht]; rfl
    rw [hp, hh, hr, this, hst]
    rfl
  have hpc : (if e.indexed then t.num (keyIn p.toPolder 5 (t.setBase p e.set + 4 * e.entry)) 4 else e.entry) = s.entryPc p e := by rw [ht]; rfl
  rw [run_read, run_when, if_pos hgo, hp, he, hc, List.length_singleton, List.length_nil, run_chooseEvent hset hnt h4, run_seq, hpc] at hx
  have hu := takeEvent_polder (s := t) (p := p) (e := e)
  have hk : t.Keeps ((Act.takeEvent p e).run t) [] [] [p.toPolder] [] := only_polder (.head _) t
  have hst : s.Keeps t [] [] [p.toPolder] [] := by
    have hm : s.memKept t := by rw [ht]; exact memKept_refl s
    exact ⟨hm, fun l _ => by rw [ht]; rfl, fun l _ => by rw [ht]; rfl, fun l _ => hp l, fun l _ => by rw [ht]; rfl⟩
  have hrest : (Act.takeEvent p e).run t = { s with polders := ((Act.takeEvent p e).run t).polders } := by rw [ht]; rfl
  rw [hp] at hu
  exact ⟨_, keeps_trans hst hk, hrest, by rw [hu]; simp [he], by rw [hu]; simp [hc], by rw [hu]; exact hh, by rw [hu], by rw [hu], by rw [hu], hx⟩
end start

/-- What an entry shows in the state before it. -/
theorem entered_alike {s u : State} {p : Loc} {e : SliceEvent} (hu : u = { s with polders := u.polders }) (hg : (u.polder p).handlerGen = (s.polder p).handlerGen)
    (pc : Nat) (regs : List (BitVec 32)) : u.entered p e pc regs = s.entered p e pc regs := by
  have hd : u.setDesc p e.set = s.setDesc p e.set := by rw [hu]; rfl
  have hw : u.setWord p e.set 1 = s.setWord p e.set 1 := by rw [hu]; rfl
  have hn : u.now = s.now := by rw [hu]
  rw [State.entered, State.entered, hd, hw, hn, hg]

theorem arrivalBytes_length (m : Message) : (arrivalBytes m).length = 80 := by simp [arrivalBytes, sliceBytes]
/-- A message that stands in the arrival area. -/
theorem arrival_writes (u : State) (p : Loc) {off : Nat} (h : 0x100 ≤ off) (m : Message) :
    let v := (Act.writePlace ⟨p.toPolder, 5, off⟩ (arrivalBytes m)).run u
    u.Writes v p (keyIn p.toPolder 5 off) (slicePart ⟨p.toPolder, 5, off⟩ (arrivalBytes m)) ∧ (v.polder p).events = (u.polder p).events ∧ v.now = u.now := by
  obtain ⟨e, hv⟩ := run_writeSlice (s := u) (p := p) h (arrivalBytes m)
  simp only [hv]
  exact ⟨⟨e, rippling_evalWatches (p := p) (m := p.toPolder) rfl _⟩, leaves_evalWatches (f := PolderState.events) (m := p) (fun _ _ => rfl) _, run_now _ _⟩

/-- Settles O44: an event leaves its queue and is dropped, or enters a handler with its message in the arrival area; a budget that ends kills. -/
theorem handlersStart : Obligations.HandlersStart := by
  refine ⟨?start, fun s p h gen hh hcur => ?budget⟩
  case start =>
    intro s p e hs hh hst hg hr he hc h4 hn pc base lim hcur
    obtain ⟨u, hk, hu, hev, hreg, hnone, hcnt, hgen, hkhz, hx⟩ := start_takes hh hst hg hr he hc h4 hn hcur
    have hbase : u.setBase p e.set = base := by rw [hu]; rfl
    have hlen : u.setLen p e.set = s.setLen p e.set := by rw [hu]; rfl
    have hlim : bits (u.setWord p e.set 1) 13 0 = lim := by rw [hu]; rfl
    have hticks : u.sliceTicks p lim = s.sliceTicks p lim := by rw [State.sliceTicks, hkhz, State.sliceTicks]
    have hnow : u.now = s.now := by rw [hu]
    by_cases h0 : e.indexed = true ∧ pc = 0
    · have hcond : (e.indexed && s.entryPc p e == 0) = true := by
        rw [Bool.and_eq_true, beq_iff_eq]
        exact h0
      rw [if_pos hcond, run_seq] at hx
      have hcu := count_counters p 0x378 u
      have hcp : s.Keeps ((Act.count p 0x378).run u) [] [] [p.toPolder] [] := keeps_trans hk (only_polder (.head _) u)
      have hf : ∀ {α : Type} (f : PolderState → α), (∀ (x : PolderState) c, f { x with counters := c } = f x) →
          f (((Act.count p 0x378).run u).polder p) = f (u.polder p) := fun f hf => leaves_polder_of (f := f) (fun x => hf x _) u
      have hev' := (hf PolderState.events fun _ _ => rfl).trans hev
      have hreg' := (hf PolderState.counterRegs fun _ _ => rfl).trans hreg
      have hnone' := (hf PolderState.handler fun _ _ => rfl).trans hnone
      generalize (Act.count p 0x378).run u = v at hx hcu hcp hev' hreg' hnone'
      obtain ⟨hik, hif⟩ := chooseEvent_idle hev' hreg' 1
      refine ⟨_, hx, (hif PolderState.events fun _ _ _ _ _ => rfl).trans hev', fun _ _ => ⟨keeps_trans hcp hik, ?_, ?_⟩, fun h => ?_⟩
      · exact (hif PolderState.handler fun _ _ _ _ _ => rfl).trans hnone'
      · exact (hif PolderState.counters fun _ _ _ _ _ => rfl).trans (hcu.trans (by rw [hcnt]))
      · rcases h with h | h
        · rw [h0.1] at h; cases h
        · exact absurd h0.2 h
    · have hcond : (e.indexed && s.entryPc p e == 0) ≠ true := by
        rw [ne_eq, Bool.and_eq_true, beq_iff_eq]
        exact h0
      rw [if_neg hcond] at hx
      have hout : ¬(e.indexed = true ∧ pc = 0) := h0
      cases hmsg : e.msg with
      | none =>
        rw [run_enterHandler_plain hmsg, entered_alike hu hgen, hbase, hlen, hlim, hticks] at hx
        obtain ⟨hbk, hbp, hbe, hbt⟩ := begin_does u p (s.entered p e (s.entryPc p e) (entryRegs (base + s.setLen p e.set) e.a0 e.a1 e.kind e.a3))
          (s.sliceTicks p lim)
        rw [State.planned, hnow] at hbe
        rw [hnow] at hbt
        refine ⟨_, hx, by rw [hbp]; exact hev, fun h1 h2 => absurd ⟨h1, h2⟩ hout, fun _ => ⟨_, by rw [hbp], rfl, rfl, rfl, rfl, rfl, rfl, rfl, rfl, hbe, hbt,
          fun _ => ⟨rfl, keeps_trans hk hbk⟩, fun m hm => by cases hm⟩⟩
      | some m =>
        rw [run_enterHandler_message hmsg, entered_alike hu hgen, hbase, hlen, hlim, hticks] at hx
        obtain ⟨hwr, hwe, hwn⟩ := arrival_writes u p (off := base + 0x100) (Nat.le_add_left _ _) m
        have hmem : u.mem = s.mem := by rw [hu]
        have hum : s.memKept u := hk.1
        generalize (Act.writePlace ⟨p.toPolder, 5, base + 0x100⟩ (arrivalBytes m)).run u = v at hx hwr hwe hwn
        obtain ⟨hbk, hbp, hbe, hbt⟩ := begin_does v p (s.entered p e (s.entryPc p e) (entryRegs (base + s.setLen p e.set) (0x100 + base)
          (bits m.w0 61 58) 0 (bits m.w1 47 24))) (s.sliceTicks p lim)
        rw [State.planned, hwn, hnow] at hbe
        rw [hwn, hnow] at hbt
        have hkb := Writes_memKeptBut hwr
        rw [slicePart_length, arrivalBytes_length] at hkb
        have hby := Writes_bytes hwr (by rw [hmem]; exact hs.mem)
        rw [slicePart_length, arrivalBytes_length] at hby
        refine ⟨_, hx, by rw [hbp]; exact hwe.trans hev, fun h1 h2 => absurd ⟨h1, h2⟩ hout, fun _ => ⟨_, by rw [hbp], rfl, rfl, rfl, rfl, rfl, rfl, rfl, rfl,
          hbe, hbt, (fun hm => by cases hm), fun m' hm => ?_⟩⟩
        cases hm
        refine ⟨rfl, ?_, fun j hj => ?_, fun j => ?_, fun j => ?_⟩
        · rw [← hby, Memory.bytes, Memory.bytes]
          simp only [hbk.1.1]
        · exact (hbk.1.1 j).trans ((hkb.1 j hj).trans (hum.1 j))
        · exact (hbk.1.2.1 j).trans ((hkb.2.1 j).trans (hum.2.1 j))
        · exact (hbk.1.2.2 j).trans ((hkb.2.2 j).trans (hum.2.2 j))
  case budget =>
    refine ⟨(if h.gen = gen then Act.killHandler p h 0x10 else .skip).run s, ?_, fun hg => ?_, fun hg => ?_⟩
    · change execHandlerBudgetExpiry s = _
      rw [execHandlerBudgetExpiry, hcur]
      simp only [hh, done]
      by_cases hg : h.gen = gen <;> simp [hg, Act.when]
    · rw [if_pos hg]
      exact kills_at s p h 0x10
    · rw [if_neg hg]
      rfl

end Sys2Proof.Machine
end

section
/-! SUPPORT. Tokens, starvation, held pushes and the replies of loads (spec/02 R34 to R41, spec/03 R68, spec/05 R107). -/

namespace Sys2Proof.Machine

/-! ## Tokens, starvation and held pushes (R34, R37, R41, R68) -/

section events
variable {s : State} {l : Loc} {ep n : Nat} {b : Block} (hb : s.inFlight l ep b)
include hb

theorem inFlight_live : b.live s.now = true := by rw [Block.live, hb.2]
/-- A token joins a free operand. -/
theorem token_joins {o : Opnd} {tok : Token} (ho : b.operand n o = none) :
    s.FiredAt ((Act.token l ep o n tok).run s) l ep n b { b with ops := b.ops ++ [(n, o, tok)] } [] := by
  have h0 : ({ s with focus := ⟨l, ep, n⟩ } : State).firingBlock b := hb
  have hal : b.alike { b with ops := b.ops ++ [(n, o, tok)] } := ⟨rfl, rfl, rfl⟩
  have h : ({ s with focus := ⟨l, ep, n⟩ } : State).Fired ((Act.block l fun x => { x with ops := x.ops ++ [(n, o, tok)] }).run
      { s with focus := ⟨l, ep, n⟩ }) b { b with ops := b.ops ++ [(n, o, tok)] } [] := Fired_block (fired_refl h0) fun f w => ⟨f, w, rfl⟩
  have hf := firedAt_settled hb.1 hb.2 (blind_seq blind_block blind_offer) hal (Fired_offer (n := n) h0 hal h)
  simp only [run_seq, run_skip] at hf
  simp only [Act.token, run_read, hb.1, inFlight_live hb, ho, Bool.not_true, Option.isSome_none, Bool.false_eq_true, if_false, run_all_cons, run_all_nil]
  exact hf
/-- A second token on an operand fails the block. -/
theorem token_clashes {o : Opnd} {tok : Token} (ho : b.operand n o ≠ none) : s.Fails ((Act.token l ep o n tok).run s) l b n 1 n 0 := by
  have hsome : (b.operand n o).isSome = true := Option.isSome_iff_ne_none.2 ho
  simp only [Act.token, run_read, hb.1, inFlight_live hb, hsome, Bool.not_true, Bool.false_eq_true, if_false, if_true]
  exact run_raise hb n 1 n 0

/-! ## The reply of a load (R107, R321) -/

/-- The block behind the answer to a load, for the slots that offer themselves again. -/
def Act.replied (l : Loc) (ep n : Nat) (v : W64) (i : Instr) : Act :=
  .seq (.deliver l ep n 0 (.val v) (targetsOf i)) (.seq (.wake l) (.seq (.settle l ep) .skip))

theorem run_loadReply_value {i : Instr} {a : Nat} {data : List Byte} (hn : n ∈ b.out) (hi : b.instrAt n = some i) (hm : s.missesOf l < 48) :
    (Act.loadReply l ep n none ⟨0, a, data⟩).run s = (Act.seq (.block l fun x => { x with
        out := x.out.filter (fun k => k != n), missed := x.missed.filter fun k => k != n })
      (.seq (.block l fun x => { x with done := n :: x.done })
      (.seq (.when (isLda i) (.seq (.acquireGauge l (s.ctx l).pasid.toNat a (s.loadValue l b i a data).toNat) (.acquireCode l)))
        (.replied l ep n (s.loadValue l b i a data) i)))).run s := by
  have hno : decide (missLimit ≤ s.missesOf l) = false := decide_eq_false (Nat.not_le.2 hm)
  have hc : b.out.contains n = true := List.contains_iff_mem.2 hn
  rw [Act.loadReply, run_read]
  simp only [Option.isSome_none, Bool.false_and, hb.1, hc, Bool.not_true, Bool.false_eq_true, if_false, ne_eq, not_true_eq_false, hi, run_seq, run_when,
    run_all_cons, run_all_nil, hno, Act.replied, run_skip]

/-- The value of a load that is no acquire goes to its targets. -/
theorem loadReply_delivers {i : Instr} {a : Nat} {data : List Byte} (hn : n ∈ b.out) (hi : b.instrAt n = some i) (hl : isLda i = false)
    (hm : s.missesOf l < 48) : s.FiredAt ((Act.loadReply l ep n none ⟨0, a, data⟩).run s) l ep n b (b.answered n)
      (({ s with focus := ⟨l, ep, n⟩ } : State).tokensOf b [(0, .val (s.loadValue l b i a data), targetsOf i)]) := by
  have h0 : ({ s with focus := ⟨l, ep, n⟩ } : State).firingBlock b := hb
  have hal : b.alike (b.answered n) := ⟨rfl, rfl, rfl⟩
  have h : ({ s with focus := ⟨l, ep, n⟩ } : State).Fired ((Act.block l fun x => { x with done := n :: x.done }).run
      ((Act.block l fun x => { x with out := x.out.filter (fun k => k != n), missed := x.missed.filter fun k => k != n }).run
        { s with focus := ⟨l, ep, n⟩ })) b (b.answered n) [] :=
    Fired_block (b' := { b with out := b.out.filter (fun k => k != n), missed := b.missed.filter fun k => k != n })
      (Fired_block (fired_refl h0) fun f w => ⟨f, w, rfl⟩) fun f w => ⟨f, w, rfl⟩
  have hf := firedAt_settled hb.1 hb.2 (blind_seq blind_block (blind_seq blind_block blind_deliver)) hal
    (Fired_deliver (lat := 0) (tok := .val (s.loadValue l b i a data)) (ts := targetsOf i) h0 hal h)
  rw [run_loadReply_value hb hn hi hm, hl]
  exact hf

/-- An answer with a cause fails the block. -/
theorem loadReply_fails {a c : Nat} (hn : n ∈ b.out) (hc : 1 < c) : s.Fails ((Act.loadReply l ep n none ⟨c, a, []⟩).run s) l
    { b with out := b.out.filter (fun k => k != n), missed := b.missed.filter fun k => k != n } n c 0 a := by
  have hn : b.out.contains n = true := List.contains_iff_mem.2 hn
  have hc0 : c ≠ 0 := by omega
  have hblock : ((Act.block l fun x => { x with out := x.out.filter (fun k => k != n), missed := x.missed.filter fun k => k != n }).run s).ctx l =
      { s.ctx l with block := some { b with out := b.out.filter (fun k => k != n), missed := b.missed.filter fun k => k != n } } := by
    refine (ctx_apply_ctx l (fun c => { c with block := c.block.map fun x =>
      { x with out := x.out.filter (fun k => k != n), missed := x.missed.filter fun k => k != n } }) s).trans ?_
    rw [(blockAt_some hb.1).1]
    rfl
  have hu : ((Act.block l fun x => { x with out := x.out.filter (fun k => k != n), missed := x.missed.filter fun k => k != n }).run s).inFlight l ep
      { b with out := b.out.filter (fun k => k != n), missed := b.missed.filter fun k => k != n } :=
    ⟨by simp [State.blockAt, hblock, inFlight_epoch hb], hb.2⟩
  obtain ⟨h1, h2, h3⟩ := run_raise hu n c 0 a
  have hk : s.Keeps ((Act.block l fun x => { x with out := x.out.filter (fun k => k != n), missed := x.missed.filter fun k => k != n }).run s) [l] [] [] [] :=
    only_block (.head _) s
  rw [Act.loadReply, run_read]
  simp only [Option.isSome_none, Bool.false_and, hb.1, hn, hc0, Bool.not_true, Bool.false_eq_true, if_false, ne_eq, not_false_iff, if_true, run_seq, run_when]
  refine ⟨keeps_trans hk h1, ?_, h3⟩
  rw [h2, hblock, if_neg (by omega : ¬c = 1)]
  rfl

/-- The places of predicted blocks, where none is held, are not that of a block in flight. -/
theorem ahead_block (ha : s.ahead l = []) : ∀ m ∈ aheadPlaces l, (s.ctx m).block = none ∧ m ≠ l := by
  intro m hm
  have hnone : (s.ctx m).block = none := by
    cases h : (s.ctx m).block with
    | none => rfl
    | some x =>
      have : (m, x) ∈ s.ahead l := mem_sortBy.2 (List.mem_filterMap.2 ⟨m, hm, by rw [h]; rfl⟩)
      rw [ha] at this
      cases this
  refine ⟨hnone, fun e => ?_⟩
  rw [e, (blockAt_some hb.1).1] at hnone
  cases hnone
end events

section lda
variable {s : State} {l : Loc} {ep n : Nat} {b : Block} (hb : s.inFlight l ep b)
include hb

/-- An acquire by a load, no block being fetched ahead: what the context has not acquired is gone, reader entries of the gauge are raised, the load is
answered. -/
theorem acquired {pasid a v : Nat} (ha : s.ahead l = []) : ∃ u : State,
    (Act.acquireCode l).run ((Act.acquireGauge l pasid a v).run ((Act.block l fun x => { x with done := n :: x.done }).run
      ((Act.block l fun x => { x with out := x.out.filter (fun k => k != n), missed := x.missed.filter fun k => k != n }).run s))) = u ∧
    s.Keeps u [l] [] [l.toPolder] [] ∧ u.now = s.now ∧ u.polder l = ((Act.acquireGauge l pasid a v).run s).polder l ∧
    u.ctx l = { s.ctx l with unacquired := [], block := some (b.answered n) } := by
  have hk : (Act.seq (.block l fun x => { x with out := x.out.filter (fun k => k != n), missed := x.missed.filter fun k => k != n })
      (.seq (.block l fun x => { x with done := n :: x.done }) (.seq (.acquireGauge l pasid a v) (.ctx l fun c => { c with unacquired := [] })))).Only
      [l] [] [l.toPolder] [] :=
    only_seq (only_block (.head _)) (only_seq (only_block (.head _)) (only_seq (only_polder (.head _)) (only_ctx (.head _))))
  have hk := hk s
  simp only [run_seq] at hk
  generalize hw : (Act.acquireGauge l pasid a v).run ((Act.block l fun x => { x with done := n :: x.done }).run
    ((Act.block l fun x => { x with out := x.out.filter (fun k => k != n), missed := x.missed.filter fun k => k != n }).run s)) = w at hk ⊢
  have hwc : w.ctx l = { s.ctx l with block := some (b.answered n) } := by
    rw [← hw, Act.acquireGauge, run_polder, ctx_apply_polder, Act.block, run_ctx, ctx_apply_ctx, Act.block, run_ctx, ctx_apply_ctx, (blockAt_some hb.1).1]
    rfl
  have hwa : w.ahead l = [] := by
    rw [ahead_nil]
    intro m hm
    obtain ⟨hnone, hne⟩ := ahead_block hb ha m hm
    rw [← hw, Act.acquireGauge, run_polder, ctx_apply_polder, Act.block, run_ctx, ctx_apply_ctx_other _ _ _ _ hne, Act.block, run_ctx,
      ctx_apply_ctx_other _ _ _ _ hne, hnone]
  have hwp : w.polder l = ((Act.acquireGauge l pasid a v).run s).polder l := by
    rw [← hw, Act.acquireGauge, run_polder, run_polder, polder_apply_polder, polder_apply_polder]
    rfl
  refine ⟨_, rfl, ?_⟩
  rw [run_acquireCode hwa]
  refine ⟨hk, ?_, hwp, ?_⟩
  · rw [run_ctx, ← hw]
    rfl
  · rw [run_ctx, ctx_apply_ctx, hwc]

/-- The value of an acquire goes to its targets, and what others have released is seen. -/
theorem loadReply_acquires {i : Instr} {a : Nat} {data : List Byte} (hn : n ∈ b.out) (hi : b.instrAt n = some i) (hl : isLda i = true)
    (hm : s.missesOf l < 48) (ha : s.ahead l = []) :
    let t := (Act.loadReply l ep n none ⟨0, a, data⟩).run s
    s.Keeps t [l] [] [l.toPolder] [] ∧
      t.polder l = ((Act.acquireGauge l (s.ctx l).pasid.toNat a (s.loadValue l b i a data).toNat).run s).polder l ∧
      (∃ f w, t.ctx l = { s.ctx l with unacquired := [], block := some { b.answered n with fired := f, waiting := w } }) ∧
      ∀ q ∈ ({ s with focus := ⟨l, ep, n⟩ } : State).tokensOf b [(0, .val (s.loadValue l b i a data), targetsOf i)], q ∈ t.agenda := by
  obtain ⟨u, hu, hk, hnow, hpol, hctx⟩ := acquired (n := n) (pasid := (s.ctx l).pasid.toNat) (a := a) (v := (s.loadValue l b i a data).toNat) hb ha
  have hat : u.inFlight l ep (b.answered n) := ⟨by simp [State.blockAt, hctx, Block.answered, inFlight_epoch hb], hb.2⟩
  have h0 : ({ u with focus := ⟨l, ep, n⟩ } : State).firingBlock (b.answered n) := hat
  have hf := firedAt_settled hat.1 hat.2 blind_deliver (alike_refl _)
    (Fired_deliver (s := { u with focus := ⟨l, ep, n⟩ }) (lat := 0) (tok := .val (s.loadValue l b i a data)) (ts := targetsOf i) h0 (alike_refl _)
      (fired_refl h0))
  have hrun : (Act.loadReply l ep n none ⟨0, a, data⟩).run s = (Act.replied l ep n (s.loadValue l b i a data) i).run u := by
    rw [run_loadReply_value hb hn hi hm, hl]
    simp only [run_seq, run_when, if_true, hu]
  have htok : ({ u with focus := ⟨l, ep, n⟩ } : State).tokensOf (b.answered n) [(0, .val (s.loadValue l b i a data), targetsOf i)] =
      ({ s with focus := ⟨l, ep, n⟩ } : State).tokensOf b [(0, .val (s.loadValue l b i a data), targetsOf i)] := by
    have hlead : (u.ctx l).lead = (s.ctx l).lead := by rw [hctx]
    have htr : ({ u with focus := ⟨l, ep, n⟩ } : State).tokenTo (b.answered n) 0 (.val (s.loadValue l b i a data)) =
        ({ s with focus := ⟨l, ep, n⟩ } : State).tokenTo b 0 (.val (s.loadValue l b i a data)) := by
      funext x
      cases x with
      | none => rfl
      | into o k =>
        have e : u.transit l (b.answered n) n k.toNat = s.transit l b n k.toNat := by
          simp only [State.transit, hlead]
          rfl
        change some (Pending.mk (u.now + (0 + u.transit l (b.answered n) n k.toNat)) _) = some (Pending.mk (s.now + (0 + s.transit l b n k.toNat)) _)
        rw [hnow, e]
    simp only [State.tokensOf, List.flatMap_cons, List.flatMap_nil, htr]
  rw [hrun]
  have hkeep : (Act.replied l ep n (s.loadValue l b i a data) i).Only [l] [] [l.toPolder] [] :=
    only_seq only_deliver (only_seq (only_wake (.head _)) (only_seq only_settle only_skip))
  have hkeep := hkeep u
  change u.FiredAt ((Act.replied l ep n (s.loadValue l b i a data) i).run u) _ _ _ _ _ _ at hf
  generalize (Act.replied l ep n (s.loadValue l b i a data) i).run u = t at hf hkeep
  obtain ⟨⟨hrest, hothers, ⟨f, w, hown⟩, hold, hsent, _⟩, _⟩ := hf
  refine ⟨?_, ?_, ⟨f, w, ?_⟩, fun q hq => ?_⟩
  · exact keeps_trans hk hkeep
  · rw [← hpol]
    exact congrFun (congrArg State.polder hrest) l
  · refine (show t.ctx l = _ from hown).trans ?_
    rw [show ({ u with focus := ⟨l, ep, n⟩ } : State).ctx l = u.ctx l from rfl, hctx]
  · exact hsent q (htok ▸ hq)
end lda

/-! ## The statement -/

/-- A starved block fails with detail 8, and another goes on. -/
theorem blockStarved_does {s : State} {l : Loc} {ep : Nat} {b : Block} (hb : s.inFlight l ep b) :
    if s.starved l b then s.Fails ((Act.when (s.starved l b) (.raise l ep 128 2 8 0)).run s) l b 128 2 8 0
    else (Act.when (s.starved l b) (.raise l ep 128 2 8 0)).run s = s := by
  cases h : s.starved l b with
  | true => exact run_raise hb 128 2 8 0
  | false => rfl

/-- A push held for more than 4,096 cycles fails its block. -/
theorem portPushTimeout_does {s : State} {l : Loc} {ep : Nat} {b : Block} (hb : s.inFlight l ep b) :
    (∀ u, b.heldSince = some u → u + 4096 < s.now →
      s.Fails ((Act.when (b.heldSince.any fun t => decide (t + 4096 < s.now)) (.raise l ep 128 2 9 0)).run s) l b 128 2 9 0) ∧
    ((∀ u, b.heldSince = some u → s.now ≤ u + 4096) →
      (Act.when (b.heldSince.any fun t => decide (t + 4096 < s.now)) (.raise l ep 128 2 9 0)).run s = s) := by
  refine ⟨fun u hu hlt => ?_, fun hle => ?_⟩
  · rw [hu, Option.any_some, decide_eq_true hlt]
    exact run_raise hb 128 2 9 0
  · have : (b.heldSince.any fun t => decide (t + 4096 < s.now)) = false := by
      cases h : b.heldSince with
      | none => rfl
      | some u => exact decide_eq_false (Nat.not_lt.2 (hle u h))
    rw [this]
    rfl

/-- Settles O35: each event is its act at the block in flight, which fires a slot, raises a fault or does nothing. -/
theorem blockEvents : Obligations.BlockEvents := by
  intro s l ep b hb
  refine ⟨?token, ?starved, ?push, ?reply, ?acquire, ?cause⟩
  case token =>
    intro o n tok hcur
    refine ⟨(Act.token l ep o n tok).run s, ?_, token_joins hb, token_clashes hb⟩
    change execTokenArrival s = _
    rw [execTokenArrival, hcur]
    rfl
  case starved =>
    intro hcur
    refine ⟨_, ?_, blockStarved_does hb⟩
    change execBlockStarved s = _
    rw [execBlockStarved, hcur]
    simp only [hb.1]
    rfl
  case push =>
    intro hcur
    refine ⟨_, ?_, portPushTimeout_does hb⟩
    change execPortPushTimeout s = _
    rw [execPortPushTimeout, hcur]
    simp only [hb.1]
    rfl
  case reply =>
    intro n i a data hn hi hl hm hcur
    refine ⟨_, ?_, loadReply_delivers hb hn hi hl hm⟩
    change execLoadReply s = _
    rw [execLoadReply, hcur]
    rfl
  case acquire =>
    intro n i a data hn hi hl hm ha v hcur
    refine ⟨_, ?_, loadReply_acquires hb hn hi hl hm ha⟩
    change execLoadReply s = _
    rw [execLoadReply, hcur]
    rfl
  case cause =>
    intro n a c hn hc hcur
    refine ⟨_, ?_, loadReply_fails hb hn hc⟩
    change execLoadReply s = _
    rw [execLoadReply, hcur]
    rfl

end Sys2Proof.Machine
end

section
/-! SUPPORT. The fetch of a block and the checks of what it brings (spec/02 R29, R49, R464). -/

namespace Sys2Proof.Machine

/-! ## Reads of a block from the context's own core memory (R22, R49, R330, R464) -/

theorem homePlace_private {l : Loc} {a : Nat} (h : a < 0x20000) : homePlace l a = some ⟨l.toPolder, 2, l.core * 0x20000 + a⟩ := by rw [homePlace, if_pos h]
theorem coreKey_add (l : Loc) (a n : Nat) : coreKey l (a + n) = coreKey l a + n := by
  simp only [coreKey, keyIn]
  omega
theorem bytes_add (m : Memory) (k n d : Nat) : m.bytes k (n + d) = m.bytes k n ++ m.bytes (k + n) d := by
  simp only [Memory.bytes, List.range_add, List.map_append, List.map_map, Function.comp_def, Nat.add_assoc]
/-- Where nothing hides, what is read is what stands there. -/
theorem staleBytes_nil (k : Nat) (bs : List Byte) : staleBytes [] k bs = bs := by
  refine List.ext_getElem (by simp [staleBytes]) fun i hi hj => ?_
  simp [staleBytes, List.getElem?_eq_getElem hj]

section reads
variable {s : State} {l : Loc} (hl : isAhead l = false) (hf : s.fetchable l)
include hl hf

/-- One unit of a read. -/
theorem fetchUnit_own {r : Req} {a : Nat} (hr : r.who = l) (hu : spaceCause r ⟨l.toPolder, 2, l.core * 0x20000 + a⟩ = 0) (ha : a + 32 ≤ 0x20000) :
    s.fetchUnit r a = .ok (s.mem.bytes (coreKey l a) 32) [] none := by
  obtain ⟨hdry, hecc, hhid⟩ := hf
  have hp : homePlace l a = some ⟨l.toPolder, 2, l.core * 0x20000 + a⟩ := homePlace_private (by omega)
  have hres : s.resolve r.who r.part r.pasid r.sup a false = .ok ⟨l.toPolder, 2, l.core * 0x20000 + a⟩ := by
    rw [State.resolve, if_pos (by omega), hr, hp]
    rfl
  have hroute : s.routed l l.toPolder r.part = true := by simp [State.routed, show l.toPolder.dev = l.dev from rfl]
  have hgone : s.isGone l l.toPolder = false := by rw [State.isGone, hdry]; rfl
  have hdike : s.dikeAdmits l r.part ⟨l.toPolder, 2, l.core * 0x20000 + a⟩ 32 false = true := by simp [State.dikeAdmits]
  have hset : s.unsettled ⟨l.toPolder, 2, l.core * 0x20000 + a⟩ = false := by simp [State.unsettled, State.isFresh, State.freshBit]
  have hkey : s.keyOf ⟨l.toPolder, 2, l.core * 0x20000 + a⟩ = some (coreKey l a) := rfl
  have hecc' : s.eccHit (coreKey l a) 32 = false := by rw [State.eccHit, hecc]; rfl
  rw [State.fetchUnit, hres]
  simp [hu, hr, hroute, hgone, hdike, hl, hdry, hset, hkey, hecc', hhid, staleBytes_nil]

/-- A read of whole units. -/
theorem fetchUnits_own {r : Req} (hr : r.who = l) (hu : ∀ a, spaceCause r ⟨l.toPolder, 2, a⟩ = 0) :
    ∀ n a, a + 32 * n ≤ 0x20000 → s.fetchUnits r n a = .ok (s.mem.bytes (coreKey l a) (32 * n)) [] none
  | 0, _, _ => rfl
  | n + 1, a, ha => by
    rw [State.fetchUnits, fetchUnit_own hl hf hr (hu _) (by omega), fetchUnits_own hr hu n (a + 32) (by omega), coreKey_add,
      show 32 * (n + 1) = 32 + 32 * n by omega, bytes_add]
    rfl

/-- A read of a block returns after the load time and one cycle for each further line. -/
theorem run_fetchRead {ep a n : Nat} {second : Bool} (ha : a + 32 * n ≤ 0x20000) (hn : 0 < n) : (Act.fetchRead l ep second a (32 * n)).run s =
    (Act.event (ownFetchTime a (32 * n)) (.blockFetchReadReturn l ep second ⟨0, a, s.mem.bytes (coreKey l a) (32 * n)⟩)).run s := by
  have hp : homePlace l a = some ⟨l.toPolder, 2, l.core * 0x20000 + a⟩ := homePlace_private (by omega)
  have hcore : (l.core * 0x20000 + a) / 0x20000 = l.core := by omega
  have hunits := fetchUnits_own hl hf (r := s.reqOf l a (32 * n) (.fetch l ep second)) rfl (fun b => by simp [spaceCause, State.reqOf]) n a ha
  rw [Act.fetchRead, run_read]
  simp only [if_pos (show a < 2 ^ 40 by omega), hp, show 32 * n / 32 = n by omega, hunits, hcore]
  rfl
end reads

/-! ## Executions that start and grow -/

/-- What hides bytes from a fetch, where a context of the machine changes otherwise. -/
theorem hidden_ctx {s : State} {l : Loc} {f : Context → Context} (hl : isAhead l = false) (hu : (f (s.ctx l)).unacquired = (s.ctx l).unacquired)
    (hst : (f (s.ctx l)).stale = (s.ctx l).stale) : ((Effect.ctx l f).apply s).hidden l = s.hidden l := by
  have hreal : realCtx l = l := by
    have : l.ctx < 8 := by simpa [isAhead] using hl
    rw [realCtx, Nat.mod_eq_of_lt this]
  have hskip : ∀ (v : Context) (xs : List (Loc × Context)), (assocSet l v xs).flatMap (fun x => if x.1 = l || isAhead x.1 then [] else x.2.unreleased) =
      xs.flatMap fun x => if x.1 = l || isAhead x.1 then [] else x.2.unreleased := by
    intro v xs
    induction xs with
    | nil => simp [assocSet]
    | cons x xs ih =>
      rw [assocSet]
      split
      · next e => simp [e]
      · rw [List.flatMap_cons, ih, List.flatMap_cons]
  simp only [State.hidden, hreal, ctx_apply_ctx, hu, hst]
  exact congrArg (_ ++ ·) (hskip _ _)
theorem fetchable_ctx {s : State} {l : Loc} {f : Context → Context} (hl : isAhead l = false) (hu : (f (s.ctx l)).unacquired = (s.ctx l).unacquired)
    (hst : (f (s.ctx l)).stale = (s.ctx l).stale) (h : s.fetchable l) : ((Effect.ctx l f).apply s).fetchable l :=
  ⟨h.1, h.2.1, (hidden_ctx hl hu hst).trans h.2.2⟩

/-- `u` differs from `s` in the block of one context. -/
structure State.Grows (s u : State) (l : Loc) (c : Block) : Prop where
  keeps : s.Keeps u [l] [] [] []
  block : u.ctx l = { s.ctx l with block := some c }
  plans : s.Plans u []
  now : u.now = s.now
section grows
variable {s u : State} {l : Loc} {c : Block} (h : s.Grows u l c)
include h
/-- A fault of the block that has grown. -/
theorem grows_fails (hc : c.fault = none) (n x d a : Nat) : s.Fails ((Act.raise l c.epoch n x d a).run u) l c n x (if x = 1 then n else d) a := by
  have hu : u.inFlight l c.epoch c := ⟨by simp [State.blockAt, h.block], hc⟩
  obtain ⟨hk, hr, hp⟩ := run_raise hu n x d a
  refine ⟨keeps_trans h.keeps hk, ?_, fun q => ?_⟩
  · rw [hr, h.block, h.now]
  · rw [hp q, h.plans q, h.now]
    simp
/-- An event that follows. -/
theorem grows_event (d : Nat) (e : Event) :
    s.Keeps ((Act.event d e).run u) [l] [] [] [] ∧ ((Act.event d e).run u).ctx l = { s.ctx l with block := some c } ∧
      s.Plans ((Act.event d e).run u) [(d, e)] :=
  ⟨keeps_trans h.keeps (only_event u), h.block, plans_event h.plans h.now⟩
end grows

/-- A fetch puts a new execution into the context. -/
theorem grows_start (s : State) (l : Loc) (c : Block) : s.Grows ((Effect.ctx l fun x => { x with block := some c }).apply (Effect.tickEpoch.apply s)) l c where
  keeps := keeps_trans (only_tickEpoch s) (only_ctx (f := fun x => { x with block := some c }) (.head _) _)
  block := by rw [ctx_apply_ctx]; rfl
  plans := plans_refl s
  now := rfl

/-- The fetch of the next block. -/
theorem fetchBlock_does {s : State} {l : Loc} (hl : isAhead l = false) (t : State) (ht : (Act.fetchBlock l).run s = t) :
    ((s.ctx l).pc.toNat % 32 ≠ 0 → s.Fails t l (s.nextExecution l s.epoch (s.ctx l).pc.toNat) 0 3 0 (s.ctx l).pc.toNat) ∧
      ((s.ctx l).pc.toNat % 32 = 0 → (s.ctx l).pc.toNat + 160 ≤ 0x20000 → s.fetchable l →
        s.Keeps t [l] [] [] [] ∧ t.ctx l = { s.ctx l with block := some (s.nextExecution l s.epoch (s.ctx l).pc.toNat) } ∧
        s.Plans t [(ownFetchTime (s.ctx l).pc.toNat 160,
          .blockFetchReadReturn l s.epoch false ⟨0, (s.ctx l).pc.toNat, s.mem.bytes (coreKey l (s.ctx l).pc.toNat) 160⟩)]) := by
  have hg := grows_start s l (s.nextExecution l s.epoch (s.ctx l).pc.toNat)
  have hrun : (Act.fetchBlock l).run s = (if (s.ctx l).pc.toNat % 32 ≠ 0 then .raise l s.epoch 0 3 0 (s.ctx l).pc.toNat
      else .fetchRead l s.epoch false (s.ctx l).pc.toNat 160 : Act).run
        ((Effect.ctx l fun x => { x with block := some (s.nextExecution l s.epoch (s.ctx l).pc.toNat) }).apply (Effect.tickEpoch.apply s)) := rfl
  rw [← ht, hrun]
  refine ⟨fun ha => ?_, fun ha hle hf => ?_⟩
  · rw [if_pos ha]
    exact grows_fails hg rfl 0 3 0 _
  · have hf' : ((Effect.ctx l fun x => { x with block := some (s.nextExecution l s.epoch (s.ctx l).pc.toNat) }).apply
        (Effect.tickEpoch.apply s)).fetchable l := fetchable_ctx hl rfl rfl ⟨hf.1, hf.2.1, hf.2.2⟩
    rw [if_neg (Classical.not_not.2 ha), show (160 : Nat) = 32 * 5 from rfl, run_fetchRead hl hf' (by omega) (by omega)]
    exact grows_event hg _ _

section fetched
variable {s : State} {l : Loc} {ep : Nat} {b : Block} (hl : isAhead l = false) (hb : s.inFlight l ep b)
include hl hb

/-- The bytes that a read brings join the block. -/
theorem grows_bytes (bytes : List Byte) (bad : Option Nat) :
    s.Grows ((Act.block l fun x => { x with bytes := bytes, bad := bad }).run s) l { b with bytes := bytes, bad := bad } where
  keeps := only_block (.head _) s
  block := by
    rw [Act.block, run_ctx, ctx_apply_ctx, (blockAt_some hb.1).1]
    rfl
  plans := plans_refl s
  now := rfl

/-- A read that fails, or that brings the last bytes of a block together with an error among them. -/
theorem fetched_fails {second : Bool} {ans : Answer} (hc : 1 < ans.cause) (hd : ans.cause ≠ 0x11 ∨ ans.data = []) :
    s.Fails ((Act.fetched l ep b second ans).run s) l b 0 ans.cause 0 ans.addr := by
  have h0 : ans.cause ≠ 0 ∧ !(ans.cause == 0x11 && !ans.data.isEmpty) := by
    refine ⟨by omega, ?_⟩
    rcases hd with h | h <;> simp [h]
  obtain ⟨hk, hr, hp⟩ := run_raise hb 0 ans.cause 0 ans.addr
  rw [Act.fetched, if_pos h0]
  exact ⟨hk, by rw [hr, if_neg (by omega)], hp⟩

variable (hbad : b.bad = none)
include hbad

/-- An uncorrectable error among bytes that are all there. -/
theorem fetched_torn {second : Bool} {ans : Answer} (hc : ans.cause = 0x11) (hd : ans.data ≠ [])
    (hall : second = true ∨ bits (numAt (if second then b.bytes ++ ans.data else ans.data) 0 4) 23 22 = 0) :
    s.Fails ((Act.fetched l ep b second ans).run s) l
      { b with bytes := if second then b.bytes ++ ans.data else ans.data, bad := some ans.addr } 0 0x11 0 ans.addr := by
  have htorn : (ans.cause == 0x11 && !ans.data.isEmpty) = true := by simp [hc, hd]
  have hlast : (!second && bits (numAt (if second then b.bytes ++ ans.data else ans.data) 0 4) 23 22 != 0) = false := by
    rcases hall with h | h <;> simp [h]
  have hep : b.epoch = ep := inFlight_epoch hb
  subst hep
  have hg := grows_bytes (bytes := if second then b.bytes ++ ans.data else ans.data) (bad := some ans.addr) hl hb
  rw [Act.fetched]
  simp only [htorn, Bool.not_true, Bool.false_eq_true, and_false, if_false, hbad, Option.orElse_none, if_true, hlast, run_seq]
  exact grows_fails hg hb.2 0 0x11 0 ans.addr

/-- What a read that succeeds does. -/
theorem run_fetched {second : Bool} {ans : Answer} (hc : ans.cause = 0) {bytes : List Byte}
    (hbytes : (if second then b.bytes ++ ans.data else ans.data) = bytes) : (Act.fetched l ep b second ans).run s =
      (if !second && bits (numAt bytes 0 4) 23 22 != 0 then .secondRead l ep b.addr (bits (numAt bytes 0 4) 23 22) else .checkBlock l ep : Act).run
        ((Act.block l fun x => { x with bytes := bytes, bad := none }).run s) := by
  rw [Act.fetched, if_neg (by simp [hc]), hbytes]
  simp only [hc, hbad, run_seq]
  rfl

/-- A class above 0 is read to its end. -/
theorem fetched_goes {second : Bool} {ans : Answer} {bytes : List Byte} {cls : Nat} (hc : ans.cause = 0)
    (hbytes : (if second then b.bytes ++ ans.data else ans.data) = bytes) (hcls : bits (numAt bytes 0 4) 23 22 = cls) (hs : second = false) (h0 : 0 < cls)
    (hle : b.addr + 160 + 128 * cls ≤ 0x20000) (hf : s.fetchable l) (t : State) (ht : (Act.fetched l ep b second ans).run s = t) :
    s.Keeps t [l] [] [] [] ∧ t.ctx l = { s.ctx l with block := some { b with bytes := bytes } } ∧
      s.Plans t [(ownFetchTime (b.addr + 160) (128 * cls), .blockFetchReadReturn l ep true
        ⟨0, b.addr + 160, s.mem.bytes (coreKey l (b.addr + 160)) (128 * cls)⟩)] := by
  have hg := grows_bytes (bytes := bytes) (bad := none) hl hb
  rw [show ({ b with bytes := bytes, bad := none } : Block) = { b with bytes := bytes } by rw [← hbad]] at hg
  have hf' : ((Act.block l fun x => { x with bytes := bytes, bad := none }).run s).fetchable l := fetchable_ctx hl rfl rfl hf
  have hgo : (!second && cls != 0) = true := by
    simp only [hs, Bool.not_false, Bool.true_and, bne_iff_ne]
    omega
  rw [← ht, run_fetched hl hb hbad hc hbytes, hcls, hgo, if_pos rfl, Act.secondRead, show 128 * cls = 32 * (4 * cls) by omega,
    run_fetchRead hl hf' (by omega) (by omega)]
  exact grows_event hg _ _

/-- A block whose bytes are all there is checked. -/
theorem fetched_checks {second : Bool} {ans : Answer} {bytes : List Byte} (hc : ans.cause = 0)
    (hbytes : (if second then b.bytes ++ ans.data else ans.data) = bytes) (hall : second = true ∨ bits (numAt bytes 0 4) 23 22 = 0)
    (t : State) (ht : (Act.fetched l ep b second ans).run s = t) :
    (∀ x d n, ({ b with bytes := bytes } : Block).check l.narrow = some (x, d, n) →
        s.Fails t l { b with bytes := bytes } n x (if x = 1 then n else d) 0) ∧
      (({ b with bytes := bytes } : Block).check l.narrow = none → s.Keeps t [l] [] [] [] ∧
        t.ctx l = { s.ctx l with block := some { b with bytes := bytes } } ∧ s.Plans t [(0, .contextDispatch l.toCore)]) := by
  have hep : b.epoch = ep := inFlight_epoch hb
  subst hep
  have hg := grows_bytes (bytes := bytes) (bad := none) hl hb
  have hsame : ({ b with bytes := bytes, bad := none } : Block) = { b with bytes := bytes } := by rw [← hbad]
  rw [hsame] at hg
  have hlast : (!second && bits (numAt bytes 0 4) 23 22 != 0) = false := by
    rcases hall with h | h <;> simp [h]
  have hat : ((Act.block l fun x => { x with bytes := bytes, bad := none }).run s).blockAt l b.epoch = some { b with bytes := bytes } := by
    simp [State.blockAt, hg.block]
  rw [← ht, run_fetched hl hb hbad hc hbytes, hlast, if_neg (by decide), Act.checkBlock, run_read]
  refine ⟨fun x d n hx => ?_, fun hx => ?_⟩
  · simp only [hat, hx, hl, Bool.false_eq_true, if_false]
    exact grows_fails hg hb.2 n x d 0
  · simp only [hat, hx, hl]
    exact grows_event hg 0 (.contextDispatch l.toCore)
end fetched

/-- Settles O34: a fetch by `fetchBlock_does`, and what a read brings by the cases of its cause. -/
theorem blockFetches : Obligations.BlockFetches := by
  refine ⟨?start, ?back⟩
  case start =>
    intro s l hl hstate hnone ha a b hcur
    refine ⟨_, ?_, fetchBlock_does hl _ rfl⟩
    change execBlockFetch s = _
    rw [execBlockFetch, hcur]
    simp only [hl, hstate, hnone, ha, List.head?_nil, decide_true, Option.isNone_none, Bool.and_self, if_true, Bool.false_eq_true, if_false]
    rfl
  case back =>
    intro s l ep second ans b hl hb hready hbad c cls hcur
    refine ⟨(Act.fetched l ep b second ans).run s, ?_, fetched_fails hl hb, fetched_torn hl hb hbad, ?_, ?_⟩
    · have hnone : b.fault.isSome = false := by rw [hb.2]; rfl
      change execBlockFetchReadReturn s = _
      rw [execBlockFetchReadReturn, hcur]
      simp only [hl, hb.1, hready, hnone, Bool.false_and, Bool.false_eq_true, or_self, if_false, Option.isSome_some, if_true]
      rfl
    · intro hc hs h0 hle hf
      exact fetched_goes hl hb hbad hc rfl rfl hs h0 hle hf _ rfl
    · intro hc hall
      exact fetched_checks hl hb hbad hc rfl hall _ rfl

end Sys2Proof.Machine
end

section
/-! SUPPORT. The fate of messages and of replies (spec/09 R210, R220, spec/18 R367, spec/20 R399). -/

namespace Sys2Proof.Machine

/-! ## Replies and refusals (R210, R220, R401) -/

theorem only_reply {src : Loc} {m : Message} {code : Nat} {cs ks ps ds : List Loc} : (Act.reply src m code).Only cs ks ps ds :=
  only_read fun s => by
    cases m.reply with
    | none => exact only_skip
    | some p => exact only_when fun _ => only_event
/-- A reply plans one event or none. -/
theorem run_reply {src : Loc} {m : Message} {code : Nat} {p : Place} {s : State} (hm : m.reply = some p) (hs : s.severed src p.owner = false) :
    (Act.reply src m code).run s = (Act.event (8 + s.way src p.owner) (.replyArrival src p code)).run s := by
  rw [Act.reply, run_read, hm]
  simp only [hs, Bool.not_false, run_when, if_true]
theorem reply_plans {src : Loc} {m : Message} {code : Nat} {p : Place} (s : State) (hm : m.reply = some p) (hs : s.severed src p.owner = false) :
    s.Plans ((Act.reply src m code).run s) [(8 + s.way src p.owner, .replyArrival src p code)] := by
  rw [run_reply hm hs]
  exact plans_event (plans_refl s) rfl
theorem reply_planned {src : Loc} {m : Message} {code : Nat} {p : Place} (s : State) (hm : m.reply = some p) (hs : s.severed src p.owner = false) :
    s.planned ((Act.reply src m code).run s) (8 + s.way src p.owner) (.replyArrival src p code) :=
  (reply_plans s hm hs _).2 (.inr (.head _))
/-- A refusal that is counted. -/
theorem counted_reply {src c : Loc} {m : Message} {code off : Nat} {p : Place} (s : State) (hm : m.reply = some p) (hs : s.severed src p.owner = false) :
    s.planned ((Act.reply src m code).run ((Act.count c off).run s)) (8 + s.way src p.owner) (.replyArrival src p code) :=
  reply_planned ((Act.count c off).run s) hm hs
theorem polder_reply {src : Loc} {m : Message} {code : Nat} (s : State) (l : Loc) : ((Act.reply src m code).run s).polder l = s.polder l :=
  leaves_reply (f := fun s => s.polder l) (fun _ _ _ => rfl) src m code s

/-- A refusal that is counted changes the counter alone, and tells the sender. -/
theorem refuse_counts {c : Loc} {m : Message} {code off : Nat} (h : code = 1 ∧ off = 0x3A0 ∨ code = 2 ∧ off = 0x3A8) (s : State) :
    s.Keeps ((Act.refuse c m code).run s) [] [] [c.toPolder] [] ∧ (((Act.refuse c m code).run s).polder c).counters = bumpIn off 1 (s.polder c).counters ∧
      ∀ q, m.reply = some q → s.severed c q.owner = false → s.planned ((Act.refuse c m code).run s) (8 + s.way c q.owner) (.replyArrival c q code) := by
  have hrun : (Act.refuse c m code).run s = (Act.reply c m code).run ((Act.count c off).run s) := by rcases h with ⟨rfl, rfl⟩ | ⟨rfl, rfl⟩ <;> rfl
  rw [hrun]
  refine ⟨keeps_trans (only_count (.head _) s) (only_reply _), ?_, fun q hq hs => counted_reply s hq hs⟩
  rw [polder_reply, count_counters]

/-! ## The fate of a message at its core (R399) -/

section fate
variable {s : State} {c l : Loc} {m : Message}

/-- The channel of a message takes it. -/
theorem mailed (ha : bit m.w0 57 = false) : s.Keeps ((Act.seq (.ack c m) (.mailIn c m)).run s) [] [c.toCore] [] [] ∧
    ((Act.seq (.ack c m) (.mailIn c m)).run s).core c = { s.core c with mail := (s.core c).mail ++ [⟨msgChan m, m, false⟩] } ∧
      s.Plans ((Act.seq (.ack c m) (.mailIn c m)).run s) [(0, .contextAllocation c.toCore)] := by
  have hrun : (Act.seq (.ack c m) (.mailIn c m)).run s = (Act.mailIn c m).run s := by rw [Act.ack, ha]; rfl
  rw [hrun]
  exact ⟨only_seq (only_core (.head _)) only_event s, core_seq_event, plans_event (xs := []) (plans_refl s) rfl⟩

/-- A channel takes what it has room for, where no replayed message waits. -/
theorem mailTakes_room (h : (s.core c).unmailed = []) : s.mailTakes c m = s.mailRoom c (msgChan m) := by simp [State.mailTakes, h]

variable (hdry : s.isDry (s.senderOf c.dev m) c.toPolder = false)
include hdry

/-- A partition that is unknown there. -/
theorem fate_foreign (hp : s.partDefined c (msgPart m) = false) : (Act.messageFate c m).run s = (Act.reply c m 3).run s := by
  rw [Act.messageFate, run_read]
  simp only [hdry, hp, Bool.not_false, if_true, Bool.false_eq_true, if_false]
  rfl

variable (hpart : (s.polder c).part = some (msgPart m))
include hpart

theorem partDefined_resident : s.partDefined c (msgPart m) = true := by simp [State.partDefined, hpart]

/-- A message for any context of the core, or for one that is READY or RUNNING. -/
theorem fate_mail (hto : bit m.dest 24 = false ∧ m.fwd = none ∨ (s.ctx (m.fwd.getD { c with ctx := bits m.dest 2 0 })).state = 1#3 ∨
      (s.ctx (m.fwd.getD { c with ctx := bits m.dest 2 0 })).state = 2#3) :
    (Act.messageFate c m).run s = (if s.mailTakes c m then .seq (.ack c m) (.mailIn c m) else .refuse c m 1 : Act).run s := by
  have habsent : ((s.polder c).part != some (msgPart m)) = false := by simp [hpart]
  rw [Act.messageFate, run_read]
  simp only [hdry, partDefined_resident hdry hpart, habsent, Bool.not_true, Bool.false_eq_true, if_false]
  by_cases hnamed : (bit m.dest 24 || m.fwd.isSome) = true
  · have hstate : (s.ctx (m.fwd.getD { c with ctx := bits m.dest 2 0 })).state = 1#3 ∨
        (s.ctx (m.fwd.getD { c with ctx := bits m.dest 2 0 })).state = 2#3 := by
      rcases hto with ⟨h1, h2⟩ | h
      · simp [h1, h2] at hnamed
      · exact h
    rw [if_pos hnamed, Act.asResident, run_read, if_pos hpart, run_read]
    rcases hstate with h | h <;> simp [h]
  · rw [if_neg hnamed]

/-- A message for a context that is DORMANT. -/
theorem fate_dormant (hto : bit m.dest 24 = true ∨ m.fwd.isSome = true) (hs : (s.ctx (m.fwd.getD { c with ctx := bits m.dest 2 0 })).state = 0#3) :
    (Act.messageFate c m).run s = (Act.dormantFate c (m.fwd.getD { c with ctx := bits m.dest 2 0 }) m).run s := by
  have hnamed : (bit m.dest 24 || m.fwd.isSome) = true := by
    rcases hto with h | h <;> simp [h]
  rw [Act.messageFate, run_read]
  simp only [hdry, partDefined_resident hdry hpart, hnamed, Bool.not_true, Bool.false_eq_true, if_false, if_true]
  rw [Act.asResident, run_read, if_pos hpart, run_read, if_pos hs]
end fate

section dormant
variable {s : State} {c l : Loc} {m : Message} (hr : (s.ctx l).reserved = none)
include hr

/-- No forwarding entry leads on from here. -/
theorem dormant_dead (h : (s.core c).forwardOf l = none ∨ m.fwd.isSome = true) : (Act.dormantFate c l m).run s = (Act.refuse c m 2).run s := by
  rw [Act.dormantFate, run_read]
  simp only [hr]
  cases hf : (s.core c).forwardOf l with
  | none => rfl
  | some f =>
    have hfwd : m.fwd.isSome = true := h.resolve_left fun e => by rw [hf] at e; cases e
    simp only [hfwd, if_true]

/-- The thread's new place is known. -/
theorem dormant_goes {f : Forward} (hf : (s.core c).forwardOf l = some f) (hm : f.moved = false) (hfwd : m.fwd = none)
    (hd : s.isDry c f.place.toPolder = false) : (Act.dormantFate c l m).run s =
      (Act.event (8 + s.way c f.place) (.messageArrival f.place.toCore { m with fwd := some f.place })).run s := by
  rw [Act.dormantFate, run_read]
  simp only [hr, hf, hfwd, hm, Option.isSome_none, Bool.false_eq_true, if_false, Act.forward, run_read, hd]
end dormant

/-! ## Slice messages (R367) -/

section slice
variable {s : State} {p : Loc} {m : Message} (hdry : s.isDry (s.senderOf p.dev m) p = false)
include hdry

/-- A message without a valid set. -/
theorem slice_foreign (h : s.setOf p (msgPart m) = none) : (Act.sliceMessage p m).run s = (Act.reply p m 3).run s := by
  rw [Act.sliceMessage, run_read]
  simp only [hdry, h, Bool.false_eq_true, if_false]

variable {set o : Nat} (hs : s.setOf p (msgPart m) = some set) (ho : sliceByte p m = some o) (h1 : s.setBase p set ≤ o) (h2 : o < s.setBase p set + s.setLen p set)
include hs ho h1 h2

/-- A set whose messages are full. -/
theorem slice_full (h : 16 ≤ ((s.polder p).events.filter fun e => e.set == set && e.msg.isSome).length) :
    (Act.sliceMessage p m).run s = (Act.reply p m 1).run ((Act.count p 0x3A0).run s) := by
  rw [Act.sliceMessage, run_read]
  simp only [hdry, hs, ho, decide_eq_true h1, decide_eq_true h2, h, Bool.and_self, Bool.not_true, Bool.false_eq_true, if_false, if_true]
  rfl

/-- The event that a slice message becomes. -/
def Act.sliceEvent (p : Loc) (m : Message) (set o : Nat) : Act :=
  .seq (.polder p fun q => { q with
      eventOrder := q.eventOrder + 1
      events := q.events ++ [⟨set, 0, q.eventOrder, o, false, 0, 0, 0, some m, m.pasid⟩] })
    (.pokeSlice p)
theorem slice_event (ha : bit m.w0 57 = false) (h : ((s.polder p).events.filter fun e => e.set == set && e.msg.isSome).length < 16) :
    (Act.sliceMessage p m).run s = (Act.sliceEvent p m set o).run s := by
  rw [Act.sliceMessage, run_read]
  simp only [hdry, hs, ho, decide_eq_true h1, decide_eq_true h2, if_neg (Nat.not_le.2 h), Bool.and_self, Bool.not_true, Bool.false_eq_true, if_false,
    run_all_cons, run_all_nil, Act.ack, ha]
  rfl
end slice

theorem events_pokeSlice (p : Loc) (s : State) : (((Act.pokeSlice p).run s).polder p).events = (s.polder p).events :=
  (leaves_read fun _ => leaves_when (leaves_seq (leaves_polder_of fun _ => rfl) fun _ => rfl) :
    (Act.pokeSlice p).Leaves fun s => (s.polder p).events) s
/-- The event joins the queue. -/
theorem sliceEvent_does (s : State) (p : Loc) (m : Message) (set o : Nat) : s.Keeps ((Act.sliceEvent p m set o).run s) [] [] [p.toPolder] [] ∧
    (((Act.sliceEvent p m set o).run s).polder p).events = (s.polder p).events ++ [⟨set, 0, (s.polder p).eventOrder, o, false, 0, 0, 0, some m, m.pasid⟩] := by
  have hk : (Act.sliceEvent p m set o).Only [] [] [p.toPolder] [] :=
    only_seq (only_polder (.head _)) (only_read fun _ => only_when fun _ => only_seq (only_polder (.head _)) only_event)
  refine ⟨hk s, ?_⟩
  rw [Act.sliceEvent, run_seq, events_pokeSlice, run_polder, polder_apply_polder]

/-! ## Reply words (R210, R63) -/

/-- A reply word holds a count and a code. -/
theorem reply_word_lt (n code : Nat) : (n / 256 + 1) % 2 ^ 56 * 256 + code % 256 < 256 ^ 8 := by omega
theorem replies {s : State} {q : Place} {k code : Nat} (hs : s.Inv) (hk : s.takesAt q k) (hw : s.workspaceHit q 8 = false) :
    ((Act.writeReply q code).run s).word k = (s.word k / 256 + 1) % 2 ^ 56 * 256 + code % 256 ∧ s.memKeptBut ((Act.writeReply q code).run s) k 8 := by
  obtain ⟨hkey, hset, _⟩ := id hk
  have hread : natOfBytes ((s.placeBytes q 8).getD []) = s.word k := by
    have h6 : q.space ≠ 6 := fun e => by simp [State.keyOf, e] at hkey
    rw [State.placeBytes, settled_isFresh hset, if_neg (by decide), if_neg h6, hkey]
    rfl
  have hwr := writes_lines hk (bytesOf 8 ((s.word k / 256 + 1) % 2 ^ 56 * 256 + code % 256))
  have hrun : (Act.writeReply q code).run s = (Act.writeLines q (bytesOf 8 ((s.word k / 256 + 1) % 2 ^ 56 * 256 + code % 256))).run s := by
    rw [Act.writeReply, run_read, hread]
    simp only [hw, Bool.not_false, run_when, if_true]
  rw [hrun]
  have hnum := Writes_num hwr hs.mem
  have hkept := Writes_memKeptBut hwr
  rw [bytesOf_length] at hnum hkept
  exact ⟨by rw [State.word, hnum, natOfBytes_bytesOf, Nat.mod_eq_of_lt (reply_word_lt _ _)], hkept⟩

/-- Settles O45: the fate of a message by the rows of R399's table, a slice message by the room of its set, a reply by its word. -/
theorem messagesArrive : Obligations.MessagesArrive := by
  refine ⟨?core, ?slice, ?reply⟩
  case core =>
    intro s c m ha l said hcur
    refine ⟨(Act.messageFate c m).run s, ?_, fun hdry => ?_, fun hdry => ⟨fun hp => ?_, fun hp hto hroom hun => ?_, fun hp hto hroom => ?_,
      fun hp hto hstate hres => ⟨fun hf => ?_, fun f hf hmoved hfwd hd => ?_⟩⟩⟩
    · change execMessageArrival s = _
      rw [execMessageArrival, hcur]
      rfl
    · have hrun : (Act.messageFate c m).run s = (Act.reply c m 4).run s := by
        rw [Act.messageFate, run_read, if_pos hdry]
      rw [hrun]
      exact ⟨only_reply s, fun q hq hsev => reply_planned s hq hsev⟩
    · rw [fate_foreign hdry hp]
      exact ⟨only_reply s, fun q hq hsev => reply_planned s hq hsev⟩
    · rw [fate_mail hdry hp hto, mailTakes_room hun, if_pos hroom]
      exact mailed ha
    · have hno : s.mailTakes c m = false := by rw [State.mailTakes, hroom, Bool.false_and]
      rw [fate_mail hdry hp hto, hno, if_neg (by decide)]
      exact refuse_counts (.inl ⟨rfl, rfl⟩) s
    · rw [fate_dormant hdry hp hto hstate, dormant_dead hres hf]
      exact refuse_counts (.inr ⟨rfl, rfl⟩) s
    · rw [fate_dormant hdry hp hto hstate, dormant_goes hres hf hmoved hfwd hd]
      exact ⟨only_event s, plans_event (plans_refl s) rfl⟩
  case slice =>
    intro s p m ha hdry hcur
    refine ⟨(Act.sliceMessage p m).run s, ?_, fun q hnone hq hsev => ?_, fun set o hset ho h1 h2 => ?_⟩
    · change execSliceMessageArrival s = _
      rw [execSliceMessageArrival, hcur]
      rfl
    · rw [slice_foreign hdry hnone]
      exact ⟨only_reply s, reply_plans s hq hsev⟩
    · rcases Nat.lt_or_ge ((s.polder p).events.filter fun e => e.set == set && e.msg.isSome).length 16 with hlt | hge
      · rw [slice_event hdry hset ho h1 h2 ha hlt]
        obtain ⟨hk, he⟩ := sliceEvent_does s p m set o
        exact ⟨hk, fun h => absurd h (Nat.not_le.2 hlt), fun _ => he⟩
      · rw [slice_full hdry hset ho h1 h2 hge]
        refine ⟨keeps_trans (only_count (.head _) s) (only_reply _), fun _ => ⟨?_, fun q hq hsev => counted_reply s hq hsev⟩,
          fun h => absurd h (Nat.not_lt.2 hge)⟩
        rw [polder_reply, Act.count, run_polder, polder_apply_polder]
  case reply =>
    intro s c q code k hs hk hcur
    refine ⟨(Act.writeReply q code).run s, ?_, fun hw => ?_, replies hs hk⟩
    · change execReplyArrival s = _
      rw [execReplyArrival, hcur]
      rfl
    · have hrun : (Act.writeReply q code).run s = s := by
        rw [Act.writeReply, run_read, hw]
        rfl
      rw [hrun]
      exact ⟨keeps_refl _ _ _ _ _, plans_refl s⟩

end Sys2Proof.Machine
end

section
/-! SUPPORT. Matrix entries complete and ring entries retire (spec/08 R198, R199, spec/12 R264, R265, R270). -/

namespace Sys2Proof.Machine

/-! ## A matrix entry that has run (R198, R199, R270) -/

/-- The row descriptors that a job asks for. -/
def MatrixJob.rowDescs (j : MatrixJob) : List W64 :=
  match j.op with
  | .mma pr _ a b _ x => if bit x 6 && j.cause == 0 then
      (List.range ((shapeOf a).ext 1)).map fun i => w64 (rowDesc j.slot i ((shapeOf b).ext 1) (pairAcc pr) j.seq) else []
  | _ => []
theorem rowDescs_failed {j : MatrixJob} (h : j.cause ≠ 0) : j.rowDescs = [] := by
  have hc : (j.cause == 0) = false := by simp [h]
  unfold MatrixJob.rowDescs
  split
  · rw [hc, Bool.and_false, if_neg (by decide)]
  · rfl
theorem rowDescs_macc {j : MatrixJob} {m : MaccOp} {w r : Nat} (h : j.op = .macc m w r) : j.rowDescs = [] := by rw [MatrixJob.rowDescs, h]
theorem rowDesc_eq (pr : MmaPair) (slot i cnt seq : Nat) : rowDesc slot i cnt (pairAcc pr) seq =
    seq % 2 ^ 16 * 2 ^ 32 + pairAcc pr * 2 ^ 18 + cnt % 2 ^ 7 * 2 ^ 11 + i % 2 ^ 6 * 2 ^ 5 + slot % 2 ^ 5 := by
  have hp : pairAcc pr % 2 ^ 2 = pairAcc pr := by cases pr <;> rfl
  simp only [rowDesc, field, hp]
  omega
theorem rowDescs_mma {j : MatrixJob} {pr : MmaPair} {rot : Bool} {a b : List Byte} {la x : Nat} (hc : j.cause = 0) (h : j.op = .mma pr rot a b la x) :
    j.rowDescs = (List.range (if bit x 6 then (shapeOf a).ext 1 else 0)).map fun i => w64
      (j.seq % 2 ^ 16 * 2 ^ 32 + pairAcc pr * 2 ^ 18 + (shapeOf b).ext 1 % 2 ^ 7 * 2 ^ 11 + i % 2 ^ 6 * 2 ^ 5 + j.slot % 2 ^ 5) := by
  rw [MatrixJob.rowDescs, h, hc]
  cases hx : bit x 6 with
  | true => simp only [rowDesc_eq, beq_self_eq_true, Bool.and_self, if_true, hx]
  | false => simp [hx]

section poison
variable {s : State} {p : Loc} {j : MatrixJob}

theorem poisonSlot_keeps (s : State) (p : Loc) (j : MatrixJob) : s.Keeps ((Act.poisonSlot p j).run s) [] [] [p.toPolder] [] :=
  (only_read fun _ => only_when fun _ => only_polder (.head _) : (Act.poisonSlot p j).Only [] [] [p.toPolder] []) s
theorem poisonSlot_jobs (s : State) (p : Loc) (j : MatrixJob) : (((Act.poisonSlot p j).run s).polder p).jobs = (s.polder p).jobs :=
  (leaves_read fun _ => leaves_when (leaves_polder_of fun _ => rfl) : (Act.poisonSlot p j).Leaves fun s => (s.polder p).jobs) s
theorem poisonSlot_agenda (s : State) (p : Loc) (j : MatrixJob) : ((Act.poisonSlot p j).run s).agenda = s.agenda :=
  (leaves_read fun _ => leaves_when fun _ => rfl : (Act.poisonSlot p j).Leaves State.agenda) s

/-- No other job of the slot is behind the one that has failed. -/
theorem slot_alone (hj : s.jobAt p j.core j.seq = some j) (h1 : (s.polder p).jobs.countP (fun y => y.slot == j.slot) = 1) :
    (((s.polder p).jobs.dropWhile fun x => !(x.core == j.core && x.seq == j.seq)).drop 1).any
      (fun x => x.slot == j.slot && x.reg && x.op.clears) = false := by
  obtain ⟨_, pre, post, hsplit, hpre⟩ := List.find?_eq_some_iff_append.1 hj
  have hdrop : (s.polder p).jobs.dropWhile (fun x => !(x.core == j.core && x.seq == j.seq)) = j :: post := by
    rw [hsplit, List.dropWhile_append_of_pos hpre, List.dropWhile_cons_of_neg (by simp)]
  rw [hsplit, List.countP_append, List.countP_cons_of_pos (by simp)] at h1
  have hpost : post.countP (fun y => y.slot == j.slot) = 0 := by omega
  rw [hdrop, List.drop_one, List.tail_cons, List.any_eq_false]
  intro x hx
  have := List.countP_eq_zero.1 hpost x hx
  simp [this]
/-- A failed entry poisons its slot. -/
theorem poisonSlot_banks (hj : s.jobAt p j.core j.seq = some j) (h1 : (s.polder p).jobs.countP (fun y => y.slot == j.slot) = 1) :
    (((Act.poisonSlot p j).run s).polder p).banks = (s.polder p).banks.set (s.polder p).bank { (s.polder p).theBank with
        slots := (s.polder p).theBank.slots.set j.slot { (s.polder p).slotAt j.slot with poison := true } } := by
  rw [Act.poisonSlot, run_read, slot_alone hj h1, Bool.not_false, run_when, if_pos rfl, Act.slot, run_polder, polder_apply_polder]
end poison

section complete
variable {s : State} {p c : Loc} {j : MatrixJob}

theorem entry_core (u : State) (c : Loc) (n : Nat) (f : RingEntry → RingEntry) : ((Act.entry c n f).run u).core c = (u.core c).upd n f :=
  core_apply_core c (fun k => { k with ring := k.ring.map fun e => if e.seq.toNat = n then f e else e }) u
theorem upd_upd (k : CoreState) (n : Nat) (f g : RingEntry → RingEntry) (hf : ∀ e, (f e).seq = e.seq) : (k.upd n f).upd n g = k.upd n (g ∘ f) := by
  simp only [CoreState.upd, List.map_map]
  congr 1
  refine List.map_congr_left fun e _ => ?_
  by_cases he : e.seq.toNat = n <;> simp [he, hf]

/-- The job leaves the engine, and its entry is complete. -/
def Act.jobLeaves (p c : Loc) (j : MatrixJob) : Act :=
  .seq (.polder p fun q => { q with jobs := q.jobs.filter fun x => !(x.core == j.core && x.seq == j.seq) })
    (.seq (.entry c j.seq fun e => { e with rows := j.rowDescs }) (.entry c j.seq fun e => e.ended j.cause j.addr j.flags))
/-- What the engine and the ring do next. -/
def Act.jobNews (p c : Loc) : Act :=
  .seq (.event 0 (.entryRetire c.toCore)) (.seq (.event 0 (.matrixEntryAccept p.toPolder)) (.event 0 (.rangeLockRegister p.toPolder)))
theorem run_matrixComplete (hj : s.jobAt p j.core j.seq = some j) : (Act.matrixComplete p j.core j.seq).run s =
    (Act.jobNews p { p.toPolder with core := j.core }).run ((Act.jobLeaves p { p.toPolder with core := j.core } j).run
      ((Act.when (j.cause != 0 && !j.refused) (.poisonSlot p j)).run s)) := by
  rw [Act.matrixComplete, run_read, hj]
  rfl
theorem jobLeaves_core (u : State) :
    ((Act.jobLeaves p c j).run u).core c = (u.core c).upd j.seq (fun e => { e with rows := j.rowDescs }.ended j.cause j.addr j.flags) := by
  rw [Act.jobLeaves, run_seq, run_seq, entry_core, entry_core]
  exact upd_upd _ _ _ _ fun _ => rfl
theorem jobLeaves_polder (u : State) : ((Act.jobLeaves p c j).run u).polder p =
    { u.polder p with jobs := (u.polder p).jobs.filter fun x => !(x.core == j.core && x.seq == j.seq) } :=
  polder_apply_polder p (fun q => { q with jobs := q.jobs.filter fun x => !(x.core == j.core && x.seq == j.seq) }) u
theorem jobDone_keeps : (Act.seq (Act.jobLeaves p c j) (Act.jobNews p c)).Only [] [c.toCore] [p.toPolder] [] :=
  only_seq (only_seq (only_polder (.head _)) (only_seq (only_core (.head _)) (only_core (.head _)))) (only_seq only_event (only_seq only_event only_event))
theorem jobNews_plans (u : State) : u.Plans ((Act.jobNews p c).run u)
    [(0, .entryRetire c.toCore), (0, .matrixEntryAccept p.toPolder), (0, .rangeLockRegister p.toPolder)] :=
  plans_event (plans_event (plans_event (xs := []) (plans_refl u) rfl) rfl) rfl
end complete

/-- The poisoning, where it is due. -/
theorem poisons_keeps (s : State) (p : Loc) (j : MatrixJob) (w : Bool) : s.Keeps ((Act.when w (.poisonSlot p j)).run s) [] [] [p.toPolder] [] := by
  cases w with
  | true => exact poisonSlot_keeps s p j
  | false => exact keeps_refl _ _ _ _ _
theorem poisons_jobs (s : State) (p : Loc) (j : MatrixJob) (w : Bool) : (((Act.when w (.poisonSlot p j)).run s).polder p).jobs = (s.polder p).jobs := by
  cases w with
  | true => exact poisonSlot_jobs s p j
  | false => rfl
theorem poisons_agenda (s : State) (p : Loc) (j : MatrixJob) (w : Bool) : ((Act.when w (.poisonSlot p j)).run s).agenda = s.agenda := by
  cases w with
  | true => exact poisonSlot_agenda s p j
  | false => rfl
theorem poisons_now (s : State) (p : Loc) (j : MatrixJob) (w : Bool) : ((Act.when w (.poisonSlot p j)).run s).now = s.now := by
  cases w with
  | true => exact (leaves_read fun _ => leaves_when fun _ => rfl : (Act.poisonSlot p j).Leaves State.now) s
  | false => rfl

/-! ## Retirement (R264, R265) -/

/-- The waiting slots of a core belong to the mates of each of its contexts. -/
theorem only_wakeCore_mates {c l : Loc} (h : l.toCore = c.toCore) {ks ps ds : List Loc} : (Act.wakeCore c).Only (coreMates l) ks ps ds :=
  only_read fun s => only_each fun x hx => by
    obtain ⟨k, hk, hx⟩ := List.mem_flatMap.1 (mem_sortBy.1 hx)
    have hl : ({ c with ctx := k } : Loc) = { l with ctx := k } := by
      cases l
      cases c
      cases h
      rfl
    have hx1 : x.1 = { c with ctx := k } := by
      split at hx
      · obtain ⟨_, _, rfl⟩ := List.mem_map.1 hx
        rfl
      · cases hx
    exact only_offer (hx1 ▸ hl ▸ List.mem_cons_of_mem _ (List.mem_map.2 ⟨k, hk, rfl⟩))

section retire
variable {s : State} {c : Loc} {e : RingEntry}

/-- The entry leaves the ring, and what it has registered is released. -/
def Act.leaveRing (c : Loc) (e : RingEntry) : Act :=
  .seq (.core c fun k => { k with ring := k.ring.filter fun x => x.seq != e.seq })
    (.seq (.when (!e.locks.isEmpty) (.unlock c fun r => e.locks.contains r.id))
      (.polder c fun q => { q with banks := q.banks.set q.bank { q.theBank with
        slots := (List.range 32).map fun i => (q.slotAt i).retired c.core e.seq.toNat (e.op.unit == .matrix && e.beat == 1 && e.op.slotOf == i) } }))
/-- What the retirement leaves with the thread, or of one that has gone in the host queue. -/
def Act.settleEntry (e : RingEntry) (gone : Bool) (r : FaultRec) : Act :=
  if gone then .when (e.cause != 0) (.lateToHost e.owner e.part e.thread r)
  else .seq (.ctx e.owner fun x => { x with rowQ := x.rowQ ++ e.rows, fm := w64 (Nat.lor x.fm.toNat e.flags), rseq := e.seq })
    (.when (e.cause != 0) (.addLate e.owner ⟨e.cause, e.seq.toNat, e.addr⟩))
theorem run_retireOne : (Act.retireOne c e).run s =
    (Act.settleEntry e (e.orphaned s) (s.engineRec e.owner e.cause 0 e.addr e.seq.toNat)).run ((Act.leaveRing c e).run s) := by
  rw [Act.retireOne, run_read]
  cases e.orphaned s <;> rfl

theorem leaveRing_only : (Act.leaveRing c e).Only [] [c.toCore] [c.toPolder] [] :=
  only_seq (only_core (.head _)) (only_seq (only_when fun _ => only_seq (only_polder (.head _))
    (only_all fun a ha => by
      simp only [List.mem_cons, List.not_mem_nil, or_false] at ha
      rcases ha with rfl | rfl | rfl <;> exact only_event)) (only_polder (.head _)))
theorem unlock_core (u : State) (p m : Loc) (f : RangeLock → Bool) : ((Act.unlock p f).run u).core m = u.core m := rfl
theorem leaveRing_core (u : State) : ((Act.leaveRing c e).run u).core c = { u.core c with ring := (u.core c).ring.filter fun x => x.seq != e.seq } := by
  have h : (Act.seq (.when (!e.locks.isEmpty) (.unlock c fun r => e.locks.contains r.id))
      (.polder c fun q => { q with banks := q.banks.set q.bank { q.theBank with
        slots := (List.range 32).map fun i => (q.slotAt i).retired c.core e.seq.toNat (e.op.unit == .matrix && e.beat == 1 && e.op.slotOf == i) } })).Leaves
      fun s => s.core c :=
    leaves_seq (leaves_when fun _ => rfl) fun _ => rfl
  exact (h _).trans (core_apply_core c (fun k => { k with ring := k.ring.filter fun x => x.seq != e.seq }) u)
theorem leaveRing_locks (u : State) : (((Act.leaveRing c e).run u).polder c).locks = (u.polder c).locks.filter fun r => !e.locks.contains r.id := by
  rw [Act.leaveRing, run_seq, run_seq, run_polder, polder_apply_polder]
  cases h : e.locks.isEmpty with
  | true =>
    rw [List.isEmpty_iff.1 h]
    exact (List.filter_eq_self.2 fun _ _ => rfl).symm
  | false => exact congrArg PolderState.locks (polder_apply_polder c (fun q => { q with locks := q.locks.filter fun r => !e.locks.contains r.id }) _)

theorem settleEntry_leaves {α : Type} {f : State → α} (hc : ∀ l g, (Act.ctx l g).Leaves f) (hd : ∀ l g, (Act.device l g).Leaves f)
    {gone : Bool} {r : FaultRec} :
    (Act.settleEntry e gone r).Leaves f := by
  cases gone with
  | true => exact leaves_when (leaves_seq (hd _ _) (hc _ _))
  | false => exact leaves_seq (hc _ _) (leaves_when (hc _ _))

/-- The step: the one entry that is ready retires, the count of the cycle is kept, and slots and jobs that wait try again. -/
def Act.retireNext (c : Loc) (x : Nat × Nat) : Act :=
  .seq (.core c fun k => { k with retired := x }) (.seq (.wakeCore c) (.pokeJobs c))
theorem exec_entryRetire (hcur : s.cur = .entryRetire c) (hr : (s.core c).ready = [e]) (h0 : 0 < s.retireRoom c) :
    exec .entryRetire s = .next ((Act.retireNext c (s.now, 4 - s.retireRoom c + 1)).run ((Act.retireOne c e).run s)) := by
  have htake : [e].take (s.retireRoom c) = [e] := List.take_of_length_le h0
  have hmin : min (s.retireRoom c) [e].length = 1 := Nat.min_eq_right h0
  have hmore : decide (s.retireRoom c < [e].length) = false := decide_eq_false (Nat.not_lt.2 h0)
  change execEntryRetire s = _
  rw [execEntryRetire, hcur]
  simp only [hr, htake, hmin, hmore, done, Act.retireNext, run_all_cons, run_all_nil, run_each_cons, run_each_nil, run_when, run_seq, Bool.false_eq_true,
    if_false, List.isEmpty_cons, Bool.not_false, if_true]
theorem retireNext_only {l : Loc} (hl : l.toCore = c.toCore) (x : Nat × Nat) : (Act.retireNext c x).Only (coreMates l) [c.toCore] [] [] :=
  only_seq (only_core (.head _)) (only_seq (only_wakeCore_mates hl) (only_read fun _ => only_when fun _ => only_event))
theorem pokeJobs_leaves {α : Type} {f : State → α} (hs : ∀ d e, (Act.event d e).Leaves f) : (Act.pokeJobs c).Leaves f :=
  leaves_read fun _ => leaves_when (hs _ _)
theorem retireNext_ctx (x : Nat × Nat) (u : State) (m : Loc) : (((Act.retireNext c x).run u).ctx m).unblocked = (u.ctx m).unblocked :=
  (leaves_seq (fun _ => rfl) (leaves_seq (leaves_wakeCore_ctx c m) (pokeJobs_leaves fun _ _ _ => rfl)) :
    (Act.retireNext c x).Leaves fun s => (s.ctx m).unblocked) u
theorem retireNext_core (x : Nat × Nat) (u : State) : ((Act.retireNext c x).run u).core c = { u.core c with retired := x } := by
  have h : (Act.seq (.wakeCore c) (.pokeJobs c)).Leaves fun s => s.core c :=
    leaves_seq (leaves_wakeCore (fun _ _ _ => rfl) fun _ _ => rfl) (pokeJobs_leaves fun _ _ _ => rfl)
  exact (h _).trans (core_apply_core c (fun k => { k with retired := x }) u)
theorem retireNext_polder (x : Nat × Nat) (u : State) (m : Loc) : ((Act.retireNext c x).run u).polder m = u.polder m :=
  (leaves_seq (fun _ => rfl) (leaves_seq (leaves_wakeCore (fun _ _ _ => rfl) fun _ _ => rfl) (pokeJobs_leaves fun _ _ _ => rfl)) :
    (Act.retireNext c x).Leaves fun s => s.polder m) u
theorem retireNext_device (x : Nat × Nat) (u : State) (m : Loc) : ((Act.retireNext c x).run u).device m = u.device m :=
  (leaves_seq (fun _ => rfl) (leaves_seq (leaves_wakeCore (fun _ _ _ => rfl) fun _ _ => rfl) (pokeJobs_leaves fun _ _ _ => rfl)) :
    (Act.retireNext c x).Leaves fun s => s.device m) u
end retire

/-- A matrix entry that has run. -/
theorem matrixCompletes {s : State} {p : Loc} {j : MatrixJob} (hj : s.jobAt p j.core j.seq = some j) {c : Loc} (hc : c = { p.toPolder with core :=
    j.core }) (t : State)
    (ht : (Act.matrixComplete p j.core j.seq).run s = t) : s.Keeps t [] [c] [p.toPolder] [] ∧
      s.Plans t [(0, .entryRetire c), (0, .matrixEntryAccept p.toPolder), (0, .rangeLockRegister p.toPolder)] ∧
      (t.polder p).jobs = (s.polder p).jobs.filter (fun x => !(x.core == j.core && x.seq == j.seq)) ∧
      (t.polder p).banks = (((Act.when (j.cause != 0 && !j.refused) (.poisonSlot p j)).run s).polder p).banks ∧
      t.core c = (s.core c).upd j.seq (fun e => { e with rows := j.rowDescs }.ended j.cause j.addr j.flags) := by
  have hcore : c.toCore = c := by rw [hc]; rfl
  have hrun := run_matrixComplete hj
  rw [ht, ← hc] at hrun
  have hkept := poisons_keeps s p j (j.cause != 0 && !j.refused)
  have hjobs := poisons_jobs s p j (j.cause != 0 && !j.refused)
  have hag := poisons_agenda s p j (j.cause != 0 && !j.refused)
  have hnow := poisons_now s p j (j.cause != 0 && !j.refused)
  generalize (Act.when (j.cause != 0 && !j.refused) (.poisonSlot p j)).run s = u at hrun hkept hjobs hag hnow
  have hcoreU : u.core c = s.core c := hkept.2.cores c fun h => by cases h
  have hdone := jobDone_keeps (p := p) (c := c) (j := j) u
  rw [run_seq, ← hrun, hcore] at hdone
  have hplans := jobNews_plans (p := p) (c := c) ((Act.jobLeaves p c j).run u)
  rw [← hrun, hcore] at hplans
  refine ⟨keeps_trans ⟨hkept.1, { hkept.2 with cores := fun l _ => hkept.2.cores l fun h => by cases h }⟩ hdone, fun q => ?_, ?_, ?_, ?_⟩
  · rw [hplans q, show ((Act.jobLeaves p c j).run u).agenda = u.agenda from rfl, show ((Act.jobLeaves p c j).run u).now = u.now from rfl, hag, hnow]
  · rw [hrun, show ((Act.jobNews p c).run ((Act.jobLeaves p c j).run u)).polder p = ((Act.jobLeaves p c j).run u).polder p from rfl, jobLeaves_polder, hjobs]
  · rw [hrun, show ((Act.jobNews p c).run ((Act.jobLeaves p c j).run u)).polder p = ((Act.jobLeaves p c j).run u).polder p from rfl, jobLeaves_polder]
  · rw [hrun, show ((Act.jobNews p c).run ((Act.jobLeaves p c j).run u)).core c = ((Act.jobLeaves p c j).run u).core c from rfl, jobLeaves_core, hcoreU]

/-- A late fault joins those that are kept. -/
theorem addLate_room {l : Loc} {f : LateFault} {u : State} (h1 : (u.ctx l).late.length < 8) (h2 : (u.ctx l).surplus = 0) :
    ((Act.addLate l f).run u).ctx l = { u.ctx l with late := (u.ctx l).late ++ [f] } := by
  rw [Act.addLate, run_ctx, ctx_apply_ctx, if_pos ⟨h1, h2⟩]
theorem addLate_rest (l : Loc) (f : LateFault) (u : State) : ∃ x y, ((Act.addLate l f).run u).ctx l = { u.ctx l with late := x, surplus := y } := by
  rw [Act.addLate, run_ctx, ctx_apply_ctx]
  split
  · exact ⟨_, _, rfl⟩
  · exact ⟨_, _, rfl⟩

/-- What the thread of an entry keeps of it. -/
theorem settleEntry_stays (e : RingEntry) (u : State) (r : FaultRec) : u.Keeps ((Act.settleEntry e false r).run u) [e.owner] [] [] [] ∧
    ∃ x y, ((Act.settleEntry e false r).run u).ctx e.owner = { u.ctx e.owner with
      rowQ := (u.ctx e.owner).rowQ ++ e.rows, fm := w64 (Nat.lor (u.ctx e.owner).fm.toNat e.flags), rseq := e.seq, late := x, surplus := y } ∧
      (e.cause = 0 → x = (u.ctx e.owner).late) ∧
      (e.cause ≠ 0 → (u.ctx e.owner).late.length < 8 → (u.ctx e.owner).surplus = 0 → x = (u.ctx e.owner).late ++ [⟨e.cause, e.seq.toNat, e.addr⟩]) := by
  refine ⟨(only_seq (only_ctx (.head _)) (only_when fun _ => only_ctx (.head _)) : (Act.settleEntry e false r).Only [e.owner] [] [] []) u, ?_⟩
  have hctx : ((Act.ctx e.owner fun x => { x with rowQ := x.rowQ ++ e.rows, fm := w64 (Nat.lor x.fm.toNat e.flags), rseq := e.seq }).run u).ctx e.owner =
      { u.ctx e.owner with rowQ := (u.ctx e.owner).rowQ ++ e.rows, fm := w64 (Nat.lor (u.ctx e.owner).fm.toNat e.flags), rseq := e.seq } :=
    ctx_apply_ctx e.owner _ u
  have hrun : (Act.settleEntry e false r).run u = (Act.when (e.cause != 0) (.addLate e.owner ⟨e.cause, e.seq.toNat, e.addr⟩)).run
      ((Act.ctx e.owner fun x => { x with rowQ := x.rowQ ++ e.rows, fm := w64 (Nat.lor x.fm.toNat e.flags), rseq := e.seq }).run u) := rfl
  rw [hrun]
  generalize (Act.ctx e.owner fun x => { x with rowQ := x.rowQ ++ e.rows, fm := w64 (Nat.lor x.fm.toNat e.flags), rseq := e.seq }).run u = v at hctx
  by_cases hc : e.cause = 0
  · have : (e.cause != 0) = false := by simp [hc]
    rw [this]
    exact ⟨_, _, hctx, fun _ => rfl, fun h => absurd hc h⟩
  · have : (e.cause != 0) = true := by simp [hc]
    rw [this, run_when, if_pos rfl]
    by_cases hroom : (u.ctx e.owner).late.length < 8 ∧ (u.ctx e.owner).surplus = 0
    · refine ⟨_, _, (addLate_room (by rw [hctx]; exact hroom.1) (by rw [hctx]; exact hroom.2)).trans (by rw [hctx]), fun h => absurd h hc, fun _ _ _ => rfl⟩
    · obtain ⟨x, y, h⟩ := addLate_rest e.owner ⟨e.cause, e.seq.toNat, e.addr⟩ v
      exact ⟨x, y, h.trans (by rw [hctx]), fun h => absurd h hc, fun _ h1 h2 => absurd ⟨h1, h2⟩ hroom⟩

/-- The record of a late fault whose thread has gone. -/
theorem lateToHost_does (u : State) (l : Loc) (part thread : Nat) (r : FaultRec) : u.Keeps ((Act.lateToHost l part thread r).run u) [l] [] [] [l.toDev] ∧
    (part, r) ∈ (((Act.lateToHost l part thread r).run u).device l).hostRecs ∧
    (∃ x y, ((Act.lateToHost l part thread r).run u).ctx l = { u.ctx l with faultQ := x, faultLost := y }) ∧
    ((u.ctx l).thread = thread → (u.ctx l).state = 0#3 → (u.ctx l).faultQ.length < 8 →
      { r with ovf := (u.ctx l).faultLost } ∈ (((Act.lateToHost l part thread r).run u).ctx l).faultQ) := by
  have hctx : ((Act.lateToHost l part thread r).run u).ctx l =
      if (u.ctx l).thread = thread ∧ (u.ctx l).state = 0#3 ∧ (u.ctx l).faultQ.length < 8 then
        { u.ctx l with faultQ := (u.ctx l).faultQ ++ [{ r with ovf := (u.ctx l).faultLost }], faultLost := false } else u.ctx l :=
    ctx_apply_ctx l (fun c => if c.thread = thread ∧ c.state = 0#3 ∧ c.faultQ.length < 8 then
      { c with faultQ := c.faultQ ++ [{ r with ovf := c.faultLost }], faultLost := false } else c) ((Act.hostRec l part r).run u)
  refine ⟨(only_seq (only_device (.head _)) (only_ctx (.head _)) : (Act.lateToHost l part thread r).Only [l] [] [] [l.toDev]) u, ?_, ?_, fun h1 h2 h3 => ?_⟩
  · have : ((Act.lateToHost l part thread r).run u).device l = { u.device l with hostRecs := (u.device l).hostRecs ++ [(part, r)] } :=
      device_apply_device l (fun d => { d with hostRecs := d.hostRecs ++ [(part, r)] }) u
    rw [this]
    exact List.mem_append_right _ (.head _)
  · rw [hctx]
    split
    · exact ⟨_, _, rfl⟩
    · exact ⟨_, _, rfl⟩
  · rw [hctx, if_pos ⟨h1, h2, h3⟩]
    exact List.mem_append_right _ (.head _)

section retirement
variable {s : State} {c : Loc} {e : RingEntry} (h0 : 0 < s.retireRoom c) (hl : e.owner.toCore = c.toCore) {t : State} {x : Nat × Nat}
  (ht : (Act.retireNext c x).run ((Act.retireOne c e).run s) = t)
include hl ht

/-- The ring, the registrations and memory after a retirement. -/
theorem retires (ho : (s.core c).ready = [e]) : s.memKept t ∧
    t.core c = { s.core c with ring := (s.core c).ring.filter fun x => x.seq != e.seq, retired := x } ∧
      (t.polder c).locks = (s.polder c).locks.filter (fun r => !e.locks.contains r.id) := by
  rw [← ht, run_retireOne]
  have hv : s.memKept ((Act.leaveRing c e).run s) := (leaveRing_only s).1
  have hcore := leaveRing_core (c := c) (e := e) s
  have hlocks := leaveRing_locks (c := c) (e := e) s
  generalize (Act.leaveRing c e).run s = v at hv hcore hlocks
  have hu : v.memKept ((Act.settleEntry e (e.orphaned s) (s.engineRec e.owner e.cause 0 e.addr e.seq.toNat)).run v) := by
    cases e.orphaned s with
    | true => exact (only_when fun _ => (only_seq (only_device (.head _)) (only_ctx (.head _)) :
        (Act.lateToHost e.owner e.part e.thread (s.engineRec e.owner e.cause 0 e.addr e.seq.toNat)).Only [e.owner] [] [] [e.owner.toDev])) v |>.1
    | false => exact (settleEntry_stays e v _).1.1
  have hc : ((Act.settleEntry e (e.orphaned s) (s.engineRec e.owner e.cause 0 e.addr e.seq.toNat)).run v).core c = v.core c :=
    settleEntry_leaves (f := fun s => s.core c) (fun _ _ _ => rfl) (fun _ _ _ => rfl) v
  have hp : ((Act.settleEntry e (e.orphaned s) (s.engineRec e.owner e.cause 0 e.addr e.seq.toNat)).run v).polder c = v.polder c :=
    settleEntry_leaves (f := fun s => s.polder c) (fun _ _ _ => rfl) (fun _ _ _ => rfl) v
  refine ⟨memKept_trans hv (memKept_trans hu (retireNext_only hl x _).1), ?_, ?_⟩
  · rw [retireNext_core, hc, hcore]
  · rw [retireNext_polder, hp, hlocks]

theorem leaveRing_ctx (m : Loc) : ((Act.leaveRing c e).run s).ctx m = s.ctx m :=
  (leaveRing_only (c := c) (e := e) s).2.ctxs m fun h => by cases h

/-- What a retirement does for a thread that is still there. -/
theorem retires_here (ho : e.orphaned s = false) : s.Touches t (coreMates e.owner) [c.toCore] [c.toPolder] [] ∧
    ∃ a b w, t.ctx e.owner = { s.ctx e.owner with
      rowQ := (s.ctx e.owner).rowQ ++ e.rows, fm := w64 (Nat.lor (s.ctx e.owner).fm.toNat e.flags), rseq := e.seq, late := a, surplus := b, block := w } ∧
      (e.cause = 0 → a = (s.ctx e.owner).late) ∧
      (e.cause ≠ 0 → (s.ctx e.owner).late.length < 8 → (s.ctx e.owner).surplus = 0 → a = (s.ctx e.owner).late ++ [⟨e.cause, e.seq.toNat, e.addr⟩]) := by
  have hctx := leaveRing_ctx hl ht e.owner
  rw [← ht, run_retireOne, ho]
  have hv := leaveRing_only (c := c) (e := e) s
  generalize (Act.leaveRing c e).run s = v at hv hctx
  obtain ⟨hk, a, b, hu, h1, h2⟩ := settleEntry_stays e v (s.engineRec e.owner e.cause 0 e.addr e.seq.toNat)
  generalize (Act.settleEntry e false (s.engineRec e.owner e.cause 0 e.addr e.seq.toNat)).run v = u at hk hu
  have hn := retireNext_only hl x u
  refine ⟨⟨fun l hm => ?_, fun l hm => ?_, fun l hm => ?_, fun l hm => ?_⟩, a, b, (((Act.retireNext c x).run u).ctx e.owner).block, ?_, fun h => ?_,
      fun h h3 h4 => ?_⟩
  · have hne : l ≠ e.owner := fun h => hm (h ▸ .head _)
    rw [hn.2.ctxs l hm, hk.2.ctxs l fun h => hne (List.mem_singleton.1 h), hv.2.ctxs l fun h => by cases h]
  · rw [hn.2.cores l hm, hk.2.cores l (fun h => by cases h), hv.2.cores l hm]
  · rw [retireNext_polder, hk.2.polders l (fun h => by cases h), hv.2.polders l hm]
  · rw [retireNext_device, hk.2.devices l (fun h => by cases h), hv.2.devices l hm]
  · rw [unblocked_eq (retireNext_ctx (c := c) x u e.owner), hu, hctx]
  · rw [h1 h, hctx]
  · rw [← hctx] at h3 h4 ⊢
    exact h2 h h3 h4

/-- What a retirement does for a thread that has gone. -/
theorem retires_gone (ho : e.orphaned s = true) : s.Touches t (coreMates e.owner) [c.toCore] [c.toPolder] [c.toDev] ∧
    (∃ a b w, t.ctx e.owner = { s.ctx e.owner with faultQ := a, faultLost := b, block := w }) ∧
      (e.cause ≠ 0 → (e.part, s.engineRec e.owner e.cause 0 e.addr e.seq.toNat) ∈ (t.device c).hostRecs ∧
        ((s.ctx e.owner).thread = e.thread → (s.ctx e.owner).state = 0#3 → (s.ctx e.owner).faultQ.length < 8 →
          { s.engineRec e.owner e.cause 0 e.addr e.seq.toNat with ovf := (s.ctx e.owner).faultLost } ∈ (t.ctx e.owner).faultQ)) := by
  have hctx := leaveRing_ctx hl ht e.owner
  have hdev : c.toDev = e.owner.toDev := (congrArg Loc.toDev hl).symm
  rw [← ht, run_retireOne, ho]
  have hv := leaveRing_only (c := c) (e := e) s
  generalize hr : s.engineRec e.owner e.cause 0 e.addr e.seq.toNat = r
  generalize (Act.leaveRing c e).run s = v at hv hctx
  obtain ⟨hk, h1, ⟨a, b, h2⟩, h3⟩ := lateToHost_does v e.owner e.part e.thread r
  have hu : (Act.settleEntry e true r).run v = if (e.cause != 0) = true then (Act.lateToHost e.owner e.part e.thread r).run v else v := run_when _ _ _
  have huk : v.Keeps ((Act.settleEntry e true r).run v) [e.owner] [] [] [e.owner.toDev] := by
    rw [hu]
    split
    · exact hk
    · exact keeps_refl _ _ _ _ _
  have huc : ∃ a b, ((Act.settleEntry e true r).run v).ctx e.owner = { s.ctx e.owner with faultQ := a, faultLost := b } := by
    rw [hu, ← hctx]
    split
    · exact ⟨a, b, h2⟩
    · exact ⟨_, _, rfl⟩
  have hn := retireNext_only hl x ((Act.settleEntry e true r).run v)
  refine ⟨⟨fun l hm => ?_, fun l hm => ?_, fun l hm => ?_, fun l hm => ?_⟩, ?_, fun hc => ?_⟩
  · have hne : l ≠ e.owner := fun h => hm (h ▸ .head _)
    rw [hn.2.ctxs l hm, huk.2.ctxs l fun h => hne (List.mem_singleton.1 h), hv.2.ctxs l fun h => by cases h]
  · rw [hn.2.cores l hm, huk.2.cores l (fun h => by cases h), hv.2.cores l hm]
  · rw [retireNext_polder, huk.2.polders l (fun h => by cases h), hv.2.polders l hm]
  · rw [retireNext_device, huk.2.devices l (hdev ▸ hm), hv.2.devices l fun h => by cases h]
  · obtain ⟨a, b, h⟩ := huc
    exact ⟨a, b, _, by rw [unblocked_eq (retireNext_ctx (c := c) x _ e.owner), h]⟩
  · have : (e.cause != 0) = true := by simp [hc]
    rw [this, if_pos rfl] at hu
    have hfq : ((Act.retireNext c x).run ((Act.settleEntry e true r).run v)).ctx e.owner = _ := unblocked_eq (retireNext_ctx (c := c) x _ e.owner)
    rw [retireNext_device, hfq, hu]
    refine ⟨?_, fun h4 h5 h6 => ?_⟩
    · rw [show ((Act.lateToHost e.owner e.part e.thread r).run v).device c = ((Act.lateToHost e.owner e.part e.thread r).run v).device e.owner by
        simp only [State.device, hdev]]
      exact h1
    · rw [← hctx] at h4 h5 h6 ⊢
      exact h3 h4 h5 h6
end retirement

/-- Settles O49: `matrixCompletes` for an entry that has run, `retires` with `retires_here` and `retires_gone` for the head of a ring. -/
theorem entriesRetire : Obligations.EntriesRetire := by
  refine ⟨?job, ?ring⟩
  case job =>
    intro s p j hj c hcur
    obtain ⟨hk, hpl, hjobs, hbanks, hcore⟩ := matrixCompletes hj (c := c) rfl _ rfl
    refine ⟨(Act.matrixComplete p j.core j.seq).run s, ?_, hk, hpl, hjobs, fun h => ?_, fun h => ?_, fun h h1 h2 => ?_, fun m w r h hop => ?_,
      fun pr rot a b la x h hop => ?_⟩
    · change execMatrixEntryComplete s = _
      rw [execMatrixEntryComplete, hcur]
      rfl
    · have : (j.cause != 0 && !j.refused) = false := by rcases h with h | h <;> simp [h]
      rw [hbanks, this]
      rfl
    · rw [hcore, rowDescs_failed h]
    · have : (j.cause != 0 && !j.refused) = true := by simp [h, h1]
      rw [hbanks, this, run_when, if_pos rfl, poisonSlot_banks hj h2]
    · rw [hcore, rowDescs_macc hop, h]
    · rw [hcore, rowDescs_mma h hop, h]
  case ring =>
    intro s c e hr h0 hl l hcur
    obtain ⟨hm, hcore, hlocks⟩ := retires (x := (s.now, 4 - s.retireRoom c + 1)) hl rfl hr
    refine ⟨_, exec_entryRetire hcur hr h0, hm, hcore, hlocks, fun ho => ?_, fun ho => ?_⟩
    · obtain ⟨ht, a, b, w, hctx, h1, h2⟩ := retires_here (x := (s.now, 4 - s.retireRoom c + 1)) hl rfl ho
      rw [hctx]
      exact ⟨ht, rfl, rfl, rfl, rfl, rfl, h1, h2⟩
    · obtain ⟨ht, ⟨a, b, w, hctx⟩, h1⟩ := retires_gone (x := (s.now, 4 - s.retireRoom c + 1)) hl rfl ho
      exact ⟨ht, by rw [hctx], by rw [hctx], h1⟩

end Sys2Proof.Machine
end

section
/-! SUPPORT. Requests at the owner: the sluice, zeroings, slice lines and walks (spec/15 R317 to R330). -/

namespace Sys2Proof.Machine

/-! ## What a use of lines of a slice leaves (R12, R323) -/

section ripple
variable {s t : State} {p : Loc} (h : s.Ripples t p)
include h
theorem ripples_mem : t.mem = s.mem := by rw [h.rest]
theorem ripples_now : t.now = s.now := by rw [h.rest]
theorem ripples_ctx (l : Loc) : t.ctx l = s.ctx l := by rw [h.rest]; rfl
theorem ripples_part (m : Loc) : (t.polder m).part = (s.polder m).part := by
  have := congrArg PolderState.part (h.near m)
  exact this
theorem ripples_areas (m : Loc) : (t.polder m).areas = (s.polder m).areas := by
  have := congrArg PolderState.areas (h.near m)
  exact this
theorem ripples_unfresh (m : Loc) : (t.polder m).unfresh = (s.polder m).unfresh := by
  have := congrArg PolderState.unfresh (h.near m)
  exact this
theorem ripples_bank (m : Loc) : (t.polder m).bank = (s.polder m).bank := by
  have := congrArg PolderState.bank (h.near m)
  exact this
theorem ripples_num (k n : Nat) : t.num k n = s.num k n := by rw [State.num, ripples_mem h]; rfl
theorem ripples_tierKey (l : Loc) (off : Nat) : t.tierKey l off = s.tierKey l off := by
  have he : t.homeMapEntry l off = s.homeMapEntry l off := by
    have ha : ∀ part i, areaWord (t.polder l) part i = areaWord (s.polder l) part i := fun part i => by rw [areaWord, ripples_areas h]; rfl
    have hn : ∀ k n, t.num k n = s.num k n := ripples_num h
    simp only [State.homeMapEntry, ha, hn, ripples_part h, ripples_unfresh h]
  have hd : t.device l = s.device l := by rw [h.rest]; rfl
  simp only [State.tierKey, he, hd]
theorem ripples_keyOf (q : Place) : t.keyOf q = s.keyOf q := by
  simp only [State.keyOf, ripples_tierKey h, ripples_bank h, ripples_ctx h]
theorem ripples_loadPlace (l : Loc) (a : Nat) : t.loadPlace l a = s.loadPlace l a := by
  have hk : t.homeKey l a = s.homeKey l a := by simp only [State.homeKey, show t.keyOf = s.keyOf from funext (ripples_keyOf h)]
  simp only [State.loadPlace, hk]
theorem ripples_loadSees (b : Block) (slot place n k : Nat) : t.loadSees b slot place n k = s.loadSees b slot place n k := by
  simp only [State.loadSees, ripples_mem h]
theorem ripples_blockAt (l : Loc) (ep : Nat) : t.blockAt l ep = s.blockAt l ep := by simp only [State.blockAt, ripples_ctx h]
end ripple

theorem rippling_serveLine {r : Req} {q : Place} {o p : Loc} {line m : Nat} (ho : o.toPolder = p.toPolder) : (Act.serveLine r q o line m).Rippling p := by
  refine rippling_read fun s => rippling_all fun a ha => ?_
  simp only [List.mem_cons, List.not_mem_nil, or_false] at ha
  rcases ha with rfl | rfl | rfl
  · exact rippling_when (rippling_count ho)
  · exact rippling_when (rippling_lineEvent ho)
  · split
    · exact rippling_hitLine ho
    · exact rippling_event

/-! ## A load at the owner's sluice (R107, R289, R317) -/

section sluice
variable {s : State} {r : Req} {p : Place} {l : Loc} {ep n : Nat} (hu : r.use = .load l ep n none)
include hu

theorem answer_load (d c : Nat) (bs : List Byte) : Act.answer r d c bs = .event d (.loadReply l ep n none ⟨c, r.addr, bs⟩) := by rw [Act.answer, hu]

theorem sluice_unrouted (h : s.routed r.who p.owner r.part = false) : (Act.atSluice r p).run s =
    (Act.event (s.way p.owner r.who + 6) (.loadReply l ep n none ⟨6, r.addr, []⟩)).run s := by
  rw [Act.atSluice, run_read]
  simp only [hu, h, Bool.not_false, if_true, Act.refuseAt, run_seq, run_skip, answer_load hu]
theorem sluice_gone (h : s.routed r.who p.owner r.part = true) (hg : s.isGone r.who p.owner = true) : (Act.atSluice r p).run s =
    (Act.event (s.way p.owner r.who + 6) (.loadReply l ep n none ⟨9, r.addr, []⟩)).run s := by
  rw [Act.atSluice, run_read]
  simp only [hu, h, hg, Bool.not_true, Bool.false_eq_true, if_false, if_true, answer_load hu]

variable (h : s.routed r.who p.owner r.part = true) (hg : s.isGone r.who p.owner = false)
include h hg

theorem sluice_refused (hd : s.dikeAdmits r.who r.part p r.size false = false) (ha : r.admitted = false) (hl : isAhead l = false) :
    (Act.atSluice r p).run s = (Act.event (10 + (s.way p.owner r.who + 6)) (.loadReply l ep n none ⟨6, r.addr, []⟩)).run ((Act.count p.owner 0x340).run s) := by
  rw [Act.atSluice, run_read]
  simp only [hu, h, hg, hd, ha, hl, Bool.not_true, Bool.not_false, Bool.and_self, Bool.false_eq_true, if_false, if_true, Act.refuseAt, run_seq, run_when,
    answer_load hu]

variable (hd : (r.admitted || s.dikeAdmits r.who r.part p r.size false) = true) (h6 : p.space ≠ 6) {k : Nat} (hk : s.keyOf p = some k)
include hd h6 hk

theorem admitted_passes : (!r.admitted && !s.dikeAdmits r.who r.part p r.size false) = false := by
  rw [← Bool.not_or, hd]
  rfl
/-- A lock of its own entry has the load wait. -/
theorem sluice_waits (hx : s.lockStops r p k = some true) : (Act.atSluice r p).run s = (Act.event 1 (.sluiceRequest { r with admitted := true } p)).run s := by
  rw [Act.atSluice, run_read]
  simp only [hu, h, hg, admitted_passes hu h hg hd h6 hk, h6, hk, hx, Bool.not_true, Bool.false_eq_true, if_false, Act.arrive]
/-- Another's lock refuses it. -/
theorem sluice_locked (hx : s.lockStops r p k = some false) : (Act.atSluice r p).run s =
    (Act.event (10 + (s.way p.owner r.who + 6)) (.loadReply l ep n none ⟨8, r.addr, []⟩)).run s := by
  rw [Act.atSluice, run_read]
  simp only [hu, h, hg, admitted_passes hu h hg hd h6 hk, h6, hk, hx, Bool.not_true, Bool.false_eq_true, if_false, answer_load hu]
variable (hx : s.lockStops r p k = none)
include hx
theorem sluice_dry (hy : s.isDry r.who p.owner = true) : (Act.atSluice r p).run s =
    (Act.event (s.way p.owner r.who + 6) (.loadReply l ep n none ⟨9, r.addr, []⟩)).run s := by
  rw [Act.atSluice, run_read]
  simp only [hu, h, hg, admitted_passes hu h hg hd h6 hk, h6, hk, hx, hy, Bool.not_true, Bool.false_eq_true, if_false, if_true, answer_load hu]
variable (hy : s.isDry r.who p.owner = false) (hf : s.unsettled p = false)
include hy hf
theorem sluice_torn (he : s.eccHit k r.size = true) : (Act.atSluice r p).run s =
    (Act.event (10 + (s.way p.owner r.who + 6)) (.loadReply l ep n none ⟨0x11, r.addr, []⟩)).run ((Act.count p.owner 0x358).run s) := by
  rw [Act.atSluice, run_read]
  simp only [hu, h, hg, admitted_passes hu h hg hd h6 hk, h6, hk, hx, hy, hf, he, Bool.not_true, Bool.false_eq_true, if_false, if_true, answer_load hu,
    run_seq]
theorem sluice_serves (he : s.eccHit k r.size = false) : (Act.atSluice r p).run s = (Act.serve r p k (s.mem.bytes k r.size) []).run s := by
  rw [Act.atSluice, run_read]
  simp only [hu, h, hg, admitted_passes hu h hg hd h6 hk, h6, hk, hx, hy, hf, he, Bool.not_true, Bool.false_eq_true, if_false]
end sluice

section serve
variable {s : State} {r : Req} {p : Place} {l : Loc} {ep n k : Nat} (hu : r.use = .load l ep n none)
include hu

/-- The time of the answer of a load that is served. -/
def State.servedAfter (s : State) (r : Req) (p : Place) (k : Nat) : Nat := 10 + memTerm p.space (s.l2Hit p k) + (s.way p.owner r.who + 6)

/-- A load that is served uses its line, and is performed. -/
theorem run_serve (data : List Byte) : ∃ u, s.Ripples u p.owner ∧ (Act.serve r p k data []).run s =
    (Act.performLoad l ep n r.addr r.size k (fun bs => .event (s.servedAfter r p k) (.loadReply l ep n none ⟨0, r.addr, bs⟩))).run u := by
  have hlines : ∀ x ∈ (List.range (linesOf p k []).length).zip (linesOf p k []), x.2.1 = p.owner := by
    intro x hx
    have hx := List.of_mem_zip hx
    have : linesOf p k [] = if p.space < 2 then [(p.owner, k / 64)] else [] := rfl
    rw [this] at hx
    split at hx
    · rw [List.mem_singleton.1 hx.2]
    · cases hx.2
  have hr : (Act.each ((List.range (linesOf p k []).length).zip (linesOf p k [])) fun x =>
      .serveLine r p x.2.1 x.2.2 (10 + memTerm p.space false + x.1)).Rippling p.owner := fun s => by
    have : ∀ (xs : List (Nat × Loc × Nat)), (∀ x ∈ xs, x.2.1 = p.owner) → ∀ s : State, s.Ripples ((Act.each xs fun x =>
        .serveLine r p x.2.1 x.2.2 (10 + memTerm p.space false + x.1)).run s) p.owner := by
      intro xs
      induction xs with
      | nil => exact fun _ s => ripples_refl s p.owner
      | cons x xs ih => exact fun hx s => ripples_trans (rippling_serveLine (congrArg Loc.toPolder (hx x (.head _))) s) (ih (fun y hy => hx y (.tail _ hy)) _)
    exact this _ hlines s
  refine ⟨_, hr s, ?_⟩
  rw [Act.serve, run_read]
  have hgo : Act.answer r (10 + memTerm p.space (s.l2Hit p k) + (s.way p.owner r.who + 6)) 0 =
      fun bs => .event (s.servedAfter r p k) (.loadReply l ep n none ⟨0, r.addr, bs⟩) := funext fun bs => answer_load hu _ _ bs
  simp only [hu, run_seq, hgo]

/-- The load of an execution that is over changes nothing. -/
theorem serve_over (data : List Byte) (hb : s.blockAt l ep = none) (t : State) (ht : (Act.serve r p k data []).run s = t) :
    s.Keeps t [l] [] [p.owner.toPolder] [] ∧ t.ctx l = s.ctx l ∧
      s.planned t (s.servedAfter r p k) (.loadReply l ep n none ⟨0, r.addr, s.mem.bytes k r.size⟩) := by
  obtain ⟨u, hr, hrun⟩ := run_serve (s := s) (p := p) (k := k) hu data
  have hpl : (Act.performLoad l ep n r.addr r.size k fun bs => .event (s.servedAfter r p k) (.loadReply l ep n none ⟨0, r.addr, bs⟩)).run u =
      (Act.event (s.servedAfter r p k) (.loadReply l ep n none ⟨0, r.addr, s.mem.bytes k r.size⟩)).run u := by
    rw [Act.performLoad, run_read, ripples_blockAt hr, hb, ripples_mem hr]
  have hk := keeps_of_ripples hr
  rw [← ht, hrun, hpl]
  refine ⟨⟨hk.1, { hk.2 with ctxs := fun m _ => hk.2.ctxs m fun h => by cases h }⟩, ripples_ctx hr l, ?_⟩
  exact (mem_schedule _ _ _).2 (.inl (by rw [ripples_now hr]))

/-- The load of a block in flight takes what the block sees. -/
theorem serve_sees (data : List Byte) {b : Block} (hb : s.blockAt l ep = some b) (t : State) (ht : (Act.serve r p k data []).run s = t)
    (x : List Byte × List Byte × Bool) (hx : s.loadSees b n (s.loadPlace l r.addr) r.size k = x) :
    s.Keeps t [l] [] [p.owner.toPolder] [] ∧ s.planned t (s.servedAfter r p k) (.loadReply l ep n none ⟨0, r.addr, x.1⟩) ∧
      (x.2.2 = true → s.planned t 0 (.blockAbandon l ep)) ∧
      t.ctx l = { s.ctx l with block := some { b with
        got := b.got ++ [⟨((b.instrAt n).bind loadLsid).getD 0, n, s.loadPlace l r.addr, r.size, x.2.1⟩]
        again := x.2.2 || b.again } } := by
  obtain ⟨u, hr, hrun⟩ := run_serve (s := s) (p := p) (k := k) hu data
  have hpl : (Act.performLoad l ep n r.addr r.size k fun bs => .event (s.servedAfter r p k) (.loadReply l ep n none ⟨0, r.addr, bs⟩)).run u =
      (Act.event (s.servedAfter r p k) (.loadReply l ep n none ⟨0, r.addr, x.1⟩)).run
        ((Act.block l fun y => { y with got := y.got ++ [⟨((b.instrAt n).bind loadLsid).getD 0, n, s.loadPlace l r.addr, r.size, x.2.1⟩] }).run
          ((Act.when x.2.2 (.seq (.block l fun y => { y with again := true }) (.event 0 (.blockAbandon l ep)))).run u)) := by
    rw [Act.performLoad, run_read, ripples_blockAt hr, hb]
    simp only [ripples_loadSees hr, ripples_loadPlace hr, hx, run_all_cons, run_all_nil]
  have hblock : (s.ctx l).block = some b := (blockAt_some hb).1
  have hk := keeps_of_ripples hr
  rw [← ht, hrun, hpl]
  have hwhen : ∃ v, (Act.when x.2.2 (.seq (.block l fun y => { y with again := true }) (.event 0 (.blockAbandon l ep)))).run u = v ∧
      u.Keeps v [l] [] [] [] ∧ v.ctx l = { s.ctx l with block := some { b with again := x.2.2 || b.again } } ∧ v.now = u.now ∧
      (x.2.2 = true → (⟨u.now, .event (.blockAbandon l ep)⟩ : Pending) ∈ v.agenda) := by
    refine ⟨_, rfl, (only_when fun _ => only_seq (only_block (.head _)) only_event : (Act.when x.2.2 (.seq (.block l fun y => { y with again := true })
      (.event 0 (.blockAbandon l ep)))).Only [l] [] [] []) u, ?_⟩
    cases x.2.2 with
    | false => exact ⟨by rw [run_when, if_neg (by decide), ripples_ctx hr, Bool.false_or, ← hblock], rfl, fun h => by cases h⟩
    | true =>
      refine ⟨?_, rfl, fun _ => (mem_schedule _ _ _).2 (.inl rfl)⟩
      rw [run_when, if_pos rfl, run_seq, run_event, ctx_apply_sched, Act.block, run_ctx, ctx_apply_ctx, ripples_ctx hr, hblock]
      rfl
  obtain ⟨v, hv, hkv, hctx, hnow, hab⟩ := hwhen
  rw [hv]
  refine ⟨keeps_trans ⟨hk.1, { hk.2 with ctxs := fun m _ => hk.2.ctxs m fun h => by cases h }⟩ (keeps_trans
    (⟨hkv.1, { hkv.2 with polders := fun m _ => hkv.2.polders m fun h => by cases h }⟩ : u.Keeps v [l] [] [p.owner.toPolder] [])
    ((only_seq (only_block (.head _)) only_event : (Act.seq (.block l fun y => { y with got := y.got ++
      [⟨((b.instrAt n).bind loadLsid).getD 0, n, s.loadPlace l r.addr, r.size, x.2.1⟩] })
      (.event (s.servedAfter r p k) (.loadReply l ep n none ⟨0, r.addr, x.1⟩))).Only [l] [] [p.owner.toPolder] []) v)), ?_, fun h => ?_, ?_⟩
  · refine (mem_schedule _ _ _).2 (.inl ?_)
    rw [show ∀ w : State, ((Act.block l fun y => { y with got := y.got ++
      [⟨((b.instrAt n).bind loadLsid).getD 0, n, s.loadPlace l r.addr, r.size, x.2.1⟩] }).run w).now = w.now from fun _ => rfl, hnow, ripples_now hr]
  · refine (mem_schedule _ _ _).2 (.inr ?_)
    have := hab h
    rwa [ripples_now hr] at this
  · rw [run_event, ctx_apply_sched, Act.block, run_ctx, ctx_apply_ctx, hctx]
    rfl
end serve

/-! ## The zeroing of a fresh granule (R324) -/

/-- What a wait for a zeroing, and what follows it, leaves at a polder. -/
def State.granules (s : State) (p : Loc) : Memory × Memory × Memory × List Nat := (s.mem, s.side, s.hostMem, (s.polder p).unfresh)
theorem leaves_of_rippling {a : Act} {o p : Loc} (h : a.Rippling o) : a.Leaves fun s => s.granules p := fun s => by
  have hu := ripples_unfresh (h s) p
  have hr := (h s).rest
  generalize a.run s = t at hu hr
  simp only [State.granules, hu]
  rw [hr]
theorem adds_of_rippling {a : Act} {o : Loc} (h : a.Rippling o) : a.Adds fun _ => True := fun s => ⟨(h s).kept, fun _ _ => .inr trivial⟩
theorem leaves_granules {p m : Loc} {g : PolderState → PolderState} (hg : ∀ x, (g x).unfresh = x.unfresh) : (Act.polder m g).Leaves fun s => s.granules p :=
  fun s => by
    have h := leaves_polder_of (f := PolderState.unfresh) (l := m) (m := p) hg s
    exact congrArg (fun x => (s.mem, s.side, s.hostMem, x)) h
theorem adds_event {d : Nat} {e : Event} : (Act.event d e).Adds fun _ => True := adds_sched fun _ => trivial
theorem adds_polder {m : Loc} {g : PolderState → PolderState} : (Act.polder m g).Adds fun _ => True := adds_of_eq fun _ => rfl

theorem leaves_answer {α : Type} {f : State → α} (hs : ∀ d e, (Act.event d e).Leaves f) (hc : ∀ l o,
    (Act.count l o).Leaves f) {r : Req} {d c : Nat} {bs : List Byte} :
    (Act.answer r d c bs).Leaves f := by
  rw [Act.answer]
  split
  · exact hs _ _
  · exact hs _ _
  · exact hs _ _
  · exact hs _ _
  · exact hs _ _
  · exact leaves_when (hc _ _)
theorem adds_answer {r : Req} {d c : Nat} {bs : List Byte} : (Act.answer r d c bs).Adds fun _ => True := by
  rw [Act.answer]
  split
  · exact adds_event
  · exact adds_event
  · exact adds_event
  · exact adds_event
  · exact adds_event
  · exact adds_when adds_polder
theorem arrive_cases (d : Nat) (r : Req) (p : Place) : ∃ e, Act.arrive d r p = .event d e := by
  rw [Act.arrive]
  split
  · exact ⟨_, rfl⟩
  · exact ⟨_, rfl⟩
  · exact ⟨_, rfl⟩

section awaiting
variable {p : Loc}
theorem leaves_startZeroing_granules (q : Place) : (Act.startZeroing q).Leaves fun s => s.granules p :=
  leaves_read fun _ => leaves_when (leaves_seq (leaves_granules fun _ => rfl) fun _ => rfl)
theorem adds_startZeroing (q : Place) : (Act.startZeroing q).Adds fun _ => True := adds_read fun _ => adds_when (adds_seq adds_polder adds_event)
theorem leaves_ite {α : Type} {f : State → α} {c : Prop} [Decidable c] {a b : Act} (ha : a.Leaves f) (hb : b.Leaves f) : (if c then a else b).Leaves f := by
  split
  · exact ha
  · exact hb
theorem adds_ite {P : Pending → Prop} {c : Prop} [Decidable c] {a b : Act} (ha : a.Adds P) (hb : b.Adds P) : (if c then a else b).Adds P := by
  split
  · exact ha
  · exact hb
theorem leaves_awaitFresh {r : Req} {q : Place} : (Act.awaitFresh r q).Leaves fun s => s.granules p := by
  refine leaves_read fun s => leaves_seq (leaves_startZeroing_granules q) (leaves_ite ?_ ?_)
  · exact leaves_answer (fun _ _ _ => rfl) fun _ _ => leaves_granules fun _ => rfl
  · exact leaves_granules fun _ => rfl
theorem adds_awaitFresh {r : Req} {q : Place} : (Act.awaitFresh r q).Adds fun _ => True := by
  exact adds_read fun s => adds_seq (adds_startZeroing q) (adds_ite adds_answer adds_polder)

/-- A registration writes no memory and clears no fresh bit. -/
theorem leaves_registerAt {w : WatchReg} {q : Place} {b : Bool} : (Act.registerAt w q b).Leaves fun s => s.granules p := by
  have he : ∀ d e, (Act.event d e).Leaves fun s => s.granules p := fun _ _ _ => rfl
  have hc : ∀ l o, (Act.count l o).Leaves fun s => s.granules p := fun _ _ => leaves_granules fun _ => rfl
  refine leaves_read fun s => ?_
  simp only
  split
  · exact he _ _
  · split
    · exact he _ _
    · split
      · exact leaves_seq (hc _ _) (he _ _)
      · split
        · exact he _ _
        · split
          · exact he _ _
          · split
            · exact leaves_awaitFresh
            · split
              · exact leaves_seq (hc _ _) (he _ _)
              · refine leaves_seq (leaves_when (leaves_of_rippling (rippling_serveLine rfl))) ?_
                split
                · exact he _ _
                · split
                  · exact he _ _
                  · exact leaves_seq (leaves_granules fun _ => rfl) (he _ _)
theorem adds_registerAt {w : WatchReg} {q : Place} {b : Bool} : (Act.registerAt w q b).Adds fun _ => True := by
  refine adds_read fun s => ?_
  simp only
  split
  · exact adds_event
  · split
    · exact adds_event
    · split
      · exact adds_seq adds_polder adds_event
      · split
        · exact adds_event
        · split
          · exact adds_event
          · split
            · exact adds_awaitFresh
            · split
              · exact adds_seq adds_polder adds_event
              · refine adds_seq (adds_when (adds_of_rippling (rippling_serveLine rfl))) ?_
                split
                · exact adds_event
                · split
                  · exact adds_event
                  · exact adds_seq adds_polder adds_event
theorem leaves_afterZeroing {r : Req} {q : Place} : (Act.afterZeroing r q).Leaves fun s => s.granules p := by
  rw [Act.afterZeroing]
  split
  · exact leaves_registerAt
  · obtain ⟨e, he⟩ := arrive_cases 0 r q
    rw [he]
    exact fun _ => rfl
theorem adds_afterZeroing {r : Req} {q : Place} : (Act.afterZeroing r q).Adds fun _ => True := by
  rw [Act.afterZeroing]
  split
  · exact adds_registerAt
  · obtain ⟨e, he⟩ := arrive_cases 0 r q
    rw [he]
    exact adds_event
end awaiting

/-- The granule of HBM with a number begins at its place. -/
theorem granule_hbm {p : Loc} {g : Nat} (h : g < 0x8000) : granulePlace p g = (⟨p, 0, g * 0x10000⟩, 0x10000) := by rw [granulePlace, if_pos h]
theorem granuleOf_hbm (p : Loc) (g : Nat) : granuleOf ⟨p, 0, g * 0x10000⟩ = g := by
  simp only [granuleOf, if_true]
  omega


/-- The bit of a granule is cleared. -/
def Act.clearFresh (p : Loc) (g : Nat) : Act := .polder p fun q => { q with unfresh := g :: q.unfresh, zeroed := q.zeroed.filter fun z => z != g }
/-- The bytes of a granule that is zeroed for the first time. -/
def Act.zeroBytes (p : Loc) (g : Nat) : Act :=
  .seq (.seq (.fx (.keep fun a => decide (a < keyIn p 0 (g * 0x10000)) || decide (keyIn p 0 (g * 0x10000) + 0x10000 ≤ a)))
      (.fx (.ecc fun us => us.filter fun u => decide (u < keyIn p 0 (g * 0x10000)) || decide (keyIn p 0 (g * 0x10000) + 0x10000 ≤ u))))
    (.polder p fun q => { q with zeroed := g :: q.zeroed })

section settle
variable {s : State} {p : Loc} {g : Nat} (hg : g < 0x8000) (hf : (s.polder p).unfresh.contains g = false)
include hg hf

theorem hbm_freshBit : s.freshBit ⟨p, 0, g * 0x10000⟩ = true := by
  have hg0 : g * 0x10000 / 0x10000 = g := by omega
  simp only [State.freshBit, hg0, hf, Bool.not_false]
theorem hbm_isFresh : s.isFresh ⟨p, 0, g * 0x10000⟩ = !(s.polder p).zeroed.contains g := by
  rw [State.isFresh, hbm_freshBit hg hf, granuleOf_hbm, Bool.true_and]
theorem run_zeroGranule_hbm : (Act.zeroGranule ⟨p, 0, g * 0x10000⟩).run s = (Act.when (!(s.polder p).zeroed.contains g) (.zeroBytes p g)).run s := by
  rw [Act.zeroGranule, run_read, hbm_isFresh hg hf]
  simp only [granuleOf_hbm, granule_hbm hg]
  rfl
theorem run_settleFresh : (Act.settleFresh ⟨p, 0, g * 0x10000⟩).run s =
    (Act.clearFresh p g).run ((Act.when (!(s.polder p).zeroed.contains g) (.zeroBytes p g)).run s) := by
  have hv : (((Act.when (!(s.polder p).zeroed.contains g) (.zeroBytes p g)).run s).polder p).unfresh = (s.polder p).unfresh :=
    (leaves_when (leaves_seq (fun _ => rfl) (leaves_polder_of fun _ => rfl)) :
      (Act.when (!(s.polder p).zeroed.contains g) (.zeroBytes p g)).Leaves fun s => (s.polder p).unfresh) s
  rw [Act.settleFresh, run_seq, run_zeroGranule_hbm hg hf, run_read, hbm_freshBit hg (hv ▸ hf), granuleOf_hbm]
  rfl

/-- The granule's bytes are zero, but for what has been written since, and its bit is cleared. -/
theorem settleFresh_does (u : State) (hu : (Act.settleFresh ⟨p, 0, g * 0x10000⟩).run s = u) :
    s.memKeptBut u (keyIn p 0 (g * 0x10000)) 0x10000 ∧
      ((s.polder p).zeroed.contains g = false → ∀ j, j < 0x10000 → u.mem.get (keyIn p 0 (g * 0x10000) + j) = 0#8) ∧
      ((s.polder p).zeroed.contains g = true → s.memKept u) ∧ u.agenda = s.agenda ∧ s.Touches u [] [] [p.toPolder] [] ∧
      u.polder p = { s.polder p with unfresh := g :: (s.polder p).unfresh, zeroed := (s.polder p).zeroed.filter fun z => z != g } := by
  have hclear : ∀ v : State, ((Act.clearFresh p g).run v).polder p = { v.polder p with
      unfresh := g :: (v.polder p).unfresh, zeroed := (v.polder p).zeroed.filter fun z => z != g } := fun v =>
    polder_apply_polder p (fun q => { q with unfresh := g :: q.unfresh, zeroed := q.zeroed.filter fun z => z != g }) v
  have htouch : ∀ v : State, v.Touches ((Act.clearFresh p g).run v) [] [] [p.toPolder] [] := fun v =>
    ((only_polder (.head _) : (Act.clearFresh p g).Only [] [] [p.toPolder] []) v).2
  rw [run_settleFresh hg hf] at hu
  cases hz : (s.polder p).zeroed.contains g with
  | true =>
    rw [hz] at hu
    have hu : (Act.clearFresh p g).run s = u := hu
    rw [← hu]
    exact ⟨⟨fun _ _ => rfl, fun _ => rfl, fun _ => rfl⟩, (fun h => by cases h), fun _ => memKept_refl s, rfl, htouch s, hclear s⟩
  | false =>
    rw [hz] at hu
    have hu : (Act.clearFresh p g).run ((Act.zeroBytes p g).run s) = u := hu
    have hmem : u.mem = s.mem.keep fun a => decide (a < keyIn p 0 (g * 0x10000)) || decide (keyIn p 0 (g * 0x10000) + 0x10000 ≤ a) := by rw [← hu]; rfl
    have hpol : ((Act.zeroBytes p g).run s).polder p = { s.polder p with zeroed := g :: (s.polder p).zeroed } :=
      polder_apply_polder p (fun q => { q with zeroed := g :: q.zeroed }) _
    have hz0 : s.Touches ((Act.zeroBytes p g).run s) [] [] [p.toPolder] [] :=
      ⟨fun _ _ => rfl, fun _ _ => rfl, fun m hm => polder_apply_polder_other p m _ _ fun e => hm (e ▸ .head _), fun _ _ => rfl⟩
    refine ⟨⟨fun j hj => ?_, fun j => by rw [← hu]; rfl, fun j => by rw [← hu]; rfl⟩, fun _ j hj => ?_, (fun h => by cases h), by rw [← hu]; rfl,
      touches_trans hz0 (hu ▸ htouch _), ?_⟩
    · rw [hmem, get_keep, if_pos (by simpa using hj)]
    · rw [hmem, get_keep, if_neg (by simp; omega)]
      rfl
    · rw [← hu, hclear, hpol]
      simp
end settle

/-- Whoever waited goes on, and the slots of the polder try again. -/
def Act.wakeGranule (p : Loc) (ws : List (Req × Place)) : Act :=
  .seq (.each ws fun r => .afterZeroing r.1 r.2) (.each (List.range 8) fun c => .wakeCore { p with core := c })
theorem leaves_wakeGranule {p : Loc} {ws : List (Req × Place)} : (Act.wakeGranule p ws).Leaves fun s => s.granules p :=
  leaves_seq (leaves_each fun _ => leaves_afterZeroing) (leaves_each fun _ => leaves_wakeCore (fun _ _ _ => rfl) fun _ _ => rfl)
theorem adds_true {P : Pending → Prop} {a : Act} (h : a.Adds P) : a.Adds fun _ => True := fun s => ⟨(h s).1, fun _ _ => .inr trivial⟩
theorem adds_wakeGranule {p : Loc} {ws : List (Req × Place)} : (Act.wakeGranule p ws).Adds fun _ => True :=
  adds_seq (adds_each fun _ => adds_afterZeroing) (adds_each fun _ => adds_true adds_wakeCore)
/-- A load that waited goes to the sluice again. -/
theorem wakeGranule_load {p : Loc} {ws : List (Req × Place)} {r : Req} {q : Place} {l : Loc} {ep n : Nat} {rd} (hw : (r, q) ∈ ws)
    (hu : r.use = .load l ep n rd) (s : State) : (⟨s.now, .event (.sluiceRequest r q)⟩ : Pending) ∈ ((Act.wakeGranule p ws).run s).agenda := by
  have hnow : ∀ a : Act, ∀ s : State, (a.run s).now = s.now := run_now
  rw [Act.wakeGranule, run_seq]
  refine (adds_each (P := fun _ => True) (fun _ => adds_true adds_wakeCore) _).1 _ ?_
  induction ws generalizing s with
  | nil => cases hw
  | cons x ws ih =>
    rw [run_each_cons]
    rcases List.mem_cons.1 hw with rfl | hw
    · refine (adds_each (P := fun _ => True) (fun _ => adds_afterZeroing) _).1 _ ?_
      rw [Act.afterZeroing, hu]
      simp only [Act.arrive, hu, run_event, apply_sched_agenda]
      exact (mem_schedule _ _ _).2 (.inl rfl)
    · rw [← hnow (.afterZeroing x.1 x.2) s]
      exact ih hw _

/-- Contexts of other polders do not wake. -/
theorem coreMates_toPolder {l m : Loc} (h : m ∈ coreMates l) : m.toPolder = l.toPolder := by
  rcases List.mem_cons.1 h with rfl | h
  · rfl
  · obtain ⟨k, _, rfl⟩ := List.mem_map.1 h
    rfl
theorem leaves_wakeCores {p l : Loc} (hl : l.toPolder ≠ p.toPolder) :
    (Act.each (List.range 8) fun c => .wakeCore { p with core := c }).Leaves fun s => s.ctx l :=
  leaves_each fun c s => (only_wakeCore_mates (c := { p with core := c }) rfl (ks := []) (ps := []) (ds := []) s).2.ctxs l fun h =>
    hl ((coreMates_toPolder h).trans rfl)
/-- Where nobody waited only slots of the polder's contexts try again. -/
theorem wakeGranule_none (p : Loc) (v : State) : (∀ l, l.toPolder ≠ p.toPolder → ((Act.wakeGranule p []).run v).ctx l = v.ctx l) ∧
    (Act.wakeGranule p []).run v = { v with ctxs := ((Act.wakeGranule p []).run v).ctxs, agenda := ((Act.wakeGranule p []).run v).agenda } := by
  have hwake : (Act.each (List.range 8) fun c => .wakeCore { p with core := c }).Leaves fun s => s.frame :=
    leaves_each fun _ => leaves_wakeCore_frame _
  rw [Act.wakeGranule, run_seq, run_each_nil]
  exact ⟨fun l hl => leaves_wakeCores hl v, frame_eq (hwake v)⟩

/-- The zeroing of a granule is done. -/
theorem zeroingDone {s : State} {p : Loc} {g : Nat} (hg : g < 0x8000) (hf : (s.polder p).unfresh.contains g = false) {ws : List (Req × Place)} (t : State)
    (ht : (Act.wakeGranule p ws).run ((Act.polder p fun x => { x with zeroing := x.zeroing.filter fun z => !(z.1 == g) }).run
      ((Act.settleFresh ⟨p, 0, g * 0x10000⟩).run s)) = t) :
    s.memKeptBut t (keyIn p 0 (g * 0x10000)) 0x10000 ∧
      ((s.polder p).zeroed.contains g = false → ∀ j, j < 0x10000 → t.mem.get (keyIn p 0 (g * 0x10000) + j) = 0#8) ∧
      ((s.polder p).zeroed.contains g = true → s.memKept t) ∧ (t.polder p).unfresh = g :: (s.polder p).unfresh ∧
      (∀ r q l ep n rd, (r, q) ∈ ws → r.use = .load l ep n rd → s.planned t 0 (.sluiceRequest r q)) ∧
      (ws = [] → (∀ l, l.toPolder ≠ p.toPolder → t.ctx l = s.ctx l) ∧ s.coresKept t ∧ s.poldersKeptBut t p ∧ s.devicesKept t ∧
        t.polder p = { s.polder p with
          unfresh := g :: (s.polder p).unfresh
          zeroed := (s.polder p).zeroed.filter fun z => z != g
          zeroing := (s.polder p).zeroing.filter fun z => !(z.1 == g) }) := by
  obtain ⟨hbut, hzero, hkept, _, htouch, hpol⟩ := settleFresh_does hg hf _ rfl
  have hnow : ((Act.settleFresh ⟨p, 0, g * 0x10000⟩).run s).now = s.now := run_now _ s
  generalize (Act.settleFresh ⟨p, 0, g * 0x10000⟩).run s = u at ht hbut hzero hkept htouch hpol hnow
  have hv : ((Act.polder p fun x => { x with zeroing := x.zeroing.filter fun z => !(z.1 == g) }).run u).polder p =
      { u.polder p with zeroing := (u.polder p).zeroing.filter fun z => !(z.1 == g) } :=
    polder_apply_polder p (fun x => { x with zeroing := x.zeroing.filter fun z => !(z.1 == g) }) u
  have hvt : u.Keeps ((Act.polder p fun x => { x with zeroing := x.zeroing.filter fun z => !(z.1 == g) }).run u) [] [] [p.toPolder] [] :=
    (only_polder (.head _) : (Act.polder p fun x => { x with zeroing := x.zeroing.filter fun z => !(z.1 == g) }).Only [] [] [p.toPolder] []) u
  have hvm : ((Act.polder p fun x => { x with zeroing := x.zeroing.filter fun z => !(z.1 == g) }).run u).granules p = u.granules p :=
    leaves_granules (p := p) (m := p) (g := fun x => { x with zeroing := x.zeroing.filter fun z => !(z.1 == g) }) (fun _ => rfl) u
  have hvn : ((Act.polder p fun x => { x with zeroing := x.zeroing.filter fun z => !(z.1 == g) }).run u).now = u.now := rfl
  generalize (Act.polder p fun x => { x with zeroing := x.zeroing.filter fun z => !(z.1 == g) }).run u = v at ht hv hvt hvm hvn
  have hm := (leaves_wakeGranule (p := p) (ws := ws) v).trans hvm
  rw [ht] at hm
  obtain ⟨hmem, hm⟩ := Prod.mk.inj hm
  obtain ⟨hside, hm⟩ := Prod.mk.inj hm
  obtain ⟨hhost, hun⟩ := Prod.mk.inj hm
  refine ⟨?_, fun h j hj => ?_, fun h => ?_, ?_, fun r q l ep n rd hw hu => ?_, fun hw => ?_⟩
  · rw [State.memKeptBut, hmem, hside, hhost]
    exact hbut
  · rw [hmem]
    exact hzero h j hj
  · rw [State.memKept, hmem, hside, hhost]
    exact hkept h
  · rw [hun, hpol]
  · have := wakeGranule_load (p := p) hw hu v
    rw [ht, hvn, hnow] at this
    exact this
  · subst hw
    obtain ⟨hctx, hrest⟩ := wakeGranule_none p v
    rw [ht] at hctx hrest
    refine ⟨fun l hl => ?_, fun l => ?_, fun l hl => ?_, fun l => ?_, ?_⟩
    · rw [hctx l hl, hvt.2.ctxs l (fun h => by cases h), htouch.ctxs l (fun h => by cases h)]
    · rw [hrest]
      exact (hvt.2.cores l (fun h => by cases h)).trans (htouch.cores l (fun h => by cases h))
    · rw [hrest]
      exact (hvt.2.polders l (fun h => hl (List.mem_singleton.1 h))).trans (htouch.polders l (fun h => hl (List.mem_singleton.1 h)))
    · rw [hrest]
      exact (hvt.2.devices l (fun h => by cases h)).trans (htouch.devices l (fun h => by cases h))
    · rw [hrest]
      exact hv.trans (by rw [hpol])

/-! ## Lines of the slice (R72, R321) -/

section fill
variable {s : State} {p : Loc} {line cls : Nat} {pref : Bool} {rd : Option (Nat × Nat × Nat)} {data : List Byte}

theorem leaves_lineEvent_l2 {m o : Loc} {line kind : Nat} : (Act.lineEvent m line kind).Leaves fun s => (s.polder o).l2 := by
  have hpoke : ∀ x : Loc, (Act.pokeSlice x).Leaves fun s => (s.polder o).l2 := fun x =>
    leaves_read fun _ => leaves_when (leaves_seq (leaves_polder_of fun _ => rfl) fun _ => rfl)
  refine leaves_read fun s => ?_
  simp only
  split
  · exact leaves_skip
  · split
    · exact leaves_skip
    · refine leaves_each fun i => leaves_read fun s => ?_
      split
      · exact leaves_skip
      · exact leaves_ite (leaves_polder_of fun _ => rfl) (leaves_seq (leaves_polder_of fun _ => rfl) (hpoke _))

/-- What the events of a line fill leave of the slice. -/
def Act.fillEvents (p : Loc) (line : Nat) (b : Bool) (victim : Option L2Line) : Act :=
  .seq (.when b (.lineEvent p line 3)) (match victim with
    | some v => .when v.reader.isNone (.lineEvent p v.key 4)
    | none => .skip)
theorem leaves_fillEvents {b : Bool} {v : Option L2Line} {o : Loc} : (Act.fillEvents p line b v).Leaves fun s => (s.polder o).l2 :=
  leaves_seq (leaves_when leaves_lineEvent_l2) (by
    cases v with
    | none => exact leaves_skip
    | some v => exact leaves_when leaves_lineEvent_l2)

/-- A line that is not there takes its place, and that of a victim. -/
theorem fillLine_enters (h : s.l2Find p line (rd.map fun r => r.2.2) = none) {victim : Option L2Line}
    (hv : (if ((s.polder p).l2.filter fun x => x.key % 2048 == line % 2048).length < 16 then none
      else victimOf ((s.polder p).l2.filter fun x => x.key % 2048 == line % 2048)) = victim) :
    (((Act.fillLine p line cls pref rd data true).run s).polder p).l2 = ⟨line, cls, s.now, pref, rd, data⟩ ::
      (s.polder p).l2.filter fun y => !(victim.any fun v => v.key == y.key && v.pasid == y.pasid) := by
  have hl : ∀ u : State, ((Act.polder p fun q => { q with l2 := (⟨line, cls, s.now, pref, rd, data⟩
      :: q.l2.filter fun y => !(victim.any fun v => v.key == y.key && v.pasid == y.pasid)) }).run u).polder p =
      { u.polder p with l2 := ⟨line, cls, s.now, pref, rd, data⟩ ::
        (u.polder p).l2.filter fun y => !(victim.any fun v => v.key == y.key && v.pasid == y.pasid) } :=
    fun u => polder_apply_polder p (fun q => { q with l2 := (⟨line, cls, s.now, pref, rd, data⟩
      :: q.l2.filter fun y => !(victim.any fun v => v.key == y.key && v.pasid == y.pasid)) }) u
  have hc : ∀ b : Bool, (((Act.when b (.count p 0x328)).run s).polder p).l2 = (s.polder p).l2 := fun b =>
    (leaves_when (leaves_polder_of fun _ => rfl) : (Act.when b (.count p 0x328)).Leaves fun s => (s.polder p).l2) s
  have hrun : (Act.fillLine p line cls pref rd data true).run s =
      (Act.fillEvents p line (true && rd.isNone && (!pref || s.demandFlying p line)) victim).run ((Act.polder p fun q => { q with l2 :=
        (⟨line, cls, s.now, pref, rd, data⟩ :: q.l2.filter fun y => !(victim.any fun v => v.key == y.key && v.pasid == y.pasid)) }).run
          ((Act.when (victim.any fun v => v.pref) (.count p 0x328)).run s)) := by
    rw [Act.fillLine, run_read]
    simp only [h, hv]
    cases victim <;> rfl
  rw [hrun]
  refine (leaves_fillEvents (o := p) _).trans ((congrArg PolderState.l2 (hl _)).trans ?_)
  rw [← hc]

/-- A line that has come meanwhile takes the new tag and bytes. -/
theorem fillLine_found {x : L2Line} (h : s.l2Find p line (rd.map fun r => r.2.2) = some x) :
    ∃ y ∈ (((Act.fillLine p line cls pref rd data true).run s).polder p).l2, y.key = line ∧ y.reader = rd ∧ y.data = data ∧ y.used = s.now := by
  have hl : ∀ u : State, (((Act.polder p fun q => { q with l2 := q.l2.map fun y =>
      if y.key == line && y.pasid == (rd.map fun r => r.2.2) then
        { y with used := s.now, pref := if rd.isSome then pref else y.pref, reader := rd, data := data } else y }).run u).polder p).l2 =
      (u.polder p).l2.map fun y => if y.key == line && y.pasid == (rd.map fun r => r.2.2) then
        { y with used := s.now, pref := if rd.isSome then pref else y.pref, reader := rd, data := data } else y :=
    fun u => congrArg PolderState.l2 (polder_apply_polder p (fun q => { q with l2 := q.l2.map fun y =>
      if y.key == line && y.pasid == (rd.map fun r => r.2.2) then
        { y with used := s.now, pref := if rd.isSome then pref else y.pref, reader := rd, data := data } else y }) u)
  have hc : ∀ b : Bool, (((Act.when b (.count p 0x328)).run s).polder p).l2 = (s.polder p).l2 := fun b =>
    (leaves_when (leaves_polder_of fun _ => rfl) : (Act.when b (.count p 0x328)).Leaves fun s => (s.polder p).l2) s
  have hx := List.find?_some h
  have hkey : x.key = line := by
    rw [Bool.and_eq_true, beq_iff_eq] at hx
    exact hx.1
  refine ⟨{ x with used := s.now, pref := if rd.isSome then pref else x.pref, reader := rd, data := data }, ?_, hkey, rfl, rfl, rfl⟩
  rw [Act.fillLine, run_read]
  simp only [h]
  rw [run_seq, hl, hc]
  exact List.mem_map.2 ⟨x, List.mem_of_find?_eq_some h, by rw [if_pos hx]⟩
end fill

/-! ## Walks that end (R326, R327) -/

/-- A translation that is kept behind those of table addresses. -/
theorem mem_tlbAdd {new : List TlbEntry} {t : TlbEntry} (hn : ∀ u ∈ new, u.gpa = true) (ht : t.gpa = false) : t ∈ tlbAdd [] (new ++ [t]) := by
  have hfold : ∀ (xs ts : List TlbEntry), (∀ u ∈ xs, u.gpa = true) → (∀ u ∈ ts, u.gpa = true) →
      ∀ u ∈ xs.foldl (fun ts t => if ts.any fun u => u.gpa == t.gpa && u.part == t.part && u.pasid == t.pasid && u.vpage == t.vpage
        then ts else ts ++ [t]) ts, u.gpa = true := by
    intro xs
    induction xs with
    | nil => exact fun ts _ h => h
    | cons x xs ih =>
      refine fun ts hx ht => ih _ (fun u hu => hx u (.tail _ hu)) fun u hu => ?_
      dsimp only at hu
      split at hu
      · exact ht u hu
      · rcases List.mem_append.1 hu with h | h
        · exact ht u h
        · rw [List.mem_singleton.1 h]
          exact hx x (.head _)
  have hall := hfold new [] hn (fun u hu => by cases hu)
  rw [tlbAdd, List.foldl_append]
  generalize new.foldl (fun ts t => if ts.any fun u => u.gpa == t.gpa && u.part == t.part && u.pasid == t.pasid && u.vpage == t.vpage
        then ts else ts ++ [t]) [] = ts at hall
  have hnot : (ts.any fun u => u.gpa == t.gpa && u.part == t.part && u.pasid == t.pasid && u.vpage == t.vpage) = false := by
    rw [List.any_eq_false]
    intro u hu
    simp [hall u hu, ht]
  simp only [List.foldl_cons, List.foldl_nil, hnot, Bool.false_eq_true, if_false]
  rw [List.drop_append_of_le_length (by simp)]
  exact List.mem_append_right _ (.head _)

/-- A polder but for what a walk that starts, or a request that joins one, changes. -/
def PolderState.unwalked (x : PolderState) : PolderState := { x with counters := [], zeroing := [], walks := [], walkId := 0 }
/-- A polder but for what a walk that starts changes. -/
def PolderState.unzeroed (x : PolderState) : PolderState := { x with counters := [], zeroing := [] }

section starts
variable {α : Type} {f : State → α} (hs : ∀ d e, (Act.event d e).Leaves f)
  (hp : ∀ (m : Loc) (g : PolderState → PolderState), (∀ x, (g x).unzeroed = x.unzeroed) → (Act.polder m g).Leaves f)
include hs hp
theorem leaves_count_of (m : Loc) (off : Nat) : (Act.count m off).Leaves f := hp m _ fun _ => rfl
theorem leaves_startZeroing_of (q : Place) : (Act.startZeroing q).Leaves f := leaves_read fun _ => leaves_when (leaves_seq (hp _ _ fun _ => rfl) (hs _ _))
theorem leaves_startWalk_of {p : Loc} {part pasid va id : Nat} : (Act.startWalk p part pasid va id).Leaves f :=
  leaves_read fun _ => leaves_seq (leaves_each fun _ => leaves_startZeroing_of hs hp _) (hs _ _)
theorem leaves_countTorn_of {p : Loc} {part pasid va : Nat} : (Act.countTorn p part pasid va).Leaves f := by
  refine leaves_read fun s => ?_
  split
  · exact leaves_count_of hs hp _ _
  · exact leaves_skip
theorem leaves_answer_of {r : Req} {d c : Nat} {bs : List Byte} : (Act.answer r d c bs).Leaves f := leaves_answer hs (leaves_count_of hs hp)
end starts
section submits
variable {α : Type} {f : State → α} (hs : ∀ d e, (Act.event d e).Leaves f) (ht : (Act.fx .tickFree).Leaves f)
  (hp : ∀ (m : Loc) (g : PolderState → PolderState), (∀ x, (g x).unwalked = x.unwalked) → (Act.polder m g).Leaves f)
include hs ht hp
theorem leaves_unzeroed (m : Loc) (g : PolderState → PolderState) (h : ∀ x, (g x).unzeroed = x.unzeroed) : (Act.polder m g).Leaves f :=
  hp m g fun x => congrArg (fun y : PolderState => { y with walks := [], walkId := 0 }) (h x)
theorem leaves_withFree {k : Nat → Act} (h : ∀ n, (k n).Leaves f) : (Act.withFree k).Leaves f := fun s => (h s.free _).trans (ht s)
theorem leaves_sendTo_of {r : Req} {q : Place} : (Act.sendTo r q).Leaves f := by
  refine leaves_withFree hs ht hp fun n => leaves_read fun s => ?_
  obtain ⟨e, he⟩ := arrive_cases (if useIsAmo r.use then
    max (8 + issueCycles r.use + s.way r.who q.owner + (if q.owner.toPolder = r.who.toPolder then 0 else Config.contention n))
      (s.amoSent r.who q.owner - s.now)
    else 8 + issueCycles r.use + s.way r.who q.owner + (if q.owner.toPolder = r.who.toPolder then 0 else Config.contention n)) r q
  simp only [he]
  exact hs _ _
theorem leaves_submit_of {r : Req} : (Act.submit r).Leaves f := by
  have ha : ∀ d c bs, (Act.answer r d c bs).Leaves f := fun d c bs => leaves_answer_of hs (leaves_unzeroed hs ht hp)
  have hgo : ∀ q : Place, (if spaceCause r q ≠ 0 then .answer r 1 (spaceCause r q) []
      else if reqStops r q then .skip else .sendTo (reqSeen r q) q : Act).Leaves f :=
    fun q => leaves_ite (ha _ _ _) (leaves_ite leaves_skip (leaves_sendTo_of hs ht hp))
  refine leaves_read fun s => ?_
  simp only
  refine leaves_ite ?_ (leaves_ite (leaves_ite (hgo _) (ha _ _ _)) (leaves_ite (ha _ _ _) ?_))
  · split
    · exact hgo _
    · exact ha _ _ _
  · split
    · exact leaves_ite (leaves_seq (hp _ _ fun _ => rfl) (ha _ _ _)) (leaves_ite (ha _ _ _) (leaves_ite (hgo _) (ha _ _ _)))
    · refine leaves_seq (hp _ _ fun _ => rfl) ?_
      split
      · exact hp _ _ fun _ => rfl
      · exact leaves_seq (hp _ _ fun _ => rfl) (leaves_when (leaves_startWalk_of hs (leaves_unzeroed hs ht hp)))
end submits

/-- What a walk that ends sets out to do: its translations are kept, and the walk is over. -/
def Act.keepWalk (p : Loc) (id : Nat) (new : List TlbEntry) : Act :=
  .polder p fun q => { q with tlb := tlbAdd q.tlb new, walks := q.walks.filter fun x => x.id != id }
/-- The next miss takes the walker. -/
def Act.nextWalk (p : Loc) (w : Option Walk) : Act :=
  match w with
  | some x => .seq (.polder p fun q => { q with walks := q.walks.map fun y => if y.id = x.id then { y with started := true } else y })
      (.startWalk p x.part x.pasid x.vpage x.id)
  | none => .skip

section walkEnds
variable {s : State} {p : Loc} {id : Nat} {w : Walk}

theorem exec_walkComplete (hcur : s.cur = .tlbWalkComplete p id) (hw : (s.polder p).walks = [w]) (hid : w.id = id) :
    ∃ f : Req → Act, exec .tlbWalkComplete s = .next ((Act.nextWalk p ((s.polder p).walks.find? fun x => !x.started)).run ((Act.each w.reqs f).run
      ((Act.keepWalk p id (s.walkBrings p w.part w.pasid w.vpage)).run ((Act.countTorn p w.part w.pasid w.vpage).run ((Act.count p 0x338).run s))))) ∧
      (∀ tr, s.walk p w.part w.pasid w.vpage = .ok tr → f = .submit) ∧
      ∀ c, s.walk p w.part w.pasid w.vpage = .error c → f = fun r => .answer r 1 (s.walkCause p w.part w.pasid w.vpage (useIsAmo r.use) c) [] := by
  have hfind : (s.polder p).walks.find? (fun w => w.id == id) = some w := by simp [hw, hid]
  cases h : s.walk p w.part w.pasid w.vpage with
  | ok tr =>
    refine ⟨.submit, ?_, fun _ _ => rfl, fun _ h => by cases h⟩
    change execTlbWalkComplete s = _
    rw [execTlbWalkComplete, hcur]
    simp only [hfind, h]
    rfl
  | error c =>
    refine ⟨fun r => .answer r 1 (s.walkCause p w.part w.pasid w.vpage (useIsAmo r.use) c) [], ?_, (fun _ h => by cases h), fun d hd => ?_⟩
    · change execTlbWalkComplete s = _
      rw [execTlbWalkComplete, hcur]
      simp only [hfind, h]
      rfl
    · cases hd
      rfl

/-- Memory, and the translations that a polder keeps. -/
def State.translations (s : State) (p : Loc) : Memory × Memory × Memory × List TlbEntry := (s.mem, s.side, s.hostMem, (s.polder p).tlb)
theorem leaves_translations (m : Loc) (g : PolderState → PolderState) (h : ∀ x, (g x).unwalked = x.unwalked) :
    (Act.polder m g).Leaves fun s => s.translations p := fun s => by
  have hg : ∀ x, (g x).tlb = x.tlb := fun x => by
    have := congrArg PolderState.tlb (h x)
    exact this
  have := leaves_polder_of (f := PolderState.tlb) (l := m) (m := p) hg s
  exact congrArg (fun x => (s.mem, s.side, s.hostMem, x)) this
theorem leaves_nextWalk {α : Type} {f : State → α} (hs : ∀ d e, (Act.event d e).Leaves f)
    (hp : ∀ (m : Loc) (g : PolderState → PolderState), (∀ x, (g x).unwalked = x.unwalked) → (Act.polder m g).Leaves f)
    {x : Option Walk} : (Act.nextWalk p x).Leaves f := by
  cases x with
  | none => exact leaves_skip
  | some x => exact leaves_seq (hp _ _ fun _ => rfl) (leaves_startWalk_of hs fun m g h =>
      hp m g fun x => congrArg (fun y : PolderState => { y with walks := [], walkId := 0 }) (h x))
theorem memKept_keepWalk (new : List TlbEntry) (u : State) : u.memKept ((Act.keepWalk p id new).run u) := ⟨fun _ => rfl, fun _ => rfl, fun _ => rfl⟩
theorem keepWalk_polder (new : List TlbEntry) (u : State) : ((Act.keepWalk p id new).run u).polder p =
    { u.polder p with tlb := tlbAdd (u.polder p).tlb new, walks := (u.polder p).walks.filter fun x => x.id != id } :=
  polder_apply_polder p (fun q => { q with tlb := tlbAdd q.tlb new, walks := q.walks.filter fun x => x.id != id }) u

/-- What runs before a walk is over: it is counted. -/
theorem counted_walk (u : State) (part pasid va : Nat) : ((Act.countTorn p part pasid va).run ((Act.count p 0x338).run u)).translations p = u.translations p :=
  (leaves_countTorn_of (f := fun s => s.translations p) (fun _ _ _ => rfl) (fun m g h => leaves_translations m g fun x =>
    congrArg (fun y : PolderState => { y with walks := [], walkId := 0 }) (h x)) _).trans
      (leaves_translations p (fun q => { q with counters := bumpIn 0x338 1 q.counters }) (fun _ => rfl) u)
theorem counted_walks (u : State) (part pasid va : Nat) :
    (((Act.countTorn p part pasid va).run ((Act.count p 0x338).run u)).polder p).walks = (u.polder p).walks := by
  have hp : ∀ (m : Loc) (g : PolderState → PolderState), (∀ x, (g x).unzeroed = x.unzeroed) → (Act.polder m g).Leaves fun s => (s.polder p).walks :=
    fun m g h => leaves_polder_of fun x => by
      have := congrArg PolderState.walks (h x)
      exact this
  exact (leaves_countTorn_of (f := fun s : State => (s.polder p).walks) (fun _ _ _ => rfl) hp _).trans
    (leaves_polder_of (f := PolderState.walks) (l := p) (m := p) (g := fun q => { q with counters := bumpIn 0x338 1 q.counters }) (fun _ => rfl) u)

/-- Each access that had joined goes on, by an act that leaves memory and the translations as they are. -/
theorem walk_tail {f : Req → Act} {x : Option Walk} (hf : ∀ r, (f r).Leaves fun s => s.translations p) (u : State) :
    ((Act.nextWalk p x).run ((Act.each w.reqs f).run u)).translations p = u.translations p :=
  leaves_seq (f := fun s => s.translations p) (leaves_each hf) (leaves_nextWalk (fun _ _ _ => rfl) leaves_translations) u

/-- A translation that a walk has found is kept. -/
theorem walk_keeps {f : Req → Act} {x : Option Walk} (hf : ∀ r, (f r).Leaves fun s => s.translations p) (part pasid va : Nat) (new : List TlbEntry) (t : State)
    (ht : (Act.nextWalk p x).run ((Act.each w.reqs f).run ((Act.keepWalk p id new).run ((Act.countTorn p part pasid va).run ((Act.count p 0x338).run s)))) = t) :
    s.memKept t ∧ (t.polder p).tlb = tlbAdd (s.polder p).tlb new := by
  have h1 := counted_walk (p := p) s part pasid va
  generalize (Act.countTorn p part pasid va).run ((Act.count p 0x338).run s) = u at ht h1
  have h2 := memKept_keepWalk (p := p) (id := id) new u
  have h3 := congrArg PolderState.tlb (keepWalk_polder (p := p) (id := id) new u)
  generalize (Act.keepWalk p id new).run u = v at ht h2 h3
  have h4 := walk_tail (w := w) (x := x) hf v
  rw [ht] at h4
  obtain ⟨hmem, h4⟩ := Prod.mk.inj h4
  obtain ⟨hside, h4⟩ := Prod.mk.inj h4
  obtain ⟨hhost, htlb⟩ := Prod.mk.inj h4
  obtain ⟨umem, h1⟩ := Prod.mk.inj h1
  obtain ⟨uside, h1⟩ := Prod.mk.inj h1
  obtain ⟨uhost, utlb⟩ := Prod.mk.inj h1
  refine ⟨?_, by rw [htlb, h3, utlb]⟩
  rw [State.memKept, hmem, hside, hhost, ← umem, ← uside, ← uhost]
  exact h2

/-- An answer for each access that had joined is on its way. -/
theorem answers_planned {d : Nat} {c : Req → Nat} {rs : List Req} {r : Req} (hr : r ∈ rs) {e : Event} (he : Act.answer r d (c r) [] = .event d e) (u : State) :
    (⟨u.now + d, .event e⟩ : Pending) ∈ ((Act.each rs fun r => .answer r d (c r) []).run u).agenda := by
  induction rs generalizing u with
  | nil => cases hr
  | cons x rs ih =>
    rw [run_each_cons]
    rcases List.mem_cons.1 hr with rfl | hr
    · refine (adds_each (P := fun _ => True) (fun _ => adds_answer) _).1 _ ?_
      rw [he, run_event, apply_sched_agenda]
      exact (mem_schedule _ _ _).2 (.inl rfl)
    · rw [← run_now (.answer x d (c x) []) u]
      exact ih hr _
theorem adds_nextWalk {x : Option Walk} : (Act.nextWalk p x).Adds fun _ => True := by
  cases x with
  | none => exact adds_skip
  | some x => exact adds_seq adds_polder (adds_read fun _ => adds_seq (adds_each fun _ => adds_startZeroing _) adds_event)

/-- A walk that fails answers its accesses and is over. -/
theorem walk_fails (hw : (s.polder p).walks = [w]) (hid : w.id = id) {c : Req → Nat} {x : Option Walk} (part pasid va : Nat) (new : List TlbEntry) (t : State)
    (ht : (Act.nextWalk p x).run ((Act.each w.reqs fun r => .answer r 1 (c r) []).run ((Act.keepWalk p id new).run
      ((Act.countTorn p part pasid va).run ((Act.count p 0x338).run s)))) = t) :
    (t.polder p).walks = [] ∧ s.ctxsKept t ∧ s.coresKept t ∧ s.devicesKept t ∧
      ∀ r ∈ w.reqs, ∀ e, Act.answer r 1 (c r) [] = .event 1 e → s.planned t 1 e := by
  have hp0 : ∀ (m : Loc) (g : PolderState → PolderState), (∀ x, (g x).unwalked = x.unwalked) →
      (Act.polder m g).Leaves fun s => (s.ctxs, s.cores, s.devices) := fun _ _ _ _ => rfl
  have hz0 : ∀ (m : Loc) (g : PolderState → PolderState), (∀ x, (g x).unzeroed = x.unzeroed) →
      (Act.polder m g).Leaves fun s => (s.ctxs, s.cores, s.devices) := fun _ _ _ _ => rfl
  have hrest : (t.ctxs, t.cores, t.devices) = (s.ctxs, s.cores, s.devices) := by
    rw [← ht]
    exact leaves_seq (f := fun s : State => (s.ctxs, s.cores, s.devices)) (leaves_seq (leaves_seq (leaves_seq (a := .count p 0x338) (fun _ => rfl)
      (leaves_countTorn_of (fun _ _ _ => rfl) hz0)) (b := .keepWalk p id new) fun _ => rfl)
      (leaves_each (g := fun r => .answer r 1 (c r) []) fun _ => leaves_answer_of (fun _ _ _ => rfl) hz0)) (leaves_nextWalk (fun _ _ _ => rfl) hp0) s
  obtain ⟨hctxs, hrest⟩ := Prod.mk.inj hrest
  obtain ⟨hcores, hdevs⟩ := Prod.mk.inj hrest
  have h1 := counted_walks (p := p) s part pasid va
  have hn1 : ((Act.countTorn p part pasid va).run ((Act.count p 0x338).run s)).now = s.now := (run_now _ _).trans (run_now _ _)
  generalize (Act.countTorn p part pasid va).run ((Act.count p 0x338).run s) = u at ht h1 hn1
  have h2 : (((Act.keepWalk p id new).run u).polder p).walks = [] := by
    rw [keepWalk_polder, h1, hw]
    simp [hid]
  have hn2 : ((Act.keepWalk p id new).run u).now = s.now := (run_now _ _).trans hn1
  generalize (Act.keepWalk p id new).run u = v at ht h2 hn2
  have hz : ∀ (m : Loc) (g : PolderState → PolderState), (∀ x, (g x).unzeroed = x.unzeroed) → (Act.polder m g).Leaves fun s => (s.polder p).walks :=
    fun m g h => leaves_polder_of fun x => by
      have := congrArg PolderState.walks (h x)
      exact this
  have h3 : (((Act.each w.reqs fun r => .answer r 1 (c r) []).run v).polder p).walks = [] :=
    (leaves_each (f := fun s : State => (s.polder p).walks) (fun _ => leaves_answer_of (fun _ _ _ => rfl) hz) v).trans h2
  have hplan : ∀ r ∈ w.reqs, ∀ e, Act.answer r 1 (c r) [] = .event 1 e → s.planned t 1 e := fun r hr e he => by
    rw [← ht]
    have := adds_nextWalk (p := p) (x := x) _ |>.1 _ (answers_planned hr he v)
    rwa [hn2] at this
  generalize (Act.each w.reqs fun r => .answer r 1 (c r) []).run v = y at ht h3
  refine ⟨?_, fun l => by rw [State.ctx, hctxs]; rfl, fun l => by rw [State.core, hcores]; rfl, fun l => by rw [State.device, hdevs]; rfl, hplan⟩
  rw [← ht]
  cases x with
  | none => exact h3
  | some x =>
    have hpol := polder_apply_polder p (fun q => { q with walks := q.walks.map fun y => if y.id = x.id then { y with started := true } else y }) y
    refine (leaves_startWalk_of (f := fun s : State => (s.polder p).walks) (fun _ _ _ => rfl) hz _).trans ((congrArg PolderState.walks hpol).trans ?_)
    change (y.polder p).walks.map _ = []
    rw [h3]
    rfl
end walkEnds

/-- A whole translation is none of a table address. -/
theorem walk_plain {s : State} {p : Loc} {part pasid va : Nat} {t : TlbEntry} (h : s.walk p part pasid va = .ok t) : t.gpa = false := by
  rw [State.walk] at h
  cases h1 : s.stage1 p part pasid va with
  | error e =>
    rw [h1] at h
    cases h
  | ok f =>
    rw [h1] at h
    change (s.stage2 p part (f.base + va % f.size)).bind _ = _ at h
    cases h2 : s.stage2 p part (f.base + va % f.size) with
    | error e =>
      rw [h2] at h
      cases h
    | ok g =>
      rw [h2] at h
      cases h
      rfl

/-- A walk ends: its translation is kept, or its accesses are answered. -/
theorem walkCompletes {s : State} {p : Loc} {id : Nat} {w : Walk} (hw : (s.polder p).walks = [w]) (hid : w.id = id) (hcur : s.cur = .tlbWalkComplete p id) :
    ∃ t, exec .tlbWalkComplete s = .next t ∧ s.memKept t ∧
      (∀ tr, s.walk p w.part w.pasid w.vpage = .ok tr → (s.polder p).tlb = [] → tr ∈ (t.polder p).tlb) ∧
      ∀ c, s.walk p w.part w.pasid w.vpage = .error c → (t.polder p).walks = [] ∧ s.ctxsKept t ∧ s.coresKept t ∧ s.devicesKept t ∧
        (∀ r ∈ w.reqs, ∀ l ep n rd, r.use = .load l ep n rd → s.planned t 1 (.loadReply l ep n rd ⟨c, r.addr, []⟩)) ∧
        ∀ r ∈ w.reqs, ∀ a, r.use = .atomic a → s.planned t 1 (.atomicReply a (s.walkCause p w.part w.pasid w.vpage true c) 0) := by
  obtain ⟨f, hexec, hok, herr⟩ := exec_walkComplete hcur hw hid
  have hun : ∀ (m : Loc) (g : PolderState → PolderState), (∀ x, (g x).unzeroed = x.unzeroed) → (Act.polder m g).Leaves fun s => s.translations p :=
    fun m g h => leaves_translations m g fun x => congrArg (fun y : PolderState => { y with walks := [], walkId := 0 }) (h x)
  have hf : ∀ r, (f r).Leaves fun s => s.translations p := fun r => by
    cases hres : s.walk p w.part w.pasid w.vpage with
    | ok tr =>
      rw [hok tr hres]
      exact leaves_submit_of (fun _ _ _ => rfl) (fun _ => rfl) leaves_translations
    | error c =>
      rw [herr c hres]
      exact leaves_answer_of (fun _ _ _ => rfl) hun
  obtain ⟨hm, htlb⟩ := walk_keeps (w := w) (id := id) hf w.part w.pasid w.vpage (s.walkBrings p w.part w.pasid w.vpage) _ rfl
  refine ⟨_, hexec, hm, fun tr hres hnil => ?_, fun c hres => ?_⟩
  · rw [htlb, hnil, State.walkBrings, hres]
    refine mem_tlbAdd (fun u hu => ?_) ?_
    · obtain ⟨a, _, ha⟩ := List.mem_filterMap.1 hu
      split at ha
      · cases ha
        rfl
      · cases ha
    · exact walk_plain hres
  · rw [herr c hres]
    obtain ⟨h1, h2, h3, h4, h5⟩ := walk_fails (c := fun r => s.walkCause p w.part w.pasid w.vpage (useIsAmo r.use) c) hw hid w.part w.pasid w.vpage
      (s.walkBrings p w.part w.pasid w.vpage) _ rfl
    refine ⟨h1, h2, h3, h4, fun r hr l ep n rd hu => h5 r hr _ ?_, fun r hr a hu => h5 r hr _ ?_⟩
    · have hcause : s.walkCause p w.part w.pasid w.vpage (useIsAmo r.use) c = c := by
        rw [hu, State.walkCause]
        split <;> rfl
      rw [hcause, Act.answer, hu]
    · rw [Act.answer, hu]
      rfl

/-- Settles O41: a load at the sluice by the first cause that applies, a zeroing by `zeroingDone`, a fill by its line, a walk by its outcome. -/
theorem requestsServed : Obligations.RequestsServed := by
  refine ⟨?sluice, ?zeroing, ?fill, ?walk⟩
  case sluice =>
    intro s r p l ep n hu back reply hcur
    refine ⟨(Act.atSluice r p).run s, ?_, fun h => ?_, fun h hg => ?_, fun k h hg hd h6 hk => ⟨fun hx => ?_, fun hx => ?_, fun hx hy => ?_⟩,
      fun h hg hd ha hl => ?_, fun k hpass => ?_⟩
    · change execSluiceRequest s = _
      rw [execSluiceRequest, hcur]
      rfl
    · rw [sluice_unrouted hu h]
      exact ⟨only_event s, plans_event (plans_refl s) rfl⟩
    · rw [sluice_gone hu h hg]
      exact ⟨only_event s, plans_event (plans_refl s) rfl⟩
    · rw [sluice_waits hu h hg (by rw [hd, Bool.or_true]) h6 hk hx]
      exact ⟨only_event s, plans_event (plans_refl s) rfl⟩
    · rw [sluice_locked hu h hg (by rw [hd, Bool.or_true]) h6 hk hx]
      exact ⟨only_event s, plans_event (plans_refl s) rfl⟩
    · rw [sluice_dry hu h hg (by rw [hd, Bool.or_true]) h6 hk hx hy]
      exact ⟨only_event s, plans_event (plans_refl s) rfl⟩
    · rw [sluice_refused hu h hg hd ha hl]
      exact ⟨keeps_trans (only_count (.head _) s) (only_event _), count_counters p.owner 0x340 s, plans_event (xs := []) (plans_refl s) rfl⟩
    · obtain ⟨h, hy, hd, h6, hk, hx, hf⟩ := hpass
      have hg : s.isGone r.who p.owner = false := by rw [State.isGone, hy]; rfl
      refine ⟨fun he => ?_, fun he => ?_⟩
      · rw [sluice_torn hu h hg hd h6 hk hx hy hf he]
        exact ⟨keeps_trans (only_count (.head _) s) (only_event _), count_counters p.owner 0x358 s, plans_event (xs := []) (plans_refl s) rfl⟩
      · rw [sluice_serves hu h hg hd h6 hk hx hy hf he]
        refine ⟨?_, fun hb => (serve_over hu _ hb _ rfl).2, fun b hb => (serve_sees hu _ hb _ rfl _ rfl).2⟩
        cases hb : s.blockAt l ep with
        | none => exact (serve_over hu _ hb _ rfl).1
        | some b => exact (serve_sees hu _ hb _ rfl _ rfl).1
  case zeroing =>
    intro s p g hs hg hf waits hcur
    refine ⟨_, ?_, zeroingDone hg hf (ws := waits) _ rfl⟩
    change execFreshZeroingDone s = _
    rw [execFreshZeroingDone, hcur]
    simp only [granule_hbm hg, done, run_all_cons, run_all_nil, Act.wakeGranule, run_seq, waits]
  case fill =>
    intro s p line cls pref data rd pasid set hcur
    refine ⟨(Act.fillLine p line cls pref rd data true).run s, ?_, only_of_rippling (rippling_fillLine rfl) s, fun h hlt => ?_, fun h hge v hv => ?_,
      fun x h => fillLine_found h⟩
    · change execL2LineFill s = _
      rw [execL2LineFill, hcur]
      rfl
    · rw [fillLine_enters h (victim := none) (if_pos hlt)]
      simp
    · rw [fillLine_enters h (victim := some v) (by rw [if_neg (Nat.not_lt.2 hge)]; exact hv)]
      rfl
  case walk => exact fun s p id w hw hid hcur => walkCompletes hw hid hcur

end Sys2Proof.Machine
end

section
/-! SUPPORT. Launch queues beyond the host interfaces -/

namespace Sys2Proof.Machine

set_option Elab.async false

/-! ## A launch queue without room, beyond the host interfaces -/

/-- The packet lies at 2^40, a page that the TLB maps to the core memory of polder 0. -/
def fullWork : HostWork := ⟨⟨4096, 0, 0⟩, 0, 0, 0, [], 0, 0, 0⟩
def fullPacket : List W64 := [0#64, 0#64, BitVec.ofNat 64 0x10000000000]
def fullEntry : TlbEntry := ⟨0, 0, false, 0x10000000000, 0x1000, 0x8000100000000000, 0, false⟩
/-- The key of the page. -/
def fullKey : Nat := keyIn ⟨0, 0, 0, 0⟩ 2 0
/-- The packet of interface 4096 launches one group on core 0 of polder 0, and the queue of that number holds 64 launches. -/
def State.launching : State :=
  { State.reset with
    cur := .hostLaunch (Loc.device 0) 4096 fullPacket
    mem := [(fullKey + 9, 1#8), (fullKey + 10, 0x11#8), (fullKey + 11, 1#8), (fullKey + 16, 1#8)]
    polders := [(⟨0, 0, 0, 0⟩, { PolderState.initial with part := some 0, tlb := [fullEntry] })]
    devices := [(Loc.device 0, { DeviceState.initial with
      power := true, broughtUp := 5, posWritten := true, works := [fullWork], launchQs := [⟨4096, List.replicate 64 default, 0⟩] })] }

/-- The bytes of the record, a line each. -/
def fullLine (n : Nat) : List Byte := State.launching.mem.bytes n 64
def fullRead (a : Nat) : Req := ⟨⟨0, 0, 0, 0⟩, 0, 0, a, 64, false, .line 0 0, false⟩
def fullPlace (i : Fin 2) : Place := ⟨⟨0, 0, 0, 0⟩, 2, 64 * i⟩
/-- The launch as the dispatcher takes it. -/
def fullLaunch : LaunchRec :=
  { State.launching.launchRec ⟨0, 0, 0, 0⟩ (fullLine fullKey ++ fullLine (fullKey + 64)) with
    crec := 0, sig := 0, host := some fullWork.tag, pasid := 0, part := 0 }

theorem launching_place (i : Fin 2) : State.launching.meshPlace 0 (0x8000100000000000 + 64 * i) = fullPlace i := by
  have hdevs : State.launching.devsAt 0 (bits (0x8000100000000000 + 64 * i) 62 55) = [0] := by
    revert i
    decide +kernel
  rw [State.meshPlace, State.devAt, hdevs]
  simp only [List.length_singleton, Nat.one_ne_zero, if_false, Nat.mod_one, List.getD_cons_zero]
  revert i
  decide +kernel
theorem launching_resolves (i : Fin 2) : State.launching.resolve ⟨0, 0, 0, 0⟩ 0 0 false (0x10000000000 + 64 * i) false = .ok (fullPlace i) := by
  have hfind : State.launching.tlbFind ⟨0, 0, 0, 0⟩ 0 0 (0x10000000000 + 64 * i) = some fullEntry := by
    revert i
    decide +kernel
  have hfits : State.launching.meshFits ⟨0, 0, 0, 0⟩ (0x8000100000000000 + 64 * i) = true := by
    rw [State.meshFits, launching_place]
    revert i
    decide +kernel
  have hoff : fullEntry.mesh + (0x10000000000 + 64 * i) % fullEntry.size = 0x8000100000000000 + 64 * i := by
    revert i
    decide +kernel
  have hform : bit (0x10000000000 + 64 * i) 63 = false ∧ bits (0x10000000000 + 64 * i) 62 57 = 0 := by
    revert i
    decide +kernel
  rw [State.resolve, if_neg (by omega), hform.1, hform.2, hfind]
  simp only [hoff, hfits, launching_place]
  rfl
theorem eq_ok_of_toOption {ε α : Type} {x : Except ε α} {a : α} (h : x.toOption = some a) : x = .ok a := by
  cases x <;> cases h
  rfl
theorem launching_reads (i : Fin 2) : State.launching.readNow (fullRead (0x10000000000 + 64 * i)) = .ok (fullLine (fullKey + 64 * i)) := by
  rw [State.readNow, fullRead, launching_resolves]
  refine eq_ok_of_toOption ?_
  revert i
  decide +kernel
theorem launching_cause : State.launching.launchCause ⟨0, 0, 0, 0⟩ (fullLine fullKey ++ fullLine (fullKey + 64)) = 0 := by decide +kernel
theorem launching_run :
    (Act.launchPacket (Loc.device 0) 4096 fullPacket State.launching fullWork).run State.launching = (Act.startLaunch 4096 fullLaunch).run State.launching := by
  have h0 : State.launching.readNow ⟨cfgPolder (Loc.device 0) fullWork.cfg, fullWork.part, fullWork.pasid, cfgWord fullPacket 2 + 64 * 0, 64, false, .line 0 0,
      false⟩ =
      .ok (fullLine fullKey) := launching_reads 0
  have h1 : State.launching.readNow ⟨cfgPolder (Loc.device 0) fullWork.cfg, fullWork.part, fullWork.pasid, cfgWord fullPacket 2 + 64 * 1, 64, false, .line 0 0,
      false⟩ =
      .ok (fullLine (fullKey + 64)) := launching_reads 1
  have hwalk : ((Act.walkNow (cfgPolder (Loc.device 0) fullWork.cfg) fullWork.part fullWork.pasid (cfgWord fullPacket 2)).seq
      (.walkNow (cfgPolder (Loc.device 0) fullWork.cfg) fullWork.part fullWork.pasid (cfgWord fullPacket 2 + 64))).run State.launching = State.launching := rfl
  have hform : isVirtual (cfgWord fullPacket 2) = true := by decide
  have hcause : ¬State.launching.launchCause (cfgPolder (Loc.device 0) fullWork.cfg) (fullLine fullKey ++ fullLine (fullKey + 64)) ≠ 0 :=
    Classical.not_not.2 launching_cause
  have hdirect : fullLaunch.ind = false ∧ (fullLaunch.groups == 0) = false := by decide +kernel
  simp only [Act.launchPacket, hform, if_true, h0, h1]
  rw [run_seq, hwalk, if_neg hcause]
  change (if fullLaunch.ind = true then _ else (Act.when (fullLaunch.groups == 0) _).seq (.startLaunch 4096 fullLaunch)).run State.launching = _
  rw [hdirect.1, hdirect.2, if_neg Bool.false_ne_true]
  rfl
theorem launching_waits : ∃ t, exec .hostLaunch State.launching = .next t ∧
    ∀ y ∈ (t.device fullLaunch.issuer).launchQs, ∀ x ∈ y.items, x.launch.groups = 0 := by
  refine ⟨(Act.startLaunch 4096 fullLaunch).run State.launching, ?_, by decide +kernel⟩
  rw [← launching_run]
  rfl

/-- Refutes O53: the launch waits for room in the queue of that number (R412). -/
theorem not_hostPackets : ¬ Obligations.HostPackets := by
  intro h
  obtain ⟨-, -, hpacket, -⟩ := h State.launching (Loc.device 0) 4096
  obtain ⟨-, -, hlaunch, -⟩ := hpacket fullPacket fullWork rfl
  obtain ⟨t, ht, -, -, hqueue⟩ := hlaunch (fullLine fullKey) (fullLine (fullKey + 64)) (by decide) (launching_reads 0) (launching_reads 1) launching_cause
    (by decide +kernel) rfl
  obtain ⟨y, hy, -, hitem⟩ := hqueue (by decide +kernel)
  obtain ⟨u, hu, hempty⟩ := launching_waits
  cases ht.symm.trans hu
  exact absurd (hempty y hy _ hitem) (by decide +kernel)

end Sys2Proof.Machine
end

section
/-! SUPPORT. Traps: the end of a failed block, the frame of a trap, double traps, and the commit of SYSC and ERET (spec/16 R334 to R340) -/

namespace Sys2Proof.Machine

/-! ## What a failed block gives back, and a commit stirs, decides nothing of a trap (R338) -/

/-- A context but for its block, the places and duties of its thread, and what a commit stirs. -/
def Context.bare (c : Context) : Context :=
  { c with block := none, pc := 0#64, duties := Duties.none, reserved := none, fm := 0#64, stale := [], unacquired := [], unreleased := [] }
/-- A core but for its special-function requests and the exits noted. -/
def CoreState.bare (k : CoreState) : CoreState := { k with sfu := [], exits := [] }
/-- A polder but for its watch entries and listen slots. -/
def PolderState.bare (p : PolderState) : PolderState := { p with watches := [], listens := [] }
/-- What stays of a state, the agenda apart. -/
def State.bare (s : State) : (Loc → Context) × (Loc → CoreState) × (Loc → PolderState) × State :=
  (fun m => (s.ctx m).bare, fun m => (s.core m).bare, fun m => (s.polder m).bare, { s with ctxs := [], cores := [], polders := [], agenda := [] })

theorem context_of_bare {c d : Context} (h : d.bare = c.bare) : d = { c with
    block := d.block, pc := d.pc, duties := d.duties, reserved := d.reserved, fm := d.fm, stale := d.stale, unacquired := d.unacquired, unreleased :=
        d.unreleased } :=
  congrArg (fun x : Context => { x with
    block := d.block, pc := d.pc, duties := d.duties, reserved := d.reserved, fm := d.fm, stale := d.stale, unacquired := d.unacquired, unreleased :=
        d.unreleased }) h
theorem core_of_bare {c d : CoreState} (h : d.bare = c.bare) : d = { c with sfu := d.sfu, exits := d.exits } :=
  congrArg (fun x : CoreState => { x with sfu := d.sfu, exits := d.exits }) h
theorem polder_of_bare {c d : PolderState} (h : d.bare = c.bare) : d = { c with watches := d.watches, listens := d.listens } :=
  congrArg (fun x : PolderState => { x with watches := d.watches, listens := d.listens }) h

theorem bare_ctx_of {m : Loc} {g : Context → Context} (hg : ∀ c, (g c).bare = c.bare) : (Act.ctx m g).Leaves State.bare := fun s => by
  refine Prod.ext (funext fun n => ?_) rfl
  by_cases e : n = m
  · subst e
    change (((Act.ctx n g).run s).ctx n).bare = _
    rw [run_ctx, ctx_apply_ctx, hg]
    rfl
  · exact congrArg Context.bare (ctx_apply_ctx_other _ _ _ _ e)
theorem bare_core_of {m : Loc} {g : CoreState → CoreState} (hg : ∀ c, (g c).bare = c.bare) : (Act.core m g).Leaves State.bare := fun s => by
  refine Prod.ext rfl (Prod.ext (funext fun n => ?_) rfl)
  by_cases e : n.toCore = m.toCore
  · change (((Act.core m g).run s).core n).bare = _
    rw [run_core, core_apply_core_of e, hg]
    rfl
  · exact congrArg CoreState.bare (core_apply_core_other _ _ _ _ e)
theorem bare_polder_of {m : Loc} {g : PolderState → PolderState} (hg : ∀ c, (g c).bare = c.bare) : (Act.polder m g).Leaves State.bare := fun s => by
  refine Prod.ext rfl (Prod.ext rfl (Prod.ext (funext fun n => ?_) rfl))
  by_cases e : n.toPolder = m.toPolder
  · change (((Act.polder m g).run s).polder n).bare = _
    rw [run_polder, polder_apply_polder_of e, hg]
    rfl
  · exact congrArg PolderState.bare (polder_apply_polder_other _ _ _ _ e)
theorem bare_sched {d : Nat} {w : Work} : (Act.fx (.sched d w)).Leaves State.bare := fun _ => rfl
theorem bare_event {d : Nat} {e : Event} : (Act.event d e).Leaves State.bare := bare_sched
/-- What a commit stirs is bare. -/
theorem Stirs_bare {s t : State} {l : Loc} (h : s.Stirs t l) : t.bare = s.bare := by
  refine Prod.ext (funext fun m => ?_) (Prod.ext (funext fun m => ?_) ?_)
  · obtain ⟨_, _, _, _, e⟩ := Stirs_same h m
    change (t.ctx m).bare = (s.ctx m).bare
    rw [e]
    rfl
  · by_cases e : m.toCore = l.toCore
    · obtain ⟨es, rs, hc⟩ := h.core
      change (t.core m).bare = (s.core m).bare
      have hm : ∀ u : State, u.core m = u.core l := fun u => by rw [State.core, State.core, e]
      rw [hm, hm, hc]
      rfl
    · exact congrArg CoreState.bare (h.cores m e)
  · rw [h.rest]
    rfl

section bare
variable {s t : State} (h : t.bare = s.bare)
include h

theorem bare_ctx (m : Loc) : (t.ctx m).bare = (s.ctx m).bare := congrFun (congrArg Prod.fst h) m
theorem bare_core (m : Loc) : (t.core m).bare = (s.core m).bare := congrFun (congrArg (fun x => x.2.1) h) m
theorem bare_polder (m : Loc) : (t.polder m).bare = (s.polder m).bare := congrFun (congrArg (fun x => x.2.2.1) h) m
theorem bare_rest : t = { s with ctxs := t.ctxs, cores := t.cores, polders := t.polders, agenda := t.agenda } :=
  congrArg (fun x => { x.2.2.2 with ctxs := t.ctxs, cores := t.cores, polders := t.polders, agenda := t.agenda }) h
theorem bare_num (k n : Nat) : t.num k n = s.num k n := by rw [bare_rest h]; rfl
theorem bare_device (m : Loc) : t.device m = s.device m := by rw [bare_rest h]; rfl
theorem bare_now : t.now = s.now := by rw [bare_rest h]
theorem bare_mem : t.mem = s.mem := by rw [bare_rest h]
theorem bare_memKept : s.memKept t := by
  rw [bare_rest h]
  exact memKept_refl s

/-- A field of a context, or what follows from some, that the changes do not reach. -/
theorem bare_of_ctx {α : Type} (f : Context → α) (hf : ∀ c, f c.bare = f c) (m : Loc) : f (t.ctx m) = f (s.ctx m) := by
  rw [← hf, bare_ctx h, hf]
theorem bare_of_core {α : Type} (f : CoreState → α) (hf : ∀ c, f c.bare = f c) (m : Loc) : f (t.core m) = f (s.core m) := by
  rw [← hf, bare_core h, hf]
theorem bare_of_polder {α : Type} (f : PolderState → α) (hf : ∀ c, f c.bare = f c) (m : Loc) : f (t.polder m) = f (s.polder m) := by
  rw [← hf, bare_polder h, hf]

theorem bare_homeMapEntry (m : Loc) (off : Nat) : t.homeMapEntry m off = s.homeMapEntry m off := by
  have hp := bare_of_polder h PolderState.part (fun _ => rfl) m
  have ha := bare_of_polder h (fun p part => areaWord p part 2) (fun _ => rfl) m
  have hu := bare_of_polder h PolderState.unfresh (fun _ => rfl) m
  have ha : ∀ part, areaWord (t.polder m) part 2 = areaWord (s.polder m) part 2 := congrFun ha
  simp only [State.homeMapEntry, hp, hu, ha, bare_num h]
theorem bare_tierKey (m : Loc) (off : Nat) : t.tierKey m off = s.tierKey m off := by simp only [State.tierKey, bare_homeMapEntry h, bare_device h]
theorem bare_keyOf {q : Place} (hq : q.space ≠ 4) : t.keyOf q = s.keyOf q := by
  have hb := bare_of_polder h PolderState.bank (fun _ => rfl)
  simp only [State.keyOf, bare_tierKey h, hb]
  split
  case h_5 h4 => exact absurd h4 hq
  all_goals rfl
theorem bare_unsettled (q : Place) : t.unsettled q = s.unsettled q := by
  have hu := bare_of_polder h PolderState.unfresh (fun _ => rfl)
  have hz := bare_of_polder h PolderState.zeroed (fun _ => rfl)
  have hg := bare_of_polder h PolderState.zeroing (fun _ => rfl)
  simp only [State.unsettled, State.isFresh, State.freshBit, hu, hz, hg, bare_homeMapEntry h]
theorem bare_isFresh (q : Place) : t.isFresh q = s.isFresh q := by
  have hu := bare_of_polder h PolderState.unfresh (fun _ => rfl)
  have hz := bare_of_polder h PolderState.zeroed (fun _ => rfl)
  simp only [State.isFresh, State.freshBit, hu, hz, bare_homeMapEntry h]
theorem bare_homeBytes (l : Loc) (a n : Nat) : t.homeBytes l a n = s.homeBytes l a n := by
  rw [State.homeBytes, State.homeBytes]
  cases hp : homePlace l a with
  | none => rfl
  | some q =>
    obtain ⟨h4, h6⟩ := homePlace_space hp
    simp only [State.placeBytes, h6, if_false, bare_keyOf h h4, bare_isFresh h, bare_mem h]
theorem bare_homeKey (l : Loc) (a : Nat) : t.homeKey l a = s.homeKey l a := by
  rw [State.homeKey, State.homeKey]
  cases hp : homePlace l a with
  | none => rfl
  | some q => exact bare_keyOf h (homePlace_space hp).1
theorem bare_storeWaits (l : Loc) (k n : Nat) : t.storeWaits l k n = s.storeWaits l k n := by
  have hr := bare_of_core h CoreState.ring (fun _ => rfl)
  have hl := bare_of_polder h PolderState.locks (fun _ => rfl)
  have hop : ∀ e, t.entryOp e = s.entryOp e := fun e => by simp only [State.entryOp, bare_homeBytes h]
  have hsp : ∀ e, t.entrySpans e = s.entrySpans e := fun e => by
    simp only [State.entrySpans, hop, Shape.spans, Shape.codedBytes, bare_homeBytes h]
  simp only [State.storeWaits, State.entryHit, State.ownLock, hr, hl, hsp, bare_homeKey h]
theorem bare_frameWaits (l : Loc) : t.frameWaits l = s.frameWaits l := by
  have hf := bare_of_ctx h Context.trapframe (fun _ => rfl)
  have hu : t.unsettled = s.unsettled := funext (bare_unsettled h)
  simp only [State.frameWaits, State.storeKey, hf, hu, bare_storeWaits h, bare_homeKey h]
theorem bare_workspaceHit (q : Place) (n : Nat) : t.workspaceHit q n = s.workspaceHit q n := by
  have hst := bare_of_ctx h Context.state (fun _ => rfl)
  have hw := bare_of_ctx h Context.wp (fun _ => rfl)
  simp only [State.workspaceHit, hst, hw]
theorem bare_storeRange (l : Loc) (a n : Nat) : t.storeRange l a n = s.storeRange l a n := by
  have hh := bare_of_ctx h Context.home (fun _ => rfl) l
  rw [State.storeRange, State.storeRange]
  cases homePlace l a with
  | none => rfl
  | some q =>
    have ht := bare_tierKey h l q.off
    simp only
    rw [hh, ht]
theorem bare_storeCause (l : Loc) (a n : Nat) : t.storeCause l a n = s.storeCause l a n := by
  have hs := bare_of_ctx h Context.sup (fun _ => rfl) l
  rw [State.storeCause, State.storeCause, bare_storeRange h]
  cases homePlace l a with
  | none => rfl
  | some q =>
    have hw := bare_workspaceHit h q n
    simp only
    rw [hs, hw]
theorem bare_pinHit (q : Place) (n : Nat) : t.pinHit q n = s.pinHit q n := by
  have ho := bare_of_polder h PolderState.objects (fun _ => rfl) q.owner
  rw [State.pinHit, State.pinHit, ho]
  refine congrArg (List.any _) (funext fun e => congrArg (_ && ·) (congrArg (List.any _) (funext fun v => ?_)))
  cases homePlace q.owner (bits (e.2.getD 0 0#64).toNat 56 0 + 64 * v * bits (e.2.getD 2 0#64).toNat 43 20) with
  | none => rfl
  | some b =>
    cases hp : homePlace q.owner (bits (e.2.getD 3 0#64).toNat 39 0 + 8 * v) with
    | none => rfl
    | some pin => simp only [bare_keyOf h (homePlace_space hp).1, bare_num h]
theorem bare_commitCause (l : Loc) (a n : Nat) : t.commitCause l a n = s.commitCause l a n := by
  have hl := bare_of_polder h PolderState.locks (fun _ => rfl) l
  have hb := bare_of_polder h PolderState.slotAt (fun _ => rfl)
  rw [State.commitCause, State.commitCause]
  cases hp : homePlace l a with
  | none => rfl
  | some q =>
    have hs : t.slotHeld q n = s.slotHeld q n := by simp only [State.slotHeld, hb]
    have hk := bare_keyOf h (homePlace_space hp).1
    have hq := bare_pinHit h q n
    have hlock : ∀ k, t.lockHit l k n false = s.lockHit l k n false := fun k => by rw [State.lockHit, State.lockHit, hl]
    simp only
    rw [hk]
    cases s.keyOf q with
    | none => rfl
    | some k =>
      simp only
      rw [hlock, hs, hq]
theorem bare_frameFault (l : Loc) : t.frameFault l = s.frameFault l := by
  have hf := bare_of_ctx h Context.trapframe (fun _ => rfl)
  simp only [State.frameFault, hf, bare_storeCause h, bare_commitCause h]
theorem bare_trapReady {l : Loc} {k : Nat} (hr : s.trapReady l k) : t.trapReady l k := by
  obtain ⟨hsup, hvec, hok, hwait, q, hq, hk⟩ := hr
  have hf := bare_of_ctx h Context.trapframe (fun _ => rfl) l
  refine ⟨(bare_of_ctx h Context.sup (fun _ => rfl) l).trans hsup, fun e => hvec ((bare_of_ctx h Context.trapvec (fun _ => rfl) l).symm.trans e), ?_,
    (bare_frameWaits h l).trans hwait, q, by rw [hf, hq], (bare_keyOf h (homePlace_space hq).1).trans hk⟩
  rw [State.frameOk, bare_frameFault h]
  exact hok
/-- The records of a core name the same thread. -/
theorem bare_coreRec (l : Loc) : t.coreRec l = s.coreRec l := by
  have hg := bare_of_ctx h Context.guest (fun _ => rfl) l
  have ht : t.tid l = s.tid l := by simp only [State.tid, hg, bare_device h]
  funext cause inner detail addr aux
  simp only [State.coreRec, ht]
theorem bare_partOf (l : Loc) : t.partOf l = s.partOf l := by
  simp only [State.partOf, bare_of_polder h PolderState.part (fun _ => rfl) l]
theorem bare_steady {l : Loc} (hs : s.steady l) : t.steady l := by
  have hst := bare_of_ctx h Context.state (fun _ => rfl)
  have hpr := bare_of_ctx h Context.prio (fun _ => rfl)
  refine ⟨hs.own, (hst l).trans hs.runs, (bare_of_ctx h Context.stopReq (fun _ => rfl) l).trans hs.stop,
    (bare_of_ctx h Context.window (fun _ => rfl) l).trans hs.window, (bare_of_ctx h Context.trapWait (fun _ => rfl) l).trans hs.trap, fun k hk => ?_⟩
  rw [hpr, hpr]
  exact hs.best k (by rwa [hst] at hk)

end bare

/-! ## The frame of a trap (R337, R338) -/

theorem putAll_append {a b : List Byte} : ∀ {m : Memory} {k : Nat}, m.putAll k (a ++ b) = (m.putAll k a).putAll (k + a.length) b := by
  induction a with
  | nil => exact rfl
  | cons x a ih =>
    intro m k
    simp only [List.cons_append, Memory.putAll, ih, List.length_cons]
    rw [Nat.add_assoc, Nat.add_comm 1]
/-- Words that are written one behind another are read again. -/
theorem word_putAll {ws : List Nat} : ∀ {m : Memory} {k i : Nat}, m.wf = true → i < ws.length →
    natOfBytes ((m.putAll k (ws.flatMap (bytesOf 8))).bytes (k + 8 * i) 8) = ws.getD i 0 % 2 ^ 64 := by
  induction ws with
  | nil => exact fun _ h => absurd h (Nat.not_lt_zero _)
  | cons w ws ih =>
    intro m k i hm hi
    rw [List.flatMap_cons, putAll_append, bytesOf_length]
    cases i with
    | zero =>
      have h := bytes_putAll (k := k) (bs := bytesOf 8 w) hm
      rw [bytesOf_length] at h
      rw [bytes_putAll_other (.inl (by omega)), Nat.mul_zero, Nat.add_zero, h, natOfBytes_bytesOf]
      rfl
    | succ i =>
      have h := ih (k := k + 8) (i := i) (wf_putAll (bs := bytesOf 8 w) (k := k) hm) (Nat.lt_of_succ_lt_succ hi)
      rw [show k + 8 * (i + 1) = k + 8 + 8 * i by omega, h]
      rfl

/-- The words of a frame. -/
def frameWords (c : Context) (t : Trap) (pending : Bool) : List Nat :=
  [field t.seq 16 48 + field t.inner 8 40 + field t.namo 8 32 + field (boolNat pending) 1 30 + field t.kind 2 28 + field t.detail 20 8 + field t.cause 8 0,
    t.epc % 2 ^ 57, t.tval, c.wp.toNat, t.record.getD 0 0, t.record.getD 1 0, t.record.getD 2 0, t.record.getD 3 0]
theorem frameBytes_eq (c : Context) (t : Trap) (pending : Bool) : frameBytes c t pending = (frameWords c t pending).flatMap (bytesOf 8) := by
  simp only [frameBytes, frameWords, List.flatMap_cons, List.flatMap_nil, List.append_nil, List.append_assoc]
  rfl
theorem frameBytes_length (c : Context) (t : Trap) (pending : Bool) : (frameBytes c t pending).length = 64 := by
  simp [frameBytes_eq, frameWords, bytesOf_length]

/-- Each word of a frame that can be written passes the checks of a store. -/
theorem frameOk_stores {s : State} {l : Loc} (h : s.frameOk l = true) {i : Nat} (hi : i < 8) : s.storeCause l ((s.ctx l).trapframe.toNat + 8 * i) 8 = 0 := by
  simp only [State.frameOk, State.frameFault, beq_iff_eq] at h
  split at h
  · contradiction
  · refine Classical.byContradiction fun hc => ?_
    have hfind : ∀ {xs : List Nat} {x : Nat}, x ∈ xs → x ≠ 0 → (xs.find? fun c => c != 0).getD 0 ≠ 0 := fun {xs x} hx h0 hn => by
      cases hf : xs.find? fun c => c != 0 with
      | none => exact absurd (List.find?_eq_none.1 hf x hx) (by simpa using h0)
      | some y =>
        rw [hf] at hn
        exact absurd (List.find?_some hf) (by simpa using hn)
    exact hfind (List.mem_map.2 ⟨i, List.mem_range.2 hi, rfl⟩) (by rwa [if_pos hc]) h

/-- The place of the frame of a trap that can be taken takes every write: it is not slice handler memory, which a user does not write. -/
theorem trapReady_takes {s : State} {l : Loc} {k : Nat} (h : s.trapReady l k) : s.landsAt l (s.ctx l).trapframe.toNat k := by
  obtain ⟨hsup, -, hok, hwait, q, hq, hk⟩ := h
  refine ⟨q, hq, hk, ?_, fun h5 => ?_⟩
  · rw [State.frameWaits, hq] at hwait
    simpa using (Bool.or_eq_false_iff.1 hwait).2
  · have hc := frameOk_stores hok (Nat.zero_lt_succ 7)
    rw [State.storeCause, Nat.mul_zero, Nat.add_zero, hq] at hc
    split at hc
    · contradiction
    · simp [h5, hsup] at hc

theorem enterTrap_does {s : State} {l : Loc} {k : Nat} (h : s.trapReady l k) (t : Trap) :
    ∃ u, s.Writes u l.toPolder k (frameBytes (s.ctx l) t ((s.ctx l).lcount != 0)) ∧
      ((Act.ctx l fun x => { x with sup := true, pc := x.trapvec, block := none }).run u).Ripples
        ((Act.seq (.enterTrap l t) (.each (homePlace l (s.ctx l).trapframe.toNat).toList fun p => .passLines p 64)).run s) l.toPolder := by
  obtain ⟨q, hq, ht⟩ := trapReady_takes h
  obtain ⟨-, -, hok, -⟩ := h
  have hw := writes_place ht (frameBytes (s.ctx l) t ((s.ctx l).lcount != 0))
  rw [homePlace_owner hq] at hw
  refine ⟨_, hw, ?_⟩
  have hrun : (Act.enterTrap l t).run s = (Act.ctx l fun x => { x with sup := true, pc := x.trapvec, block := none }).run
      ((Act.writePlace q (frameBytes (s.ctx l) t ((s.ctx l).lcount != 0))).run s) := by
    simp only [Act.enterTrap, run_read, hok, if_true, Act.putHome, hq, run_all_cons, run_all_nil]
  rw [run_seq, hrun, hq]
  exact rippling_each (fun p hp => by
    obtain rfl : p = q := by simpa using hp
    exact rippling_passLines (by rw [homePlace_owner hq])) _

/-- The memory and the context of a trap that has been entered: its frame stands at `k`, and the handler's block is next. -/
structure State.Entered (s t : State) (l : Loc) (k : Nat) (tr : Trap) : Prop where
  memory : s.memKeptBut t k 64
  frame : ∀ i < 8, t.word (k + 8 * i) = (frameWords (s.ctx l) tr ((s.ctx l).lcount != 0)).getD i 0 % 2 ^ 64
  own : t.ctx l = { s.ctx l with sup := true, pc := (s.ctx l).trapvec, block := none }
  touches : s.Touches t [l] [] [l.toPolder] []
  kept : ∀ q ∈ s.agenda, q ∈ t.agenda
  now : t.now = s.now

theorem entered {s : State} {l : Loc} {k : Nat} (hwf : s.mem.wf = true) (h : s.trapReady l k) (tr : Trap) :
    s.Entered ((Act.seq (.enterTrap l tr) (.each (homePlace l (s.ctx l).trapframe.toNat).toList fun p => .passLines p 64)).run s) l k tr := by
  obtain ⟨u, hu, ht⟩ := enterTrap_does h tr
  generalize (Act.seq (.enterTrap l tr) (.each (homePlace l (s.ctx l).trapframe.toNat).toList fun p => .passLines p 64)).run s = t at ht
  have hm := Writes_memKeptBut hu
  rw [frameBytes_length] at hm
  have hc : ∀ m, t.ctx m = ((Act.ctx l fun x => { x with sup := true, pc := x.trapvec, block := none }).run u).ctx m := fun m => by rw [ht.rest]; rfl
  have htm : t.mem = u.mem := by rw [ht.rest]; rfl
  refine ⟨?_, fun i hi => ?_, ?_, ?_, fun q hq => ht.kept q (Writes_kept hu q hq), ?_⟩
  · rw [ht.rest]
    exact hm
  · rw [State.word, State.num, htm, Writes_mem hu, frameBytes_eq]
    exact word_putAll hwf hi
  · rw [hc, run_ctx, ctx_apply_ctx, Writes_ctx hu]
  · refine ⟨fun m hm => ?_, fun m _ => ?_, fun m hm => ?_, fun m _ => ?_⟩
    · rw [hc, run_ctx, ctx_apply_ctx_other _ _ _ _ fun e => hm (List.mem_singleton.2 e), Writes_ctx hu]
    · rw [ht.rest]
      exact Writes_core hu m
    · rw [ht.far m fun e => hm (List.mem_singleton.2 e)]
      exact Writes_far hu m fun e => hm (List.mem_singleton.2 e)
    · rw [ht.rest]
      exact Writes_device hu m
  · rw [ht.rest]
    exact (Writes_now hu :)

/-! ## What a failed block gives back (R123, R164, R212, R227, R334) -/

/-- The act changes no memory, of the agents only what these lists name and is not bare; the agenda grows. -/
def Act.Yields (a : Act) (cs ks ps : List Loc) : Prop := ∀ s : State,
  s.Keeps (a.run s) cs ks ps [] ∧ (a.run s).bare = s.bare ∧ ∀ q ∈ s.agenda, q ∈ (a.run s).agenda

section yields
variable {cs ks ps : List Loc}

theorem yields_skip : Act.skip.Yields cs ks ps := fun s => ⟨keeps_refl s _ _ _ _, rfl, fun _ h => h⟩
theorem yields_seq {a b : Act} (ha : a.Yields cs ks ps) (hb : b.Yields cs ks ps) : (Act.seq a b).Yields cs ks ps := fun s =>
  ⟨keeps_trans (ha s).1 (hb _).1, (hb _).2.1.trans (ha s).2.1, fun q hq => (hb _).2.2 q ((ha s).2.2 q hq)⟩
theorem yields_read {k : State → Act} (h : ∀ s, (k s).Yields cs ks ps) : (Act.read k).Yields cs ks ps := fun s => h s s
theorem yields_each {α : Type} {xs : List α} {f : α → Act} (h : ∀ x ∈ xs, (f x).Yields cs ks ps) : (Act.each xs f).Yields cs ks ps := by
  induction xs with
  | nil => exact yields_skip
  | cons x xs ih => exact yields_seq (h x (.head _)) (ih fun y hy => h y (.tail _ hy))
theorem yields_when {c : Bool} {a : Act} (h : a.Yields cs ks ps) : (Act.when c a).Yields cs ks ps := by
  cases c
  · exact yields_skip
  · exact h
theorem yields_event {d : Nat} {e : Event} : (Act.event d e).Yields cs ks ps := fun s =>
  ⟨only_event s, rfl, fun _ hq => (mem_schedule _ _ _).2 (.inr hq)⟩
theorem yields_ctx {m : Loc} {g : Context → Context} (hm : m ∈ cs) (hg : ∀ c, (g c).bare = c.bare) : (Act.ctx m g).Yields cs ks ps := fun s =>
  ⟨only_ctx hm s, bare_ctx_of hg s, fun _ h => h⟩
theorem yields_core {m : Loc} {g : CoreState → CoreState} (hm : m.toCore ∈ ks) (hg : ∀ c, (g c).bare = c.bare) : (Act.core m g).Yields cs ks ps := fun s =>
  ⟨only_core hm s, bare_core_of hg s, fun _ h => h⟩
theorem yields_polder {m : Loc} {g : PolderState → PolderState} (hm : m.toPolder ∈ ps) (hg : ∀ c, (g c).bare = c.bare) : (Act.polder m g).Yields cs ks ps :=
  fun s => ⟨only_polder hm s, bare_polder_of hg s, fun _ h => h⟩
/-- What a commit may stir, of those agents. -/
theorem yields_stirring {a : Act} {l : Loc} (h : a.Stirring l) (ho : a.Only cs ks ps []) : a.Yields cs ks ps := fun s => ⟨ho s, Stirs_bare (h s), (h s).kept⟩

theorem yields_cancelWatch {l : Loc} {h : Handle} {u n : Bool} : (Act.cancelWatch l h u n).Yields cs ks ps := yields_read fun _ => yields_when yields_event

theorem yields_dropAhead {l : Loc} (hl : isAhead l = false) : (Act.dropAhead l).Yields (aheadPlaces l) [l.toCore] ps :=
  yields_stirring (stirring_dropAhead hl) <| only_read fun s => only_each fun x hx =>
    have hm := ahead_place hx
    only_seq (only_core (List.mem_singleton.2 (aheadPlaces_mates hl hm).2.1)) (only_ctx hm)
theorem yields_stirMembers {l : Loc} : (Act.stirMembers l).Yields cs ks ps := by
  refine yields_read fun s => ?_
  split
  · exact yields_each fun _ _ => yields_event
  · exact yields_skip
theorem yields_wakeCore {l : Loc} : (Act.wakeCore l).Yields (coreMates l) ks ps := yields_stirring stirring_wakeCore (only_wakeCore_mates rfl)

/-- One act of a block gives back what it has reserved. -/
def Act.unreserve (l : Loc) (op : CommitOp) : Act :=
  match op with
  | .watch _ h _ => .seq (.cancelWatch l h true false) (.dropListen l h)
  | .launch _ (some h) => .cancelWatch l h true false
  | .join _ _ h => .polder l fun q => { q with watches := q.watches.filter fun w => !(w.idx == h.entry && w.gen == h.gen) }
  | .compose ms => .each ms fun m => .seq (.ctx m fun x => { x with reserved := none }) (.event 0 (.contextAllocation m.toCore))
  | _ => .skip
theorem releaseBlock_eq (l : Loc) (b : Block) : Act.releaseBlock l b =
    .seq (.each b.acts fun a => .unreserve l a.2) (.core l fun k => { k with sfu := k.sfu.filter fun r => !(r.l == l && r.epoch == b.epoch) }) := by
  rw [Act.releaseBlock]
  congr 2

theorem yields_unreserve {l : Loc} {b : Block} {a : Nat × CommitOp} (ha : a ∈ b.acts) : (Act.unreserve l a.2).Yields b.composing ks [l.toPolder] := by
  have hms : ∀ ms, a.2 = .compose ms → ∀ m ∈ ms, m ∈ b.composing := fun ms e m hm => List.mem_flatMap.2 ⟨a, ha, by rw [e]; exact hm⟩
  unfold Act.unreserve
  split
  · exact yields_seq yields_cancelWatch (yields_polder (.head _) fun _ => rfl)
  · exact yields_cancelWatch
  · exact yields_polder (.head _) fun _ => rfl
  next ms e => exact yields_each fun m hm => yields_seq (yields_ctx (hms ms e m hm) fun _ => rfl) yields_event
  · exact yields_skip
theorem yields_releaseBlock {l : Loc} {b : Block} : (Act.releaseBlock l b).Yields b.composing [l.toCore] [l.toPolder] := by
  rw [releaseBlock_eq]
  exact yields_seq (yields_each fun a ha => yields_unreserve ha) (yields_core (.head _) fun _ => rfl)

end yields

theorem touches_widen {s t : State} {cs ks ps ds cs' ks' ps' : List Loc} (h : s.Touches t cs ks ps ds) (hc : cs ⊆ cs') (hk : ks ⊆ ks') (hp : ps ⊆ ps') :
    s.Touches t cs' ks' ps' ds :=
  ⟨fun m hm => h.ctxs m fun e => hm (hc e), fun m hm => h.cores m fun e => hm (hk e), fun m hm => h.polders m fun e => hm (hp e), h.devices⟩
theorem keeps_widen {s t : State} {cs ks ps ds cs' ks' ps' : List Loc} (h : s.Keeps t cs ks ps ds) (hc : cs ⊆ cs') (hk : ks ⊆ ks') (hp : ps ⊆ ps') :
    s.Keeps t cs' ks' ps' ds := ⟨h.1, touches_widen h.2 hc hk hp⟩
theorem leaves_dropAhead_ctx (l m : Loc) : (Act.dropAhead l).Leaves fun s => (s.ctx m).unblocked :=
  leaves_read fun _ => leaves_each fun x => leaves_seq (fun _ => rfl) fun s => by
    by_cases e : m = x.1
    · rw [e, run_ctx, ctx_apply_ctx]
      rfl
    · rw [run_ctx, ctx_apply_ctx_other _ _ _ _ e]

/-- The act keeps what holds. -/
def Act.Holds (P : State → Prop) (a : Act) : Prop := ∀ s, P s → P (a.run s)

section holds
variable {P : State → Prop}

theorem holds_skip : Act.skip.Holds P := fun _ h => h
theorem holds_seq {a b : Act} (ha : a.Holds P) (hb : b.Holds P) : (Act.seq a b).Holds P := fun _ h => hb _ (ha _ h)
theorem holds_read {k : State → Act} (h : ∀ s, (k s).Holds P) : (Act.read k).Holds P := fun s hs => h s s hs
theorem holds_each {α : Type} {xs : List α} {f : α → Act} (h : ∀ x ∈ xs, (f x).Holds P) : (Act.each xs f).Holds P := by
  induction xs with
  | nil => exact holds_skip
  | cons x xs ih => exact holds_seq (h x (.head _)) (ih fun y hy => h y (.tail _ hy))
theorem holds_when {c : Bool} {a : Act} (h : a.Holds P) : (Act.when c a).Holds P := by
  cases c
  · exact holds_skip
  · exact h
/-- What one act of several brings about, and all keep. -/
theorem each_brings {α : Type} {xs : List α} {f : α → Act} {x : α} (hx : x ∈ xs) (hset : ∀ t, P ((f x).run t))
    (hkeep : ∀ y ∈ xs, (f y).Holds P) (s : State) : P ((Act.each xs f).run s) := by
  induction xs generalizing s with
  | nil => exact absurd hx List.not_mem_nil
  | cons y ys ih =>
    rw [run_each_cons]
    rcases List.mem_cons.1 hx with rfl | hx
    · exact holds_each (fun z hz => hkeep z (.tail _ hz)) _ (hset s)
    · exact ih hx (fun z hz => hkeep z (.tail _ hz)) _

end holds

theorem holds_unreserved {m n : Loc} : (Act.ctx n fun x => { x with reserved := none }).Holds fun t => (t.ctx m).reserved = none := fun t ht => by
  change (((Act.ctx n fun x => { x with reserved := none }).run t).ctx m).reserved = none
  by_cases e : m = n
  · subst e
    rw [run_ctx, ctx_apply_ctx]
  · rw [run_ctx, ctx_apply_ctx_other _ _ _ _ e]
    exact ht
theorem holds_unreserve {l m : Loc} {op : CommitOp} : (Act.unreserve l op).Holds fun t => (t.ctx m).reserved = none := by
  unfold Act.unreserve
  split
  · exact holds_seq (holds_read fun _ => holds_when fun _ h => h) fun _ h => h
  · exact holds_read fun _ => holds_when fun _ h => h
  · exact fun _ h => h
  · exact holds_each fun n _ => holds_seq holds_unreserved fun _ h => h
  · exact holds_skip
/-- A slot that the block has reserved for a composition is free again. -/
theorem releaseBlock_frees (s : State) (l : Loc) {b : Block} {m : Loc} (hm : m ∈ b.composing) : (((Act.releaseBlock l b).run s).ctx m).reserved = none := by
  obtain ⟨a, ha, hm⟩ := List.mem_flatMap.1 hm
  rw [releaseBlock_eq]
  change (((Act.each b.acts fun a => .unreserve l a.2).run s).ctx m).reserved = none
  refine each_brings (P := fun t => (t.ctx m).reserved = none) ha (fun t => ?_) (fun _ _ => holds_unreserve) s
  split at hm
  next ms e =>
    rw [e]
    refine each_brings (P := fun t => (t.ctx m).reserved = none)
      (f := fun m => .seq (.ctx m fun x => { x with reserved := none }) (.event 0 (.contextAllocation m.toCore)))
      hm (fun u => ?_) (fun n _ => holds_seq holds_unreserved fun _ h => h) t
    change (((Act.ctx m fun x => { x with reserved := none }).run u).ctx m).reserved = none
    rw [run_ctx, ctx_apply_ctx]
  · cases hm
/-- A watch entry that the block has reserved is given back to its owner. -/
theorem releaseBlock_cancels (s : State) (l : Loc) {b : Block} {a : Nat × CommitOp} {w : WatchReg} {h : Handle} {v : Option Nat} (ha : a ∈ b.acts)
    (hop : a.2 = .watch w h v) (hgen : h.gen ≠ 0) :
    s.planned ((Act.releaseBlock l b).run s) (8 + s.way l h.owner) (.watchCancelArrival h true false) := by
  have hkept : ∀ c ∈ b.acts, (Act.unreserve l c.2).Holds fun t => t.bare = s.bare → (⟨s.now + (8 + s.way l h.owner),
      .event (.watchCancelArrival h true false)⟩ : Pending) ∈ t.agenda :=
    fun c hc t ht hb =>
      have ⟨_, hbare, hq⟩ := yields_unreserve (ks := []) (l := l) hc t
      hq _ (ht (hbare.symm.trans hb))
  have hpush := each_brings (x := a) ha (P := fun t => t.bare = s.bare → (⟨s.now + (8 + s.way l h.owner),
      .event (.watchCancelArrival h true false)⟩ : Pending) ∈ t.agenda)
    (f := fun a => .unreserve l a.2) (fun t hb => ?_) hkept s (yields_each (cs := b.composing) (ks := []) (fun c hc => yields_unreserve hc) s).2.1
  · rw [releaseBlock_eq]
    exact hpush
  · have hb : t.bare = s.bare := (yields_unreserve (ks := []) ha t).2.1.symm.trans hb
    have hway : t.way l h.owner = s.way l h.owner := by
      rw [bare_rest hb]
      rfl
    rw [hop]
    change _ ∈ ((Act.dropListen l h).run ((Act.cancelWatch l h true false).run t)).agenda
    have : (Act.cancelWatch l h true false).run t = (Act.event (8 + s.way l h.owner) (.watchCancelArrival h true false)).run t := by
      simp [Act.cancelWatch, hgen, hway]
    rw [this, ← bare_now hb]
    exact (mem_schedule _ _ _).2 (.inl rfl)

/-! ## A trap is taken, or ends or halts the context (R335, R338, R339) -/

theorem run_decompose {s : State} {l : Loc} (h : (s.ctx l).lead = none) : (Act.decompose l).run s = s := by simp [Act.decompose, h]

/-- What becomes of a trap, and when the predicted blocks are dropped, is settled. -/
def State.trapAct (s : State) (l : Loc) (t : Trap) : Act :=
  if (s.ctx l).sup then .doubleTrap l t t.epc
  else if (s.ctx l).trapvec = 0#64 then .endedByFault l (s.coreRec l t.cause t.inner t.detail t.tval (if t.cause = 0x0D then t.seq else 0))
  else if s.frameWaits l then .all [
    .each (homePlace l (s.ctx l).trapframe.toNat).toList .startZeroing, .ctx l fun x => { x with trapWait := some t }, .event 1 (.blockAbandon l 0)]
  else .seq (.enterTrap l t) (.each (homePlace l (s.ctx l).trapframe.toNat).toList fun p => .passLines p 64)

theorem bare_trapAct {s t : State} (h : t.bare = s.bare) (l : Loc) (tr : Trap) : t.trapAct l tr = s.trapAct l tr := by
  have hsup := bare_of_ctx h Context.sup (fun _ => rfl) l
  have hvec := bare_of_ctx h Context.trapvec (fun _ => rfl) l
  have hframe := bare_of_ctx h Context.trapframe (fun _ => rfl) l
  simp only [State.trapAct, hsup, hvec, hframe, bare_frameWaits h, bare_coreRec h]
theorem run_takeTrap {s : State} {l : Loc} (hl : isAhead l = false) (hlead : (s.ctx l).lead = none) (t : Trap) :
    (Act.takeTrap l t).run s = (s.trapAct l t).run ((Act.dropAhead l).run s) := by
  have hb : ((Act.dropAhead l).run s).bare = s.bare := Stirs_bare (stirring_dropAhead hl s)
  rw [← bare_trapAct hb, Act.takeTrap, run_seq, run_seq, run_decompose ((bare_of_ctx hb Context.lead (fun _ => rfl) l).trans hlead), run_read]
  rfl

/-- A context whose block has failed. -/
def Context.failed (c : Context) (b : Block) (f : BlockFault) : Context :=
  { c with block := none, pc := w64 b.addr, duties := { c.duties with dry := c.duties.dry || f.cause == 9 } }
/-- A failed block is given up before its trap is taken. -/
def Act.giveUp (l : Loc) (b : Block) (f : BlockFault) : Act := .all [.stirMembers l, .releaseBlock l b, .ctx l fun c => c.failed b f]
/-- The trap of its fault. -/
def faultTrap (b : Block) (f : BlockFault) : Trap := ⟨0, f.cause, f.detail, b.namo, 0, 0, b.addr, tvalOf f.cause f.addr, []⟩

/-- The state in which the trap of a failed block is taken. -/
structure State.GivenUp (s t : State) (l : Loc) (b : Block) (f : BlockFault) : Prop where
  keeps : s.Keeps t (coreMates l ++ b.composing) [l.toCore] [l.toPolder] []
  bare : t.bare = s.bare
  kept : ∀ q ∈ s.agenda, q ∈ t.agenda
  own : t.ctx l = (s.ctx l).failed b f
  freed : ∀ m ∈ b.composing, (t.ctx m).reserved = none
  cancels : ∀ a ∈ b.acts, ∀ w h v, a.2 = .watch w h v → h.gen ≠ 0 → s.planned t (8 + s.way l h.owner) (.watchCancelArrival h true false)

theorem given_up {s : State} {l : Loc} {b : Block} (hl : isAhead l = false) (hm : l ∉ b.composing) (f : BlockFault) :
    s.GivenUp ((Act.dropAhead l).run ((Act.giveUp l b f).run s)) l b f := by
  have h1 := yields_stirMembers (cs := []) (ks := []) (ps := []) (l := l) s
  rw [Act.giveUp, run_all_cons, run_all_cons, run_all_cons, run_all_nil]
  generalize (Act.stirMembers l).run s = u at h1
  have h2 := yields_releaseBlock (l := l) (b := b) u
  have hfree := fun m => releaseBlock_frees (m := m) u l (b := b)
  have hcancel := fun a ha w h v => releaseBlock_cancels (a := a) (w := w) (h := h) (v := v) u l (b := b) ha
  generalize (Act.releaseBlock l b).run u = v at h2 hfree hcancel
  have h3 := yields_ctx (cs := [l]) (ks := []) (ps := []) (g := fun c => c.failed b f) (.head _) (fun _ => rfl) v
  have hown : ((Act.ctx l fun c => c.failed b f).run v).ctx l = (v.ctx l).failed b f := by rw [run_ctx, ctx_apply_ctx]
  generalize (Act.ctx l fun c => c.failed b f).run v = w at h3 hown
  have h4 := yields_dropAhead (ps := []) hl w
  have hun := fun m => leaves_dropAhead_ctx l m w
  generalize (Act.dropAhead l).run w = t at h4 hun
  have hnow : u.now = s.now := bare_now h1.2.1
  have hway : ∀ m, u.way l m = s.way l m := fun m => by
    rw [bare_rest h1.2.1]
    rfl
  have hl4 : l ∉ aheadPlaces l := fun h => (aheadPlaces_mates hl h).1 rfl
  have hne : ∀ m ∈ b.composing, m ≠ l := fun m h e => hm (e ▸ h)
  refine ⟨?_, h4.2.1.trans (h3.2.1.trans (h2.2.1.trans h1.2.1)), fun q hq => h4.2.2 q (h3.2.2 q (h2.2.2 q (h1.2.2 q hq))), ?_, fun m h => ?_,
    fun a ha x h y hop hgen => ?_⟩
  · have k1 : s.Keeps u (coreMates l ++ b.composing) [l.toCore] [l.toPolder] [] := keeps_widen h1.1 (by simp) (by simp) (by simp)
    have k2 : u.Keeps v (coreMates l ++ b.composing) [l.toCore] [l.toPolder] [] := keeps_widen h2.1 (by simp) (by simp) (by simp)
    have k3 : v.Keeps w (coreMates l ++ b.composing) [l.toCore] [l.toPolder] [] := keeps_widen h3.1 (by simp [coreMates]) (by simp) (by simp)
    have k4 : w.Keeps t (coreMates l ++ b.composing) [l.toCore] [l.toPolder] [] :=
      keeps_widen h4.1 (fun m hm => List.mem_append_left _ (aheadPlaces_mates hl hm).2.2) (by simp) (by simp)
    exact keeps_trans k1 (keeps_trans k2 (keeps_trans k3 k4))
  · rw [h4.1.2.ctxs l hl4, hown, h2.1.2.ctxs l hm, h1.1.2.ctxs l List.not_mem_nil]
  · have hr := congrArg Context.reserved (hun m)
    have hw : (w.ctx m) = v.ctx m := h3.1.2.ctxs m fun e => hne m h (List.mem_singleton.1 e)
    exact hr.trans ((congrArg Context.reserved hw).trans (hfree m h))
  · have := hcancel a ha x h y hop hgen
    rw [State.planned, hway, hnow] at this
    exact h4.2.2 _ (h3.2.2 _ this)

/-- A FAILED BLOCK IS ABANDONED, and its trap taken (R334). -/
theorem exec_blockAbandon {s : State} {l : Loc} {ep : Nat} {b : Block} {f : BlockFault} (hs : s.calm l) (hb : s.blockAt l ep = some b) (hf : b.fault = some f)
    (ha : b.awaitsAtomic = false) (hm : l ∉ b.composing) (hc : s.cur = .blockAbandon l ep) :
    ∃ v, s.GivenUp v l b f ∧
      exec .blockAbandon s = .next ((Act.boundary l true).run ((Act.wakeCore l).run ((s.trapAct l (faultTrap b f)).run v))) := by
  refine ⟨_, given_up hs.own hm f, ?_⟩
  have hbare : ((Act.giveUp l b f).run s).bare = s.bare :=
    (yields_seq (cs := l :: b.composing) (ks := [l.toCore]) (ps := [l.toPolder]) yields_stirMembers (yields_seq (fun u =>
      have ⟨hk, h⟩ := yields_releaseBlock (l := l) (b := b) u
      ⟨keeps_widen hk (List.subset_cons_self ..) (List.Subset.refl _) (List.Subset.refl _), h⟩)
      (yields_seq (yields_ctx (g := fun c => c.failed b f) (.head _) fun _ => rfl) yields_skip)) s).2.1
  rw [← bare_trapAct hbare, ← run_takeTrap hs.own ((bare_of_ctx hbare Context.lead (fun _ => rfl) l).trans hs.lead)]
  change execBlockAbandon s = _
  rw [execBlockAbandon, hc]
  simp only [done, hs.trap, Act.abandon, run_read, hb, hf, hs.own, ha, Act.giveUp, Context.failed, faultTrap, run_all_cons, run_all_nil, Bool.false_eq_true,
      if_false]

/-! ## Behind a trap that has been entered (R335, R338) -/

/-- The context stays as it is, and the others but for their blocks. -/
structure State.Stays (s t : State) (l : Loc) : Prop where
  keeps : s.Keeps t (coreMates l) [] [] []
  own : t.ctx l = s.ctx l
  others : ∀ m, (t.ctx m).unblocked = (s.ctx m).unblocked
  kept : ∀ q ∈ s.agenda, q ∈ t.agenda
  now : t.now = s.now

theorem stays_trans {s t u : State} {l : Loc} (h : s.Stays t l) (k : t.Stays u l) : s.Stays u l :=
  ⟨keeps_trans h.keeps k.keeps, k.own.trans h.own, fun m => (k.others m).trans (h.others m), fun q hq => k.kept q (h.kept q hq), k.now.trans h.now⟩
theorem Stays_steady {s t : State} {l : Loc} (h : s.Stays t l) (hs : s.steady l) : t.steady l := by
  have hst : ∀ m, (t.ctx m).state = (s.ctx m).state := fun m => (congrArg Context.state (h.others m) :)
  have hpr : ∀ m, (t.ctx m).prio = (s.ctx m).prio := fun m => (congrArg Context.prio (h.others m) :)
  refine ⟨hs.own, (hst l).trans hs.runs, ?_, ?_, ?_, fun k hk => ?_⟩
  · rw [h.own]; exact hs.stop
  · rw [h.own]; exact hs.window
  · rw [h.own]; exact hs.trap
  · rw [hpr, hpr]
    exact hs.best k ((hst _).symm.trans hk)

theorem leaves_wakeCore_none (l m : Loc) : (Act.wakeCore l).Leaves fun s => (s.ctx m).block.isSome :=
  leaves_wakeCore (fun n g s => by
    by_cases e : m = n
    · subst e
      change (((Act.ctx m fun c => { c with block := c.block.map g }).run s).ctx m).block.isSome = _
      rw [run_ctx, ctx_apply_ctx]
      simp
    · change (((Act.ctx n fun c => { c with block := c.block.map g }).run s).ctx m).block.isSome = _
      rw [run_ctx, ctx_apply_ctx_other _ _ _ _ e]) fun _ _ => rfl
/-- Without held window writes nothing is written (R64). -/
theorem run_applyWindow {s : State} {l : Loc} (h : (s.ctx l).window = []) :
    (Act.applyWindow l).run s = (Act.ctx l fun c => { c with window := [] }).run s := by simp [Act.applyWindow, h]

theorem stays_wakeCore {s : State} {l : Loc} (hn : (s.ctx l).block = none) : s.Stays ((Act.wakeCore l).run s) l := by
  have hw := yields_wakeCore (ks := []) (ps := []) (l := l) s
  have hun := fun m => leaves_wakeCore_ctx l m s
  have hnone : (((Act.wakeCore l).run s).ctx l).block.isSome = (s.ctx l).block.isSome := leaves_wakeCore_none l l s
  rw [hn, Option.isSome_none, Option.isSome_eq_false_iff, Option.isNone_iff_eq_none] at hnone
  exact ⟨hw.1, by rw [unblocked_eq (hun l), hnone, ← hn], hun, hw.2.2, bare_now hw.2.1⟩

/-- Behind a trap, or where nothing is owed, the next block is fetched, and nothing else is done to the context. -/
theorem stays_boundary {s : State} {l : Loc} {trapped : Bool} (hs : s.steady l) (hu : trapped = false → s.unowed l) :
    s.Stays ((Act.boundary l trapped).run s) l ∧ s.planned ((Act.boundary l trapped).run s) 0 (.blockFetch l) := by
  rw [run_boundary hs hu, run_seq, run_applyWindow hs.window]
  have hk : s.Keeps ((Act.ctx l fun c => { c with window := [] }).run s) (coreMates l) [] [] [] := only_ctx (.head _) s
  have hc : ∀ m, ((Act.ctx l fun c => { c with window := [] }).run s).ctx m = s.ctx m := fun m => by
    by_cases e : m = l
    · subst e
      rw [run_ctx, ctx_apply_ctx, ← hs.window]
    · rw [run_ctx, ctx_apply_ctx_other _ _ _ _ e]
  have hq : ((Act.ctx l fun c => { c with window := [] }).run s).agenda = s.agenda := rfl
  have hnow : ((Act.ctx l fun c => { c with window := [] }).run s).now = s.now := rfl
  generalize (Act.ctx l fun c => { c with window := [] }).run s = v at hk hc hq hnow
  have hev : v.Keeps ((Act.seq (.event 0 (.blockFetch l)) (.event 0 (.contextDispatch l.toCore))).run v) (coreMates l) [] [] [] :=
    only_seq only_event only_event v
  refine ⟨⟨keeps_trans hk hev, hc l, fun m => congrArg Context.unblocked (hc m), fun q hm => ?_, hnow⟩, ?_⟩
  · exact (mem_schedule _ _ _).2 (.inr ((mem_schedule _ _ _).2 (.inr (hq ▸ hm))))
  · exact (mem_schedule _ _ _).2 (.inr ((mem_schedule _ _ _).2 (.inl (by rw [hnow]))))

theorem Entered_steady {s t : State} {l : Loc} {k : Nat} {tr : Trap} (h : s.Entered t l k tr) (hs : s.steady l) : t.steady l := by
  have hc : ∀ m, (t.ctx m).state = (s.ctx m).state ∧ (t.ctx m).prio = (s.ctx m).prio := fun m => by
    by_cases e : m = l
    · rw [e, h.own]
      exact ⟨rfl, rfl⟩
    · rw [h.touches.ctxs m fun hm => e (List.mem_singleton.1 hm)]
      exact ⟨rfl, rfl⟩
  refine ⟨hs.own, (hc l).1.trans hs.runs, ?_, ?_, ?_, fun k hk => ?_⟩
  · rw [h.own]; exact hs.stop
  · rw [h.own]; exact hs.window
  · rw [h.own]; exact hs.trap
  · rw [(hc _).2, (hc l).2]
    exact hs.best k ((hc _).1.symm.trans hk)

theorem trapAct_enters {s : State} {l : Loc} {k : Nat} (h : s.trapReady l k) (t : Trap) :
    s.trapAct l t = .seq (.enterTrap l t) (.each (homePlace l (s.ctx l).trapframe.toNat).toList fun p => .passLines p 64) := by
  obtain ⟨hsup, hvec, -, hwait, -⟩ := h
  rw [State.trapAct, hsup, if_neg hvec, hwait]
  rfl

/-- A failed block whose trap can be taken (R334, R337, R338). -/
theorem abandon_enters {s : State} {l : Loc} {ep k : Nat} {b : Block} {f : BlockFault} (hinv : s.Inv) (hs : s.calm l) (hb : s.blockAt l ep = some b)
    (hf : b.fault = some f) (ha : b.awaitsAtomic = false) (hm : l ∉ b.composing) (hc : s.cur = .blockAbandon l ep) (hr : s.trapReady l k) :
    ∃ v w t, exec .blockAbandon s = .next t ∧ s.GivenUp v l b f ∧ v.Entered w l k (faultTrap b f) ∧ w.Stays t l ∧
      w.planned t 0 (.blockFetch l) := by
  obtain ⟨v, hv, hexec⟩ := exec_blockAbandon hs hb hf ha hm hc
  have hr' := bare_trapReady hv.bare hr
  have hw := entered (by rw [bare_mem hv.bare]; exact hinv.mem) hr' (faultTrap b f)
  rw [← bare_trapAct hv.bare, trapAct_enters hr'] at hexec
  have h1 := stays_wakeCore (l := l) (by rw [hw.own])
  have h2 := stays_boundary (trapped := true) (Stays_steady h1 (Entered_steady hw (bare_steady hv.bare hs.tosteady))) fun h => (by cases h)
  exact ⟨v, _, _, hexec, hv, hw, stays_trans h1 h2.1, by rw [State.planned, ← h1.now]; exact h2.2⟩

theorem memKept_but {s t u v : State} {k n : Nat} (h1 : s.memKept t) (h2 : t.memKeptBut u k n) (h3 : u.memKept v) : s.memKeptBut v k n :=
  ⟨fun j hj => (h3.1 j).trans ((h2.1 j hj).trans (h1.1 j)), fun j => (h3.2.1 j).trans ((h2.2.1 j).trans (h1.2.1 j)),
    fun j => (h3.2.2 j).trans ((h2.2.2 j).trans (h1.2.2 j))⟩

theorem frameAt_kept {t u : State} {k w0 epc tval wp : Nat} (h : t.memKept u) (hf : t.frameAt k w0 epc tval wp) : u.frameAt k w0 epc tval wp := by
  have hw : ∀ a, u.word a = t.word a := fun _ => num_kept h
  simpa only [State.frameAt, hw] using hf
/-- The frame of a trap without a record stands in memory. -/
theorem Entered_frame {s t : State} {l : Loc} {k w : Nat} {tr : Trap} (h : s.Entered t l k tr) (hr : tr.record = []) (hv : tr.tval < 2 ^ 64)
    (hw : (frameWords (s.ctx l) tr ((s.ctx l).lcount != 0)).getD 0 0 % 2 ^ 64 = w) : t.frameAt k w (tr.epc % 2 ^ 57) tr.tval (s.ctx l).wp.toNat := by
  have hpc : tr.epc % 2 ^ 57 % 2 ^ 64 = tr.epc % 2 ^ 57 := by omega
  have hwp : (s.ctx l).wp.toNat % 2 ^ 64 = (s.ctx l).wp.toNat := by omega
  refine ⟨(h.frame 0 (by omega)).trans hw, (h.frame 1 (by omega)).trans ?_, (h.frame 2 (by omega)).trans ?_, (h.frame 3 (by omega)).trans ?_,
    (h.frame 4 (by omega)).trans ?_, (h.frame 5 (by omega)).trans ?_, (h.frame 6 (by omega)).trans ?_, (h.frame 7 (by omega)).trans ?_⟩
  · exact hpc
  · exact Nat.mod_eq_of_lt hv
  · exact hwp
  all_goals
    simp only [frameWords, hr]
    rfl

/-- The first word of the frame of a precise trap. -/
theorem faultTrap_word {c : Context} {b : Block} {f : BlockFault} {p : Bool} (hlow : f.cause < 256) (hn : b.namo < 256) :
    (frameWords c (faultTrap b f) p).getD 0 0 % 2 ^ 64 = b.namo * 2 ^ 32 + boolNat p * 2 ^ 30 + f.detail % 2 ^ 20 * 2 ^ 8 + f.cause := by
  have hp : boolNat p < 2 := by cases p <;> decide
  simp only [frameWords, faultTrap, field, List.getD_cons_zero]
  omega
theorem tvalOf_lt (c a : Nat) : tvalOf c a < 2 ^ 64 := by
  unfold tvalOf
  split
  · decide
  · exact Nat.mod_lt _ (by decide)

/-! ## Behind a trap that ends or halts the context (R339) -/

/-- The context has come to rest at `l`: its control state, no block and no held window write, and a record in the host queue; memory is as it was. -/
structure State.Ceases (s t : State) (l : Loc) (x : BitVec 3 × Bool × W64) (r : Nat × FaultRec) : Prop where
  memory : s.memKept t
  rests : ((t.ctx l).state, (t.ctx l).sup, (t.ctx l).pc) = x
  block : (t.ctx l).block = none
  window : (t.ctx l).window = []
  record : r ∈ (t.device l).hostRecs

/-- Memories, contexts and devices. -/
def State.grounds (s : State) : Memory × Memory × Memory × List (Loc × Context) × List (Loc × DeviceState) := (s.mem, s.side, s.hostMem, s.ctxs, s.devices)

section ceases
variable {s : State} {l : Loc} {x : BitVec 3 × Bool × W64} {r : Nat × FaultRec}

theorem ceases_grounds {t u : State} (h : s.Ceases t l x r) (e : u.grounds = t.grounds) : s.Ceases u l x r := by
  simp only [State.grounds, Prod.mk.injEq] at e
  obtain ⟨hm, hs, hh, hc, hd⟩ := e
  have hctx : u.ctx l = t.ctx l := by rw [State.ctx, hc]; rfl
  have hdev : u.device l = t.device l := by rw [State.device, hd]; rfl
  have hmem := h.memory
  refine ⟨?_, ?_, ?_, ?_, ?_⟩
  · rwa [State.memKept, hm, hs, hh]
  · rw [hctx]; exact h.rests
  · rw [hctx]; exact h.block
  · rw [hctx]; exact h.window
  · rw [hdev]; exact h.record
theorem holds_grounds {a : Act} (h : a.Leaves State.grounds) : a.Holds fun t => s.Ceases t l x r := fun t ht => ceases_grounds ht (h t)
theorem holds_rest {m : Loc} {g : Context → Context} (hg : ∀ c, ((g c).state, (g c).sup, (g c).pc) = (c.state, c.sup, c.pc))
    (hb : ∀ c, c.block = none → (g c).block = none) (hw : ∀ c, c.window = [] → (g c).window = []) :
    (Act.ctx m g).Holds fun t => s.Ceases t l x r := fun t ht => by
  by_cases e : l = m
  · subst e
    refine ⟨ht.memory, ?_, ?_, ?_, ht.record⟩
    · rw [run_ctx, ctx_apply_ctx, hg]; exact ht.rests
    · rw [run_ctx, ctx_apply_ctx]; exact hb _ ht.block
    · rw [run_ctx, ctx_apply_ctx]; exact hw _ ht.window
  · have hc : ((Act.ctx m g).run t).ctx l = t.ctx l := by rw [run_ctx, ctx_apply_ctx_other _ _ _ _ e]
    exact ⟨ht.memory, by rw [hc]; exact ht.rests, by rw [hc]; exact ht.block, by rw [hc]; exact ht.window, ht.record⟩
theorem holds_hostRec {m : Loc} {part : Nat} {q : FaultRec} : (Act.hostRec m part q).Holds fun t => s.Ceases t l x r := fun t ht => by
  refine ⟨ht.memory, ht.rests, ht.block, ht.window, ?_⟩
  by_cases e : l.toDev = m.toDev
  · change r ∈ (((Act.device m fun d => { d with hostRecs := d.hostRecs ++ [(part, q)] }).run t).device l).hostRecs
    rw [run_device, device_apply_device_of e]
    exact List.mem_append_left _ ht.record
  · change r ∈ (((Act.device m fun d => { d with hostRecs := d.hostRecs ++ [(part, q)] }).run t).device l).hostRecs
    rw [run_device, device_apply_device_other _ _ _ _ e]
    exact ht.record

theorem holds_dropAhead : (Act.dropAhead l).Holds fun t => s.Ceases t l x r :=
  holds_read fun _ => holds_each fun _ _ => holds_seq (holds_grounds fun _ => rfl) (holds_rest (fun _ => rfl) (fun _ _ => rfl) fun _ h => h)
theorem holds_applyWindow : (Act.applyWindow l).Holds fun t => s.Ceases t l x r := fun t ht => by
  rw [run_applyWindow ht.window]
  exact holds_rest (g := fun c => { c with window := [] }) (fun _ => rfl) (fun _ h => h) (fun _ _ => rfl) t ht
theorem holds_wakeCore : (Act.wakeCore l).Holds fun t => s.Ceases t l x r := by
  refine holds_read fun _ => holds_each fun y _ => holds_read fun _ => ?_
  have hb : ∀ m g, (Act.block m g).Holds fun t => s.Ceases t l x r := fun m g =>
    holds_rest (fun _ => rfl) (fun c h => by rw [h]; rfl) fun _ h => h
  split
  · split
    · split
      · exact holds_skip
      · split
        · exact holds_seq (hb _ _) (holds_grounds fun _ => rfl)
        · exact hb _ _
    · exact holds_skip
  · exact holds_skip
theorem leaves_commandDone : (Act.commandDone l).Leaves State.grounds := leaves_read fun _ _ => rfl
/-- A boundary leaves a context at rest that does not run. -/
theorem holds_boundary {st : BitVec 3} {sup : Bool} {pc : W64} (hst : st ≠ 2#3) : (Act.boundary l true).Holds fun t => s.Ceases t l (st, sup, pc) r := by
  refine holds_seq holds_applyWindow fun t ht => ?_
  have hs : (t.ctx l).state ≠ 2#3 := fun e => hst ((congrArg Prod.fst ht.rests).symm.trans e)
  rw [run_read]
  simp only [hs, ne_eq, not_false_eq_true, if_true]
  split
  · exact ht
  · exact holds_seq (holds_grounds leaves_commandDone) (holds_grounds fun _ => rfl) t ht
theorem ceases_behind {t : State} {st : BitVec 3} {sup : Bool} {pc : W64} (ht : s.Ceases t l (st, sup, pc) r) (hst : st ≠ 2#3) :
    s.Ceases ((Act.boundary l true).run ((Act.wakeCore l).run t)) l (st, sup, pc) r := holds_boundary hst _ (holds_wakeCore _ ht)

end ceases

/-- A double trap: the context is HALTED with `sup` set, and the record is posted (R339). -/
theorem doubleTrap_ceases {s v : State} {l : Loc} (hm : s.memKept v) (hw : (v.ctx l).window = []) (t : Trap) (pc : Nat) :
    s.Ceases ((Act.doubleTrap l t pc).run v) l (4#3, true, w64 pc) (v.partOf l, v.coreRec l t.cause t.inner t.detail t.tval 0) := by
  have hc : ((Act.doubleTrap l t pc).run v).ctx l =
      { v.ctx l with sup := true, haltCause := t.cause, state := 4#3, pc := w64 pc, block := none, stopReq := false } := by
    simp [Act.doubleTrap, Act.halt, Act.hostRec]
  refine ⟨hm, by rw [hc], by rw [hc], by rw [hc]; exact hw, ?_⟩
  have hd : ((Act.doubleTrap l t pc).run v).device l =
      { v.device l with hostRecs := (v.device l).hostRecs ++ [(v.partOf l, v.coreRec l t.cause t.inner t.detail t.tval 0)] } := by
    simp [Act.doubleTrap, Act.halt, Act.hostRec]
  rw [hd]
  exact List.mem_append_right _ (.head _)

theorem leaves_enterBuilt (p : Loc) : (Act.enterBuilt p).Leaves State.grounds := leaves_read fun _ => leaves_each fun _ => leaves_read fun _ => by
  split
  · exact leaves_when fun _ => rfl
  · exact leaves_skip
theorem leaves_tellSlice {p d : Loc} {part : Nat} {e : Event} : (Act.tellSlice p d part e).Leaves State.grounds :=
  leaves_read fun _ => leaves_ite (fun _ => rfl) (leaves_when fun _ => rfl)
theorem leaves_fatalFor (l : Loc) : (Act.fatalFor l).Leaves State.grounds :=
  leaves_seq (leaves_enterBuilt l) (leaves_read fun _ => leaves_each fun _ => leaves_read fun _ => leaves_each fun _ => leaves_tellSlice)
theorem leaves_performDuties {l : Loc} {d : Duties} {tree st : Nat} : (Act.performDuties l d tree st).Leaves State.grounds := by
  refine leaves_read fun s => leaves_seq ?_ (leaves_seq ?_ (leaves_seq ?_ (leaves_seq (leaves_when ?_) leaves_skip)))
  · split
    · exact fun _ => rfl
    · exact leaves_skip
  · refine leaves_ite ?_ leaves_skip
    simp only
    split
    · exact fun _ => rfl
    · exact leaves_skip
  · split
    · exact fun _ => rfl
    · exact leaves_skip
  · exact leaves_submit_of (fun _ _ _ => rfl) (fun _ => rfl) fun _ _ _ _ => rfl

theorem leaves_leaveSlots {l : Loc} {freed : Bool} : (Act.leaveSlots l freed).Leaves State.grounds := leaves_read fun _ _ => rfl
theorem holds_lateToHost {s : State} {l m : Loc} {x : BitVec 3 × Bool × W64} {r : Nat × FaultRec} {part thr : Nat} {q : FaultRec} :
    (Act.lateToHost m part thr q).Holds fun t => s.Ceases t l x r :=
  holds_seq holds_hostRec (holds_rest (fun c => by split <;> rfl) (fun c h => by split <;> exact h) fun c h => by split <;> exact h)

/-- A thread that ends leaves its context DORMANT. -/
theorem endContext_ceases {s v : State} {l : Loc} {st : BitVec 3} {sup : Bool} {pc : W64} {r : Nat × FaultRec} (hv : s.Ceases v l (st, sup, pc) r) (flt : Bool) :
    s.Ceases ((Act.endContext l flt).run v) l (0#3, false, pc) r := by
  rw [Act.endContext, run_read, run_all_cons, run_all_cons, run_all_cons, run_all_cons, run_all_cons]
  have h1 := holds_grounds (a := Act.leaveSlots l !flt) leaves_leaveSlots _ (holds_applyWindow _ (holds_dropAhead _ hv))
  generalize (Act.leaveSlots l !flt).run ((Act.applyWindow l).run ((Act.dropAhead l).run v)) = u at h1
  generalize hduties : (if (v.ctx l).holders.isEmpty then _ else _ : Act) = a
  have ha : a.Leaves State.grounds := by
    rw [← hduties]
    exact leaves_ite leaves_performDuties (leaves_each fun h => leaves_read fun _ => leaves_when fun _ => rfl)
  have h2 := holds_grounds ha _ h1
  generalize a.run u = w at h2
  refine (holds_seq (holds_each fun f _ => holds_lateToHost) <| holds_seq (holds_when holds_lateToHost) <| holds_seq (holds_grounds fun _ => rfl) <|
    holds_seq (holds_grounds fun _ => rfl) <| holds_seq (holds_grounds fun _ => rfl) holds_skip) _ ?_
  refine ⟨h2.memory, ?_, ?_, ?_, h2.record⟩
  · have hpc : (w.ctx l).pc = pc := congrArg (fun y => y.2.2) h2.rests
    rw [run_ctx, ctx_apply_ctx, ← hpc]
  · rw [run_ctx, ctx_apply_ctx]
  · rw [run_ctx, ctx_apply_ctx]

/-- A context without a trap vector is ended by its fault (R339). -/
theorem endedByFault_ceases {s v : State} {l : Loc} (hm : s.memKept v) (hb : (v.ctx l).block = none) (hw : (v.ctx l).window = []) (r : FaultRec) :
    s.Ceases ((Act.endedByFault l r).run v) l (0#3, false, (v.ctx l).pc) (v.partOf l, r) := by
  rw [Act.endedByFault, run_read, run_all_cons, run_all_cons, run_all_cons, run_all_nil]
  have hg := leaves_fatalFor l v
  generalize (Act.fatalFor l).run v = u at hg
  simp only [State.grounds, Prod.mk.injEq] at hg
  obtain ⟨hmem, hside, hhost, hctxs, -⟩ := hg
  have hc : u.ctx l = v.ctx l := by rw [State.ctx, hctxs]; rfl
  refine endContext_ceases (st := (v.ctx l).state) (sup := (v.ctx l).sup) ⟨?_, ?_, ?_, ?_, ?_⟩ true
  · rw [State.memKept, ← hmem, ← hside, ← hhost] at hm
    exact hm
  · exact congrArg (fun c : Context => (c.state, c.sup, c.pc)) hc
  · exact (congrArg Context.block hc).trans hb
  · exact (congrArg Context.window hc).trans hw
  · rw [Act.hostRec, run_device, device_apply_device]
    exact List.mem_append_right _ (.head _)

/-! ## A failed block is abandoned (R334, R338, R339) -/

section abandoned
variable {s : State} {l : Loc} {ep : Nat} {b : Block} {f : BlockFault} (hinv : s.Inv) (hs : s.calm l) (hb : s.blockAt l ep = some b) (hf : b.fault = some f)
  (ha : b.awaitsAtomic = false) (hm : l ∉ b.composing)
include hs hb hf ha hm

include hinv
theorem abandon_traps {k : Nat} (hlow : f.cause < 256) (hn : b.namo < 256) (hr : s.trapReady l k) :
    s.Runs .blockAbandon (.blockAbandon l ep) fun t => s.memKeptBut t k 64 ∧
      t.frameAt k (b.namo * 2 ^ 32 + boolNat ((s.ctx l).lcount != 0) * 2 ^ 30 + f.detail % 2 ^ 20 * 2 ^ 8 + f.cause)
        (b.addr % 2 ^ 57) (tvalOf f.cause f.addr) (s.ctx l).wp.toNat ∧
      (∃ d, t.ctx l = { s.ctx l with sup := true, pc := (s.ctx l).trapvec, block := none, duties := { (s.ctx l).duties with dry := d } }) ∧
      s.planned t 0 (.blockFetch l) ∧ s.Touches t (coreMates l ++ b.composing) [l.toCore] [l.toPolder] [] ∧
      (∀ m ∈ b.composing, (t.ctx m).reserved = none) ∧
      ∀ a ∈ b.acts, ∀ w h v, a.2 = .watch w h v → h.gen ≠ 0 → s.planned t (8 + s.way l h.owner) (.watchCancelArrival h true false) := by
  intro hc
  obtain ⟨v, w, t, hexec, hv, hw, ht, hfetch⟩ := abandon_enters hinv hs hb hf ha hm hc hr
  have hlc : (v.ctx l).lcount = (s.ctx l).lcount := by rw [hv.own]; rfl
  have hwp : (v.ctx l).wp = (s.ctx l).wp := by rw [hv.own]; rfl
  have hframe := Entered_frame hw rfl (tvalOf_lt _ _) (faultTrap_word hlow hn)
  refine ⟨t, hexec, memKept_but hv.keeps.1 hw.memory ht.keeps.1, ?_, ⟨(s.ctx l).duties.dry || f.cause == 9, ?_⟩, ?_, ?_, fun m hmem => ?_,
      fun a hact x h y hop hgen => ?_⟩
  · rw [hlc, hwp] at hframe
    exact frameAt_kept ht.keeps.1 hframe
  · rw [ht.own, hw.own, hv.own]
    rfl
  · rwa [State.planned, hw.now, bare_now hv.bare] at hfetch
  · have k1 : s.Touches v (coreMates l ++ b.composing) [l.toCore] [l.toPolder] [] := hv.keeps.2
    have k2 : v.Touches w (coreMates l ++ b.composing) [l.toCore] [l.toPolder] [] := touches_widen hw.touches (by simp [coreMates]) (by simp) (by simp)
    have k3 : w.Touches t (coreMates l ++ b.composing) [l.toCore] [l.toPolder] [] := touches_widen ht.keeps.2 (by simp) (by simp) (by simp)
    exact touches_trans k1 (touches_trans k2 k3)
  · have hne : m ≠ l := fun e => hm (e ▸ hmem)
    have h1 := congrArg Context.reserved (ht.others m)
    have h2 := congrArg Context.reserved (hw.touches.ctxs m fun h => hne (List.mem_singleton.1 h))
    exact h1.trans (h2.trans (hv.freed m hmem))
  · exact ht.kept _ (hw.kept _ (hv.cancels a hact x h y hop hgen))

end abandoned

/-! ## The commit of SYSC and of ERET (R101, R232, R338, R340) -/

/-- Without acts a commit does nothing between what stirs and the exit. -/
theorem commit_leaves {s : State} {l : Loc} {b : Block} {e : ExitAct} (hl : isAhead l = false) (he : b.exit = some e) (hcall : ∀ n r, e ≠ .call n r)
    (hsusp : ∀ n, e ≠ .suspend n) (hacts : b.acts = []) (hp : b.pops = []) (hw : b.writes = []) (hst : b.stores = []) :
    ∃ u, s.Stirs u l ∧ (Act.commit l b).run s =
      (Act.wakeCore l).run ((Act.leave l e).run ((Act.ctx l fun c => { c with fm := w64 (Nat.lor c.fm.toNat b.flags), block := none }).run u)) := by
  have hprep := stirring_prepare (b := b) hl (by rw [hw]; nofun) hst s
  have hpop := stirring_commitPops (l := l) hp ((Act.prepare l b).run s)
  refine ⟨_, stirs_trans hprep hpop, ?_⟩
  have hsort : b.actsInOrder = [] := by rw [Block.actsInOrder, hacts]; rfl
  cases e
  case call n r => exact absurd rfl (hcall n r)
  case suspend n => exact absurd rfl (hsusp n)
  all_goals
    simp only [Act.commit, Act.prepare, he, Act.suspends, hsort, run_all_cons, run_all_nil, run_skip, run_each_nil, Option.getD_some]

theorem left_bare (s : State) (l : Loc) (b : Block) (n : Nat) : (s.left l b n).bare = s.bare :=
  leaves_seq (bare_ctx_of (g := fun c => { c with fm := w64 (Nat.lor c.fm.toNat b.flags), block := none }) fun _ => rfl)
    (bare_ctx_of (g := fun c => { c with pc := w64 n }) fun _ => rfl) s
theorem bare_own {g : Context → Context} (hg : ∀ c, (g c).bare = c.bare) (l : Loc) (s : State) : ((Act.ctx l g).run s).bare = s.bare := bare_ctx_of hg s

/-- The frame's first word of a trap by `SYSC`. -/
theorem syscTrap_word {c : Context} {n code : Nat} {p : Bool} : (frameWords c ⟨3, 0x0F, code, 0, 0, 0, n, 0, []⟩ p).getD 0 0 % 2 ^ 64 =
    boolNat p * 2 ^ 30 + 3 * 2 ^ 28 + code % 2 ^ 20 * 2 ^ 8 + 0x0F := by
  have hp : boolNat p < 2 := by cases p <;> decide
  simp only [frameWords, field, List.getD_cons_zero]
  omega

theorem commitTouches_trans {s t u : State} {l : Loc} (h : s.CommitTouches t l) (k : t.CommitTouches u l) : s.CommitTouches u l := by
  obtain ⟨es, rs, e⟩ := h.core
  obtain ⟨es', rs', e'⟩ := k.core
  exact ⟨within_trans h.toCommitWithin k.toCommitWithin, es', rs', by rw [e', e]⟩
theorem commitTouches_own (s : State) (l : Loc) (g : Context → Context) : s.CommitTouches ((Act.ctx l g).run s) l := ⟨within_own, _, _, rfl⟩
theorem commitTouches_keeps {s t : State} {l : Loc} (h : s.Keeps t (coreMates l) [] [] []) : s.CommitTouches t l :=
  ⟨⟨fun m hm => ⟨_, h.2.ctxs m hm⟩, fun m _ => h.2.cores m List.not_mem_nil, fun m _ => h.2.polders m List.not_mem_nil,
    fun m => h.2.devices m List.not_mem_nil⟩, _, _, h.2.cores l List.not_mem_nil⟩
/-- The frame as memory holds it does not depend on what a commit stirs. -/
theorem bare_frameWord {s t : State} (h : t.bare = s.bare) (l : Loc) (i : Nat) : t.frameWord l i = s.frameWord l i := by
  simp only [State.frameWord, State.home64, bare_of_ctx h Context.trapframe (fun _ => rfl) l, bare_homeBytes h]

/-- The return from a trap changes the context alone (R340). -/
theorem leaveTrap_does {s : State} {l : Loc} (hs : s.steady l) (ho : s.unowed l) (w e : Nat) :
    ((Act.leaveTrap l w e).run s).steady l ∧ ((Act.leaveTrap l w e).run s).unowed l ∧
      ((Act.leaveTrap l w e).run s).ctx l = { s.ctx l with wp := BitVec.ofNat 17 w, pc := w64 e, sup := false } ∧
      s.CommitTouches ((Act.leaveTrap l w e).run s) l ∧ s.memKept ((Act.leaveTrap l w e).run s) ∧ ((Act.leaveTrap l w e).run s).now = s.now :=
  ⟨steady_own hs (fun _ => ⟨rfl, rfl, rfl, rfl⟩) fun k _ => hs.best k, unowed_own ho fun _ => ⟨rfl, rfl, rfl⟩, ctx_apply_ctx .., commitTouches_own s l _,
    memKept_refl s, rfl⟩

section commits
variable {s : State} {l : Loc} {ep : Nat} {b : Block} (hs : s.calm l) (hb : s.commits l ep b) (ha : b.acts = []) (hp : b.pops = []) (hw : b.writes = [])
  (hst : b.stores = [])
include hs hb ha hp hw hst

theorem sysc_commits {n c k : Nat} (hinv : s.Inv) (he : b.exit = some (.sysc n c)) (hr : s.trapReady l k) :
    s.Runs .blockCommit (.blockCommit l ep) fun t => s.memKeptBut t k 64 ∧
      t.frameAt k (boolNat ((s.ctx l).lcount != 0) * 2 ^ 30 + 3 * 2 ^ 28 + c % 2 ^ 20 * 2 ^ 8 + 0x0F) (n % 2 ^ 57) 0 (s.ctx l).wp.toNat ∧
      (∃ st u r, t.ctx l = { s.ctx l with
        sup := true, pc := (s.ctx l).trapvec, block := none, fm := w64 (Nat.lor (s.ctx l).fm.toNat b.flags), stale := st, unacquired := u, unreleased := r }) ∧
      s.planned t 0 (.blockFetch l) := by
  intro hc
  have hexec := exec_blockCommit hb (by rw [Block.migrates, he]) hc
  obtain ⟨u, hu, hrun⟩ := commit_leaves (s := s) hs.own he (by simp) (by simp) ha hp hw hst
  have hleft : (Act.commit l b).run s =
      (Act.wakeCore l).run ((Act.boundary l true).run ((Act.takeTrap l ⟨3, 0x0F, c, 0, 0, 0, n, 0, []⟩).run (u.left l b n))) := by
    rw [hrun, Act.leave, run_read]
    simp only [run_all_cons, run_all_nil]
    rfl
  have hbl : (u.left l b n).bare = s.bare := (left_bare u l b n).trans (Stirs_bare hu)
  have hcl := left_ctx u l b n
  generalize u.left l b n = v at hleft hbl hcl
  rw [run_takeTrap hs.own ((bare_of_ctx hbl Context.lead (fun _ => rfl) l).trans hs.lead), bare_trapAct hbl] at hleft
  have hd := yields_dropAhead (ps := []) hs.own v
  generalize (Act.dropAhead l).run v = w at hleft hd
  have hbw : w.bare = s.bare := hd.2.1.trans hbl
  have hr' := bare_trapReady hbw hr
  have hx := entered (by rw [bare_mem hbw]; exact hinv.mem) hr' ⟨3, 0x0F, c, 0, 0, 0, n, 0, []⟩
  rw [← bare_trapAct hbw, trapAct_enters hr'] at hleft
  generalize (Act.seq (.enterTrap l _) _).run w = x at hleft hx
  obtain ⟨h1, hfetch⟩ := stays_boundary (trapped := true) (Entered_steady hx (bare_steady hbw hs.tosteady)) fun h => (by cases h)
  have h2 := stays_wakeCore (s := (Act.boundary l true).run x) (l := l) (by rw [h1.own, hx.own])
  have hlc : (w.ctx l).lcount = (s.ctx l).lcount := bare_of_ctx hbw Context.lcount (fun _ => rfl) l
  have hwp : (w.ctx l).wp = (s.ctx l).wp := bare_of_ctx hbw Context.wp (fun _ => rfl) l
  have hframe := Entered_frame hx rfl (Nat.zero_lt_succ _) syscTrap_word
  rw [hlc, hwp] at hframe
  obtain ⟨st, r, b', hown, -⟩ := hu.own
  refine ⟨_, hexec.trans (congrArg _ hleft), memKept_but (bare_memKept hbw) hx.memory (memKept_trans h1.keeps.1 h2.keeps.1),
    frameAt_kept (memKept_trans h1.keeps.1 h2.keeps.1) hframe, ⟨st, (s.ctx l).unacquired, r, ?_⟩, ?_⟩
  · rw [h2.own, h1.own, hx.own, hd.1.2.ctxs l fun h => (aheadPlaces_mates hs.own h).1 rfl, hcl, hown]
  · rw [State.planned, hx.now, bare_now hbw] at hfetch
    exact h2.kept _ hfetch

theorem eret_commits {w e : Nat} (he : b.exit = some (.eret w e)) (ho : s.unowed l) :
    s.Runs .blockCommit (.blockCommit l ep) fun t => s.memKept t ∧ s.CommitTouches t l ∧ s.planned t 0 (.blockFetch l) ∧
      ∃ st u r, t.ctx l = { s.ctx l with
        sup := false, block := none, wp := BitVec.ofNat 17 (bits (s.frameWord l 3) 16 0), pc := w64 (bits (s.frameWord l 1) 56 0)
        fm := w64 (Nat.lor (s.ctx l).fm.toNat b.flags), stale := st, unacquired := u, unreleased := r } := by
  intro hc
  have hexec := exec_blockCommit hb (by rw [Block.migrates, he]) hc
  obtain ⟨u, hu, hrun⟩ := commit_leaves (s := s) hs.own he (by simp) (by simp) ha hp hw hst
  have hg : ∀ c : Context, ({ c with fm := w64 (Nat.lor c.fm.toNat b.flags), block := none } : Context).bare = c.bare := fun _ => rfl
  have hb1 := (bare_own hg l u).trans (Stirs_bare hu)
  have hc1 : ((Act.ctx l fun c => { c with fm := w64 (Nat.lor c.fm.toNat b.flags), block := none }).run u).ctx l =
      { u.ctx l with fm := w64 (Nat.lor (u.ctx l).fm.toNat b.flags), block := none } := by rw [run_ctx, ctx_apply_ctx]
  have hm1 := commitTouches_own u l fun c => { c with fm := w64 (Nat.lor c.fm.toNat b.flags), block := none }
  generalize (Act.ctx l fun c => { c with fm := w64 (Nat.lor c.fm.toNat b.flags), block := none }).run u = v at hrun hb1 hc1 hm1
  rw [Act.leave, run_read, run_seq, run_seq, bare_frameWord hb1, bare_frameWord hb1] at hrun
  have hd := stirring_dropAhead hs.own v
  have hd' := yields_dropAhead (ps := []) hs.own v
  generalize (Act.dropAhead l).run v = x at hrun hd hd'
  have hbx := hd'.2.1.trans hb1
  have hox : x.unowed l := ⟨(bare_of_ctx hbx Context.late (fun _ => rfl) l).trans ho.1,
    (bare_of_ctx hbx Context.surplus (fun _ => rfl) l).trans ho.2.1, (bare_of_ctx hbx Context.faultQ (fun _ => rfl) l).trans ho.2.2⟩
  obtain ⟨hsy, hoy, hcy, hty, hmy, hny⟩ :=
    leaveTrap_does (bare_steady hbx hs.tosteady) hox (bits (s.frameWord l 3) 16 0) (bits (s.frameWord l 1) 56 0)
  generalize (Act.leaveTrap l (bits (s.frameWord l 3) 16 0) (bits (s.frameWord l 1) 56 0)).run x = y at hrun hsy hoy hcy hty hmy hny
  obtain ⟨h1, hfetch⟩ := stays_boundary (trapped := false) hsy fun _ => hoy
  obtain ⟨st, r, b', hown, -⟩ := hu.own
  have hcx : x.ctx l = v.ctx l := hd'.1.2.ctxs l fun h => (aheadPlaces_mates hs.own h).1 rfl
  have h2 := stays_wakeCore (s := (Act.boundary l false).run y) (l := l) (by rw [h1.own, hcy, hcx, hc1])
  refine ⟨_, hexec.trans (congrArg _ hrun), memKept_trans (bare_memKept hbx) (memKept_trans hmy (memKept_trans h1.keeps.1 h2.keeps.1)), ?_, ?_,
    st, (s.ctx l).unacquired, r, ?_⟩
  · exact commitTouches_trans (Stirs_touches hu) <| commitTouches_trans hm1 <| commitTouches_trans (Stirs_touches hd) <| commitTouches_trans hty <|
      commitTouches_keeps (keeps_trans h1.keeps h2.keeps)
  · rw [State.planned, hny, bare_now hbx] at hfetch
    exact h2.kept _ hfetch
  · rw [h2.own, h1.own, hcy, hcx, hc1, hown]

end commits

/-! ## The cases of a trap that is not entered -/

theorem leaves_passLines (q : Place) (n : Nat) : (Act.passLines q n).Leaves State.grounds := fun s => by
  rw [(rippling_passLines (p := q.owner) rfl s).rest]
  rfl

section ends
variable {s v : State} {l : Loc} {b : Block} {f : BlockFault} (hs : s.calm l) (hv : s.GivenUp v l b f)
include hs hv

theorem trapAct_ends (hsup : (s.ctx l).sup = false) (hvec : (s.ctx l).trapvec = 0#64) :
    s.Ceases ((s.trapAct l (faultTrap b f)).run v) l (0#3, false, w64 b.addr) (s.partOf l, s.coreRec l f.cause 0 f.detail (tvalOf f.cause f.addr) 0) := by
  have hw : (v.ctx l).window = [] := (bare_of_ctx hv.bare Context.window (fun _ => rfl) l).trans hs.window
  have hact : s.trapAct l (faultTrap b f) = .endedByFault l (s.coreRec l f.cause 0 f.detail (tvalOf f.cause f.addr) 0) := by
    have hseq : (if (faultTrap b f).cause = 0x0D then (faultTrap b f).seq else 0) = 0 := by split <;> rfl
    rw [State.trapAct, hsup, if_neg Bool.false_ne_true, if_pos hvec, hseq]
    rfl
  have h := endedByFault_ceases hv.keeps.1 (by rw [hv.own]; rfl) hw (s.coreRec l f.cause 0 f.detail (tvalOf f.cause f.addr) 0)
  rw [bare_partOf hv.bare, hv.own] at h
  rw [hact]
  exact h
theorem trapAct_doubles (hsup : (s.ctx l).sup = true) :
    s.Ceases ((s.trapAct l (faultTrap b f)).run v) l (4#3, true, w64 b.addr) (s.partOf l, s.coreRec l f.cause 0 f.detail (tvalOf f.cause f.addr) 0) := by
  have hw : (v.ctx l).window = [] := (bare_of_ctx hv.bare Context.window (fun _ => rfl) l).trans hs.window
  have hact : s.trapAct l (faultTrap b f) = .doubleTrap l (faultTrap b f) b.addr := by simp [State.trapAct, hsup, faultTrap]
  have h := doubleTrap_ceases hv.keeps.1 hw (faultTrap b f) b.addr
  rw [bare_partOf hv.bare, bare_coreRec hv.bare] at h
  rw [hact]
  exact h
/-- The frame cannot be written: the second cause is that of its write. -/
theorem trapAct_fails (hsup : (s.ctx l).sup = false) (hvec : (s.ctx l).trapvec ≠ 0#64) (hfault : s.frameFault l ≠ 0) (hwait : s.frameWaits l = false) :
    s.Ceases ((s.trapAct l (faultTrap b f)).run v) l (4#3, true, (s.ctx l).trapvec)
      (s.partOf l, s.coreRec l (s.frameFault l) 0 0 (s.ctx l).trapframe.toNat 0) := by
  have hw : (v.ctx l).window = [] := (bare_of_ctx hv.bare Context.window (fun _ => rfl) l).trans hs.window
  have hok : v.frameOk l = false := by
    rw [State.frameOk, bare_frameFault hv.bare]
    simpa using hfault
  have hact : s.trapAct l (faultTrap b f) =
      .seq (.enterTrap l (faultTrap b f)) (.each (homePlace l (s.ctx l).trapframe.toNat).toList fun p => .passLines p 64) := by
    simp [State.trapAct, hsup, hvec, hwait]
  have hrun : (Act.enterTrap l (faultTrap b f)).run v =
      (Act.doubleTrap l ⟨0, s.frameFault l, 0, 0, 0, 0, b.addr, (s.ctx l).trapframe.toNat, []⟩ (s.ctx l).trapvec.toNat).run v := by
    rw [Act.enterTrap, run_read]
    simp only [hok, bare_frameFault hv.bare, bare_of_ctx hv.bare Context.trapframe (fun _ => rfl) l, bare_of_ctx hv.bare Context.trapvec (fun _ => rfl) l]
    rfl
  have h := doubleTrap_ceases hv.keeps.1 hw ⟨0, s.frameFault l, 0, 0, 0, 0, b.addr, (s.ctx l).trapframe.toNat, []⟩ (s.ctx l).trapvec.toNat
  rw [bare_partOf hv.bare, bare_coreRec hv.bare, show w64 (s.ctx l).trapvec.toNat = (s.ctx l).trapvec from BitVec.ofNat_toNat .. |>.trans (by simp)] at h
  rw [hact, run_seq, hrun]
  exact holds_each (fun p _ => holds_grounds (leaves_passLines p 64)) _ h

end ends

/-- A claim about a step is one about its outcome. -/
theorem Runs_outcome {s t : State} {i : Instr} {e : Event} {Q : State → Prop} (h : s.Runs i e Q) (hc : s.cur = e) (ht : exec i s = .next t) : Q t := by
  obtain ⟨u, hu, hq⟩ := h hc
  cases ht.symm.trans hu
  exact hq

/-- Settles O37: `abandon_traps` where the trap is entered, `abandon_ceases` where it ends or halts the context, and the commits of `SYSC` and `ERET`. -/
theorem trapsTaken : Obligations.TrapsTaken := by
  intro s l ep b k hinv hs
  refine ⟨fun f hb hf ha hm _ hlow hn hc => ?_, fun n c hb he ha hp hw hst hr => sysc_commits hs hb ha hp hw hst hinv he hr,
    fun w e hb he ha hp hw hst ho _ => eret_commits hs hb ha hp hw hst he ho⟩
  obtain ⟨v, hv, hexec⟩ := exec_blockAbandon hs hb hf ha hm hc
  refine ⟨_, hexec, fun hr => Runs_outcome (abandon_traps hinv hs hb hf ha hm hlow hn hr) hc hexec, fun hsup hvec => ?_, fun hsup => ?_,
    fun hsup hvec hfault hwait => ?_⟩
  · have h := ceases_behind (trapAct_ends hs hv hsup hvec) (by decide)
    have hrests := h.rests
    simp only [Prod.mk.injEq] at hrests
    exact ⟨h.memory, hrests.1, hrests.2.1, h.block, h.record⟩
  · have h := ceases_behind (trapAct_doubles hs hv hsup) (by decide)
    have hrests := h.rests
    simp only [Prod.mk.injEq] at hrests
    exact ⟨h.memory, hrests.1, hrests.2.1, hrests.2.2, h.record⟩
  · have h := ceases_behind (trapAct_fails hs hv hsup hvec hfault hwait) (by decide)
    have hrests := h.rests
    simp only [Prod.mk.injEq] at hrests
    exact ⟨h.memory, hrests.1, hrests.2.1, hrests.2.2, h.record⟩

end Sys2Proof.Machine
end

section
/-! SUPPORT. States in which a statement about the engines, or about packets that a router poisons, fails. -/

namespace Sys2Proof.Machine

-- The evaluations below are checked one after another: each of those that wait for the kernel at one time holds the stack of a thread.
set_option Elab.async false

/-! ## A refused command of the copy engine, which wakes its core -/

/-- A `FILL` of one byte at 0x100000, the first of the core memory, and the registration that it meets. -/
def filledEntry : RingEntry :=
  { (default : RingEntry) with seq := 1, owner := firstCtx, op := .eq2 0 (List.replicate 8 0#8 ++ bytesOf 8 0x100000) }
def filledLock : RangeLock := { (default : RangeLock) with dst := true, base := 0x100000, len := 1 }
/-- A block whose only instruction, a `READ` of `wp`, is ready to fire. -/
def Block.reading : Block :=
  { Block.jumping with exit := none, exits := 0, waiting := [(0, 0)], bytes := List.replicate 32 0#8 ++ [0x00#8, 0x00#8, 0x40#8, 0x02#8] }
def State.filling : State :=
  { State.reset with
    cur := .fill firstCtx 1
    ctxs := [(firstCtx, { Context.initial 0 with state := 2#3, block := some .reading })]
    cores := [(firstCtx, { CoreState.initial firstCtx with ring := [filledEntry] })]
    polders := [(firstCtx, { PolderState.initial with locks := [filledLock] })] }

theorem filling_wakes : ∃ t, exec .fill State.filling = .next t ∧ (t.ctx firstCtx).block.map Block.fired = some [0] := ⟨_, rfl, by decide +kernel⟩

/-- Refutes O47: the end of the refused `FILL` wakes the core, and the block of a context fires its slot. -/
theorem not_entriesAccepted : ¬ Obligations.EntriesAccepted := by
  intro h
  obtain ⟨-, -, -, -, -, -, heq2⟩ := h
  obtain ⟨t, ht, -, hkept, -⟩ := heq2 State.filling firstCtx 1 filledEntry _ _ .fill 3 rfl rfl (by simp) _ rfl rfl
  obtain ⟨u, hu, hfired⟩ := filling_wakes
  cases ht.symm.trans hu
  rw [hkept] at hfired
  exact absurd hfired (by decide +kernel)

/-! ## A stream that must be translated -/

/-- A `VDEC` of one element, its stream at 2^40. -/
def decEntry : RingEntry := { (default : RingEntry) with seq := 1, owner := firstCtx, op := .vec .dec (2 ^ 48) (2 ^ 40) 0 }
/-- The PASID table of its partition lies in the HBM of another device, which has not been written. -/
def State.decoding : State :=
  { State.reset with
    cur := .vectorBeat firstCtx
    cores := [(firstCtx, { CoreState.initial firstCtx with ring := [decEntry] })]
    polders := [(firstCtx, { PolderState.initial with areas := [(0, [0#64, 0#64, 0#64, 0#64, w64 (2 ^ 55)])] })] }

theorem decoding_inv : State.decoding.Inv := by
  obtain ⟨hinv, -⟩ := resetHolds
  exact { hinv with cores := ⟨List.pairwise_singleton _ _, by simp [State.decoding, Loc.toCore, firstCtx]⟩
                    polders := ⟨List.pairwise_singleton _ _, by simp [State.decoding, Loc.toPolder, firstCtx]⟩ }
theorem decoding_zeroes : ∃ t, exec .vectorBeat State.decoding = .next t ∧ (t.polder ⟨257, 0, 0, 0⟩).zeroing ≠ [] := ⟨_, rfl, by decide +kernel⟩

/-- Refutes O48: the walk of the stream's address starts the zeroing of a granule of another polder. -/
theorem not_enginesWork : ¬ Obligations.EnginesWork := by
  intro h
  obtain ⟨-, hbeat, -⟩ := h
  obtain ⟨t, ht, htouch, -⟩ := hbeat State.decoding firstCtx decEntry _ _ _ _ decoding_inv rfl rfl rfl rfl rfl rfl
  obtain ⟨u, hu, hzero⟩ := decoding_zeroes
  cases ht.symm.trans hu
  exact hzero (congrArg PolderState.zeroing (htouch.polders ⟨257, 0, 0, 0⟩ (by decide)))

/-! ## A prefetch that a router poisons -/

/-- A `PREF` of polder 1 is on its way to polder 0. -/
def wormLine : Place := ⟨⟨0, 0, 0, 0⟩, 0, 0⟩
def wormReq : Req := ⟨⟨0, 1, 0, 0⟩, 0, 0, 0, 64, false, .pref 0 none, false⟩
def worm : Pending := ⟨0, .event (.sluiceRequest wormReq wormLine)⟩
def State.poisoning : State := { State.reset with cur := .poisonedWormDiscard wormLine.owner false, agenda := [worm] }

/-- The same state, its free value taken. -/
def State.poisoned : State := Effect.tickFree.apply State.poisoning
theorem poisoning_inbound : State.poisoning.inbound wormLine.owner = [worm] := by decide +kernel
theorem poisoned_inbound : State.poisoned.inbound wormLine.owner = [worm] := by decide +kernel
/-- The one packet is the one that is poisoned. -/
theorem poisoning_run : (Act.poisonOne wormLine.owner).run State.poisoning = (Act.all [.fx (.cancel fun w => w == worm.work),
    .poisonedRead 0 worm.work, .count wormLine.owner 0x360]).run State.poisoned := by
  have hpick : [worm][Config.choice State.poisoning.free % max 1 [worm].length]? = some worm := by simp [Nat.mod_one]
  have hsame : (State.poisoned.agenda.filter fun x => x.work == worm.work).erase worm = [] := by decide +kernel
  have htick : Effect.tickFree.apply State.poisoning = State.poisoned := rfl
  rw [Act.poisonOne, run_withFree, run_read]
  simp only [htick, poisoned_inbound, hpick, hsame]
  rfl
theorem poisoning_counts : ∃ t, exec .poisonedWormDiscard State.poisoning = .next t ∧ (t.polder wormReq.who).counters ≠ [] := by
  refine ⟨(Act.poisonOne wormLine.owner).run State.poisoning, rfl, ?_⟩
  rw [poisoning_run]
  decide +kernel

/-- Refutes O52: the polder that sent the prefetch counts it as refused. -/
theorem not_powerAndLinks : ¬ Obligations.PowerAndLinks := by
  intro h
  obtain ⟨-, -, hworm, -⟩ := h State.poisoning ⟨0, 0, 0, 0⟩
  obtain ⟨-, -, hone⟩ := hworm wormLine.owner
  obtain ⟨t, ht, ⟨-, htouch⟩, -⟩ := hone worm poisoning_inbound rfl
  obtain ⟨u, hu, hcounts⟩ := poisoning_counts
  cases ht.symm.trans hu
  exact hcounts (congrArg PolderState.counters (htouch.polders wormReq.who (by decide)))

end Sys2Proof.Machine
end
